-- ==== Sys2Proof/Word.lean ====
section
/-!
DEFINITION. Sys2Proof/Word.lean: the machine's data sizes (R2, R4) and their plainest arithmetic.
-/

namespace Sys2Proof

/-- A doubleword, the size of a scalar register (R2). -/
abbrev Word := BitVec 64

/-- A word (R2), the size of an instruction of two halfwords (R243) and of one vector lane (R345). -/
abbrev Word32 := BitVec 32

/-- A byte of memory. -/
abbrev Byte := BitVec 8

/-- The value of all ones, which the manual writes -1 in a result register. -/
abbrev Word.minusOne : Word := BitVec.allOnes 64

end Sys2Proof
end

