-- ==== Sys2Proof/Machine/Float.lean ====
section
/-!
DEFINITION. Sys2Proof/Machine/Float.lean: the number formats (R133, R134), their rounding (R135), the float operations
(R136), the conversions (R140), and the integer and residue formats (R138, R139). Every operation computes exactly and
rounds once.
-/

namespace Sys2Proof.Machine

/-- A float format: widths of the exponent and mantissa fields and the bias (R134), the largest finite code (without
sign), and whether it has infinities. -/
structure Fmt where
  ebits : Nat
  mbits : Nat
  bias : Nat
  largest : Nat
  infinities : Bool
  deriving DecidableEq, Repr

def fmtF32 : Fmt := ⟨8, 23, 127, 0x7F7FFFFF, true⟩
def fmtBF16 : Fmt := ⟨8, 7, 127, 0x7F7F, true⟩
def fmtF16 : Fmt := ⟨5, 10, 15, 0x7BFF, true⟩
def fmtKF8 : Fmt := ⟨4, 3, 7, 0x7F, false⟩
def fmtKF6 : Fmt := ⟨3, 2, 3, 0x1F, false⟩

/-- A float value: NaN, an infinity, or the finite (-1)^neg * m * 2^e; a zero has m = 0 and keeps its sign. -/
inductive FVal where
  | nan
  | inf (neg : Bool)
  | fin (neg : Bool) (m : Nat) (e : Int)
  deriving DecidableEq, Repr

/-- The value of a code of a format with infinities and NaNs (R134), or of KF6. -/
def Fmt.value (f : Fmt) (x : Nat) : FVal :=
  let neg := x / 2 ^ (f.ebits + f.mbits) % 2 == 1
  let e := x / 2 ^ f.mbits % 2 ^ f.ebits
  let m := x % 2 ^ f.mbits
  if f.infinities && e = 2 ^ f.ebits - 1 then (if m = 0 then .inf neg else .nan)
  else if e = 0 then .fin neg m (1 - (f.bias : Int) - f.mbits)
  else .fin neg (m + 2 ^ f.mbits) ((e : Int) - f.bias - f.mbits)

def valF32 (x : Word32) : FVal := fmtF32.value x.toNat

/-- KF8's code that would be -0 is its NaN (R134). -/
def valKF8 (x : Nat) : FVal := if x = 0x80 then .nan else fmtKF8.value x

/-- m / 2^k rounded to nearest, ties to even. -/
def rneShift (m k : Nat) : Nat :=
  let q := m / 2 ^ k
  let r := m % 2 ^ k
  if 2 * r > 2 ^ k then q + 1 else if 2 * r = 2 ^ k && k ≠ 0 then q + q % 2 else q

/-- The code, without sign, of m * 2^e rounded to nearest even in a format whose exponents have no upper end. -/
def Fmt.roundCode (f : Fmt) (m : Nat) (e : Int) : Nat :=
  if m = 0 then 0
  else
    let q := max ((Nat.log2 m : Int) + e - f.mbits) (1 - (f.bias : Int) - f.mbits)
    let mant := if e ≥ q then m * 2 ^ (e - q).toNat else rneShift m (q - e).toNat
    (q + f.mbits + f.bias - 1).toNat * 2 ^ f.mbits + mant

/-- An F32 code with its sign. -/
def signedCode (neg : Bool) (code : Nat) : Word32 := BitVec.ofNat 32 ((if neg then 2 ^ 31 else 0) + code)

def nanF32 : Word32 := 0x7FC00000

/-- The F32 nearest to a value; overflow gives the infinity and NaN is canonical (R135). -/
def toF32 (v : FVal) : Word32 :=
  match v with
  | .nan => nanF32
  | .inf neg => signedCode neg 0x7F800000
  | .fin neg m e => signedCode neg (min (fmtF32.roundCode m e) 0x7F800000)

/-- The code of a narrower format under R140: an overflow or infinity saturates to the largest finite code, NaN to the
given one. The sign is bit `sign` of the code. -/
def Fmt.saturate (f : Fmt) (nan : Nat) (v : FVal) : Nat :=
  let sign := 2 ^ (f.ebits + f.mbits)
  match v with
  | .nan => nan
  | .inf neg => (if neg then sign else 0) + f.largest
  | .fin neg m e => (if neg then sign else 0) + min (f.roundCode m e) f.largest

/-! ## Arithmetic (R135) -/

/-- A signed integer of a sign and magnitude. -/
def signedInt (neg : Bool) (m : Nat) : Int := if neg then -(m : Int) else m

def FVal.neg : FVal → FVal
  | .nan => .nan
  | .inf n => .inf (!n)
  | .fin n m e => .fin (!n) m e

/-- The exact sum; an exact zero is -0 only when both addends are -0. -/
def FVal.add (x y : FVal) : FVal :=
  match x, y with
  | .nan, _ => .nan
  | _, .nan => .nan
  | .inf a, .inf b => if a = b then .inf a else .nan
  | .inf a, .fin _ _ _ => .inf a
  | .fin _ _ _, .inf b => .inf b
  | .fin na ma ea, .fin nb mb eb =>
    let e := min ea eb
    let s := signedInt na ma * 2 ^ (ea - e).toNat + signedInt nb mb * 2 ^ (eb - e).toNat
    if s = 0 then .fin (na && nb && ma == 0 && mb == 0) 0 0
    else .fin (decide (s < 0)) s.natAbs e

/-- The exact product; a zero carries the exclusive or of the signs. -/
def FVal.mul (x y : FVal) : FVal :=
  match x, y with
  | .nan, _ => .nan
  | _, .nan => .nan
  | .inf a, .inf b => .inf (a != b)
  | .inf a, .fin b m _ => if m = 0 then .nan else .inf (a != b)
  | .fin a m _, .inf b => if m = 0 then .nan else .inf (a != b)
  | .fin na ma ea, .fin nb mb eb => .fin (na != nb) (ma * mb) (ea + eb)

/-- The quotient to 64 bits and a sticky bit: enough for one correct rounding to F32 (R136). -/
def FVal.div (x y : FVal) : FVal :=
  match x, y with
  | .nan, _ => .nan
  | _, .nan => .nan
  | .inf _, .inf _ => .nan
  | .inf a, .fin b _ _ => .inf (a != b)
  | .fin a _ _, .inf b => .fin (a != b) 0 0
  | .fin na ma ea, .fin nb mb eb =>
    if mb = 0 then (if ma = 0 then .nan else .inf (na != nb))
    else
      let n := ma * 2 ^ 128
      .fin (na != nb) (2 * (n / mb) + (if n % mb = 0 then 0 else 1)) (ea - eb - 129)

/-- The integer square root of a number below 4^fuel, two bits at a time. -/
def isqrt : Nat → Nat → Nat
  | 0, _ => 0
  | fuel + 1, m =>
    let r := 2 * isqrt fuel (m / 4)
    if (r + 1) * (r + 1) ≤ m then r + 1 else r

/-- The square root to more than 60 bits and a sticky bit (R136). -/
def FVal.sqrt (x : FVal) : FVal :=
  match x with
  | .nan => .nan
  | .inf true => .nan
  | .inf false => .inf false
  | .fin n m e =>
    if m = 0 then .fin n 0 0
    else if n then .nan
    else
      let (m', e') := if e % 2 = 0 then (m, e) else (2 * m, e - 1)
      let big := m' * 2 ^ 128
      let r := isqrt 80 big
      .fin false (2 * r + (if r * r = big then 0 else 1)) (e' / 2 - 65)

/-- An F32 operation of two operands. -/
def f32op (op : FVal → FVal → FVal) (x y : Word32) : Word32 := toF32 (op (valF32 x) (valF32 y))

def f32Add : Word32 → Word32 → Word32 := f32op FVal.add
def f32Sub : Word32 → Word32 → Word32 := f32op (fun x y => x.add y.neg)
def f32Mul : Word32 → Word32 → Word32 := f32op FVal.mul
def f32Div : Word32 → Word32 → Word32 := f32op FVal.div
def f32Sqrt (x : Word32) : Word32 := toF32 (valF32 x).sqrt

/-- x * y + z and x * y - z with one rounding (R298, R349). -/
def f32Fma (x y z : Word32) : Word32 := toF32 (((valF32 x).mul (valF32 y)).add (valF32 z))
def f32Fms (x y z : Word32) : Word32 := toF32 (((valF32 x).mul (valF32 y)).add (valF32 z).neg)

def isNaN32 (x : Word32) : Bool := decide (0x7F800000 < x.toNat % 2 ^ 31)

/-- A total order of the codes that are no NaN, with -0 below +0. -/
def f32Key (x : Word32) : Int := if x.toNat < 2 ^ 31 then x.toNat else -((x.toNat - 2 ^ 31 : Nat) : Int) - 1

/-- VFMIN, VFMAX, FMIN, FMAX (R136). -/
def f32Pick (first : Int → Int → Bool) (x y : Word32) : Word32 :=
  if isNaN32 x then (if isNaN32 y then nanF32 else y)
  else if isNaN32 y then x
  else if first (f32Key x) (f32Key y) then x else y

def f32Min : Word32 → Word32 → Word32 := f32Pick (fun a b => decide (a ≤ b))
def f32Max : Word32 → Word32 → Word32 := f32Pick (fun a b => decide (b ≤ a))

/-- The value as an integer that orders codes, with -0 equal to +0. -/
def f32Ord (x : Word32) : Int := signedInt (decide (2 ^ 31 ≤ x.toNat)) (x.toNat % 2 ^ 31)

/-- The compares (R136): false for any NaN operand but the unordered one. -/
def f32Eq (x y : Word32) : Bool := !isNaN32 x && !isNaN32 y && decide (f32Ord x = f32Ord y)
def f32Lt (x y : Word32) : Bool := !isNaN32 x && !isNaN32 y && decide (f32Ord x < f32Ord y)
def f32Le (x y : Word32) : Bool := !isNaN32 x && !isNaN32 y && decide (f32Ord x ≤ f32Ord y)
def f32Un (x y : Word32) : Bool := isNaN32 x || isNaN32 y

/-- VFABS and VFNEG (R349). -/
def f32Abs (x : Word32) : Word32 := if isNaN32 x then nanF32 else x &&& 0x7FFFFFFF
def f32Neg (x : Word32) : Word32 := if isNaN32 x then nanF32 else x ^^^ 0x80000000

/-- VFEXPS (R136): the count is clamped to -300...300. -/
def f32Exps (x : Word32) (y : Word32) : Word32 :=
  let n : Int := max (-300) (min 300 y.toInt)
  match valF32 x with
  | .fin s m e => toF32 (.fin s m (e + n))
  | v => toF32 v

/-- VFFLOOR (R136). -/
def f32Floor (x : Word32) : Word32 :=
  match valF32 x with
  | .nan => nanF32
  | .inf _ => x
  | .fin s m e =>
    if e ≥ 0 || m = 0 then x
    else
      let d := 2 ^ (-e).toNat
      if m % d = 0 then x
      else if s then toF32 (.fin true (m / d + 1) 0) else toF32 (.fin false (m / d) 0)

/-! ## Conversions (R140) -/

/-- An integer clamped to the range of n bits. -/
def clampInt (n : Nat) (x : Int) : Int := max (-(2 ^ (n - 1) : Int)) (min (2 ^ (n - 1) - 1) x)

/-- A value rounded to an integer, toward zero or to nearest even, and clamped to I32; NaN gives 0. -/
def toI32 (nearest : Bool) (v : FVal) : Int :=
  match v with
  | .nan => 0
  | .inf s => if s then -(2 ^ 31) else 2 ^ 31 - 1
  | .fin s m e =>
    if e ≥ 0 then clampInt 32 (signedInt s (m * 2 ^ (min e 64).toNat))
    else
      let k := (-e).toNat
      clampInt 32 (signedInt s (if nearest then rneShift m k else m / 2 ^ k))

/-- An integer as the nearest F32. -/
def f32OfInt (x : Int) : Word32 := toF32 (.fin (decide (x < 0)) x.natAbs 0)

/-- The signed value of the low n bits of a number. -/
def sextNat (n x : Nat) : Int :=
  let y := x % 2 ^ n
  if y < 2 ^ (n - 1) then (y : Int) else (y : Int) - 2 ^ n

/-- An integer modulo 2^32. -/
def w32 (x : Int) : Word32 := BitVec.ofInt 32 x

/-! ## Residues (R139, R142) -/

/-- The modulus of the three value channels. -/
def resM : Nat := 256 * 255 * 253

/-- The residues of an integer in the four channels. -/
def resOf (x : Int) : Nat × Nat × Nat × Nat :=
  ((x % 256).toNat, (x % 255).toNat, (x % 253).toNat, (x % 251).toNat)

def resPack (r : Nat × Nat × Nat × Nat) : Nat := r.1 + 256 * r.2.1 + 65536 * r.2.2.1 + 16777216 * r.2.2.2

/-- A RES4 element's residues, each reduced first. -/
def resUnpack (x : Nat) : Nat × Nat × Nat × Nat :=
  (x % 256, x / 256 % 256 % 255, x / 65536 % 256 % 253, x / 16777216 % 256 % 251)

/-- The mixed-radix reconstruction and the signed rule. -/
def resValue (r : Nat × Nat × Nat × Nat) : Int :=
  let d0 : Int := r.1
  let d1 : Int := ((r.2.1 : Int) - d0) % 255
  let d2 : Int := (((r.2.2.1 : Int) - d0 - 3 * d1) * 211) % 253
  let x := d0 + 256 * d1 + 65280 * d2
  if x < 8257920 then x else x - resM

/-- VRFWD and VRREV on one lane. -/
def resFwd (x : Word32) : Word32 := BitVec.ofNat 32 (resPack (resOf x.toInt))
def resRev (x : Word32) : Word32 := w32 (resValue (resUnpack x.toNat))

end Sys2Proof.Machine
end

