-- ==== Sys2Proof/Config.lean ====
section
/-!
DEFINITION. Sys2Proof/Config.lean: what the manual leaves open and the model leaves free. Each constant is opaque, so
nothing can be proved of its values: a claim about the machine holds whatever they are (log entries 5, 7, 8).
-/

namespace Sys2Proof.Config

/-- A value that the manual does not fix; the step applies it to State.freeCtr, so each use is a fresh one (log 5). -/
opaque freeWord : Nat → Word

/-- The bytes of the key of an identity (R195, R197, R210, R225): keys that the vault generates or a session agrees on (log 7). -/
opaque keyByte : (identity position : Nat) → Byte

/-- The bytes of the first key of a fabric port, by port, direction and position, and of an inbox stream, by package, direction and position
(R209), as training and the forming of the domain leave them (log 7). -/
opaque portKeyByte : (port direction position : Nat) → Byte

opaque streamKeyByte : (package direction position : Nat) → Byte

/-- The CRC-64 of a flit's bytes and its parity, and the correction of a flit whose parity fails: the manual gives no polynomial and no code
(R216) (log 82). -/
opaque flitCrc : List Byte → Word

opaque flitParity : List Byte → Word

opaque flitCorrect : List Byte → List Byte

/-- The 96 bytes of the device's own signature over a message (R208, R213) (log 8). -/
opaque deviceSignature : List Byte → List Byte

/-- The opaque bytes of a folio's path-digest state (R164, R204): context, count of folios, position (log 5). -/
opaque digestStateByte : (context count position : Nat) → Byte

/-- The body of the vault's answer to an SPDM request where DMTF's standard, not the manual, gives its bytes (R213):
a code for the request and the request's bytes (log 8). -/
opaque spdmBody : Nat → List Byte → List Byte

/-- The digest of the requester's key that mutual authentication finds in a FINISH (R213, R226) (log 8). -/
opaque spdmRequester : List Byte → Option (List Byte)

/-- Measurements of what the device holds from manufacture (R213): by index, the vault's ROM and firmware and the clear routine (log 8). -/
opaque builtIn : Nat → List Byte

end Sys2Proof.Config
end

