-- ==== Sys2Proof/Machine/Cipher.lean ====
section
/-!
DEFINITION. Sys2Proof/Machine/Cipher.lean: AES-256 and the two modes in which the manual uses it: XTS for the lines of a world's pages (R195), and
GCM for sealed units, secured messages, transfers and flits (R197, R209, R216, R224, R225). The standards are those that the manual names.
-/

namespace Sys2Proof.Machine

/-! ## AES-256 -/

/-- The S-box and its inverse, entry i in bits [8i+7:8i]. -/
def sboxTable : Nat :=
  0x16bb54b00f2d99416842e6bf0d89a18cdf2855cee9871e9b948ed9691198f8e19e1dc186b95735610ef6034866b53e708a8bbd4b1f74dde8c6b4a61c2e2578ba08ae7a65eaf4566ca94ed58d6d37c8e779e4959162acd3c25c2406490a3a32e0db0b5ede14b8ee4688902a22dc4f816073195d643d7ea7c41744975fec130ccdd2f3ff1021dab6bcf5389d928f40a351a89f3c507f02f94585334d43fbaaefd0cf584c4a39becb6a5bb1fc20ed00d153842fe329b3d63b52a05a6e1b1a2c830975b227ebe28012079a059618c323c7041531d871f1e5a534ccf73f362693fdb7c072a49cafa2d4adf04759fa7dc982ca76abd7fe2b670130c56f6bf27b777c63

def invSboxTable : Nat :=
  0x7d0c2155631469e126d677ba7e042b17619953833cbbebc8b0f52aae4d3be0a0ef9cc9939f7ae52d0d4ab519a97f51605fec8027591012b131c7078833a8dd1ff45acd78fec0db9a2079d2c64b3e56fc1bbe18aa0e62b76f89c5291d711af1476edf751ce837f9e28535ade72274ac9673e6b4f0cecff297eadc674f4111913a6b8a130103bdafc1020f3fca8f1e2cd00645b3b80558e4f70ad3bc8c00abd890849d8da75746155edab9edfd5048706c92b6655dcc5ca4d41698688664f6f87225d18b6d49a25b76b224d92866a12e084ec3fa420b954cee3d23c2a632947b54cbe9dec444438e3487ff2f9b8239e37cfbd7f3819ea340bf38a53630d56a0952

def sbox (a : Nat) : Nat := sboxTable >>> (8 * a) % 256

def invSbox (a : Nat) : Nat := invSboxTable >>> (8 * a) % 256

/-- The product by x in GF(2^8). -/
def xtime (a : Nat) : Nat := if a < 128 then 2 * a else (2 * a) ^^^ 0x11B

/-- A product in GF(2^8) by a number below 16. -/
def gmul (a n : Nat) : Nat :=
  (if n.testBit 0 then a else 0) ^^^ (if n.testBit 1 then xtime a else 0) ^^^ (if n.testBit 2 then xtime (xtime a) else 0) ^^^
    (if n.testBit 3 then xtime (xtime (xtime a)) else 0)

def xorList (a b : List Nat) : List Nat := List.zipWith (· ^^^ ·) a b

/-- Bytes i, i + 1, ... of a block taken at a stride: the block is four columns of four bytes. -/
def pick (b : List Nat) (is : List Nat) : List Nat := is.map (fun i => b.getD i 0)

/-- ShiftRows and its inverse, as the source of each byte. -/
def shiftRows : List Nat := (List.range 16).map (fun i => (i + 4 * (i % 4)) % 16)

def unshiftRows : List Nat := (List.range 16).map (fun i => (i + 16 - 4 * (i % 4)) % 16)

/-- A column multiplied by a circulant matrix whose first row is given. -/
def mixColumn (row c : List Nat) : List Nat :=
  (List.range 4).map (fun i => (List.range 4).foldl (fun x j => x ^^^ gmul (c.getD j 0) (row.getD ((j + 4 - i) % 4) 0)) 0)

def mixColumns (row b : List Nat) : List Nat :=
  mixColumn row (b.take 4) ++ mixColumn row ((b.drop 4).take 4) ++ mixColumn row ((b.drop 8).take 4) ++ mixColumn row (b.drop 12)

/-- The next word of the key schedule: ws holds the words so far, the last first; i is its number. -/
def nextWord (i : Nat) (ws : List (List Nat)) : List Nat :=
  let prev := ws.headD []
  let t :=
    if i % 8 = 0 then
      match (prev.drop 1 ++ prev.take 1).map sbox with
      | x :: r => (x ^^^ 2 ^ (i / 8 - 1)) :: r
      | [] => []
    else if i % 8 = 4 then prev.map sbox
    else prev
  xorList (ws.getD 7 []) t

/-- The fifteen round keys of a key of 32 bytes. -/
def roundKeys (key : List Nat) : List (List Nat) :=
  let first := ((List.range 8).map (fun i => (key.drop (4 * i)).take 4)).reverse
  let ws := ((List.range 52).foldl (fun ws j => nextWord (j + 8) ws :: ws) first).reverse
  (List.range 15).map (fun r => ((ws.drop (4 * r)).take 4).flatten)

def encryptRounds : List (List Nat) → List Nat → List Nat
  | [], b => b
  | [k], b => xorList (pick (b.map sbox) shiftRows) k
  | k :: r, b => encryptRounds r (xorList (mixColumns [2, 3, 1, 1] (pick (b.map sbox) shiftRows)) k)

/-- A block of 16 bytes encrypted under round keys. -/
def aesEncrypt (ks : List (List Nat)) (b : List Nat) : List Nat := encryptRounds (ks.drop 1) (xorList b (ks.headD []))

/-- The rounds undone, the last key first. -/
def decryptRounds : List (List Nat) → List Nat → List Nat
  | [], b => b
  | [k], b => xorList ((pick b unshiftRows).map invSbox) k
  | k :: r, b => decryptRounds r (mixColumns [14, 11, 13, 9] (xorList ((pick b unshiftRows).map invSbox) k))

def aesDecrypt (ks : List (List Nat)) (b : List Nat) : List Nat :=
  let ks := ks.reverse
  decryptRounds (ks.drop 1) (xorList b (ks.headD []))

def toNats (bs : List Byte) : List Nat := bs.map (fun b => b.toNat)

def toBytes (ns : List Nat) : List Byte := ns.map (fun n => BitVec.ofNat 8 n)

/-- A byte string as a number, its first byte the lowest or the highest. -/
def leNat (bs : List Nat) : Nat := bs.foldr (fun b n => b + 256 * n) 0

def blockNat (bs : List Nat) : Nat := bs.foldl (fun n b => 256 * n + b) 0

def lowBytes (n x : Nat) : List Nat := (List.range n).map (fun i => x / 256 ^ i % 256)

def blockBytes (n x : Nat) : List Nat := (lowBytes n x).reverse

/-! ## XTS -/

/-- The tweak of the next block of a data unit. -/
def nextTweak (t : Nat) : Nat := (2 * t % 2 ^ 128) ^^^ (if 2 ^ 127 ≤ t then 0x87 else 0)

/-- The blocks of a data unit of n blocks passed through a cipher, each whitened with its tweak. -/
def xtsBlocks (cipher : List Nat → List Nat) : Nat → Nat → List Nat → List Nat
  | 0, _, _ => []
  | n + 1, t, bs =>
    let w := lowBytes 16 t
    xorList (cipher (xorList (bs.take 16) w)) w ++ xtsBlocks cipher n (nextTweak t) (bs.drop 16)

def xtsTweak (key : List Byte) (tweak : Nat) : Nat := leNat (aesEncrypt (roundKeys (toNats (key.drop 32))) (lowBytes 16 tweak))

/-- A line of 64 bytes encrypted under a key pair of 64 bytes with a tweak (R195). -/
def xtsEncrypt (key : List Byte) (tweak : Nat) (line : List Byte) : List Byte :=
  toBytes (xtsBlocks (aesEncrypt (roundKeys (toNats (key.take 32)))) 4 (xtsTweak key tweak) (toNats line))

def xtsDecrypt (key : List Byte) (tweak : Nat) (line : List Byte) : List Byte :=
  toBytes (xtsBlocks (aesDecrypt (roundKeys (toNats (key.take 32)))) 4 (xtsTweak key tweak) (toNats line))

/-! ## GCM -/

/-- A product in GF(2^128) as GCM numbers its bits. -/
def ghashMul (x y : Nat) : Nat :=
  ((List.range 128).foldl (fun (p : Nat × Nat) i =>
    (if x.testBit (127 - i) then p.1 ^^^ p.2 else p.1, if p.2.testBit 0 then p.2 >>> 1 ^^^ 0xE1000000000000000000000000000000 else p.2 >>> 1))
    (0, y)).1

/-- The blocks of a byte string, the last one filled with zeros. -/
def gcmBlocks : Nat → List Nat → List Nat
  | 0, _ => []
  | n + 1, bs => blockNat ((bs.take 16) ++ List.replicate (16 - (bs.take 16).length) 0) :: gcmBlocks n (bs.drop 16)

def blocksIn (n : Nat) : Nat := (n + 15) / 16

/-- The keystream from a counter block: an IV of 12 bytes and a 32-bit counter. -/
def gcmStream (ks : List (List Nat)) (iv : List Nat) (from_ : Nat) : Nat → List Nat
  | 0 => []
  | n + 1 => aesEncrypt ks (iv ++ blockBytes 4 from_) ++ gcmStream ks iv (from_ + 1) n

/-- Bytes under a keystream. -/
def cryptWith : List Byte → List Nat → List Byte
  | [], _ => []
  | b :: r, ks => (b ^^^ BitVec.ofNat 8 (ks.headD 0)) :: cryptWith r (ks.drop 1)

/-- Bytes under the keystream of a key and IV. -/
def gcmCrypt (ks : List (List Nat)) (iv : List Nat) (bs : List Byte) : List Byte := cryptWith bs (gcmStream ks iv 2 (blocksIn bs.length))

/-- The tag over additional data and ciphertext. -/
def gcmTag (ks : List (List Nat)) (iv aad cipher : List Nat) : List Nat :=
  let h := blockNat (aesEncrypt ks (List.replicate 16 0))
  let blocks := gcmBlocks (blocksIn aad.length) aad ++ gcmBlocks (blocksIn cipher.length) cipher ++
    [8 * aad.length * 2 ^ 64 + 8 * cipher.length]
  xorList (blockBytes 16 (blocks.foldl (fun y x => ghashMul (y ^^^ x) h) 0)) (gcmStream ks iv 1 1)

/-- AES-256-GCM: the ciphertext and the tag of 16 bytes. -/
def gcmSeal (key iv aad plain : List Byte) : List Byte × List Byte :=
  let ks := roundKeys (toNats key)
  let c := gcmCrypt ks (toNats iv) plain
  (c, toBytes (gcmTag ks (toNats iv) (toNats aad) (toNats c)))

/-- The plaintext, where the tag verifies. -/
def gcmOpen (key iv aad cipher tag : List Byte) : Option (List Byte) :=
  let ks := roundKeys (toNats key)
  if toBytes (gcmTag ks (toNats iv) (toNats aad) (toNats cipher)) = tag then some (gcmCrypt ks (toNats iv) cipher)
  else none

/-! ## Keys -/

/-- The first n bytes of the key of an identity: an odd identity names the key that a rekey packet carried, written as its number (R210,
R226). -/
def keyBytes (id n : Nat) : List Byte := if id % 2 = 1 then toBytes (lowBytes n (id / 2)) else (List.range n).map (Config.keyByte id)

end Sys2Proof.Machine
end

