-- ==== Sys2Proof/Machine/Tbl.lean ====
section
/-!
DEFINITION. Sys2Proof/Machine/Tbl.lean: a table from numbers to values as plain data, in one canonical form: keys
strictly rising, and no entry equal to what an unlisted key reads as. Memory and every register file are such tables.
-/

namespace Sys2Proof.Machine

/-- A table: the entries that differ from the value an unlisted key reads as. -/
abbrev Tbl (α : Type) := List (Nat × α)

/-- The value at a key; d is what an unlisted key reads as. -/
def Tbl.get {α : Type} (d : α) (t : Tbl α) (k : Nat) : α :=
  match t with
  | [] => d
  | (j, v) :: r => if j = k then v else Tbl.get d r k

/-- The table with a key removed. -/
def Tbl.erase {α : Type} (t : Tbl α) (k : Nat) : Tbl α :=
  match t with
  | [] => []
  | (j, v) :: r => if j = k then Tbl.erase r k else (j, v) :: Tbl.erase r k

/-- The table with a listed value at a key. -/
def Tbl.insert {α : Type} (t : Tbl α) (k : Nat) (x : α) : Tbl α :=
  match t with
  | [] => [(k, x)]
  | entry :: rest => if entry.1 < k then entry :: Tbl.insert rest k x else (k, x) :: (if entry.1 = k then rest else entry :: rest)

/-- The table after a write: writing what an unlisted key reads as removes the entry. -/
def Tbl.set {α : Type} [DecidableEq α] (d : α) (t : Tbl α) (k : Nat) (x : α) : Tbl α :=
  if x = d then Tbl.erase t k else Tbl.insert t k x

/-- Every listed key is at least n, keys rise strictly, and no entry is d. -/
def Tbl.wfFrom {α : Type} [DecidableEq α] (d : α) (n : Nat) (t : Tbl α) : Bool :=
  match t with
  | [] => true
  | (j, v) :: r => decide (n ≤ j) && decide (v ≠ d) && Tbl.wfFrom d (j + 1) r

/-- The canonical form. -/
def Tbl.wf {α : Type} [DecidableEq α] (d : α) (t : Tbl α) : Bool := Tbl.wfFrom d 0 t

/-- The table whose values at 0 to n - 1 are f's. -/
def Tbl.tabulateFrom {α : Type} [DecidableEq α] (d : α) (f : Nat → α) : Nat → Nat → Tbl α
  | _, 0 => []
  | i, n + 1 =>
    if f i = d then Tbl.tabulateFrom d f (i + 1) n else (i, f i) :: Tbl.tabulateFrom d f (i + 1) n

/-- The table whose values at 0 to n - 1 are f's, and d elsewhere. -/
def Tbl.tabulate {α : Type} [DecidableEq α] (d : α) (n : Nat) (f : Nat → α) : Tbl α :=
  Tbl.tabulateFrom d f 0 n

/-- The table with the entries whose keys lie in [lo, hi) removed. -/
def Tbl.clear {α : Type} (t : Tbl α) (lo hi : Nat) : Tbl α :=
  t.filter (fun e => decide (e.1 < lo) || decide (hi ≤ e.1))

end Sys2Proof.Machine
end

