-- ==== Sys2Proof/Syntax.lean ====
section
/-!
DEFINITION. Sys2Proof/Syntax.lean: the steps of the machine. One constructor of Instr for each row of the opcode
table: the 254 instructions with encodings (their fields are the encoding's, lowest bit first), and the 106 steps
the table lists without one (host writes, firmware actions, and what hardware does on its own), whose arguments say
which agent, entry or input the step is about. PAD, ALIGN and C.HINT carry no field: executed, a PAD of
any kind does nothing (R325) and C.HINT's hint is ignored (R254); the checks that a pad's kind decides read it from the
word (R192, R307), and ALIGN takes its immediate from the word its context has fetched (Ctx.word). The compiler numbers
constructors with fields up to 243, which is why these three give theirs up, and why the constructors that a decoded word
can build stand first (log entry 6).
-/

namespace Sys2Proof

/-- A task record of the worklist (R98), with the stamps that the deque keeps beside its 32 bytes (R114). -/
structure TaskRec where
  header : Word
  dword1 : Word
  arg0 : Word
  arg1 : Word
  /-- the push sequence (R114) -/
  seq : Nat := 0
  /-- the pushing package's index (R114) -/
  pkg : Nat := 0
  /-- the TCB of a released task (R98, R107) -/
  tcb : Option Nat := none
  /-- the reserved deque entry that the record holds, if any (R99) -/
  reserve : Option Nat := none
  deriving DecidableEq, Repr

/-- The agent that performs accesses to an address (R7, R52, R55): a tile's scratchpad, a cluster's pool, a bank core
of a package, or device register space. -/
inductive Home where
  | tile (unit : Nat)
  | pool (cluster : Nat)
  | bank (package core : Nat)
  | registers (package : Nat)
  deriving DecidableEq, Repr

/-- What another package reports at a floor exchange (R101, R103): its floor (2^32 when empty), how many in-bound
records it holds, whether it sampled idle, and its sums of inter-package messages (R112). -/
structure PeerFloor where
  package : Nat
  floor : Nat
  inBound : Nat
  idle : Bool
  sent : Nat
  received : Nat
  deriving DecidableEq, Repr

/-- A slot entry of an install request (R186): its two dwords. -/
structure SlotValue where
  head : Word
  value : Word
  deriving DecidableEq, Repr

/-- The two paths by which SPDM requests reach the vault (R213). -/
inductive SpdmPath where
  | mailbox
  | ethernet
  deriving DecidableEq, Repr

/-- The channels that hold an active and a pending key slot (R210). -/
inductive Channel where
  | protectedTransfer
  | debug
  | stewardVault
  deriving DecidableEq, Repr

/-- A flit as a port receives it (R216): its 256 bytes. -/
structure Flit where
  port : Nat
  bytes : List Byte
  deriving DecidableEq, Repr

/-- The steps of the machine, one constructor for each row of the opcode table. -/
inductive Instr where
  /-- ADD (R278). Adds two scalar registers modulo 2^64. -/
  | add (d : BitVec 6) (a : BitVec 6) (b : BitVec 6)
  /-- SUB (R278). Subtracts wb from wa modulo 2^64. -/
  | sub (d : BitVec 6) (a : BitVec 6) (b : BitVec 6)
  /-- AND (R278). Bitwise AND of two registers. -/
  | and (d : BitVec 6) (a : BitVec 6) (b : BitVec 6)
  /-- OR (R278). Bitwise OR of two registers. -/
  | or (d : BitVec 6) (a : BitVec 6) (b : BitVec 6)
  /-- XOR (R278). Bitwise XOR of two registers. -/
  | xor (d : BitVec 6) (a : BitVec 6) (b : BitVec 6)
  /-- SHL (R278). Shifts wa left by wb[5:0]. -/
  | shl (d : BitVec 6) (a : BitVec 6) (b : BitVec 6)
  /-- SHR (R278). Logical right shift of wa by wb[5:0]. -/
  | shr (d : BitVec 6) (a : BitVec 6) (b : BitVec 6)
  /-- SHA (R278). Arithmetic right shift of wa by wb[5:0]. -/
  | sha (d : BitVec 6) (a : BitVec 6) (b : BitVec 6)
  /-- MIN (R278). Signed minimum of two registers. -/
  | min (d : BitVec 6) (a : BitVec 6) (b : BitVec 6)
  /-- MAX (R278). Signed maximum of two registers. -/
  | max (d : BitVec 6) (a : BitVec 6) (b : BitVec 6)
  /-- MINU (R278). Unsigned minimum of two registers. -/
  | minu (d : BitVec 6) (a : BitVec 6) (b : BitVec 6)
  /-- MAXU (R278). Unsigned maximum of two registers. -/
  | maxu (d : BitVec 6) (a : BitVec 6) (b : BitVec 6)
  /-- SEQ (R278). Sets wd to 1 if the operands are equal. -/
  | seq (d : BitVec 6) (a : BitVec 6) (b : BitVec 6)
  /-- SNE (R278). Sets wd to 1 if the operands differ. -/
  | sne (d : BitVec 6) (a : BitVec 6) (b : BitVec 6)
  /-- SLT (R278). Signed less-than into wd. -/
  | slt (d : BitVec 6) (a : BitVec 6) (b : BitVec 6)
  /-- SLTU (R278). Unsigned less-than into wd. -/
  | sltu (d : BitVec 6) (a : BitVec 6) (b : BitVec 6)
  /-- MUL (R278). Low 64 bits of the product. -/
  | mul (d : BitVec 6) (a : BitVec 6) (b : BitVec 6)
  /-- MULH (R278). High 64 bits of the signed product. -/
  | mulh (d : BitVec 6) (a : BitVec 6) (b : BitVec 6)
  /-- MULHU (R278). High 64 bits of the unsigned product. -/
  | mulhu (d : BitVec 6) (a : BitVec 6) (b : BitVec 6)
  /-- DIV (R278). Signed division toward zero, never trapping. -/
  | div (d : BitVec 6) (a : BitVec 6) (b : BitVec 6)
  /-- DIVU (R278). Unsigned division, never trapping. -/
  | divu (d : BitVec 6) (a : BitVec 6) (b : BitVec 6)
  /-- REM (R278). Signed remainder with the sign of the dividend. -/
  | rem (d : BitVec 6) (a : BitVec 6) (b : BitVec 6)
  /-- REMU (R278). Unsigned remainder. -/
  | remu (d : BitVec 6) (a : BitVec 6) (b : BitVec 6)
  /-- SEL (R278). Writes wb to wd if wa is non-zero, else keeps wd. -/
  | sel (d : BitVec 6) (a : BitVec 6) (b : BitVec 6)
  /-- CLZ (R278). Counts leading zero bits of wa. -/
  | clz (d : BitVec 6) (a : BitVec 6)
  /-- POPC (R278). Counts one bits of wa. -/
  | popc (d : BitVec 6) (a : BitVec 6)
  /-- EXTS_B (R278). Sign-extends the low byte. -/
  | extsB (d : BitVec 6) (a : BitVec 6)
  /-- EXTS_H (R278). Sign-extends the low halfword. -/
  | extsH (d : BitVec 6) (a : BitVec 6)
  /-- EXTS_W (R278). Sign-extends the low word. -/
  | extsW (d : BitVec 6) (a : BitVec 6)
  /-- EXTZ_B (R278). Zero-extends the low byte. -/
  | extzB (d : BitVec 6) (a : BitVec 6)
  /-- EXTZ_H (R278). Zero-extends the low halfword. -/
  | extzH (d : BitVec 6) (a : BitVec 6)
  /-- EXTZ_W (R278). Zero-extends the low word. -/
  | extzW (d : BitVec 6) (a : BitVec 6)
  /-- ADDI (R279). Adds a sign-extended 12-bit immediate. -/
  | addi (d : BitVec 6) (a : BitVec 6) (i : BitVec 12)
  /-- ANDI (R279). ANDs a sign-extended immediate. -/
  | andi (d : BitVec 6) (a : BitVec 6) (i : BitVec 12)
  /-- ORI (R279). ORs a sign-extended immediate. -/
  | ori (d : BitVec 6) (a : BitVec 6) (i : BitVec 12)
  /-- XORI (R279). XORs a sign-extended immediate. -/
  | xori (d : BitVec 6) (a : BitVec 6) (i : BitVec 12)
  /-- SLTI (R279). Signed compare against an immediate. -/
  | slti (d : BitVec 6) (a : BitVec 6) (i : BitVec 12)
  /-- SLTIU (R279). Unsigned compare against a sign-extended immediate. -/
  | sltiu (d : BitVec 6) (a : BitVec 6) (i : BitVec 12)
  /-- SHLI (R279). Shifts left by an immediate count. -/
  | shli (d : BitVec 6) (a : BitVec 6) (s : BitVec 6)
  /-- SHRI (R279). Logical right shift by an immediate count. -/
  | shri (d : BitVec 6) (a : BitVec 6) (s : BitVec 6)
  /-- SHAI (R279). Arithmetic right shift by an immediate count. -/
  | shai (d : BitVec 6) (a : BitVec 6) (s : BitVec 6)
  /-- LI (R313). Loads a sign-extended 18-bit immediate. -/
  | li (d : BitVec 6) (i : BitVec 18)
  /-- LIS (R313). Shifts wd left by 18 and ORs in an immediate. -/
  | lis (d : BitVec 6) (i : BitVec 18)
  /-- RBACQ (R329). Acquires the next register block of a file, stalling if the pool is empty. -/
  | rbacq (d : BitVec 6) (a : BitVec 6)
  /-- RBACQT (R329). Tries to acquire a register block, returning -1 instead of stalling. -/
  | rbacqt (d : BitVec 6) (a : BitVec 6)
  /-- RBREL (R330). Returns a held register block to the pool. -/
  | rbrel (a : BitVec 6) (b : BitVec 6)
  /-- IXSET (R305). Sets an index register from wa. -/
  | ixset (x : BitVec 2) (a : BitVec 6)
  /-- IXADD (R305). Adds wa to an index register. -/
  | ixadd (x : BitVec 2) (a : BitVec 6)
  /-- LOX (R315). Writes an operand-extension register from wa. -/
  | lox (o : BitVec 3) (a : BitVec 6)
  /-- MOVOX (R320). Copies an operand-extension register into wd. -/
  | movox (d : BitVec 6) (o : BitVec 3)
  /-- MOVX (R321). Reads the register named by an index register plus offset, with bound checks. -/
  | movx (d : BitVec 6) (x : BitVec 2) (i : BitVec 12)
  /-- MOVXW (R321). Writes wd into the register named by an index register plus offset, with bound checks. -/
  | movxw (d : BitVec 6) (x : BitVec 2) (i : BitVec 12)
  /-- BEQ (R285). Branches if the registers are equal. -/
  | beq (a : BitVec 6) (b : BitVec 6) (o : BitVec 12)
  /-- BNE (R285). Branches if the registers differ. -/
  | bne (a : BitVec 6) (b : BitVec 6) (o : BitVec 12)
  /-- BLT (R285). Branches if signed less. -/
  | blt (a : BitVec 6) (b : BitVec 6) (o : BitVec 12)
  /-- BGE (R285). Branches if signed greater or equal. -/
  | bge (a : BitVec 6) (b : BitVec 6) (o : BitVec 12)
  /-- BLTU (R285). Branches if unsigned less. -/
  | bltu (a : BitVec 6) (b : BitVec 6) (o : BitVec 12)
  /-- BGEU (R285). Branches if unsigned greater or equal. -/
  | bgeu (a : BitVec 6) (b : BitVec 6) (o : BitVec 12)
  /-- J (R306). Jumps PC-relative. -/
  | j (o : BitVec 24)
  /-- JL (R306). Jumps PC-relative and writes the link register. -/
  | jl (o : BitVec 24)
  /-- JR (R307). Indirect jump checked against PAD J at the target. -/
  | jr (a : BitVec 6)
  /-- JLR (R307). Indirect call checked against PAD C, writing the link. -/
  | jlr (a : BitVec 6)
  /-- RET (R332). Indirect return checked against PAD R. -/
  | ret (a : BitVec 6)
  /-- LOOP (R314). Decrements the count register and branches back while it is positive. -/
  | loop (a : BitVec 6) (o : BitVec 12)
  /-- BOQW (R291). Appends a one-bit outcome to the branch-outcome queue, stalling when full. -/
  | boqw (a : BitVec 6)
  /-- BOQB (R290). Pops an outcome and branches on it, stalling when empty. -/
  | boqb (s : BitVec 1) (o : BitVec 12)
  /-- CTXRES (R167). Resumes or discards a stopped context from its folio. -/
  | ctxres (d : BitVec 6) (a : BitVec 6) (b : BitVec 6)
  /-- FADD (R298). Scalar F32 addition, RNE. -/
  | fadd (d : BitVec 6) (a : BitVec 6) (b : BitVec 6)
  /-- FSUB (R298). Scalar F32 subtraction, RNE. -/
  | fsub (d : BitVec 6) (a : BitVec 6) (b : BitVec 6)
  /-- FMUL (R298). Scalar F32 multiplication, RNE. -/
  | fmul (d : BitVec 6) (a : BitVec 6) (b : BitVec 6)
  /-- FFMA (R298). Scalar fused multiply-add with wd as addend. -/
  | ffma (d : BitVec 6) (a : BitVec 6) (b : BitVec 6)
  /-- FDIV (R298). Scalar F32 division, correctly rounded. -/
  | fdiv (d : BitVec 6) (a : BitVec 6) (b : BitVec 6)
  /-- FSQRT (R298). Scalar F32 square root. -/
  | fsqrt (d : BitVec 6) (a : BitVec 6)
  /-- FMIN (R298). Scalar F32 minimum under R136. -/
  | fmin (d : BitVec 6) (a : BitVec 6) (b : BitVec 6)
  /-- FMAX (R298). Scalar F32 maximum under R136. -/
  | fmax (d : BitVec 6) (a : BitVec 6) (b : BitVec 6)
  /-- FEQ (R298). Scalar F32 equality compare. -/
  | feq (d : BitVec 6) (a : BitVec 6) (b : BitVec 6)
  /-- FLT (R298). Scalar F32 less-than compare. -/
  | flt (d : BitVec 6) (a : BitVec 6) (b : BitVec 6)
  /-- FLE (R298). Scalar F32 less-or-equal compare. -/
  | fle (d : BitVec 6) (a : BitVec 6) (b : BitVec 6)
  /-- FCVTWS (R298). Converts F32 to I32 toward zero, saturating. -/
  | fcvtws (d : BitVec 6) (a : BitVec 6)
  /-- FCVTSW (R298). Converts a signed 64-bit value to F32, RNE. -/
  | fcvtsw (d : BitVec 6) (a : BitVec 6)
  /-- LDB (R312). Loads a sign-extended byte. -/
  | ldb (d : BitVec 6) (a : BitVec 6) (i : BitVec 12)
  /-- LDBU (R312). Loads a zero-extended byte. -/
  | ldbu (d : BitVec 6) (a : BitVec 6) (i : BitVec 12)
  /-- LDH (R312). Loads a sign-extended halfword. -/
  | ldh (d : BitVec 6) (a : BitVec 6) (i : BitVec 12)
  /-- LDHU (R312). Loads a zero-extended halfword. -/
  | ldhu (d : BitVec 6) (a : BitVec 6) (i : BitVec 12)
  /-- LDW (R312). Loads a sign-extended word. -/
  | ldw (d : BitVec 6) (a : BitVec 6) (i : BitVec 12)
  /-- LDWU (R312). Loads a zero-extended word. -/
  | ldwu (d : BitVec 6) (a : BitVec 6) (i : BitVec 12)
  /-- LDD (R312). Loads a doubleword. -/
  | ldd (d : BitVec 6) (a : BitVec 6) (i : BitVec 12)
  /-- STB (R337). Stores a byte. -/
  | stb (d : BitVec 6) (a : BitVec 6) (i : BitVec 12)
  /-- STH (R337). Stores a halfword. -/
  | sth (d : BitVec 6) (a : BitVec 6) (i : BitVec 12)
  /-- STW (R337). Stores a word. -/
  | stw (d : BitVec 6) (a : BitVec 6) (i : BitVec 12)
  /-- STD (R337). Stores a doubleword. -/
  | std (d : BitVec 6) (a : BitVec 6) (i : BitVec 12)
  /-- LDA (R311). Acquire load of 1, 2, 4 or 8 bytes, zero-extended. -/
  | lda (d : BitVec 6) (a : BitVec 6) (s : BitVec 2)
  /-- STL (R338). Release store at domain scope. -/
  | stl (d : BitVec 6) (a : BitVec 6) (s : BitVec 2)
  /-- FENCE (R81). Fence of kind full, acquire or release over a scope. -/
  | fence (k : BitVec 2) (s : BitVec 3)
  /-- IFLUSH (R304). Removes an instruction line from the L0 buffer and cluster cache. -/
  | iflush (a : BitVec 6) (i : BitVec 12)
  /-- CATL (R59). Looks up a key in the catalogue. -/
  | catl (d : BitVec 6) (a : BitVec 6)
  /-- CATS (R59). Sets a catalogue slot's key, invalidating duplicates. -/
  | cats (d : BitVec 6) (a : BitVec 6) (b : BitVec 6)
  /-- CATI (R59). Invalidates the catalogue entry with a key. -/
  | cati (d : BitVec 6) (a : BitVec 6)
  /-- AMOADD (R281). Atomic add at the home, returning the old value. -/
  | amoadd (d : BitVec 6) (a : BitVec 6) (b : BitVec 6) (z : BitVec 1)
  /-- AMOAND (R281). Atomic AND at the home. -/
  | amoand (d : BitVec 6) (a : BitVec 6) (b : BitVec 6) (z : BitVec 1)
  /-- AMOOR (R281). Atomic OR at the home. -/
  | amoor (d : BitVec 6) (a : BitVec 6) (b : BitVec 6) (z : BitVec 1)
  /-- AMOXOR (R281). Atomic XOR at the home. -/
  | amoxor (d : BitVec 6) (a : BitVec 6) (b : BitVec 6) (z : BitVec 1)
  /-- AMOMIN (R281). Atomic signed minimum at the home. -/
  | amomin (d : BitVec 6) (a : BitVec 6) (b : BitVec 6) (z : BitVec 1)
  /-- AMOMAX (R281). Atomic signed maximum at the home. -/
  | amomax (d : BitVec 6) (a : BitVec 6) (b : BitVec 6) (z : BitVec 1)
  /-- AMOMINU (R281). Atomic unsigned minimum at the home. -/
  | amominu (d : BitVec 6) (a : BitVec 6) (b : BitVec 6) (z : BitVec 1)
  /-- AMOMAXU (R281). Atomic unsigned maximum at the home. -/
  | amomaxu (d : BitVec 6) (a : BitVec 6) (b : BitVec 6) (z : BitVec 1)
  /-- AMOSWP (R281). Atomic swap at the home. -/
  | amoswp (d : BitVec 6) (a : BitVec 6) (b : BitVec 6) (z : BitVec 1)
  /-- AMOFADD (R281). Atomic 32-bit float add at the home. -/
  | amofadd (d : BitVec 6) (a : BitVec 6) (b : BitVec 6)
  /-- AMOCAS (R283). Atomic compare-and-swap at the home. -/
  | amocas (d : BitVec 6) (a : BitVec 6) (b : BitVec 6) (z : BitVec 1)
  /-- VAMOOR (R352). Per-lane atomic OR into indexed words. -/
  | vamoor (d : BitVec 5) (a : BitVec 5) (b : BitVec 5) (m : BitVec 3)
  /-- VAMOADD (R352). Per-lane atomic add into indexed words. -/
  | vamoadd (d : BitVec 5) (a : BitVec 5) (b : BitVec 5) (m : BitVec 3)
  /-- WAIT (R356). Stalls until the named counters fall to their values. -/
  | wait (l : BitVec 4) (s : BitVec 4) (c : BitVec 4) (t : BitVec 4) (h : BitVec 4)
  /-- PAUSE (R326). Puts the context in BACKGROUND for 16n cycles. -/
  | pause (i : BitVec 12)
  /-- SEMUP (R333). Raises a tile semaphore, a tile-scope release. -/
  | semup (d : BitVec 6) (a : BitVec 6)
  /-- SEMDN (R333). Lowers a tile semaphore, stalling at zero; an acquire. -/
  | semdn (d : BitVec 6) (a : BitVec 6)
  /-- SEMTRY (R333). Tries to lower a semaphore, returning -1 at zero. -/
  | semtry (d : BitVec 6) (a : BitVec 6)
  /-- BARW (R88). Arrives at a barrier and waits for the phase to complete. -/
  | barw (d : BitVec 6) (a : BitVec 6) (b : BitVec 6)
  /-- BARA (R88). Arrives at a barrier without waiting for the phase. -/
  | bara (d : BitVec 6) (a : BitVec 6) (b : BitVec 6)
  /-- QPUT (R328). Appends a doubleword to a tile data queue. -/
  | qput (a : BitVec 6) (b : BitVec 6)
  /-- QGET (R328). Removes the oldest entry of a tile data queue. -/
  | qget (d : BitVec 6) (a : BitVec 6)
  /-- SEND (R334). Sends an active message with scalar payload. -/
  | send (a : BitVec 6) (b : BitVec 6)
  /-- SENDV (R334). Sends an active message carrying a vector. -/
  | sendv (d : BitVec 6) (a : BitVec 6) (v : BitVec 5)
  /-- WLPUSH (R268). Pushes a task record onto a worklist deque. -/
  | wlpush (a : BitVec 6)
  /-- WLPOP (R359). Takes a task record from the own deque into memory. -/
  | wlpop (d : BitVec 6) (a : BitVec 6)
  /-- WLFLOOR (R358). Returns the floor the core uses. -/
  | wlfloor (d : BitVec 6)
  /-- TKARM (R341). Arms a task control block at its home. -/
  | tkarm (d : BitVec 6) (a : BitVec 6)
  /-- TKSIG (R341). Signals a task control block, releasing its task at zero. -/
  | tksig (d : BitVec 6) (a : BitVec 6)
  /-- FRBEG_U (R116). Opens an unordered forwarding region. -/
  | frbegU (d : BitVec 6)
  /-- FRBEG_O (R116). Opens an ordered forwarding region. -/
  | frbegO (d : BitVec 6)
  /-- FRCOM (R127). Commits the open region after its predecessors. -/
  | frcom (d : BitVec 6)
  /-- FRSTAT (R129). Reads the open region's status. -/
  | frstat (d : BitVec 6)
  /-- LVCNT (R316). Reads a level's completion counter. -/
  | lvcnt (d : BitVec 6) (a : BitVec 6) (b : BitVec 6)
  /-- CNCL (R294). Cancels a level of work. -/
  | cncl (d : BitVec 6) (a : BitVec 6) (b : BitVec 6)
  /-- JOB (R308). Submits a card to an engine queue. -/
  | job (d : BitVec 6) (a : BitVec 6) (b : BitVec 6)
  /-- QBIND (R327). Creates an engine queue on an M-core and returns its handle. -/
  | qbind (d : BitVec 6) (a : BitVec 6) (b : BitVec 6)
  /-- BLKRD (R287). Starts a split-phase block read into scratchpad. -/
  | blkrd (a : BitVec 6) (b : BitVec 6)
  /-- TTQ (R344). Appends a tile-task record to the cluster queue. -/
  | ttq (d : BitVec 6) (a : BitVec 6)
  /-- OSCLAIM (R322). Claims a free aligned group of operand slots. -/
  | osclaim (d : BitVec 6) (a : BitVec 6)
  /-- OSREL (R322). Releases an operand slot group. -/
  | osrel (a : BitVec 6)
  /-- OSLD (R323). Loads a tile image into an operand slot group. -/
  | osld (a : BitVec 6) (b : BitVec 6)
  /-- MWLD (R146). Loads a slot group into the shadow weight register. -/
  | mwld (a : BitVec 6)
  /-- MMA_F (R148). Float matrix multiply-accumulate into accumulator rows. -/
  | mmaF (a : BitVec 6) (b : BitVec 6)
  /-- MMA_I (R149). Integer matrix multiply-accumulate in residue form. -/
  | mmaI (a : BitVec 6) (b : BitVec 6)
  /-- MMA_RS (R150). Residue matrix multiply-accumulate. -/
  | mmaRs (a : BitVec 6) (b : BitVec 6)
  /-- MZERO (R151). Sets accumulator rows to EMPTY. -/
  | mzero (a : BitVec 6) (b : BitVec 6)
  /-- MDRAIN_F (R152). Drains F rows into the drain buffer. -/
  | mdrainF (a : BitVec 6) (b : BitVec 6)
  /-- MDRAIN_IW (R152). Drains I rows, low 32 bits. -/
  | mdrainIw (a : BitVec 6) (b : BitVec 6)
  /-- MDRAIN_IS (R152). Drains I rows, saturated to I32. -/
  | mdrainIs (a : BitVec 6) (b : BitVec 6)
  /-- MDRAIN_RS (R152). Drains RS rows as raw residues. -/
  | mdrainRs (a : BitVec 6) (b : BitVec 6)
  /-- WALK (R202). Takes one step through a decision tree. -/
  | walk (d : BitVec 6) (a : BitVec 6) (b : BitVec 6)
  /-- WALKN (R202). Takes up to n steps through a decision tree. -/
  | walkn (d : BitVec 6) (a : BitVec 6) (b : BitVec 6)
  /-- PDRST (R204). Starts a path digest for a sealed model and record. -/
  | pdrst (d : BitVec 6) (a : BitVec 6) (b : BitVec 6)
  /-- PDSEAL (R204). Finishes the digest and writes an audit log record. -/
  | pdseal (d : BitVec 6) (a : BitVec 6)
  /-- PDRD (R204). Stores the last sealed digest to memory. -/
  | pdrd (d : BitVec 6) (a : BitVec 6)
  /-- REFGET (R331). Reads a bound reference value, trapping on type mismatch. -/
  | refget (d : BitVec 6) (a : BitVec 6) (b : BitVec 6)
  /-- REFCHK (R331). Checks a reference's type without trapping. -/
  | refchk (d : BitVec 6) (a : BitVec 6) (b : BitVec 6)
  /-- TRAP (R343). Raises a system-class trap with an immediate subcode. -/
  | trap (i : BitVec 12)
  /-- SVC (R339). Requests a resident-system service by a steward-class trap. -/
  | svc (d : BitVec 6) (a : BitVec 6) (b : BitVec 6)
  /-- ERET (R297). Steward resumes a stopped or portable folio. -/
  | eret (d : BitVec 6) (a : BitVec 6) (b : BitVec 6)
  /-- CIRRD (R293). Reads a coprocessor ring entry of a core of the tile. -/
  | cirrd (d : BitVec 6) (a : BitVec 6) (b : BitVec 6)
  /-- ZEROSP (R360). Zeroes a scratchpad range with fresh check bits. -/
  | zerosp (d : BitVec 6) (a : BitVec 6) (b : BitVec 6)
  /-- SIGCHK (R207). Checks that every tile structure is zero. -/
  | sigchk (d : BitVec 6)
  /-- CAPREB (R292). Asks the Mint to rebuild a capsule body. -/
  | capreb (d : BitVec 6) (a : BitVec 6)
  /-- SEAL (R198). Seals a model region from plaintext. -/
  | seal (d : BitVec 6) (a : BitVec 6) (b : BitVec 6)
  /-- MONRD (R319). Copies a monitor slot record to memory. -/
  | monrd (d : BitVec 6) (a : BitVec 6) (b : BitVec 6)
  /-- SRD (R336). Reads a system register. -/
  | srd (d : BitVec 6) (s : BitVec 12)
  /-- SWR (R336). Writes a system register without behaviour of its own. -/
  | swr (a : BitVec 6) (s : BitVec 12)
  /-- VFADD (R349). Per-lane F32 addition. -/
  | vfadd (d : BitVec 5) (a : BitVec 5) (b : BitVec 5) (m : BitVec 3)
  /-- VFSUB (R349). Per-lane F32 subtraction. -/
  | vfsub (d : BitVec 5) (a : BitVec 5) (b : BitVec 5) (m : BitVec 3)
  /-- VFMUL (R349). Per-lane F32 multiplication. -/
  | vfmul (d : BitVec 5) (a : BitVec 5) (b : BitVec 5) (m : BitVec 3)
  /-- VFMA (R349). Per-lane fused multiply-add. -/
  | vfma (d : BitVec 5) (a : BitVec 5) (b : BitVec 5) (m : BitVec 3)
  /-- VFMS (R349). Per-lane fused multiply-subtract. -/
  | vfms (d : BitVec 5) (a : BitVec 5) (b : BitVec 5) (m : BitVec 3)
  /-- VFDIV (R349). Per-lane F32 division. -/
  | vfdiv (d : BitVec 5) (a : BitVec 5) (b : BitVec 5) (m : BitVec 3)
  /-- VFSQRT (R349). Per-lane F32 square root. -/
  | vfsqrt (d : BitVec 5) (a : BitVec 5) (m : BitVec 3)
  /-- VFMIN (R349). Per-lane F32 minimum. -/
  | vfmin (d : BitVec 5) (a : BitVec 5) (b : BitVec 5) (m : BitVec 3)
  /-- VFMAX (R349). Per-lane F32 maximum. -/
  | vfmax (d : BitVec 5) (a : BitVec 5) (b : BitVec 5) (m : BitVec 3)
  /-- VFABS (R349). Per-lane absolute value. -/
  | vfabs (d : BitVec 5) (a : BitVec 5) (m : BitVec 3)
  /-- VFNEG (R349). Per-lane negation. -/
  | vfneg (d : BitVec 5) (a : BitVec 5) (m : BitVec 3)
  /-- VFEXPS (R349). Per-lane scaling by a power of two. -/
  | vfexps (d : BitVec 5) (a : BitVec 5) (b : BitVec 5) (m : BitVec 3)
  /-- VFFLOOR (R349). Per-lane floor. -/
  | vffloor (d : BitVec 5) (a : BitVec 5) (m : BitVec 3)
  /-- VFCMP_EQ (R347). Per-lane F32 equality into a mask. -/
  | vfcmpEq (d : BitVec 3) (a : BitVec 5) (b : BitVec 5) (m : BitVec 3)
  /-- VFCMP_LT (R347). Per-lane F32 less-than into a mask. -/
  | vfcmpLt (d : BitVec 3) (a : BitVec 5) (b : BitVec 5) (m : BitVec 3)
  /-- VFCMP_LE (R347). Per-lane F32 less-or-equal into a mask. -/
  | vfcmpLe (d : BitVec 3) (a : BitVec 5) (b : BitVec 5) (m : BitVec 3)
  /-- VFCMP_UN (R347). Per-lane unordered test into a mask. -/
  | vfcmpUn (d : BitVec 3) (a : BitVec 5) (b : BitVec 5) (m : BitVec 3)
  /-- VADD (R346). Per-lane wrapping add. -/
  | vadd (d : BitVec 5) (a : BitVec 5) (b : BitVec 5) (m : BitVec 3)
  /-- VADDS (R346). Per-lane saturating add. -/
  | vadds (d : BitVec 5) (a : BitVec 5) (b : BitVec 5) (m : BitVec 3)
  /-- VSUB (R346). Per-lane wrapping subtract. -/
  | vsub (d : BitVec 5) (a : BitVec 5) (b : BitVec 5) (m : BitVec 3)
  /-- VSUBS (R346). Per-lane saturating subtract. -/
  | vsubs (d : BitVec 5) (a : BitVec 5) (b : BitVec 5) (m : BitVec 3)
  /-- VMUL (R346). Per-lane low product. -/
  | vmul (d : BitVec 5) (a : BitVec 5) (b : BitVec 5) (m : BitVec 3)
  /-- VMULH (R346). Per-lane signed high product. -/
  | vmulh (d : BitVec 5) (a : BitVec 5) (b : BitVec 5) (m : BitVec 3)
  /-- VMULHU (R346). Per-lane unsigned high product. -/
  | vmulhu (d : BitVec 5) (a : BitVec 5) (b : BitVec 5) (m : BitVec 3)
  /-- VAND (R346). Per-lane AND. -/
  | vand (d : BitVec 5) (a : BitVec 5) (b : BitVec 5) (m : BitVec 3)
  /-- VOR (R346). Per-lane OR. -/
  | vor (d : BitVec 5) (a : BitVec 5) (b : BitVec 5) (m : BitVec 3)
  /-- VXOR (R346). Per-lane XOR. -/
  | vxor (d : BitVec 5) (a : BitVec 5) (b : BitVec 5) (m : BitVec 3)
  /-- VSHL (R346). Per-lane left shift. -/
  | vshl (d : BitVec 5) (a : BitVec 5) (b : BitVec 5) (m : BitVec 3)
  /-- VSHR (R346). Per-lane logical right shift. -/
  | vshr (d : BitVec 5) (a : BitVec 5) (b : BitVec 5) (m : BitVec 3)
  /-- VSHA (R346). Per-lane arithmetic right shift. -/
  | vsha (d : BitVec 5) (a : BitVec 5) (b : BitVec 5) (m : BitVec 3)
  /-- VMIN (R346). Per-lane signed minimum. -/
  | vmin (d : BitVec 5) (a : BitVec 5) (b : BitVec 5) (m : BitVec 3)
  /-- VMAX (R346). Per-lane signed maximum. -/
  | vmax (d : BitVec 5) (a : BitVec 5) (b : BitVec 5) (m : BitVec 3)
  /-- VMINU (R346). Per-lane unsigned minimum. -/
  | vminu (d : BitVec 5) (a : BitVec 5) (b : BitVec 5) (m : BitVec 3)
  /-- VMAXU (R346). Per-lane unsigned maximum. -/
  | vmaxu (d : BitVec 5) (a : BitVec 5) (b : BitVec 5) (m : BitVec 3)
  /-- VCMP_EQ (R347). Per-lane integer equality into a mask. -/
  | vcmpEq (d : BitVec 3) (a : BitVec 5) (b : BitVec 5) (m : BitVec 3)
  /-- VCMP_LT (R347). Per-lane signed less-than into a mask. -/
  | vcmpLt (d : BitVec 3) (a : BitVec 5) (b : BitVec 5) (m : BitVec 3)
  /-- VCMP_LTU (R347). Per-lane unsigned less-than into a mask. -/
  | vcmpLtu (d : BitVec 3) (a : BitVec 5) (b : BitVec 5) (m : BitVec 3)
  /-- VCVT (R140). Per-lane format conversion selected by the conversion code. -/
  | vcvt (d : BitVec 5) (a : BitVec 5) (m : BitVec 3) (c : BitVec 6)
  /-- VPK6 (R141). Packs KF6 containers into two planes. -/
  | vpk6 (d : BitVec 5) (a : BitVec 5)
  /-- VUPK6 (R141). Unpacks KF6 planes into byte containers. -/
  | vupk6 (d : BitVec 5) (a : BitVec 5)
  /-- VRFWD (R142). Converts I32 lanes to RES4. -/
  | vrfwd (d : BitVec 5) (a : BitVec 5) (m : BitVec 3)
  /-- VRREV (R142). Converts RES4 lanes to I32. -/
  | vrrev (d : BitVec 5) (a : BitVec 5) (m : BitVec 3)
  /-- VREDFADD (R137). Fixed-tree F32 sum reduction into a w register. -/
  | vredfadd (d : BitVec 5) (a : BitVec 5) (m : BitVec 3)
  /-- VREDFMAX (R137). Fixed-tree F32 maximum reduction. -/
  | vredfmax (d : BitVec 5) (a : BitVec 5) (m : BitVec 3)
  /-- VREDADD (R137). Exact I32 sum reduction. -/
  | vredadd (d : BitVec 5) (a : BitVec 5) (m : BitVec 3)
  /-- VREDMAX (R137). Signed maximum reduction. -/
  | vredmax (d : BitVec 5) (a : BitVec 5) (m : BitVec 3)
  /-- VPERM (R353). Permutes lanes by an index vector. -/
  | vperm (d : BitVec 5) (a : BitVec 5) (b : BitVec 5) (m : BitVec 3)
  /-- VBCAST (R353). Broadcasts a scalar into active lanes. -/
  | vbcast (d : BitVec 5) (a : BitVec 5) (m : BitVec 3)
  /-- VEXTR (R353). Extracts one lane into a w register. -/
  | vextr (d : BitVec 5) (a : BitVec 5) (b : BitVec 5)
  /-- VINS (R353). Inserts a scalar into one lane. -/
  | vins (d : BitVec 5) (a : BitVec 5) (b : BitVec 5)
  /-- VIOTA (R353). Writes prefix counts of active lanes. -/
  | viota (d : BitVec 5) (m : BitVec 3)
  /-- VSEL (R353). Selects lanes from two vectors by a mask. -/
  | vsel (d : BitVec 5) (a : BitVec 5) (b : BitVec 5) (m : BitVec 3)
  /-- VMOV (R353). Copies active lanes. -/
  | vmov (d : BitVec 5) (a : BitVec 5) (m : BitVec 3)
  /-- MAND (R317). ANDs two masks under a governing mask. -/
  | mand (d : BitVec 3) (a : BitVec 3) (b : BitVec 3) (m : BitVec 3)
  /-- MOR (R317). ORs two masks under a governing mask. -/
  | mor (d : BitVec 3) (a : BitVec 3) (b : BitVec 3) (m : BitVec 3)
  /-- MNOT (R317). Inverts a mask under a governing mask. -/
  | mnot (d : BitVec 3) (a : BitVec 3) (m : BitVec 3)
  /-- MCNT (R317). Counts active mask lanes into a w register. -/
  | mcnt (d : BitVec 5) (a : BitVec 3) (m : BitVec 3)
  /-- MSET (R317). Sets a mask from two w registers. -/
  | mset (d : BitVec 3) (a : BitVec 5) (b : BitVec 5)
  /-- VLD (R354). Unit-stride 512-byte vector load. -/
  | vld (d : BitVec 5) (b : BitVec 6) (i : BitVec 7) (m : BitVec 3) (h : BitVec 1)
  /-- VST (R354). Unit-stride 512-byte vector store. -/
  | vst (d : BitVec 5) (b : BitVec 6) (i : BitVec 7) (m : BitVec 3) (h : BitVec 1)
  /-- VLDS (R350). Strided vector load. -/
  | vlds (d : BitVec 5) (a : BitVec 5) (b : BitVec 5) (m : BitVec 3)
  /-- VSTS (R350). Strided vector store. -/
  | vsts (d : BitVec 5) (a : BitVec 5) (b : BitVec 5) (m : BitVec 3)
  /-- VGTH (R350). Indexed vector gather. -/
  | vgth (d : BitVec 5) (a : BitVec 5) (b : BitVec 5) (m : BitVec 3)
  /-- VSCT (R350). Indexed vector scatter. -/
  | vsct (d : BitVec 5) (a : BitVec 5) (b : BitVec 5) (m : BitVec 3)
  /-- C_MOV (R254). 16-bit register move. -/
  | cMov (d : BitVec 4) (a : BitVec 4)
  /-- C_ADD (R254). 16-bit register add. -/
  | cAdd (d : BitVec 4) (a : BitVec 4)
  /-- C_SUB (R254). 16-bit register subtract. -/
  | cSub (d : BitVec 4) (a : BitVec 4)
  /-- C_AND (R254). 16-bit register AND. -/
  | cAnd (d : BitVec 4) (a : BitVec 4)
  /-- C_ADDI (R254). 16-bit add of a 7-bit immediate. -/
  | cAddi (d : BitVec 4) (i : BitVec 7)
  /-- C_LI (R254). 16-bit load of a 7-bit immediate. -/
  | cLi (d : BitVec 4) (i : BitVec 7)
  /-- C_SHLI (R254). 16-bit left shift by 0-31. -/
  | cShli (d : BitVec 4) (s : BitVec 5)
  /-- C_LDW (R254). 16-bit stack word load. -/
  | cLdw (d : BitVec 4) (u : BitVec 7)
  /-- C_STW (R254). 16-bit stack word store. -/
  | cStw (d : BitVec 4) (u : BitVec 7)
  /-- C_BZ (R254). 16-bit branch if zero. -/
  | cBz (a : BitVec 4) (o : BitVec 7)
  /-- C_BNZ (R254). 16-bit branch if non-zero. -/
  | cBnz (a : BitVec 4) (o : BitVec 7)
  /-- C_J (R254). 16-bit jump. -/
  | cJ (o : BitVec 11)
  /-- C_PAUSE (R254). 16-bit pause. -/
  | cPause (n : BitVec 11)
  /-- PAD (R325). Landing pad of kind C, J, R or H; does nothing when executed. -/
  | pad
  /-- ALIGN (R46). Stalls until sibling activations reach the same ALIGN or a timeout. -/
  | align
  /-- HRET (R302). Ends the activation, releasing blocks and signalling successors. -/
  | hret
  /-- FRABT (R128). Aborts the open region with its cascade. -/
  | frabt
  /-- DRDONE (R296). Frees the drain buffer entry of the activation. -/
  | drdone
  /-- HALT (R301). Stops issuing until an event arrives, or ends the clear routine. -/
  | halt
  /-- BKPT (R286). Raises a breakpoint trap. -/
  | bkpt
  /-- C_HINT (R254). 16-bit no-operation hint. -/
  | cHint
  /-- C_RET (R254). 16-bit return through w1. -/
  | cRet
  /-- C_HRET (R254). 16-bit end of activation. -/
  | cHret
  /-- XSD_CTL_WRITE (R71). SWR to XSD_CTL starts a shootdown for a launch. -/
  | xsdCtlWrite (core : Nat) (v : Word)
  /-- DL_LEFT_WRITE (R260). SWR to DL_LEFT sets the deadline count. -/
  | dlLeftWrite (core : Nat) (v : Word)
  /-- SHOOTDOWN_ACK (R71). An agent acknowledges a shootdown and XSD_ACK decrements. -/
  | shootdownAck (agent : Nat)
  /-- JQ_TAIL_WRITE (R92). Host doorbell queues descriptors or is refused as an overrun. -/
  | jqTailWrite (v : Word)
  /-- JQ_BASE_WRITE (R92). Sets the job ring base and resets head and tail if the ring is empty. -/
  | jqBaseWrite (v : Word)
  /-- JQ_SIZE_WRITE (R92). Sets the job ring size and resets head and tail if the ring is empty. -/
  | jqSizeWrite (v : Word)
  /-- REGISTER_WRITE (R222). Write to a register page entry with no behaviour of its own. -/
  | registerWrite (bar : Nat) (off : Nat) (size : Nat) (v : Word)
  /-- JOB_DESCRIPTOR_TAKE (R93). A steward takes the next descriptor, checks it and starts or refuses the job. -/
  | jobDescriptorTake
  /-- JOB_COMPLETION (R94). Steward writes the completion record and raises MSI-X vector 0. -/
  | jobCompletion (job : Nat)
  /-- LAUNCH_ADMISSION (R97). A ready launch receives a ticket and is checked and placed or waits. -/
  | launchAdmission (l : Nat)
  /-- LAUNCH_PLACEMENT (R97). Steward places waiting launches as tiles free, dispatching initial messages. -/
  | launchPlacement (l : Nat) (units : List (List Nat))
  /-- MESSAGE_DELIVERY (R35). A message record is admitted and written into an inbox ring, with any pad. -/
  | messageDelivery (msg : Nat)
  /-- HELD_MESSAGE_ADMIT (R39). A back-pressured message is admitted once ring space is reclaimed. -/
  | heldMessageAdmit (core : Nat)
  /-- MESSAGE_DISPATCH (R41). A context becomes DORMANT and the oldest ring record starts an activation. -/
  | messageDispatch (core : Nat)
  /-- TASK_DISPATCH (R102). An idle context takes an in-bound task from its deque. -/
  | taskDispatch (core : Nat)
  /-- STEAL_REQUEST (R102). A victim tile answers a steal request with a record or empty. -/
  | stealRequest (thief : Nat) (victim : Nat)
  /-- STEAL_ANSWER (R102). A thief receives a steal answer and dispatches the record. -/
  | stealAnswer (thief : Nat)
  /-- PACKAGE_STEAL (R103). A package idle for 4 us sends a steal request to another package. -/
  | packageSteal (l : Nat) (peer : Nat)
  /-- DEQUE_REFILL (R100). A deque below 64 records reads back the lowest chunk. -/
  | dequeRefill (core : Nat)
  /-- TKSIG_RESPONSE (R108). TKSIG responses are reordered and released records pushed. -/
  | tksigResponse (core : Nat)
  /-- FLOOR_UPDATE (R101). The min-reduction tree updates every core's floor. -/
  | floorUpdate (l : Nat)
  /-- FLOOR_EXCHANGE (R101). Packages exchange floors every 2 us. -/
  | floorExchange (l : Nat) (peers : List PeerFloor)
  /-- DRAIN_DISPATCH (R153). A buffered accumulator row starts a drain activation. -/
  | drainDispatch (unit : Nat)
  /-- TILE_TASK_ISSUE (R110). The scheduler issues a ready tile task to a free engine and loads its slots. -/
  | tileTaskIssue (cluster : Nat)
  /-- ENGINE_JOB_START (R84). An engine job whose edges are resolved starts its accesses. -/
  | engineJobStart (job : Nat)
  /-- ENGINE_JOB_COMPLETE (R308). An engine job finishes, releasing edges and decrementing cp. -/
  | engineJobComplete (job : Nat)
  /-- BLKRD_PART_RETURN (R288). A block-read part is written; the last one sends the completion message. -/
  | blkrdPartReturn (part : Nat)
  /-- OSLD_COMPLETE (R323). A slot load finishes and the group becomes READY. -/
  | osldComplete (op : Nat)
  /-- MATRIX_PERFORM (R155). The engine performs the next matrix instruction in issue order. -/
  | matrixPerform (unit : Nat)
  /-- ACCESS_PERFORMED (R74). A home performs an arriving access, atomic or arrival in order. -/
  | accessPerformed (id : Nat)
  /-- LOAD_RESPONSE (R78). A load value returns to its register and ld decrements. -/
  | loadResponse (id : Nat)
  /-- STORE_ACK (R78). A store acknowledgement returns and st decrements. -/
  | storeAck (id : Nat)
  /-- PAGE_WALK_COMPLETE (R69). A walker returns a translation to its coalesced requesters. -/
  | pageWalkComplete (cluster : Nat) (root : Nat) (va : Nat)
  /-- CLOSURE_RECOMPUTE (R124). The directory recomputes closure rows after an abort. -/
  | closureRecompute
  /-- COMMIT_MERGE (R127). A home merges a committing region's versions into its lines. -/
  | commitMerge (slot : Nat) (home : Home)
  /-- LATE_FAULT (R161). A coprocessor late fault arrives and stops the context. -/
  | lateFault (id : Nat)
  /-- FOLIO_WRITE (R162). A stopped context's folio is written and the trap message sent. -/
  | folioWrite (ctx : Nat)
  /-- PAUSE_END (R34). A PAUSE window expires and the context returns to READY. -/
  | pauseEnd (ctx : Nat)
  /-- ALIGN_TIMEOUT (R46). An ALIGN wait expires after 16(imm+1) cycles. -/
  | alignTimeout (ctx : Nat)
  /-- IDLE_SAMPLE (R112). The idle tree samples; two idle samples send the end message. -/
  | idleSample (l : Nat)
  /-- DEADLINE_EXPIRY (R113). DL_LEFT reaches zero and every tile of the job halts and dumps. -/
  | deadlineExpiry (job : Nat)
  /-- CANCEL_GRACE_EXPIRY (R48). The 65,536-cycle grace interval ends and remaining activations stop. -/
  | cancelGraceExpiry (l : Nat)
  /-- MACHINE_CHECK (R173). A tile stops, folios are written and the steward quarantines it. -/
  | machineCheck (unit : Nat)
  /-- TILE_MIGRATION (R168). A steward moves a tile's state to a free tile. -/
  | tileMigration (src : Nat) (dst : Nat)
  /-- MIGRATION_MARKER (R168). A core's marker passes through the old tile. -/
  | migrationMarker (core : Nat) (unit : Nat)
  /-- FORWARDING_RETIRE (R168). The forwarding entry retires once all markers passed. -/
  | forwardingRetire (unit : Nat)
  /-- ABSENT_CONTEXT (R170). The first arrival for an absent launch makes a steward bring it back. -/
  | absentContext (l : Nat)
  /-- LAUNCH_RETURN (R170). An absent launch returns and parked arrivals are delivered. -/
  | launchReturn (l : Nat) (units : List (List Nat))
  /-- CLEAR_ROUTINE (R206). A ended world's sub-mesh is zeroed and its keys emptied. -/
  | clearRoutine (l : Nat)
  /-- CAPSULE_INSTALL (R178). The Mint checks and installs a capsule, returning a report. -/
  | capsuleInstall (bytes : List Byte) (slots : List SlotValue) (tenant : Nat)
  /-- CAPSULE_RETIRE (R181). A request retires a capsule unless a launch names it. -/
  | capsuleRetire (acc : Word)
  /-- CAPSULE_EXPORT (R181). A capsule is exported without its BODY section. -/
  | capsuleExport (acc : Word)
  /-- BODY_VOID (R181). A change of the triple voids bodies and drains live launches. -/
  | bodyVoid (translator : Nat) (epoch : Nat)
  /-- REBUILD_COMPLETE (R183). A body build ends and portable folios are converted and resumed. -/
  | rebuildComplete (acc : Word) (ok : Bool)
  /-- LIVE_PATCH (R185). A live slot value is patched into a bound body and lines invalidated. -/
  | livePatch (l : Nat) (slot : Nat) (v : Word)
  /-- SEALED_REGION_RETIRE (R198). A host request retires a sealed region unless bound. -/
  | sealedRegionRetire (h : Word)
  /-- AUDIT_LOG_CONSUME (R205). The host advances the audit log read pointer, unblocking PDSEAL. -/
  | auditLogConsume (tenant : Nat) (rp : Nat)
  /-- SPDM_REQ_LEN_WRITE (R224). The host rings the SPDM mailbox with a request length. -/
  | spdmReqLenWrite (v : Word)
  /-- SPDM_RSP_LEN_WRITE (R224). The host clears the response length, freeing the mailbox. -/
  | spdmRspLenWrite (v : Word)
  /-- GET_VERSION (R213). The vault answers with SPDM version 1.3. -/
  | spdmGetVersion (path : SpdmPath) (req : List Byte)
  /-- GET_CAPABILITIES (R213). The vault answers with its capabilities. -/
  | spdmGetCapabilities (path : SpdmPath) (req : List Byte)
  /-- NEGOTIATE_ALGORITHMS (R213). The vault negotiates its fixed algorithm set. -/
  | spdmNegotiateAlgorithms (path : SpdmPath) (req : List Byte)
  /-- GET_DIGESTS (R213). The vault returns the digests of slot 0. -/
  | spdmGetDigests (path : SpdmPath) (req : List Byte)
  /-- GET_CERTIFICATE (R213). The vault returns the slot 0 certificate chain. -/
  | spdmGetCertificate (path : SpdmPath) (req : List Byte)
  /-- CHALLENGE (R213). The vault signs a challenge with the alias key. -/
  | spdmChallenge (path : SpdmPath) (req : List Byte)
  /-- GET_MEASUREMENTS (R213). The vault returns signed measurements. -/
  | spdmGetMeasurements (path : SpdmPath) (req : List Byte)
  /-- KEY_EXCHANGE (R213). The vault starts an SPDM session key exchange. -/
  | spdmKeyExchange (path : SpdmPath) (req : List Byte)
  /-- FINISH (R213). The vault completes a session handshake. -/
  | spdmFinish (path : SpdmPath) (req : List Byte)
  /-- END_SESSION (R213). The vault ends an SPDM session. -/
  | spdmEndSession (path : SpdmPath) (req : List Byte)
  /-- UNSUPPORTED_REQUEST (R213). Any other SPDM request gets an UnsupportedRequest error. -/
  | spdmUnsupportedRequest (path : SpdmPath) (req : List Byte)
  /-- PT_REQ_TAIL_WRITE (R225). The host rings the protected-transfer request doorbell. -/
  | ptReqTailWrite (v : Word)
  /-- PT_RSP_HEAD_WRITE (R225). The host consumes responses, freeing response ring space. -/
  | ptRspHeadWrite (v : Word)
  /-- PT_REGISTER_READ (R226). A protected request reads a register as a trusted access. -/
  | ptRegisterRead
  /-- PT_REGISTER_WRITE (R226). A protected request writes a register as a trusted access. -/
  | ptRegisterWrite
  /-- PT_MEMORY_WRITE (R226). A protected request writes device memory, encrypting under a key index. -/
  | ptMemoryWrite
  /-- PT_MEMORY_READ (R226). A protected request reads device memory, decrypting under a key index. -/
  | ptMemoryRead
  /-- PT_REKEY (R226). A protected request installs a new key in the pending slot. -/
  | ptRekey
  /-- REKEY_ACK (R210). The initiator receives the rekey acknowledgement and flips the phase bit. -/
  | rekeyAck (chan : Channel)
  /-- POWER_CAP_WRITE (R223). Sets the power cap, clamped to 1,200-2,200 W. -/
  | powerCapWrite (v : Word)
  /-- DORMANT_REQUEST (R212). POWER_CTL write 1 requests the dormant state. -/
  | dormantRequest
  /-- DORMANT_FORCE (R212). POWER_CTL write 2 forces the dormant state, ending protected worlds. -/
  | dormantForce
  /-- WAKE (R231). The device wakes from dormant and absent launches return. -/
  | wake
  /-- IDLE_CLOCK_GATE (R231). A tile idle for 4,096 cycles is clock-gated. -/
  | idleClockGate (unit : Nat)
  /-- THERMAL_LIMIT (R231). Junction temperature crosses 95 or 110 C, throttling or stopping. -/
  | thermalLimit (celsius : Nat)
  /-- BOOT (R227). Power-on reset runs the vault boot sequence to BOOT_STATUS. -/
  | boot (failed : List Nat)
  /-- BOOT_RETRY (R227). A failed image fetch or verification is retried after its delay. -/
  | bootRetry
  /-- FABRIC_FLIT_RECEIVE (R217). A fabric flit is received, corrected, retried or accepted. -/
  | fabricFlitReceive (flit : Flit)
  /-- LINK_RETRAINED (R217). A link finishes retraining and redirected traffic moves back. -/
  | linkRetrained (plane : Nat)
  /-- LINK_DOWN (R217). A link not retrained in 10 ms is declared down and traffic redirected. -/
  | linkDown (plane : Nat)
  /-- MONITOR_SAMPLE (R230). A monitor slot takes a sample and updates its record. -/
  | monitorSample (cluster : Nat) (slot : Nat) (value : Nat)
  /-- ATTACH (R228). readroom attaches a session to a job. -/
  | rrAttach (job : Word)
  /-- BREAK (R242). Sets a breakpoint at a portable location. -/
  | rrBreak (loc : Nat)
  /-- DELETE (R242). Removes a breakpoint. -/
  | rrDelete (n : Nat)
  /-- CONTINUE (R242). Resumes the held launches. -/
  | rrContinue
  /-- STOP (R228). Stops the held launches at instruction boundaries, writing folios. -/
  | rrStop
  /-- REGS (R242). Returns registers of a stopped context as R193 allows. -/
  | rrRegs (core : Nat) (ctx : Nat)
  /-- MEM (R274). Returns launch memory, refusing body pages. -/
  | rrMem (addr : Nat) (n : Nat)
  /-- FOLIO (R242). Returns a folio field by field. -/
  | rrFolio (core : Nat) (ctx : Nat)
  /-- RING (R242). Returns the coprocessor instruction ring. -/
  | rrRing (core : Nat)
  /-- WL (R242). Returns worklist state. -/
  | rrWl
  /-- REGION (R242). Returns region-directory state. -/
  | rrRegion
  /-- QUIT (R228). Ends the session, continuing stopped launches and removing breakpoints. -/
  | rrQuit
  /-- READROOM_DISCONNECT (R228). Loss of the TCP connection ends the session as END_SESSION does. -/
  | rrDisconnect
  /-- INSTRUCTION_LINE_FILL (R172). A 64-byte instruction line requested by the shared fetch port returns from memory, is broadcast to the merged requesters and filled into the cluster cache and L0 buffers, marked latent-poisoned if it carries an uncorrectable error. -/
  | instructionLineFill (cluster : Nat) (line : Nat) (bad : Bool)
  /-- BODY_VOID_LIVE (R183). A context that has not reached an active resume point within 2^20 cycles of its drain request ends its launch with status FAULT and reason BODY_VOID_LIVE. -/
  | bodyVoidLive (ctx : Nat)
  /-- PACKAGE_STEAL_ANSWER (R103). The victim package answers a package-level steal request with a chunk of up to 8 of its oldest in-bound records, which is appended to the list of the thief's least-loaded core. -/
  | packageStealAnswer (l : Nat) (peer : Nat) (chunk : List TaskRec)
  deriving DecidableEq, Repr

end Sys2Proof
end

