-- ==== Sys2Proof/Machine/State.lean ====
section
/-!
DEFINITION. Sys2Proof/Machine/State.lean: the machine's state as plain data, the reasons a step can stop, and the state
after reset. Each field names the rule of the manual that gives it; fields marked MODEL are the model's own.
Agents are numbered: an agent is unit * 4 + role, a context is agent * 8 + number (R23, R28); tiles are units 0 to 287,
bank cores 512 to 767, stewards 1008 to 1015, and the vault, which has no place, is unit 1016 (log entry 9). Every
table (Tbl) reads a default where it lists nothing; the defaults are the reset values (log entry 1).
-/

namespace Sys2Proof.Machine

/-- A vector register: 128 lanes of 32 bits, an unlisted lane zero (R345). -/
abbrev Vec := Tbl Word32

/-- Reasons for which the machine stops, each a point at which the manual gives no effect. -/
inductive Fault where
  /-- SAFE. Raised by an exact trap of code that runs at level S or V: the manual describes folios, save areas and trap
  handlers for the contexts of launches only (R159 to R166), and nothing for a steward, the vault or the clear routine.
  -/
  | supervisorTrap (cause subcode : Nat)
  deriving DecidableEq, Repr

/-- Reasons for which a step has no meaning. -/
inductive Refusal where
  /-- SAFE. Raised by an arm of exec whose instruction has no meaning yet. -/
  | notModelled (mnemonic : String)
  deriving DecidableEq, Repr

/-- The states of a context (R28). -/
inductive CtxState where
  | dormant | ready | stalled | background | stopped
  deriving DecidableEq, Repr

/-- The levels of privilege, each containing the one before (R261). -/
inductive Level where
  | h | s | v
  deriving DecidableEq, Repr

/-- An activation (R26, R29): the header word, the task's order key (R114), and what its end must release. -/
structure Act where
  header : Word := 0
  /-- the task's bucket, 0xFFFF_FFFF for an activation that is no task (R114) -/
  bucket : Nat := 0xFFFFFFFF
  /-- the push sequence and the pushing package (R114) -/
  seq : Nat := 0
  pkg : Nat := 0
  /-- the TCB of a released task (R107) -/
  tcb : Option Word := none
  /-- the drain buffer entry still held (R153) -/
  drain : Option Nat := none
  /-- the tile task's entry in the footprint table (R110) -/
  ttq : Option Nat := none
  /-- the ring record that started it (R36) -/
  ring : Option Nat := none
  /-- a trap handler (R166), or the launch's end handler (R112) -/
  trapHandler : Bool := false
  endHandler : Bool := false
  deriving DecidableEq, Repr

/-- The checkpoint of an open region, and its slot (R116). -/
structure OpenRegion where
  slot : Nat
  beginAt : Nat
  sblk : BitVec 8
  w : Tbl Word
  wbad : Tbl Bool
  ix : Tbl Word
  ox : Tbl Word
  m : Tbl (BitVec 128)
  pc : Word
  /-- the vector blocks held at FRBEG (R125: a restart releases the others) -/
  vblk : BitVec 4
  deriving DecidableEq, Repr

/-- A late record (R164). -/
structure LateRec where
  pc : Word
  word : Word32
  seq : Nat
  subcause : Nat
  detail : Nat
  addr : Word
  lane : Option Nat
  deriving DecidableEq, Repr

/-- How a context stopped (R159, R161, R164). -/
structure Stop where
  cause : Nat
  subcode : Nat
  faultPc : Word
  faultAddr : Word
  word : Word32
  resumePc : Word
  /-- flag [0], the region restarts at its FRBEG (R131) -/
  restart : Bool := false
  /-- the folio has been written (R162) -/
  written : Bool := false
  /-- MODEL. The count of free values when it was written: its opaque path-digest bytes (R164, R204; log entry 5) -/
  digestAt : Nat := 0
  /-- flag [3] (R164) -/
  resumable : Bool := true
  /-- the context was stopped for readroom, or by it (R228, R286) -/
  held : Bool := false
  /-- its folio is portable, and the location in PORTABLE that it names (R182, R183) -/
  portable : Bool := false
  location : Nat := 0
  deriving DecidableEq, Repr

/-- The digest state of an A-core context (R204). -/
structure Digest where
  /-- the bytes absorbed since PDRST: the manual's pd.H -/
  absorbed : List Byte := []
  model : Word := 0
  record : Word := 0
  active : Bool := false
  valid : Bool := false
  /-- pd.last: the digest's 48 bytes and its sequence number -/
  last : Option (List Byte × Nat) := none
  deriving DecidableEq, Repr

/-- A context (R28). -/
structure Ctx where
  state : CtxState := .dormant
  /-- R261 -/
  level : Level := .h
  /-- the launch whose activation it runs (R26) -/
  launch : Nat := 0
  /-- MODEL. The number of the activation: accesses, messages and jobs of an ended one no longer lower the counters. -/
  actId : Nat := 0
  act : Option Act := none
  pc : Word := 0
  /-- the word fetched last, as its 32-bit equivalent (R255) -/
  word : Word32 := 0
  /-- w0-w63 (R259) and their poison bits (R171) -/
  w : Tbl Word := []
  wbad : Tbl Bool := []
  /-- v0-v31 (R345) and their poison bits -/
  v : Tbl Vec := []
  vbad : Tbl Bool := []
  /-- m1-m7, lane i in bit i (R317) -/
  m : Tbl (BitVec 128) := []
  /-- ix0-ix3 (R305) -/
  ix : Tbl Word := []
  /-- ox0-ox7 (R315) -/
  ox : Tbl Word := []
  /-- scalar and vector blocks held (R329) -/
  sblk : BitVec 8 := 3
  vblk : BitVec 4 := 0
  /-- the counters (R356) -/
  ld : Nat := 0
  st : Nat := 0
  cp : Nat := 0
  tl : Nat := 0
  /-- the accesses that every later access, message and enqueue waits for: an acquire (R79, R81) -/
  acq : List Nat := []
  /-- the accesses that every later store, atomic, message and enqueue waits for: a release (R80, R81) -/
  rel : List Nat := []
  region : Option OpenRegion := none
  /-- restarts of the region since its first FRBEG (R119) -/
  aborts : Nat := 0
  /-- the next FRBEG re-enters an aborted region: aborts is not 0 (R116, R125) -/
  restarting : Bool := false
  pd : Digest := {}
  stop : Option Stop := none
  lates : List LateRec := []
  /-- the end of a PAUSE window (R34) -/
  window : Option Nat := none
  /-- a context that waits in ALIGN: the immediate, the cycle at which the wait expires, the contexts awaited (R46) -/
  align : Option (Nat × Nat × List Nat) := none
  /-- the access or request whose answer an instruction already issued awaits (R161) -/
  await : Option Nat := none
  /-- the answer to that request -/
  answer : Option Word := none
  /-- a drain request awaits an active resume point since this cycle (R183) -/
  drainReq : Option Nat := none
  /-- the breakpoint at which a debug session last stopped it, until its instruction has issued (R228, R242) -/
  brokeAt : Option Word := none
  /-- the cycle at which it last issued (R33) -/
  issuedAt : Nat := 0
  deriving DecidableEq, Repr

/-- The register that an access writes (R78). -/
inductive Dst where
  | none
  | w (n : Nat)
  | v (n : Nat)
  deriving DecidableEq, Repr

/-- The atomic operations on memory (R281, R283, R352). -/
inductive AmoOp where
  | add | and | or | xor | min | max | minu | maxu | swp | fadd
  | cas (expected : Word)
  deriving DecidableEq, Repr

/-- What an access does at its home (R78). -/
inductive TxnOp where
  /-- a scalar load of the access's bytes; whether the value is sign-extended -/
  | load (signed : Bool)
  /-- a store: offsets from the access's address, and bytes -/
  | store (bytes : List (Nat × Byte)) (bad : Bool)
  /-- an atomic; whether it returns the old value -/
  | amo (op : AmoOp) (operand : Word) (returns : Bool) (bad : Bool)
  /-- a part of a vector load: the first lane it fills, and the lanes active -/
  | vload (first : Nat) (active : BitVec 128)
  /-- a barrier arrival naming a phase; BARW waits for the phase's completion (R88) -/
  | barrier (phase : Nat) (waits : Bool)
  | tkarm
  | tksig
  /-- a walk: node offset, region base, feature vector, step limit and node-format descriptor (R202) -/
  | walk (node base features : Word) (limit descriptor : Nat)
  /-- an operation on the tile's semaphores and queues whose implicit release is not yet complete (R82) -/
  | semup (sem : Nat)
  | qput (queue : Nat) (value : Word)
  /-- the arrival of a job at its cluster's footprint table (R84) -/
  | enqueue (job : Nat)
  deriving DecidableEq, Repr

/-- An access on its way: issued, and not yet returned or acknowledged (R78). -/
structure Txn where
  id : Nat
  /-- the context and activation that issued it -/
  ctx : Nat
  act : Nat
  /-- the instruction's accesses share the id of its first: the counters count instructions -/
  grp : Nat
  home : Home
  op : TxnOp
  dst : Dst := .none
  va : Word := 0
  /-- the memory key of the first byte, and how many bytes -/
  key : Nat := 0
  n : Nat := 0
  /-- the key identity under which the home reads and writes the page (R195); 0 is plaintext -/
  kid : Nat := 0
  /-- the size class of its translation, 0 where it has none (R71) -/
  size : Nat := 0
  /-- the accesses to be complete before the home may perform it (R80, R82) -/
  after : List Nat := []
  /-- the region whose access it is: slot and begin sequence (R120) -/
  region : Option (Nat × Nat) := none
  /-- whether it raises ld, st (R356) -/
  ld : Bool := false
  st : Bool := false
  performed : Bool := false
  /-- a barrier arrival counted, whose phase is still to complete (R88) -/
  arrived : Bool := false
  /-- the bytes or the number that the home returned -/
  bytes : List Byte := []
  value : Word := 0
  bad : Bool := false
  /-- a forward withheld until this region commits or aborts (R126) -/
  withheld : Option (Nat × Nat) := none
  /-- its forward has been withheld, or its region has waited for room: a stall on its answer is BACKGROUND until it returns (R34,
  R126, R130) -/
  slow : Bool := false
  /-- the record that a TKARM or TKSIG released (R107) -/
  released : Option TaskRec := none
  /-- the coprocessor ring entry of its instruction (R160) -/
  seq : Option Nat := none
  /-- a TKARM or TKSIG answered -1, or a barrier arrival that traps (R106, R107, R88) -/
  refused : Bool := false
  /-- the cycle at which it was issued (R229) -/
  issued : Nat := 0
  deriving DecidableEq, Repr

/-- A message on its way to an inbox ring or to an agent's firmware (R26, R334). -/
structure Msg where
  id : Nat
  /-- the sending context and activation, none for a message of hardware or firmware -/
  ctx : Option Nat
  act : Nat := 0
  /-- the agent it is sent to -/
  dest : Nat
  launch : Nat
  words : List Word
  /-- the message sends the place of a core that a BLKRD completes for: cp of that context falls at delivery (R288) -/
  cp : Option Nat := none
  /-- held at the ring by back-pressure (R39) -/
  held : Bool := false
  /-- admitted, and waiting for its bytes to be free: bytes charged to general space, and the reserve used (R37, R38) -/
  admitted : Option (Nat × Option Nat) := none
  /-- of kind 7 before a forwarding entry made it of kind 6 (R168) -/
  system : Bool := false
  /-- it has been parked for an absent launch, and its sender has its acknowledgement: its number in append order (R170) -/
  parkedAt : Option Nat := none
  /-- it has left for another package, whose acknowledgement is awaited (R300): the plane that carries it (R215) -/
  left : Option Nat := none
  /-- a forwarding entry has sent it on: its number in the order of arrival there (R168) -/
  forwarded : Option Nat := none
  deriving DecidableEq, Repr

/-- A record of an inbox ring (R35 to R38). -/
structure RingRec where
  id : Nat
  off : Nat
  size : Nat
  /-- bytes of the pad that precedes it at the end of the ring -/
  pad : Nat
  depth : Nat
  /-- bytes charged to general space, and the reserve used (R37) -/
  charge : Nat
  reserve : Option Nat
  dispatched : Bool := false
  ended : Bool := false
  /-- of kind 7 before a forwarding entry made it of kind 6 (R168) -/
  system : Bool := false
  deriving DecidableEq, Repr

/-- A push that waits for a deque entry (R99): who waits, the depth of its activation, the record; for a record that a TKARM or TKSIG
released, the access whose answer waits with it (R341). -/
structure PushWait where
  ctx : Option Nat
  depth : Nat
  record : TaskRec
  txn : Option Nat := none
  deriving DecidableEq, Repr

/-- A chunk of the Stacks: up to 8 records, stamped with the lowest bucket (R100), and its place in the launch's area; none while its records are
still being gathered. -/
structure Chunk where
  stamp : Nat
  recs : List TaskRec
  place : Option Nat := none
  deriving DecidableEq, Repr

/-- An entry of the coprocessor instruction ring (R160, R293). -/
structure RingEntry where
  seq : Nat := 0
  pc : Word := 0
  word : Word32 := 0
  ctx : Nat := 0
  launch : Nat := 0
  used : Bool := false
  faulted : Bool := false
  retired : Bool := false
  deriving DecidableEq, Repr

/-- A 64-byte instruction line of a cache, by its physical line number (R172). -/
structure ILine where
  line : Nat
  bytes : List Byte
  bad : Bool
  deriving DecidableEq, Repr

/-- A translation held by a TLB: the level-0 table, the 64 KiB page, the leaf entry and its size class, and the launch
whose access brought it (R69, R71). -/
structure TlbEntry where
  root : Nat
  page : Nat
  pte : Word
  size : Nat
  launch : Nat
  /-- it holds an uncorrectable error (R22) -/
  bad : Bool := false
  deriving DecidableEq, Repr

/-- A tile core, or the core of a bank core, steward or the vault. -/
structure Core where
  /-- the inbox ring's write pointer and its records, oldest first (R35) -/
  ringW : Nat := 0
  ring : List RingRec := []
  /-- the worklist deque, oldest first (R99), and the pushes stalled on it -/
  deque : List TaskRec := []
  pushes : List PushWait := []
  /-- the core's list of the Stacks, and the records gathered at the bank core for its next chunk (R100) -/
  chunks : List Chunk := []
  gathered : List TaskRec := []
  /-- the floor that the core uses; 2^32 is empty (R101) -/
  floor : Nat := 0x100000000
  /-- the victim sequence's position, the cycle of the last steal request, and an answer not yet received (R102) -/
  stealPos : Nat := 0
  stealAt : Option Nat := none
  stealAnswer : Option (Option TaskRec) := none
  /-- the coprocessor instruction ring by index, and the sequence counter (R160) -/
  cring : Tbl RingEntry := []
  cseq : BitVec 16 := 0
  /-- the L0 instruction buffer and the micro-TLB (R69, R172) -/
  l0 : List ILine := []
  utlb : List TlbEntry := []
  /-- the TLBs of the vector unit and of the matrix unit (R70) -/
  vtlb : List TlbEntry := []
  mtlb : List TlbEntry := []
  /-- contexts that wait for a register block of a file, in the order they stalled (R329) -/
  rbWait : List (Nat × Nat) := []
  /-- the cycle at which a context of the core last came to rest, from which an idle time counts (R111) -/
  restedAt : Nat := 0
  /-- the cycle at which the core last had in-bound work (R103) -/
  workedAt : Nat := 0
  /-- an event that a steward's HALT awaits has arrived and not been taken (R301) -/
  event : Bool := false
  /-- the context that issued last of each class (R33) -/
  turns : Tbl Nat := []
  deriving DecidableEq, Repr

/-- The states of an operand slot (R61). -/
inductive SlotState where
  | free | claimed | loading | ready
  deriving DecidableEq, Repr

/-- The tag of an operand slot (R61), and the group's width. -/
structure SlotTag where
  state : SlotState := .free
  format : Nat := 0
  sealed : Bool := false
  part : Nat := 0
  width : Nat := 1
  deriving DecidableEq, Repr

/-- The seal record that a slot group keeps (R199). -/
structure SealRec where
  tag : List Byte
  key : Nat
  model : Word
  unit : Nat
  deriving DecidableEq, Repr

/-- The kinds of an accumulator row (R144). -/
inductive RowKind where
  | empty | f | i | rs
  deriving DecidableEq, Repr

/-- An accumulator row: its kind and 128 lanes of 48 bits. An F lane is the low 32 bits; an RS lane holds its four residues
in bytes 0 to 3 (R144). -/
structure Row where
  kind : RowKind := .empty
  lanes : Tbl (BitVec 48) := []
  /-- it holds an uncorrectable error (R22) -/
  bad : Bool := false
  deriving DecidableEq, Repr

/-- A weight register: the tile's image as 128 x 128 elements, its format and column scales (R144). -/
structure Weights where
  format : Nat
  image : Tbl Byte
  scales : Vec
  deriving DecidableEq, Repr

/-- The matrix instructions of the engine queue, with the operands read at issue (R143, R315). -/
inductive MatOp where
  | mwld (slot : Nat)
  | mma (kind : RowKind) (slot : Nat) (rows shape : Word)
  | mzero (first count : Word)
  | mdrain (kind : Nat) (rows user ox1 : Word)
  deriving DecidableEq, Repr

/-- An entry of the engine queue (R155). -/
structure MatEntry where
  op : MatOp
  seq : Nat
  ctx : Nat
  act : Nat
  launch : Nat
  pc : Word
  word : Word32
  /-- rows already copied by an MDRAIN that waits for buffer entries, and the cycle since which it waits (R153, R229) -/
  done : Nat := 0
  waits : Option Nat := none
  /-- an operand's OSLD faulted while it waited (R63) -/
  broken : Bool := false
  /-- the seal record of its slot group, where an OSREL has released the group since (R63, R322) -/
  kept : Option SealRec := none
  deriving DecidableEq, Repr

/-- An entry of the drain buffer (R152, R153). -/
structure DrainEntry where
  /-- the order in which rows entered -/
  order : Nat
  row : Nat
  lanes : Vec
  scales : Vec
  user : Word
  handler : Nat
  launch : Nat
  dispatched : Bool
  deriving DecidableEq, Repr

/-- A waiter on a semaphore or queue: a context and the register its instruction writes, or an access (R82, R333). -/
inductive Waiter where
  | ctx (k d : Nat)
  | txn (id : Nat)
  deriving DecidableEq, Repr

/-- A tile's shared resources. -/
structure Tile where
  /-- the launch resident on the tile (R42, R96) -/
  launch : Option Nat := none
  /-- semaphores 0-7 (R43), and who waits to lower and to raise each -/
  sems : Tbl (BitVec 16) := []
  semDown : Tbl (List Waiter) := []
  semUp : Tbl (List Waiter) := []
  /-- data queues 0-3, oldest first (R43), and who waits to get and to put -/
  queues : Tbl (List Word) := []
  queueGet : Tbl (List Waiter) := []
  queuePut : Tbl (List Waiter) := []
  /-- the branch-outcome queue, oldest first (R290) -/
  outcomes : List Bool := []
  /-- the catalogue (R58) -/
  catalogue : Tbl (Option (BitVec 48)) := []
  /-- operand slots 0-23 (R61) and the seal records of their groups (R199) -/
  slots : Tbl SlotTag := []
  seals : Tbl (Option SealRec) := []
  /-- slots whose data holds an uncorrectable error (R22) -/
  slotBad : Tbl Bool := []
  /-- accumulator rows 0-511 and the two weight registers (R144) -/
  rows : Tbl Row := []
  shadow : Option Weights := none
  active : Option Weights := none
  /-- the engine queue, oldest first (R155), and the drain buffer by entry (R152) -/
  engine : List MatEntry := []
  drain : Tbl (Option DrainEntry) := []
  /-- decrypted units at the node port: the physical address of the unit and its plaintext (R200) -/
  nodeUnits : List (Nat × List Byte) := []
  /-- a forwarding entry to the tile that replaced this one, and the cores whose markers have passed (R168) -/
  forward : Option Nat := none
  markers : List Nat := []
  /-- frozen for migration to this tile (R168) -/
  frozen : Option Nat := none
  /-- in service (R20), quarantined since boot (R21), replaced by its column's spare at boot (R20) -/
  inService : Bool := false
  quarantined : Bool := false
  spare : Bool := false
  /-- a machine check waits for the folios of its contexts, or a LOST launch's clear is due (R162, R173) -/
  checking : Bool := false
  /-- clock-gated, and the cycle since which its idle wire is set (R111, R231) -/
  gated : Bool := false
  idleSince : Option Nat := none
  deriving DecidableEq, Repr

/-- A footprint: base, length, and whether it is written (R84). -/
structure Footprint where
  base : Nat
  len : Nat
  write : Bool
  deriving DecidableEq, Repr

/-- What an entry of the footprint table is (R84, R109). -/
inductive EngineKind where
  | copy | collective | tileTask
  deriving DecidableEq, Repr

/-- An engine job or tile task (R84, R109, R308). -/
structure EngineJob where
  id : Nat
  kind : EngineKind
  ctx : Nat
  act : Nat
  launch : Nat
  /-- the card's or record's address and bytes, and the queue's bound revision (R190) -/
  va : Word
  card : List Byte
  bad : Bool
  revision : Nat
  /-- the tile of the engine's M-core (R86) -/
  unit : Nat
  /-- arrived at the table (R84) -/
  accepted : Bool
  started : Bool
  /-- the tile that runs a tile task (R110) -/
  runner : Option Nat
  /-- a tile task that has ended: the accesses whose completion its entry still awaits (R110) -/
  ending : Option (List Nat) := none
  /-- the contribution that a collective has read and sent to the other members (R219) -/
  own : Option (List Word32) := none
  deriving DecidableEq, Repr

/-- A monitor slot (R229, R230). -/
structure Monitor where
  launch : Option Nat := none
  source : Nat := 0
  samples : Nat := 0
  max : Nat := 0
  min : Nat := 0xFFFFFFFF
  bins : Tbl Nat := []
  /-- events counted since the last sample of a source that is sampled at intervals (R229) -/
  count : Nat := 0
  deriving DecidableEq, Repr

/-- The contexts that the ALIGNs of one handler and immediate still await: fixed when the first of them reached it (R46). -/
structure AlignGroup where
  launch : Nat
  handler : Nat
  imm : Nat
  awaited : List Nat
  deriving DecidableEq, Repr

/-- A cluster's shared resources. -/
structure Cluster where
  icache : List ILine := []
  tlb : List TlbEntry := []
  /-- the footprint table in arrival order (R84), and jobs that wait for an entry -/
  table : List EngineJob := []
  monitors : Tbl Monitor := []
  /-- the security event counter (R96) -/
  secEvents : Nat := 0
  /-- the ALIGNs reached whose awaited set is not yet empty (R46) -/
  aligns : List AlignGroup := []
  deriving DecidableEq, Repr

/-- A part of a block read (R288): where its bytes lie, or the fault of its translation: cause, detail, address (R289). -/
structure BlkPart where
  id : Nat
  off : Nat
  len : Nat
  home : Option Home
  key : Nat
  kid : Nat
  fault : Option (Nat × Nat × Word)
  /-- the bytes that its home has read, and the mark of each (R171) -/
  got : Option (List Byte × List Bool) := none
  /-- the size class of its translation, 0 where it has none (R71) -/
  size : Nat := 0
  deriving DecidableEq, Repr

/-- A block read under way (R287, R288). -/
structure BlkRead where
  ctx : Nat
  act : Nat
  launch : Nat
  dst : Word
  src : Word
  ctl : Word
  user : Word
  parts : List BlkPart
  /-- the region whose access it is (R118) -/
  region : Option (Nat × Nat) := none
  deriving DecidableEq, Repr

/-- An OSLD under way (R323). -/
structure SlotLoad where
  id : Nat
  ctx : Nat
  act : Nat
  launch : Nat
  unit : Nat
  slot : Nat
  src : Word
  ox1 : Word
  ox2 : Word
  seq : Nat
  pc : Word
  word : Word32
  /-- the region whose access it is (R118) -/
  region : Option (Nat × Nat) := none
  deriving DecidableEq, Repr

/-- A late fault on its way to its context (R161). -/
structure PendingLate where
  id : Nat
  ctx : Nat
  act : Nat
  launch : Nat
  record : LateRec
  deriving DecidableEq, Repr

/-- The states of a region directory slot (R119). -/
inductive SlotPhase where
  | free | active | irrevocable | committing | aborting
  deriving DecidableEq, Repr

/-- A slot of the region directory (R119). -/
structure DirSlot where
  phase : SlotPhase := .free
  ordered : Bool := false
  inDepth : Nat := 0
  outDepth : Nat := 0
  launch : Nat := 0
  /-- the owning context; its core's place is ctl [35:15] -/
  ctx : Nat := 0
  aborts : Nat := 0
  bucket : Nat := 0
  pkg : Nat := 0
  order : Nat := 0
  beginAt : Nat := 0
  pred : BitVec 256 := 0
  src : BitVec 256 := 0
  clo : BitVec 256 := 0
  /-- it has become IRREVOCABLE, which FRCOM's result and the hold on its lines outlast (R127, R130) -/
  solid : Bool := false
  /-- homes whose merges are still awaited by FRCOM (R127) -/
  homes : List Home := []
  /-- lines that it has touched as IRREVOCABLE and has no version of: other accesses wait for its FRCOM there too (R130) -/
  touched : List (Home × Nat) := []
  deriving DecidableEq, Repr

/-- An entry of a home's version table (R120): line, slot and begin sequence, bytes written by offset, read mark. -/
structure Version where
  home : Home
  line : Nat
  slot : Nat
  beginAt : Nat
  mask : BitVec 64
  data : Tbl Byte
  read : Bool
  /-- the key identity of the page (R195), and the mark of poisoned data (R171) -/
  kid : Nat
  bad : Bool
  deriving DecidableEq, Repr

/-- A shootdown (R71): the registers, the range of the one that XSD_CTL last began, and the agents whose acknowledgement is awaited. -/
structure Shootdown where
  base : Word := 0
  len : Word := 0
  ctl : Word := 0
  fromBase : Word := 0
  fromLen : Word := 0
  awaited : List Nat := []
  deriving DecidableEq, Repr

/-- The life of a launch (R47, R95, R97, R170, R206). -/
inductive LaunchState where
  /-- its predecessors have not completed -/
  | waiting
  /-- ready, not yet admitted or waiting for a body or for key indices -/
  | pending
  /-- holds a ticket and waits for tiles -/
  | placing
  | resident
  | absent
  /-- ended: its tiles wait for the clear routine -/
  | ended
  | retired
  deriving DecidableEq, Repr

/-- A cancel under way (R48): its level, the cycle of its CNCL, and the place word that CANCELLED's w10 carries. -/
structure Cancel where
  level : Nat
  since : Nat
  by_ : Word
  /-- the grace interval has ended -/
  graceOver : Bool := false
  deriving DecidableEq, Repr

/-- An engine queue that QBIND created (R327). -/
structure EngineQueue where
  unit : Nat
  number : Nat
  kind : Nat
  revision : Nat
  handle : Word
  deriving DecidableEq, Repr

/-- A launch: its record (R95) and what the steward keeps of it. -/
structure Launch where
  /-- the record's address and its dwords as checked at admission, HW fields filled in -/
  addr : Nat
  record : List Word
  job : Nat
  phase : Nat
  graph : Nat
  /-- its index in its graph -/
  index : Nat
  state : LaunchState
  /-- the admission ticket: the job's priority in bits [63:56], the arrival sequence in [55:0] (R97) -/
  ticket : Nat := 0
  /-- the steward that admitted it (R362) -/
  steward : Nat := 0
  /-- the physical tile of each launch tile index g * T + t (R165, R363): the place map (R53) -/
  units : List Nat := []
  /-- the cluster rectangles placed so far, group by group, while it waits for more (R97) -/
  held : List Nat := []
  /-- the placement that the steward has chosen for it while it waits (R97) -/
  chosen : List Nat := []
  /-- the base of its pool allocation in each cluster where it is placed (R60) -/
  pools : List (Nat × Nat) := []
  /-- where the body is mapped (R72) -/
  body : Nat := 0
  /-- the bound body that it runs (R187) -/
  bound : Option Nat := none
  /-- the launch's copy of its bindings (R272): parameter, type code, value -/
  bindings : List (Nat × Nat × Word) := []
  /-- the values of its bind-time and live slots (R186) -/
  slotValues : List (Nat × Word) := []
  queues : List EngineQueue := []
  /-- the world's key index and the indices of its sealed models (R195) -/
  worldKey : Option Nat := none
  modelKeys : List (Word × Nat) := []
  cancel : Option Cancel := none
  /-- the cycle of the first dispatch (R260) -/
  first : Option Nat := none
  /-- the cycle of an idle sample that found it idle (R112) -/
  sample : Option Nat := none
  endSent : Bool := false
  /-- its status once it has ended (R94), and the fault report's reason -/
  status : Option Nat := none
  reason : String := ""
  /-- arrivals parked while it is absent, oldest first (R170) -/
  parked : List Msg := []
  /-- it is absent for a rebuild, or for the dormant state (R183, R212) -/
  forRebuild : Bool := false
  /-- inter-package messages sent and received, and the floors last exchanged (R101, R112) -/
  sent : Nat := 0
  received : Nat := 0
  peers : List PeerFloor := []
  /-- the package asked for a chunk of tasks, until it answers; requests of other packages still to be answered here, and the chunks that
  answered them, oldest first (R103) -/
  asked : Option Nat := none
  asks : Nat := 0
  given : List (List TaskRec) := []
  /-- an arrival for the absent launch has made a steward bring it back (R170) -/
  returning : Bool := false
  /-- MODEL. The tiles that it held before it became absent; while it is absent its units are parking places (log entry 30) -/
  left : List Nat := []
  /-- the identity of its world, which its key bears where it has one (R194, R206) -/
  world : Nat := 0
  /-- the physical base of each 64 MiB of its Stacks (R100), and of its overflow store (R170), 0 before the first dispatch -/
  stackBlocks : List Nat := []
  overflowBlock : Nat := 0
  /-- the last audit record of its world (R208) -/
  lastAudit : Option Nat := none
  /-- its forwards granted and withheld, its aborts by cycle and by cascade, by the monitor sources' codes (R229, R242) -/
  counters : Tbl Nat := []
  deriving DecidableEq, Repr

/-- A page of a job that SVC services 3 and 4 map and unmap for its launches (R340). -/
structure ReservedPage where
  va : Nat
  pa : Nat
  mapped : Bool
  deriving DecidableEq, Repr

/-- A graph as its entry and edge array give it (R93): the addresses of its launch records and its edges. -/
structure Graph where
  launches : List Nat
  edges : List (Nat × Nat)
  deriving DecidableEq, Repr

/-- A job (R93, R94). -/
structure Job where
  desc : List Word
  /-- the graphs of each phase -/
  phases : List (List Graph)
  /-- the phase that runs, and the launches created for it -/
  phase : Nat
  /-- the deadline count, which falls while a launch is placed (R113) -/
  dlLeft : Nat
  cancel : Option Cancel := none
  cancelledGraphs : List (Nat × Nat) := []
  cancelledPhases : List Nat := []
  /-- FAULT, LOST or DEADLINE that ends it (R94) -/
  fatal : Option Nat := none
  status : Option Nat := none
  reason : String := ""
  reserved : List ReservedPage := []
  /-- the dump attached to a DEADLINE report (R113): the folio addresses written, and each core's ring, its deque and the chunks of its
  Stacks, and the launch's region slots, as they stood -/
  dump : List Nat := []
  dumpRings : List (Nat × List RingRec) := []
  dumpTasks : List (Nat × List TaskRec) := []
  dumpRegions : List (Nat × DirSlot) := []
  deriving DecidableEq, Repr

/-- A request of the host link (R220, R221): region, offset and bytes, and the value of a posted write; a read has none. -/
structure LinkReq where
  bar : Nat
  off : Nat
  size : Nat
  value : Option Word
  deriving DecidableEq, Repr

/-- The host's registers (R222, R223), the mailbox buffers (R224) and the MSI-X vectors raised (R220). -/
structure HostRegs where
  jqBase : Word := 0
  jqSize : Nat := 6
  jqTail : Nat := 0
  jqHead : Nat := 0
  jqOverrun : Nat := 0
  bootStatus : Nat := 0
  tileCount : Nat := 0
  secEvents : Nat := 0
  errUncorrectable : Nat := 0
  errCorrected : Nat := 0
  spdmReqLen : Nat := 0
  spdmRspLen : Nat := 0
  ptReqBase : Word := 0
  ptRspBase : Word := 0
  ptSize : Nat := 4
  ptReqTail : Nat := 0
  ptReqHead : Nat := 0
  ptRspTail : Nat := 0
  ptRspHead : Nat := 0
  spdmReq : Tbl Byte := []
  spdmRsp : Tbl Byte := []
  hwinBase : Word := 0
  powerCap : Nat := 2200
  powerCtl : Nat := 0
  /-- vectors raised, in order -/
  msix : List Nat := []
  /-- requests of the host link not yet performed, in arrival order, and the bytes that its reads have returned (R221) -/
  link : List LinkReq := []
  reads : List (List Byte) := []
  /-- the reasons recorded in the error log (R181) -/
  errorLog : List String := []
  /-- the tiles that failed the self-test of a device announced as not serviceable (R20) -/
  selfTest : List Nat := []
  /-- completions and reports that the host has been sent: job, status, reason (R94) -/
  reports : List (Word × Nat × String) := []
  deriving DecidableEq, Repr

/-- The states of a capsule (R181). -/
inductive CapsuleState where
  | installing | ready | void | rebuilding | retired
  deriving DecidableEq, Repr

/-- A handler table entry (R179). -/
structure HandlerEntry where
  entry : Nat
  role : Nat
  hint : Nat
  present : Bool
  deriving DecidableEq, Repr

/-- A SLOTS entry (R184). -/
structure SlotEntry where
  sites : List Nat
  type : Nat
  when_ : Nat
  deriving DecidableEq, Repr

/-- The triple under which a body is built (R181). -/
structure Triple where
  generation : Nat := 2
  translator : Nat := 0
  epoch : Nat := 0
  deriving DecidableEq, Repr

/-- An installed capsule (R178 to R181). -/
structure Capsule where
  accession : Word
  state : CapsuleState
  triple : Triple
  /-- the capsule's bytes, without BODY -/
  bytes : List Byte
  portable : List Word32
  /-- the map of its bodies: the place of each portable word in a body, in bytes, and the body's length behind the last (R178, R182) -/
  map : List Nat
  handlers : List HandlerEntry
  /-- total bytes of its named regions (R31) -/
  regions : Nat
  slots : List SlotEntry
  /-- parameters: index and type code (R188) -/
  refs : List (Nat × Nat)
  /-- node-format descriptors, four dwords each (R201) -/
  nodeFormats : List (List Word)
  /-- trap class and handler (R157) -/
  traps : List (Nat × Nat)
  trying : Bool
  /-- revisions negotiated for the engine kinds (R190) -/
  revisions : List Nat
  /-- SEAL note records: measurement and handle (R176) -/
  seals : List (List Byte × Word)
  ignored : List Nat
  tenant : Nat
  /-- install-time slot values (R186) -/
  installed : List (Nat × Word)
  deriving DecidableEq, Repr

/-- A body that the Mint has built of a capsule: the values of its bind-time and live slots, whether it serves a launch with live slots,
and its physical pages (R72, R187). Number 0 is a capsule's own body. -/
structure Body where
  number : Nat
  accession : Word
  values : List (Nat × Word)
  live : Bool
  pages : List Nat
  deriving DecidableEq, Repr

/-- The answers of the Mint to its requests, oldest first (R178, R185, R241): status, accession, existing flag. -/
structure MintReport where
  status : Int
  accession : Word
  existing : Bool
  ignored : List Nat := []
  exported : List Byte := []
  deriving DecidableEq, Repr

/-- A key-store entry of the vault (R194). -/
structure KeyEntry where
  tenant : Nat
  generation : Nat
  key : Nat
  deriving DecidableEq, Repr

/-- A sealed region (R197): what the vault and the steward know of it. -/
structure SealedRegion where
  handle : Word
  kind : Nat
  format : Nat
  units : Nat
  measurement : List Byte
  /-- the model key's identity, and the tenant key that wraps it -/
  key : Nat
  tenantKey : Nat
  tenant : Nat
  /-- the physical page of each 64 KiB of it -/
  pages : List Nat
  deriving DecidableEq, Repr

/-- What the resident system holds of a tenant (R93, R96, R177, R205). -/
structure Tenant where
  /-- its sub-mesh: x, y, width, height in clusters, none for a tenant without one (R96) -/
  mesh : Option (Nat × Nat × Nat × Nat) := none
  registered : Bool := false
  /-- its public keys, x and y of 48 bytes each, and whether its policy requires signed capsules (R177) -/
  keys : List (List Byte) := []
  signedOnly : Bool := false
  /-- digests of requester keys registered for the protected-transfer channel (R226) -/
  requesters : List (List Byte) := []
  /-- the audit log's ring: physical base, entries, write and read counts, next sequence (R205) -/
  logBase : Nat := 0
  logSize : Nat := 0
  logWrite : Nat := 0
  logRead : Nat := 0
  logSeq : Nat := 0
  /-- the log stream key, and how often its first value has been released to the tenant (R205, R209) -/
  logKey : List Byte := []
  logReleased : Nat := 0
  /-- MODEL. The pages that the resident system maps for the tenant's launches: virtual address, physical address, permission
  bits; and the virtual pages that it reserves for them (R340; log entry 11) -/
  maps : List (Nat × Nat × Nat) := []
  reserves : List Nat := []
  /-- how many receipts its ring has taken: the ring lies behind the audit log's, with as many entries (R208; log entry 75) -/
  receipts : Nat := 0
  deriving DecidableEq, Repr

/-- The key slots of a channel (R210). -/
structure KeySlots where
  active : Option Nat := none
  pending : Option Nat := none
  /-- the keys of rekeys that wait until the old slot has been zeroed, oldest first -/
  waiting : List Nat := []
  /-- the phase bit in use -/
  phase : Bool := false
  /-- the old slot has not yet been zeroed -/
  draining : Bool := false
  deriving DecidableEq, Repr

/-- An SPDM session (R213, R225). -/
structure SpdmState where
  /-- the identity of the session's keys, and how many secured messages each way they have carried (R224) -/
  key : Nat := 0
  taken : Nat := 0
  given : Nat := 0
  version : Bool := false
  negotiated : Bool := false
  exchange : Bool := false
  established : Bool := false
  /-- an encapsulated request to the requester is under way (R213) -/
  encapsulated : Bool := false
  /-- the digest of the key that mutual authentication found (R226) -/
  requester : Option (List Byte) := none
  deriving DecidableEq, Repr

/-- An image as it is fetched from a URL, with the chain of keys that verifies it (R227): keys of 96 bytes, signatures r and s. -/
structure Image where
  url : List Byte
  body : List Byte
  revision : Nat
  rootKey : List Byte
  firmwareKey : List Byte
  keySignature : List Byte
  signature : List Byte
  deriving DecidableEq, Repr

/-- The vault (R194 to R213, R224 to R227). -/
structure Vault where
  keys : Tbl (Option KeyEntry) := []
  /-- key indices 1-63 by identity, 0 empty (R195) -/
  indices : Tbl Nat := []
  sealed : List SealedRegion := []
  tenants : Tbl Tenant := []
  mailbox : SpdmState := {}
  /-- the sessions over the Ethernet ports, and their debug channels, by client (R193, R210, R228), and what the vault has answered there,
  oldest first -/
  ethernet : Tbl SpdmState := []
  debug : Tbl KeySlots := []
  answered : List (Nat × List Byte) := []
  transfer : KeySlots := {}
  steward : KeySlots := {}
  /-- the sequence number the next protected-transfer request must carry (R225) -/
  ptNext : Nat := 0
  /-- measurements 1-7 (R213) -/
  measurements : Tbl (List Byte) := []
  /-- dormant (R231), and a protected world was ended by it -/
  dormant : Bool := false
  /-- the junction temperature has passed 110 C (R231) -/
  stopped : Bool := false
  /-- throttled to the cap's minimum (R231) -/
  throttled : Bool := false
  booted : Bool := false
  /-- seconds before the next attempt to fetch the image, and the cycle from which it may be made (R227) -/
  retryDelay : Nat := 0
  retryAt : Nat := 0
  /-- the image fetched and not yet verified (R227) -/
  image : Option Image := none
  /-- the provisioning record in flash (R227) -/
  url : List Byte := []
  lastGood : List Byte := []
  minRevision : Nat := 0
  /-- the fuses: the hash of the vendor root key, and the minimum revision (R227; log entry 83) -/
  rootHash : List Byte := []
  fusedMinimum : Nat := 0
  /-- the log stream keys released: tenant, and the message that carries the key under a session (R205) -/
  released : List (Nat × List Byte) := []
  deriving DecidableEq, Repr

/-- The sending end of a ratchet (R209): how many packets have been sent, the keys by boundary that are not destroyed, the last first, and the
packets that await their acknowledgement: of which message or access, their index and the plane whose traffic they are. -/
structure Sender where
  sent : Nat := 0
  keys : List (Nat × List Byte) := []
  waiting : List (Nat × Nat × Nat) := []
  deriving DecidableEq, Repr

/-- A fabric port (R214 to R217). -/
structure Port where
  up : Bool := true
  retries : Nat := 0
  retraining : Bool := false
  /-- the cycle at which retraining began -/
  since : Nat := 0
  /-- the plane that carries its traffic while it is down -/
  redirect : Option Nat := none
  /-- it has retrained, and its traffic is held until what went by the other plane has been acknowledged -/
  returning : Bool := false
  /-- the index the next accepted packet must carry, the port key of its boundary, and the payloads of its flits so far (R209, R216) -/
  next : Nat := 0
  key : List Byte := []
  parts : List (List Byte) := []
  /-- its packets that leave -/
  out : Sender := {}
  deriving DecidableEq, Repr

/-- The inbox streams from and to a package (R209): packets accepted, with the key of the last one's boundary, and packets sent. -/
structure Stream where
  count : Nat := 0
  key : List Byte := []
  out : Sender := {}
  deriving DecidableEq, Repr

/-- A debug session (R228, R242): the job that it holds, whether it has stopped its launches, and its breakpoints by number. -/
structure Session where
  job : Option Nat := none
  stopped : Bool := false
  breakpoints : List (Nat × Nat) := []
  nextBreak : Nat := 0
  deriving DecidableEq, Repr

/-- What a client is shown: a value, or the portable location to which MAP ties an address inside a body (R274). -/
inductive Shown where
  | value (x : Word)
  | mapped (loc : Nat)
  deriving DecidableEq, Repr

/-- An answer of readroom: the client, the identity of the SPDM session key under which state released under consent travels, what is shown,
and the sealed message of such an answer, which shows nothing beside it (R193). -/
structure Answer where
  client : Nat
  key : Option Nat
  shown : List Shown
  sealed : List Byte := []
  deriving DecidableEq, Repr

/-- readroom (R228): the sessions by client, the client whose commands follow, and the answers sent, oldest first. -/
structure Readroom where
  sessions : Tbl Session := []
  client : Nat := 0
  answers : List Answer := []
  deriving DecidableEq, Repr

/-- An error that physics brings into a structure (R22). -/
inductive Upset where
  /-- one that the code corrects -/
  | corrected
  /-- an uncorrectable error: in a byte of memory, by its key; a slot's data; an accumulator row; an entry of an agent's or a cluster's TLB, by
  its position; a version, by its position -/
  | memory (key : Nat)
  | slot (unit slot : Nat)
  | row (unit row : Nat)
  | tlb (core : Nat) (entry : Nat)
  | clusterTlb (cluster entry : Nat)
  | version (entry : Nat)
  /-- a parity error in a register file of a context: whether the replay of the instruction fails too -/
  | registers (ctx : Nat) (again : Bool)
  /-- the next matrix pass of a tile: computations that mismatch -/
  | pass (unit : Nat) (times : Nat)
  deriving DecidableEq, Repr

/-- A move of the model: which agent acts next (log entry 3). -/
inductive Move where
  /-- a step of the table that is not fetched -/
  | event (i : Instr)
  /-- the turn passes to a context -/
  | turn (ctx : Nat)
  /-- n cycles pass -/
  | idle (n : Nat)
  /-- a steward serves the SVC of a stopped context and returns to it (R339) -/
  | service (ctx : Nat)
  /-- inputs that the opcode table has no row for: a host read (R220); an MSI-X request to the stewards (R301); the acknowledgement of a
  message that has left for another package (R300); an error (R22); an uncorrectable error while a context's folio is written (R165) -/
  | hostRead (bar off n : Nat)
  | msixRequest
  | remoteAck (id : Nat)
  | upset (u : Upset)
  | folioError (ctx : Nat)
  /-- the image arrives (R227); the client whose commands follow (R228) -/
  | image (i : Image)
  | client (n : Nat)
  /-- a new key, or a packet of a phase, on a channel (R210); the release of a log stream key over a path (R205) -/
  | newKey (chan : Channel) (key : Nat)
  | packet (chan : Channel) (phase : Bool)
  | logKey (path : SpdmPath) (tenant : Nat)
  /-- a steward moves a page of a launch to another physical page (R195) -/
  | movePage (tag va pa : Nat)
  deriving DecidableEq, Repr

/-- The machine. -/
structure State where
  /-- MODEL. Cycles passed (log entry 4). -/
  cycle : Nat := 0
  /-- MODEL. The moves still to come (log entry 3). -/
  schedule : List Move := []
  /-- MODEL. The context whose turn it is (log entry 3). -/
  cur : Nat := 0
  /-- MODEL. The next step is the hardware's, and which of its steps it tries first (log entry 3). -/
  hwTurn : Bool := false
  hwPos : Nat := 0
  /-- MODEL. The next identity given to an access, message, activation, job or key. -/
  nextId : Nat := 1
  /-- MODEL. How many free values have been taken (log entry 5). -/
  freeCtr : Nat := 0
  /-- memory: physical HBM by its address, scratchpads and pools above 2^52 (R52, R55; log entry 2) -/
  mem : Tbl Byte := []
  /-- the poison mark of each byte of memory (R171); what it would mark in operand memory faults at the load (R324) -/
  bad : Tbl Bool := []
  /-- the key identity under which each HBM line was last written (R195) -/
  lineKey : Tbl Nat := []
  /-- operand memory: slots and side areas (R62) -/
  opmem : Tbl Byte := []
  ctxs : Tbl Ctx := []
  cores : Tbl Core := []
  tiles : Tbl Tile := []
  clusters : Tbl Cluster := []
  /-- accesses and messages in flight, oldest first -/
  txns : List Txn := []
  msgs : List Msg := []
  blks : List BlkRead := []
  loads : List SlotLoad := []
  /-- jobs submitted and not yet accepted by their footprint table (R84) -/
  submitted : List EngineJob := []
  lates : List PendingLate := []
  /-- the contributions of other packages to collectives, by tag and package (R219) -/
  collected : List (Word × Nat × List Word32) := []
  /-- messages taken by the firmware of bank cores, stewards and the vault (R334) -/
  firmware : List Msg := []
  /-- the region directory (R119), the homes' versions in chain order (R120), and the counters (R114) -/
  dir : Tbl DirSlot := []
  versions : List Version := []
  beginSeq : Nat := 0
  pushSeq : Nat := 0
  launches : List (Nat × Launch) := []
  jobs : List (Nat × Job) := []
  /-- the next launch tag, job number and ticket sequence (R97) -/
  nextTag : Nat := 1
  nextJob : Nat := 1
  nextTicket : Nat := 0
  host : HostRegs := {}
  capsules : List Capsule := []
  triple : Triple := {}
  reports : List MintReport := []
  vault : Vault := {}
  ports : Tbl Port := []
  /-- the flits that have left, with their ports, oldest first (R216) -/
  flits : List (Nat × List Byte) := []
  /-- the inbox streams from other packages (R209) -/
  streams : Tbl Stream := []
  shoot : Shootdown := {}
  readroom : Readroom := {}
  /-- packages of the domain, and this package's index (R23, R214; log entry 10) -/
  packages : Nat := 1
  package : Nat := 0
  /-- MODEL. 64 KiB pages that the resident system has allocated for tables, bodies and save areas, and those given back (log entry
  11) -/
  pages : Nat := 0
  freePages : List Nat := []
  /-- MODEL. The 64 MiB blocks given back, by physical address (log entry 33) -/
  spareBlocks : List Nat := []
  /-- the world that a 64 KiB page was last mapped into, by page (R206) -/
  worldPages : Tbl Nat := []
  /-- the bodies that the Mint has built (R72, R187) -/
  bodies : List Body := []
  deriving DecidableEq, Repr

/-- The machine right after reset (R5, R222, R223, R227): every register the manual gives a reset value holds it; the others
hold the values of log entries 1 to 5. -/
def State.reset : State := {}

end Sys2Proof.Machine
end

