-- ==== Sys2Proof/Machine/Memory.lean ====
section
/-!
DEFINITION. Sys2Proof/Machine/Memory.lean: the numbering of agents, the tables of contexts, cores, tiles and clusters,
memory with its poison marks and keys, the address windows (R52, R53), the page tables (R66, R67), the permission checks
(R68) and the translation buffers (R69).
-/

namespace Sys2Proof.Machine

/-- What a step answers. -/
abbrev Out := Host.Outcome State Fault Refusal

/-- The n bits of a number from bit lo (R4). -/
def field (x lo n : Nat) : Nat := x / 2 ^ lo % 2 ^ n

/-- The bits of a doubleword from bit lo (R4). -/
def Word.field (x : Word) (lo n : Nat) : Nat := x.toNat / 2 ^ lo % 2 ^ n

/-- The little-endian value of bytes (R4). -/
def bytesNat : List Byte → Nat
  | [] => 0
  | b :: r => b.toNat + 256 * bytesNat r

/-- The n bytes of a value, little-endian (R4). -/
def natBytes : Nat → Nat → List Byte
  | 0, _ => []
  | n + 1, x => BitVec.ofNat 8 x :: natBytes n (x / 256)

/-- A list's element, or a default. -/
def nth {α : Type} (d : α) (l : List α) (n : Nat) : α := (l[n]?).getD d

/-! ## Agents (R10, R14, R23) -/

def unitOf (k : Nat) : Nat := k / 32

def roleOf (k : Nat) : Nat := k / 8 % 4

def numOf (k : Nat) : Nat := k % 8

def coreOf (k : Nat) : Nat := k / 8

def clusterOf (unit : Nat) : Nat := unit / 8

/-- The agent of a unit and role, and the context of an agent. -/
def agentKey (unit role : Nat) : Nat := unit * 4 + role

def ctxKey (unit role c : Nat) : Nat := (unit * 4 + role) * 8 + c

/-- The units of the package's agents (R10, R14, R23; log entry 9). -/
def isTile (unit : Nat) : Bool := decide (unit < 288)

def isSteward (unit : Nat) : Bool := decide (1008 ≤ unit) && decide (unit ≤ 1015)

def isVault (unit : Nat) : Bool := unit == 1016

/-! ## Tables -/

def State.ctx (s : State) (k : Nat) : Ctx := Tbl.get {} s.ctxs k

def State.setCtx (s : State) (k : Nat) (c : Ctx) : State := { s with ctxs := Tbl.set {} s.ctxs k c }

def State.core (s : State) (a : Nat) : Core := Tbl.get {} s.cores a

def State.setCore (s : State) (a : Nat) (c : Core) : State := { s with cores := Tbl.set {} s.cores a c }

def State.tile (s : State) (u : Nat) : Tile := Tbl.get {} s.tiles u

def State.setTile (s : State) (u : Nat) (t : Tile) : State := { s with tiles := Tbl.set {} s.tiles u t }

def State.cluster (s : State) (n : Nat) : Cluster := Tbl.get {} s.clusters n

def State.setCluster (s : State) (n : Nat) (c : Cluster) : State :=
  { s with clusters := Tbl.set {} s.clusters n c }

def State.slot (s : State) (n : Nat) : DirSlot := Tbl.get {} s.dir n

def State.setSlot (s : State) (n : Nat) (d : DirSlot) : State := { s with dir := Tbl.set {} s.dir n d }

/-- The entry of a key in an association list. -/
def assoc {α : Type} (l : List (Nat × α)) (k : Nat) : Option α := (l.find? (fun entry => entry.1 == k)).map (fun entry => entry.2)

/-- The association list with the first entry of a key replaced, or added at its end. -/
def assocSet {α : Type} (l : List (Nat × α)) (k : Nat) (x : α) : List (Nat × α) :=
  l.takeWhile (fun entry => entry.1 != k) ++ (k, x) :: (l.dropWhile (fun entry => entry.1 != k)).tail

def State.launch? (s : State) (l : Nat) : Option Launch := assoc s.launches l

def State.setLaunch (s : State) (l : Nat) (x : Launch) : State := { s with launches := assocSet s.launches l x }

def State.job? (s : State) (j : Nat) : Option Job := assoc s.jobs j

def State.setJob (s : State) (j : Nat) (x : Job) : State := { s with jobs := assocSet s.jobs j x }

/-- A field of a launch record: n bits from bit lo of a dword (R95). -/
def Launch.field (l : Launch) (dword lo n : Nat) : Nat := Word.field (nth 0 l.record dword) lo n

/-- A launch's inbox ring size S (R35, R95). -/
def Launch.ringSize (l : Launch) : Nat := 2 ^ (12 + l.field 5 36 4)

def Launch.groups (l : Launch) : Nat := l.field 4 48 16

/-- The tiles of every group (R96, R165). -/
def Launch.groupTiles (l : Launch) : Nat := l.field 4 40 8 * l.field 4 32 8 * l.field 4 24 8

def Launch.tileTasks (l : Launch) : Bool := l.field 1 0 1 == 1

def Launch.protected_ (l : Launch) : Bool := l.field 1 1 1 == 1

def Launch.root (l : Launch) : Nat := (nth 0 l.record 3).toNat

/-- The bytes of its pool allocation in each cluster (R60, R95). -/
def Launch.poolBytes (l : Launch) : Nat := l.field 5 0 24 * 65536

/-- The offset B at which the stacks begin (R31). -/
def Launch.stackBase (l : Launch) : Nat := 524288 - 3 * l.ringSize - 49152

/-- The number of drain contexts of an A-core (R95). -/
def Launch.drains (l : Launch) : Nat := 2 + l.field 5 34 2

/-- The launch of a context's activation. -/
def State.launchOf (s : State) (k : Nat) : Option Launch := s.launch? (s.ctx k).launch

/-- The capsule of an accession number that is held on the device (R180). -/
def State.capsule? (s : State) (acc : Word) : Option Capsule := s.capsules.find? (fun c => c.accession == acc)

def State.capsuleOf (s : State) (l : Launch) : Option Capsule := s.capsule? (nth 0 l.record 0)

/-- The place in a body to which MAP ties a portable location (R178, R182). -/
def Capsule.native (c : Capsule) (loc : Nat) : Nat := nth (loc / 4 * 4) c.map (loc / 4) + loc % 4

/-- The portable location of the instruction in which a place of a body lies (R182, R274): the instructions that start at it or before,
but for the first. -/
def Capsule.portableAt (c : Capsule) (x : Nat) : Nat :=
  4 * ((List.range c.portable.length).filter (fun i => decide (0 < i) && decide (c.native (4 * i) ≤ x))).length

/-- The handler that an index names (R179). -/
def Capsule.handler? (c : Capsule) (h : Nat) : Option HandlerEntry :=
  match c.handlers[h]? with
  | some e => if e.present then some e else none
  | none => none

def State.handler? (s : State) (tag h : Nat) : Option HandlerEntry :=
  match s.launch? tag with
  | some l => match s.capsuleOf l with
    | some c => c.handler? h
    | none => none
  | none => none

/-- Whether a handler of declared role r may run on a core of a role (R25, R179). -/
def roleAllows (declared role : Nat) : Bool := declared == 3 || declared == role

/-- The level at which a context executes (R261). -/
def State.level (s : State) (k : Nat) : Level :=
  if isSteward (unitOf k) then .s else if isVault (unitOf k) then .v else (s.ctx k).level

def Level.rank : Level → Nat
  | .h => 0
  | .s => 1
  | .v => 2

/-- The next identity. -/
def State.fresh (s : State) : State := { s with nextId := s.nextId + 1 }

/-- An MSI-X vector raised (R220). -/
def State.raiseMsix (s : State) (n : Nat) : State := { s with host := { s.host with msix := s.host.msix ++ [n] } }

/-- A corrected error or a replay at the monitor slots that count them (R229, source 13). -/
def Cluster.countCorrected (c : Cluster) : Cluster :=
  { c with monitors := c.monitors.map (fun (x : Nat × Monitor) => (x.1, if x.2.source = 13 then { x.2 with count := x.2.count + 1 } else x.2)) }

/-- The error log's counts (R22), saturating (R222); vector 1 is raised (R220). Every slot that counts corrected errors counts each (log entry
70). -/
def State.logError (s : State) (uncorrectable : Bool) : State :=
  let h := s.host
  if uncorrectable then State.raiseMsix { s with host := { h with errUncorrectable := min (h.errUncorrectable + 1) 0xFFFFFFFF } } 1
  else
    State.raiseMsix { s with host := { h with errCorrected := min (h.errCorrected + 1) 0xFFFFFFFF },
                             clusters := s.clusters.map (fun (e : Nat × Cluster) => (e.1, e.2.countCorrected)) } 1

/-- The reason of a failure recorded in the error log, and counted (R181). -/
def State.logReason (s : State) (reason : String) : State :=
  State.logError { s with host := { s.host with errorLog := s.host.errorLog ++ [reason] } } true

/-- A security event (R222), saturating. -/
def State.secEvent (s : State) : State :=
  { s with host := { s.host with secEvents := min (s.host.secEvents + 1) 0xFFFFFFFFFFFFFFFF } }

/-! ## Memory -/

/-- The canonical form of memory: addresses strictly rising, no entry zero, which is what an unlisted address reads as (log entry 2). -/
def Memory.wf (m : Tbl Byte) : Bool := Tbl.wf 0 m

/-- The memory keys of a scratchpad offset, a pool offset, a register offset and an operand slot's byte. -/
def scratchKey (unit off : Nat) : Nat := 0x10000000000000 + unit * 524288 + off

def poolKey (cluster off : Nat) : Nat := 0x20000000000000 + cluster * 8388608 + off

def registerKey (off : Nat) : Nat := 0x40000000000000 + off

/-- The key of a byte of a slot's 16 KiB image, then of its 512-byte side area (R62). -/
def slotKey (unit slot off : Nat) : Nat := (unit * 24 + slot) * 16896 + off

/-- A line as an access under a key identity reads it (R195, R196): 0 reads the bytes as they are stored, a key decrypts them. Memory holds
a line's plaintext and the key under which it was written; the data unit is the line, and its tweak PA[51:6]. -/
def State.lineAs (s : State) (kid line : Nat) : List Byte :=
  let plain := (List.range 64).map (fun i => Tbl.get 0 s.mem (line * 64 + i))
  let written := Tbl.get 0 s.lineKey line
  let stored := if written = 0 then plain else xtsEncrypt (keyBytes written 64) line plain
  if kid = 0 then stored else xtsDecrypt (keyBytes kid 64) line stored

/-- The byte that an access under a key identity reads: where the line was written under the same key, what was written. An unlisted byte is
zero (log entry 2). -/
def State.readByte (s : State) (kid key : Nat) : Byte :=
  if Tbl.get 0 s.lineKey (key / 64) = kid then Tbl.get 0 s.mem key else nth 0 (s.lineAs kid (key / 64)) (key % 64)

/-- The n bytes from a key. -/
def State.readBytes (s : State) (kid key : Nat) : Nat → List Byte
  | 0 => []
  | n + 1 => s.readByte kid key :: s.readBytes kid (key + 1) n

/-- Whether any of n bytes carries a poison mark (R171). -/
def State.readBad (s : State) (key : Nat) : Nat → Bool
  | 0 => false
  | n + 1 => Tbl.get false s.bad key || s.readBad (key + 1) n

/-- One byte and its mark written as they stand. -/
def State.pokeByte (s : State) (key : Nat) (b : Byte) (bad : Bool) : State :=
  { s with mem := Tbl.set 0 s.mem key b, bad := Tbl.set false s.bad key bad }

/-- The bytes of a list written from a key, one by one. -/
def State.pokeBytes (s : State) (key : Nat) (bad : Bool) : List Byte → State
  | [] => s
  | b :: r => (s.pokeByte key b bad).pokeBytes (key + 1) bad r

/-- The line of a key brought under a key identity: a line is encrypted whole (R195), so a partial store merges into the line
as the store's key reads it (R56). -/
def State.rekeyLine (s : State) (kid line : Nat) : State :=
  if Tbl.get 0 s.lineKey line = kid then s
  else
    let bs := s.lineAs kid line
    let s' := (List.zip (List.range 64) bs).foldl
      (fun (t : State) p => { t with mem := Tbl.set 0 t.mem (line * 64 + p.1) p.2 }) s
    { s' with lineKey := Tbl.set 0 s'.lineKey line kid }

/-- One byte stored under a key identity. -/
def State.writeByte (s : State) (kid key : Nat) (b : Byte) (bad : Bool) : State :=
  (s.rekeyLine kid (key / 64)).pokeByte key b bad

/-- Bytes stored at offsets from a key, in order. -/
def State.writeBytes (s : State) (kid key : Nat) (bad : Bool) : List (Nat × Byte) → State
  | [] => s
  | (o, b) :: r => (s.writeByte kid (key + o) b bad).writeBytes kid key bad r

/-- Bytes with their offsets from zero. -/
def enumBytes (bs : List Byte) : List (Nat × Byte) := List.zip (List.range bs.length) bs

/-- Bytes stored from a key. -/
def State.writeList (s : State) (kid key : Nat) (bad : Bool) (bs : List Byte) : State :=
  s.writeBytes kid key bad (enumBytes bs)

/-- Whether a byte belongs to a tenant's audit log or to the receipt ring behind it, whose records hardware alone writes (R205, R208). -/
def State.hardwareOwned (s : State) (key : Nat) : Bool :=
  s.vault.tenants.any (fun e => decide (e.2.logBase ≤ key) && decide (key < e.2.logBase + 256 * e.2.logSize))

/-- What lands of a store of software's, at offsets from a key: its writes to HW fields are ignored (R5; log entry 91). -/
def State.landing (s : State) (key : Nat) (bs : List (Nat × Byte)) : List (Nat × Byte) :=
  bs.filter (fun p => !s.hardwareOwned (key + p.1))

/-- A little-endian number read from memory as stored, undecrypted: a physical access (R196). -/
def State.readNat (s : State) (key n : Nat) : Nat := bytesNat (s.readBytes 0 key n)

def State.readDword (s : State) (key : Nat) : Word := BitVec.ofNat 64 (s.readNat key 8)

def State.readDwords (s : State) (key : Nat) : Nat → List Word
  | 0 => []
  | n + 1 => s.readDword key :: s.readDwords (key + 8) n

def State.writeDword (s : State) (key : Nat) (x : Word) : State := s.writeList 0 key false (natBytes 8 x.toNat)

/-- The identity of the key of a launch's world, 0 where it has none (R194). -/
def State.worldKeyOf (s : State) (l : Launch) : Nat := match l.worldKey with | some i => Tbl.get 0 s.vault.indices i | none => 0

/-- Every listed byte of a range zeroed and its marks cleared (R206, R360). -/
def State.zeroRange (s : State) (lo hi : Nat) : State :=
  { s with mem := Tbl.clear s.mem lo hi, bad := Tbl.clear s.bad lo hi,
           lineKey := Tbl.clear s.lineKey ((lo + 63) / 64) (hi / 64) }

/-! ## Physical addresses (R55) -/

/-- The bank core of an HBM address. -/
def bankOf (pa : Nat) : Nat := (field pa 8 8) ^^^ (field pa 16 8)

/-- The home of a physical address. -/
def homeOf (pa : Nat) : Home :=
  if field pa 39 4 = 0 then .bank (field pa 43 9) (bankOf pa) else .registers (field pa 43 9)

/-- Whether a physical address lies in HBM that is populated, or in register space (R55, R67). -/
def State.paExists (s : State) (pa : Nat) : Bool :=
  decide (field pa 39 4 ≤ 1) && decide (field pa 43 9 < min s.packages 288) && decide (pa < 2 ^ 52)

/-! ## Page tables (R66, R67) -/

/-- A page-table leaf as a walk found it: entry and size class. -/
structure Leaf where
  pte : Word
  size : Nat
  deriving DecidableEq, Repr

def pteBit (e : Word) (n : Nat) : Bool := Word.field e n 1 == 1

/-- The bits of the page offset of a size class (R66). -/
def pageBits (size : Nat) : Nat := if size = 1 then 16 else if size = 2 then 26 else 36

/-- Whether a leaf's fields satisfy R67's requirements. -/
def leafAllowed (e : Word) (size : Nat) : Bool :=
  (size != 2 || Word.field e 16 10 == 0) && (size != 3 || Word.field e 16 20 == 0) && Word.field e 52 12 == 0 &&
  (!pteBit e 5 || (pteBit e 3 && !pteBit e 1 && !pteBit e 2)) && (!pteBit e 4 || !pteBit e 2) &&
  (!pteBit e 2 || pteBit e 1)

/-- Whether a pointer entry's must-be-zero fields are zero (R67). -/
def pointerAllowed (e : Word) : Bool :=
  Word.field e 1 7 == 0 && Word.field e 10 6 == 0 && Word.field e 52 12 == 0

/-- Whether the walk from a level of the tables reads an entry that holds an uncorrectable error (R22). -/
def State.walkBadFrom (s : State) (va : Nat) : Nat → Nat → Nat → Bool
  | 0, _, _ => false
  | fuel + 1, level, table =>
    let at_ := table + 8 * field va (46 - 10 * level) 10
    let e := s.readDword at_
    s.readBad at_ 8 || (pteBit e 0 && Word.field e 8 2 == 0 && decide (level < 3) && pointerAllowed e &&
      s.walkBadFrom va fuel (level + 1) (Word.field e 16 36 * 65536))

/-- The walk from a level of the tables, none where it raises XLATE. -/
def State.walkFrom (s : State) (va : Nat) : Nat → Nat → Nat → Option Leaf
  | 0, _, _ => none
  | fuel + 1, level, table =>
    let e := s.readDword (table + 8 * field va (46 - 10 * level) 10)
    if !pteBit e 0 then none
    else
      let size := Word.field e 8 2
      if size = 0 then
        if level < 3 && pointerAllowed e then s.walkFrom va fuel (level + 1) (Word.field e 16 36 * 65536) else none
      else if size + level = 4 && leafAllowed e size &&
          s.paExists (Word.field e 16 36 * 65536) then some ⟨e, size⟩
      else none

/-- The page-table walk of an address below 2^55 (R66). -/
def State.walkTables (s : State) (root va : Nat) : Option Leaf := s.walkFrom va 4 0 root

/-- Whether that walk consumes an entry that holds an uncorrectable error: a trap, and nothing is kept (R22). -/
def State.walkBad (s : State) (root va : Nat) : Bool := s.walkBadFrom va 4 0 root

/-- The physical address under a leaf. -/
def Leaf.pa (l : Leaf) (va : Nat) : Nat :=
  Word.field l.pte 16 36 * 65536 + va % 2 ^ pageBits l.size

/-! ## Translation buffers (R69) -/

/-- Whether a held translation is for an address under a table, for a launch: one that is not global is its own launch's alone (R67). -/
def TlbEntry.covers (e : TlbEntry) (root launch va : Nat) : Bool :=
  e.root == root && (e.launch == launch || pteBit e.pte 7) && e.page / 2 ^ (pageBits e.size - 16) == va / 65536 / 2 ^ (pageBits e.size - 16)

/-- XSD_CTL's launch tag, bits [15:0], and its global flag, bit [16] (the places are the model's). -/
def shootTag (ctl : Word) : Nat := Word.field ctl 0 16

def shootGlobal (ctl : Word) : Bool := pteBit ctl 16

/-- Whether a page of an address and size class meets the range of the shootdown (R71). -/
def State.shootMeets (s : State) (va size : Nat) : Bool :=
  let n := 2 ^ (pageBits size - 16)
  let first := va / 65536 / n * n
  decide (first < s.shoot.fromBase.toNat / 65536 + s.shoot.fromLen.toNat) && decide (s.shoot.fromBase.toNat / 65536 < first + n)

/-- Whether a held translation is one that the shootdown removes. -/
def State.shootRemoves (s : State) (e : TlbEntry) : Bool :=
  s.shootMeets (e.page * 65536) e.size && (e.launch == shootTag s.shoot.ctl || (shootGlobal s.shoot.ctl && pteBit e.pte 7))

/-- Whether a core has acknowledged the shootdown under way: what its cluster still holds of it is lost to it (R71). -/
def State.hasAcked (s : State) (core : Nat) : Bool := !s.shoot.awaited.isEmpty && !s.shoot.awaited.contains core

/-- The units of a core that translate, each in a TLB of its own (R69, R70): the scalar pipeline with the fetch, VLD and VST; the vector
unit; the matrix unit. A tile's engines translate as role 3 of the tile. -/
inductive Translator where
  | core | vector | matrix
  deriving DecidableEq, Repr

def Core.tlbOf (c : Core) : Translator → List TlbEntry
  | .core => c.utlb
  | .vector => c.vtlb
  | .matrix => c.mtlb

def Core.setTlb (c : Core) (l : List TlbEntry) : Translator → Core
  | .core => { c with utlb := l }
  | .vector => { c with vtlb := l }
  | .matrix => { c with mtlb := l }

/-- A core's translations without those that satisfy a condition. -/
def Core.dropTlbs (c : Core) (gone : TlbEntry → Bool) : Core :=
  let kept := fun (l : List TlbEntry) => l.filter (fun e => !gone e)
  { c with utlb := kept c.utlb, vtlb := kept c.vtlb, mtlb := kept c.mtlb }

/-- A translation that a unit's TLB or the cluster's TLB holds. -/
def State.tlbFind (s : State) (u : Translator) (core root launch va : Nat) : Option TlbEntry :=
  match ((s.core core).tlbOf u).find? (fun e => e.covers root launch va) with
  | some e => some e
  | none => (s.cluster (clusterOf (core / 4))).tlb.find? (fun e => e.covers root launch va && !(s.hasAcked core && s.shootRemoves e))

/-- A translation kept by a unit's TLB and by the cluster's of 4,096, the oldest given up (R69). The micro-TLB holds 32; that the other units'
TLBs hold as many is the model's choice (DESIGN CHOICE, log entry 12). -/
def State.tlbFill (s : State) (u : Translator) (core : Nat) (e : TlbEntry) : State :=
  let c := s.core core
  let s := s.setCore core (c.setTlb (e :: ((c.tlbOf u).filter (· ≠ e)).take 31) u)
  let n := clusterOf (core / 4)
  let q := s.cluster n
  s.setCluster n { q with tlb := e :: (q.tlb.filter (· ≠ e)).take 4095 }

/-- The translation of a global address for a unit under a table, and the state with the translation kept. A miss walks
at once: when a walk ends is timing (log entry 12). -/
def State.translate (s : State) (u : Translator) (core root launch va : Nat) : Option (Leaf × State) :=
  match s.tlbFind u core root launch va with
  | some e => some (⟨e.pte, e.size⟩, s)
  | none =>
    match s.walkTables root va with
    | none => none
    | some l => some (l, s.tlbFill u core { root := root, page := va / 65536, pte := l.pte, size := l.size, launch := launch })

/-- Whether the translation that would be used, or an entry of the walk that would find it, holds an uncorrectable error: its use traps with
POISON (R22). -/
def State.tlbBad (s : State) (u : Translator) (core root launch va : Nat) : Bool :=
  match s.tlbFind u core root launch va with
  | some e => e.bad
  | none => s.walkBad root va

/-! ## Windows and permissions (R52, R53, R57, R68) -/

/-- What an access asks for (R68). -/
inductive Access where
  | load | store | fetch
  deriving DecidableEq, Repr

/-- The part of an access that lies at one home. -/
structure Part where
  off : Nat
  len : Nat
  home : Home
  key : Nat
  kid : Nat := 0
  sealed : Bool := false
  /-- the size class of the translation, 0 where there is none -/
  size : Nat := 0
  deriving DecidableEq, Repr

/-- A cause, its subcode or detail, and the faulting address. -/
structure MemFault where
  cause : Nat
  sub : Nat
  addr : Word
  deriving DecidableEq, Repr

def xlate (va : Nat) : MemFault := ⟨7, 0, BitVec.ofNat 64 va⟩

def perm (sub va : Nat) : MemFault := ⟨8, sub, BitVec.ofNat 64 va⟩

/-- The first failing permission check of R68 for a leaf: its PERM subcode. -/
def leafDenies (a : Access) (lv : Level) (l : Leaf) : Option Nat :=
  if lv = .h && field (Word.field l.pte 16 36 * 65536) 39 4 == 1 then some 2
  else match a with
    | .load => if pteBit l.pte 5 then some 3 else if !pteBit l.pte 1 then some 4 else none
    | .store => if pteBit l.pte 4 then some 5 else if !pteBit l.pte 2 then some 6 else none
    | .fetch => if !pteBit l.pte 3 then some 7 else none

/-- The key identity under which a page is read and written: the world key that wkey names, and none for a sealed page, whose
bytes pass unchanged (R195). -/
def State.pageKey (s : State) (l : Leaf) : Nat :=
  if pteBit l.pte 4 then 0
  else if Word.field l.pte 10 6 = 0 then 0 else Tbl.get 0 s.vault.indices (Word.field l.pte 10 6)

/-- The identity of the device-internal body key of an epoch (R181): apart from every world and model key. -/
def bodyKey (t : Triple) : Nat := 2 ^ 64 + t.epoch

/-- The key identity for an access: the fetch path alone decrypts a body page (R68, R72). -/
def State.accessKey (s : State) (a : Access) (l : Leaf) : Nat :=
  if pteBit l.pte 5 && a = .fetch then bodyKey s.triple else s.pageKey l

/-- The bounds of the window of an address: its limits under R52 for a context of a launch. The answer is the home's key and
home of the address, none where a limit is broken. -/
def State.localKey (s : State) (k va : Nat) : Option (Home × Nat) :=
  let unit := unitOf k
  let w := va / 2 ^ 48
  let low := va % 2 ^ 48
  if w = 0x80 then
    if low < 524288 && isTile unit then some (.tile unit, scratchKey unit low) else none
  else
    match s.launchOf k with
    | none => none
    | some l =>
      if w = 0x81 then
        let g := low / 2 ^ 32
        let t := low / 524288 % 8192
        if g < l.groups && t < l.groupTiles then
          match l.units[g * l.groupTiles + t]? with
          | some u => some (.tile u, scratchKey u (low % 524288))
          | none => none
        else none
      else if w = 0x82 then
        if low < l.poolBytes then
          match assoc l.pools (clusterOf unit) with
          | some b => some (.pool (clusterOf unit), poolKey (clusterOf unit) (b + low))
          | none => none
        else none
      else none

/-- The window number of an address: its bits [55:48] where a local window, 0 for global memory. -/
def windowOf (va : Nat) : Nat := if va < 2 ^ 55 then 0 else va / 2 ^ 48

/-- The extent of one tile's scratchpad, or of the pool, that an address of a local window lies in: an access that passes it spans two homes
(R54). -/
def extentOf (va : Nat) : Nat := if windowOf va = 0x82 then va / 8388608 else va / 524288

/-- Whether bytes [off, off + n) of a scratchpad touch an inbox ring of a launch (R31, R57). -/
def Launch.inRings (l : Launch) (off n : Nat) : Bool := decide (524288 - 3 * l.ringSize < off + n)

/-- The parts of n bytes of global memory from an address: split where a 256-byte block ends (R55). -/
def splitBlocks : Nat → Nat → Nat → Nat → List (Nat × Nat)
  | 0, _, _, _ => []
  | fuel + 1, va, off, n =>
    if n = 0 then []
    else
      let len := min n (256 - va % 256)
      (off, len) :: splitBlocks fuel (va + len) (off + len) (n - len)

/-- One part of global memory translated and checked. -/
def State.globalPart (s : State) (u : Translator) (k : Nat) (a : Access) (va off len : Nat) : Except MemFault (Part × State) :=
  if (s.level k).rank ≥ 1 then
    -- a steward's address is physical (log entry 13)
    if s.paExists va then .ok (⟨off, len, homeOf va,
      if field va 39 4 = 0 then va else registerKey (va % 2 ^ 39), 0, false, 0⟩, s)
    else .error (xlate va)
  else
    match s.launchOf k with
    | none => .error (xlate va)
    | some l =>
      if s.tlbBad u (coreOf k) l.root (s.ctx k).launch va then .error ⟨0x14, 0, BitVec.ofNat 64 va⟩
      else
      match s.translate u (coreOf k) l.root (s.ctx k).launch va with
      | none => .error (xlate va)
      | some (leaf, s) =>
        match leafDenies a (s.level k) leaf with
        | some sub => .error (perm sub va)
        | none =>
          let pa := leaf.pa va
          .ok (⟨off, len, homeOf pa, if field pa 39 4 = 0 then pa else registerKey (pa % 2 ^ 39),
            s.accessKey a leaf, pteBit leaf.pte 4, leaf.size⟩, s)

/-- A part put before the parts that follow it: joined with the first of them where both lie at one home, one behind the other, under one
translation's key (R54). -/
def Part.joinTo (p : Part) : List Part → List Part
  | q :: r =>
    if p.home = q.home && p.key + p.len == q.key && p.kid == q.kid && p.sealed == q.sealed && p.size == q.size then
      { p with len := p.len + q.len } :: r
    else p :: q :: r
  | [] => [p]

/-- The parts of a list of blocks, in order. -/
def State.globalParts (s : State) (u : Translator) (k : Nat) (a : Access) (va : Nat) :
    List (Nat × Nat) → Except MemFault (List Part × State)
  | [] => .ok ([], s)
  | (off, len) :: r =>
    match s.globalPart u k a (va + off) off len with
    | .error f => .error f
    | .ok (p, s) =>
      match s.globalParts u k a va r with
      | .error f => .error f
      | .ok (ps, s) => .ok (p.joinTo ps, s)

/-- The parts of an access of n bytes to a local window: split where it passes from one tile's scratchpad into the next (R54). A store into an
inbox ring is refused (R57), and so is one that passes the end of a scratchpad, where a ring lies. -/
def State.localParts (s : State) (k : Nat) (a : Access) (va n : Nat) : Except MemFault (List Part) :=
  match s.localKey k va, s.localKey k (va + n - 1) with
  | some (h, key), some (h', last) =>
    let m := if extentOf va = extentOf (va + n - 1) then n else 524288 - va % 524288
    let ring := match h, s.launchOf k with
      | .tile _, some l => l.inRings (va % 524288) m
      | _, _ => false
    if a = .store && ring then .error (perm 1 va)
    else .ok (⟨0, m, h, key, 0, false, 0⟩ :: (if m = n then [] else [⟨m, n - m, h', last + 1 - (n - m), 0, false, 0⟩]))
  | _, _ => .error (xlate va)

/-- An access of n bytes at an address by a unit of a context's core: its window decoded, translated and checked (R52, R66, R68), its parts by
home, and the state with the translations kept. A fetch at an address with bit 55 set is PERM detail 7, also where it breaks a limit of R52
(DESIGN CHOICE, log entry 85). -/
def State.locateBy (s : State) (u : Translator) (k : Nat) (a : Access) (addr : Word) (n : Nat) : Except MemFault (List Part × State) :=
  let va := addr.toNat
  if va ≥ 2 ^ 56 then .error (xlate va)
  else if va < 2 ^ 55 then
    if va + n > 2 ^ 55 then .error (xlate va)
    else s.globalParts u k a va (splitBlocks (n / 256 + 2) va 0 n)
  else if a = .fetch then .error (perm 7 va)
  else
    match s.localParts k a va n with
    | .ok ps => .ok (ps, s)
    | .error f => .error f

/-- The same for the core's own pipeline, its fetch, VLD and VST (R70). -/
def State.locate (s : State) (k : Nat) (a : Access) (addr : Word) (n : Nat) : Except MemFault (List Part × State) :=
  s.locateBy .core k a addr n

/-- Whether a tile is frozen for a migration, which a cancel of its launch abandons (R168, R169). -/
def State.isFrozen (s : State) (u : Nat) : Bool :=
  (s.tile u).frozen.isSome && (match (s.tile u).launch.bind s.launch? with | some l => l.cancel.isNone | none => false)

/-- Whether an access of a context is held by back-pressure at a tile that is frozen, and not its own (R168). -/
def State.frozenTo (s : State) (k : Nat) : Home → Bool
  | .tile u => u != unitOf k && s.isFrozen u
  | _ => false

/-- Whether the device is about to become dormant: asked to be, and its launches on their way to absence (R212). -/
def State.falling (s : State) : Bool := s.host.powerCtl == 1 && !s.vault.dormant

/-- Whether a tile starts no activation, and its contexts stop at an instruction boundary: it is frozen, or the device is about to become
dormant (R168, R212). -/
def State.halting (s : State) (u : Nat) : Bool := s.isFrozen u || (s.falling && (s.tile u).launch.isSome)

/-- The package of a home (R117): local homes belong to this package. -/
def State.homePackage (s : State) : Home → Nat
  | .bank p _ => p
  | .registers p => p
  | .tile _ => s.package
  | .pool _ => s.package

end Sys2Proof.Machine
end

