-- ==== Sys2Proof/Machine/Monitors.lean ====
section
/-!
DEFINITION. Sys2Proof/Machine/Monitors.lean: the samples of monitor slots (R229, R230): those taken at their event, and the counts and
occupancies taken at intervals.
-/

namespace Sys2Proof.Machine

/-- The bin of a value: 0 for 0, i for 2^(i-1) to 2^i - 1, 15 from 2^14 on. -/
def monitorBin (v : Nat) : Nat := if v = 0 then 0 else min (Nat.log2 v + 1) 15

def sat32 (n : Nat) : Nat := min n 0xFFFFFFFF

/-- A slot's record after a sample. -/
def Monitor.take (m : Monitor) (v : Nat) : Monitor :=
  { m with samples := sat32 (m.samples + 1), max := Nat.max m.max (sat32 v), min := Nat.min m.min (sat32 v),
           bins := Tbl.set 0 m.bins (monitorBin v) (sat32 (Tbl.get 0 m.bins (monitorBin v) + 1)) }

/-- The monitor slots of a launch at a cluster that select a source, each changed. -/
def State.changeMonitors (s : State) (cluster tag source : Nat) (f : Monitor → Monitor) : State :=
  let q := s.cluster cluster
  if q.monitors.any (fun (e : Nat × Monitor) => e.2.launch == some tag && e.2.source == source) then
    s.setCluster cluster { q with monitors := q.monitors.map (fun (e : Nat × Monitor) =>
      if e.2.launch = some tag && e.2.source = source then (e.1, f e.2) else e) }
  else s

/-- A sample of a source at a context's cluster, for its launch. -/
def State.sampleAt (s : State) (k source value : Nat) : State :=
  s.changeMonitors (clusterOf (unitOf k)) (s.ctx k).launch source (fun m => m.take value)

/-- An event of a launch's regions among its counters (R242). -/
def State.countLaunch (s : State) (tag source : Nat) : State :=
  match s.launch? tag with
  | some l => s.setLaunch tag { l with counters := Tbl.set 0 l.counters source (Tbl.get 0 l.counters source + 1) }
  | none => s

/-- An event of a source that is counted over an interval, 4 to 7: at the monitor slots and in the launch's counters. -/
def State.countAt (s : State) (k source : Nat) : State :=
  (s.changeMonitors (clusterOf (unitOf k)) (s.ctx k).launch source (fun m => { m with count := m.count + 1 })).countLaunch (s.ctx k).launch source

/-- An event at each context of a list. -/
def State.countEach (s : State) (source : Nat) (ks : List Nat) : State := ks.foldl (fun (s : State) k => s.countAt k source) s

/-- Whether the cycles from a to b pass a multiple of n. -/
def passes (n a b : Nat) : Bool := decide (a / n < b / n)

/-- The bytes of a core's inbox ring that records hold, in units of 64. -/
def Core.occupancy (c : Core) : Nat := (c.ring.map (fun r => r.size + r.pad)).sum / 64

/-- A slot at the end of an interval: what it has counted is a sample. -/
def Monitor.interval (m : Monitor) (ends : Bool) : Monitor :=
  if ends && [4, 5, 6, 7, 13].contains m.source then { m.take m.count with count := 0 } else m

/-- A cluster's slots as cycles pass: inbox occupancies every 128 cycles, one sample for each core of the launch's tiles there; counts every
1,024. -/
def State.watchMonitors (s : State) (n : Nat) : State :=
  let rings := fun (cluster : Nat) (m : Monitor) =>
    if passes 128 s.cycle (s.cycle + n) && m.source == 2 && m.launch.isSome then
      ((List.range 8).filter (fun t => (s.tile (cluster * 8 + t)).launch == m.launch)).flatMap (fun t =>
        (List.range 3).map (fun r => (s.core (agentKey (cluster * 8 + t) r)).occupancy))
    else []
  { s with clusters := s.clusters.map (fun (e : Nat × Cluster) => (e.1, { e.2 with monitors := e.2.monitors.map (fun (x : Nat × Monitor) =>
      (x.1, ((rings e.1 x.2).foldl Monitor.take x.2).interval (passes 1024 s.cycle (s.cycle + n)))) })) }

end Sys2Proof.Machine
end

