-- ==== Sys2Proof/Machine/Operands.lean ====
section
/-!
DEFINITION. Sys2Proof/Machine/Operands.lean: the register files (R259), the blocks that hold them (R329), poison bits
(R171), the results still on their way (R277), and the checks that precede every instruction's own (R245).
-/

namespace Sys2Proof.Machine

/-! ## Register files -/

/-- A scalar register; w0 reads zero (R259). -/
def Ctx.getW (c : Ctx) (n : Nat) : Word := if n = 0 then 0 else Tbl.get 0 c.w n

/-- A scalar register written, its poison mark with it; w0 discards the write. -/
def Ctx.putW (c : Ctx) (n : Nat) (x : Word) (bad : Bool) : Ctx :=
  if n = 0 then c else { c with w := Tbl.set 0 c.w n x, wbad := Tbl.set false c.wbad n bad }

def Ctx.setW (c : Ctx) (n : Nat) (x : Word) : Ctx := c.putW n x false

def Ctx.getV (c : Ctx) (n : Nat) : Vec := Tbl.get [] c.v n

def Ctx.putV (c : Ctx) (n : Nat) (x : Vec) (bad : Bool) : Ctx :=
  { c with v := Tbl.set [] c.v n x, vbad := Tbl.set false c.vbad n bad }

/-- A mask; m0 reads all ones (R259). -/
def Ctx.getM (c : Ctx) (n : Nat) : BitVec 128 := if n = 0 then BitVec.allOnes 128 else Tbl.get 0 c.m n

/-- A mask written; m0 discards the write. -/
def Ctx.putM (c : Ctx) (n : Nat) (x : BitVec 128) : Ctx := if n = 0 then c else { c with m := Tbl.set 0 c.m n x }

def Ctx.getIx (c : Ctx) (n : Nat) : Word := Tbl.get 0 c.ix n

def Ctx.putIx (c : Ctx) (n : Nat) (x : Word) : Ctx := { c with ix := Tbl.set 0 c.ix n x }

def Ctx.getOx (c : Ctx) (n : Nat) : Word := Tbl.get 0 c.ox n

def Ctx.putOx (c : Ctx) (n : Nat) (x : Word) : Ctx := { c with ox := Tbl.set 0 c.ox n x }

/-- Lane i of a vector. -/
def Vec.lane (v : Vec) (i : Nat) : Word32 := Tbl.get 0 v i

/-- The vector whose lanes are a function's values. -/
def Vec.ofFn (f : Nat → Word32) : Vec := Tbl.tabulate 0 128 f

/-- The 512-byte image of a vector: lane i at bytes 4i to 4i + 3 (R345). -/
def Vec.byte (v : Vec) (n : Nat) : Byte := (v.lane (n / 4)).extractLsb' (8 * (n % 4)) 8

/-- The vector of a 512-byte image. -/
def Vec.ofBytes (f : Nat → Byte) : Vec :=
  Vec.ofFn (fun i => f (4 * i + 3) ++ f (4 * i + 2) ++ f (4 * i + 1) ++ f (4 * i))

/-- The mask whose bits are a function's values. -/
def maskOf (f : Nat → Bool) : BitVec 128 :=
  BitVec.ofNat 128 ((List.range 128).foldr (fun i n => (if f i then 2 ^ i else 0) + n) 0)

/-- Whether a context holds the block of a scalar or vector register (R245). -/
def Ctx.holdsW (c : Ctx) (n : Nat) : Bool := decide (n < 16) || c.sblk.getLsbD (n / 8)

def Ctx.holdsV (c : Ctx) (n : Nat) : Bool := c.vblk.getLsbD (n / 8)

/-! ## Results on their way (R277) -/

/-- Whether an access of a context is still to write a register. -/
def State.awaits (s : State) (k : Nat) (d : Dst) : Bool :=
  s.txns.any (fun t => t.ctx == k && t.dst == d)

/-- Whether the result that a register awaits comes from a load whose forward was withheld, or whose region waits for room: a stall
on it is BACKGROUND (R34, R126, R130). -/
def State.slowly (s : State) (k : Nat) (d : Dst) : Bool := s.txns.any (fun t => t.ctx == k && t.dst == d && t.slow)

/-- Whether an access, message, enqueue or slot load is still on its way (R78, R300, R324). -/
def State.underWay (s : State) (id : Nat) : Bool :=
  s.txns.any (fun t => t.id == id) || s.msgs.any (fun m => m.id == id) || s.loads.any (fun l => l.id == id)

/-- Whether any of a list is still on its way. -/
def State.anyUnderWay (s : State) (ids : List Nat) : Bool := ids.any s.underWay

/-! ## Moving on -/

/-- The state of a context that issues: BACKGROUND inside a PAUSE window, else READY (R28, R34). -/
def Ctx.running (c : Ctx) : CtxState := if c.window.isSome then .background else .ready

/-- The context after an instruction of len bytes (R243). -/
def Ctx.next (c : Ctx) (len : Nat) : Ctx := { c with pc := c.pc + BitVec.ofNat 64 len, state := c.running }

/-- The state in which the current context has completed its instruction. -/
def State.done (s : State) (len : Nat) (c : Ctx) : State := s.setCtx s.cur (c.next len)

/-- The current context completes its instruction and nothing else changes. -/
def State.skip (s : State) (len : Nat) : State := s.done len (s.ctx s.cur)

/-- The current context completes its instruction with a value in a scalar register. -/
def State.result (s : State) (len d : Nat) (x : Word) : State := s.done len ((s.ctx s.cur).setW d x)

/-- The current context waits at its instruction, which has had no effect (R28). -/
def State.stall (s : State) : Out := .next (s.setCtx s.cur { s.ctx s.cur with state := .stalled })

/-- The current context waits in the background: in FRCOM, for irrevocability, or on a withheld forward (R34, R130). -/
def State.waitBackground (s : State) : Out :=
  .next (s.setCtx s.cur { s.ctx s.cur with state := .background })

/-- The current context waits, in the background where what it waits for is slow (R34). -/
def State.waitFor (s : State) (slow : Bool) : Out := if slow then s.waitBackground else s.stall

/-! ## What an instruction needs (R245) -/

/-- The units of R258. -/
inductive UnitNeed where
  | any | reader | conversion | vector | matrix | walk
  deriving DecidableEq, Repr

/-- The cores that a unit is present on (R12, R258). -/
def unitPresent (u : UnitNeed) (unit role : Nat) : Bool :=
  match u with
  | .any => true
  | .reader => isTile unit && role == 0
  | .conversion => isTile unit && (role == 1 || role == 2)
  | .vector => isTile unit && role == 2
  | .matrix => isTile unit && role == 2
  | .walk => isTile unit && role == 2

/-- What the decoder and the register file check before an instruction's own checks: its level, its unit, the scalar
registers it reads, those whose poison moves on with the data (R337), those it writes, and its vector registers in the same
way. -/
structure Need where
  level : Level := .h
  unit : UnitNeed := .any
  reads : List Nat := []
  data : List Nat := []
  writes : List Nat := []
  vreads : List Nat := []
  vdata : List Nat := []
  vwrites : List Nat := []
  deriving DecidableEq, Repr

/-- The lowest register named that lies outside the blocks held: n for wn, 64 + n for vn (R245). -/
def Ctx.unheld (c : Ctx) (need : Need) : Option Nat :=
  (((need.reads ++ need.data ++ need.writes).filter (fun n => !c.holdsW n)) ++
    (((need.vreads ++ need.vdata ++ need.vwrites).filter (fun n => !c.holdsV n)).map (· + 64))).min?

/-- Whether a register that an instruction reads or writes still awaits a result (R277; log entry 15). -/
def State.registersBusy (s : State) (k : Nat) (need : Need) : Bool :=
  (need.reads ++ need.data ++ need.writes).any (fun n => s.awaits k (.w n)) ||
    (need.vreads ++ need.vdata ++ need.vwrites).any (fun n => s.awaits k (.v n))

/-- Whether a register that an instruction names awaits a slow load. -/
def State.registersSlow (s : State) (k : Nat) (need : Need) : Bool :=
  (need.reads ++ need.data ++ need.writes).any (fun n => s.slowly k (.w n)) ||
    (need.vreads ++ need.vdata ++ need.vwrites).any (fun n => s.slowly k (.v n))

/-- Whether the level and unit that an instruction needs are there. -/
def State.mayIssue (s : State) (k : Nat) (need : Need) : Bool :=
  decide (need.level.rank ≤ (s.level k).rank) && unitPresent need.unit (unitOf k) (roleOf k)

/-- Whether an instruction of the current context passes every check of R245 and waits for no register: the condition under
which its own effect takes place. -/
def State.ready (s : State) (need : Need) : Bool :=
  s.mayIssue s.cur need && ((s.ctx s.cur).unheld need).isNone &&
    !need.reads.any (fun n => Tbl.get false (s.ctx s.cur).wbad n) && !s.registersBusy s.cur need

end Sys2Proof.Machine
end

