-- ==== Sys2Proof/Machine/Flags.lean ====
section
/-!
DEFINITION. Sys2Proof/Machine/Flags.lean: the conditions that instructions compute. The machine has no flags and no flag
register (R278, R298, R346): a comparison's outcome is a value, a mask bit, or whether a branch is taken. Also the integer
operations of R278 whose results need more than one operator.
-/

namespace Sys2Proof.Machine

/-- The value of a register that a field names. -/
def State.reg {n : Nat} (s : State) (r : BitVec n) : Word := (s.ctx s.cur).getW r.toNat

/-- 1 where a condition holds, else 0. -/
def condWord (b : Bool) : Word := if b then 1 else 0

/-- s(a) < s(b). -/
def lessS (a b : Word) : Bool := a.slt b

/-- u(a) < u(b). -/
def lessU (a b : Word) : Bool := a.ult b

/-- The smaller and larger of two values by an order (R278). -/
def minBy (less : Word → Word → Bool) (a b : Word) : Word := if less b a then b else a

def maxBy (less : Word → Word → Bool) (a b : Word) : Word := if less a b then b else a

/-- Bits [127:64] of the products (R278). -/
def mulHighS (a b : Word) : Word := BitVec.ofInt 64 (a.toInt * b.toInt / 2 ^ 64)

def mulHighU (a b : Word) : Word := BitVec.ofNat 64 (a.toNat * b.toNat / 2 ^ 64)

/-- DIV, rounded toward zero; division by zero gives all ones, and -2^63 by -1 gives -2^63 (R278). -/
def divS (a b : Word) : Word := if b = 0 then Word.minusOne else BitVec.ofInt 64 (a.toInt.tdiv b.toInt)

def divU (a b : Word) : Word := if b = 0 then Word.minusOne else BitVec.ofNat 64 (a.toNat / b.toNat)

/-- REM, with the sign of the dividend; division by zero gives the dividend (R278). -/
def remS (a b : Word) : Word := if b = 0 then a else BitVec.ofInt 64 (a.toInt.tmod b.toInt)

def remU (a b : Word) : Word := if b = 0 then a else BitVec.ofNat 64 (a.toNat % b.toNat)

/-- The number of leading zero bits, 0 to 64 (R278). -/
def leadingZeros (a : Word) : Nat := if a = 0 then 64 else 63 - Nat.log2 a.toNat

/-- The number of one bits among the n lowest. -/
def countOnes (x : Nat) : Nat → Nat
  | 0 => 0
  | n + 1 => x % 2 + countOnes (x / 2) n

/-- The lower n bits of a value, extended with their sign, or with zeros. -/
def extS (n : Nat) (a : Word) : Word := BitVec.ofInt 64 (sextNat n (a.toNat % 2 ^ n))

def extZ (n : Nat) (a : Word) : Word := BitVec.ofNat 64 (a.toNat % 2 ^ n)

/-- The F32 in a register's bits [31:0] (R298). -/
def lowF32 (a : Word) : Word32 := a.setWidth 32

/-- An F32 result: bits [63:32] are zero (R298). -/
def wordOfF32 (x : Word32) : Word := x.setWidth 64

/-- A 32-bit result clamped to -2^31 … 2^31 - 1 (R138, R346). -/
def clamp32 (x : Int) : Word32 := w32 (clampInt 32 x)

end Sys2Proof.Machine
end

