-- ==== Sys2Proof/Machine/Ops.lean ====
section
/-!
DEFINITION. Sys2Proof/Machine/Ops.lean: the shared operations: counters and waits, the abort and commit of regions (R125,
R127), messages of hardware (R26, R166), the end of an activation and of a launch (R32, R94), taking an exception (R159,
R131, R132) and returning from one (R167, R297), the folio (R164), and the start of an activation (R29).
-/

namespace Sys2Proof.Machine

/-! ## Counters and waits (R356) -/

def Ctx.lower (c : Ctx) (ld st : Bool) : Ctx :=
  { c with ld := if ld then c.ld - 1 else c.ld, st := if st then c.st - 1 else c.st }

/-- The counters of an activation lowered by one instruction; those of a later activation are not its own. -/
def State.lower (s : State) (k act : Nat) (ld st : Bool) : State :=
  let c := s.ctx k
  if c.actId = act then s.setCtx k (c.lower ld st) else s

def State.lowerCp (s : State) (k act : Nat) : State :=
  let c := s.ctx k
  if c.actId = act then s.setCtx k { c with cp := c.cp - 1 } else s

def State.lowerTl (s : State) (k act : Nat) : State :=
  let c := s.ctx k
  if c.actId = act then s.setCtx k { c with tl := c.tl - 1 } else s

/-- An entry of a core's coprocessor ring retires (R160). -/
def State.ringRetire (s : State) (core seq : Nat) : State :=
  let c := s.core core
  let e := Tbl.get {} c.cring (seq % 64)
  if e.seq = seq then s.setCore core { c with cring := Tbl.set {} c.cring (seq % 64) { e with retired := true } } else s

/-- An access gone; its instruction's counters fall, and its ring entry retires, when it was the last of them (R350). -/
def State.finishTxn (s : State) (t : Txn) : State :=
  let s := { s with txns := s.txns.filter (fun u => u.id != t.id) }
  if s.txns.any (fun u => u.grp == t.grp) then s
  else
    let s := s.lower t.ctx t.act t.ld t.st
    match t.seq with
    | some q => s.ringRetire (coreOf t.ctx) q
    | none => s

def State.dropTxns (s : State) : List Txn → State
  | [] => s
  | t :: r => (s.finishTxn t).dropTxns r

def dropWaiter (k : Nat) (l : List Waiter) : List Waiter :=
  l.filter (fun w => match w with | .ctx j _ => j != k | .txn _ => true)

def dropWaiters (k : Nat) (t : Tbl (List Waiter)) : Tbl (List Waiter) :=
  (t.map (fun e => (e.1, dropWaiter k e.2))).filter (fun e => !e.2.isEmpty)

/-- A context leaves every queue it waits in. -/
def State.unwait (s : State) (k : Nat) : State :=
  let t := s.tile (unitOf k)
  let s := s.setTile (unitOf k) { t with semDown := dropWaiters k t.semDown, semUp := dropWaiters k t.semUp,
                                         queueGet := dropWaiters k t.queueGet, queuePut := dropWaiters k t.queuePut }
  let q := s.core (coreOf k)
  s.setCore (coreOf k) { q with rbWait := q.rbWait.filter (fun e => e.1 != k),
                                pushes := q.pushes.filter (fun p => p.ctx != some k) }

/-! ## Regions (R125, R127) -/

def slotBit (n : Nat) : BitVec 256 := BitVec.twoPow 256 n

/-- The slots that a set of slots reaches along consumed forwards (R125): one pass over the directory. -/
def cascadeStep (dir : Tbl DirSlot) (m : BitVec 256) : BitVec 256 :=
  dir.foldl (fun m e => if e.2.src &&& m = 0 then m else m ||| slotBit e.1) m

def cascade (dir : Tbl DirSlot) : Nat → BitVec 256 → BitVec 256
  | 0, m => m
  | n + 1, m => if cascadeStep dir m = m then m else cascade dir n (cascadeStep dir m)

/-- A slot with the bits of a set cleared from its rows. -/
def DirSlot.forget (d : DirSlot) (m : BitVec 256) : DirSlot :=
  { d with pred := d.pred &&& ~~~m, src := d.src &&& ~~~m, clo := d.clo &&& ~~~m }

/-- The directory with a set of slots freed. -/
def freeSlots (dir : Tbl DirSlot) (m : BitVec 256) : Tbl DirSlot :=
  (dir.filter (fun e => !m.getLsbD e.1)).map (fun e => (e.1, e.2.forget m))

/-- The context with its checkpoint reloaded (R125); the caller says where it goes on. What an earlier fence or release holds it holds
still: the region's own accesses are gone. -/
def Ctx.reload (c : Ctx) (r : OpenRegion) : Ctx :=
  { c with w := r.w, wbad := r.wbad, ix := r.ix, ox := r.ox, m := r.m, sblk := r.sblk, vblk := r.vblk,
           region := none, await := none, answer := none, align := none }

/-- A context whose region aborts restarts at its FRBEG with the restart counted (R125). -/
def State.restart (s : State) (k : Nat) : State :=
  let c := s.ctx k
  match c.region with
  | none => s
  | some r =>
    let s := (s.unwait k).dropTxns (s.txns.filter (fun t => t.ctx == k && t.region == some (r.slot, r.beginAt)))
    let c := (s.ctx k).reload r
    s.setCtx k { c with pc := r.pc, aborts := min (c.aborts + 1) 255, restarting := true,
                        state := if c.state = .stopped then .stopped else c.running }

def State.restartAll (s : State) : List Nat → State
  | [] => s
  | k :: r => (s.restart k).restartAll r

/-- The abort of a set of slots with its cascade (R125): versions, read marks and directory entries go, and each context
restarts at its FRBEG. -/
def State.abortSlots (s : State) (m : BitVec 256) : State :=
  let first := m
  let m := cascade s.dir 256 m
  let owners := (s.dir.filter (fun e => m.getLsbD e.1)).map (fun e => e.2.ctx)
  let s := s.countEach 7 ((s.dir.filter (fun e => m.getLsbD e.1 && !first.getLsbD e.1)).map (fun e => e.2.ctx))
  let s := { s with dir := freeSlots s.dir m, versions := s.versions.filter (fun v => !m.getLsbD v.slot) }
  s.restartAll owners

/-- One version's written bytes merged into the committed line (R127). -/
def State.mergeVersion (s : State) (v : Version) : State := s.writeBytes v.kid (v.line * 64) v.bad v.data

def State.mergeVersions (s : State) : List Version → State
  | [] => s
  | v :: r => (s.mergeVersion v).mergeVersions r

/-- A slot's region committed whole: its versions become the lines and its slot is free (R127, R132). -/
def State.commitSlot (s : State) (n : Nat) : State :=
  let s := (s.mergeVersions (s.versions.filter (fun v => v.slot == n))).sampleAt (s.slot n).ctx 8 (s.slot n).inDepth
  { s with dir := freeSlots s.dir (slotBit n), versions := s.versions.filter (fun v => v.slot != n) }

/-- A context's open region ended without re-execution: an IRREVOCABLE one is committed, another aborted (R132). -/
def State.endRegion (s : State) (k : Nat) : State :=
  match (s.ctx k).region with
  | none => s
  | some r =>
    match (s.slot r.slot).phase with
    | .irrevocable | .committing =>
      let s := s.commitSlot r.slot
      s.setCtx k { s.ctx k with region := none }
    | _ => s.abortSlots (slotBit r.slot)

/-! ## Messages (R23, R26) -/

/-- The physical place of a core of this package (R23). -/
def State.placeOf (s : State) (agent : Nat) : Nat := s.package * 4096 + agent

/-- A header word (R26). -/
def headerWord (source tag kind depth payload handler : Nat) : Word :=
  BitVec.ofNat 64 (source % 2 ^ 21 * 2 ^ 40 + tag % 2 ^ 16 * 2 ^ 24 + kind % 8 * 2 ^ 21 + depth % 8 * 2 ^ 18 +
    payload % 64 * 2 ^ 12 + handler % 4096)

/-- An event for the core of a steward or the vault, which its HALT may await (R301). -/
def State.eventAt (s : State) (unit : Nat) : State :=
  s.setCore (agentKey unit 0) { s.core (agentKey unit 0) with event := true }

/-- An event that the manual gives to no one steward, a doorbell or an MSI-X request: all eight may take it (DESIGN CHOICE, log entry
77). -/
def State.stewardEvent (s : State) : State := (List.range 8).foldl (fun (s : State) i => s.eventAt (1008 + i)) s

/-- An event at the steward that admitted a launch (R362; a launch of no steward is steward 0's). -/
def State.launchEvent (s : State) (tag : Nat) : State :=
  s.eventAt (1008 + (match s.launch? tag with | some l => l.steward % 8 | none => 0))

/-- A message put on its way. -/
def State.post (s : State) (ctx : Option Nat) (act dest tag : Nat) (words : List Word) (cp : Option Nat := none) : State :=
  { s.fresh with msgs := s.msgs ++ [{ id := s.nextId, ctx := ctx, act := act, dest := dest, launch := tag,
                                      words := words, cp := cp }] }

/-- The trap class of a cause: 0 program, 1 memory, 2 late, 3 system, 4 cancel, none for a steward's (R157). -/
def trapClass (cause : Nat) : Option Nat :=
  if cause = 6 || cause = 7 || cause = 8 || cause = 0x14 then some 1
  else if cause = 0x13 || cause = 0x1A then some 2
  else if cause = 0x11 || cause = 0x12 then some 3
  else if cause = 0x18 then some 4
  else if cause = 0x10 || cause = 0x15 || cause = 0x16 || cause = 0x1B then none
  else some 0

/-- The agents of a launch: the three cores of each of its tiles. -/
def Launch.agents (l : Launch) : List Nat := l.units.flatMap (fun u => [u * 4, u * 4 + 1, u * 4 + 2])

def Launch.ctxKeys (l : Launch) : List Nat :=
  l.agents.flatMap (fun a => (List.range 8).map (fun c => a * 8 + c))

/-- An activation's context becomes DORMANT: blocks released, nothing waited for (R32); its digest state stays (DESIGN CHOICE, log entry 92). -/
def Ctx.dormant (c : Ctx) : Ctx :=
  { c with state := .dormant, act := none, region := none, aborts := 0, restarting := false, acq := [], rel := [], stop := none,
           lates := [], window := none, align := none, await := none, answer := none, drainReq := none,
           brokeAt := none, sblk := 3, vblk := 0, ld := 0, st := 0, cp := 0, tl := 0 }

/-- The ring record of an ended activation marked, and every record whose elders have all ended reclaimed (R36). -/
def Core.reclaim (c : Core) (id : Option Nat) : Core :=
  let ring := c.ring.map (fun r => if some r.id = id then { r with dispatched := true, ended := true } else r)
  { c with ring := ring.dropWhile (fun r => r.ended) }

/-- The drain buffer entry of an activation freed (R153). -/
def State.freeDrain (s : State) (k : Nat) : State :=
  match (s.ctx k).act with
  | some a =>
    match a.drain with
    | some e =>
      let t := s.tile (unitOf k)
      (s.setTile (unitOf k) { t with drain := Tbl.set none t.drain e none }).setCtx k
        { s.ctx k with act := some { a with drain := none } }
    | none => s
  | none => s

/-- A context that is awaited no more by the ALIGN groups that satisfy a test (R46). -/
def leaveGroups (test : AlignGroup → Bool) (k : Nat) (gs : List AlignGroup) : List AlignGroup :=
  (gs.map (fun g => if test g then { g with awaited := g.awaited.filter (· != k) } else g)).filter (fun g => !g.awaited.isEmpty)

/-- A context that has ended is awaited by no ALIGN (R46). -/
def State.leaveAlign (s : State) (k : Nat) : State :=
  { s with ctxs := s.ctxs.map (fun e => match e.2.align with
             | some (i, t, ks) => (e.1, { e.2 with align := some (i, t, ks.filter (· != k)) })
             | none => e),
           clusters := s.clusters.map (fun (e : Nat × Cluster) => (e.1, { e.2 with aligns := leaveGroups (fun _ => true) k e.2.aligns })) }

/-- A context put to rest with its ring record's space returned: the last act of HRET, of a discard and of a stop by a
cancel or by the end of its launch. -/
def State.rest (s : State) (k : Nat) : State :=
  let s := ((s.unwait k).freeDrain k).leaveAlign k
  let id := match (s.ctx k).act with | some a => a.ring | none => none
  let s := s.setCtx k (s.ctx k).dormant
  s.setCore (coreOf k) { (s.core (coreOf k)).reclaim id with restedAt := s.cycle }

def State.restAll (s : State) : List Nat → State
  | [] => s
  | k :: r => ((s.endRegion k).rest k).restAll r

/-- The address of a context's folio, none outside a launch (R165). -/
def State.folioVa (s : State) (k : Nat) : Option Word :=
  match s.launchOf k with
  | none => none
  | some l =>
    match l.units.findIdx? (· == unitOf k) with
    | none => none
    | some i => some (nth 0 l.record 13 + BitVec.ofNat 64 (18432 * (24 * i + 8 * roleOf k + numOf k)))

/-- Whether a slot's region may be the victim of a cycle (R124). -/
def DirSlot.mayAbort (d : DirSlot) : Bool := d.phase == .active || d.phase == .aborting

/-- The lines that n bytes from a key touch. -/
def linesOf (key n : Nat) : List Nat :=
  (List.range (n / 64 + 2)).filterMap (fun i => if (key / 64 + i) * 64 < key + n then some (key / 64 + i) else none)

/-- The uncommitted regions that an ordinary store, or a store of another launch, aborts: those that have marked the line read
(R131, R114). -/
def State.readersOf (s : State) (home : Home) (lines : List Nat) (notLaunch : Option Nat) : BitVec 256 :=
  s.versions.foldl (fun m v =>
    if v.home == home && lines.contains v.line && v.read && some (s.slot v.slot).launch != notLaunch &&
        (s.slot v.slot).mayAbort then m ||| slotBit v.slot else m) 0

/-- An ordinary store's abort of the regions that have read its lines (R131). -/
def State.abortReaders (s : State) (home : Home) (key n : Nat) : State :=
  let m := s.readersOf home (linesOf key n) none
  if m = 0 then s else s.abortSlots m

/-- Whether an access must wait for a region: an IRREVOCABLE region of another context has touched one of its lines, and its FRCOM is
not complete (R130). -/
def State.lineHeld (s : State) (home : Home) (lines : List Nat) (own : Option (Nat × Nat)) : Bool :=
  s.versions.any (fun v => v.home == home && lines.contains v.line && (s.slot v.slot).solid &&
      own != some (v.slot, v.beginAt)) ||
    s.dir.any (fun e => e.2.solid && own != some (e.1, e.2.beginAt) &&
      e.2.touched.any (fun x => x.1 == home && lines.contains x.2))

/-- Whether a store that a core makes of itself must wait at its home: a region holds the line (R130), or an earlier one waits there. -/
def State.storeWaits (s : State) (k : Nat) (p : Part) : Bool :=
  let lines := linesOf p.key p.len
  s.lineHeld p.home lines none ||
    s.txns.any (fun t => t.ctx == k && t.home == p.home && !t.performed && !t.ld && !t.st &&
      (linesOf t.key t.n).any lines.contains)

/-- The steward clears resumable for a context of a launch that is being cancelled or has ended: in its folio, where one is written (R167), by
an ordinary store (R131), which waits where a region holds the line (R130). -/
def State.clearResumable (s : State) (k : Nat) : State :=
  match (s.ctx k).stop with
  | none => s
  | some st =>
    let t := s.setCtx k { s.ctx k with stop := some { st with resumable := false } }
    match (if st.written then s.folioVa k else none) with
    | none => t
    | some va =>
      match s.locate k .store va 1 with
      | .error _ => t
      | .ok (ps, _) =>
        match ps with
        | [] => t
        | p :: _ =>
          if t.storeWaits k p then
            { t.fresh with txns := t.txns ++ [{ id := t.nextId, ctx := k, act := (t.ctx k).actId, grp := t.nextId, home := p.home,
                                                op := .amo .and 0xF7 false false, va := va, key := p.key, n := 1, kid := p.kid, size := p.size }] }
          else
            let w := t.abortReaders p.home p.key 1
            w.writeList p.kid p.key (w.readBad p.key 1) [w.readByte p.kid p.key &&& 0xF7]

def State.clearAllResumable (s : State) : List Nat → State
  | [] => s
  | k :: r => (s.clearResumable k).clearAllResumable r

/-- The queued messages and tasks of a launch discarded (R48): undispatched ring records, deques, the Stacks, parked
messages. -/
def Core.discardQueued (c : Core) : Core :=
  { c with ring := (c.ring.map (fun r => if r.dispatched then r else { r with dispatched := true, ended := true })).dropWhile
             (fun r => r.ended),
           deque := [], chunks := [], gathered := [], pushes := c.pushes.filter (fun p => p.ctx.isSome || p.txn.isSome) }

def State.discardAll (s : State) : List Nat → State
  | [] => s
  | a :: r => (s.setCore a (s.core a).discardQueued).discardAll r

/-- A discarded job's submitter, its cp or tl lowered (R310). -/
def State.forgetJob (s : State) (j : EngineJob) : State :=
  if j.kind = .tileTask then s.lowerTl j.ctx j.act else s.lowerCp j.ctx j.act

/-- The jobs of a launch still on their way to their tables are discarded (R310); the tables acknowledge them all the same. -/
def State.discardSubmitted (s : State) (tag : Nat) : State :=
  let gone := s.submitted.filter (fun j => j.launch == tag)
  gone.foldl State.forgetJob { s with submitted := s.submitted.filter (fun j => j.launch != tag) }

/-- The engine jobs of a launch that have not started are discarded, cp and tl falling for each (R310). -/
def State.discardJobs (s : State) (tag : Nat) : List (Nat × Cluster) → State
  | [] => s
  | (n, q) :: r =>
    let gone := q.table.filter (fun j => j.launch == tag && !j.started)
    let s := s.setCluster n { s.cluster n with table := (s.cluster n).table.filter (fun j => !(j.launch == tag && !j.started)) }
    (gone.foldl State.forgetJob s).discardJobs tag r

/-- The debug session that holds a job, with its client (R228). -/
def State.sessionOf (s : State) (job : Nat) : Option (Nat × Session) :=
  s.readroom.sessions.find? (fun (e : Nat × Session) => e.2.job == some job)

/-- An answer of readroom sent. -/
def State.putAnswer (s : State) (a : Answer) : State := { s with readroom := { s.readroom with answers := s.readroom.answers ++ [a] } }

/-- An answer to a client of readroom. -/
def State.answerTo (s : State) (client : Nat) (key : Option Nat) (xs : List Shown) : State :=
  s.putAnswer { client := client, key := key, shown := xs }

/-- The end notice of a launch that a debug session holds (R228). -/
def State.endNotice (s : State) (tag job status : Nat) : State :=
  match s.sessionOf job with
  | some e => s.answerTo e.1 none [.value (BitVec.ofNat 64 tag), .value (BitVec.ofNat 64 status)]
  | none => s

/-- Whether a launch that has not ended runs a bound body. -/
def State.bodyUsed (s : State) (b : Body) : Bool :=
  s.launches.any (fun (e : Nat × Launch) => e.2.bound == some b.number && e.2.status.isNone)

/-- The bound bodies whose last launch has ended freed (R187). -/
def State.sweepBodies (s : State) : State :=
  let keep := fun (b : Body) => b.number == 0 || s.bodyUsed b
  { s with bodies := s.bodies.filter keep, freePages := s.freePages ++ (s.bodies.filter (fun b => !keep b)).flatMap (fun b => b.pages) }

/-- A launch cancelled at a level (R48, R49): a launch not yet placed completes CANCELLED at once; one that runs loses its
queued work and begins its grace interval, unless one has begun. Of two cancels the higher level counts, and w10 of CANCELLED names the context
of the first (DESIGN CHOICE, log entry 48). -/
def State.cancelLaunch (s : State) (tag level : Nat) (by_ : Word) : State :=
  match s.launch? tag with
  | none => s
  | some l =>
    match l.state with
    | .waiting | .pending | .placing =>
      (s.setLaunch tag { l with state := .retired, status := some 1, units := [], held := [], chosen := [], pools := [],
                                worldKey := none, modelKeys := [] }).sweepBodies.endNotice tag l.job 1
    | .resident | .absent =>
      let c : Cancel := match l.cancel with
        | none => { level := level, since := s.cycle, by_ := by_ }
        | some c => { c with level := max c.level level }
      let s := s.setLaunch tag { l with cancel := some c, parked := [] }
      (((s.clearAllResumable l.ctxKeys).discardAll l.agents).discardSubmitted tag).discardJobs tag s.clusters
    | .ended | .retired => s

def State.cancelLaunches (s : State) (level : Nat) (by_ : Word) : List Nat → State
  | [] => s
  | t :: r => (s.cancelLaunch t level by_).cancelLaunches level by_ r

/-- The launches of a job. -/
def State.launchesOf (s : State) (job : Nat) : List Nat :=
  (s.launches.filter (fun e => e.2.job == job)).map (·.1)

/-- A launch ends with a status (R94): its activations end, its regions are aborted or committed, its work is dropped; FAULT,
LOST and DEADLINE end its job, whose other launches are cancelled at the job level. Its tiles wait for the clear routine
(R206). -/
def State.endLaunch (s : State) (tag status : Nat) (reason : String) : State :=
  match s.launch? tag with
  | none => s
  | some l =>
    if l.state = .ended || l.state = .retired then s
    else
      let s := (((s.clearAllResumable l.ctxKeys).restAll l.ctxKeys).discardAll l.agents).discardSubmitted tag
      let s := s.setLaunch tag { l with state := .ended, status := some status, reason := reason, parked := [] }
      let s := { s with clusters := s.clusters.map (fun (e : Nat × Cluster) =>
                          (e.1, { e.2 with table := e.2.table.filter (fun (j : EngineJob) => j.launch != tag) })),
                        blks := s.blks.filter (fun (b : BlkRead) => b.launch != tag),
                        loads := s.loads.filter (fun (b : SlotLoad) => b.launch != tag),
                        lates := s.lates.filter (fun (b : PendingLate) => b.launch != tag) }
      let s := s.sweepBodies.endNotice tag l.job status
      if status ≤ 1 then s
      else
        match s.job? l.job with
        | none => s
        | some j =>
          let s := s.setJob l.job { j with fatal := some (j.fatal.getD status), reason := if j.fatal.isSome then j.reason else reason }
          s.cancelLaunches 4 0 ((s.launchesOf l.job).filter (· ≠ tag))

/-- A trap message of a class from an agent to a core of a tile that the handler's role allows (R166); without a handler the launch ends,
but for the cancel class. -/
def State.trapMessage (s : State) (tag cls source unit : Nat) (payload : List Word) : State :=
  match s.launch? tag with
  | none => s
  | some l =>
    if l.cancel.isSome && cls ≠ 4 then s
    else
      match (s.capsuleOf l).bind (fun c => assoc c.traps cls) with
      | none => if cls = 4 then s else s.endLaunch tag 3 "no trap handler"
      | some h =>
        s.post none 0 (agentKey unit 3) tag
          (headerWord (s.placeOf source) tag 7 0 payload.length h :: payload)

/-- The word that w9 of a trap handler receives (R166). -/
def trapWord (cause sub : Nat) (seq : Option Nat) (detail : Nat) : Word :=
  BitVec.ofNat 64 (cause % 256 + sub % 65536 * 256 +
    (match seq with | some q => q % 65536 * 2 ^ 24 + 2 ^ 40 | none => 0) + detail % 256 * 2 ^ 48)

/-- The word that w10 receives: place and context number (R166). -/
def State.whoWord (s : State) (k : Nat) : Word :=
  BitVec.ofNat 64 (s.placeOf (coreOf k) + numOf k * 2 ^ 56)

/-! ## Accesses that a step makes whole -/

/-- The bytes of an access by a context, read at once: value, poison, and the state with its translations. -/
def State.loadVa (s : State) (k : Nat) (va : Word) (n : Nat) : Except MemFault (List Byte × Bool × State) :=
  match s.locate k .load va n with
  | .error f => .error f
  | .ok (ps, s) =>
    .ok (ps.flatMap (fun p => s.readBytes p.kid p.key p.len), ps.any (fun p => s.readBad p.key p.len), s)

/-- The parts of a store that a core makes of itself: performed at once, or on their way where they must wait at their home. -/
def State.storeParts (s : State) (k : Nat) (va : Word) (bad : Bool) (bs : List Byte) : List Part → State
  | [] => s
  | p :: r =>
    let mine := (bs.drop p.off).take p.len
    let s :=
      if s.storeWaits k p then
        let t : Txn := { id := s.nextId, ctx := k, act := (s.ctx k).actId, grp := s.nextId, home := p.home,
                         op := .store (enumBytes mine) bad, va := va + BitVec.ofNat 64 p.off, key := p.key, n := p.len,
                         kid := p.kid, size := p.size }
        { s.fresh with txns := s.txns ++ [t] }
      else (s.abortReaders p.home p.key p.len).writeList p.kid p.key bad mine
    s.storeParts k va bad bs r

/-- The bytes of an access by a context, written at once. -/
def State.storeVa (s : State) (k : Nat) (va : Word) (bad : Bool) (bs : List Byte) : Except MemFault State :=
  match s.locate k .store va bs.length with
  | .error f => .error f
  | .ok (ps, s) => .ok (s.storeParts k va bad bs ps)

/-- The late-class message of a fault that stops no context (R303, R342). -/
def State.lateClass (s : State) (k tag : Nat) (w9 w11 : Word) : State :=
  s.trapMessage tag 2 (coreOf k) (unitOf k) [0, w9, s.whoWord k, w11]

/-- A translation, or an entry of the tables, that holds an uncorrectable error is counted as its use detects it (R22, R171). -/
def State.noteError (s : State) (f : MemFault) : State := if f.cause = 0x14 then s.logError true else s

/-- The CP_LATE subcause of a memory fault (R158). -/
def MemFault.subcause (f : MemFault) : Nat := if f.cause = 8 then 2 else if f.cause = 6 then 3 else if f.cause = 0x14 then 8 else 1

/-- The detail that goes with it. -/
def MemFault.detail (f : MemFault) : Nat := if f.cause = 8 then f.sub else 0

/-- The state field of a TCB written by a core (R107, R342); a fault goes to the late-class handler. -/
def State.tcbState (s : State) (k : Nat) (tcb : Word) (n : Nat) : State :=
  match s.storeVa k (tcb + 42) false [BitVec.ofNat 8 n] with
  | .ok s => s
  | .error f => (s.noteError f).lateClass k (s.ctx k).launch (trapWord 0x13 f.subcause none f.detail) tcb

/-! ## Taking an exception (R157 to R162) -/

/-- A context stops: it waits for nothing, a region that is neither IRREVOCABLE nor being committed aborts and the folio will resume at
its FRBEG with the checkpointed registers (R131, R132); at a trap, a released task's TCB becomes FAULTED (R107, R342). -/
def State.stopCtx (s : State) (k : Nat) (st : Stop) : State :=
  let s := s.unwait k
  let s := match (s.ctx k).region with
    | none => s.setCtx k { s.ctx k with state := .stopped, stop := some st, window := none, align := none }
    | some r =>
      let s := s.setCtx k { s.ctx k with state := .stopped, stop := some st, window := none, align := none }
      match (s.slot r.slot).phase with
      | .irrevocable | .committing => s
      | _ =>
        let s := s.abortSlots (slotBit r.slot)
        s.setCtx k { s.ctx k with stop := some { st with resumePc := r.pc, restart := true } }
  if st.held || st.portable then s
  else
    match (s.ctx k).act with
    | some a => match a.tcb with
      | some t => s.tcbState k t 4
      | none => s
    | none => s

/-- An exact trap at the current instruction (R159): cause, subcode, fault address, and the resume PC where it is not the
instruction's own. Code at level S or V has no folio: the machine stops by name. -/
def State.trapAt (s : State) (k cause sub : Nat) (addr : Word) (resume : Option Word) : Out :=
  let c := s.ctx k
  if (s.level k).rank ≥ 1 then .fault (.supervisorTrap cause sub)
  else .next (s.stopCtx k { cause := cause, subcode := sub, faultPc := c.pc, faultAddr := addr, word := c.word,
                            resumePc := resume.getD c.pc })

def State.trap (s : State) (cause sub : Nat) : Out := s.trapAt s.cur cause sub 0 none

def State.memTrap (s : State) (f : MemFault) : Out := (s.noteError f).trapAt s.cur f.cause f.sub f.addr none

/-- The checks that come before an instruction's own (R245, R171, R277), then its body. -/
def State.issue (s : State) (need : Need) (body : State → Out) : Out :=
  let c := s.ctx s.cur
  if (s.level s.cur).rank < need.level.rank then s.trap 0x19 0
  else if !unitPresent need.unit (unitOf s.cur) (roleOf s.cur) then s.trap 2 0
  else
    match c.unheld need with
    | some n => s.trap 5 n
    | none =>
      if s.registersBusy s.cur need then s.waitFor (s.registersSlow s.cur need)
      else if need.reads.any (fun n => Tbl.get false c.wbad n) then s.trap 0x14 0
      else body s

/-- An operand as the checks of R245's steps 2 and 3 see it: zero, which none of them turns away, where its register is not held or is
poisoned. -/
def Ctx.operand (c : Ctx) (n : Nat) : Word := if c.holdsW n && !Tbl.get false c.wbad n then c.getW n else 0

/-- An instruction for which R245's steps 2 and 3 depend on operand values (R261, R329): PRIV and UNIT_ABSENT come before
BLOCK_NOT_HELD. The values, each on its own, are those of registers held and not poisoned; they are awaited. -/
def State.issueOn (s : State) (need : Need) (ops : List Nat) (denied absent : State → (Nat → Word) → Bool) (body : State → Out) : Out :=
  let c := s.ctx s.cur
  let known := ops.filter c.holdsW
  if (s.level s.cur).rank < need.level.rank then s.trap 0x19 0
  else if s.registersBusy s.cur { reads := known } then s.waitFor (s.registersSlow s.cur { reads := known })
  else if denied s c.operand then s.trap 0x19 0
  else if absent s c.operand then s.trap 2 0
  else s.issue need body

/-- A region made irrevocable before an effect that cannot be undone (R118, R130): the context waits in the background until its
region has no predecessor and no other region of the package is IRREVOCABLE. -/
def State.irrevocably (s : State) (body : State → Out) : Out :=
  match (s.ctx s.cur).region with
  | none => body s
  | some r =>
    let d := s.slot r.slot
    if d.phase = .irrevocable then body s
    else if d.pred = 0 && !s.dir.any (fun e => e.2.phase == .irrevocable) then
      body (s.setSlot r.slot { d with phase := .irrevocable, solid := true })
    else s.waitBackground

/-! ## The folio (R164, R165) -/

def boolNat (b : Bool) : Nat := if b then 1 else 0

/-- The four dwords of a late record. -/
def LateRec.dwords (r : LateRec) : List Word :=
  [r.pc, BitVec.ofNat 64 (r.word.toNat * 2 ^ 32 + r.seq % 65536 * 65536 + r.subcause % 256 * 256 + r.detail % 256),
   r.addr, BitVec.ofNat 64 (256 + match r.lane with | some n => 128 + n % 128 | none => 0)]

def slotStateNum : SlotState → Nat
  | .free => 0
  | .claimed => 1
  | .loading => 2
  | .ready => 3

/-- A slot tag's 16 bits (R61): format and sealed speak of a loaded tile. -/
def SlotTag.bits (t : SlotTag) : Nat :=
  (if t.state = .ready then t.format % 16 * 4096 + boolNat t.sealed * 2048 else 0) + t.part % 4 * 256 + slotStateNum t.state

/-- The recorded cause and subcode (R162): CP_LATE once a late fault was recorded. -/
def Ctx.recorded (c : Ctx) (st : Stop) : Nat × Nat :=
  match c.lates with
  | r :: _ => (0x13, r.subcause)
  | [] => (st.cause, st.subcode)

/-- The recorded resume PC: after a late fault an exact trap's instruction itself, which issues again (R162), though a TRAP or BKPT alone
resumes behind it (R286, R343). -/
def Ctx.recordedPc (c : Ctx) (st : Stop) : Word :=
  if !c.lates.isEmpty && !st.held && !st.restart && (st.cause == 0x11 || st.cause == 0x12) then st.faultPc else st.resumePc

/-- Two masks of a 128-bit register. -/
def half (m : BitVec 128) (n : Nat) : Word := m.extractLsb' (64 * n) 64

/-- Whether a folio written now says resumable: its launch is not being cancelled (R167). -/
def State.mayResume (s : State) (k : Nat) (st : Stop) : Bool :=
  st.resumable && (match s.launchOf k with | some l => l.cancel.isNone | none => true)

/-- Dword n of a native folio and its poison mark. The pd bytes are opaque (log entry 5). -/
def State.nativeDword (s : State) (k : Nat) (st : Stop) (n : Nat) : Word × Bool :=
  let c := s.ctx k
  let a : Act := c.act.getD {}
  let irrevocable := match c.region with | some r => (s.slot r.slot).phase == .irrevocable | none => false
  if n = 0 then
    (BitVec.ofNat 64 (2 ^ 56 + (c.recorded st).1 % 256 * 2 ^ 48 + (c.recorded st).2 % 65536 * 2 ^ 32 +
      numOf k * 256 + boolNat st.restart + 2 * boolNat (Word.field a.header 21 3 == 5) +
      4 * boolNat (decide (8 < c.lates.length)) + 8 * boolNat (s.mayResume k st) + 16 * boolNat irrevocable), false)
  else if n = 1 then (c.recordedPc st, false)
  else if n = 2 then (st.faultPc, false)
  else if n = 3 then (st.faultAddr, false)
  else if n = 4 then
    (BitVec.ofNat 64 (st.word.toNat * 2 ^ 32 + c.sblk.toNat * 2 ^ 24 + c.vblk.toNat * 2 ^ 16 +
      (a.drain.getD 255) * 256), false)
  else if n = 5 then (a.header, false)
  else if n = 6 then (BitVec.ofNat 64 (c.ld + c.st * 256 + c.cp * 65536 + c.tl * 2 ^ 24), false)
  else if n = 7 then (BitVec.ofNat 64 (s.placeOf (coreOf k) + c.launch % 65536 * 2 ^ 24), false)
  else if n < 12 then (c.getIx (n - 8), false)
  else if n < 20 then (c.getOx (n - 12), false)
  else if n < 34 then (half (c.getM ((n - 20) / 2 + 1)) ((n - 20) % 2), false)
  else if n < 46 then
    (BitVec.ofNat 64 (bytesNat ((List.range 8).map (fun i => Config.digestStateByte k s.freeCtr (8 * (n - 34) + i)))), false)
  else if n < 48 then (0, false)
  else if n < 54 then
    if roleOf k = 2 then
      (BitVec.ofNat 64 ((List.range 4).foldr (fun i x => (Tbl.get {} (s.tile (unitOf k)).slots (4 * (n - 48) + i)).bits + 65536 * x) 0), false)
    else (0, false)
  else if n < 64 then (0, false)
  else if n < 96 then
    match c.lates[(n - 64) / 4]? with
    | some r => (nth 0 r.dwords ((n - 64) % 4), false)
    | none => (0, false)
  else if n < 160 then
    let r := n - 96
    if c.holdsW r then (c.getW r, Tbl.get false c.wbad r) else (0, false)
  else if n < 2208 then
    let r := (n - 160) / 64
    let b := 8 * ((n - 160) % 64)
    if c.holdsV r then
      (BitVec.ofNat 64 (bytesNat ((List.range 8).map (fun i => (c.getV r).byte (b + i)))), Tbl.get false c.vbad r)
    else (0, false)
  else (0, false)

/-- The portable location of an address in the body that a context runs (R182). -/
def State.portableLoc (s : State) (k : Nat) (pc : Word) : Nat :=
  match s.launchOf k with
  | none => pc.toNat
  | some l =>
    let at_ := (pc - BitVec.ofNat 64 l.body).toNat
    match s.capsuleOf l with
    | some c => c.portableAt at_
    | none => at_

/-- Dword n of a portable folio where it differs from the native one (R182): location, accession number, translator revision, the
registers held, taken as live. -/
def State.portableDword (s : State) (k : Nat) (st : Stop) (n : Nat) : Option Word :=
  let c := s.ctx k
  let l := s.launchOf k
  if n = 0 then
    some (BitVec.ofNat 64 (2 ^ 57 + numOf k * 256 +
      2 * boolNat (match c.act with | some a => Word.field a.header 21 3 == 5 | none => false) + 8 * boolNat (s.mayResume k st)))
  else if n = 1 then some (BitVec.ofNat 64 (s.portableLoc k st.resumePc))
  else if n = 2 then some (match l with | some l => nth 0 l.record 0 | none => 0)
  else if n = 3 then some (BitVec.ofNat 64 s.triple.translator)
  else if n = 6 then some 0
  else if n = 46 then some (BitVec.ofNat 64 ((List.range 64).foldl (fun m i => if c.holdsW i then m + 2 ^ i else m) 0))
  else if n = 47 then some (BitVec.ofNat 64 ((List.range 32).foldl (fun m i => if c.holdsV i then m + 2 ^ i else m) 0))
  else if 64 ≤ n && n < 96 then some 0
  else none

/-- Dword n of a folio and its poison mark. -/
def State.folioDword (s : State) (k : Nat) (st : Stop) (n : Nat) : Word × Bool :=
  if st.portable then
    match s.portableDword k st n with
    | some x => (x, false)
    | none => s.nativeDword k st n
  else s.nativeDword k st n

/-- The folio's dwords from number n written one by one. The save area is pinned and mapped (R165): a write finds its page. -/
def State.writeFolioFrom (s : State) (k : Nat) (st : Stop) (va : Word) (n : Nat) : Nat → State
  | 0 => s
  | m + 1 =>
    let d := s.folioDword k st n
    let s := match s.storeVa k (va + BitVec.ofNat 64 (8 * n)) d.2 (natBytes 8 d.1.toNat) with
      | .ok s => s
      | .error _ => s
    s.writeFolioFrom k st va (n + 1) m

/-- A stopped context's folio written (R162). -/
def State.writeFolio (s : State) (k : Nat) (st : Stop) : State :=
  match s.folioVa k with
  | none => s
  | some va =>
    let s := s.writeFolioFrom k st va 0 2304
    let st := { st with written := true, digestAt := s.freeCtr, location := s.portableLoc k st.resumePc }
    { s.setCtx k { s.ctx k with stop := some st } with freeCtr := s.freeCtr + 1 }

/-! ## Returning from an exception (R167, R297) -/

/-- The register part of a folio's dwords loaded into a context; a register's mark is that of the folio's bytes (R171). -/
def Ctx.loadFolio (c : Ctx) (d : Nat → Word) (bad : Nat → Bool) : Ctx :=
  let ix := (List.range 4).foldl (fun (c : Ctx) i => c.putIx i (d (8 + i))) c
  let ox := (List.range 8).foldl (fun (c : Ctx) i => c.putOx i (d (12 + i))) ix
  let m := (List.range 7).foldl (fun (c : Ctx) i => c.putM (i + 1) (d (21 + 2 * i) ++ d (20 + 2 * i))) ox
  let w := (List.range 64).foldl (fun (c : Ctx) i =>
    if c.holdsW i then c.putW i (d (96 + i)) (bad (96 + i)) else c) m
  (List.range 32).foldl (fun (c : Ctx) i =>
    if c.holdsV i then
      c.putV i (Vec.ofFn (fun l => (d (160 + 64 * i + l / 2)).extractLsb' (32 * (l % 2)) 32))
        ((List.range 64).any (fun j => bad (160 + 64 * i + j)))
    else c) w

/-- A stopped context goes on at a PC with an acquire of everything performed before (R167): it is READY, its late records are
gone, and a released task's TCB is RUNNING. -/
def State.resume (s : State) (k : Nat) (c : Ctx) (pc : Word) : State :=
  let s := s.setCtx k { c with state := c.running, stop := none, lates := [], pc := pc }
  match c.act with
  | some a => match a.tcb with
    | some t => s.tcbState k t 2
    | none => s
  | none => s

/-! ## The start of an activation (R29) -/

/-- The place in the tile scratchpad window of an offset. -/
def ownTileVa (off : Nat) : Word := BitVec.ofNat 64 (0x80000000000000 + off)

/-- A DORMANT context holding an activation: registers zero but those that R29 lists; the digest state stays, which only the PD instructions and the
walk unit change (R204; DESIGN CHOICE, log entry 92). -/
def State.activate (s : State) (k tag : Nat) (l : Launch) (a : Act) (pc w4 : Word) (args : List Word) : State :=
  let c : Ctx := { s.ctx k with
    state := .ready, launch := tag, actId := s.nextId, act := some a, pc := pc, w := [], wbad := [], m := [],
    ix := [], ox := [], sblk := 3, vblk := 0, ld := 0, st := 0, cp := 0, tl := 0, acq := [], rel := [],
    region := none, aborts := 0, restarting := false, stop := none, lates := [], window := none, align := none, await := none,
    answer := none, drainReq := none, brokeAt := none }
  let c := ((c.setW 2 (ownTileVa (l.stackBase + 2048 * (8 * roleOf k + numOf k + 1)))).setW 3 (ownTileVa 0))
  let c := (c.setW 4 w4).setW 5 a.header
  let c := (List.zip (List.range 8) args).foldl (fun (c : Ctx) p => c.setW (8 + p.1) p.2) c
  let s := s.fresh.setCtx k c
  match l.first with
  | some _ => s
  | none => s.setLaunch tag { l with first := some s.cycle }

end Sys2Proof.Machine
end

