-- ==== Sys2Proof/Machine/Blocks.lean ====
section
/-!
DEFINITION. Sys2Proof/Machine/Blocks.lean: register blocks (R329, R330), index registers (R305), operand-extension registers
(R315, R320) and indexed moves (R321).
-/

namespace Sys2Proof.Machine

/-! ## Register blocks -/

/-- Scalar blocks of a core's pool that its contexts hold beyond blocks 0 and 1, and vector blocks held. -/
def State.blocksUsed (s : State) (core file : Nat) : Nat :=
  ((List.range 8).map (fun c =>
    let x := s.ctx (core * 8 + c)
    if file = 0 then countOnes (x.sblk.toNat / 4) 6 else countOnes x.vblk.toNat 4)).sum

/-- The blocks of a core's pool for a file: 48 scalar; 8 vector on the A-core and 4 on the X-core (R329). -/
def poolBlocks (core file : Nat) : Nat :=
  if file = 0 then 48
  else if !isTile (core / 4) then 0
  else if core % 4 = 2 then 8 else if core % 4 = 1 then 4 else 0

def State.freeBlocks (s : State) (core file : Nat) : Nat := poolBlocks core file - s.blocksUsed core file

/-- The lowest block of a file that a context does not hold. -/
def Ctx.lowestBlock (c : Ctx) (file : Nat) : Option Nat :=
  if file = 0 then (List.range 8).find? (fun n => !c.sblk.getLsbD n) else (List.range 4).find? (fun n => !c.vblk.getLsbD n)

/-- Registers n to n + 7 of a file zeroed, their marks cleared. -/
def Ctx.zeroBlock (c : Ctx) (file n : Nat) : Ctx :=
  if file = 0 then { c with w := Tbl.clear c.w (8 * n) (8 * n + 8), wbad := Tbl.clear c.wbad (8 * n) (8 * n + 8) }
  else { c with v := Tbl.clear c.v (8 * n) (8 * n + 8), vbad := Tbl.clear c.vbad (8 * n) (8 * n + 8) }

/-- A block bound to a context, every register in it zero (R329). -/
def Ctx.bindBlock (c : Ctx) (file n : Nat) : Ctx :=
  let c := c.zeroBlock file n
  if file = 0 then { c with sblk := c.sblk ||| BitVec.twoPow 8 n } else { c with vblk := c.vblk ||| BitVec.twoPow 4 n }

def Ctx.dropBlock (c : Ctx) (file n : Nat) : Ctx :=
  if file = 0 then { c with sblk := c.sblk &&& ~~~(BitVec.twoPow 8 n) } else { c with vblk := c.vblk &&& ~~~(BitVec.twoPow 4 n) }

def Ctx.holdsBlock (c : Ctx) (file n : Nat) : Bool := if file = 0 then c.sblk.getLsbD n else c.vblk.getLsbD n

/-- How many contexts stalled for a block of a file before this one. -/
def waitersAhead (k file : Nat) : List (Nat × Nat) → Nat
  | [] => 0
  | (j, f) :: r => if j = k && f == file then 0 else (if f = file then 1 else 0) + waitersAhead k file r

/-- Whether an operand names the vector file on a core that has no vector blocks (R258, R329, R330). -/
def State.noVectorBlocks (a : Nat) (s : State) (f : Nat → Word) : Bool := (f a).toNat == 1 && poolBlocks (coreOf s.cur) 1 == 0

/-- Whether a launch is held by readroom (R228). -/
def State.stoppedByReadroom (s : State) (l : Launch) : Bool :=
  match s.sessionOf l.job with
  | some e => e.2.stopped
  | none => false

/-- The launch for which a core may dispatch: resident, not being cancelled, drained, moved or held. After the grace interval of a
cancel, its one message alone is dispatched (R48). -/
def State.dispatcher (s : State) (core : Nat) (afterCancel : Bool) : Option (Nat × Launch) :=
  let t := s.tile (core / 4)
  match t.launch with
  | none => none
  | some tag =>
    match s.launch? tag with
    | none => none
    | some l =>
      let open_ := match l.cancel with | none => true | some c => afterCancel && c.graceOver
      if l.state = .resident && open_ && !l.forRebuild && !s.halting (core / 4) && !t.checking && !s.stoppedByReadroom l then some (tag, l) else none

/-- The drain rows of an A-core that wait for a vector block: each takes one ahead of the stalled RBACQs while a drain context of the
core is DORMANT for it and nothing else holds its dispatch (R153, R329). -/
def State.rowsAhead (s : State) (core : Nat) : Nat :=
  if core % 4 = 2 then
    match s.dispatcher core false with
    | none => 0
    | some (tag, l) =>
      let rows := ((List.range 8).filter (fun n => match Tbl.get none (s.tile (core / 4)).drain n with
        | some d => !d.dispatched && d.launch == tag && (s.handler? tag d.handler).isSome
        | none => false)).length
      let idle := ((List.range l.drains).filter (fun i => (s.ctx (core * 8 + 7 - i)).state == .dormant)).length
      min rows idle
  else 0

/-- RBACQ and RBACQT (R329). -/
def State.acquireBlock (s : State) (d a : Nat) (tries : Bool) : Out :=
  s.issueOn { reads := [a], writes := [d] } [a] (fun _ _ => false) (State.noVectorBlocks a) (fun s =>
    let c := s.ctx s.cur
    let core := coreOf s.cur
    let file := (c.getW a).toNat
    if 1 < file then .next (s.result 4 d Word.minusOne)
    else
      match c.lowestBlock file with
      | none => .next (s.result 4 d Word.minusOne)
      | some n =>
        let q := s.core core
        if waitersAhead s.cur file q.rbWait + (if file = 1 then s.rowsAhead core else 0) < s.freeBlocks core file then
          let s := s.setCore core { q with rbWait := q.rbWait.filter (fun e => e.1 != s.cur) }
          .next (s.done 4 ((c.bindBlock file n).setW d (BitVec.ofNat 64 n)))
        else if tries then .next (s.result 4 d Word.minusOne)
        else
          let ws := if q.rbWait.any (fun e => e.1 == s.cur) then q.rbWait else q.rbWait ++ [(s.cur, file)]
          (s.setCore core { q with rbWait := ws }).stall)

def execRbacq (d a : BitVec 6) (s : State) : Out := s.acquireBlock d.toNat a.toNat false

def execRbacqt (d a : BitVec 6) (s : State) : Out := s.acquireBlock d.toNat a.toNat true

/-- Whether a load of a context is still to write a register of a block. -/
def State.blockAwaits (s : State) (k file n : Nat) : Bool :=
  (List.range 8).any (fun i => s.awaits k (if file = 0 then .w (8 * n + i) else .v (8 * n + i)))

def State.blockSlow (s : State) (k file n : Nat) : Bool :=
  (List.range 8).any (fun i => s.slowly k (if file = 0 then .w (8 * n + i) else .v (8 * n + i)))

/-- Whether a block was held when the open region began (R118). -/
def Ctx.heldAtBegin (c : Ctx) (file n : Nat) : Bool :=
  match c.region with
  | none => false
  | some r => if file = 0 then r.sblk.getLsbD n else r.vblk.getLsbD n

/-- RBREL (R330). -/
def execRbrel (a b : BitVec 6) (s : State) : Out :=
  s.issueOn { reads := [a.toNat, b.toNat] } [a.toNat] (fun _ _ => false) (State.noVectorBlocks a.toNat) (fun s =>
    let c := s.ctx s.cur
    let file := (s.reg a).toNat
    let n := (s.reg b).toNat
    if 1 < file || (file == 0 && decide (7 < n)) || (file == 1 && decide (3 < n)) then s.trap 5 0xFFFF
    else if (file == 0 && decide (n < 2)) || !c.holdsBlock file n then s.trap 5 (64 * file + 8 * n)
    else
      let go := fun (s : State) =>
        if s.blockAwaits s.cur file n then s.waitFor (s.blockSlow s.cur file n) else .next (s.done 4 ((s.ctx s.cur).dropBlock file n))
      if c.heldAtBegin file n then s.irrevocably go else go s)

/-! ## Index registers (R305) -/

def execIxset (x : BitVec 2) (a : BitVec 6) (s : State) : Out :=
  s.issue { reads := [a.toNat] } (fun s => .next (s.done 4 ((s.ctx s.cur).putIx x.toNat (s.reg a))))

def execIxadd (x : BitVec 2) (a : BitVec 6) (s : State) : Out :=
  s.issue { reads := [a.toNat] } (fun s =>
    .next (s.done 4 ((s.ctx s.cur).putIx x.toNat ((s.ctx s.cur).getIx x.toNat + s.reg a))))

/-! ## Operand-extension registers (R315, R320) -/

def execLox (x : BitVec 3) (a : BitVec 6) (s : State) : Out :=
  s.issue { reads := [a.toNat] } (fun s => .next (s.done 4 ((s.ctx s.cur).putOx x.toNat (s.reg a))))

def execMovox (d : BitVec 6) (x : BitVec 3) (s : State) : Out :=
  s.issue { writes := [d.toNat] } (fun s => .next (s.result 4 d.toNat ((s.ctx s.cur).getOx x.toNat)))

/-! ## Indexed moves (R321) -/

/-- The register that an indexed move names; none where it traps with REG_BOUND. -/
def Ctx.indexed (c : Ctx) (x : BitVec 2) (i : BitVec 12) : Option Nat :=
  let x := (c.getIx x.toNat).toInt
  let n := x + i.toInt
  if x < 0 || n < 0 || 63 < n || !c.holdsW n.toNat then none else some n.toNat

def execMovx (d : BitVec 6) (x : BitVec 2) (i : BitVec 12) (s : State) : Out :=
  s.issue { writes := [d.toNat] } (fun s =>
    match (s.ctx s.cur).indexed x i with
    | none => s.trap 4 0
    | some n => s.issue { reads := [n] } (fun s => .next (s.result 4 d.toNat ((s.ctx s.cur).getW n))))

def execMovxw (d : BitVec 6) (x : BitVec 2) (i : BitVec 12) (s : State) : Out :=
  s.issue { reads := [d.toNat] } (fun s =>
    match (s.ctx s.cur).indexed x i with
    | none => s.trap 4 0
    | some n => if s.awaits s.cur (.w n) then s.waitFor (s.slowly s.cur (.w n)) else .next (s.result 4 n (s.reg d)))

end Sys2Proof.Machine
end

