-- ==== Sys2Proof/WellFormed.lean ====
section
/-!
DEFINITION. Sys2Proof/WellFormed.lean: the limits that an instruction's fields have beyond their widths. A word that
breaks one is ILLEGAL (R245); the steps without an encoding have no such limit.
-/

namespace Sys2Proof

/-- The sys values of the table of system registers (R260). -/
def sysReadable (sys : Nat) : Bool :=
  sys == 0x000 || sys == 0x001 || sys == 0x002 || sys == 0x003 || sys == 0x008 || sys == 0x010 ||
  sys == 0x100 || sys == 0x101 || sys == 0x102 || sys == 0x103

/-- The sys values whose Write column is not a dash (R260). -/
def sysWritable (sys : Nat) : Bool :=
  sys == 0x010 || sys == 0x100 || sys == 0x101 || sys == 0x102

/-- Whether an instruction's fields are within the limits of its encoding: FENCE's kind and scope (R81), VCVT's
conversion code (R140), the sys numbers of SRD and SWR (R260). -/
def Instr.wellFormed (i : Instr) : Bool :=
  match i with
  | .fence k s => decide (k.toNat ≤ 2) && decide (s.toNat ≤ 4)
  | .vcvt _ _ _ c => decide (c.toNat ≤ 14)
  | .srd _ s => sysReadable s.toNat
  | .swr _ s => sysWritable s.toNat
  | .add _ _ _ | .sub _ _ _ | .and _ _ _ | .or _ _ _ | .xor _ _ _ | .shl _ _ _ | .shr _ _ _ | .sha _ _ _
  | .min _ _ _ | .max _ _ _ | .minu _ _ _ | .maxu _ _ _ | .seq _ _ _ | .sne _ _ _ | .slt _ _ _ | .sltu _ _ _
  | .mul _ _ _ | .mulh _ _ _ | .mulhu _ _ _ | .div _ _ _ | .divu _ _ _ | .rem _ _ _ | .remu _ _ _ | .sel _ _ _
  | .clz _ _ | .popc _ _ | .extsB _ _ | .extsH _ _ | .extsW _ _ | .extzB _ _ | .extzH _ _ | .extzW _ _
  | .addi _ _ _ | .andi _ _ _ | .ori _ _ _ | .xori _ _ _ | .slti _ _ _ | .sltiu _ _ _ | .shli _ _ _ | .shri _ _ _
  | .shai _ _ _ | .li _ _ | .lis _ _ | .rbacq _ _ | .rbacqt _ _ | .rbrel _ _ | .ixset _ _ | .ixadd _ _ | .lox _ _
  | .movox _ _ | .movx _ _ _ | .movxw _ _ _ | .beq _ _ _ | .bne _ _ _ | .blt _ _ _ | .bge _ _ _ | .bltu _ _ _
  | .bgeu _ _ _ | .j _ | .jl _ | .jr _ | .jlr _ | .ret _ | .loop _ _ | .boqw _ | .boqb _ _ | .ctxres _ _ _
  | .fadd _ _ _ | .fsub _ _ _ | .fmul _ _ _ | .ffma _ _ _ | .fdiv _ _ _ | .fsqrt _ _ | .fmin _ _ _ | .fmax _ _ _
  | .feq _ _ _ | .flt _ _ _ | .fle _ _ _ | .fcvtws _ _ | .fcvtsw _ _ | .ldb _ _ _ | .ldbu _ _ _ | .ldh _ _ _
  | .ldhu _ _ _ | .ldw _ _ _ | .ldwu _ _ _ | .ldd _ _ _ | .stb _ _ _ | .sth _ _ _ | .stw _ _ _ | .std _ _ _
  | .lda _ _ _ | .stl _ _ _ | .iflush _ _ | .catl _ _ | .cats _ _ _ | .cati _ _ | .amoadd _ _ _ _
  | .amoand _ _ _ _ | .amoor _ _ _ _ | .amoxor _ _ _ _ | .amomin _ _ _ _ | .amomax _ _ _ _ | .amominu _ _ _ _
  | .amomaxu _ _ _ _ | .amoswp _ _ _ _ | .amofadd _ _ _ | .amocas _ _ _ _ | .vamoor _ _ _ _ | .vamoadd _ _ _ _
  | .wait _ _ _ _ _ | .pause _ | .semup _ _ | .semdn _ _ | .semtry _ _ | .barw _ _ _ | .bara _ _ _ | .qput _ _
  | .qget _ _ | .send _ _ | .sendv _ _ _ | .wlpush _ | .wlpop _ _ | .wlfloor _ | .tkarm _ _ | .tksig _ _
  | .frbegU _ | .frbegO _ | .frcom _ | .frstat _ | .lvcnt _ _ _ | .cncl _ _ _ | .job _ _ _ | .qbind _ _ _
  | .blkrd _ _ | .ttq _ _ | .osclaim _ _ | .osrel _ | .osld _ _ | .mwld _ | .mmaF _ _ | .mmaI _ _ | .mmaRs _ _
  | .mzero _ _ | .mdrainF _ _ | .mdrainIw _ _ | .mdrainIs _ _ | .mdrainRs _ _ | .walk _ _ _ | .walkn _ _ _
  | .pdrst _ _ _ | .pdseal _ _ | .pdrd _ _ | .refget _ _ _ | .refchk _ _ _ | .trap _ | .svc _ _ _ | .eret _ _ _
  | .cirrd _ _ _ | .zerosp _ _ _ | .sigchk _ | .capreb _ _ | .seal _ _ _ | .monrd _ _ _ | .vfadd _ _ _ _
  | .vfsub _ _ _ _ | .vfmul _ _ _ _ | .vfma _ _ _ _ | .vfms _ _ _ _ | .vfdiv _ _ _ _ | .vfsqrt _ _ _
  | .vfmin _ _ _ _ | .vfmax _ _ _ _ | .vfabs _ _ _ | .vfneg _ _ _ | .vfexps _ _ _ _ | .vffloor _ _ _
  | .vfcmpEq _ _ _ _ | .vfcmpLt _ _ _ _ | .vfcmpLe _ _ _ _ | .vfcmpUn _ _ _ _ | .vadd _ _ _ _ | .vadds _ _ _ _
  | .vsub _ _ _ _ | .vsubs _ _ _ _ | .vmul _ _ _ _ | .vmulh _ _ _ _ | .vmulhu _ _ _ _ | .vand _ _ _ _
  | .vor _ _ _ _ | .vxor _ _ _ _ | .vshl _ _ _ _ | .vshr _ _ _ _ | .vsha _ _ _ _ | .vmin _ _ _ _ | .vmax _ _ _ _
  | .vminu _ _ _ _ | .vmaxu _ _ _ _ | .vcmpEq _ _ _ _ | .vcmpLt _ _ _ _ | .vcmpLtu _ _ _ _ | .vpk6 _ _
  | .vupk6 _ _ | .vrfwd _ _ _ | .vrrev _ _ _ | .vredfadd _ _ _ | .vredfmax _ _ _ | .vredadd _ _ _ | .vredmax _ _ _
  | .vperm _ _ _ _ | .vbcast _ _ _ | .vextr _ _ _ | .vins _ _ _ | .viota _ _ | .vsel _ _ _ _ | .vmov _ _ _
  | .mand _ _ _ _ | .mor _ _ _ _ | .mnot _ _ _ | .mcnt _ _ _ | .mset _ _ _ | .vld _ _ _ _ _ | .vst _ _ _ _ _
  | .vlds _ _ _ _ | .vsts _ _ _ _ | .vgth _ _ _ _ | .vsct _ _ _ _ | .cMov _ _ | .cAdd _ _ | .cSub _ _ | .cAnd _ _
  | .cAddi _ _ | .cLi _ _ | .cShli _ _ | .cLdw _ _ | .cStw _ _ | .cBz _ _ | .cBnz _ _ | .cJ _ | .cPause _ | .pad
  | .align | .hret | .frabt | .drdone | .halt | .bkpt | .cHint | .cRet | .cHret | .xsdCtlWrite _ _
  | .dlLeftWrite _ _ | .shootdownAck _ | .jqTailWrite _ | .jqBaseWrite _ | .jqSizeWrite _ | .registerWrite _ _ _ _
  | .jobDescriptorTake | .jobCompletion _ | .launchAdmission _ | .launchPlacement _ _ | .messageDelivery _
  | .heldMessageAdmit _ | .messageDispatch _ | .taskDispatch _ | .stealRequest _ _ | .stealAnswer _
  | .packageSteal _ _ | .dequeRefill _ | .tksigResponse _ | .floorUpdate _ | .floorExchange _ _ | .drainDispatch _
  | .tileTaskIssue _ | .engineJobStart _ | .engineJobComplete _ | .blkrdPartReturn _ | .osldComplete _
  | .matrixPerform _ | .accessPerformed _ | .loadResponse _ | .storeAck _ | .pageWalkComplete _ _ _
  | .closureRecompute | .commitMerge _ _ | .lateFault _ | .folioWrite _ | .pauseEnd _ | .alignTimeout _
  | .idleSample _ | .deadlineExpiry _ | .cancelGraceExpiry _ | .machineCheck _ | .tileMigration _ _
  | .migrationMarker _ _ | .forwardingRetire _ | .absentContext _ | .launchReturn _ _ | .clearRoutine _
  | .capsuleInstall _ _ _ | .capsuleRetire _ | .capsuleExport _ | .bodyVoid _ _ | .rebuildComplete _ _
  | .livePatch _ _ _ | .sealedRegionRetire _ | .auditLogConsume _ _ | .spdmReqLenWrite _ | .spdmRspLenWrite _
  | .spdmGetVersion _ _ | .spdmGetCapabilities _ _ | .spdmNegotiateAlgorithms _ _ | .spdmGetDigests _ _
  | .spdmGetCertificate _ _ | .spdmChallenge _ _ | .spdmGetMeasurements _ _ | .spdmKeyExchange _ _
  | .spdmFinish _ _ | .spdmEndSession _ _ | .spdmUnsupportedRequest _ _ | .ptReqTailWrite _ | .ptRspHeadWrite _
  | .ptRegisterRead | .ptRegisterWrite | .ptMemoryWrite | .ptMemoryRead | .ptRekey | .rekeyAck _
  | .powerCapWrite _ | .dormantRequest | .dormantForce | .wake | .idleClockGate _ | .thermalLimit _ | .boot _
  | .bootRetry | .fabricFlitReceive _ | .linkRetrained _ | .linkDown _ | .monitorSample _ _ _ | .rrAttach _
  | .rrBreak _ | .rrDelete _ | .rrContinue | .rrStop | .rrRegs _ _ | .rrMem _ _ | .rrFolio _ _ | .rrRing _ | .rrWl
  | .rrRegion | .rrQuit | .rrDisconnect | .instructionLineFill _ _ _ | .bodyVoidLive _ | .packageStealAnswer _ _ _ => true

end Sys2Proof
end

