-- ==== Sys2Proof/Decode.lean ====
section
/-!
DEFINITION. Sys2Proof/Decode.lean: the decoder (R243, R245-R257) and, after it, the encoder. A word is taken as a
number; fld w lo n is its field of n bits from bit lo.
-/

namespace Sys2Proof

/-- The field of n bits whose lowest bit is lo (R4). -/
def fld (w lo n : Nat) : Nat := w / 2 ^ lo % 2 ^ n

/-- The same field as a bit string. -/
def bits (w lo n : Nat) : BitVec n := BitVec.ofNat n (fld w lo n)

/-- Why the decoder refuses a byte string. -/
inductive DecodeError where
  /-- fewer bytes than the instruction that begins there needs -/
  | short
  /-- the pattern is no instruction (R245, step 1) -/
  | illegal (word : Nat)
  deriving DecidableEq, Repr

/-- An instruction if its must-be-zero fields are zero and its limits hold (R245, R257). -/
def orIllegal (ok : Bool) (i : Instr) : Option Instr := if ok && i.wellFormed then some i else none

/-- The words whose bits [7:0] are 0x03, by function code (R256). -/
def decodeP01 (w : Nat) : Option Instr :=
  match fld w 26 6 with
  | 0 => orIllegal true (.add (bits w 8 6) (bits w 14 6) (bits w 20 6))
  | 1 => orIllegal true (.sub (bits w 8 6) (bits w 14 6) (bits w 20 6))
  | 2 => orIllegal true (.and (bits w 8 6) (bits w 14 6) (bits w 20 6))
  | 3 => orIllegal true (.or (bits w 8 6) (bits w 14 6) (bits w 20 6))
  | 4 => orIllegal true (.xor (bits w 8 6) (bits w 14 6) (bits w 20 6))
  | 5 => orIllegal true (.shl (bits w 8 6) (bits w 14 6) (bits w 20 6))
  | 6 => orIllegal true (.shr (bits w 8 6) (bits w 14 6) (bits w 20 6))
  | 7 => orIllegal true (.sha (bits w 8 6) (bits w 14 6) (bits w 20 6))
  | 8 => orIllegal true (.min (bits w 8 6) (bits w 14 6) (bits w 20 6))
  | 9 => orIllegal true (.max (bits w 8 6) (bits w 14 6) (bits w 20 6))
  | 10 => orIllegal true (.minu (bits w 8 6) (bits w 14 6) (bits w 20 6))
  | 11 => orIllegal true (.maxu (bits w 8 6) (bits w 14 6) (bits w 20 6))
  | 12 => orIllegal true (.seq (bits w 8 6) (bits w 14 6) (bits w 20 6))
  | 13 => orIllegal true (.sne (bits w 8 6) (bits w 14 6) (bits w 20 6))
  | 14 => orIllegal true (.slt (bits w 8 6) (bits w 14 6) (bits w 20 6))
  | 15 => orIllegal true (.sltu (bits w 8 6) (bits w 14 6) (bits w 20 6))
  | 16 => orIllegal true (.mul (bits w 8 6) (bits w 14 6) (bits w 20 6))
  | 17 => orIllegal true (.mulh (bits w 8 6) (bits w 14 6) (bits w 20 6))
  | 18 => orIllegal true (.mulhu (bits w 8 6) (bits w 14 6) (bits w 20 6))
  | 19 => orIllegal true (.div (bits w 8 6) (bits w 14 6) (bits w 20 6))
  | 20 => orIllegal true (.divu (bits w 8 6) (bits w 14 6) (bits w 20 6))
  | 21 => orIllegal true (.rem (bits w 8 6) (bits w 14 6) (bits w 20 6))
  | 22 => orIllegal true (.remu (bits w 8 6) (bits w 14 6) (bits w 20 6))
  | 23 => orIllegal true (.sel (bits w 8 6) (bits w 14 6) (bits w 20 6))
  | 24 => orIllegal (fld w 20 6 == 0) (.clz (bits w 8 6) (bits w 14 6))
  | 25 => orIllegal (fld w 20 6 == 0) (.popc (bits w 8 6) (bits w 14 6))
  | 26 => orIllegal (fld w 20 6 == 0) (.extsB (bits w 8 6) (bits w 14 6))
  | 27 => orIllegal (fld w 20 6 == 0) (.extsH (bits w 8 6) (bits w 14 6))
  | 28 => orIllegal (fld w 20 6 == 0) (.extsW (bits w 8 6) (bits w 14 6))
  | 29 => orIllegal (fld w 20 6 == 0) (.extzB (bits w 8 6) (bits w 14 6))
  | 30 => orIllegal (fld w 20 6 == 0) (.extzH (bits w 8 6) (bits w 14 6))
  | 31 => orIllegal (fld w 20 6 == 0) (.extzW (bits w 8 6) (bits w 14 6))
  | _ => none

/-- The words whose bits [7:0] are 0x1B, by function code (R256). -/
def decodeP0D (w : Nat) : Option Instr :=
  match fld w 26 6 with
  | 0 => orIllegal (fld w 20 6 == 0) (.rbacq (bits w 8 6) (bits w 14 6))
  | 1 => orIllegal (fld w 20 6 == 0) (.rbacqt (bits w 8 6) (bits w 14 6))
  | 2 => orIllegal (fld w 8 6 == 0) (.rbrel (bits w 14 6) (bits w 20 6))
  | 3 => orIllegal (fld w 10 4 == 0 && fld w 20 6 == 0) (.ixset (bits w 8 2) (bits w 14 6))
  | 4 => orIllegal (fld w 10 4 == 0 && fld w 20 6 == 0) (.ixadd (bits w 8 2) (bits w 14 6))
  | 5 => orIllegal (fld w 11 3 == 0 && fld w 20 6 == 0) (.lox (bits w 8 3) (bits w 14 6))
  | 6 => orIllegal (fld w 17 9 == 0) (.movox (bits w 8 6) (bits w 14 3))
  | _ => none

/-- The words whose bits [7:0] are 0x31, by function code (R256). -/
def decodeP18 (w : Nat) : Option Instr :=
  match fld w 26 6 with
  | 0 => orIllegal (fld w 8 6 == 0 && fld w 20 6 == 0) (.jr (bits w 14 6))
  | 1 => orIllegal (fld w 8 6 == 0 && fld w 20 6 == 0) (.jlr (bits w 14 6))
  | 2 => orIllegal (fld w 8 6 == 0 && fld w 20 6 == 0) (.ret (bits w 14 6))
  | _ => none

/-- The words whose bits [7:0] are 0x3D, by function code (R256). -/
def decodeP1E (w : Nat) : Option Instr :=
  match fld w 26 6 with
  | 0 => orIllegal true (.fadd (bits w 8 6) (bits w 14 6) (bits w 20 6))
  | 1 => orIllegal true (.fsub (bits w 8 6) (bits w 14 6) (bits w 20 6))
  | 2 => orIllegal true (.fmul (bits w 8 6) (bits w 14 6) (bits w 20 6))
  | 3 => orIllegal true (.ffma (bits w 8 6) (bits w 14 6) (bits w 20 6))
  | 4 => orIllegal true (.fdiv (bits w 8 6) (bits w 14 6) (bits w 20 6))
  | 5 => orIllegal (fld w 20 6 == 0) (.fsqrt (bits w 8 6) (bits w 14 6))
  | 6 => orIllegal true (.fmin (bits w 8 6) (bits w 14 6) (bits w 20 6))
  | 7 => orIllegal true (.fmax (bits w 8 6) (bits w 14 6) (bits w 20 6))
  | 8 => orIllegal true (.feq (bits w 8 6) (bits w 14 6) (bits w 20 6))
  | 9 => orIllegal true (.flt (bits w 8 6) (bits w 14 6) (bits w 20 6))
  | 10 => orIllegal true (.fle (bits w 8 6) (bits w 14 6) (bits w 20 6))
  | 11 => orIllegal (fld w 20 6 == 0) (.fcvtws (bits w 8 6) (bits w 14 6))
  | 12 => orIllegal (fld w 20 6 == 0) (.fcvtsw (bits w 8 6) (bits w 14 6))
  | _ => none

/-- The words whose bits [7:0] are 0x5F, by function code (R256). -/
def decodeP2F (w : Nat) : Option Instr :=
  match fld w 26 6 with
  | 0 => orIllegal (fld w 20 6 == 0) (.catl (bits w 8 6) (bits w 14 6))
  | 1 => orIllegal true (.cats (bits w 8 6) (bits w 14 6) (bits w 20 6))
  | 2 => orIllegal (fld w 20 6 == 0) (.cati (bits w 8 6) (bits w 14 6))
  | _ => none

/-- The words whose bits [7:0] are 0x61, by function code (R256). -/
def decodeP30 (w : Nat) : Option Instr :=
  match fld w 27 5 with
  | 0 => orIllegal true (.amoadd (bits w 8 6) (bits w 14 6) (bits w 20 6) (bits w 26 1))
  | 1 => orIllegal true (.amoand (bits w 8 6) (bits w 14 6) (bits w 20 6) (bits w 26 1))
  | 2 => orIllegal true (.amoor (bits w 8 6) (bits w 14 6) (bits w 20 6) (bits w 26 1))
  | 3 => orIllegal true (.amoxor (bits w 8 6) (bits w 14 6) (bits w 20 6) (bits w 26 1))
  | 4 => orIllegal true (.amomin (bits w 8 6) (bits w 14 6) (bits w 20 6) (bits w 26 1))
  | 5 => orIllegal true (.amomax (bits w 8 6) (bits w 14 6) (bits w 20 6) (bits w 26 1))
  | 6 => orIllegal true (.amominu (bits w 8 6) (bits w 14 6) (bits w 20 6) (bits w 26 1))
  | 7 => orIllegal true (.amomaxu (bits w 8 6) (bits w 14 6) (bits w 20 6) (bits w 26 1))
  | 8 => orIllegal true (.amoswp (bits w 8 6) (bits w 14 6) (bits w 20 6) (bits w 26 1))
  | 9 => orIllegal (fld w 26 1 == 0) (.amofadd (bits w 8 6) (bits w 14 6) (bits w 20 6))
  | _ => none

/-- The words whose bits [7:0] are 0x65, by function code (R256). -/
def decodeP32 (w : Nat) : Option Instr :=
  match fld w 26 6 with
  | 0 => orIllegal true (.vamoor (bits w 8 5) (bits w 13 5) (bits w 18 5) (bits w 23 3))
  | 1 => orIllegal true (.vamoadd (bits w 8 5) (bits w 13 5) (bits w 18 5) (bits w 23 3))
  | _ => none

/-- The words whose bits [7:0] are 0x75, by function code (R256). -/
def decodeP3A (w : Nat) : Option Instr :=
  match fld w 26 6 with
  | 0 => orIllegal (fld w 20 6 == 0) (.semup (bits w 8 6) (bits w 14 6))
  | 1 => orIllegal (fld w 20 6 == 0) (.semdn (bits w 8 6) (bits w 14 6))
  | 2 => orIllegal (fld w 20 6 == 0) (.semtry (bits w 8 6) (bits w 14 6))
  | _ => none

/-- The words whose bits [7:0] are 0x77, by function code (R256). -/
def decodeP3B (w : Nat) : Option Instr :=
  match fld w 26 6 with
  | 0 => orIllegal true (.barw (bits w 8 6) (bits w 14 6) (bits w 20 6))
  | 1 => orIllegal true (.bara (bits w 8 6) (bits w 14 6) (bits w 20 6))
  | _ => none

/-- The words whose bits [7:0] are 0x79, by function code (R256). -/
def decodeP3C (w : Nat) : Option Instr :=
  match fld w 26 6 with
  | 0 => orIllegal (fld w 8 6 == 0) (.qput (bits w 14 6) (bits w 20 6))
  | 1 => orIllegal (fld w 20 6 == 0) (.qget (bits w 8 6) (bits w 14 6))
  | _ => none

/-- The words whose bits [7:0] are 0x87, by function code (R256). -/
def decodeP43 (w : Nat) : Option Instr :=
  match fld w 26 6 with
  | 0 => orIllegal (fld w 8 6 == 0 && fld w 20 6 == 0) (.wlpush (bits w 14 6))
  | 1 => orIllegal (fld w 20 6 == 0) (.wlpop (bits w 8 6) (bits w 14 6))
  | 2 => orIllegal (fld w 14 12 == 0) (.wlfloor (bits w 8 6))
  | _ => none

/-- The words whose bits [7:0] are 0x89, by function code (R256). -/
def decodeP44 (w : Nat) : Option Instr :=
  match fld w 26 6 with
  | 0 => orIllegal (fld w 20 6 == 0) (.tkarm (bits w 8 6) (bits w 14 6))
  | 1 => orIllegal (fld w 20 6 == 0) (.tksig (bits w 8 6) (bits w 14 6))
  | _ => none

/-- The words whose bits [7:0] are 0x8B, by function code (R256). -/
def decodeP45 (w : Nat) : Option Instr :=
  match fld w 26 6 with
  | 0 => orIllegal (fld w 14 12 == 0) (.frbegU (bits w 8 6))
  | 1 => orIllegal (fld w 14 12 == 0) (.frbegO (bits w 8 6))
  | 2 => orIllegal (fld w 14 12 == 0) (.frcom (bits w 8 6))
  | 3 => orIllegal (fld w 8 18 == 0) (.frabt)
  | 4 => orIllegal (fld w 14 12 == 0) (.frstat (bits w 8 6))
  | _ => none

/-- The words whose bits [7:0] are 0x8D, by function code (R256). -/
def decodeP46 (w : Nat) : Option Instr :=
  match fld w 26 6 with
  | 0 => orIllegal true (.lvcnt (bits w 8 6) (bits w 14 6) (bits w 20 6))
  | 1 => orIllegal true (.cncl (bits w 8 6) (bits w 14 6) (bits w 20 6))
  | _ => none

/-- The words whose bits [7:0] are 0xA1, by function code (R256). -/
def decodeP50 (w : Nat) : Option Instr :=
  match fld w 26 6 with
  | 0 => orIllegal (fld w 20 6 == 0) (.osclaim (bits w 8 6) (bits w 14 6))
  | 1 => orIllegal (fld w 8 6 == 0 && fld w 20 6 == 0) (.osrel (bits w 14 6))
  | 2 => orIllegal (fld w 8 6 == 0) (.osld (bits w 14 6) (bits w 20 6))
  | _ => none

/-- The words whose bits [7:0] are 0xA5, by function code (R256). -/
def decodeP52 (w : Nat) : Option Instr :=
  match fld w 26 6 with
  | 0 => orIllegal (fld w 8 6 == 0) (.mmaF (bits w 14 6) (bits w 20 6))
  | 1 => orIllegal (fld w 8 6 == 0) (.mmaI (bits w 14 6) (bits w 20 6))
  | 2 => orIllegal (fld w 8 6 == 0) (.mmaRs (bits w 14 6) (bits w 20 6))
  | _ => none

/-- The words whose bits [7:0] are 0xA9, by function code (R256). -/
def decodeP54 (w : Nat) : Option Instr :=
  match fld w 26 6 with
  | 0 => orIllegal (fld w 8 6 == 0) (.mdrainF (bits w 14 6) (bits w 20 6))
  | 1 => orIllegal (fld w 8 6 == 0) (.mdrainIw (bits w 14 6) (bits w 20 6))
  | 2 => orIllegal (fld w 8 6 == 0) (.mdrainIs (bits w 14 6) (bits w 20 6))
  | 3 => orIllegal (fld w 8 6 == 0) (.mdrainRs (bits w 14 6) (bits w 20 6))
  | _ => none

/-- The words whose bits [7:0] are 0xB1, by function code (R256). -/
def decodeP58 (w : Nat) : Option Instr :=
  match fld w 26 6 with
  | 0 => orIllegal true (.walk (bits w 8 6) (bits w 14 6) (bits w 20 6))
  | 1 => orIllegal true (.walkn (bits w 8 6) (bits w 14 6) (bits w 20 6))
  | _ => none

/-- The words whose bits [7:0] are 0xB3, by function code (R256). -/
def decodeP59 (w : Nat) : Option Instr :=
  match fld w 26 6 with
  | 0 => orIllegal true (.pdrst (bits w 8 6) (bits w 14 6) (bits w 20 6))
  | 1 => orIllegal (fld w 20 6 == 0) (.pdseal (bits w 8 6) (bits w 14 6))
  | 2 => orIllegal (fld w 20 6 == 0) (.pdrd (bits w 8 6) (bits w 14 6))
  | _ => none

/-- The words whose bits [7:0] are 0xB5, by function code (R256). -/
def decodeP5A (w : Nat) : Option Instr :=
  match fld w 26 6 with
  | 0 => orIllegal true (.refget (bits w 8 6) (bits w 14 6) (bits w 20 6))
  | 1 => orIllegal true (.refchk (bits w 8 6) (bits w 14 6) (bits w 20 6))
  | _ => none

/-- The words whose bits [7:0] are 0xE1, by function code (R256). -/
def decodeP70 (w : Nat) : Option Instr :=
  match fld w 26 6 with
  | 0 => orIllegal (fld w 8 6 == 0) (.trap (bits w 14 12))
  | 1 => orIllegal true (.svc (bits w 8 6) (bits w 14 6) (bits w 20 6))
  | 2 => orIllegal true (.eret (bits w 8 6) (bits w 14 6) (bits w 20 6))
  | 3 => orIllegal (fld w 8 18 == 0) (.halt)
  | 4 => orIllegal (fld w 8 18 == 0) (.bkpt)
  | 5 => orIllegal true (.cirrd (bits w 8 6) (bits w 14 6) (bits w 20 6))
  | 6 => orIllegal true (.zerosp (bits w 8 6) (bits w 14 6) (bits w 20 6))
  | 7 => orIllegal (fld w 14 12 == 0) (.sigchk (bits w 8 6))
  | 8 => orIllegal (fld w 20 6 == 0) (.capreb (bits w 8 6) (bits w 14 6))
  | 9 => orIllegal true (.seal (bits w 8 6) (bits w 14 6) (bits w 20 6))
  | 10 => orIllegal true (.monrd (bits w 8 6) (bits w 14 6) (bits w 20 6))
  | _ => none

/-- The words whose bits [7:0] are 0xC1, by function code (R256). -/
def decodeP60 (w : Nat) : Option Instr :=
  match fld w 26 6 with
  | 0 => orIllegal true (.vfadd (bits w 8 5) (bits w 13 5) (bits w 18 5) (bits w 23 3))
  | 1 => orIllegal true (.vfsub (bits w 8 5) (bits w 13 5) (bits w 18 5) (bits w 23 3))
  | 2 => orIllegal true (.vfmul (bits w 8 5) (bits w 13 5) (bits w 18 5) (bits w 23 3))
  | 3 => orIllegal true (.vfma (bits w 8 5) (bits w 13 5) (bits w 18 5) (bits w 23 3))
  | 4 => orIllegal true (.vfms (bits w 8 5) (bits w 13 5) (bits w 18 5) (bits w 23 3))
  | 5 => orIllegal true (.vfdiv (bits w 8 5) (bits w 13 5) (bits w 18 5) (bits w 23 3))
  | 6 => orIllegal (fld w 18 5 == 0) (.vfsqrt (bits w 8 5) (bits w 13 5) (bits w 23 3))
  | 7 => orIllegal true (.vfmin (bits w 8 5) (bits w 13 5) (bits w 18 5) (bits w 23 3))
  | 8 => orIllegal true (.vfmax (bits w 8 5) (bits w 13 5) (bits w 18 5) (bits w 23 3))
  | 9 => orIllegal (fld w 18 5 == 0) (.vfabs (bits w 8 5) (bits w 13 5) (bits w 23 3))
  | 10 => orIllegal (fld w 18 5 == 0) (.vfneg (bits w 8 5) (bits w 13 5) (bits w 23 3))
  | 11 => orIllegal true (.vfexps (bits w 8 5) (bits w 13 5) (bits w 18 5) (bits w 23 3))
  | 12 => orIllegal (fld w 18 5 == 0) (.vffloor (bits w 8 5) (bits w 13 5) (bits w 23 3))
  | 13 => orIllegal (fld w 11 2 == 0) (.vfcmpEq (bits w 8 3) (bits w 13 5) (bits w 18 5) (bits w 23 3))
  | 14 => orIllegal (fld w 11 2 == 0) (.vfcmpLt (bits w 8 3) (bits w 13 5) (bits w 18 5) (bits w 23 3))
  | 15 => orIllegal (fld w 11 2 == 0) (.vfcmpLe (bits w 8 3) (bits w 13 5) (bits w 18 5) (bits w 23 3))
  | 16 => orIllegal (fld w 11 2 == 0) (.vfcmpUn (bits w 8 3) (bits w 13 5) (bits w 18 5) (bits w 23 3))
  | _ => none

/-- The words whose bits [7:0] are 0xC3, by function code (R256). -/
def decodeP61 (w : Nat) : Option Instr :=
  match fld w 26 6 with
  | 0 => orIllegal true (.vadd (bits w 8 5) (bits w 13 5) (bits w 18 5) (bits w 23 3))
  | 1 => orIllegal true (.vadds (bits w 8 5) (bits w 13 5) (bits w 18 5) (bits w 23 3))
  | 2 => orIllegal true (.vsub (bits w 8 5) (bits w 13 5) (bits w 18 5) (bits w 23 3))
  | 3 => orIllegal true (.vsubs (bits w 8 5) (bits w 13 5) (bits w 18 5) (bits w 23 3))
  | 4 => orIllegal true (.vmul (bits w 8 5) (bits w 13 5) (bits w 18 5) (bits w 23 3))
  | 5 => orIllegal true (.vmulh (bits w 8 5) (bits w 13 5) (bits w 18 5) (bits w 23 3))
  | 6 => orIllegal true (.vmulhu (bits w 8 5) (bits w 13 5) (bits w 18 5) (bits w 23 3))
  | 7 => orIllegal true (.vand (bits w 8 5) (bits w 13 5) (bits w 18 5) (bits w 23 3))
  | 8 => orIllegal true (.vor (bits w 8 5) (bits w 13 5) (bits w 18 5) (bits w 23 3))
  | 9 => orIllegal true (.vxor (bits w 8 5) (bits w 13 5) (bits w 18 5) (bits w 23 3))
  | 10 => orIllegal true (.vshl (bits w 8 5) (bits w 13 5) (bits w 18 5) (bits w 23 3))
  | 11 => orIllegal true (.vshr (bits w 8 5) (bits w 13 5) (bits w 18 5) (bits w 23 3))
  | 12 => orIllegal true (.vsha (bits w 8 5) (bits w 13 5) (bits w 18 5) (bits w 23 3))
  | 13 => orIllegal true (.vmin (bits w 8 5) (bits w 13 5) (bits w 18 5) (bits w 23 3))
  | 14 => orIllegal true (.vmax (bits w 8 5) (bits w 13 5) (bits w 18 5) (bits w 23 3))
  | 15 => orIllegal true (.vminu (bits w 8 5) (bits w 13 5) (bits w 18 5) (bits w 23 3))
  | 16 => orIllegal true (.vmaxu (bits w 8 5) (bits w 13 5) (bits w 18 5) (bits w 23 3))
  | 17 => orIllegal (fld w 11 2 == 0) (.vcmpEq (bits w 8 3) (bits w 13 5) (bits w 18 5) (bits w 23 3))
  | 18 => orIllegal (fld w 11 2 == 0) (.vcmpLt (bits w 8 3) (bits w 13 5) (bits w 18 5) (bits w 23 3))
  | 19 => orIllegal (fld w 11 2 == 0) (.vcmpLtu (bits w 8 3) (bits w 13 5) (bits w 18 5) (bits w 23 3))
  | _ => none

/-- The words whose bits [7:0] are 0xC7, by function code (R256). -/
def decodeP63 (w : Nat) : Option Instr :=
  match fld w 26 6 with
  | 0 => orIllegal (fld w 18 8 == 0) (.vpk6 (bits w 8 5) (bits w 13 5))
  | 1 => orIllegal (fld w 18 8 == 0) (.vupk6 (bits w 8 5) (bits w 13 5))
  | 2 => orIllegal (fld w 18 5 == 0) (.vrfwd (bits w 8 5) (bits w 13 5) (bits w 23 3))
  | 3 => orIllegal (fld w 18 5 == 0) (.vrrev (bits w 8 5) (bits w 13 5) (bits w 23 3))
  | _ => none

/-- The words whose bits [7:0] are 0xC9, by function code (R256). -/
def decodeP64 (w : Nat) : Option Instr :=
  match fld w 26 6 with
  | 0 => orIllegal (fld w 18 5 == 0) (.vredfadd (bits w 8 5) (bits w 13 5) (bits w 23 3))
  | 1 => orIllegal (fld w 18 5 == 0) (.vredfmax (bits w 8 5) (bits w 13 5) (bits w 23 3))
  | 2 => orIllegal (fld w 18 5 == 0) (.vredadd (bits w 8 5) (bits w 13 5) (bits w 23 3))
  | 3 => orIllegal (fld w 18 5 == 0) (.vredmax (bits w 8 5) (bits w 13 5) (bits w 23 3))
  | _ => none

/-- The words whose bits [7:0] are 0xCB, by function code (R256). -/
def decodeP65 (w : Nat) : Option Instr :=
  match fld w 26 6 with
  | 0 => orIllegal true (.vperm (bits w 8 5) (bits w 13 5) (bits w 18 5) (bits w 23 3))
  | 1 => orIllegal (fld w 18 5 == 0) (.vbcast (bits w 8 5) (bits w 13 5) (bits w 23 3))
  | 2 => orIllegal (fld w 23 3 == 0) (.vextr (bits w 8 5) (bits w 13 5) (bits w 18 5))
  | 3 => orIllegal (fld w 23 3 == 0) (.vins (bits w 8 5) (bits w 13 5) (bits w 18 5))
  | 4 => orIllegal (fld w 13 10 == 0) (.viota (bits w 8 5) (bits w 23 3))
  | 5 => orIllegal true (.vsel (bits w 8 5) (bits w 13 5) (bits w 18 5) (bits w 23 3))
  | 6 => orIllegal (fld w 18 5 == 0) (.vmov (bits w 8 5) (bits w 13 5) (bits w 23 3))
  | _ => none

/-- The words whose bits [7:0] are 0xCD, by function code (R256). -/
def decodeP66 (w : Nat) : Option Instr :=
  match fld w 26 6 with
  | 0 => orIllegal (fld w 11 2 == 0 && fld w 16 2 == 0 && fld w 21 2 == 0) (.mand (bits w 8 3) (bits w 13 3) (bits w 18 3) (bits w 23 3))
  | 1 => orIllegal (fld w 11 2 == 0 && fld w 16 2 == 0 && fld w 21 2 == 0) (.mor (bits w 8 3) (bits w 13 3) (bits w 18 3) (bits w 23 3))
  | 2 => orIllegal (fld w 11 2 == 0 && fld w 16 7 == 0) (.mnot (bits w 8 3) (bits w 13 3) (bits w 23 3))
  | 3 => orIllegal (fld w 16 7 == 0) (.mcnt (bits w 8 5) (bits w 13 3) (bits w 23 3))
  | 4 => orIllegal (fld w 11 2 == 0 && fld w 23 3 == 0) (.mset (bits w 8 3) (bits w 13 5) (bits w 18 5))
  | _ => none

/-- A 32-bit word, by its primary opcode (R256). -/
def decode32 (w : Nat) : Option Instr :=
  match fld w 0 8 with
  | 0x03 => decodeP01 w
  | 0x05 => orIllegal true (.addi (bits w 8 6) (bits w 14 6) (bits w 20 12))
  | 0x07 => orIllegal true (.andi (bits w 8 6) (bits w 14 6) (bits w 20 12))
  | 0x09 => orIllegal true (.ori (bits w 8 6) (bits w 14 6) (bits w 20 12))
  | 0x0B => orIllegal true (.xori (bits w 8 6) (bits w 14 6) (bits w 20 12))
  | 0x0D => orIllegal true (.slti (bits w 8 6) (bits w 14 6) (bits w 20 12))
  | 0x0F => orIllegal true (.sltiu (bits w 8 6) (bits w 14 6) (bits w 20 12))
  | 0x11 => orIllegal (fld w 26 6 == 0) (.shli (bits w 8 6) (bits w 14 6) (bits w 20 6))
  | 0x13 => orIllegal (fld w 26 6 == 0) (.shri (bits w 8 6) (bits w 14 6) (bits w 20 6))
  | 0x15 => orIllegal (fld w 26 6 == 0) (.shai (bits w 8 6) (bits w 14 6) (bits w 20 6))
  | 0x17 => orIllegal true (.li (bits w 8 6) (bits w 14 18))
  | 0x19 => orIllegal true (.lis (bits w 8 6) (bits w 14 18))
  | 0x1B => decodeP0D w
  | 0x1D => orIllegal (fld w 16 4 == 0) (.movx (bits w 8 6) (bits w 14 2) (bits w 20 12))
  | 0x1F => orIllegal (fld w 16 4 == 0) (.movxw (bits w 8 6) (bits w 14 2) (bits w 20 12))
  | 0x21 => orIllegal true (.beq (bits w 8 6) (bits w 14 6) (bits w 20 12))
  | 0x23 => orIllegal true (.bne (bits w 8 6) (bits w 14 6) (bits w 20 12))
  | 0x25 => orIllegal true (.blt (bits w 8 6) (bits w 14 6) (bits w 20 12))
  | 0x27 => orIllegal true (.bge (bits w 8 6) (bits w 14 6) (bits w 20 12))
  | 0x29 => orIllegal true (.bltu (bits w 8 6) (bits w 14 6) (bits w 20 12))
  | 0x2B => orIllegal true (.bgeu (bits w 8 6) (bits w 14 6) (bits w 20 12))
  | 0x2D => orIllegal true (.j (bits w 8 24))
  | 0x2F => orIllegal true (.jl (bits w 8 24))
  | 0x31 => decodeP18 w
  | 0x33 => orIllegal (fld w 8 12 == 0 && fld w 22 10 == 0) (.pad)
  | 0x35 => orIllegal (fld w 14 6 == 0) (.loop (bits w 8 6) (bits w 20 12))
  | 0x37 => orIllegal (fld w 8 6 == 0 && fld w 20 12 == 0) (.boqw (bits w 14 6))
  | 0x39 => orIllegal (fld w 9 11 == 0) (.boqb (bits w 8 1) (bits w 20 12))
  | 0x3B => orIllegal (fld w 26 6 == 0) (.ctxres (bits w 8 6) (bits w 14 6) (bits w 20 6))
  | 0x3D => decodeP1E w
  | 0x41 => orIllegal true (.ldb (bits w 8 6) (bits w 14 6) (bits w 20 12))
  | 0x43 => orIllegal true (.ldbu (bits w 8 6) (bits w 14 6) (bits w 20 12))
  | 0x45 => orIllegal true (.ldh (bits w 8 6) (bits w 14 6) (bits w 20 12))
  | 0x47 => orIllegal true (.ldhu (bits w 8 6) (bits w 14 6) (bits w 20 12))
  | 0x49 => orIllegal true (.ldw (bits w 8 6) (bits w 14 6) (bits w 20 12))
  | 0x4B => orIllegal true (.ldwu (bits w 8 6) (bits w 14 6) (bits w 20 12))
  | 0x4D => orIllegal true (.ldd (bits w 8 6) (bits w 14 6) (bits w 20 12))
  | 0x4F => orIllegal true (.stb (bits w 8 6) (bits w 14 6) (bits w 20 12))
  | 0x51 => orIllegal true (.sth (bits w 8 6) (bits w 14 6) (bits w 20 12))
  | 0x53 => orIllegal true (.stw (bits w 8 6) (bits w 14 6) (bits w 20 12))
  | 0x55 => orIllegal true (.std (bits w 8 6) (bits w 14 6) (bits w 20 12))
  | 0x57 => orIllegal (fld w 20 6 == 0 && fld w 28 4 == 0) (.lda (bits w 8 6) (bits w 14 6) (bits w 26 2))
  | 0x59 => orIllegal (fld w 20 6 == 0 && fld w 28 4 == 0) (.stl (bits w 8 6) (bits w 14 6) (bits w 26 2))
  | 0x5B => orIllegal (fld w 8 12 == 0 && fld w 25 7 == 0) (.fence (bits w 20 2) (bits w 22 3))
  | 0x5D => orIllegal (fld w 8 6 == 0) (.iflush (bits w 14 6) (bits w 20 12))
  | 0x5F => decodeP2F w
  | 0x61 => decodeP30 w
  | 0x63 => orIllegal (fld w 27 5 == 0) (.amocas (bits w 8 6) (bits w 14 6) (bits w 20 6) (bits w 26 1))
  | 0x65 => decodeP32 w
  | 0x71 => orIllegal (fld w 24 4 == 0) (.wait (bits w 8 4) (bits w 12 4) (bits w 16 4) (bits w 20 4) (bits w 28 4))
  | 0x73 => orIllegal (fld w 8 12 == 0) (.pause (bits w 20 12))
  | 0x75 => decodeP3A w
  | 0x77 => decodeP3B w
  | 0x79 => decodeP3C w
  | 0x7B => orIllegal (fld w 8 12 == 0) (.align)
  | 0x81 => orIllegal (fld w 8 6 == 0 && fld w 26 6 == 0) (.send (bits w 14 6) (bits w 20 6))
  | 0x83 => orIllegal (fld w 25 7 == 0) (.sendv (bits w 8 6) (bits w 14 6) (bits w 20 5))
  | 0x85 => orIllegal (fld w 8 24 == 0) (.hret)
  | 0x87 => decodeP43 w
  | 0x89 => decodeP44 w
  | 0x8B => decodeP45 w
  | 0x8D => decodeP46 w
  | 0x91 => orIllegal (fld w 26 6 == 0) (.job (bits w 8 6) (bits w 14 6) (bits w 20 6))
  | 0x93 => orIllegal (fld w 26 6 == 0) (.qbind (bits w 8 6) (bits w 14 6) (bits w 20 6))
  | 0x95 => orIllegal (fld w 8 6 == 0 && fld w 26 6 == 0) (.blkrd (bits w 14 6) (bits w 20 6))
  | 0x97 => orIllegal (fld w 20 12 == 0) (.ttq (bits w 8 6) (bits w 14 6))
  | 0xA1 => decodeP50 w
  | 0xA3 => orIllegal (fld w 8 6 == 0 && fld w 20 12 == 0) (.mwld (bits w 14 6))
  | 0xA5 => decodeP52 w
  | 0xA7 => orIllegal (fld w 8 6 == 0 && fld w 26 6 == 0) (.mzero (bits w 14 6) (bits w 20 6))
  | 0xA9 => decodeP54 w
  | 0xAB => orIllegal (fld w 8 24 == 0) (.drdone)
  | 0xB1 => decodeP58 w
  | 0xB3 => decodeP59 w
  | 0xB5 => decodeP5A w
  | 0xE1 => decodeP70 w
  | 0xE3 => orIllegal (fld w 14 6 == 0) (.srd (bits w 8 6) (bits w 20 12))
  | 0xE5 => orIllegal (fld w 8 6 == 0) (.swr (bits w 14 6) (bits w 20 12))
  | 0xC1 => decodeP60 w
  | 0xC3 => decodeP61 w
  | 0xC5 => orIllegal (fld w 18 5 == 0) (.vcvt (bits w 8 5) (bits w 13 5) (bits w 23 3) (bits w 26 6))
  | 0xC7 => decodeP63 w
  | 0xC9 => decodeP64 w
  | 0xCB => decodeP65 w
  | 0xCD => decodeP66 w
  | 0xD1 => orIllegal (fld w 30 2 == 0) (.vld (bits w 8 5) (bits w 13 6) (bits w 19 7) (bits w 26 3) (bits w 29 1))
  | 0xD3 => orIllegal (fld w 30 2 == 0) (.vst (bits w 8 5) (bits w 13 6) (bits w 19 7) (bits w 26 3) (bits w 29 1))
  | 0xD5 => orIllegal (fld w 26 6 == 0) (.vlds (bits w 8 5) (bits w 13 5) (bits w 18 5) (bits w 23 3))
  | 0xD7 => orIllegal (fld w 26 6 == 0) (.vsts (bits w 8 5) (bits w 13 5) (bits w 18 5) (bits w 23 3))
  | 0xD9 => orIllegal (fld w 26 6 == 0) (.vgth (bits w 8 5) (bits w 13 5) (bits w 18 5) (bits w 23 3))
  | 0xDB => orIllegal (fld w 26 6 == 0) (.vsct (bits w 8 5) (bits w 13 5) (bits w 18 5) (bits w 23 3))
  | _ => none

/-- A 16-bit form, by op = halfword[4:1], bit 0 being 0 (R254). -/
def decode16 (w : Nat) : Option Instr :=
  match fld w 0 5 with
  | 0 => orIllegal (fld w 5 11 != 0) .cHint
  | 2 => orIllegal (fld w 13 3 == 0) (.cMov (bits w 5 4) (bits w 9 4))
  | 4 => orIllegal (fld w 13 3 == 0) (.cAdd (bits w 5 4) (bits w 9 4))
  | 6 => orIllegal (fld w 13 3 == 0) (.cSub (bits w 5 4) (bits w 9 4))
  | 8 => orIllegal (fld w 13 3 == 0) (.cAnd (bits w 5 4) (bits w 9 4))
  | 10 => orIllegal true (.cAddi (bits w 5 4) (bits w 9 7))
  | 12 => orIllegal true (.cLi (bits w 5 4) (bits w 9 7))
  | 14 => orIllegal (fld w 14 2 == 0) (.cShli (bits w 5 4) (bits w 9 5))
  | 16 => orIllegal true (.cLdw (bits w 5 4) (bits w 9 7))
  | 18 => orIllegal true (.cStw (bits w 5 4) (bits w 9 7))
  | 20 => orIllegal true (.cBz (bits w 5 4) (bits w 9 7))
  | 22 => orIllegal true (.cBnz (bits w 5 4) (bits w 9 7))
  | 24 => orIllegal true (.cJ (bits w 5 11))
  | 26 => orIllegal (fld w 5 11 == 0) (.cRet)
  | 28 => orIllegal (fld w 5 11 == 0) (.cHret)
  | 30 => orIllegal true (.cPause (bits w 5 11))
  | _ => none

/-- The decoder on a number of 32 bits: bit 0 tells a halfword from a word (R243). Answers the instruction and its
length in bytes. -/
def decodeWord (w : Nat) : Except DecodeError (Instr × Nat) :=
  if w % 2 = 0 then
    match decode16 (w % 65536) with
    | some i => .ok (i, 2)
    | none => .error (.illegal (w % 65536))
  else
    match decode32 w with
    | some i => .ok (i, 4)
    | none => .error (.illegal w)

/-- The number that a byte string spells, little-endian (R4). -/
def leNat : List Byte → Nat
  | [] => 0
  | b :: bs => b.toNat + 256 * leNat bs

/-- The n bytes of a number, little-endian (R4). -/
def leBytes : Nat → Nat → List Byte
  | 0, _ => []
  | n + 1, v => BitVec.ofNat 8 v :: leBytes n (v / 256)

/-- The decoder on the bytes at the PC (R243): total, refusing by name. -/
def decode (bs : List Byte) : Except DecodeError (Instr × Nat) :=
  match bs with
  | b0 :: b1 :: rest =>
    if b0.toNat % 2 = 0 then decodeWord (leNat [b0, b1])
    else
      match rest with
      | b2 :: b3 :: _ => decodeWord (leNat [b0, b1, b2, b3])
      | _ => .error .short
  | _ => .error .short

/-- The instruction that the decoder reads from an opcode-table word of nbits bits: the halfwords are laid out
little-endian, the first at the lowest address (R4, R243). -/
def decodeTableWord (nbits w : Nat) : Option Instr :=
  match decode (leBytes 4 (w % 2 ^ nbits)) with
  | .ok (i, _) => some i
  | .error _ => none

/-- The encoder: the length in bits and the word of an instruction that has an encoding (R246-R256), none for the
other steps. -/
def encode (i : Instr) : Option (Nat × Nat) :=
  match i with
  | .add d a b => some (32, 3 + d.toNat * 256 + a.toNat * 16384 + b.toNat * 1048576)
  | .sub d a b => some (32, 67108867 + d.toNat * 256 + a.toNat * 16384 + b.toNat * 1048576)
  | .and d a b => some (32, 134217731 + d.toNat * 256 + a.toNat * 16384 + b.toNat * 1048576)
  | .or d a b => some (32, 201326595 + d.toNat * 256 + a.toNat * 16384 + b.toNat * 1048576)
  | .xor d a b => some (32, 268435459 + d.toNat * 256 + a.toNat * 16384 + b.toNat * 1048576)
  | .shl d a b => some (32, 335544323 + d.toNat * 256 + a.toNat * 16384 + b.toNat * 1048576)
  | .shr d a b => some (32, 402653187 + d.toNat * 256 + a.toNat * 16384 + b.toNat * 1048576)
  | .sha d a b => some (32, 469762051 + d.toNat * 256 + a.toNat * 16384 + b.toNat * 1048576)
  | .min d a b => some (32, 536870915 + d.toNat * 256 + a.toNat * 16384 + b.toNat * 1048576)
  | .max d a b => some (32, 603979779 + d.toNat * 256 + a.toNat * 16384 + b.toNat * 1048576)
  | .minu d a b => some (32, 671088643 + d.toNat * 256 + a.toNat * 16384 + b.toNat * 1048576)
  | .maxu d a b => some (32, 738197507 + d.toNat * 256 + a.toNat * 16384 + b.toNat * 1048576)
  | .seq d a b => some (32, 805306371 + d.toNat * 256 + a.toNat * 16384 + b.toNat * 1048576)
  | .sne d a b => some (32, 872415235 + d.toNat * 256 + a.toNat * 16384 + b.toNat * 1048576)
  | .slt d a b => some (32, 939524099 + d.toNat * 256 + a.toNat * 16384 + b.toNat * 1048576)
  | .sltu d a b => some (32, 1006632963 + d.toNat * 256 + a.toNat * 16384 + b.toNat * 1048576)
  | .mul d a b => some (32, 1073741827 + d.toNat * 256 + a.toNat * 16384 + b.toNat * 1048576)
  | .mulh d a b => some (32, 1140850691 + d.toNat * 256 + a.toNat * 16384 + b.toNat * 1048576)
  | .mulhu d a b => some (32, 1207959555 + d.toNat * 256 + a.toNat * 16384 + b.toNat * 1048576)
  | .div d a b => some (32, 1275068419 + d.toNat * 256 + a.toNat * 16384 + b.toNat * 1048576)
  | .divu d a b => some (32, 1342177283 + d.toNat * 256 + a.toNat * 16384 + b.toNat * 1048576)
  | .rem d a b => some (32, 1409286147 + d.toNat * 256 + a.toNat * 16384 + b.toNat * 1048576)
  | .remu d a b => some (32, 1476395011 + d.toNat * 256 + a.toNat * 16384 + b.toNat * 1048576)
  | .sel d a b => some (32, 1543503875 + d.toNat * 256 + a.toNat * 16384 + b.toNat * 1048576)
  | .clz d a => some (32, 1610612739 + d.toNat * 256 + a.toNat * 16384)
  | .popc d a => some (32, 1677721603 + d.toNat * 256 + a.toNat * 16384)
  | .extsB d a => some (32, 1744830467 + d.toNat * 256 + a.toNat * 16384)
  | .extsH d a => some (32, 1811939331 + d.toNat * 256 + a.toNat * 16384)
  | .extsW d a => some (32, 1879048195 + d.toNat * 256 + a.toNat * 16384)
  | .extzB d a => some (32, 1946157059 + d.toNat * 256 + a.toNat * 16384)
  | .extzH d a => some (32, 2013265923 + d.toNat * 256 + a.toNat * 16384)
  | .extzW d a => some (32, 2080374787 + d.toNat * 256 + a.toNat * 16384)
  | .addi d a i => some (32, 5 + d.toNat * 256 + a.toNat * 16384 + i.toNat * 1048576)
  | .andi d a i => some (32, 7 + d.toNat * 256 + a.toNat * 16384 + i.toNat * 1048576)
  | .ori d a i => some (32, 9 + d.toNat * 256 + a.toNat * 16384 + i.toNat * 1048576)
  | .xori d a i => some (32, 11 + d.toNat * 256 + a.toNat * 16384 + i.toNat * 1048576)
  | .slti d a i => some (32, 13 + d.toNat * 256 + a.toNat * 16384 + i.toNat * 1048576)
  | .sltiu d a i => some (32, 15 + d.toNat * 256 + a.toNat * 16384 + i.toNat * 1048576)
  | .shli d a s => some (32, 17 + d.toNat * 256 + a.toNat * 16384 + s.toNat * 1048576)
  | .shri d a s => some (32, 19 + d.toNat * 256 + a.toNat * 16384 + s.toNat * 1048576)
  | .shai d a s => some (32, 21 + d.toNat * 256 + a.toNat * 16384 + s.toNat * 1048576)
  | .li d i => some (32, 23 + d.toNat * 256 + i.toNat * 16384)
  | .lis d i => some (32, 25 + d.toNat * 256 + i.toNat * 16384)
  | .rbacq d a => some (32, 27 + d.toNat * 256 + a.toNat * 16384)
  | .rbacqt d a => some (32, 67108891 + d.toNat * 256 + a.toNat * 16384)
  | .rbrel a b => some (32, 134217755 + a.toNat * 16384 + b.toNat * 1048576)
  | .ixset x a => some (32, 201326619 + x.toNat * 256 + a.toNat * 16384)
  | .ixadd x a => some (32, 268435483 + x.toNat * 256 + a.toNat * 16384)
  | .lox o a => some (32, 335544347 + o.toNat * 256 + a.toNat * 16384)
  | .movox d o => some (32, 402653211 + d.toNat * 256 + o.toNat * 16384)
  | .movx d x i => some (32, 29 + d.toNat * 256 + x.toNat * 16384 + i.toNat * 1048576)
  | .movxw d x i => some (32, 31 + d.toNat * 256 + x.toNat * 16384 + i.toNat * 1048576)
  | .beq a b o => some (32, 33 + a.toNat * 256 + b.toNat * 16384 + o.toNat * 1048576)
  | .bne a b o => some (32, 35 + a.toNat * 256 + b.toNat * 16384 + o.toNat * 1048576)
  | .blt a b o => some (32, 37 + a.toNat * 256 + b.toNat * 16384 + o.toNat * 1048576)
  | .bge a b o => some (32, 39 + a.toNat * 256 + b.toNat * 16384 + o.toNat * 1048576)
  | .bltu a b o => some (32, 41 + a.toNat * 256 + b.toNat * 16384 + o.toNat * 1048576)
  | .bgeu a b o => some (32, 43 + a.toNat * 256 + b.toNat * 16384 + o.toNat * 1048576)
  | .j o => some (32, 45 + o.toNat * 256)
  | .jl o => some (32, 47 + o.toNat * 256)
  | .jr a => some (32, 49 + a.toNat * 16384)
  | .jlr a => some (32, 67108913 + a.toNat * 16384)
  | .ret a => some (32, 134217777 + a.toNat * 16384)
  | .pad => some (32, 51)
  | .loop a o => some (32, 53 + a.toNat * 256 + o.toNat * 1048576)
  | .boqw a => some (32, 55 + a.toNat * 16384)
  | .boqb s o => some (32, 57 + s.toNat * 256 + o.toNat * 1048576)
  | .ctxres d a b => some (32, 59 + d.toNat * 256 + a.toNat * 16384 + b.toNat * 1048576)
  | .fadd d a b => some (32, 61 + d.toNat * 256 + a.toNat * 16384 + b.toNat * 1048576)
  | .fsub d a b => some (32, 67108925 + d.toNat * 256 + a.toNat * 16384 + b.toNat * 1048576)
  | .fmul d a b => some (32, 134217789 + d.toNat * 256 + a.toNat * 16384 + b.toNat * 1048576)
  | .ffma d a b => some (32, 201326653 + d.toNat * 256 + a.toNat * 16384 + b.toNat * 1048576)
  | .fdiv d a b => some (32, 268435517 + d.toNat * 256 + a.toNat * 16384 + b.toNat * 1048576)
  | .fsqrt d a => some (32, 335544381 + d.toNat * 256 + a.toNat * 16384)
  | .fmin d a b => some (32, 402653245 + d.toNat * 256 + a.toNat * 16384 + b.toNat * 1048576)
  | .fmax d a b => some (32, 469762109 + d.toNat * 256 + a.toNat * 16384 + b.toNat * 1048576)
  | .feq d a b => some (32, 536870973 + d.toNat * 256 + a.toNat * 16384 + b.toNat * 1048576)
  | .flt d a b => some (32, 603979837 + d.toNat * 256 + a.toNat * 16384 + b.toNat * 1048576)
  | .fle d a b => some (32, 671088701 + d.toNat * 256 + a.toNat * 16384 + b.toNat * 1048576)
  | .fcvtws d a => some (32, 738197565 + d.toNat * 256 + a.toNat * 16384)
  | .fcvtsw d a => some (32, 805306429 + d.toNat * 256 + a.toNat * 16384)
  | .ldb d a i => some (32, 65 + d.toNat * 256 + a.toNat * 16384 + i.toNat * 1048576)
  | .ldbu d a i => some (32, 67 + d.toNat * 256 + a.toNat * 16384 + i.toNat * 1048576)
  | .ldh d a i => some (32, 69 + d.toNat * 256 + a.toNat * 16384 + i.toNat * 1048576)
  | .ldhu d a i => some (32, 71 + d.toNat * 256 + a.toNat * 16384 + i.toNat * 1048576)
  | .ldw d a i => some (32, 73 + d.toNat * 256 + a.toNat * 16384 + i.toNat * 1048576)
  | .ldwu d a i => some (32, 75 + d.toNat * 256 + a.toNat * 16384 + i.toNat * 1048576)
  | .ldd d a i => some (32, 77 + d.toNat * 256 + a.toNat * 16384 + i.toNat * 1048576)
  | .stb d a i => some (32, 79 + d.toNat * 256 + a.toNat * 16384 + i.toNat * 1048576)
  | .sth d a i => some (32, 81 + d.toNat * 256 + a.toNat * 16384 + i.toNat * 1048576)
  | .stw d a i => some (32, 83 + d.toNat * 256 + a.toNat * 16384 + i.toNat * 1048576)
  | .std d a i => some (32, 85 + d.toNat * 256 + a.toNat * 16384 + i.toNat * 1048576)
  | .lda d a s => some (32, 87 + d.toNat * 256 + a.toNat * 16384 + s.toNat * 67108864)
  | .stl d a s => some (32, 89 + d.toNat * 256 + a.toNat * 16384 + s.toNat * 67108864)
  | .fence k s => some (32, 91 + k.toNat * 1048576 + s.toNat * 4194304)
  | .iflush a i => some (32, 93 + a.toNat * 16384 + i.toNat * 1048576)
  | .catl d a => some (32, 95 + d.toNat * 256 + a.toNat * 16384)
  | .cats d a b => some (32, 67108959 + d.toNat * 256 + a.toNat * 16384 + b.toNat * 1048576)
  | .cati d a => some (32, 134217823 + d.toNat * 256 + a.toNat * 16384)
  | .amoadd d a b z => some (32, 97 + d.toNat * 256 + a.toNat * 16384 + b.toNat * 1048576 + z.toNat * 67108864)
  | .amoand d a b z => some (32, 134217825 + d.toNat * 256 + a.toNat * 16384 + b.toNat * 1048576 + z.toNat * 67108864)
  | .amoor d a b z => some (32, 268435553 + d.toNat * 256 + a.toNat * 16384 + b.toNat * 1048576 + z.toNat * 67108864)
  | .amoxor d a b z => some (32, 402653281 + d.toNat * 256 + a.toNat * 16384 + b.toNat * 1048576 + z.toNat * 67108864)
  | .amomin d a b z => some (32, 536871009 + d.toNat * 256 + a.toNat * 16384 + b.toNat * 1048576 + z.toNat * 67108864)
  | .amomax d a b z => some (32, 671088737 + d.toNat * 256 + a.toNat * 16384 + b.toNat * 1048576 + z.toNat * 67108864)
  | .amominu d a b z => some (32, 805306465 + d.toNat * 256 + a.toNat * 16384 + b.toNat * 1048576 + z.toNat * 67108864)
  | .amomaxu d a b z => some (32, 939524193 + d.toNat * 256 + a.toNat * 16384 + b.toNat * 1048576 + z.toNat * 67108864)
  | .amoswp d a b z => some (32, 1073741921 + d.toNat * 256 + a.toNat * 16384 + b.toNat * 1048576 + z.toNat * 67108864)
  | .amofadd d a b => some (32, 1207959649 + d.toNat * 256 + a.toNat * 16384 + b.toNat * 1048576)
  | .amocas d a b z => some (32, 99 + d.toNat * 256 + a.toNat * 16384 + b.toNat * 1048576 + z.toNat * 67108864)
  | .vamoor d a b m => some (32, 101 + d.toNat * 256 + a.toNat * 8192 + b.toNat * 262144 + m.toNat * 8388608)
  | .vamoadd d a b m => some (32, 67108965 + d.toNat * 256 + a.toNat * 8192 + b.toNat * 262144 + m.toNat * 8388608)
  | .wait l s c t h => some (32, 113 + l.toNat * 256 + s.toNat * 4096 + c.toNat * 65536 + t.toNat * 1048576 + h.toNat * 268435456)
  | .pause i => some (32, 115 + i.toNat * 1048576)
  | .semup d a => some (32, 117 + d.toNat * 256 + a.toNat * 16384)
  | .semdn d a => some (32, 67108981 + d.toNat * 256 + a.toNat * 16384)
  | .semtry d a => some (32, 134217845 + d.toNat * 256 + a.toNat * 16384)
  | .barw d a b => some (32, 119 + d.toNat * 256 + a.toNat * 16384 + b.toNat * 1048576)
  | .bara d a b => some (32, 67108983 + d.toNat * 256 + a.toNat * 16384 + b.toNat * 1048576)
  | .qput a b => some (32, 121 + a.toNat * 16384 + b.toNat * 1048576)
  | .qget d a => some (32, 67108985 + d.toNat * 256 + a.toNat * 16384)
  | .align => some (32, 123)
  | .send a b => some (32, 129 + a.toNat * 16384 + b.toNat * 1048576)
  | .sendv d a v => some (32, 131 + d.toNat * 256 + a.toNat * 16384 + v.toNat * 1048576)
  | .hret => some (32, 133)
  | .wlpush a => some (32, 135 + a.toNat * 16384)
  | .wlpop d a => some (32, 67108999 + d.toNat * 256 + a.toNat * 16384)
  | .wlfloor d => some (32, 134217863 + d.toNat * 256)
  | .tkarm d a => some (32, 137 + d.toNat * 256 + a.toNat * 16384)
  | .tksig d a => some (32, 67109001 + d.toNat * 256 + a.toNat * 16384)
  | .frbegU d => some (32, 139 + d.toNat * 256)
  | .frbegO d => some (32, 67109003 + d.toNat * 256)
  | .frcom d => some (32, 134217867 + d.toNat * 256)
  | .frabt => some (32, 201326731)
  | .frstat d => some (32, 268435595 + d.toNat * 256)
  | .lvcnt d a b => some (32, 141 + d.toNat * 256 + a.toNat * 16384 + b.toNat * 1048576)
  | .cncl d a b => some (32, 67109005 + d.toNat * 256 + a.toNat * 16384 + b.toNat * 1048576)
  | .job d a b => some (32, 145 + d.toNat * 256 + a.toNat * 16384 + b.toNat * 1048576)
  | .qbind d a b => some (32, 147 + d.toNat * 256 + a.toNat * 16384 + b.toNat * 1048576)
  | .blkrd a b => some (32, 149 + a.toNat * 16384 + b.toNat * 1048576)
  | .ttq d a => some (32, 151 + d.toNat * 256 + a.toNat * 16384)
  | .osclaim d a => some (32, 161 + d.toNat * 256 + a.toNat * 16384)
  | .osrel a => some (32, 67109025 + a.toNat * 16384)
  | .osld a b => some (32, 134217889 + a.toNat * 16384 + b.toNat * 1048576)
  | .mwld a => some (32, 163 + a.toNat * 16384)
  | .mmaF a b => some (32, 165 + a.toNat * 16384 + b.toNat * 1048576)
  | .mmaI a b => some (32, 67109029 + a.toNat * 16384 + b.toNat * 1048576)
  | .mmaRs a b => some (32, 134217893 + a.toNat * 16384 + b.toNat * 1048576)
  | .mzero a b => some (32, 167 + a.toNat * 16384 + b.toNat * 1048576)
  | .mdrainF a b => some (32, 169 + a.toNat * 16384 + b.toNat * 1048576)
  | .mdrainIw a b => some (32, 67109033 + a.toNat * 16384 + b.toNat * 1048576)
  | .mdrainIs a b => some (32, 134217897 + a.toNat * 16384 + b.toNat * 1048576)
  | .mdrainRs a b => some (32, 201326761 + a.toNat * 16384 + b.toNat * 1048576)
  | .drdone => some (32, 171)
  | .walk d a b => some (32, 177 + d.toNat * 256 + a.toNat * 16384 + b.toNat * 1048576)
  | .walkn d a b => some (32, 67109041 + d.toNat * 256 + a.toNat * 16384 + b.toNat * 1048576)
  | .pdrst d a b => some (32, 179 + d.toNat * 256 + a.toNat * 16384 + b.toNat * 1048576)
  | .pdseal d a => some (32, 67109043 + d.toNat * 256 + a.toNat * 16384)
  | .pdrd d a => some (32, 134217907 + d.toNat * 256 + a.toNat * 16384)
  | .refget d a b => some (32, 181 + d.toNat * 256 + a.toNat * 16384 + b.toNat * 1048576)
  | .refchk d a b => some (32, 67109045 + d.toNat * 256 + a.toNat * 16384 + b.toNat * 1048576)
  | .trap i => some (32, 225 + i.toNat * 16384)
  | .svc d a b => some (32, 67109089 + d.toNat * 256 + a.toNat * 16384 + b.toNat * 1048576)
  | .eret d a b => some (32, 134217953 + d.toNat * 256 + a.toNat * 16384 + b.toNat * 1048576)
  | .halt => some (32, 201326817)
  | .bkpt => some (32, 268435681)
  | .cirrd d a b => some (32, 335544545 + d.toNat * 256 + a.toNat * 16384 + b.toNat * 1048576)
  | .zerosp d a b => some (32, 402653409 + d.toNat * 256 + a.toNat * 16384 + b.toNat * 1048576)
  | .sigchk d => some (32, 469762273 + d.toNat * 256)
  | .capreb d a => some (32, 536871137 + d.toNat * 256 + a.toNat * 16384)
  | .seal d a b => some (32, 603980001 + d.toNat * 256 + a.toNat * 16384 + b.toNat * 1048576)
  | .monrd d a b => some (32, 671088865 + d.toNat * 256 + a.toNat * 16384 + b.toNat * 1048576)
  | .srd d s => some (32, 227 + d.toNat * 256 + s.toNat * 1048576)
  | .swr a s => some (32, 229 + a.toNat * 16384 + s.toNat * 1048576)
  | .vfadd d a b m => some (32, 193 + d.toNat * 256 + a.toNat * 8192 + b.toNat * 262144 + m.toNat * 8388608)
  | .vfsub d a b m => some (32, 67109057 + d.toNat * 256 + a.toNat * 8192 + b.toNat * 262144 + m.toNat * 8388608)
  | .vfmul d a b m => some (32, 134217921 + d.toNat * 256 + a.toNat * 8192 + b.toNat * 262144 + m.toNat * 8388608)
  | .vfma d a b m => some (32, 201326785 + d.toNat * 256 + a.toNat * 8192 + b.toNat * 262144 + m.toNat * 8388608)
  | .vfms d a b m => some (32, 268435649 + d.toNat * 256 + a.toNat * 8192 + b.toNat * 262144 + m.toNat * 8388608)
  | .vfdiv d a b m => some (32, 335544513 + d.toNat * 256 + a.toNat * 8192 + b.toNat * 262144 + m.toNat * 8388608)
  | .vfsqrt d a m => some (32, 402653377 + d.toNat * 256 + a.toNat * 8192 + m.toNat * 8388608)
  | .vfmin d a b m => some (32, 469762241 + d.toNat * 256 + a.toNat * 8192 + b.toNat * 262144 + m.toNat * 8388608)
  | .vfmax d a b m => some (32, 536871105 + d.toNat * 256 + a.toNat * 8192 + b.toNat * 262144 + m.toNat * 8388608)
  | .vfabs d a m => some (32, 603979969 + d.toNat * 256 + a.toNat * 8192 + m.toNat * 8388608)
  | .vfneg d a m => some (32, 671088833 + d.toNat * 256 + a.toNat * 8192 + m.toNat * 8388608)
  | .vfexps d a b m => some (32, 738197697 + d.toNat * 256 + a.toNat * 8192 + b.toNat * 262144 + m.toNat * 8388608)
  | .vffloor d a m => some (32, 805306561 + d.toNat * 256 + a.toNat * 8192 + m.toNat * 8388608)
  | .vfcmpEq d a b m => some (32, 872415425 + d.toNat * 256 + a.toNat * 8192 + b.toNat * 262144 + m.toNat * 8388608)
  | .vfcmpLt d a b m => some (32, 939524289 + d.toNat * 256 + a.toNat * 8192 + b.toNat * 262144 + m.toNat * 8388608)
  | .vfcmpLe d a b m => some (32, 1006633153 + d.toNat * 256 + a.toNat * 8192 + b.toNat * 262144 + m.toNat * 8388608)
  | .vfcmpUn d a b m => some (32, 1073742017 + d.toNat * 256 + a.toNat * 8192 + b.toNat * 262144 + m.toNat * 8388608)
  | .vadd d a b m => some (32, 195 + d.toNat * 256 + a.toNat * 8192 + b.toNat * 262144 + m.toNat * 8388608)
  | .vadds d a b m => some (32, 67109059 + d.toNat * 256 + a.toNat * 8192 + b.toNat * 262144 + m.toNat * 8388608)
  | .vsub d a b m => some (32, 134217923 + d.toNat * 256 + a.toNat * 8192 + b.toNat * 262144 + m.toNat * 8388608)
  | .vsubs d a b m => some (32, 201326787 + d.toNat * 256 + a.toNat * 8192 + b.toNat * 262144 + m.toNat * 8388608)
  | .vmul d a b m => some (32, 268435651 + d.toNat * 256 + a.toNat * 8192 + b.toNat * 262144 + m.toNat * 8388608)
  | .vmulh d a b m => some (32, 335544515 + d.toNat * 256 + a.toNat * 8192 + b.toNat * 262144 + m.toNat * 8388608)
  | .vmulhu d a b m => some (32, 402653379 + d.toNat * 256 + a.toNat * 8192 + b.toNat * 262144 + m.toNat * 8388608)
  | .vand d a b m => some (32, 469762243 + d.toNat * 256 + a.toNat * 8192 + b.toNat * 262144 + m.toNat * 8388608)
  | .vor d a b m => some (32, 536871107 + d.toNat * 256 + a.toNat * 8192 + b.toNat * 262144 + m.toNat * 8388608)
  | .vxor d a b m => some (32, 603979971 + d.toNat * 256 + a.toNat * 8192 + b.toNat * 262144 + m.toNat * 8388608)
  | .vshl d a b m => some (32, 671088835 + d.toNat * 256 + a.toNat * 8192 + b.toNat * 262144 + m.toNat * 8388608)
  | .vshr d a b m => some (32, 738197699 + d.toNat * 256 + a.toNat * 8192 + b.toNat * 262144 + m.toNat * 8388608)
  | .vsha d a b m => some (32, 805306563 + d.toNat * 256 + a.toNat * 8192 + b.toNat * 262144 + m.toNat * 8388608)
  | .vmin d a b m => some (32, 872415427 + d.toNat * 256 + a.toNat * 8192 + b.toNat * 262144 + m.toNat * 8388608)
  | .vmax d a b m => some (32, 939524291 + d.toNat * 256 + a.toNat * 8192 + b.toNat * 262144 + m.toNat * 8388608)
  | .vminu d a b m => some (32, 1006633155 + d.toNat * 256 + a.toNat * 8192 + b.toNat * 262144 + m.toNat * 8388608)
  | .vmaxu d a b m => some (32, 1073742019 + d.toNat * 256 + a.toNat * 8192 + b.toNat * 262144 + m.toNat * 8388608)
  | .vcmpEq d a b m => some (32, 1140850883 + d.toNat * 256 + a.toNat * 8192 + b.toNat * 262144 + m.toNat * 8388608)
  | .vcmpLt d a b m => some (32, 1207959747 + d.toNat * 256 + a.toNat * 8192 + b.toNat * 262144 + m.toNat * 8388608)
  | .vcmpLtu d a b m => some (32, 1275068611 + d.toNat * 256 + a.toNat * 8192 + b.toNat * 262144 + m.toNat * 8388608)
  | .vcvt d a m c => some (32, 197 + d.toNat * 256 + a.toNat * 8192 + m.toNat * 8388608 + c.toNat * 67108864)
  | .vpk6 d a => some (32, 199 + d.toNat * 256 + a.toNat * 8192)
  | .vupk6 d a => some (32, 67109063 + d.toNat * 256 + a.toNat * 8192)
  | .vrfwd d a m => some (32, 134217927 + d.toNat * 256 + a.toNat * 8192 + m.toNat * 8388608)
  | .vrrev d a m => some (32, 201326791 + d.toNat * 256 + a.toNat * 8192 + m.toNat * 8388608)
  | .vredfadd d a m => some (32, 201 + d.toNat * 256 + a.toNat * 8192 + m.toNat * 8388608)
  | .vredfmax d a m => some (32, 67109065 + d.toNat * 256 + a.toNat * 8192 + m.toNat * 8388608)
  | .vredadd d a m => some (32, 134217929 + d.toNat * 256 + a.toNat * 8192 + m.toNat * 8388608)
  | .vredmax d a m => some (32, 201326793 + d.toNat * 256 + a.toNat * 8192 + m.toNat * 8388608)
  | .vperm d a b m => some (32, 203 + d.toNat * 256 + a.toNat * 8192 + b.toNat * 262144 + m.toNat * 8388608)
  | .vbcast d a m => some (32, 67109067 + d.toNat * 256 + a.toNat * 8192 + m.toNat * 8388608)
  | .vextr d a b => some (32, 134217931 + d.toNat * 256 + a.toNat * 8192 + b.toNat * 262144)
  | .vins d a b => some (32, 201326795 + d.toNat * 256 + a.toNat * 8192 + b.toNat * 262144)
  | .viota d m => some (32, 268435659 + d.toNat * 256 + m.toNat * 8388608)
  | .vsel d a b m => some (32, 335544523 + d.toNat * 256 + a.toNat * 8192 + b.toNat * 262144 + m.toNat * 8388608)
  | .vmov d a m => some (32, 402653387 + d.toNat * 256 + a.toNat * 8192 + m.toNat * 8388608)
  | .mand d a b m => some (32, 205 + d.toNat * 256 + a.toNat * 8192 + b.toNat * 262144 + m.toNat * 8388608)
  | .mor d a b m => some (32, 67109069 + d.toNat * 256 + a.toNat * 8192 + b.toNat * 262144 + m.toNat * 8388608)
  | .mnot d a m => some (32, 134217933 + d.toNat * 256 + a.toNat * 8192 + m.toNat * 8388608)
  | .mcnt d a m => some (32, 201326797 + d.toNat * 256 + a.toNat * 8192 + m.toNat * 8388608)
  | .mset d a b => some (32, 268435661 + d.toNat * 256 + a.toNat * 8192 + b.toNat * 262144)
  | .vld d b i m h => some (32, 209 + d.toNat * 256 + b.toNat * 8192 + i.toNat * 524288 + m.toNat * 67108864 + h.toNat * 536870912)
  | .vst d b i m h => some (32, 211 + d.toNat * 256 + b.toNat * 8192 + i.toNat * 524288 + m.toNat * 67108864 + h.toNat * 536870912)
  | .vlds d a b m => some (32, 213 + d.toNat * 256 + a.toNat * 8192 + b.toNat * 262144 + m.toNat * 8388608)
  | .vsts d a b m => some (32, 215 + d.toNat * 256 + a.toNat * 8192 + b.toNat * 262144 + m.toNat * 8388608)
  | .vgth d a b m => some (32, 217 + d.toNat * 256 + a.toNat * 8192 + b.toNat * 262144 + m.toNat * 8388608)
  | .vsct d a b m => some (32, 219 + d.toNat * 256 + a.toNat * 8192 + b.toNat * 262144 + m.toNat * 8388608)
  | .cHint => some (16, 32)
  | .cMov d a => some (16, 2 + d.toNat * 32 + a.toNat * 512)
  | .cAdd d a => some (16, 4 + d.toNat * 32 + a.toNat * 512)
  | .cSub d a => some (16, 6 + d.toNat * 32 + a.toNat * 512)
  | .cAnd d a => some (16, 8 + d.toNat * 32 + a.toNat * 512)
  | .cAddi d i => some (16, 10 + d.toNat * 32 + i.toNat * 512)
  | .cLi d i => some (16, 12 + d.toNat * 32 + i.toNat * 512)
  | .cShli d s => some (16, 14 + d.toNat * 32 + s.toNat * 512)
  | .cLdw d u => some (16, 16 + d.toNat * 32 + u.toNat * 512)
  | .cStw d u => some (16, 18 + d.toNat * 32 + u.toNat * 512)
  | .cBz a o => some (16, 20 + a.toNat * 32 + o.toNat * 512)
  | .cBnz a o => some (16, 22 + a.toNat * 32 + o.toNat * 512)
  | .cJ o => some (16, 24 + o.toNat * 32)
  | .cRet => some (16, 26)
  | .cHret => some (16, 28)
  | .cPause n => some (16, 30 + n.toNat * 32)
  | .xsdCtlWrite _ _ | .dlLeftWrite _ _ | .shootdownAck _ | .jqTailWrite _ | .jqBaseWrite _ | .jqSizeWrite _
  | .registerWrite _ _ _ _ | .jobDescriptorTake | .jobCompletion _ | .launchAdmission _ | .launchPlacement _ _
  | .messageDelivery _ | .heldMessageAdmit _ | .messageDispatch _ | .taskDispatch _ | .stealRequest _ _
  | .stealAnswer _ | .packageSteal _ _ | .dequeRefill _ | .tksigResponse _ | .floorUpdate _ | .floorExchange _ _
  | .drainDispatch _ | .tileTaskIssue _ | .engineJobStart _ | .engineJobComplete _ | .blkrdPartReturn _
  | .osldComplete _ | .matrixPerform _ | .accessPerformed _ | .loadResponse _ | .storeAck _
  | .pageWalkComplete _ _ _ | .closureRecompute | .commitMerge _ _ | .lateFault _ | .folioWrite _ | .pauseEnd _
  | .alignTimeout _ | .idleSample _ | .deadlineExpiry _ | .cancelGraceExpiry _ | .machineCheck _
  | .tileMigration _ _ | .migrationMarker _ _ | .forwardingRetire _ | .absentContext _ | .launchReturn _ _
  | .clearRoutine _ | .capsuleInstall _ _ _ | .capsuleRetire _ | .capsuleExport _ | .bodyVoid _ _
  | .rebuildComplete _ _ | .livePatch _ _ _ | .sealedRegionRetire _ | .auditLogConsume _ _ | .spdmReqLenWrite _
  | .spdmRspLenWrite _ | .spdmGetVersion _ _ | .spdmGetCapabilities _ _ | .spdmNegotiateAlgorithms _ _
  | .spdmGetDigests _ _ | .spdmGetCertificate _ _ | .spdmChallenge _ _ | .spdmGetMeasurements _ _
  | .spdmKeyExchange _ _ | .spdmFinish _ _ | .spdmEndSession _ _ | .spdmUnsupportedRequest _ _ | .ptReqTailWrite _
  | .ptRspHeadWrite _ | .ptRegisterRead | .ptRegisterWrite | .ptMemoryWrite | .ptMemoryRead | .ptRekey
  | .rekeyAck _ | .powerCapWrite _ | .dormantRequest | .dormantForce | .wake | .idleClockGate _ | .thermalLimit _
  | .boot _ | .bootRetry | .fabricFlitReceive _ | .linkRetrained _ | .linkDown _ | .monitorSample _ _ _
  | .rrAttach _ | .rrBreak _ | .rrDelete _ | .rrContinue | .rrStop | .rrRegs _ _ | .rrMem _ _ | .rrFolio _ _
  | .rrRing _ | .rrWl | .rrRegion | .rrQuit | .rrDisconnect | .instructionLineFill _ _ _ | .bodyVoidLive _
  | .packageStealAnswer _ _ _ => none

/-- Whether a step stands in the opcode table with an encoding: an instruction that a core fetches. -/
def Instr.isFetched (i : Instr) : Bool := (encode i).isSome

end Sys2Proof
end

