-- ==== Sys2Proof/Machine/Fetch.lean ====
section
/-!
DEFINITION. Sys2Proof/Machine/Fetch.lean: the instruction caches and the fetch of an instruction (R45, R68, R172, R243,
R244), and the 32-bit equivalents of the 16-bit forms (R254, R255).
-/

namespace Sys2Proof.Machine

/-- The instruction line that a cache holds. -/
def findLine (ls : List ILine) (n : Nat) : Option ILine := ls.find? (fun l => l.line == n)

/-- A line put into a cache of a number of lines, the oldest given up. -/
def putLine (ls : List ILine) (cap : Nat) (l : ILine) : List ILine :=
  l :: (ls.filter (fun x => x.line != l.line)).take (cap - 1)

def dropLine (ls : List ILine) (n : Nat) : List ILine := ls.filter (fun x => x.line != n)

/-- A line from a core's L0 buffer of 128 lines, else from its cluster's cache of 4,096, else from memory at once: when a fill
arrives is timing (log entry 12). An uncorrectable error in it is counted as it is read (R171). -/
def State.fetchLine (s : State) (core kid line : Nat) : ILine × State :=
  let c := s.core core
  match findLine c.l0 line with
  | some l => (l, s)
  | none =>
    let q := s.cluster (clusterOf (core / 4))
    match findLine q.icache line with
    | some l => (l, s.setCore core { c with l0 := putLine c.l0 128 l })
    | none =>
      let l : ILine := ⟨line, s.readBytes kid (line * 64) 64, s.readBad (line * 64) 64⟩
      let s := (if l.bad then s.logError true else s).setCore core { c with l0 := putLine c.l0 128 l }
      (l, s.setCluster (clusterOf (core / 4)) { q with icache := putLine q.icache 4096 l })

/-- A poisoned line dropped by the caches of a core (R172). -/
def State.dropLine (s : State) (core line : Nat) : State :=
  let s := s.setCore core { s.core core with l0 := Machine.dropLine (s.core core).l0 line }
  let n := clusterOf (core / 4)
  s.setCluster n { s.cluster n with icache := Machine.dropLine (s.cluster n).icache line }

/-- The two bytes of the halfword at an address, or the fault of fetching it and its address (R244). -/
def State.fetchHalf (s : State) (k : Nat) (va : Word) : Except MemFault (List Byte) × State :=
  match s.locate k .fetch va 2 with
  | .error f => (.error f, s.noteError f)
  | .ok (p :: _, s) =>
    let (l, s) := s.fetchLine (coreOf k) p.kid (p.key / 64)
    if l.bad then (.error ⟨0x14, 0, va⟩, s.dropLine (coreOf k) (p.key / 64))
    else (.ok ((l.bytes.drop (p.key % 64)).take 2), s)
  | .ok ([], s) => (.error (xlate va.toNat), s)

/-- The bytes of the instruction at an address: one halfword, or two where its bit 0 is 1 (R243, R244). -/
def State.fetchBytes (s : State) (k : Nat) (va : Word) : Except MemFault (List Byte) × State :=
  if va.toNat % 2 = 1 then (.error ⟨6, 0, va⟩, s)
  else
    match s.fetchHalf k va with
    | (.error f, s) => (.error f, s)
    | (.ok lo, s) =>
      if bytesNat lo % 2 = 0 then (.ok lo, s)
      else
        match s.fetchHalf k (va + 2) with
        | (.error f, s) => (.error f, s)
        | (.ok hi, s) => (.ok (lo ++ hi), s)

/-- A register number of a 16-bit form. -/
def reg4 (r : BitVec 4) : BitVec 6 := r.setWidth 6

/-- The word that folios and rings record for an instruction: a 16-bit form's 32-bit equivalent (R254, R255). -/
def wideWord (i : Instr) (w : Nat) : Word32 :=
  let enc : Instr → Word32 := fun j => match encode j with | some (_, x) => BitVec.ofNat 32 x | none => 0
  match i with
  | .cHint => 0x00000005
  | .cMov d a => enc (.add (reg4 d) (reg4 a) 0)
  | .cAdd d a => enc (.add (reg4 d) (reg4 d) (reg4 a))
  | .cSub d a => enc (.sub (reg4 d) (reg4 d) (reg4 a))
  | .cAnd d a => enc (.and (reg4 d) (reg4 d) (reg4 a))
  | .cAddi d n => enc (.addi (reg4 d) (reg4 d) (n.signExtend 12))
  | .cLi d n => enc (.li (reg4 d) (n.signExtend 18))
  | .cShli d n => enc (.shli (reg4 d) (reg4 d) (n.setWidth 6))
  | .cLdw d u => enc (.ldw (reg4 d) 2 (u.setWidth 12 <<< 2))
  | .cStw d u => enc (.stw (reg4 d) 2 (u.setWidth 12 <<< 2))
  | .cBz a o => enc (.beq (reg4 a) 0 (o.signExtend 12))
  | .cBnz a o => enc (.bne (reg4 a) 0 (o.signExtend 12))
  | .cJ o => enc (.j (o.signExtend 24))
  | .cPause n => enc (.pause (n.setWidth 12))
  | .cRet => 0x08004031
  | .cHret => 0x00000085
  | _ => BitVec.ofNat 32 w

end Sys2Proof.Machine
end

