-- ==== Sys2Proof/Machine/Branch.lean ====
section
/-!
DEFINITION. Sys2Proof/Machine/Branch.lean: branches (R285), jumps and their landing pads (R306, R307, R332, R192), LOOP
(R314), PAD (R325), the branch-outcome queue (R290, R291), and the 16-bit branches (R254).
-/

namespace Sys2Proof.Machine

/-- A context that goes on at an address. -/
def Ctx.goto (c : Ctx) (pc : Word) : Ctx := { c with pc := pc, state := c.running }

/-- The current context, having done its instruction, goes on at an address. -/
def State.jump (s : State) (c : Ctx) (pc : Word) : State := s.setCtx s.cur (c.goto pc)

/-- PC + 2 × sext(off) (R249). -/
def target {n : Nat} (pc : Word) (o : BitVec n) : Word := pc + (o.signExtend 64 <<< 1)

/-- A conditional branch on two registers. -/
def State.branch {n : Nat} (s : State) (len a b : Nat) (o : BitVec n) (taken : Word → Word → Bool) : Out :=
  s.issue { reads := [a, b] } (fun s =>
    let c := s.ctx s.cur
    .next (if taken (c.getW a) (c.getW b) then s.jump c (target c.pc o) else s.skip len))

def execBeq (a b : BitVec 6) (o : BitVec 12) (s : State) : Out := s.branch 4 a.toNat b.toNat o (fun x y => x == y)
def execBne (a b : BitVec 6) (o : BitVec 12) (s : State) : Out := s.branch 4 a.toNat b.toNat o (fun x y => x != y)
def execBlt (a b : BitVec 6) (o : BitVec 12) (s : State) : Out := s.branch 4 a.toNat b.toNat o lessS
def execBge (a b : BitVec 6) (o : BitVec 12) (s : State) : Out := s.branch 4 a.toNat b.toNat o (fun x y => !lessS x y)
def execBltu (a b : BitVec 6) (o : BitVec 12) (s : State) : Out := s.branch 4 a.toNat b.toNat o lessU
def execBgeu (a b : BitVec 6) (o : BitVec 12) (s : State) : Out := s.branch 4 a.toNat b.toNat o (fun x y => !lessU x y)
def execCBz (a : BitVec 4) (o : BitVec 7) (s : State) : Out := s.branch 2 a.toNat 0 o (fun x y => x == y)
def execCBnz (a : BitVec 4) (o : BitVec 7) (s : State) : Out := s.branch 2 a.toNat 0 o (fun x y => x != y)

/-! ## Jumps -/

def execJ (o : BitVec 24) (s : State) : Out :=
  s.issue {} (fun s => .next (s.jump (s.ctx s.cur) (target (s.ctx s.cur).pc o)))

def execJl (o : BitVec 24) (s : State) : Out :=
  s.issue { writes := [1] } (fun s =>
    let c := s.ctx s.cur
    .next (s.jump (c.setW 1 (c.pc + 4)) (target c.pc o)))

def execCJ (o : BitVec 11) (s : State) : Out :=
  s.issue {} (fun s => .next (s.jump (s.ctx s.cur) (target (s.ctx s.cur).pc o)))

/-- Whether the bytes of an instruction are a PAD of a kind: 0 C, 1 J, 2 R, 3 H (R325). -/
def isPad (kind : Nat) (bs : List Byte) : Bool := bytesNat bs == 0x33 + kind * 2 ^ 20

/-- An indirect transfer to a register's address (R307, R332): checked whole, trapping at the transfer itself with the target
as fault address, before it takes effect. -/
def State.indirect (s : State) (a kind : Nat) (link : Bool) : Out :=
  s.issue { reads := [a], writes := if link then [1] else [] } (fun s =>
    let c := s.ctx s.cur
    let t := c.getW a
    if t.toNat % 2 = 1 then s.trapAt s.cur 6 0 t none
    else
      match s.fetchBytes s.cur t with
      | (.error f, s) => s.trapAt s.cur f.cause f.sub t none
      | (.ok bs, s) =>
        if !isPad kind bs then s.trapAt s.cur 3 kind t none
        else
          let c := s.ctx s.cur
          .next (s.jump (if link then c.setW 1 (c.pc + 4) else c) t))

def execJr (a : BitVec 6) (s : State) : Out := s.indirect a.toNat 1 false
def execJlr (a : BitVec 6) (s : State) : Out := s.indirect a.toNat 0 true
def execRet (a : BitVec 6) (s : State) : Out := s.indirect a.toNat 2 false
def execCRet (s : State) : Out := s.indirect 1 2 false

def execPad (s : State) : Out := s.issue {} (fun s => .next (s.skip 4))

/-- LOOP (R314). -/
def execLoop (a : BitVec 6) (o : BitVec 12) (s : State) : Out :=
  s.issue { reads := [a.toNat], writes := [a.toNat] } (fun s =>
    let c := s.ctx s.cur
    let n := c.getW a.toNat - 1
    let c' := c.setW a.toNat n
    .next (if 0 < n.toInt then s.jump c' (target c.pc o) else s.done 4 c'))

/-! ## The branch-outcome queue (R43, R290, R291) -/

def execBoqw (a : BitVec 6) (s : State) : Out :=
  s.issue { reads := [a.toNat] } (fun s => s.irrevocably (fun s =>
    let u := unitOf s.cur
    let t := s.tile u
    if 32 ≤ t.outcomes.length then s.stall
    else .next ((s.setTile u { t with outcomes := t.outcomes ++ [s.reg a != 0] }).skip 4)))

/-- BOQB: sense 0 branches on the outcome 1, sense 1 on 0. -/
def execBoqb (n : BitVec 1) (o : BitVec 12) (s : State) : Out :=
  s.issue {} (fun s => s.irrevocably (fun s =>
    let u := unitOf s.cur
    let t := s.tile u
    match t.outcomes with
    | [] => s.stall
    | x :: r =>
      let s := s.setTile u { t with outcomes := r }
      let c := s.ctx s.cur
      .next (if x == (n == 0) then s.jump c (target c.pc o) else s.skip 4)))

end Sys2Proof.Machine
end

