-- ==== Sys2Proof/Machine/Links.lean ====
section
/-!
DEFINITION. Sys2Proof/Machine/Links.lean: the ratchets of ports, inbox streams and logs (R209), the planes that carry a package's traffic (R215,
R217) and the packets that leave it.
-/

namespace Sys2Proof.Machine

/-! ## Ratchets (R209) -/

/-- The key under which packet or record q of a stream travels, from the key of the one before: k_(n+1), at every multiple of 2^24, is bits
[255:0] of an HMAC under k_n, as a byte string in the HMAC's own order (log entry 84). -/
def ratchet (label : String) (key : List Byte) (q : Nat) : List Byte :=
  if q % 2 ^ 24 = 0 && q ≠ 0 then last256 (hmac384 key ((label.toList.map (fun c => BitVec.ofNat 8 c.toNat)) ++ natBytes 8 (q / 2 ^ 24 - 1)))
  else key

/-! ## Ports and planes (R214, R215, R217) -/

def State.port (s : State) (n : Nat) : Port := Tbl.get {} s.ports n

def State.setPort (s : State) (n : Nat) (p : Port) : State := { s with ports := Tbl.set {} s.ports n p }

/-- The plane of a packet for a unit of a package (R215). -/
def planeOf (package unit : Nat) : Nat := (unit + 7 * package) % 64

/-- The plane that carries a plane's traffic (R217). -/
def State.carrier (s : State) (plane : Nat) : Nat := ((s.port plane).redirect).getD plane

/-- Whether a plane's traffic is held by back-pressure: the link that carries it is down or retrains, or the traffic is being moved back
(R217). -/
def State.planeHeld (s : State) (plane : Nat) : Bool :=
  let p := s.port (s.carrier plane)
  !p.up || p.retraining || (s.port plane).returning

/-- The plane of an access's home, where another package holds it. -/
def State.remotePlane (s : State) : Home → Option Nat
  | .bank p b => if p = s.package then none else some (planeOf p (512 + b))
  | .registers p => if p = s.package then none else some (planeOf p 1008)
  | _ => none

/-- Whether an access waits for the plane to its home. -/
def State.homeHeld (s : State) (home : Home) : Bool :=
  match s.remotePlane home with
  | none => false
  | some p => s.planeHeld p

/-! ## Senders (R209) -/

/-- The key of the next packet of a sender, none where its stream has no key. -/
def Sender.key (x : Sender) (label : String) : List Byte :=
  match x.keys with
  | (n, k) :: _ => if x.sent / 2 ^ 24 = n then k else ratchet label k x.sent
  | [] => []

/-- A packet sent for a message or an access of a plane's traffic: it takes the next index, under the key of its boundary. -/
def Sender.send (x : Sender) (label : String) (id plane : Nat) : Sender :=
  let q := x.sent
  let keys := match x.keys with
    | (n, k) :: r => if q / 2 ^ 24 = n then (n, k) :: r else (q / 2 ^ 24, x.key label) :: (n, k) :: r
    | [] => []
  { sent := q + 1, keys := keys, waiting := x.waiting ++ [(id, q, plane)] }

/-- What a sender keeps once the packets of others are acknowledged: a key stands while it is the last, or a packet of its boundary or of one
before awaits its acknowledgement. -/
def Sender.acked (x : Sender) (alive : Nat → Bool) : Sender :=
  let w := x.waiting.filter (fun e => alive e.1)
  { x with waiting := w,
           keys := x.keys.filter (fun e => e.1 == (x.sent - 1) / 2 ^ 24 || w.any (fun y => decide (y.2.1 / 2 ^ 24 ≤ e.1))) }

/-! ## Packets and flits (R215, R216; log entry 82) -/

/-- What a packet carries, by its type (R215): an atomic's operation with its operands, a message sealed under the key of its inbox stream with
its tag (R209), a package's elements of a collective. -/
inductive FabricPacket where
  | read (pa n : Nat)
  | write (pa n : Nat) (bytes : List (Nat × Byte))
  | atomic (pa n op : Nat) (operand expected : Word)
  | message (launch : Nat) (words tag : List Byte)
  | collective (tag : Word) (package : Nat) (elements : List Word32)
  deriving DecidableEq, Repr

/-- The number of a packet's type, in the order of R215. -/
def FabricPacket.kind : FabricPacket → Nat
  | .read _ _ => 0
  | .write _ _ _ => 1
  | .atomic _ _ _ _ _ => 2
  | .message _ _ _ => 3
  | .collective _ _ _ => 4

/-- The payload that carries it. -/
def FabricPacket.payload : FabricPacket → List Byte
  | .read pa n => natBytes 8 pa ++ natBytes 2 n
  | .write pa n bs => natBytes 8 pa ++ natBytes 2 n ++ natBytes 2 bs.length ++ bs.flatMap (fun e => natBytes 2 e.1 ++ [e.2])
  | .atomic pa n op x y => natBytes 8 pa ++ natBytes 2 n ++ natBytes 2 op ++ natBytes 8 x.toNat ++ natBytes 8 y.toNat
  | .message launch ws tag => natBytes 2 launch ++ natBytes 2 ws.length ++ ws ++ tag
  | .collective tag package xs => natBytes 8 tag.toNat ++ natBytes 2 package ++ natBytes 2 xs.length ++ xs.flatMap (fun x => natBytes 4 x.toNat)

/-- What the payload of a packet of a type carries, none for a type that R215 does not have. -/
def packetOf (kind : Nat) (bs : List Byte) : Option FabricPacket :=
  let num := fun (off n : Nat) => bytesNat ((bs.drop off).take n)
  match kind with
  | 0 => some (.read (num 0 8) (num 8 2))
  | 1 => some (.write (num 0 8) (num 8 2) ((List.range (num 10 2)).map (fun i => (num (12 + 3 * i) 2, nth 0 bs (14 + 3 * i)))))
  | 2 => some (.atomic (num 0 8) (num 8 2) (num 10 2) (BitVec.ofNat 64 (num 12 8)) (BitVec.ofNat 64 (num 20 8)))
  | 3 => some (.message (num 0 2) ((bs.drop 4).take (num 2 2)) ((bs.drop (4 + num 2 2)).take 16))
  | 4 => some (.collective (BitVec.ofNat 64 (num 0 8)) (num 8 2) ((List.range (num 10 2)).map (fun i => BitVec.ofNat 32 (num (12 + 4 * i) 4))))
  | _ => none

/-- A message's words sealed under the key of its inbox stream, the packet's number in the stream as the nonce (R209). -/
def sealMessage (key : List Byte) (j launch : Nat) (words : List Word) : FabricPacket :=
  let c := gcmSeal key (natBytes 12 j) [] (words.flatMap (fun w => natBytes 8 w.toNat))
  .message launch c.1 c.2

/-- The words of a sealed message, where its tag verifies. -/
def openMessage (key : List Byte) (j : Nat) (cipher tag : List Byte) : Option (List Word) :=
  (gcmOpen key (natBytes 12 j) [] cipher tag).map (fun bs =>
    (List.range (bs.length / 8)).map (fun i => BitVec.ofNat 64 (bytesNat ((bs.drop (8 * i)).take 8))))

/-- A packet: the places that it goes from and to, and what it carries. -/
structure Packet where
  source : Nat
  dest : Nat
  carries : FabricPacket
  deriving DecidableEq, Repr

/-- The flits of a packet's payload: 208 bytes each. -/
def Packet.flits (p : Packet) : Nat := max 1 ((p.carries.payload.length + 207) / 208)

/-- The header of a packet's flits: index, type, flit count, source and destination; its reserved bits are zero. -/
def Packet.head (p : Packet) (j : Nat) : List Byte :=
  natBytes 16 (j % 2 ^ 64 + p.carries.kind % 8 * 2 ^ 64 + p.flits % 16 * 2 ^ 68 + p.source % 2 ^ 21 * 2 ^ 72 + p.dest % 2 ^ 21 * 2 ^ 93)

/-- The IV of flit number i of packet j: the packet's index, then the flit's number. -/
def flitIv (j i : Nat) : List Byte := natBytes 8 j ++ natBytes 4 i

/-- Flit number i of packet j: header, payload sealed under the port key with its tag, CRC and parity. -/
def Packet.flit (p : Packet) (key : List Byte) (j i : Nat) : List Byte :=
  let plain := (List.range 208).map (fun n => nth 0 p.carries.payload (208 * i + n))
  let c := gcmSeal key (flitIv j i) (p.head j) plain
  let body := p.head j ++ c.1 ++ c.2
  let crc := natBytes 8 (Config.flitCrc body).toNat
  body ++ crc ++ natBytes 8 (Config.flitParity (body ++ crc)).toNat

/-- The number of an atomic's operation: R256's, then the compare-and-swap. -/
def AmoOp.number : AmoOp → Nat
  | .add => 0
  | .and => 1
  | .or => 2
  | .xor => 3
  | .min => 4
  | .max => 5
  | .minu => 6
  | .maxu => 7
  | .swp => 8
  | .fadd => 9
  | .cas _ => 10

/-- The place of a home of another package: its bank core's, or its registers'. -/
def homePlace : Home → Nat
  | .bank p b => p * 4096 + (512 + b) * 4
  | .registers p => p * 4096 + 4032
  | _ => 0

/-- What the packet of an access carries: loads and a walk's reads read, stores write, and what else changes memory at its home is an atomic. -/
def Txn.carries (t : Txn) : FabricPacket :=
  match t.op with
  | .store bs _ => .write t.key t.n bs
  | .amo (.cas e) v _ _ => .atomic t.key t.n 10 v e
  | .amo op v _ _ => .atomic t.key t.n op.number v 0
  | .barrier q waits => .atomic t.key t.n (if waits then 12 else 11) (BitVec.ofNat 64 q) 0
  | .tkarm => .atomic t.key t.n 13 0 0
  | .tksig => .atomic t.key t.n 14 0 0
  | _ => .read t.key t.n

/-- A packet for a message or an access put on a plane: its flits leave, where the link has been trained. -/
def State.sendOn (s : State) (plane id : Nat) (p : Packet) : State :=
  let n := s.carrier plane
  let q := s.port n
  let key := q.out.key "KF-PORT"
  let flits := if key.isEmpty then [] else (List.range p.flits).map (fun i => (n, p.flit key q.out.sent i))
  { s.setPort n { q with out := q.out.send "KF-PORT" id plane } with flits := s.flits ++ flits }

/-- The packet of an access that another package holds the home of. -/
def State.sendHome (s : State) (t : Txn) : State :=
  match s.remotePlane t.home with
  | none => s
  | some p => s.sendOn p t.id ⟨s.package * 4096 + t.ctx / 8, homePlace t.home, t.carries⟩

/-- The packet of a read, or of a write of bytes, that an engine or the matrix unit of a tile makes whole: its answer is in at once. -/
def State.sendFor (s : State) (unit : Nat) (home : Home) (key n : Nat) (bytes : Option (List (Nat × Byte))) : State :=
  match s.remotePlane home with
  | none => s
  | some p =>
    let x : FabricPacket := match bytes with
      | none => .read key n
      | some bs => .write key n bs
    (s.sendOn p s.nextId ⟨s.package * 4096 + unit * 4, homePlace home, x⟩).fresh

/-! ## Inbox streams (R209) -/

def State.stream (s : State) (n : Nat) : Stream := Tbl.get {} s.streams n

def State.setStream (s : State) (n : Nat) (x : Stream) : State := { s with streams := Tbl.set {} s.streams n x }

/-- The key of the next packet of the stream from a package. -/
def Stream.next (x : Stream) : List Byte := ratchet "KF-INBOX" x.key x.count

/-- A message's packet accepted by the stream from a package: with the first of a boundary the key of the one before is destroyed. -/
def Stream.took (x : Stream) : Stream := { x with count := x.count + 1, key := x.next }

/-- A message's packet given to the stream to a package. -/
def Stream.gave (x : Stream) (id plane : Nat) : Stream := { x with out := x.out.send "KF-INBOX" id plane }

/-- Whether what a packet was sent for is still on its way. -/
def State.unacked (s : State) (id : Nat) : Bool :=
  s.txns.any (fun t => t.id == id) || s.msgs.any (fun m => m.id == id) ||
    s.blks.any (fun b => b.parts.any (fun p => p.id == id && p.got.isNone))

/-- The ports and streams once what has been performed, returned or written is acknowledged. -/
def State.ackPorts (s : State) : State :=
  { s with ports := s.ports.map (fun (e : Nat × Port) => (e.1, { e.2 with out := e.2.out.acked s.unacked })),
           streams := s.streams.map (fun (e : Nat × Stream) => (e.1, { e.2 with out := e.2.out.acked s.unacked })) }

end Sys2Proof.Machine
end

