-- ==== Sys2Proof/Machine/Regions.lean ====
section
/-!
DEFINITION. Sys2Proof/Machine/Regions.lean: the region directory's edges and cycles (R121 to R126, R130), the versions that
homes keep (R120), and what a home does with an access: loads, stores and atomics, ordinary and of regions (R121, R122,
R131), barrier arrivals (R88) and task control blocks (R106, R107).
-/

namespace Sys2Proof.Machine

/-! ## Edges and cycles -/

/-- Whether slot a is younger than slot b: the larger key (R114). -/
def DirSlot.younger (a b : DirSlot) : Bool :=
  decide (b.bucket < a.bucket) || (a.bucket == b.bucket && (decide (b.order < a.order) ||
    (a.order == b.order && decide (b.pkg < a.pkg))))

/-- The youngest region among the listed slots that may abort. -/
def youngest : List (Nat × DirSlot) → Option (Nat × DirSlot)
  | [] => none
  | e :: r =>
    match youngest r with
    | none => if e.2.mayAbort then some e else none
    | some y => if e.2.mayAbort && e.2.younger y.2 then some e else some y

/-- The edge a→b entered: pred, and the closure rows of every region that reaches a (R124). -/
def linkSlots (dir : Tbl DirSlot) (a b : Nat) : Tbl DirSlot :=
  let cb := (Tbl.get {} dir b).clo ||| slotBit b
  dir.map (fun e =>
    let d := if e.1 = b then { e.2 with pred := e.2.pred ||| slotBit a } else e.2
    (e.1, if e.1 = a || d.clo.getLsbD a then { d with clo := d.clo ||| cb } else d))

/-- The edge a→b tested and added, cycles broken by aborting their youngest region; the edge is dropped if either end has
aborted (R124). -/
def State.addEdge (s : State) (a b : Nat) : Nat → State
  | 0 => s
  | fuel + 1 =>
    if (s.slot a).phase = .free || (s.slot b).phase = .free then s
    else if (s.slot b).clo.getLsbD a then
      let cyc := s.dir.filter (fun e => e.1 == a || e.1 == b || ((s.slot b).clo.getLsbD e.1 && e.2.clo.getLsbD a))
      match youngest cyc with
      | some y => ((s.countAt y.2.ctx 6).abortSlots (slotBit y.1)).addEdge a b fuel
      | none => s
    else { s with dir := linkSlots s.dir a b }

def State.addEdges (s : State) (b : Nat) : List Nat → State
  | [] => s
  | a :: r => (s.addEdge a b 257).addEdges b r

/-- One pass that carries the depths of forwards along src (R126). A depth never falls, not even when a consumer aborts (DESIGN CHOICE, log entry
96). -/
def depthStep (dir : Tbl DirSlot) : Tbl DirSlot :=
  dir.map (fun e =>
    let i := dir.foldl (fun n x => if e.2.src.getLsbD x.1 then max n (x.2.inDepth + 1) else n) e.2.inDepth
    let o := dir.foldl (fun n x => if x.2.src.getLsbD e.1 then max n (x.2.outDepth + 1) else n) e.2.outDepth
    (e.1, { e.2 with inDepth := i, outDepth := o }))

def depthPasses (dir : Tbl DirSlot) : Nat → Tbl DirSlot
  | 0 => dir
  | n + 1 => depthPasses (depthStep dir) n

/-! ## Versions -/

/-- The versions of a launch's regions on a line of a home, oldest first. -/
def State.chain (s : State) (launch : Nat) (home : Home) (line : Nat) : List Version :=
  s.versions.filter (fun v => v.home == home && v.line == line && (s.slot v.slot).launch == launch)

/-- Every version on a line of a home. -/
def State.holders (s : State) (home : Home) (line : Nat) : List Version :=
  s.versions.filter (fun v => v.home == home && v.line == line)

/-- The newest version of a chain that wrote a byte of its line. -/
def newest (chain : List Version) (off : Nat) : Option Version :=
  chain.reverse.find? (fun v => v.mask.getLsbD off)

/-- How many versions a home's table holds (R120). -/
def tableSize : Home → Nat
  | .tile _ => 512
  | _ => 4096

def State.tableFull (s : State) (home : Home) : Bool :=
  decide (tableSize home ≤ (s.versions.filter (fun v => v.home == home)).length)

/-- The read mark of a region on a line: on its newest version there, or on an entry of its own. -/
def State.markRead (s : State) (home : Home) (line slot beginAt kid : Nat) : State :=
  if s.versions.any (fun v => v.home == home && v.line == line && v.slot == slot) then
    { s with versions := s.versions.map (fun v =>
        if v.home == home && v.line == line && v.slot == slot then { v with read := true } else v) }
  else { s with versions := s.versions ++ [⟨home, line, slot, beginAt, 0, [], true, kid, false⟩] }

/-- A region's bytes put into its version: merged where its version is the last of the chain, else a new one at the end
(R122). -/
def State.writeVersion (s : State) (launch : Nat) (home : Home) (line slot beginAt kid : Nat) (bad : Bool)
    (bs : List (Nat × Byte)) : State :=
  let put : Version → Version := fun v =>
    bs.foldl (fun (v : Version) p => { v with mask := v.mask ||| BitVec.twoPow 64 p.1,
                                              data := Tbl.insert v.data p.1 p.2, bad := v.bad || bad }) v
  match (s.chain launch home line).getLast? with
  | some v =>
    if v.slot = slot then
      { s with versions := s.versions.map (fun u => if u = v then put v else u) }
    else { s with versions := s.versions ++ [put ⟨home, line, slot, beginAt, 0, [], false, kid, false⟩] }
  | none => { s with versions := s.versions ++ [put ⟨home, line, slot, beginAt, 0, [], false, kid, false⟩] }

/-! ## What a home answers -/

/-- The answer of a home: not yet, or done with the state and the bytes read. -/
inductive HomeAns where
  | wait
  /-- the region waits until it may become IRREVOCABLE, for the home has no free entry (R130) -/
  | crowded
  /-- a forward withheld by the cascade bound, behind a slot and its begin sequence (R126) -/
  | withheld (s : State) (slot beginAt : Nat)
  | done (s : State) (bytes : List Byte) (bad : Bool)

/-- A region's identity while it is still open: BLKRD and OSLD, whose regions are IRREVOCABLE (R118), go on as ordinary reads once it
has committed. -/
def State.liveRegion (s : State) : Option (Nat × Nat) → Option (Nat × Nat)
  | none => none
  | some (slot, b) => if (s.slot slot).phase ≠ .free && (s.slot slot).beginAt = b then some (slot, b) else none

/-- Whether an access arrives late for its region, which has ended: the home discards it (R120). -/
def State.staleAt (s : State) (slot beginAt : Nat) : Bool :=
  (s.slot slot).phase == .free || (s.slot slot).beginAt != beginAt

/-- Lines that an IRREVOCABLE region has touched without a version. -/
def State.touch (s : State) (slot : Nat) (home : Home) (lines : List Nat) : State :=
  let d := s.slot slot
  s.setSlot slot { d with touched := ((lines.map (fun l => (home, l))).filter (fun x => !d.touched.contains x)) ++ d.touched }

/-- The other regions that hold one of the lines. -/
def State.othersOn (s : State) (home : Home) (lines : List Nat) (launch slot : Nat) : List Nat :=
  ((s.versions.filter (fun v => v.home == home && lines.contains v.line && v.slot != slot &&
    (s.slot v.slot).launch == launch)).map (·.slot)).dedup

/-- Whether a region's access to a line needs a new entry of the home's table: a load where the region has none, a store where the last
of the chain is not its own (R120, R122). -/
def State.needsEntry (s : State) (launch : Nat) (home : Home) (slot : Nat) (store : Bool) (line : Nat) : Bool :=
  if store then (match (s.chain launch home line).getLast? with | some v => v.slot != slot | none => true)
  else !s.versions.any (fun v => v.home == home && v.line == line && v.slot == slot)

def isPool : Home → Bool
  | .pool _ => true
  | _ => false

/-- Whether a region's access to a line is performed directly on the committed line, which the IRREVOCABLE region then holds (R130): at the
pool, where there are no versions; where the home has no free entry for it; and once the region is COMMITTING, for a block read or an operand
load that FRCOM does not await. -/
def State.direct (s : State) (launch : Nat) (home : Home) (slot : Nat) (store : Bool) (line : Nat) : Bool :=
  isPool home || (s.slot slot).phase == .committing ||
    (s.tableFull home && s.needsEntry launch home slot store line)

/-- An ordinary load (R90, R131). -/
def State.plainLoad (s : State) (t : Txn) : HomeAns :=
  if s.lineHeld t.home (linesOf t.key t.n) none then .wait
  else .done s (s.readBytes t.kid t.key t.n) (s.readBad t.key t.n)

/-- The lines that bytes at offsets from a key touch. -/
def storeLines (key : Nat) (bs : List (Nat × Byte)) : List Nat := (bs.map (fun p => (key + p.1) / 64)).dedup

/-- An ordinary store of bytes at offsets: readers abort, then the committed line is written (R131). -/
def State.plainStore (s : State) (t : Txn) (bad : Bool) (bs : List (Nat × Byte)) : HomeAns :=
  let lines := storeLines t.key bs
  if s.lineHeld t.home lines none then .wait
  else
    let m := s.readersOf t.home lines none
    let s := if m = 0 then s else s.abortSlots m
    .done (s.writeBytes t.kid t.key bad bs) [] false

/-- A region for whose access a home has too few free entries becomes IRREVOCABLE, where it may (R130); none while it must wait. -/
def State.roomFor (s : State) (home : Home) (lines : List Nat) (slot : Nat) (store : Bool) : Option State :=
  let d := s.slot slot
  let needed := (lines.filter (s.needsEntry d.launch home slot store)).length
  if (s.versions.filter (fun v => v.home == home)).length + needed ≤ tableSize home || d.solid then some s
  else if d.pred = 0 && !s.dir.any (fun e => e.2.phase == .irrevocable) then
    some (s.setSlot slot { d with phase := .irrevocable, solid := true })
  else none

/-- The lines that an IRREVOCABLE region reaches, until its FRCOM is complete, cleared of other regions (R130): none while one of them is
COMMITTING. -/
def State.clearLines (s : State) (home : Home) (lines : List Nat) (slot : Nat) : Option State :=
  if (s.slot slot).solid = false then some s
  else
    let held := s.versions.filter (fun v => v.home == home && lines.contains v.line && v.slot != slot)
    if held.any (fun v => (s.slot v.slot).phase == .committing) then none
    else
      let m := held.foldl (fun m v => m ||| slotBit v.slot) (0 : BitVec 256)
      some (if m = 0 then s else s.abortSlots m)

/-- The bytes that a region load sees: its own launch's newest versions over the committed line (R121). -/
def State.regionBytes (s : State) (t : Txn) (launch : Nat) : Nat → Nat → List Byte
  | _, 0 => []
  | key, n + 1 =>
    let b := match newest (s.chain launch t.home (key / 64)) (key % 64) with
      | some v => Tbl.get 0 v.data (key % 64)
      | none => s.readByte t.kid key
    b :: s.regionBytes t launch (key + 1) n

/-- Whether a byte that a region load sees carries a poison mark (R171). -/
def State.regionBad (s : State) (t : Txn) (launch : Nat) : Bool :=
  (List.range t.n).any (fun i =>
    match newest (s.chain launch t.home ((t.key + i) / 64)) ((t.key + i) % 64) with
    | some v => v.bad
    | none => Tbl.get false s.bad (t.key + i))

/-- The regions that supply bytes to a region load. -/
def State.suppliers (s : State) (t : Txn) (launch slot : Nat) : List Nat :=
  ((List.range t.n).filterMap (fun i =>
    match newest (s.chain launch t.home ((t.key + i) / 64)) ((t.key + i) % 64) with
    | some v => if v.slot = slot then none else some v.slot
    | none => none)).dedup

/-- The forwards of a region load asked for one by one (R121, R126): the slot behind which one is withheld, if any. Where the edge
aborts a supplier, the versions that its end uncovers supply in its place; where it aborts the loading region, nothing more happens. -/
def State.forwards (s : State) (t : Txn) (launch slot bound : Nat) (granted : List Nat) : Nat → State × Option Nat
  | 0 => (s, none)
  | fuel + 1 =>
    match (s.suppliers t launch slot).find? (fun a => !granted.contains a) with
    | none => (s, none)
    | some a =>
      let s' := s.addEdge a slot 257
      if (s'.slot slot).phase = .free then (s', none)
      else if (s'.slot a).phase = .free then s'.forwards t launch slot bound granted fuel
      else if (s'.slot a).inDepth + 1 + (s'.slot slot).outDepth ≤ bound then
        let d := s'.slot slot
        let s' := s'.setSlot slot { d with src := d.src ||| slotBit a }
        (State.countAt { s' with dir := depthPasses s'.dir 9 } t.ctx 4).forwards t launch slot bound (a :: granted) fuel
      else (s'.countAt t.ctx 5, some a)

/-- The launch's cascade bound (R95, R126). -/
def State.cascadeBound (s : State) (tag : Nat) : Nat :=
  match s.launch? tag with | some l => l.field 5 30 4 | none => 1

/-- A region load of slot B (R121): the newest bytes, with edges and forwards from the regions that supply them. -/
def State.regionLoad (s : State) (t : Txn) (slot beginAt : Nat) : HomeAns :=
  let lines := linesOf t.key t.n
  if s.staleAt slot beginAt then .done s [] false
  else if s.lineHeld t.home lines (some (slot, beginAt)) then .wait
  else
    match s.roomFor t.home lines slot false with
    | none => .crowded
    | some s =>
      match s.clearLines t.home lines slot with
      | none => .wait
      | some s =>
        let launch := (s.slot slot).launch
        let (s, held) := s.forwards t launch slot (s.cascadeBound launch) [] 257
        if s.staleAt slot beginAt then .done s [] false
        else
          match held with
          | some a => .withheld s a (s.slot a).beginAt
          | none =>
            let bs := s.regionBytes t launch t.key t.n
            let bad := s.regionBad t launch
            .done (lines.foldl (fun s l =>
              if s.direct launch t.home slot false l then s.touch slot t.home [l]
              else s.markRead t.home l slot beginAt t.kid) s) bs bad

/-- A region store of slot B (R122): edges from every other region on its lines, then, unless they have made it the victim (R125), the
regions of other launches that have read its lines abort, and its version is written. -/
def State.regionStore (s : State) (t : Txn) (slot beginAt : Nat) (bad : Bool) (bs : List (Nat × Byte)) : HomeAns :=
  let lines := storeLines t.key bs
  if s.staleAt slot beginAt then .done s [] false
  else if s.lineHeld t.home lines (some (slot, beginAt)) then .wait
  else
    match s.roomFor t.home lines slot true with
    | none => .crowded
    | some s =>
      match s.clearLines t.home lines slot with
      | none => .wait
      | some s =>
        let launch := (s.slot slot).launch
        let s := s.addEdges slot (s.othersOn t.home lines launch slot)
        if s.staleAt slot beginAt then .done s [] false
        else
          let m := s.readersOf t.home lines (some launch)
          let s := if m = 0 then s else s.abortSlots m
          .done (lines.foldl (fun s l =>
            let mine := bs.filter (fun p => (t.key + p.1) / 64 == l)
            if s.direct launch t.home slot true l then
              (s.writeBytes t.kid t.key bad mine).touch slot t.home [l]
            else s.writeVersion launch t.home l slot beginAt t.kid bad (mine.map (fun p => ((t.key + p.1) % 64, p.2)))) s) [] false

/-- A load at its home. -/
def State.homeLoad (s : State) (t : Txn) : HomeAns :=
  match t.region with
  | none => s.plainLoad t
  | some (slot, b) => s.regionLoad t slot b

/-- A store at its home, of the bytes that may land (R5). -/
def State.homeStore (s : State) (t : Txn) (bad : Bool) (bs : List (Nat × Byte)) : HomeAns :=
  match t.region with
  | none => s.plainStore t bad (s.landing t.key bs)
  | some (slot, b) => s.regionStore t slot b bad (s.landing t.key bs)

/-- The new value of an atomic on n bytes (R281, R283, R352); none where a comparison fails. -/
def amoNew (op : AmoOp) (n : Nat) (old v : Nat) : Option Nat :=
  let b := 8 * n
  match op with
  | .add => some ((old + v) % 2 ^ b)
  | .and => some (old &&& v)
  | .or => some (old ||| v)
  | .xor => some (old ^^^ v)
  | .min => some (if sextNat b old ≤ sextNat b v then old else v)
  | .max => some (if sextNat b v ≤ sextNat b old then old else v)
  | .minu => some (min old v)
  | .maxu => some (max old v)
  | .swp => some v
  | .fadd => some (f32Add (BitVec.ofNat 32 old) (BitVec.ofNat 32 v)).toNat
  | .cas e => if old = e.toNat % 2 ^ b then some v else none

/-- Whether the line of an access holds an uncorrectable error, as a load of the whole line would find (R281). -/
def State.lineBad (s : State) (t : Txn) : Bool :=
  let whole := { t with key := t.key / 64 * 64, n := 64 }
  match t.region with
  | none => s.readBad whole.key 64
  | some (slot, _) => s.regionBad whole (s.slot slot).launch

/-- The poison mark of each byte that an access reads (R171, R288). -/
def State.byteMarks (s : State) (t : Txn) : List Bool :=
  (List.range t.n).map (fun i =>
    let one := { t with key := t.key + i, n := 1 }
    match t.region with
    | none => s.readBad one.key 1
    | some (slot, _) => s.regionBad one (s.slot slot).launch)

/-- An atomic at its home, indivisibly (R281): where its line holds an uncorrectable error nothing is written; an access whose own
region its read has aborted has no effect (R125). -/
def State.homeAmo (s : State) (t : Txn) (op : AmoOp) (v : Word) (badOperand : Bool) : HomeAns :=
  match s.homeLoad t with
  | .wait => .wait
  | .crowded => .crowded
  | .withheld s a b => .withheld s a b
  | .done s old _ =>
    if (match t.region with | some (slot, b) => s.staleAt slot b | none => false) then .done s old false
    else if s.lineBad t then .done s old true
    else
      match amoNew op t.n (bytesNat old) (v.toNat % 2 ^ (8 * t.n)) with
      | none => .done s old false
      | some x =>
        match s.homeStore t badOperand (enumBytes (natBytes t.n x)) with
        | .done s _ _ => .done s old false
        | other => other

/-! ## Barriers (R87, R88) -/

/-- The dwords of a barrier object. -/
structure Barrier where
  phase : Nat
  expected : Nat
  reserved : Bool
  held : Nat
  arrived : Nat

def barrierOf (bs : List Byte) : Barrier :=
  let x := bytesNat bs
  ⟨field x 32 32, field x 0 16, field x 16 16 != 0 || field x 112 16 != 0 || field x 80 16 != 0, field x 96 16, field x 64 16⟩

def Barrier.bytes (b : Barrier) : List Byte :=
  natBytes 16 (b.expected + b.phase * 2 ^ 32 + b.arrived * 2 ^ 64 + b.held * 2 ^ 96)

/-- The completions that an arrival brings about, and the phases completed (at most two). -/
def Barrier.complete (b : Barrier) : Nat → Barrier × List Nat
  | 0 => (b, [])
  | n + 1 =>
    if b.arrived = b.expected then
      let (c, ps) := Barrier.complete { b with phase := (b.phase + 1) % 2 ^ 32, arrived := b.held, held := 0 } n
      (c, b.phase :: ps)
    else (b, [])

/-- An arrival naming phase q: the object after it, the count for q, and the phases completed; none where it traps. -/
def Barrier.arrive (b : Barrier) (q : Nat) : Option (Barrier × Nat × List Nat) :=
  if b.expected = 0 || b.reserved then none
  else if q = b.phase && b.arrived < b.expected then
    let (c, ps) := Barrier.complete { b with arrived := b.arrived + 1 } 2
    some (c, b.arrived + 1, ps)
  else if q = (b.phase + 1) % 2 ^ 32 && b.held < b.expected then
    let (c, ps) := Barrier.complete { b with held := b.held + 1 } 2
    some (c, b.held + 1, ps)
  else none

/-! ## Task control blocks (R105 to R107) -/

/-- The eight dwords of a TCB at an access's home. -/
def tcbDwords (bs : List Byte) : List Word :=
  (List.range 8).map (fun i => BitVec.ofNat 64 (bytesNat ((bs.drop (8 * i)).take 8)))

/-- The record of a TCB as its release pushes it (R98, R107): the rest of the header is filled at the push. -/
def tcbTask (d : List Word) (va : Word) : TaskRec :=
  { header := nth 0 d 0, dword1 := (nth 0 d 1 &&& 0x0001FFFFFFFFFFFF) ||| 0x0002000000000000, arg0 := nth 0 d 2,
    arg1 := nth 0 d 3, tcb := some va.toNat }

/-- TKARM at the home (R106): the TCB's dwords after it, the answer, and whether the task is released. -/
def tkarmAt (names : Bool) (d : List Word) : Option (List Word × Word × Bool) :=
  let count := Word.field (nth 0 d 1) 32 16
  if Word.field (nth 0 d 5) 16 3 ≠ 3 || Word.field (nth 0 d 5) 19 45 ≠ 0 || Word.field (nth 0 d 6) 16 48 ≠ 0 ||
      nth 0 d 7 ≠ 0 || Word.field (nth 0 d 1) 50 14 ≠ 0 || !names then none
  else
    let st : Nat := if count = 0 then 1 else 0
    some ((d.set 6 (BitVec.ofNat 64 count)).set 5
      (BitVec.ofNat 64 (Word.field (nth 0 d 5) 0 16 + st * 65536)), BitVec.ofNat 64 count, count == 0)

/-- TKSIG at the home (R107). -/
def tksigAt (d : List Word) : Option (List Word × Word × Bool) :=
  let rem := Word.field (nth 0 d 6) 0 16
  if Word.field (nth 0 d 5) 16 3 ≠ 0 || rem = 0 then none
  else
    let st : Nat := if rem = 1 then 1 else 0
    some ((d.set 6 (BitVec.ofNat 64 (rem - 1))).set 5
      (BitVec.ofNat 64 (Word.field (nth 0 d 5) 0 16 + st * 65536)), BitVec.ofNat 64 (rem - 1), rem == 1)

end Sys2Proof.Machine
end

