-- ==== Sys2Proof/Machine/Access.lean ====
section
/-!
DEFINITION. Sys2Proof/Machine/Access.lean: how a context's accesses issue (R70, R76, R79 to R82, R117, R281, R312, R337), how
homes perform them (R74, R75, R78), and how answers return (R78, R171, R356).
-/

namespace Sys2Proof.Machine

/-- Whether a transaction is an access to memory, not an operation of tile resources or of a footprint table. -/
def TxnOp.isMemory : TxnOp → Bool
  | .semup _ => false
  | .qput _ _ => false
  | .enqueue _ => false
  | _ => true

/-- The operations of VLD and VST among others (R354). -/
def TxnOp.isWide : TxnOp → Bool
  | .vload _ _ => true
  | .store _ _ => true
  | _ => false

/-! ## What an access waits for at issue -/

/-- The homes in a fence's scope (R81): 0 core, 1 tile, 2 cluster, 3 package, 4 domain. -/
def State.inScope (s : State) (k scope : Nat) (h : Home) : Bool :=
  match scope with
  | 0 | 1 => h == .tile (unitOf k)
  | 2 => match h with
    | .tile u => clusterOf u == clusterOf (unitOf k)
    | .pool c => c == clusterOf (unitOf k)
    | _ => false
  | 3 => s.homePackage h == s.package
  | _ => true

/-- The home at which a message is acknowledged (R300): the destination tile. A message to another package is homed there, and one to a
bank core or a steward of this package at the package, as at a bank core of it (DESIGN CHOICE, log entry 76). -/
def State.msgHome (s : State) (m : Msg) : Home :=
  if isTile (unitOf (m.dest * 8)) then .tile (unitOf (m.dest * 8))
  else if 4096 ≤ m.dest && m.dest < 16777216 then .bank (m.dest / 4096 - 1) 0
  else .bank s.package 0

/-- The accesses, enqueues and messages of a context that are still on their way to homes in scope: what a release awaits
(R80, R81, R300). -/
def State.outstanding (s : State) (k scope : Nat) : List Nat :=
  ((s.txns.filter (fun t => t.ctx == k && s.inScope k scope t.home)).map (·.id)) ++
    ((s.msgs.filter (fun m => m.ctx == some k && s.inScope k scope (s.msgHome m))).map (·.id))

/-- The loads and atomics of a context that have not returned from homes in scope: what an acquire awaits (R79, R81). -/
def State.returning (s : State) (k scope : Nat) : List Nat :=
  (s.txns.filter (fun t => t.ctx == k && t.ld && s.inScope k scope t.home)).map (·.id)

/-- Whether an acquire, or a release where the instruction stores, sends or enqueues, holds the current context's next access
(R79, R80, R81). -/
def State.gated (s : State) (store : Bool) : Bool :=
  s.anyUnderWay (s.ctx s.cur).acq || (store && s.anyUnderWay (s.ctx s.cur).rel)

/-- The current context waits for what gates its access, in the background where that is a slow load (R34). -/
def State.waitGate (s : State) : Out :=
  s.waitFor (s.txns.any (fun t => t.slow && ((s.ctx s.cur).acq.contains t.id || (s.ctx s.cur).rel.contains t.id)))

/-- Whether an access to a tile waits for an earlier message of its context to a core of that tile (R76). -/
def State.msgHeld (s : State) (homes : List Home) : Bool :=
  s.msgs.any (fun m => m.ctx == some s.cur && homes.contains (s.msgHome m))

/-- Whether a counter of the current context is at 63 (R281, R312, R337). -/
def State.full (s : State) (ld st : Bool) : Bool :=
  let c := s.ctx s.cur
  (ld && decide (63 ≤ c.ld)) || (st && decide (63 ≤ c.st))

/-- A release or acquire added to what a context's later instructions wait for. -/
def Ctx.hold (c : Ctx) (acq rel : List Nat) : Ctx := { c with acq := acq ++ c.acq, rel := rel ++ c.rel }

/-- The wait lists of a context without what is no longer on its way. -/
def State.prune (s : State) (c : Ctx) : Ctx := { c with acq := c.acq.filter s.underWay, rel := c.rel.filter s.underWay }

def State.holdCur (s : State) (acq rel : List Nat) : State :=
  s.setCtx s.cur ((s.prune (s.ctx s.cur)).hold acq rel)

/-! ## Issue -/

/-- Whether an open region of the current context forbids an access: a home in another package (R117). -/
def State.scopeBreach (s : State) (ps : List Part) : Bool :=
  (s.ctx s.cur).region.isSome && ps.any (fun p => s.homePackage p.home != s.package)

/-- An access checked and held as its instruction's entry says, then its body: alignment, window, translation, permission,
region scope where it is a region access (R312, R337), a pool access in a region (R118), messages to the same tile (R76),
counters. -/
def State.access (s : State) (a : Access) (va : Word) (n align : Nat) (ld st : Bool)
    (body : List Part → State → Out) (inPackage : Bool := true) : Out :=
  if s.gated st then s.waitGate
  else if va.toNat % align ≠ 0 then s.trapAt s.cur 6 0 va none
  else
    match s.locate s.cur a va n with
    | .error f => s.memTrap f
    | .ok (ps, s) =>
      if inPackage && s.scopeBreach ps then s.trap 0xD 0
      else
        let go := fun (s : State) =>
          if s.msgHeld (ps.map (·.home)) || s.full ld st then s.stall else body ps s
        if ps.any (fun p => isPool p.home) then s.irrevocably go else go s

/-- The region tag of an access: that of the context's open region. An access to the pool, which is not versioned, bears it too: the region is
IRREVOCABLE, and holds the lines it touches (R118, R130). -/
def State.tagFor (s : State) (k : Nat) : Option (Nat × Nat) := (s.ctx k).region.map (fun r => (r.slot, r.beginAt))

/-- The parts of one instruction's access put on their way: they share the group number grp. -/
def State.putParts (s : State) (proto : Txn) (op : Part → TxnOp) : List Part → State
  | [] => s
  | p :: r =>
    let t : Txn := { proto with id := s.nextId, home := p.home, op := op p, va := proto.va + BitVec.ofNat 64 p.off,
                                key := p.key, n := p.len, kid := p.kid, size := p.size, region := s.tagFor proto.ctx }
    (State.sendHome { s.fresh with txns := s.txns ++ [t] } t).putParts proto op r

/-- The counters raised by an instruction (R356). -/
def Ctx.raise (c : Ctx) (ld st : Bool) : Ctx :=
  { c with ld := if ld then c.ld + 1 else c.ld, st := if st then c.st + 1 else c.st }

/-- What stays the same for every part of one access of the current context. -/
def State.proto (s : State) (va : Word) (dst : Dst) (after : List Nat) (ld st : Bool) (seq : Option Nat) : Txn :=
  { id := s.nextId, ctx := s.cur, act := (s.ctx s.cur).actId, grp := s.nextId, home := .tile 0, op := .tkarm, dst := dst,
    va := va, after := after, ld := ld, st := st, seq := seq, issued := s.cycle }

/-- An access of the current context on its way, its counters raised. -/
def State.sendAccess (s : State) (va : Word) (ps : List Part) (op : Part → TxnOp) (dst : Dst) (after : List Nat)
    (ld st : Bool) (seq : Option Nat := none) : State :=
  let s' := s.putParts (s.proto va dst after ld st seq) op ps
  s'.setCtx s.cur ((s'.ctx s.cur).raise ld st)

/-- The eight bytes at an offset of an access, as a part of their own. -/
def partAt (ps : List Part) (off : Nat) : List Part :=
  match ps.find? (fun p => decide (p.off ≤ off) && decide (off < p.off + p.len)) with
  | some p => [{ p with off := 0, len := 8, key := p.key + (off - p.off) }]
  | none => []

/-- Doubleword stores of the current context, from an address whose bytes' parts are known: each is a store of its own. -/
def State.sendDwords (s : State) (va : Word) (ps : List Part) (off : Nat) : List Word → State
  | [] => s
  | x :: r =>
    (s.sendAccess (va + BitVec.ofNat 64 off) (partAt ps off) (fun _ => .store (enumBytes (natBytes 8 x.toNat)) false)
      .none [] false true).sendDwords va ps (off + 8) r

/-- Whether n stores would raise st above 63. -/
def State.storesFull (s : State) (n : Nat) : Bool := decide (63 < (s.ctx s.cur).st + n)

/-- The destination of a scalar result; w0 discards it. -/
def dstW (d : Nat) : Dst := if d = 0 then .none else .w d

/-- A scalar load (R312): on its way, the context goes on. -/
def State.loadOp (s : State) (len d : Nat) (va : Word) (n : Nat) (signed acquire : Bool) : Out :=
  s.access .load va n n true false (fun ps s =>
    let id := s.nextId
    let s := s.sendAccess va ps (fun _ => .load signed) (dstW d) [] true false
    .next ((if acquire then s.holdCur [id] [] else s).skip len))

/-- A scalar store (R337, R338): a release waits at its home for what came before it, and later stores with it. -/
def State.storeOp (s : State) (len : Nat) (va : Word) (n : Nat) (x : Word) (bad release : Bool) : Out :=
  s.access .store va n n false true (fun ps s =>
    let after := if release then s.outstanding s.cur 4 else []
    let s := s.sendAccess va ps (fun _ => .store (enumBytes (natBytes n x.toNat)) bad) .none after false true
    .next ((s.holdCur [] after).skip len))

/-- An atomic (R281, R283). -/
def State.amoOp (s : State) (d : Nat) (va : Word) (n : Nat) (op : AmoOp) (v : Word) : Out :=
  s.access .store va n n true true (fun ps s =>
    .next ((s.sendAccess va ps (fun _ => .amo op v true false) (dstW d) [] true true).skip 4))

/-- The bytes of an access as its homes hold them now: none while one of them must wait (R130). -/
def State.readParts (s : State) (proto : Txn) : List Part → Option (List Byte × Bool × State)
  | [] => some ([], false, s)
  | p :: r =>
    let t : Txn := { proto with home := p.home, op := .load false, key := p.key, n := p.len, kid := p.kid,
                                region := s.tagFor proto.ctx }
    match s.homeLoad t with
    | .done s bs bad =>
      match s.readParts proto r with
      | some (rest, bad', s) => some (bs ++ rest, bad || bad', s)
      | none => none
    | _ => none

/-- The parts of consecutive doublewords from an offset, each translated and checked as an access of its own; one that is scoped to its
region's package traps outside it (R117). -/
def State.locateDwords (s : State) (a : Access) (near : Bool) (va : Word) (off : Nat) : Nat → Except MemFault (List Part × State)
  | 0 => .ok ([], s)
  | n + 1 =>
    match s.locate s.cur a (va + BitVec.ofNat 64 off) 8 with
    | .error f => .error f
    | .ok (ps, s) =>
      if near && s.scopeBreach ps then .error ⟨0xD, 0, 0⟩
      else
        match s.locateDwords a near va (off + 8) n with
        | .error f => .error f
        | .ok (rest, s) => .ok (ps.map (fun p => { p with off := p.off + off }) ++ rest, s)

/-- The scalar stores that one instruction makes of n doublewords (R319, R359): each is checked as its own, in order, and a trap of any
leaves all unmade (R159). -/
def State.storeDwords (s : State) (va : Word) (n : Nat) (body : List Part → State → Out) : Out :=
  if s.gated true then s.waitGate
  else if va.toNat % 8 ≠ 0 then s.trapAt s.cur 6 0 va none
  else
    match s.locateDwords .store true va 0 n with
    | .error f => s.memTrap f
    | .ok (ps, s) =>
      let go := fun (s : State) => if s.msgHeld (ps.map (·.home)) || s.storesFull n then s.stall else body ps s
      if ps.any (fun p => isPool p.home) then s.irrevocably go else go s

/-- Whether a record's reads await an earlier access, block read or message of the current context at their homes (R75, R76). -/
def State.recordHeld (s : State) (ps : List Part) : Bool :=
  s.txns.any (fun t => t.ctx == s.cur && ps.any (fun p => p.home == t.home) && t.op.isMemory && !t.performed) ||
    s.blks.any (fun b => b.ctx == s.cur && b.parts.any (fun x => x.got.isNone && ps.any (fun p => x.home == some p.home))) ||
    s.msgHeld (ps.map (·.home))

/-- The doubleword loads that an instruction makes of a record of n bytes (R268, R308, R344): each checked as a scalar load, in
program order with the context's accesses to those homes; a poisoned record traps. -/
def State.readRecord (s : State) (va : Word) (n align : Nat) (body : List Byte → State → Out) : Out :=
  if s.gated false then s.waitGate
  else if va.toNat % align ≠ 0 then s.trapAt s.cur 6 0 va none
  else
    match s.locateDwords .load false va 0 (n / 8) with
    | .error f => s.memTrap f
    | .ok (ps, s) =>
      if s.recordHeld ps || s.full true false then s.stall
      else
        match s.readParts (s.proto va .none [] false false none) ps with
        | none => s.stall
        | some (bs, bad, s) => if bad then (s.logError true).trap 0x14 0 else body bs s

/-! ## The coprocessor ring (R160) -/

/-- A ring entry taken for the current context's instruction: its sequence number; none while the entry 64 before is
outstanding. -/
def State.ringTake (s : State) : Option (Nat × State) :=
  let core := coreOf s.cur
  let q := s.core core
  let seq := q.cseq.toNat
  let e := Tbl.get {} q.cring (seq % 64)
  if e.used && !e.retired then none
  else
    let c := s.ctx s.cur
    let e : RingEntry := { seq := seq, pc := c.pc, word := c.word, ctx := numOf s.cur, launch := c.launch, used := true }
    some (seq, s.setCore core { q with cring := Tbl.set {} q.cring (seq % 64) e, cseq := q.cseq + 1 })

/-- A late fault on its way to its context (R161). -/
def State.lateFault (s : State) (k act launch : Nat) (r : LateRec) : State :=
  { s.fresh with lates := s.lates ++ [⟨s.nextId, k, act, launch, r⟩] }

/-- The late record of the current context's instruction. -/
def State.lateRec (s : State) (seq sub detail : Nat) (addr : Word) (lane : Option Nat) : LateRec :=
  { pc := (s.ctx s.cur).pc, word := (s.ctx s.cur).word, seq := seq, subcause := sub, detail := detail, addr := addr,
    lane := lane }

/-- A late fault of the current context's instruction. -/
def State.lateHere (s : State) (seq sub detail : Nat) (addr : Word) (lane : Option Nat) : State :=
  let c := s.ctx s.cur
  s.lateFault s.cur c.actId c.launch (s.lateRec seq sub detail addr lane)

/-- Whether a register that a coprocessor instruction reads is poisoned, a scalar one that it reads as data among them (R171, R345). -/
def Ctx.readsPoison (c : Ctx) (need : Need) : Bool :=
  need.vreads.any (fun n => Tbl.get false c.vbad n) || need.data.any (fun n => Tbl.get false c.wbad n)

/-- A coprocessor instruction: the checks of R245, a ring entry, and POISON, late, where a register it reads is
poisoned (R171); then its body, which is given the sequence number. -/
def State.coprocess (s : State) (need : Need) (body : State → Nat → Out) : Out :=
  s.issue need (fun s =>
    match s.ringTake with
    | none => s.stall
    | some (seq, s) =>
      if (s.ctx s.cur).readsPoison need then .next ((s.lateHere seq 8 0 0 none).skip 4)
      else body s seq)

/-! ## What homes do -/

/-- The queues in which accesses of one context to one home keep their order: memory, tile resources, enqueues. -/
def TxnOp.lane : TxnOp → Nat
  | .semup _ => 1
  | .qput _ _ => 1
  | .enqueue _ => 2
  | _ => 0

/-- Whether the forward that withheld an access has been decided (R126). -/
def State.released (s : State) (t : Txn) : Bool :=
  match t.withheld with
  | none => true
  | some (slot, b) => (s.slot slot).phase == .free || (s.slot slot).beginAt != b

/-- Whether a home may perform an access now: the earlier accesses of its context to that home have been performed (R75), and
what its release awaits is complete (R80, R82). -/
def State.mayPerform (s : State) (t : Txn) : Bool :=
  !t.performed && !t.arrived && s.released t && !s.homeHeld t.home && !s.frozenTo t.ctx t.home &&
    !s.txns.any (fun u => u.ctx == t.ctx && u.home == t.home && decide (u.id < t.id) && !u.performed && !u.arrived &&
      u.op.lane == t.op.lane) &&
    !(t.op.lane == 0 && s.blks.any (fun b => b.ctx == t.ctx &&
      b.parts.any (fun p => p.home == some t.home && decide (p.id < t.id) && p.got.isNone))) &&
    !s.anyUnderWay t.after

/-- The access of an identity changed. -/
def State.setTxn (s : State) (t : Txn) : State := { s with txns := s.txns.map (fun u => if u.id = t.id then t else u) }

def State.txn? (s : State) (id : Nat) : Option Txn := s.txns.find? (fun t => t.id == id)

/-- The arrivals that wait for completed phases of a barrier answered (R88). -/
def State.answerArrivals (s : State) (home : Home) (key : Nat) (phases : List Nat) : State :=
  { s with txns := s.txns.map (fun u => match u.op with
      | .barrier q true =>
        if u.home = home && u.key = key && u.arrived && phases.contains q then
          { u with performed := true, arrived := false, value := BitVec.ofNat 64 q } else u
      | _ => u) }

/-- The outcome of a home's work on an access, or none while it waits. -/
def State.settle (s : State) (t : Txn) (ans : HomeAns) (done : Txn → List Byte → Bool → Txn) : State :=
  match ans with
  | .wait => s
  | .crowded => s.setTxn { t with slow := true }
  | .withheld s a b => s.setTxn { t with withheld := some (a, b), slow := true }
  | .done s bs bad =>
    (if bad then s.logError true else s).setTxn (done { t with performed := true, withheld := none } bs bad)

/-- A barrier arrival at its home (R88). -/
def State.arriveAt (s : State) (t : Txn) (q : Nat) (waits : Bool) : State :=
  match s.homeLoad t with
  | .wait => s
  | .crowded => s.setTxn { t with slow := true }
  | .withheld s a b => s.setTxn { t with withheld := some (a, b), slow := true }
  | .done s bs bad =>
    if bad then (s.logError true).setTxn { t with performed := true, bad := true }
    else
      match (barrierOf bs).arrive q with
      | none => s.setTxn { t with performed := true, refused := true }
      | some (b, count, phases) =>
        match s.homeStore t false (enumBytes b.bytes) with
        | .done s _ _ =>
          let complete := phases.contains q
          let t := if waits then { t with arrived := !complete, performed := complete, value := BitVec.ofNat 64 q }
                   else { t with performed := true, value := BitVec.ofNat 64 count }
          (s.setTxn t).answerArrivals t.home t.key phases
        | _ => s

/-- The bytes of a list of dwords with their offsets. -/
def dwordBytes (ds : List Word) : List (Nat × Byte) := enumBytes (ds.flatMap (fun d => natBytes 8 d.toNat))

/-- TKARM or TKSIG at the home (R106, R107): the TCB as it stands, the dwords after it, and the answer. -/
def State.tcbAt (s : State) (t : Txn) (f : List Word → Option (List Word × Word × Bool)) : State :=
  match s.homeLoad t with
  | .wait => s
  | .crowded => s.setTxn { t with slow := true }
  | .withheld s a b => s.setTxn { t with withheld := some (a, b), slow := true }
  | .done s bs bad =>
    if bad then (s.logError true).setTxn { t with performed := true, bad := true }
    else
      let ds := tcbDwords bs
      match f ds with
      | none => s.setTxn { t with performed := true, refused := true }
      | some (ds', v, rel) =>
        match s.homeStore t false (dwordBytes ds') with
        | .done s _ _ =>
          s.setTxn { t with performed := true, value := v, released := if rel then some (tcbTask ds t.va) else none }
        | _ => s

/-- Whether a TCB's header names a handler of the launch (R106). -/
def State.namesHandler (s : State) (tag : Nat) (d : List Word) : Bool :=
  (s.handler? tag (Word.field (nth 0 d 0) 0 12)).isSome

/-- A home performs an access to memory that it may perform (R74): loads, stores, atomics, arrivals and TCBs. -/
def State.performMemory (s : State) (t : Txn) : State :=
  match t.op with
  | .load _ => s.settle t (s.homeLoad t) (fun t bs bad => { t with bytes := bs, bad := bad })
  | .vload _ _ => s.settle t (s.homeLoad t) (fun t bs bad => { t with bytes := bs, bad := bad })
  | .store bytes bad => s.settle t (s.homeStore t bad bytes) (fun t _ _ => t)
  | .amo op v _ bad => s.settle t (s.homeAmo t op v bad) (fun t bs bad => { t with bytes := bs, bad := bad })
  | .barrier q waits => s.arriveAt t q waits
  | .tkarm => s.tcbAt t (fun d => tkarmAt (s.namesHandler (s.ctx t.ctx).launch d) d)
  | .tksig => s.tcbAt t tksigAt
  | _ => s

/-- The other parts of a VLD or VST that lie at the same home: its parts, unlike the lanes of a strided or indexed form, are whole lines. -/
def State.siblings (s : State) (t : Txn) : List Txn :=
  if 64 ≤ t.n && t.op.isWide then s.txns.filter (fun u => u.grp == t.grp && u.id != t.id && u.home == t.home && !u.performed && u.op.isWide)
  else []

/-- A home performs an access, and with it, indivisibly, what else of a VLD or VST lies there (R354). -/
def State.performWhole (s : State) (t : Txn) : State :=
  let rest := s.siblings t
  if rest.any (fun u => s.lineHeld u.home (linesOf u.key u.n) u.region) then s
  else
    let s' := s.performMemory t
    if (s'.txn? t.id).any (·.performed) then rest.foldl State.performMemory s' else s'

/-! ## Answers -/

/-- The value of n little-endian bytes as a load writes it. -/
def loadValue (signed : Bool) (n : Nat) (bs : List Byte) : Word :=
  if signed then BitVec.ofInt 64 (sextNat (8 * n) (bytesNat bs)) else BitVec.ofNat 64 (bytesNat bs)

/-- The value that an answer brings to a register. -/
def Txn.result (t : Txn) : Word :=
  match t.op with
  | .load signed => loadValue signed t.n t.bytes
  | .amo _ _ _ _ => loadValue true t.n t.bytes
  | .tkarm | .tksig => if t.refused then Word.minusOne else t.value
  | _ => t.value

/-- The lanes that a part of a vector load brings: from lane first on, where active (R351, R354). -/
def fillLanes (v : Vec) (first : Nat) (active : BitVec 128) (n : Nat) (bs : List Byte) : Vec :=
  (List.range (n / 4)).foldl (fun (v : Vec) i =>
    if active.getLsbD (first + i) then
      Tbl.set 0 v (first + i) (BitVec.ofNat 32 (bytesNat ((bs.drop (4 * i)).take 4)))
    else v) v

/-- An answer written into its register with its poison mark (R78, R171). -/
def Ctx.take (c : Ctx) (t : Txn) : Ctx :=
  match t.dst with
  | .none => c
  | .w n => c.putW n t.result t.bad
  | .v n =>
    match t.op with
    | .vload first active =>
      c.putV n (fillLanes (c.getV n) first active t.n t.bytes) (Tbl.get false c.vbad n || t.bad)
    | _ => c

/-- The answer of a request that its context awaits (R161). -/
def Ctx.hear (c : Ctx) (id : Nat) (x : Word) : Ctx := if c.await = some id then { c with answer := some x } else c

/-- An access's answer reaches its context, if that still runs the activation, and the access is gone (R78). -/
def State.respond (s : State) (t : Txn) : State :=
  let c := s.ctx t.ctx
  let s := if c.actId = t.act then s.setCtx t.ctx ((c.take t).hear t.id t.result) else s
  s.finishTxn t

/-- The values that an answer brings are those of a load: the operations that LOAD_RESPONSE ends. -/
def TxnOp.returns : TxnOp → Bool
  | .load _ => true
  | .vload _ _ => true
  | .amo _ _ r _ => r
  | .barrier _ _ => true
  | .walk _ _ _ _ _ => true
  | _ => false

/-- A context whose instruction awaits an answer already asked for: the instruction goes on when it has come (R161). -/
def State.awaiting (s : State) (first : State → Out) (done : State → Word → Out) : Out :=
  let c := s.ctx s.cur
  match c.await, c.answer with
  | none, _ => first s
  | some _, none => s.stall
  | some _, some x => done (s.setCtx s.cur { c with await := none, answer := none }) x

end Sys2Proof.Machine
end

