-- ==== Sys2Proof/Machine/Integer.lean ====
section
/-!
DEFINITION. Sys2Proof/Machine/Integer.lean: the integer groups (R278, R279), LI and LIS (R313), and their 16-bit forms (R254).
-/

namespace Sys2Proof.Machine

/-! ## Shapes -/

/-- What an operation of two registers needs. -/
def need2 (d a b : Nat) : Need := { reads := [a, b], writes := [d] }

/-- What an operation of one register needs. -/
def need1 (d a : Nat) : Need := { reads := [a], writes := [d] }

/-- wd := f wa wb. -/
def State.alu2 (s : State) (len d a b : Nat) (f : Word → Word → Word) : Out :=
  s.issue (need2 d a b) (fun s => .next (s.result len d (f ((s.ctx s.cur).getW a) ((s.ctx s.cur).getW b))))

/-- wd := f wa. -/
def State.alu1 (s : State) (len d a : Nat) (f : Word → Word) : Out :=
  s.issue (need1 d a) (fun s => .next (s.result len d (f ((s.ctx s.cur).getW a))))

/-- wd := a constant. -/
def State.alu0 (s : State) (len d : Nat) (x : Word) : Out :=
  s.issue { writes := [d] } (fun s => .next (s.result len d x))

/-- sext(imm12, 12) (R247). -/
def immS (i : BitVec 12) : Word := i.signExtend 64

/-- A shift count: b[5:0] (R278). -/
def shiftCount (b : Word) : Nat := b.toNat % 64

/-! ## Register group (R278) -/

def execAdd (d a b : BitVec 6) (s : State) : Out := s.alu2 4 d.toNat a.toNat b.toNat (fun x y => x + y)
def execSub (d a b : BitVec 6) (s : State) : Out := s.alu2 4 d.toNat a.toNat b.toNat (fun x y => x - y)
def execAnd (d a b : BitVec 6) (s : State) : Out := s.alu2 4 d.toNat a.toNat b.toNat (fun x y => x &&& y)
def execOr (d a b : BitVec 6) (s : State) : Out := s.alu2 4 d.toNat a.toNat b.toNat (fun x y => x ||| y)
def execXor (d a b : BitVec 6) (s : State) : Out := s.alu2 4 d.toNat a.toNat b.toNat (fun x y => x ^^^ y)
def execShl (d a b : BitVec 6) (s : State) : Out := s.alu2 4 d.toNat a.toNat b.toNat (fun x y => x <<< shiftCount y)
def execShr (d a b : BitVec 6) (s : State) : Out := s.alu2 4 d.toNat a.toNat b.toNat (fun x y => x >>> shiftCount y)
def execSha (d a b : BitVec 6) (s : State) : Out := s.alu2 4 d.toNat a.toNat b.toNat (fun x y => x.sshiftRight (shiftCount y))
def execMin (d a b : BitVec 6) (s : State) : Out := s.alu2 4 d.toNat a.toNat b.toNat (minBy lessS)
def execMax (d a b : BitVec 6) (s : State) : Out := s.alu2 4 d.toNat a.toNat b.toNat (maxBy lessS)
def execMinu (d a b : BitVec 6) (s : State) : Out := s.alu2 4 d.toNat a.toNat b.toNat (minBy lessU)
def execMaxu (d a b : BitVec 6) (s : State) : Out := s.alu2 4 d.toNat a.toNat b.toNat (maxBy lessU)
def execSeq (d a b : BitVec 6) (s : State) : Out := s.alu2 4 d.toNat a.toNat b.toNat (fun x y => condWord (x == y))
def execSne (d a b : BitVec 6) (s : State) : Out := s.alu2 4 d.toNat a.toNat b.toNat (fun x y => condWord (x != y))
def execSlt (d a b : BitVec 6) (s : State) : Out := s.alu2 4 d.toNat a.toNat b.toNat (fun x y => condWord (lessS x y))
def execSltu (d a b : BitVec 6) (s : State) : Out := s.alu2 4 d.toNat a.toNat b.toNat (fun x y => condWord (lessU x y))
def execMul (d a b : BitVec 6) (s : State) : Out := s.alu2 4 d.toNat a.toNat b.toNat (fun x y => x * y)
def execMulh (d a b : BitVec 6) (s : State) : Out := s.alu2 4 d.toNat a.toNat b.toNat mulHighS
def execMulhu (d a b : BitVec 6) (s : State) : Out := s.alu2 4 d.toNat a.toNat b.toNat mulHighU
def execDiv (d a b : BitVec 6) (s : State) : Out := s.alu2 4 d.toNat a.toNat b.toNat divS
def execDivu (d a b : BitVec 6) (s : State) : Out := s.alu2 4 d.toNat a.toNat b.toNat divU
def execRem (d a b : BitVec 6) (s : State) : Out := s.alu2 4 d.toNat a.toNat b.toNat remS
def execRemu (d a b : BitVec 6) (s : State) : Out := s.alu2 4 d.toNat a.toNat b.toNat remU

/-- SEL reads wd, and keeps it where wa is zero. -/
def execSel (d a b : BitVec 6) (s : State) : Out :=
  s.issue { reads := [a.toNat, b.toNat, d.toNat], writes := [d.toNat] } (fun s =>
    .next (s.result 4 d.toNat (if s.reg a ≠ 0 then s.reg b else s.reg d)))

def execClz (d a : BitVec 6) (s : State) : Out := s.alu1 4 d.toNat a.toNat (fun x => BitVec.ofNat 64 (leadingZeros x))
def execPopc (d a : BitVec 6) (s : State) : Out := s.alu1 4 d.toNat a.toNat (fun x => BitVec.ofNat 64 (countOnes x.toNat 64))
def execExtsB (d a : BitVec 6) (s : State) : Out := s.alu1 4 d.toNat a.toNat (extS 8)
def execExtsH (d a : BitVec 6) (s : State) : Out := s.alu1 4 d.toNat a.toNat (extS 16)
def execExtsW (d a : BitVec 6) (s : State) : Out := s.alu1 4 d.toNat a.toNat (extS 32)
def execExtzB (d a : BitVec 6) (s : State) : Out := s.alu1 4 d.toNat a.toNat (extZ 8)
def execExtzH (d a : BitVec 6) (s : State) : Out := s.alu1 4 d.toNat a.toNat (extZ 16)
def execExtzW (d a : BitVec 6) (s : State) : Out := s.alu1 4 d.toNat a.toNat (extZ 32)

/-! ## Immediate group (R279) -/

def execAddi (d a : BitVec 6) (i : BitVec 12) (s : State) : Out := s.alu1 4 d.toNat a.toNat (fun x => x + immS i)
def execAndi (d a : BitVec 6) (i : BitVec 12) (s : State) : Out := s.alu1 4 d.toNat a.toNat (fun x => x &&& immS i)
def execOri (d a : BitVec 6) (i : BitVec 12) (s : State) : Out := s.alu1 4 d.toNat a.toNat (fun x => x ||| immS i)
def execXori (d a : BitVec 6) (i : BitVec 12) (s : State) : Out := s.alu1 4 d.toNat a.toNat (fun x => x ^^^ immS i)
def execSlti (d a : BitVec 6) (i : BitVec 12) (s : State) : Out := s.alu1 4 d.toNat a.toNat (fun x => condWord (lessS x (immS i)))
def execSltiu (d a : BitVec 6) (i : BitVec 12) (s : State) : Out := s.alu1 4 d.toNat a.toNat (fun x => condWord (lessU x (immS i)))
def execShli (d a i : BitVec 6) (s : State) : Out := s.alu1 4 d.toNat a.toNat (fun x => x <<< i.toNat)
def execShri (d a i : BitVec 6) (s : State) : Out := s.alu1 4 d.toNat a.toNat (fun x => x >>> i.toNat)
def execShai (d a i : BitVec 6) (s : State) : Out := s.alu1 4 d.toNat a.toNat (fun x => x.sshiftRight i.toNat)

/-! ## LI and LIS (R313) -/

def execLi (d : BitVec 6) (i : BitVec 18) (s : State) : Out := s.alu0 4 d.toNat (i.signExtend 64)

def execLis (d : BitVec 6) (i : BitVec 18) (s : State) : Out :=
  s.alu1 4 d.toNat d.toNat (fun x => (x <<< 18) ||| i.setWidth 64)

/-! ## The 16-bit forms (R254, R255) -/

def execCHint (s : State) : Out := s.issue {} (fun s => .next (s.skip 2))
def execCMov (d a : BitVec 4) (s : State) : Out := s.alu2 2 d.toNat a.toNat 0 (fun x y => x + y)
def execCAdd (d a : BitVec 4) (s : State) : Out := s.alu2 2 d.toNat d.toNat a.toNat (fun x y => x + y)
def execCSub (d a : BitVec 4) (s : State) : Out := s.alu2 2 d.toNat d.toNat a.toNat (fun x y => x - y)
def execCAnd (d a : BitVec 4) (s : State) : Out := s.alu2 2 d.toNat d.toNat a.toNat (fun x y => x &&& y)
def execCAddi (d : BitVec 4) (i : BitVec 7) (s : State) : Out := s.alu1 2 d.toNat d.toNat (fun x => x + i.signExtend 64)
def execCLi (d : BitVec 4) (i : BitVec 7) (s : State) : Out := s.alu0 2 d.toNat (i.signExtend 64)
def execCShli (d : BitVec 4) (n : BitVec 5) (s : State) : Out := s.alu1 2 d.toNat d.toNat (fun x => x <<< n.toNat)

end Sys2Proof.Machine
end

