-- ==== Sys2Proof/Machine/Worklist.lean ====
section
/-!
DEFINITION. Sys2Proof/Machine/Worklist.lean: deques and the Stacks (R98 to R100), the floor (R101), WLPUSH (R268), WLPOP and
WLFLOOR (R358, R359), TKARM and TKSIG (R341).
-/

namespace Sys2Proof

/-! ## Task records (R98) -/

def TaskRec.bucket (r : TaskRec) : Nat := Machine.Word.field r.dword1 0 32

def TaskRec.keep (r : TaskRec) : Bool := Machine.Word.field r.dword1 48 1 == 1

def TaskRec.isReleased (r : TaskRec) : Bool := Machine.Word.field r.dword1 49 1 == 1

def TaskRec.handler (r : TaskRec) : Nat := Machine.Word.field r.header 0 12

def TaskRec.depth (r : TaskRec) : Nat := Machine.Word.field r.header 18 3

/-- The four dwords of a record. -/
def TaskRec.dwords (r : TaskRec) : List Word := [r.header, r.dword1, r.arg0, r.arg1]

end Sys2Proof

namespace Sys2Proof.Machine

/-- A record's header as push writes it: kind 1, payload 2, source and launch tag (R98, R268). -/
def pushHeader (h : Word) (source tag : Nat) : Word :=
  headerWord source tag 1 (Word.field h 18 3) 2 (Word.field h 0 12)

/-- Whether a record's handler may run on a core. -/
def State.recordAllows (s : State) (tag : Nat) (r : TaskRec) (role : Nat) : Bool :=
  match s.handler? tag r.handler with
  | some h => roleAllows h.role role
  | none => false

/-- The deque of a push: the pushing core's, or the first core of its tile that the handler's role allows (R98). -/
def State.pushTarget (s : State) (core tag : Nat) (r : TaskRec) : Nat :=
  if s.recordAllows tag r (core % 4) then core
  else
    match (List.range 3).find? (s.recordAllows tag r) with
    | some role => core / 4 * 4 + role
    | none => core

/-! ## The Stacks (R100) -/

/-- The chunks of a launch's Stacks: 256 bytes each, the size in MiB, 0 meaning 64. -/
def Launch.stackChunks (l : Launch) : Nat :=
  (if l.field 12 0 32 = 0 then 64 else l.field 12 0 32) * 4096

/-- The chunks in use by the cores of a launch, a partial chunk counting whole. -/
def State.chunksUsed (s : State) (l : Launch) : Nat :=
  (l.agents.map (fun a => (s.core a).chunks.length + ((s.core a).gathered.length + 7) / 8)).sum

/-- The 64 MiB that the Stacks take, the last perhaps in part. -/
def Launch.stackPages (l : Launch) : Nat := (l.stackChunks + 262143) / 262144

/-- The physical address of a chunk of the Stacks, none before the first dispatch. -/
def Launch.chunkAt (l : Launch) (p : Nat) : Option Nat := (l.stackBlocks[p / 262144]?).map (fun b => b + p % 262144 * 256)

/-- The lowest place that no chunk of the launch has. -/
def State.freePlace (s : State) (l : Launch) : Nat :=
  let used := l.agents.flatMap (fun a => (s.core a).chunks.filterMap (fun k => k.place))
  ((List.range (used.length + 1)).find? (fun p => !used.contains p)).getD 0

/-- Whether the Stacks have room for another chunk. -/
def State.stacksFree (s : State) (tag : Nat) : Bool :=
  match s.launch? tag with
  | some l => decide (s.chunksUsed l < l.stackChunks)
  | none => false

/-- The lowest bucket of records; 2^32 for none. -/
def lowestBucket (rs : List TaskRec) : Nat := rs.foldl (fun n r => min n r.bucket) 0x100000000

def chunkOf (rs : List TaskRec) : Chunk := { stamp := lowestBucket rs, recs := rs }

/-- A chunk's records written at its place, 32 bytes each, under the key of the launch's world. -/
def State.writeChunk (s : State) (tag : Nat) (k : Chunk) : State :=
  match (s.launch? tag).bind (fun l => (k.place.bind l.chunkAt).map (fun a => (l, a))) with
  | some (l, a) =>
    s.writeList (s.worldKeyOf l) a false (k.recs.flatMap (fun r => r.dwords.flatMap (fun w => natBytes 8 w.toNat)))
  | none => s

def State.writeChunks (s : State) (tag : Nat) (ks : List Chunk) : State := ks.foldl (fun (s : State) k => s.writeChunk tag k) s

/-- Records that go to a core's list as a chunk, at the lowest free place. -/
def State.keepChunk (s : State) (core tag : Nat) (rs : List TaskRec) : State :=
  let k := { chunkOf rs with place := (s.launch? tag).map s.freePlace }
  (s.setCore core { s.core core with chunks := (s.core core).chunks ++ [k] }).writeChunk tag k

/-- A chunk as its memory holds it when it is read back; what places it in order stays with it (R114). -/
def State.readChunk (s : State) (tag : Nat) (k : Chunk) : List TaskRec :=
  match (s.launch? tag).bind (fun l => (k.place.bind l.chunkAt).map (fun a => (l, a))) with
  | some (l, a) =>
    let word := fun (n : Nat) => BitVec.ofNat 64 (bytesNat (s.readBytes (s.worldKeyOf l) (a + 8 * n) 8))
    (List.zip (List.range k.recs.length) k.recs).map (fun e =>
      { e.2 with header := word (4 * e.1), dword1 := word (4 * e.1 + 1), arg0 := word (4 * e.1 + 2), arg1 := word (4 * e.1 + 3) })
  | none => k.recs

/-- A record gathered at the bank core; eight make a chunk. -/
def State.gather (s : State) (core tag : Nat) (r : TaskRec) : State :=
  let c := s.core core
  let g := c.gathered ++ [r]
  if 8 ≤ g.length then (s.setCore core { c with gathered := g.drop 8 }).keepChunk core tag (g.take 8)
  else s.setCore core { c with gathered := g }

/-- The n records of highest bucket, the oldest first among equals, and the rest. -/
def takeHighest : Nat → List TaskRec → List TaskRec × List TaskRec
  | 0, rs => ([], rs)
  | n + 1, rs =>
    let top := rs.foldl (fun m r => max m r.bucket) 0
    match rs.find? (fun r => r.bucket == top) with
    | none => ([], rs)
    | some r =>
      let (xs, rest) := takeHighest n (rs.erase r)
      (r :: xs, rest)

/-- A deque above 192 records spills a chunk of its 8 highest-bucket records (R100). -/
def State.spill (s : State) (core tag : Nat) : State :=
  let c := s.core core
  if 192 < c.deque.length && s.stacksFree tag then
    let (xs, rest) := takeHighest 8 c.deque
    (s.setCore core { c with deque := rest }).keepChunk core tag (xs.map (fun r => { r with reserve := none }))
  else s

/-! ## Placing a push (R99) -/

/-- Where a push may be placed. -/
inductive Place where
  | stacks
  | general
  | reserved (n : Nat)
  deriving DecidableEq, Repr

def Core.generalUsed (c : Core) : Nat := (c.deque.filter (fun r => r.reserve.isNone)).length

def Core.reserveUsed (c : Core) (n : Nat) : Bool := c.deque.any (fun r => r.reserve == some n)

/-- The first rule of R99 that applies to a push of an activation at a depth, behind the pushes that stalled earlier; those that wait for
the Stacks want no entry of the deque. -/
def State.placeFor (s : State) (core tag depth : Nat) (r : TaskRec) (waiting : List PushWait) : Option Place :=
  let c := s.core core
  let earlier := waiting.filter (fun p => decide (p.record.bucket < c.floor + 64))
  if c.floor + 64 ≤ r.bucket then
    if s.stacksFree tag then some .stacks else none
  else if earlier.isEmpty && decide (c.generalUsed < 248) then some .general
  else if !c.reserveUsed (depth + 1) && !earlier.any (fun p => p.depth == depth) then some (.reserved (depth + 1))
  else none

def State.putRecord (s : State) (core tag : Nat) (r : TaskRec) : Place → State
  | .stacks => s.gather core tag r
  | .general => s.setCore core { s.core core with deque := (s.core core).deque ++ [r] }
  | .reserved n => s.setCore core { s.core core with deque := (s.core core).deque ++ [{ r with reserve := some n }] }

/-- The launch whose tile a core belongs to. -/
def State.tagOfCore (s : State) (core : Nat) : Nat := ((s.tile (core / 4)).launch).getD 0

/-- Whether a core's launch is being cancelled: its tasks are discarded (R48). -/
def State.coreCancelled (s : State) (core : Nat) : Bool :=
  match s.launch? (s.tagOfCore core) with
  | some l => l.cancel.isSome
  | none => false

/-- A push placed, or stalled behind the others of its deque: whether it was placed. The task of a launch that is being cancelled is
discarded. -/
def State.push (s : State) (core : Nat) (ctx : Option Nat) (depth : Nat) (r : TaskRec) (txn : Option Nat := none) : State × Bool :=
  let c := s.core core
  let tag := s.tagOfCore core
  if s.coreCancelled core then (s, true)
  else match s.placeFor core tag depth r c.pushes with
  | some p => ((s.putRecord core tag r p).spill core tag, true)
  | none => (s.setCore core { c with pushes := c.pushes ++ [⟨ctx, depth, r, txn⟩] }, false)

/-- A stalled push that has been placed completes its WLPUSH, or lets the answer of its TKARM or TKSIG go (R341). -/
def State.pushed (s : State) (w : PushWait) : State :=
  let s := match w.ctx with
    | some k => s.setCtx k ((s.ctx k).next 4)
    | none => s
  match w.txn.bind s.txn? with
  | some t => s.respond t
  | none => s

/-- The pushes stalled on a deque placed, oldest first, where a rule now allows (R99). -/
def State.servePushes (s : State) (core : Nat) (earlier : List PushWait) : List PushWait → State
  | [] => s
  | w :: r =>
    let tag := s.tagOfCore core
    if s.coreCancelled core then
      let s := s.setCore core { s.core core with pushes := (s.core core).pushes.erase w }
      (s.pushed w).servePushes core earlier r
    else match s.placeFor core tag w.depth w.record earlier with
    | some p =>
      let s := s.putRecord core tag w.record p
      let s := s.setCore core { s.core core with pushes := (s.core core).pushes.erase w }
      (s.pushed w).servePushes core earlier r
    | none => s.servePushes core (earlier ++ [w]) r

/-- Spills of a deque and the pushes that they let in, by turns (R99, R100). -/
def State.spillServe (s : State) (core : Nat) : Nat → State
  | 0 => s
  | n + 1 =>
    let s' := (s.servePushes core [] (s.core core).pushes).spill core (s.tagOfCore core)
    if s' = s then s else s'.spillServe core n

/-- A deque after an entry has gone, or the Stacks after a chunk has been freed: stalled pushes are placed. -/
def State.afterTake (s : State) (core : Nat) : State := s.spillServe core 40

/-! ## The floor (R101) -/

/-- The records that a core holds, and its pushes not yet placed. -/
def Core.records (c : Core) : List TaskRec :=
  c.deque ++ c.gathered ++ c.chunks.flatMap (fun k => k.recs) ++ c.pushes.map (fun p => p.record) ++
    (match c.stealAnswer with | some (some r) => [r] | _ => [])

/-- The bucket of a running task whose region is uncommitted, one that restarts after an abort among them (R101, R104); 2^32
otherwise. -/
def Ctx.heldBucket (c : Ctx) : Nat :=
  match c.act with
  | some a =>
    if (c.region.isSome || c.restarting) && Word.field a.header 21 3 == 1 && a.ttq.isNone then a.bucket else 0x100000000
  | none => 0x100000000

/-- The lowest bucket of a launch's records on this package; 2^32 when there is none. -/
def State.trueFloor (s : State) (tag : Nat) (l : Launch) : Nat :=
  let records := lowestBucket (l.agents.flatMap (fun a => (s.core a).records))
  let flying := lowestBucket (s.txns.filterMap (fun t =>
    if (s.ctx t.ctx).launch = tag then t.released else none))
  let held := (l.ctxKeys.map (fun k => let c := s.ctx k; if c.launch = tag then c.heldBucket else 0x100000000)).foldl min 0x100000000
  min records (min flying held)

/-! ## The record of a WLPUSH -/

/-- The four dwords of 32 bytes. -/
def dwordsOf (n : Nat) (bs : List Byte) : List Word :=
  (List.range n).map (fun i => BitVec.ofNat 64 (bytesNat ((bs.drop (8 * i)).take 8)))

/-- A record as the next push of a core stamps it (R114, R268). -/
def State.stamp (s : State) (source tag : Nat) (d : List Word) : TaskRec :=
  { header := pushHeader (nth 0 d 0) source tag, dword1 := nth 0 d 1 &&& 0x0001FFFFFFFFFFFF, arg0 := nth 0 d 2,
    arg1 := nth 0 d 3, seq := s.pushSeq, pkg := s.package }

/-- WLPUSH: a release at domain scope, the record read, then placed; the context stalls until it is (R268). -/
def execWlpush (a : BitVec 6) (s : State) : Out :=
  s.issue { reads := [a.toNat] } (fun s =>
    if s.cores.any (fun e => e.2.pushes.any (fun p => p.ctx == some s.cur)) then s.stall
    else s.irrevocably (fun s =>
      if s.gated true then s.waitGate
      else if !(s.outstanding s.cur 4).isEmpty then s.stall
      else s.readRecord (s.reg a) 32 8 (fun bs s =>
        let c := s.ctx s.cur
        let r := s.stamp (s.placeOf (coreOf s.cur)) c.launch (dwordsOf 4 bs)
        if (s.handler? c.launch r.handler).isNone then s.trap 0xB 0
        else
          let core := s.pushTarget (coreOf s.cur) c.launch r
          let depth := match c.act with | some x => Word.field x.header 18 3 | none => 0
          let (s, placed) := { s with pushSeq := s.pushSeq + 1 }.push core (some s.cur) depth r
          if placed then .next (s.skip 4) else s.stall)))

def execWlfloor (d : BitVec 6) (s : State) : Out :=
  s.issue { writes := [d.toNat] } (fun s => .next (s.result 4 d.toNat (BitVec.ofNat 64 (s.core (coreOf s.cur)).floor)))

/-- The launch's bound Δ (R95, R102). -/
def State.delta (s : State) (tag : Nat) : Nat := match s.launch? tag with | some l => l.field 5 24 6 | none => 0

/-- The record that a core takes of its own deque: in bound, satisfying a condition, the lowest bucket, newest first
(R102). -/
def pickNewest (bound : Nat) (ok : TaskRec → Bool) : List TaskRec → Option TaskRec
  | [] => none
  | r :: rs =>
    match pickNewest bound ok rs with
    | some x => if ok r && decide (r.bucket ≤ bound) && decide (r.bucket < x.bucket) then some r else some x
    | none => if ok r && decide (r.bucket ≤ bound) then some r else none

/-- The record that a core gives a thief: in bound, satisfying a condition, the lowest bucket, oldest first. -/
def pickOldest (bound : Nat) (ok : TaskRec → Bool) : List TaskRec → Option TaskRec
  | [] => none
  | r :: rs =>
    match pickOldest bound ok rs with
    | some x => if ok r && decide (r.bucket ≤ bound) && decide (r.bucket ≤ x.bucket) then some r else some x
    | none => if ok r && decide (r.bucket ≤ bound) then some r else none

/-- The highest bucket that a core may dispatch now (R102). -/
def State.bound (s : State) (core tag : Nat) : Nat := (s.core core).floor + s.delta tag

/-- A record removed from a deque; stalled pushes take its entry. -/
def State.takeRecord (s : State) (core : Nat) (r : TaskRec) : State :=
  (s.setCore core { s.core core with deque := (s.core core).deque.erase r, workedAt := s.cycle }).afterTake core

/-- A record taken from the core's own deque and stored as four doublewords at parts that have passed their checks. -/
def State.popRecord (s : State) (d : Nat) (va : Word) (ps : List Part) : Out :=
  let core := coreOf s.cur
  let tag := (s.ctx s.cur).launch
  match pickNewest (s.bound core tag) (fun r => !r.isReleased && s.recordAllows tag r (core % 4)) (s.core core).deque with
  | none => .next (s.result 4 d Word.minusOne)
  | some r =>
    if s.msgHeld (ps.map (·.home)) || s.storesFull 4 then s.stall
    else .next (((s.takeRecord core r).sendDwords va ps 0 r.dwords).result 4 d 0)

/-- WLPOP (R359): its stores are no region accesses (R117, R118), so they may have homes in any package. -/
def execWlpop (d a : BitVec 6) (s : State) : Out :=
  s.issue (need1 d.toNat a.toNat) (fun s =>
    if s.gated true then s.waitGate
    else if (s.reg a).toNat % 8 ≠ 0 then s.trapAt s.cur 6 0 (s.reg a) none
    else
      match s.locateDwords .store false (s.reg a) 0 4 with
      | .error f => s.memTrap f
      | .ok (ps, s) => s.irrevocably (fun s => s.popRecord d.toNat (s.reg a) ps))

/-! ## TKARM and TKSIG (R341) -/

/-- The shared form: checks as a store, irrevocable, for TKSIG a release, then on its way. -/
def State.tcbOp (s : State) (d a : BitVec 6) (op : TxnOp) (release : Bool) : Out :=
  s.issue (need1 d.toNat a.toNat) (fun s => s.access .store (s.reg a) 64 64 true true (fun ps s => s.irrevocably (fun s =>
    let after := if release then s.outstanding s.cur 4 else []
    let s := s.sendAccess (s.reg a) ps (fun _ => op) (dstW d.toNat) after true true
    .next ((s.holdCur [] after).skip 4))) (inPackage := false))

def execTkarm (d a : BitVec 6) (s : State) : Out := s.tcbOp d a .tkarm false

def execTksig (d a : BitVec 6) (s : State) : Out := s.tcbOp d a .tksig true

end Sys2Proof.Machine
end

