-- ==== Sys2Proof/Machine/Messages.lean ====
section
/-!
DEFINITION. Sys2Proof/Machine/Messages.lean: SEND and SENDV (R23 to R27, R40, R334), HRET (R32, R107, R302) and its 16-bit form.
-/

namespace Sys2Proof.Machine

/-! ## Places (R23 to R25) -/

/-- Whether a physical place is valid (R23). -/
def State.validPlace (s : State) (p : Nat) : Bool :=
  let unit := field p 2 10
  let role := field p 0 2
  decide (field p 12 9 < s.packages) &&
    (isTile unit || ((decide (512 ≤ unit) && decide (unit ≤ 767)) || isSteward unit) && role == 0)

/-- The agent of this package that a place operand names, and its package; none where R24 raises MSG_PLACE. -/
def State.resolvePlace (s : State) (k : Nat) (w : Word) : Option (Nat × Nat) :=
  if Word.field w 63 1 = 1 then
    let p := Word.field w 0 21
    if Word.field w 21 42 ≠ 0 || !s.validPlace p then none else some (field p 12 9, field p 0 12)
  else
    match s.launchOf k with
    | none => none
    | some l =>
      let g := Word.field w 16 16
      let t := Word.field w 2 14
      if Word.field w 32 31 ≠ 0 || l.groups ≤ g || l.groupTiles ≤ t then none
      else
        match l.units[g * l.groupTiles + t]? with
        | some u => some (s.package, agentKey u (Word.field w 0 2))
        | none => none

/-- Whether a handler of the launch may run at a role: its declared role does not exclude it (R25). -/
def State.handlerAllows (s : State) (tag h role : Nat) : Bool :=
  match s.handler? tag h with
  | some e => role == 3 || roleAllows e.role role
  | none => false

/-- The privilege check of R27, step 1. -/
def sendPriv (level : Level) (h place : Word) : Bool :=
  let kind := Word.field h 21 3
  (decide (1 ≤ kind) && decide (kind ≤ 6)) || (level == .h && (kind == 7 || Word.field place 63 1 == 1))

/-- The capacity of a ring for a message of a depth (R40). -/
def capacity (ring depth : Nat) : Nat := ring - 3640 + (if depth ≥ 1 then 520 else 0)

/-- The bytes of a message: header and payload. -/
def messageBytes (words : List Word) : Nat := 8 * words.length

/-- Whether an earlier access of the current context to a tile's scratchpad holds a message to that tile (R76): a load that has not
returned, a store or atomic not yet acknowledged, or a block read that has not read there (R75). -/
def State.accessHeld (s : State) (u : Nat) : Bool :=
  s.txns.any (fun t => t.ctx == s.cur && t.home == .tile u && t.op.isMemory) ||
    s.blks.any (fun b => b.ctx == s.cur && b.parts.any (fun p => p.home == some (.tile u) && p.got.isNone))

/-- The inbox ring's size at a destination: that of the launch which holds the tile; the largest where this package does not know it (log
entry 76). -/
def State.ringOf (s : State) (pkg dest : Nat) : Nat :=
  if pkg = s.package then (match (s.tile (dest / 4)).launch.bind s.launch? with | some l => l.ringSize | none => 65536) else 65536

/-- The message of a SEND or SENDV with its header, place and payload read, once its checks of privilege and size have
passed. -/
def State.sendTo (s : State) (h place : Word) (payload : Nat) (words : State → List Word) (need : Need) : Out :=
  let tag := (s.ctx s.cur).launch
  match s.resolvePlace s.cur place with
  | none => s.trap 0xB 0
  | some (pkg, dest) =>
    if (s.level s.cur).rank = 0 && !s.handlerAllows tag (Word.field h 0 12) (dest % 4) then s.trap 0xB 0
    else s.issue need (fun s =>
      let depth := Word.field h 18 3
      let tile := isTile (dest / 4)
      if tile && decide (capacity (s.ringOf pkg dest) depth < 8 * (1 + payload)) then s.trap 0xA 0
      else s.irrevocably (fun s =>
        if s.gated true then s.waitGate
        else if (tile && pkg == s.package && s.accessHeld (dest / 4)) || s.full false true then s.stall
        else
          let c := s.ctx s.cur
          let head := headerWord (s.placeOf (coreOf s.cur)) tag (Word.field h 21 3) depth (Word.field h 12 6) (Word.field h 0 12)
          let s := s.post (some s.cur) c.actId (if pkg = s.package then dest else dest + 4096 * (pkg + 1)) tag (head :: words s)
          .next ((s.setCtx s.cur ((s.ctx s.cur).raise false true)).skip 4)))

/-- SEND: the payload is w8, w9 and so on (R334). -/
def execSend (a b : BitVec 6) (s : State) : Out :=
  s.issueOn { reads := [a.toNat, b.toNat] } [a.toNat, b.toNat] (fun s f => sendPriv (s.level s.cur) (f b.toNat) (f a.toNat))
      (fun _ _ => false) (fun s =>
    let h := s.reg b
    let n := Word.field h 12 6
    if 32 < n || Word.field h 61 3 ≠ 0 then s.trap 0xA 0
    else
      let rs := (List.range n).map (· + 8)
      s.sendTo h (s.reg a) n (fun s => rs.map (s.ctx s.cur).getW) { reads := rs })

/-- The 64 doublewords of a vector, lane 0 first. -/
def vecDwords (v : Vec) : List Word := (List.range 64).map (fun i => v.lane (2 * i + 1) ++ v.lane (2 * i))

/-- SENDV: d names the register that holds the header (R334). -/
def execSendv (d a : BitVec 6) (v : BitVec 5) (s : State) : Out :=
  s.issueOn { reads := [a.toNat, d.toNat], vreads := [v.toNat] } [a.toNat, d.toNat]
      (fun s f => sendPriv (s.level s.cur) (f d.toNat) (f a.toNat)) (fun _ _ => false) (fun s =>
    let h := s.reg d
    if Word.field h 12 6 ≠ 0 || Word.field h 61 3 ≠ 0 then s.trap 0xA 0
    else if Tbl.get false (s.ctx s.cur).vbad v.toNat then s.trap 0x14 0
    else s.sendTo h (s.reg a) 64 (fun s => vecDwords ((s.ctx s.cur).getV v.toNat)) {})

/-! ## HRET (R302) -/

/-- Whether an instruction word is a matrix instruction or OSLD, which HRET does not wait for (R155, R302): primary opcodes 0x50
to 0x55. -/
def isMatrixWord (w : Word32) : Bool := decide (0x50 ≤ w.toNat % 256 / 2) && decide (w.toNat % 256 / 2 ≤ 0x55)

/-- Whether a coprocessor instruction of a context, matrix instructions and OSLD among them, has neither completed nor faulted (R162,
R168, R182). -/
def State.coprocUnderWay (s : State) (k : Nat) : Bool :=
  (s.core (coreOf k)).cring.any (fun e => e.2.used && !e.2.retired && e.2.ctx == numOf k) ||
    s.lates.any (fun l => l.ctx == k && l.act == (s.ctx k).actId)

/-- Whether a vector, conversion or walk instruction of a context has neither completed nor faulted. -/
def State.coprocBusy (s : State) (k : Nat) : Bool :=
  (s.core (coreOf k)).cring.any (fun e => e.2.used && !e.2.retired && e.2.ctx == numOf k && !isMatrixWord e.2.word) ||
    s.lates.any (fun l => l.ctx == k && l.act == (s.ctx k).actId && !isMatrixWord l.record.word)

/-- A byte as the context's own stores still on their way will leave it: what its next access to that home would read (R75). -/
def State.ownByte (s : State) (k kid key : Nat) : Byte :=
  let mine := s.txns.filter (fun t => t.ctx == k && !t.performed && decide (t.key ≤ key) && decide (key < t.key + t.n))
  mine.foldl (fun b t => match t.op with
    | .store bs _ => match bs.find? (fun p => p.1 == key - t.key) with
      | some p => p.2
      | none => b
    | _ => b) (s.readByte kid key)

/-- The mark that goes with it. -/
def State.ownBad (s : State) (k key : Nat) : Bool :=
  let mine := s.txns.filter (fun t => t.ctx == k && !t.performed && decide (t.key ≤ key) && decide (key < t.key + t.n))
  mine.foldl (fun b t => match t.op with
    | .store bs bad => if bs.any (fun p => p.1 == key - t.key) then bad else b
    | _ => b) (Tbl.get false s.bad key)

/-- A doubleword that a core reads at an ended activation's behalf, checked as a load or, of its own TCB, as a store (R342); one that carries a
mark faults (R171). -/
def State.ownDword (s : State) (k : Nat) (a : Access) (va : Word) : Except MemFault (Word × State) :=
  if va.toNat % 8 ≠ 0 then .error ⟨6, 0, va⟩
  else
    match s.locate k a va 8 with
    | .error f => .error f
    | .ok (ps, s) =>
      let bs := ps.flatMap (fun p => (List.range p.len).map (fun i => s.ownByte k p.kid (p.key + i)))
      if ps.any (fun p => (List.range p.len).any (fun i => s.ownBad k (p.key + i))) then .error ⟨0x14, 0, va⟩
      else .ok (BitVec.ofNat 64 (bytesNat bs), s)

/-- A fault of a successor's signal goes to the late-class handler (R342). -/
def State.signalFault (s : State) (k tag : Nat) (f : MemFault) (addr : Word) : State :=
  (s.noteError f).lateClass k tag (trapWord 0x13 f.subcause none f.detail) addr

/-- One TKSIG for a successor, put on its way behind a release (R107). -/
def State.signalOne (s : State) (k tag : Nat) (tcb : Word) (after : List Nat) : State :=
  if tcb.toNat % 64 ≠ 0 then s.signalFault k tag ⟨6, 0, tcb⟩ tcb
  else
    match s.locate k .store tcb 64 with
    | .error f => s.signalFault k tag f tcb
    | .ok (ps, s) =>
      let proto : Txn := { id := s.nextId, ctx := k, act := (s.ctx k).actId, grp := s.nextId, home := .tile 0, op := .tksig,
                           va := tcb, after := after }
      s.putParts proto (fun _ => .tksig) ps

/-- The successors of an array from element i on signalled in order; a fault of the array, which names the array's address, ends nothing
but its element (R342). -/
def State.signalFrom (s : State) (k tag : Nat) (array : Word) (after : List Nat) (i : Nat) : Nat → State
  | 0 => s
  | n + 1 =>
    match s.ownDword k .load (array + BitVec.ofNat 64 (8 * i)) with
    | .error f => (s.signalFault k tag f array).signalFrom k tag array after (i + 1) n
    | .ok (tcb, s) => (s.signalOne k tag tcb after).signalFrom k tag array after (i + 1) n

/-- The end of a released task: its TCB becomes DONE and each successor is signalled, after one release (R107). -/
def State.endTask (s : State) (k : Nat) (tcb : Word) : State :=
  let tag := (s.ctx k).launch
  let after := s.outstanding k 4
  let s := s.tcbState k tcb 3
  match s.ownDword k .store (tcb + 40) with
  | .error f => s.signalFault k tag f tcb
  | .ok (x, s) =>
    match s.ownDword k .store (tcb + 32) with
    | .error f => s.signalFault k tag f tcb
    | .ok (array, s) => s.signalFrom k tag array after 0 (Word.field x 0 16)

/-- The end of a tile task reported to its cluster's scheduler: slots 16 to 23 are freed, and its entry awaits the task's writes
(R110). -/
def State.endTileTask (s : State) (k job : Nat) : State :=
  let u := unitOf k
  let t := s.tile u
  let s := s.setTile u { t with slots := Tbl.clear t.slots 16 24, seals := Tbl.clear t.seals 16 24, slotBad := Tbl.clear t.slotBad 16 24 }
  let ending := s.outstanding k 4 ++ (s.loads.filter (fun l => l.ctx == k)).map (·.id)
  { s with clusters := s.clusters.map (fun (e : Nat × Cluster) => (e.1, { e.2 with table := e.2.table.map (fun (j : EngineJob) =>
      if j.id = job then { j with runner := none, ending := some ending } else j) })) }

/-- The status with which a launch completes: CANCELLED where a cancel has begun, else DONE (R48, R94). -/
def State.endStatus (s : State) (tag : Nat) : Nat :=
  match s.launch? tag with
  | some l => if l.cancel.isSome then 1 else 0
  | none => 0

/-- The end of an activation (R32, R302): a task's TCB and successors, a tile task's report, and the launch where it was the end
handler; then the context rests. -/
def State.endActivation (s : State) (k : Nat) : State :=
  let c := s.ctx k
  match c.act with
  | none => s.rest k
  | some a =>
    let s := match a.tcb with
      | some t => s.endTask k t
      | none => s
    let s := match a.ttq with
      | some j => s.endTileTask k j
      | none => s
    let s := s.rest k
    if a.endHandler then s.endLaunch c.launch (s.endStatus c.launch) "" else s

/-- Whether a region holds a line of n bytes from an address that a core reads or writes of itself (R130). -/
def State.bytesHeld (s : State) (k : Nat) (a : Access) (va : Word) (n : Nat) : Bool :=
  match s.locate k a va n with
  | .ok (ps, _) => ps.any (fun p => s.lineHeld p.home (linesOf p.key p.len) none)
  | .error _ => false

/-- Whether a region holds the line of the TCB of a context's task, or one of its array of successors: its end waits at the home (R130, R342). -/
def State.tcbHeld (s : State) (k : Nat) : Bool :=
  match (s.ctx k).act.bind (·.tcb) with
  | none => false
  | some t =>
    s.bytesHeld k .store t 64 ||
      (match s.ownDword k .store (t + 40), s.ownDword k .store (t + 32) with
       | .ok (x, _), .ok (array, _) => (List.range (Word.field x 0 16)).any (fun i => s.bytesHeld k .load (array + BitVec.ofNat 64 (8 * i)) 8)
       | _, _ => false)

/-- HRET waits for loads and for vector, conversion and walk instructions, then ends the activation. -/
def State.hretBody (s : State) : Out :=
  let c := s.ctx s.cur
  if c.region.isSome then s.trap 0xE 0
  else if c.ld ≠ 0 || s.coprocBusy s.cur || s.tcbHeld s.cur then s.stall
  else .next (s.endActivation s.cur)

def State.hret (s : State) : Out := s.issue {} State.hretBody

def execHret (s : State) : Out := s.hret

def execCHret (s : State) : Out := s.hret

end Sys2Proof.Machine
end

