-- ==== Sys2Proof/Machine/Slots.lean ====
section
/-!
DEFINITION. Sys2Proof/Machine/Slots.lean: operand slots (R61 to R65): OSCLAIM and OSREL (R322), OSLD and the completion of its
load (R323, R324, R199), and the images of tiles (R62).
-/

namespace Sys2Proof.Machine

/-! ## Tags -/

def slotTag (t : Tile) (n : Nat) : SlotTag := Tbl.get {} t.slots n

/-- The slots of a format's group: none for a code that names no tile format (R62). -/
def groupWidth (format : Nat) : Nat :=
  if format = 3 || format = 4 || format = 6 || format = 7 then 1
  else if format = 1 || format = 2 then 2
  else if format = 0 || format = 8 then 4
  else 0

/-- Whether the current context's launch enables tile tasks (R64). -/
def State.tileTasksOn (s : State) : Bool := ((s.launchOf s.cur).map Launch.tileTasks).getD false

/-- A tile with a slot's tag written. -/
def Tile.setTag (t : Tile) (n : Nat) (g : SlotTag) : Tile := { t with slots := Tbl.set {} t.slots n g, slotBad := Tbl.erase t.slotBad n }

/-- The slots from one on tagged as one group. -/
def tagGroup (t : Tile) (first n : Nat) (state : SlotState) (format : Nat) (sealed : Bool) : Tile :=
  (List.range n).foldl (fun (t : Tile) i => t.setTag (first + i) ⟨state, format, sealed, i, n⟩) t

/-- The first slots that an engine entry names (R145, R147). -/
def MatEntry.names (t : Tile) (e : MatEntry) : List Nat :=
  match e.op with
  | .mwld n => [n]
  | .mma _ n _ shape => if 128 < Word.field shape 0 9 then [n, n + (slotTag t n).width] else [n]
  | _ => []

/-- Whether a queued engine entry is still to read a slot (R63). -/
def Tile.slotQueued (t : Tile) (n : Nat) : Bool :=
  t.engine.any (fun (e : MatEntry) => (e.names t).any (fun f => decide (f ≤ n) && decide (n < f + (slotTag t f).width)))

/-- Whether a first slot's group is free for a claim. -/
def Tile.groupFree (t : Tile) (first n : Nat) : Bool :=
  (List.range n).all (fun i => (slotTag t (first + i)).state == .free && !t.slotQueued (first + i))

/-- OSCLAIM (R322). -/
def execOsclaim (d a : BitVec 6) (s : State) : Out :=
  s.issue { unit := .matrix, reads := [a.toNat], writes := [d.toNat] } (fun s =>
    let n := (s.reg a).toNat
    if n ≠ 1 && n ≠ 2 && n ≠ 4 then s.trap 0x17 24
    else s.irrevocably (fun s =>
      let t := s.tile (unitOf s.cur)
      let lim := if s.tileTasksOn then 16 else 24
      match (List.range (lim / n)).find? (fun i => t.groupFree (n * i) n) with
      | none => .next (s.result 4 d.toNat Word.minusOne)
      | some i =>
        let t := tagGroup { t with seals := Tbl.set none t.seals (n * i) none } (n * i) n .claimed 0 false
        .next ((s.setTile (unitOf s.cur) t).result 4 d.toNat (BitVec.ofNat 64 (n * i)))))

/-- Engine entries that still read a group keep its seal record, which the slots discard (R63, R322). -/
def Tile.keepSeal (t : Tile) (n : Nat) : Tile :=
  let kept := fun (e : MatEntry) => if (e.names t).contains n then { e with kept := Tbl.get none t.seals n } else e
  { t with engine := t.engine.map kept, seals := Tbl.set none t.seals n none }

/-- OSREL (R322): the group is FREE and its seal record discarded. A released group keeps its width and format for the engine entries
that read it still (R63); tags do not show them. -/
def execOsrel (a : BitVec 6) (s : State) : Out :=
  s.issue { unit := .matrix, reads := [a.toNat] } (fun s =>
    let n := (s.reg a).toNat
    let t := s.tile (unitOf s.cur)
    let g := slotTag t n
    if 23 < n then s.trap 0x17 24
    else if (s.tileTasksOn && decide (16 ≤ n)) || g.part ≠ 0 || (g.state ≠ .claimed && g.state ≠ .ready) then s.trap 0x17 n
    else s.irrevocably (fun s =>
      let free := fun (t : Tile) i => t.setTag (n + i) { slotTag t (n + i) with state := .free, part := 0 }
      .next ((s.setTile (unitOf s.cur) ((List.range g.width).foldl free (t.keepSeal n))).skip 4)))

/-! ## OSLD at issue (R323) -/

/-- Why OSLD traps at issue: the subcode of SLOT_STATE. -/
def State.osldRefusal (s : State) (w ox2 : Word) : Option Nat :=
  let n := w.toNat
  let f := Word.field ox2 0 4
  let g := slotTag (s.tile (unitOf s.cur)) n
  if 23 < n then some 24
  else if f = 5 || 8 < f then some n
  else if (s.tileTasksOn && decide (16 ≤ n)) || g.part ≠ 0 || (g.state ≠ .claimed && g.state ≠ .ready) ||
      g.width ≠ groupWidth f then some n
  else none

/-- The group of a load LOADING, and the load under way. -/
def State.startLoad (s : State) (slot seq : Nat) (src : Word) : State :=
  let c := s.ctx s.cur
  let t := s.tile (unitOf s.cur)
  let load : SlotLoad := { id := s.nextId, ctx := s.cur, act := c.actId, launch := c.launch, unit := unitOf s.cur,
                           slot := slot, src := src, ox1 := c.getOx 1, ox2 := c.getOx 2, seq := seq, pc := c.pc,
                           word := c.word, region := c.region.map (fun r => (r.slot, r.beginAt)) }
  let g := slotTag t slot
  let s' := s.fresh.setTile (unitOf s.cur) (tagGroup t slot g.width .loading g.format g.sealed)
  { s' with loads := s.loads ++ [load] }

def execOsld (a b : BitVec 6) (s : State) : Out :=
  s.issue { unit := .matrix, reads := [a.toNat, b.toNat] } (fun s =>
    match s.osldRefusal (s.reg a) ((s.ctx s.cur).getOx 2) with
    | some sub => s.trap 0x17 sub
    | none => s.irrevocably (fun s =>
      if s.gated false then s.waitGate
      else if 63 ≤ (s.ctx s.cur).cp then s.stall
      else
        match s.ringTake with
        | none => s.stall
        | some (seq, s) =>
          let s := s.startLoad (s.reg a).toNat seq (s.reg b)
          .next (s.done 4 { s.ctx s.cur with cp := (s.ctx s.cur).cp + 1 })))

/-! ## What a load reads and writes -/

/-- A run of source bytes and where it goes: a position in the group's image, or in the side area. -/
structure Piece where
  va : Nat
  len : Nat
  pos : Nat
  side : Bool

/-- The bytes of a source row in the strided form (R323). -/
def rowBytes (format : Nat) : Nat :=
  if format = 3 || format = 6 then 128
  else if format = 7 then 64
  else if format = 4 then 96
  else if format = 1 || format = 2 then 256
  else 512

def SlotLoad.format (l : SlotLoad) : Nat := Word.field l.ox2 0 4

def SlotLoad.width (l : SlotLoad) : Nat := groupWidth l.format

def SlotLoad.strided (l : SlotLoad) : Bool := Word.field l.ox2 63 1 == 1

def SlotLoad.stride (l : SlotLoad) : Nat := Word.field l.ox2 8 32

/-- The pieces of the image and the scale vector, uncut. -/
def SlotLoad.pieces (l : SlotLoad) : List Piece :=
  let src := l.src.toNat
  let n := l.width * 16384
  if !l.strided then [⟨src, n, 0, false⟩, ⟨src + n, 512, 0, true⟩]
  else
    let rows := (List.range 128).flatMap (fun r =>
      let va := (src + l.stride * r) % 2 ^ 64
      if l.format = 4 then [⟨va, 64, 64 * r, false⟩, ⟨(va + 64) % 2 ^ 64, 32, 8192 + 32 * r, false⟩]
      else [⟨va, rowBytes l.format, rowBytes l.format * r, false⟩])
    rows ++ [⟨l.ox1.toNat, 512, 0, true⟩]

/-- A piece cut where 256-byte blocks of the source end (R55). -/
def Piece.cut (p : Piece) : List Piece :=
  (splitBlocks (p.len / 256 + 2) p.va 0 p.len).map (fun c => ⟨p.va + c.1, c.2, p.pos + c.1, p.side⟩)

/-- The operand-memory key of a position of a group's image, or of its side area (R62). -/
def imageKey (unit first pos : Nat) (side : Bool) : Nat :=
  if side then slotKey unit first (16384 + pos) else slotKey unit (first + pos / 16384) (pos % 16384)

def State.pokeImage (s : State) (unit first pos : Nat) (side : Bool) : List Byte → State
  | [] => s
  | b :: r =>
    let s' := { s with opmem := Tbl.set 0 s.opmem (imageKey unit first pos side) b }
    s'.pokeImage unit first (pos + 1) side r

/-- What a load's reads come to: not yet, a fault with its subcause, detail and address, or done, and whether a page was
sealed. -/
inductive LoadAns where
  | wait
  | fault (s : State) (sub detail : Nat) (addr : Word)
  | done (s : State) (sealed : Bool)

/-- Whether an earlier access of the load's context to a home, or an earlier message to the tile that is the home, is still to be
performed (R75, R324). -/
def State.sourceHeld (s : State) (l : SlotLoad) (h : Home) : Bool :=
  s.txns.any (fun t => t.ctx == l.ctx && t.home == h && decide (t.id < l.id) && !t.performed && t.op.isMemory) ||
    s.blks.any (fun b => b.ctx == l.ctx && b.parts.any (fun p => p.home == some h && decide (p.id < l.id) && p.got.isNone)) ||
    s.msgs.any (fun m => m.ctx == some l.ctx && s.msgHome m == h && decide (m.id < l.id))

/-- The unit that translates a load's source: the matrix unit, in a TLB of its own (R323); a tile task's loads, the tile's engine (R70). -/
def SlotLoad.translator (l : SlotLoad) : Translator := if roleOf l.ctx = 3 then .core else .matrix

/-- The cut pieces read at their homes and written into the group, in order: bytes before a fault stay written (R324). A mark among them is
counted as it is read (R171); a read that leaves the package goes on its plane (R215). -/
def State.readPieces (s : State) (l : SlotLoad) (sealed : Bool) : List Piece → LoadAns
  | [] => .done s sealed
  | p :: r =>
    match s.locateBy l.translator l.ctx .load (BitVec.ofNat 64 p.va) p.len with
    | .error f => .fault (s.noteError f) f.subcause f.detail f.addr
    | .ok (q :: _, s) =>
      if q.sealed && l.strided then .fault s 2 8 (BitVec.ofNat 64 p.va)
      else if s.sourceHeld l q.home || s.homeHeld q.home then .wait
      else
        let t : Txn := { id := l.id, ctx := l.ctx, act := l.act, grp := l.id, home := q.home, op := .load false, key := q.key,
                         n := q.len, kid := q.kid, region := s.liveRegion l.region }
        match (s.sendFor (unitOf l.ctx) q.home q.key q.len none).homeLoad t with
        | .done s bs bad =>
          if bad then .fault (s.logError true) 8 0 (BitVec.ofNat 64 p.va)
          else (s.pokeImage l.unit l.slot p.pos p.side bs).readPieces l (sealed || q.sealed) r
        | _ => .wait
    | .ok ([], s) => .done s sealed

/-- The late fault of a load's fields: OPERAND or MISALIGN, and the address (R323). -/
def SlotLoad.fieldFault (l : SlotLoad) : Option (Nat × Word) :=
  if Word.field l.ox2 40 23 ≠ 0 || Word.field l.ox2 4 4 ≠ 0 then some (4, 0)
  else if !l.strided && l.stride ≠ 0 then some (4, 0)
  else if l.strided && (l.stride % 64 ≠ 0 || decide (l.stride < rowBytes l.format)) then some (4, 0)
  else if l.src.toNat % 64 ≠ 0 then some (3, l.src)
  else if l.strided && l.ox1.toNat % 64 ≠ 0 then some (3, l.ox1)
  else none

/-! ## Sealed units (R197, R199) -/

/-- The offset of a physical address in a sealed region. -/
def SealedRegion.offset? (r : SealedRegion) (pa : Nat) : Option Nat :=
  (r.pages.findIdx? (· == pa / 65536)).map (fun i => i * 65536 + pa % 65536)

/-- The stride of a region's units (R197). -/
def SealedRegion.stride (r : SealedRegion) : Nat := if r.kind = 2 then 4160 else groupWidth r.format * 16384 + 576

/-- The IV of a unit: its index, then 64 zero bits. -/
def unitIv (unit : Nat) : List Byte := natBytes 4 unit ++ List.replicate 8 0

/-- The additional data of a unit: the model's accession number, the unit's index, then kind and format as one number (log entry 7). -/
def unitData (model : Word) (unit kind format : Nat) : List Byte :=
  natBytes 8 model.toNat ++ natBytes 4 unit ++ natBytes 4 (kind * 65536 + format)

/-- A unit's ciphertext and tag under the region's model key. -/
def SealedRegion.close (r : SealedRegion) (unit : Nat) (plain : List Byte) : List Byte × List Byte :=
  gcmSeal (keyBytes r.key 32) (unitIv unit) (unitData r.handle unit r.kind r.format) plain

/-- A unit decrypted under a model key with the additional data of R197: its plaintext, none where the tag fails. -/
def openUnit (key : Nat) (model : Word) (kind format unit : Nat) (cipher tag : List Byte) : Option (List Byte) :=
  gcmOpen (keyBytes key 32) (unitIv unit) (unitData model unit kind format) cipher tag

/-- The key identity that a launch holds for a model: none without its key index (R195). -/
def State.modelKey (s : State) (tag : Nat) (model : Word) : Nat :=
  match (s.launch? tag).bind (fun l => (l.modelKeys.find? (fun e => e.1 == model)).map (·.2)) with
  | some i => Tbl.get 0 s.vault.indices i
  | none => 0

/-- The seal record of a group loaded from a sealed page: the region that holds the source, the unit, and the tag that follows
the unit (R199). A source that is no unit's start names no unit, so that its check fails. -/
def State.sealRecord (s : State) (u : Translator) (k tag : Nat) (src : Word) (n : Nat) : Option SealRec :=
  match s.locateBy u k .load src 1, s.locateBy u k .load (src + BitVec.ofNat 64 n) 16 with
  | .ok (p :: _, _), .ok (q, _) =>
    match s.vault.sealed.find? (fun r => (r.offset? p.key).isSome) with
    | none => none
    | some r =>
      some { tag := q.flatMap (fun x => s.readBytes x.kid x.key x.len), key := s.modelKey tag r.handle, model := r.handle,
             unit := if (r.offset? p.key).getD 0 % r.stride = 0 then (r.offset? p.key).getD 0 / r.stride else r.units }
  | _, _ => none

/-! ## OSLD_COMPLETE -/

/-- Ring entry a is older than entry b (R160). -/
def seqOlder (a b : Nat) : Bool := decide (1 ≤ (b + 65536 - a) % 65536) && decide ((b + 65536 - a) % 65536 ≤ 32767)

/-- Whether the engine of a unit has performed everything issued before a ring entry (R155). -/
def State.engineAt (s : State) (unit seq : Nat) : Bool :=
  !(s.tile unit).engine.any (fun e => seqOlder e.seq seq) && !s.loads.any (fun l => l.unit == unit && seqOlder l.seq seq)

/-- A load that has ended: cp falls (R323). -/
def State.endLoad (s : State) (l : SlotLoad) : State :=
  State.lowerCp { s with loads := s.loads.filter (fun x => x.id != l.id) } l.ctx l.act

/-- A load that has faulted: the group is CLAIMED, and the engine entries that wait for it are broken (R324, R63). -/
def State.failLoad (s : State) (l : SlotLoad) (sub detail : Nat) (addr : Word) : State :=
  let t := s.tile l.unit
  let t := { t with engine := t.engine.map (fun (e : MatEntry) => if (e.names t).contains l.slot then { e with broken := true } else e) }
  let s := s.setTile l.unit (tagGroup { t with seals := Tbl.set none t.seals l.slot none } l.slot l.width .claimed 0 false)
  (s.endLoad l).lateFault l.ctx l.act l.launch ⟨l.pc, l.word, l.seq, sub, detail, addr, none⟩

/-- The bytes of a group that no row of a strided load fills are zero (R323): the end of the one slot of a format whose 128 rows are shorter than
it. -/
def State.zeroGroup (s : State) (l : SlotLoad) : State :=
  if l.strided then
    let filled := if l.format = 4 then 12288 else 128 * rowBytes l.format
    if filled < 16384 then { s with opmem := Tbl.clear s.opmem (slotKey l.unit l.slot filled) (slotKey l.unit l.slot 16384) } else s
  else s

/-- A slot load read, written and made READY in engine order (R323, R155); its faults are late (R324). -/
def State.completeLoad (s : State) (l : SlotLoad) : State :=
  match l.fieldFault with
  | some (sub, addr) => s.failLoad l sub 0 addr
  | none =>
    match (s.zeroGroup l).readPieces l false (l.pieces.flatMap Piece.cut) with
    | .wait => s
    | .fault s sub detail addr => s.failLoad l sub detail addr
    | .done s sealed =>
      let record := if sealed then s.sealRecord l.translator l.ctx l.launch l.src (l.width * 16384 + 512) else none
      let t := s.tile l.unit
      let t := { t with seals := Tbl.set none t.seals l.slot record }
      ((s.setTile l.unit (tagGroup t l.slot l.width .ready l.format sealed)).endLoad l).ringRetire (agentKey l.unit 2) l.seq

def execOsldComplete (op : Nat) (s : State) : Out :=
  match s.loads.find? (fun l => l.id == op) with
  | none => .next s
  | some l => if s.engineAt l.unit l.seq then .next (s.completeLoad l) else .next s

end Sys2Proof.Machine
end

