-- ==== Sys2Proof/Machine/Exceptions.lean ====
section
/-!
DEFINITION. Sys2Proof/Machine/Exceptions.lean: TRAP (R343), BKPT (R286), SVC (R339), late faults (R161, R303), the folio written and
the trap delivered (R162, R166), CTXRES (R167, R295) and ERET (R297), and resume points (R182).
-/

namespace Sys2Proof.Machine

/-! ## Instructions that trap -/

/-- TRAP: the resume PC is the instruction after it. -/
def execTrap (i : BitVec 12) (s : State) : Out :=
  s.issue {} (fun s => s.trapAt s.cur 0x11 i.toNat 0 (some ((s.ctx s.cur).pc + 4)))

def execBkpt (s : State) : Out := s.issue {} (fun s => s.trapAt s.cur 0x12 0 0 (some ((s.ctx s.cur).pc + 4)))

/-- SVC: REGION_NEST inside a region; else the context stops for a steward. -/
def execSvc (d a b : BitVec 6) (s : State) : Out :=
  s.issue (need2 d.toNat a.toNat b.toNat) (fun s =>
    if (s.ctx s.cur).region.isSome then s.trap 0xE 0 else s.trap 0x10 ((s.reg a).toNat % 65536))

/-! ## Late faults (R161) -/

/-- A ring entry that has faulted (R160, R293). -/
def State.ringFault (s : State) (core seq : Nat) : State :=
  let c := s.core core
  let e := Tbl.get {} c.cring (seq % 64)
  if e.seq = seq then
    s.setCore core { c with cring := Tbl.set {} c.cring (seq % 64) { e with faulted := true, retired := true } }
  else s

/-- Late records kept oldest first; what lies beyond the ninth is not kept, the ninth only marks the overflow (R164). -/
def insertLate (r : LateRec) : List LateRec → List LateRec
  | [] => [r]
  | x :: xs => if seqOlder r.seq x.seq then r :: x :: xs else x :: insertLate r xs

/-- Whether a context with a late fault stops where it stands: it does not while it awaits the answer of an instruction already
sent (R161; log entry 22). -/
def State.lateStops (s : State) (k : Nat) : Bool :=
  let c := s.ctx k
  c.act.isSome && c.stop.isNone && c.await.isNone &&
    !s.cores.any (fun e => e.2.pushes.any (fun p => p.ctx == some k))

/-- A context stops for its oldest late record, at the oldest instruction not issued. -/
def State.lateStop (s : State) (k : Nat) : State :=
  let c := s.ctx k
  match c.lates with
  | [] => s
  | r :: _ =>
    s.stopCtx k { cause := 0x13, subcode := r.subcause, faultPc := 0, faultAddr := 0, word := 0, resumePc := c.pc }

/-- LATE_FAULT: recorded in the context that issued it, which stops; a fault of an ended activation goes to the late-class handler
(R303). -/
def execLateFault (id : Nat) (s : State) : Out :=
  match s.lates.find? (fun p => p.id == id) with
  | none => .next s
  | some p =>
    let s := { s with lates := s.lates.filter (fun x => x.id != id) }.ringFault (coreOf p.ctx) p.record.seq
    let c := s.ctx p.ctx
    if c.act.isSome && c.actId == p.act then
      let s := s.setCtx p.ctx { c with lates := (insertLate p.record c.lates).take 9 }
      .next (if s.lateStops p.ctx then s.lateStop p.ctx else s)
    else
      .next (s.lateClass p.ctx p.launch (trapWord 0x13 p.record.subcause (some p.record.seq) p.record.detail) p.record.pc)

/-! ## The folio written and the trap delivered (R162, R166) -/

/-- Whether a stopped context's folio may be written: ld is zero, and every coprocessor instruction has completed or faulted. -/
def State.folioReady (s : State) (k : Nat) : Bool :=
  let c := s.ctx k
  c.ld == 0 && !s.coprocUnderWay k

/-- Whether a debug session holds a launch (R228). -/
def State.sessionHolds (s : State) (tag : Nat) : Bool :=
  match s.launch? tag with
  | some l => (s.sessionOf l.job).isSome
  | none => false

/-- What follows the write of a folio: a trap message, a steward's work, a debug session's hold, or the end of a launch whose trap
handler trapped. -/
def State.deliverTrap (s : State) (k : Nat) (st : Stop) : State :=
  let c := s.ctx k
  let (cause, sub) := c.recorded st
  let late := c.lates.head?
  if st.held then s
  else
    match trapClass cause with
    | none => s.launchEvent c.launch
    | some cls =>
      if cause = 0x12 && s.sessionHolds c.launch then
        s.setCtx k { c with stop := some { st with written := true, held := true, digestAt := s.freeCtr - 1 } }
      else if (match c.act with | some a => a.trapHandler | none => false) then
        s.endLaunch c.launch 3 "trap in a trap handler"
      else
        s.trapMessage c.launch cls (coreOf k) (unitOf k)
          [(s.folioVa k).getD 0, trapWord cause sub (late.map (·.seq)) (match late with | some r => r.detail | none => 0),
           s.whoWord k, st.faultPc]

/-- Whether the folio of every activation of a list of contexts has been written. -/
def State.allWritten (s : State) (ks : List Nat) : Bool :=
  ks.all (fun k => (s.ctx k).act.isNone || (match (s.ctx k).stop with | some st => st.written | none => false))

/-- The contexts of a tile. -/
def tileCtxs (u : Nat) : List Nat := (List.range 24).map (fun i => ctxKey u (i / 8) (i % 8))

/-- A machine check's end, once the folios of the tile's contexts have been written (R162, R173): the launch on the tile ends. -/
def State.finishCheck (s : State) (u : Nat) : State :=
  let t := s.tile u
  if !t.checking || !s.allWritten (tileCtxs u) then s
  else
    let s := s.setTile u { t with checking := false }
    match t.launch with
    | some tag => s.endLaunch tag 3 "machine check"
    | none => s

/-- FOLIO_WRITE. -/
def execFolioWrite (k : Nat) (s : State) : Out :=
  match (s.ctx k).stop with
  | none => .next s
  | some st =>
    if st.written || !s.folioReady k then .next s
    else .next (((s.writeFolio k st).deliverTrap k st).finishCheck (unitOf k))

/-- An uncorrectable error while a folio is written (R165): it is counted, the launch's sub-mesh stops, and the launch completes LOST; the
clear routine retires its world. -/
def State.folioError (s : State) (k : Nat) : State :=
  match (s.ctx k).stop with
  | none => s
  | some st =>
    if st.written || (s.launchOf k).isNone || !s.folioReady k then s
    else (s.logError true).endLaunch (s.ctx k).launch 4 "folio"

/-! ## Resume points and bodies (R182; log entry 20) -/

/-- The offset of a relative branch, in halfwords (R249). -/
def branchOffset : Instr → Option Int
  | .beq _ _ o => some o.toInt
  | .bne _ _ o => some o.toInt
  | .blt _ _ o => some o.toInt
  | .bge _ _ o => some o.toInt
  | .bltu _ _ o => some o.toInt
  | .bgeu _ _ o => some o.toInt
  | .loop _ o => some o.toInt
  | .boqb _ o => some o.toInt
  | .j o => some o.toInt
  | .jl o => some o.toInt
  | _ => none

/-- A transfer of control to an address in a register. -/
def isIndirect : Instr → Bool
  | .jr _ => true
  | .jlr _ => true
  | .ret _ => true
  | _ => false

/-- Whether an instruction may be a loop back-edge, as far as its word tells: a branch, jump or call to itself or backward, or an indirect
one. -/
def backEdge (i : Instr) : Bool :=
  match branchOffset i with
  | some o => decide (o ≤ 0)
  | none => isIndirect i

def isSend : Instr → Bool
  | .send _ _ => true
  | .sendv _ _ _ => true
  | _ => false

/-- Which words of a portable form are resume points: back-edges, SENDs, and each word before which some path has run 1,000 instructions
since a resume point. i is the first word's index, run the longest such path that falls through to it, and ahead those that forward branches
bring to later words. -/
def resumesFrom : Nat → Nat → Tbl Nat → List Word32 → List Bool
  | _, _, _, [] => []
  | i, run, ahead, w :: r =>
    let x := decode32 w.toNat
    let n := max run (Tbl.get 0 ahead i)
    let here := decide (1000 ≤ n) || (match x with | some y => backEdge y || isSend y | none => false)
    let next := if here then 1 else n + 1
    let ahead := match x.bind branchOffset with
      | some o =>
        let to_ := i + o.toNat / 2
        if 0 < o then Tbl.set 0 ahead to_ (max next (Tbl.get 0 ahead to_)) else ahead
      | none => ahead
    here :: resumesFrom (i + 1) next ahead r

/-- The resume points of a portable form. -/
def Capsule.resumePoint (c : Capsule) (loc : Nat) : Bool :=
  decide (loc % 4 = 0) && nth false (resumesFrom 0 0 [] c.portable) (loc / 4)

/-- Whether the instruction at a place of a body is at a resume point (R182). -/
def Capsule.resumesAt (c : Capsule) (x : Nat) : Bool := decide (c.native (c.portableAt x) = x) && c.resumePoint (c.portableAt x)

/-! ## A folio read back (R164) -/

/-- A folio's bytes and their marks. -/
structure Folio where
  bytes : List Byte
  marks : List Bool

def Folio.dword (f : Folio) (n : Nat) : Word := BitVec.ofNat 64 (bytesNat ((f.bytes.drop (8 * n)).take 8))

def Folio.bad (f : Folio) (n : Nat) : Bool := ((f.marks.drop (8 * n)).take 8).any id

/-- A context's folio read through a context's translation. -/
def State.readFolio (s : State) (k : Nat) (va : Word) : Option (Folio × State) :=
  match s.locate k .load va 18432 with
  | .error _ => none
  | .ok (ps, s) =>
    some (⟨ps.flatMap (fun p => s.readBytes p.kid p.key p.len),
           ps.flatMap (fun p => (List.range p.len).map (fun i => Tbl.get false s.bad (p.key + i)))⟩, s)

/-- Whether a region holds a line of the folio that a context would read (R130). -/
def State.folioHeld (s : State) (k : Nat) (va : Word) : Bool :=
  match s.locate k .load va 18432 with
  | .error _ => false
  | .ok (ps, s) => ps.any (fun p => s.lineHeld p.home (linesOf p.key p.len) none)

/-- Whether every reserved field of a folio, native or portable, is zero. -/
def Folio.reservedZero (f : Folio) (portable : Bool) : Bool :=
  Word.field (f.dword 0) 16 16 == 0 && Word.field (f.dword 0) 5 3 == 0 && Word.field (f.dword 4) 20 4 == 0 &&
    Word.field (f.dword 4) 0 8 == 0 && (List.range 10).all (fun i => f.dword (54 + i) == 0) &&
    (List.range 96).all (fun i => f.dword (2208 + i) == 0) &&
    (if portable then Word.field (f.dword 47) 32 32 == 0 && (List.range 32).all (fun i => f.dword (64 + i) == 0)
     else f.dword 46 == 0 && f.dword 47 == 0 && (List.range 8).all (fun i => Word.field (f.dword (67 + 4 * i)) 9 55 == 0))

/-- Whether a folio's blocks and drain entry are those that its context holds. -/
def Folio.blocksOf (f : Folio) (c : Ctx) : Bool :=
  Word.field (f.dword 4) 24 8 == c.sblk.toNat && Word.field (f.dword 4) 16 4 == c.vblk.toNat &&
    Word.field (f.dword 4) 8 8 == ((c.act.bind (fun a => a.drain)).getD 255)

/-- The context with a folio's registers; its digest is invalid where its opaque bytes differ from those written (R204). -/
def Ctx.takeFolio (c : Ctx) (k : Nat) (st : Stop) (f : Folio) : Ctx :=
  let same := (List.range 12).all (fun i => f.dword (34 + i) ==
    BitVec.ofNat 64 (bytesNat ((List.range 8).map (fun j => Config.digestStateByte k st.digestAt (8 * i + j)))))
  let c := c.loadFolio f.dword f.bad
  if same then c else { c with pd := { c.pd with valid := false } }

/-- The context whose folio stands at an address of a launch (R165). -/
def Launch.folioKey (l : Launch) (va : Word) : Option Nat :=
  let off := (va - nth 0 l.record 13).toNat
  let n := off / 18432
  if off % 18432 ≠ 0 then none
  else
    match l.units[n / 24]? with
    | some u => some (ctxKey u (n / 8 % 3) (n % 8))
    | none => none

/-! ## CTXRES -/

/-- A stopped context discarded: ended as at HRET, its TCB left FAULTED; a tile task so ended is reported as ENGINE_FAULT, 6
(R110, R163). -/
def State.discardStopped (s : State) (k : Nat) : State :=
  let c := s.ctx k
  let s := s.endRegion k
  match c.act with
  | none => s.rest k
  | some a =>
    let s := match a.ttq with
      | none => s
      | some j =>
        match s.clusters.findSome? (fun (e : Nat × Cluster) => e.2.table.find? (fun (x : EngineJob) => x.id == j)) with
        | none => s.endTileTask k j
        | some x => (s.endTileTask k j).trapMessage c.launch 2 (coreOf x.ctx) (unitOf x.ctx) [x.va, trapWord 0x1A 6 none 0, s.whoWord x.ctx, 0]
    let s := s.rest k
    if a.endHandler then s.endLaunch c.launch (s.endStatus c.launch) "" else s

/-- The current context's CTXRES or ERET completes with a value. -/
def State.resDone (s : State) (d : Nat) (x : Word) : Out :=
  .next (s.done 4 (({ s.ctx s.cur with await := none }).setW d x))

/-- The current context waits for a folio to be written: its request has been sent (R161, R295). -/
def State.resWait (s : State) : Out := State.stall (s.setCtx s.cur { s.ctx s.cur with await := some 0 })

/-- Whether a return to a stopped context must wait: its folio is not yet written, its tile is frozen or in a machine check, or a region holds
the folio's lines. -/
def State.returnWaits (s : State) (k : Nat) (st : Stop) (reader : Nat) (va : Word) : Bool :=
  !st.written || s.isFrozen (unitOf k) || (s.tile (unitOf k)).checking || s.folioHeld reader va

/-- CTXRES on a stopped context whose folio has been written. Of the folio's HW fields the hardware holds what it wrote: kind, resumable (R5; log
entry 91). -/
def State.ctxresOn (s : State) (k : Nat) (st : Stop) (va action : Word) (d : Nat) : Out :=
  match s.readFolio s.cur va with
  | none => s.resDone d Word.minusOne
  | some (f, s) =>
    let c := s.ctx k
    if action.toNat / 2 ≠ 0 || st.portable || !s.mayResume k st || !f.reservedZero false || !f.blocksOf c then s.resDone d (-3)
    else if action = 1 then (s.discardStopped k).resDone d 0
    else (s.resume k (c.takeFolio k st f) (f.dword 1)).resDone d 0

/-- CTXRES: a release at domain scope, then as R167 says. -/
def execCtxres (d a b : BitVec 6) (s : State) : Out :=
  s.issue (need2 d.toNat a.toNat b.toNat) (fun s =>
    if s.gated true then s.waitGate
    else if !(s.outstanding s.cur 4).isEmpty then s.stall
    else
      match (s.launchOf s.cur).bind (fun l => l.folioKey (s.reg a)) with
      | none => s.resDone d.toNat Word.minusOne
      | some k =>
        match (s.ctx k).stop with
        | none => s.resDone d.toNat (-2)
        | some st =>
          if s.returnWaits k st s.cur (s.reg a) then s.resWait
          else s.ctxresOn k st (s.reg a) (s.reg b) d.toNat)

/-! ## ERET -/

/-- The folio from which a steward may return to a stopped context: one that is resumable, with every reserved field zero (R297). -/
def State.returnFolio (s : State) (k : Nat) (st : Stop) : Option (Folio × State) :=
  match (s.folioVa k).bind (s.readFolio k) with
  | some (f, t) => if s.mayResume k st && f.reservedZero st.portable then some (f, t) else none
  | none => none

/-- A folio resumed by a steward, with the result of an SVC: −3 where it may not be, and the launch ended where a portable location
has no place in the body (R183, R297). Kind, cause, word, fault PC and location are HW fields: what the hardware holds of them counts (R5; log
entry 91). -/
def State.eretOn (s : State) (k : Nat) (st : Stop) (x : Word) : State × Word :=
  match s.returnFolio k st with
  | none => (s, -3)
  | some (f, s) =>
    let c := (s.ctx k).takeFolio k st f
    if st.portable then
      match s.launchOf k with
      | none => (s, -3)
      | some l =>
        match s.capsuleOf l with
        | none => (s, -3)
        | some cap =>
          if cap.resumePoint st.location then
            (s.resume k { c with ld := 0, st := 0, cp := 0, tl := 0 } (BitVec.ofNat 64 (l.body + cap.native st.location)), 0)
          else (s.endLaunch c.launch 3 "BODY_VOID_LIVE", -3)
    else if (c.recorded st).1 = 0x10 then (s.resume k (c.setW (field st.word.toNat 8 6) x) (st.faultPc + 4), 0)
    else (s.resume k c (f.dword 1), 0)

/-- The context whose folio stands at a physical address, among the launches admitted, resident or absent (R297; log entry 13). -/
def State.folioAt (s : State) (pa : Nat) : Option Nat :=
  s.launches.findSome? (fun e =>
    if e.2.state = .resident || e.2.state = .absent then
      e.2.ctxKeys.find? (fun k => match s.folioVa k with
        | some va => (match s.walkTables e.2.root va.toNat with
          | some leaf => leaf.pa va.toNat == pa && (s.ctx k).launch == e.1
          | none => false)
        | none => false)
    else none)

/-- ERET (R297). -/
def execEret (d a b : BitVec 6) (s : State) : Out :=
  s.issue { level := .s, reads := [a.toNat, b.toNat], writes := [d.toNat] } (fun s =>
    if s.gated true then s.waitGate
    else if !(s.outstanding s.cur 4).isEmpty then s.stall
    else
      match s.folioAt (s.reg a).toNat with
      | none => s.resDone d.toNat Word.minusOne
      | some k =>
        match (s.ctx k).stop with
        | none => s.resDone d.toNat (-2)
        | some st =>
          if s.returnWaits k st k ((s.folioVa k).getD 0) then s.resWait
          else
            let (s, x) := s.eretOn k st (s.reg b)
            s.resDone d.toNat x)

/-! ## HALT (R301) -/

/-- HALT: a steward or the vault waits for an event; on a tile core it ends the clear routine's run. -/
def execHalt (s : State) : Out :=
  s.issue { level := .s } (fun s =>
    if isTile (unitOf s.cur) then
      .next ((List.range 8).foldl (fun (s : State) n => s.rest (coreOf s.cur * 8 + n)) s)
    else
      let c := s.core (coreOf s.cur)
      if c.event then .next ((s.setCore (coreOf s.cur) { c with event := false }).skip 4) else s.stall)

end Sys2Proof.Machine
end

