-- ==== Sys2Proof/Machine/Delivery.lean ====
section
/-!
DEFINITION. Sys2Proof/Machine/Delivery.lean: messages at their destination: MESSAGE_DELIVERY and HELD_MESSAGE_ADMIT (R25, R35
to R39, R42, R96, R168, R170), and MESSAGE_DISPATCH (R29, R36, R41, R362).
-/

namespace Sys2Proof.Machine

/-! ## The inbox ring (R31, R37) -/

/-- The scratchpad offset of a core's ring (R31). -/
def Launch.ringBase (l : Launch) (role : Nat) : Nat := 524288 - (3 - role) * l.ringSize

/-- The messages admitted to a ring and not yet written. -/
def State.admitted (s : State) (core : Nat) : List Msg := s.msgs.filter (fun m => m.dest == core && m.admitted.isSome)

/-- The bytes charged to a ring's general space (R37). -/
def State.ringCharge (s : State) (core : Nat) : Nat :=
  ((s.core core).ring.map (fun r => r.charge)).sum +
    ((s.admitted core).map (fun m => match m.admitted with | some (c, _) => c | none => 0)).sum

/-- Whether a reserve of a ring is in use. -/
def State.reserveTaken (s : State) (core d : Nat) : Bool :=
  (s.core core).ring.any (fun r => r.reserve == some d) ||
    (s.admitted core).any (fun m => match m.admitted with | some (_, r) => r == some d | none => false)

/-- The admission of a message of n bytes (R37): what it is charged, and its reserve. -/
def State.admission (s : State) (core ring n depth : Nat) (general : Bool) : Option (Nat × Option Nat) :=
  let used := s.ringCharge core
  if general && decide (used + n ≤ ring - 3640) then some (n, none)
  else if decide (1 ≤ depth) && !s.reserveTaken core depth && decide (used + (n - 520) ≤ ring - 3640) then some (n - 520, some depth)
  else none

/-- Whether a record, or its pad at the ring's end, lies in bytes [lo, hi) of the ring. -/
def RingRec.lies (r : RingRec) (ring lo hi : Nat) : Bool :=
  (decide (r.off < hi) && decide (lo < r.off + r.size)) || (decide (0 < r.pad) && decide (ring - r.pad < hi))

/-- The header of a pad record: bits [63:61] all ones, kind 7, handler 0xFFF (R38). What else it holds is free. -/
def padHeader (x : Word) : Word := (x &&& 0x1FFFFFFFFF1FF000) ||| 0xE000000000E00FFF

/-- The bytes of a pad of n bytes from the free values numbered from i. -/
def padBytes (i n : Nat) : List Byte :=
  natBytes 8 (padHeader (Config.freeWord i)).toNat ++
    (List.range (n / 8 - 1)).flatMap (fun j => natBytes 8 (Config.freeWord (i + 1 + j)).toNat)

/-- Bytes written into a tile's scratchpad by hardware: an ordinary store at the tile (R131). -/
def State.writeScratch (s : State) (u off : Nat) (bs : List Byte) : State :=
  (s.abortReaders (.tile u) (scratchKey u off) bs.length).writeList 0 (scratchKey u off) false bs

/-- A record written at the ring's write pointer, or at its base behind a pad, into bytes that hold no unreclaimed record; none
while it must wait (R38). -/
def State.writeRecord (s : State) (core : Nat) (l : Launch) (m : Msg) (charge : Nat) (reserve : Option Nat) : Option State :=
  let u := core / 4
  let c := s.core core
  let n := messageBytes m.words
  let ring := l.ringSize
  let pad := if ring < c.ringW + n then ring - c.ringW else 0
  let off := if pad = 0 then c.ringW else 0
  let base := l.ringBase (core % 4)
  if c.ring.any (fun r => r.lies ring off (off + n) || (decide (0 < pad) && r.lies ring c.ringW ring)) then none
  else if s.lineHeld (.tile u) (linesOf (scratchKey u (base + off)) n) none then none
  else
    let s := if pad = 0 then s
      else { s.writeScratch u (base + c.ringW) (padBytes s.freeCtr pad) with freeCtr := s.freeCtr + pad / 8 }
    let s := s.writeScratch u (base + off) (m.words.flatMap (fun w => natBytes 8 w.toNat))
    let r : RingRec := { id := m.id, off := off, size := n, pad := pad, depth := Word.field (nth 0 m.words 0) 18 3,
                         charge := charge, reserve := reserve, system := m.system }
    let c := s.core core
    some (s.setCore core { c with ringW := (off + n) % ring, ring := c.ring ++ [r] })

/-! ## Delivery -/

/-- A message gone, acknowledged to its sender: st falls, or cp for the completion of a block read (R39, R288). -/
def State.ackMsg (s : State) (m : Msg) : State :=
  let s := { s with msgs := s.msgs.filter (fun x => x.id != m.id) }
  if m.parkedAt.isSome then s
  else
  match m.cp, m.ctx with
  | some k, _ => s.lowerCp k m.act
  | none, some k => s.lower k m.act false true
  | none, none => s

/-- A message changed, and put behind the others: the order in which messages were held, and admitted, is their order in the
list. -/
def State.requeue (s : State) (m : Msg) : State := { s with msgs := s.msgs.filter (fun x => x.id != m.id) ++ [m] }

/-- Whether a forwarding entry has sent a message on before another, and it has not yet arrived (R168). -/
def Msg.forwardedBefore (x m : Msg) : Bool :=
  match x.forwarded, m.forwarded with
  | some a, some b => decide (a < b) && x.dest / 4 == m.dest / 4 && !x.held && x.admitted.isNone
  | _, _ => false

/-- Whether a message must reach a tile before another (R50, R75): an earlier one of the same sender to the same tile. Arrivals parked
for an absent launch are delivered in append order, and before the direct arrivals of their sources (R170); those that a forwarding entry has sent
on, in the order of arrival there (R168). -/
def Msg.precedes (x m : Msg) : Bool :=
  x.launch == m.launch && x.id != m.id &&
    match x.parkedAt, m.parkedAt with
    | some a, some b => decide (a < b) && ((!x.held && x.admitted.isNone) || (x.ctx == m.ctx && x.dest / 4 == m.dest / 4))
    | some _, none => x.ctx == m.ctx
    | none, some _ => false
    | none, none => (decide (x.id < m.id) && x.ctx == m.ctx && x.dest / 4 == m.dest / 4 && x.cp == m.cp) || x.forwardedBefore m

/-- Whether a message that must reach its tile before another is still on its way. -/
def State.earlierMsg (s : State) (m : Msg) : Bool := s.msgs.any (fun x => x.precedes m)

/-- The contexts that are busy and the messages queued on a core (R25). Messages held at its ring, and those admitted and not yet
written, count as queued (DESIGN CHOICE, log entry 79). -/
def State.busyOf (s : State) (core : Nat) : Nat :=
  ((List.range 8).filter (fun n => (s.ctx (core * 8 + n)).state != .dormant)).length +
    ((s.core core).ring.filter (fun r => !r.dispatched)).length +
    (s.msgs.filter (fun m => m.dest == core && (m.held || m.admitted.isSome))).length

/-- The core that takes a message to any core of a tile (R25): the least busy that the handler allows, M before X before A. -/
def State.resolveRole (s : State) (tag u h : Nat) : Nat :=
  let allowed := (List.range 3).filter (fun r => match s.handler? tag h with | some e => roleAllows e.role r | none => false)
  match allowed.find? (fun r => allowed.all (fun q => decide (s.busyOf (agentKey u r) ≤ s.busyOf (agentKey u q)))) with
  | some r => agentKey u r
  | none => agentKey u 0

/-- A header with another kind. -/
def withKind (h : Word) (kind : Nat) : Word := (h &&& 0xFFFFFFFFFF1FFFFF) ||| BitVec.ofNat 64 (kind % 8 * 2 ^ 21)

/-- The bytes that parked messages occupy in the overflow store of 16 MiB (R170). -/
def Launch.parkedBytes (l : Launch) : Nat := (l.parked.map (fun m => messageBytes m.words)).sum

/-- The unit at which an absent launch's tile of an index is parked (log entry 30). -/
def parkingUnit (tag i : Nat) : Nat := 4194304 + tag * 4096 + i

/-- A place's agent of an absent launch's former tile, as its parked tile's agent. -/
def Launch.parkedDest (l : Launch) (dest : Nat) : Nat :=
  match l.left.findIdx? (· == dest / 4) with
  | some i => agentKey (nth (dest / 4) l.units i) (dest % 4)
  | none => dest

/-- A message's words appended to its launch's overflow store, under the key of its world (R95, R170; log entry 30). -/
def State.storeParked (s : State) (l : Launch) (ws : List Word) : State :=
  if l.overflowBlock = 0 then s
  else s.writeList (s.worldKeyOf l) (l.overflowBlock + l.parkedBytes) false (ws.flatMap (fun w => natBytes 8 w.toNat))

/-- Parked messages with their words as the overflow store holds them, from an offset of it. -/
def State.readParked (s : State) (l : Launch) : Nat → List Msg → List Msg
  | _, [] => []
  | off, m :: r =>
    let word := fun (i : Nat) => BitVec.ofNat 64 (bytesNat (s.readBytes (s.worldKeyOf l) (l.overflowBlock + off + 8 * i) 8))
    (if l.overflowBlock = 0 then m else { m with words := (List.range m.words.length).map word }) ::
      s.readParked l (off + messageBytes m.words) r

/-- A message for a launch that is not resident on the tile: parked in its overflow store, held while that is full, discarded
where the launch has ended or is being cancelled (R42, R170). -/
def State.parkMsg (s : State) (m : Msg) : State :=
  match s.launch? m.launch with
  | none => s.ackMsg m
  | some l =>
    if l.state = .ended || l.state = .retired || l.cancel.isSome then s.ackMsg m
    else if 16777216 < l.parkedBytes + messageBytes m.words then s
    else
      let x : Msg := { m with dest := l.parkedDest m.dest, cp := none, held := false, admitted := none, parkedAt := some s.nextId }
      ((s.storeParked l m.words).fresh.setLaunch m.launch { l with parked := l.parked ++ [x] }).ackMsg m

/-- Whether a direct arrival at a tile must wait for its source's marker through the tile that this one replaced (R168). -/
def State.markerAwaited (s : State) (u : Nat) (m : Msg) : Bool :=
  match m.ctx with
  | none => false
  | some k => Word.field (nth 0 m.words 0) 21 3 != 6 && s.tiles.any (fun (e : Nat × Tile) => e.2.forward == some u && !e.2.markers.contains (coreOf k))

/-- Whether a launch takes a message no more: it is not resident, or is being cancelled, and the message is not its CANCELLED (R42,
R48). -/
def Launch.refuses (l : Launch) (m : Msg) : Bool :=
  l.state != .resident || (match l.cancel with | some c => !(c.graceOver && m.ctx.isNone) | none => false)

/-- Whether a message is held by back-pressure at a tile that is frozen for a migration: it comes from elsewhere (R168). -/
def State.frozenMsg (s : State) (m : Msg) : Bool := s.isFrozen (m.dest / 4) && m.ctx.map unitOf != some (m.dest / 4)

/-- The messages held at a ring, in the order they were held (R39). -/
def State.heldAt (s : State) (core : Nat) : List Msg := s.msgs.filter (fun m => m.dest == core && m.held && !s.frozenMsg m)

/-- A message admitted, and written at once where its bytes are free and no message admitted before it waits. -/
def State.admitMsg (s : State) (core : Nat) (l : Launch) (m : Msg) (charge : Nat) (reserve : Option Nat) : State :=
  let m : Msg := { m with dest := core, held := false, admitted := some (charge, reserve) }
  let first := (s.admitted core).isEmpty
  let s := s.requeue m
  if first then
    match s.writeRecord core l m charge reserve with
    | some s => s.ackMsg m
    | none => s
  else s

/-- The arrival of a message at its core's ring. -/
def State.arriveMsg (s : State) (core : Nat) (l : Launch) (m : Msg) : State :=
  let n := messageBytes m.words
  match (if s.frozenMsg m then none else s.admission core l.ringSize n (Word.field (nth 0 m.words 0) 18 3) (s.heldAt core).isEmpty) with
  | some (charge, reserve) => s.admitMsg core l m charge reserve
  | none => s.requeue { m with dest := core, held := true }

/-- Whether a tenant is no member of a cluster (R96): clusters are numbered row by row, six to a row (R10). -/
def State.strange (s : State) (m : Msg) (u : Nat) : Bool :=
  match m.ctx, s.launch? m.launch with
  | some k, some l =>
    if (s.level k).rank ≥ 1 then false
    else
      match (Tbl.get {} s.vault.tenants (l.field 1 8 8)).mesh with
      | some (x, y, w, h) =>
        let n := clusterOf u
        !(decide (x ≤ n % 6) && decide (n % 6 < x + w) && decide (y ≤ n / 6) && decide (n / 6 < y + h))
      | none => false
  | _, _ => false

/-- A packet discarded by a router, and counted (R96). -/
def State.discardPacket (s : State) (m : Msg) (u : Nat) : State :=
  let n := clusterOf u
  ((s.setCluster n { s.cluster n with secEvents := (s.cluster n).secEvents + 1 }).secEvent).ackMsg m

/-- A message with the kind that a forwarding entry gives it; it stays one of the system's (R168). -/
def Msg.resent (m : Msg) : Msg :=
  { m with words := withKind (nth 0 m.words 0) 6 :: m.words.drop 1, system := m.system || Word.field (nth 0 m.words 0) 21 3 == 7 }

/-- A message at a tile: redirected by a forwarding entry, waiting while a marker is awaited, parked, discarded, or put into a ring, where it is
held while the tile is frozen. -/
def State.messageAtTile (s : State) (m : Msg) : State :=
  let u := m.dest / 4
  let t := s.tile u
  match t.forward with
  | some v =>
    { s.fresh with msgs := s.msgs.map (fun x => if x.id = m.id then
        { m.resent with dest := agentKey v (m.dest % 4), forwarded := some s.nextId } else x) }
  | none =>
    if s.markerAwaited u m then s
    else if s.strange m u then s.discardPacket m u
    else if t.launch ≠ some m.launch then s.parkMsg m
    else
      match s.launch? m.launch with
      | none => s.ackMsg m
      | some l =>
        if l.refuses m then s.parkMsg m
        else
          let s := s.setLaunch m.launch { l with sample := none }
          let core := if m.dest % 4 = 3 then s.resolveRole m.launch u (Word.field (nth 0 m.words 0) 0 12) else m.dest
          s.arriveMsg core l m

/-- A message that leaves the package on its plane, and is counted (R112); it is acknowledged when the other package has written it
(R300). -/
def State.leavePackage (s : State) (m : Msg) : State :=
  let plane := planeOf (m.dest / 4096 - 1) (m.dest % 4096 / 4)
  if m.left.isSome || s.planeHeld plane then s
  else
    let s := match s.launch? m.launch with
      | some l => s.setLaunch m.launch { l with sent := l.sent + 1 }
      | none => s
    let x := s.stream (m.dest / 4096 - 1)
    let source := match m.ctx with | some k => s.package * 4096 + coreOf k | none => s.package * 4096 + 4032
    let s := s.sendOn plane m.id ⟨source, m.dest - 4096, sealMessage (x.out.key "KF-INBOX") x.out.sent m.launch m.words⟩
    let s := s.setStream (m.dest / 4096 - 1) (x.gave m.id plane)
    { s with msgs := s.msgs.map (fun x => if x.id = m.id then { m with left := some (s.carrier plane) } else x) }

/-- MESSAGE_DELIVERY. -/
def execMessageDelivery (id : Nat) (s : State) : Out :=
  match s.msgs.find? (fun m => m.id == id) with
  | none => .next s
  | some m =>
    match m.admitted with
    | some (charge, reserve) =>
      match (s.admitted m.dest).head?, s.launch? m.launch with
      | some first, some l =>
        if first.id ≠ m.id then .next s
        else if l.refuses m then .next (s.parkMsg m)
        else
          match s.writeRecord m.dest l m charge reserve with
          | some s => .next (s.ackMsg m)
          | none => .next s
      | _, _ => .next s
    | none =>
      if m.held || s.earlierMsg m then .next s
      else if 16777216 ≤ m.dest then .next (s.parkMsg m)
      else if 4096 ≤ m.dest then .next (s.leavePackage m)
      else if isTile (m.dest / 4) then .next (s.messageAtTile m)
      else
        let s := s.eventAt (m.dest / 4)
        .next ({ s with firmware := s.firmware ++ [m] }.ackMsg m)

/-- HELD_MESSAGE_ADMIT: the message held longest at a ring is admitted where the ring now has room (R39). -/
def execHeldMessageAdmit (core : Nat) (s : State) : Out :=
  match s.heldAt core with
  | [] => .next s
  | m :: _ =>
    match s.launch? m.launch with
    | none => .next (s.ackMsg m)
    | some l =>
      if l.refuses m then .next (s.parkMsg m)
      else
        match s.admission core l.ringSize (messageBytes m.words) (Word.field (nth 0 m.words 0) 18 3) true with
        | some (charge, reserve) => .next (s.admitMsg core l m charge reserve)
        | none => .next s

/-! ## The start of activations -/

/-- The lowest DORMANT context of a core that messages and tasks may use (R28). -/
def State.idleContext (s : State) (core : Nat) (l : Launch) : Option Nat :=
  let n := if core % 4 = 2 then 8 - l.drains else 8
  ((List.range n).find? (fun i => (s.ctx (core * 8 + i)).state == .dormant)).map (fun i => core * 8 + i)

/-- The check that a dispatch makes at its target (R192): the handler must start with PAD H. -/
def State.checkPad (s : State) (k : Nat) : State :=
  let pc := (s.ctx k).pc
  match s.fetchBytes k pc with
  | (.ok bs, s) =>
    if isPad 3 bs then s
    else s.stopCtx k { cause := 3, subcode := 3, faultPc := pc, faultAddr := pc, word := BitVec.ofNat 32 (bytesNat bs), resumePc := pc }
  | (.error f, s) =>
    s.stopCtx k { cause := f.cause, subcode := f.sub, faultPc := pc, faultAddr := f.addr, word := 0, resumePc := pc }

/-- The address of a handler's entry in the body that a launch runs (R182). -/
def State.entryPc (s : State) (l : Launch) (h : HandlerEntry) : Word :=
  BitVec.ofNat 64 (l.body + (match s.capsuleOf l with | some c => c.native h.entry | none => h.entry))

/-- A handler's activation started on a context (R29). -/
def State.start (s : State) (k tag : Nat) (l : Launch) (h : HandlerEntry) (a : Act) (w4 : Word) (args : List Word) : State :=
  let s := s.activate k tag l a (s.entryPc l h) w4 args
  let s := s.setTile (unitOf k) { s.tile (unitOf k) with gated := false, idleSince := none }
  let core := coreOf k
  (s.setCore core { s.core core with stealPos := 0, stealAt := none }).checkPad k

/-- The doublewords of a ring's record as they stand in the scratchpad. -/
def State.recordWord (s : State) (u off n : Nat) : Word := BitVec.ofNat 64 (bytesNat (s.readBytes 0 (scratchKey u (off + 8 * n)) 8))

/-- A record's dispatch marked. -/
def State.markRecord (s : State) (core id : Nat) : State :=
  let c := s.core core
  s.setCore core { c with ring := c.ring.map (fun r => if r.id = id then { r with dispatched := true } else r) }

/-- MESSAGE_DISPATCH: the oldest undispatched record starts an activation on the lowest eligible context; a record whose handler the
capsule does not have starts nothing (R362). -/
def execMessageDispatch (core : Nat) (s : State) : Out :=
  match s.dispatcher core true with
  | none => .next s
  | some (tag, l) =>
    match s.idleContext core l, (s.core core).ring.find? (fun r => !r.dispatched) with
    | some k, some r =>
      let off := l.ringBase (core % 4) + r.off
      let head := s.recordWord (core / 4) off 0
      let n := Word.field head 12 6
      let h := Word.field head 0 12
      match s.handler? tag h with
      | none => .next (((s.setCore core ((s.core core).reclaim (some r.id))).logError true).launchEvent tag)
      | some e =>
        let system := r.system || Word.field head 21 3 == 7
        let ends := system && n == 0 && l.endSent && h == l.field 6 16 12
        let traps := match s.capsuleOf l with | some c => c.traps.any (fun x => x.2 == h) | none => false
        let a : Act := { header := head, ring := some r.id, endHandler := ends, trapHandler := system && !ends && traps }
        let args := (List.range 8).map (fun i => if i < n then s.recordWord (core / 4) off (i + 1) else 0)
        .next ((s.markRecord core r.id).start k tag l e a (ownTileVa (off + 8)) args)
    | _, _ => .next s

end Sys2Proof.Machine
end

