-- ==== Sys2Proof/Machine/Engines.lean ====
section
/-!
DEFINITION. Sys2Proof/Machine/Engines.lean: submissions to engines: QBIND (R327), JOB (R308, R310), TTQ (R344) and BLKRD
(R287, R288).
-/

namespace Sys2Proof.Machine

/-! ## QBIND (R327) -/

/-- The M-core tile that a place operand of QBIND names; none where wd is -1. -/
def State.queuePlace (s : State) (b : Word) : Option Nat :=
  if Word.field b 63 1 = 1 then none
  else
    match s.resolvePlace s.cur b with
    | some (_, agent) => if agent % 4 = 0 then some (agent / 4) else none
    | none => none

def queueHandle (kind revision queue : Nat) (place : Word) : Word :=
  BitVec.ofNat 64 (kind % 256 * 2 ^ 56 + revision % 256 * 2 ^ 48 + queue % 16 * 2 ^ 32 + place.toNat % 2 ^ 32)

/-- The revision of an engine kind that install negotiated (R190). -/
def State.boundRevision (s : State) (l : Launch) (kind : Nat) : Nat :=
  match s.capsuleOf l with
  | some c => nth 0 c.revisions kind
  | none => 0

def execQbind (d a b : BitVec 6) (s : State) : Out :=
  s.issue (need2 d.toNat a.toNat b.toNat) (fun s => s.irrevocably (fun s =>
    let kind := (s.reg a).toNat
    let tag := (s.ctx s.cur).launch
    match s.queuePlace (s.reg b), s.launch? tag with
    | some u, some l =>
      let n := (l.queues.filter (fun q => q.unit == u)).length
      if 1 < kind || 16 ≤ n then .next (s.result 4 d.toNat Word.minusOne)
      else
        let rev := s.boundRevision l kind
        let h := queueHandle kind rev n (s.reg b)
        .next ((s.setLaunch tag { l with queues := l.queues ++ [⟨u, n, kind, rev, h⟩] }).result 4 d.toNat h)
    | _, _ => .next (s.result 4 d.toNat Word.minusOne)))

/-! ## JOB and TTQ -/

/-- A job on its way to a footprint table, its counters raised: the table acknowledges it with an enqueue (R84). -/
def State.submit (s : State) (j : EngineJob) (home : Home) (after : List Nat) (cp tl : Bool) : State :=
  let t : Txn := { s.proto j.va .none after false true none with id := s.nextId, home := home, op := .enqueue j.id }
  let s := { s.fresh with txns := s.txns ++ [t], submitted := s.submitted ++ [j] }
  let c := (s.ctx s.cur).raise false true
  (s.setCtx s.cur { c with cp := if cp then c.cp + 1 else c.cp, tl := if tl then c.tl + 1 else c.tl }).holdCur [] after

/-- Whether a cluster's footprint table has no free entry (R84). -/
def State.tableBusy (s : State) (n : Nat) : Bool := decide (64 ≤ (s.cluster n).table.length)

/-- JOB: the card is read at issue; its enqueue is a release at domain scope (R82, R308). A region has become IRREVOCABLE before the card's read may
trap (DESIGN CHOICE, log entry 97). -/
def execJob (d a b : BitVec 6) (s : State) : Out :=
  s.issue (need2 d.toNat a.toNat b.toNat) (fun s =>
    let va := s.reg a
    if va.toNat % 64 ≠ 0 then s.trapAt s.cur 6 0 va none
    else
      match (s.launchOf s.cur).bind (fun l => l.queues.find? (fun q => q.handle == s.reg b)) with
      | none => .next (s.result 4 d.toNat Word.minusOne)
      | some q => s.irrevocably (fun s =>
        if s.gated true then s.waitGate
        else
          let after := s.outstanding s.cur 4
          s.readRecord va 64 64 (fun bs s =>
            let c := s.ctx s.cur
            if 63 ≤ c.cp || 63 ≤ c.st || s.tableBusy (clusterOf q.unit) then s.stall
            else
              let kind : EngineKind := if q.kind = 0 then .copy else .collective
              let j : EngineJob := { id := s.nextId, kind := kind, ctx := s.cur, act := c.actId, launch := c.launch, va := va,
                                     card := bs, bad := false, revision := q.revision, unit := q.unit, accepted := false,
                                     started := false, runner := none }
              .next ((s.fresh.submit j (.tile q.unit) after true false).result 4 d.toNat 0))))

/-- A tile-task record with its header as TTQ writes it (R109). -/
def taskCard (source tag : Nat) (bs : List Byte) : List Byte :=
  let h : Word := BitVec.ofNat 64 (bytesNat (bs.take 8))
  natBytes 8 (headerWord source tag 1 (Word.field h 18 3) (Word.field h 12 6) (Word.field h 0 12)).toNat ++ bs.drop 8

/-- TTQ (R344). -/
def execTtq (d a : BitVec 6) (s : State) : Out :=
  s.issue (need1 d.toNat a.toNat) (fun s =>
    let va := s.reg a
    let tag := (s.ctx s.cur).launch
    if va.toNat % 64 ≠ 0 then s.trapAt s.cur 6 0 va none
    else if !((s.launch? tag).map Launch.tileTasks).getD false then .next (s.result 4 d.toNat Word.minusOne)
    else s.irrevocably (fun s =>
      if s.gated true then s.waitGate
      else
        let after := s.outstanding s.cur 4
        s.readRecord va 128 64 (fun bs s =>
          let c := s.ctx s.cur
          if !s.handlerAllows tag (bytesNat (bs.take 8) % 4096) 2 then s.trap 0xB 0
          else if 63 ≤ c.tl || 63 ≤ c.st || s.tableBusy (clusterOf (unitOf s.cur)) then s.stall
          else
            let j : EngineJob := { id := s.nextId, kind := .tileTask, ctx := s.cur, act := c.actId, launch := tag, va := va,
                                   card := taskCard (s.placeOf (coreOf s.cur)) tag bs, bad := false, revision := 0,
                                   unit := unitOf s.cur, accepted := false, started := false, runner := none }
            .next ((s.fresh.submit j (.pool (clusterOf (unitOf s.cur))) after false true).result 4 d.toNat 0))))

/-! ## BLKRD (R287 to R289) -/

/-- n bytes from an offset cut where the scratchpad of one tile ends and the next one's begins (R53). -/
def splitTiles : Nat → Nat → Nat → Nat → List (Nat × Nat)
  | 0, _, _, _ => []
  | fuel + 1, va, off, n =>
    if n = 0 then []
    else
      let len := min n (524288 - va % 524288)
      (off, len) :: splitTiles fuel (va + len) (off + len) (n - len)

/-- Where the parts of a block read's source are cut: at the homes' borders (R288), 256-byte blocks of global memory, tiles of the
tile windows, none in the pool. -/
def sourceCuts (va n : Nat) : List (Nat × Nat) :=
  if va < 2 ^ 55 then splitBlocks (n / 256 + 2) va 0 n
  else if windowOf va = 0x82 then [(0, n)] else splitTiles 3 va 0 n

/-- Whether n bytes from a source address lie in one window within its limits (R52, R287). -/
def State.windowAllows (s : State) (k va n : Nat) : Bool :=
  if 2 ^ 56 ≤ va then false
  else if va < 2 ^ 55 then decide (va + n ≤ 2 ^ 55)
  else
    va / 2 ^ 48 == (va + n - 1) / 2 ^ 48 && (sourceCuts va n).all (fun c =>
      (s.localKey k (va + c.1)).isSome && (s.localKey k (va + c.1 + c.2 - 1)).isSome)

/-- The agent that a tile's engine translates as: role 3 of the tile, whose translations are the engine's TLB (R70). -/
def engineAgent (u : Nat) : Nat := ctxKey u 3 0

/-- The engine of a tile takes on a launch's translation, and gives it up. -/
def State.engineFor (s : State) (u tag : Nat) : State := s.setCtx (engineAgent u) { launch := tag }

def State.engineFree (s : State) (u : Nat) : State := s.setCtx (engineAgent u) {}

/-- One part of a block read with its translation by the tile's engine, or the fault that it will raise (R288, R289). -/
def State.blkPart (s : State) (va off len : Nat) : BlkPart × State :=
  match s.locate (engineAgent (unitOf s.cur)) .load (BitVec.ofNat 64 (va + off)) len with
  | .ok (p :: _, s) => (⟨s.nextId, off, len, some p.home, p.key, p.kid, none, none, p.size⟩, s.fresh)
  | .ok ([], s) => (⟨s.nextId, off, len, none, 0, 0, some (7, 0, BitVec.ofNat 64 (va + off)), none, 0⟩, s.fresh)
  | .error f => (⟨s.nextId, off, len, none, 0, 0, some (f.cause, f.sub, f.addr), none, 0⟩, s.fresh)

def State.blkParts (s : State) (va : Nat) : List (Nat × Nat) → List BlkPart × State
  | [] => ([], s)
  | (off, len) :: r =>
    let (p, s) := s.blkPart va off len
    let (ps, s) := s.blkParts va r
    (p :: ps, s)

/-- BLKRD's checks at issue, in order: the cause, subcode and fault address of the first that fails (R287). -/
def State.blkCheck (s : State) (src dst ctl : Word) : Option (Nat × Nat × Word) :=
  let n := Word.field ctl 0 20
  let tag := (s.ctx s.cur).launch
  if Word.field ctl 43 21 ≠ 0 || Word.field ctl 34 6 ≠ 0 || n = 0 || 524288 < n || n % 8 ≠ 0 then some (0xA, 0, 0)
  else if !s.handlerAllows tag (Word.field ctl 20 12) (Word.field ctl 32 2) then some (0xB, 0, 0)
  else if src.toNat % 8 ≠ 0 then some (6, 0, src)
  else if dst.toNat % 8 ≠ 0 then some (6, 0, dst)
  else if dst.toNat / 2 ^ 19 ≠ 0x80 * 2 ^ 29 || 524288 < dst.toNat % 524288 + n then some (7, 0, dst)
  else if !s.windowAllows s.cur src.toNat n then some (7, 0, src)
  else
    match s.launch? tag with
    | some l => if l.inRings (dst.toNat % 524288) n then some (8, 1, dst) else none
    | none => none

/-- The packet of a part that another package holds (R215). -/
def State.sendBlk (s : State) (k : Nat) (p : BlkPart) : State :=
  match p.home with
  | none => s
  | some h => s.sendHome { id := p.id, ctx := k, act := 0, grp := p.id, home := h, op := .load false, key := p.key, n := p.len }

def execBlkrd (a b : BitVec 6) (s : State) : Out :=
  s.issue { unit := .reader, reads := [a.toNat, b.toNat] } (fun s =>
    let c := s.ctx s.cur
    let ctl := c.getOx 0
    match s.blkCheck (s.reg a) (s.reg b) ctl with
    | some (cause, sub, addr) => s.trapAt s.cur cause sub addr none
    | none => s.irrevocably (fun s =>
      let n := Word.field ctl 0 20
      let (ps, s) := (s.engineFor (unitOf s.cur) c.launch).blkParts (s.reg a).toNat (sourceCuts (s.reg a).toNat n)
      let s := s.engineFree (unitOf s.cur)
      if s.gated true then s.waitGate
      else if s.msgHeld (ps.filterMap (·.home)) || 63 ≤ (s.ctx s.cur).cp then s.stall
      else
        let b : BlkRead := { ctx := s.cur, act := c.actId, launch := c.launch, dst := s.reg b, src := s.reg a, ctl := ctl,
                             user := c.getOx 1, parts := ps,
                             region := c.region.map (fun r => (r.slot, r.beginAt)) }
        let s := ps.foldl (fun (s : State) p => s.sendBlk s.cur p) { s with blks := s.blks ++ [b] }
        .next (s.done 4 { s.ctx s.cur with cp := (s.ctx s.cur).cp + 1 })))

end Sys2Proof.Machine
end

