-- ==== Sys2Proof/Machine/Matrix.lean ====
section
/-!
DEFINITION. Sys2Proof/Machine/Matrix.lean: the matrix engine (R143 to R155, R318): the issue of its instructions, what the engine
does with each when its turn comes, and DRDONE (R153, R296).
-/

namespace Sys2Proof.Machine

/-! ## Issue -/

/-- A matrix instruction put into the engine queue with its operands, a ring entry taken (R155, R318). -/
def State.engineIssue (s : State) (op : MatOp) : Out :=
  s.irrevocably (fun s =>
    match s.ringTake with
    | none => s.stall
    | some (seq, s) =>
      let c := s.ctx s.cur
      let t := s.tile (unitOf s.cur)
      let e : MatEntry := { op := op, seq := seq, ctx := s.cur, act := c.actId, launch := c.launch, pc := c.pc, word := c.word }
      .next ((s.setTile (unitOf s.cur) { t with engine := t.engine ++ [e] }).skip 4))

/-- Whether a slot is the first of a group that MWLD and MMA may name (R63). -/
def slotUsable (t : Tile) (n : Nat) : Bool :=
  let g := slotTag t n
  g.part == 0 && (g.state == .ready || g.state == .loading)

/-- The subcode with which a slot operand traps: the slot index, wa[4:0] (R145). Any context of the tile may name slots 16 to 23 while they are
READY (DESIGN CHOICE, log entry 86). -/
def State.slotRefusal (s : State) (w : Word) : Option Nat :=
  if 23 < w.toNat then some (w.toNat % 32)
  else if slotUsable (s.tile (unitOf s.cur)) w.toNat then none else some w.toNat

def execMwld (a : BitVec 6) (s : State) : Out :=
  s.issue { unit := .matrix, reads := [a.toNat] } (fun s =>
    match s.slotRefusal (s.reg a) with
    | some sub => s.trap 0x17 sub
    | none => s.engineIssue (.mwld (s.reg a).toNat))

/-- The subcode with which an MMA's second group traps: it is used only when M > 128 (R147). -/
def State.secondRefusal (s : State) (first : Nat) (shape : Word) : Option Nat :=
  let n := first + (slotTag (s.tile (unitOf s.cur)) first).width
  if Word.field shape 0 9 ≤ 128 then none
  else if 23 < n then some n
  else if slotUsable (s.tile (unitOf s.cur)) n then none else some n

def State.mmaOp (s : State) (a b : BitVec 6) (kind : RowKind) : Out :=
  s.issue { unit := .matrix, reads := [a.toNat, b.toNat] } (fun s =>
    let shape := (s.ctx s.cur).getOx 0
    match s.slotRefusal (s.reg a) with
    | some sub => s.trap 0x17 sub
    | none =>
      match s.secondRefusal (s.reg a).toNat shape with
      | some sub => s.trap 0x17 sub
      | none => s.engineIssue (.mma kind (s.reg a).toNat (s.reg b) shape))

def execMmaF (a b : BitVec 6) (s : State) : Out := s.mmaOp a b .f

def execMmaI (a b : BitVec 6) (s : State) : Out := s.mmaOp a b .i

def execMmaRs (a b : BitVec 6) (s : State) : Out := s.mmaOp a b .rs

def execMzero (a b : BitVec 6) (s : State) : Out :=
  s.issue { unit := .matrix, reads := [a.toNat, b.toNat] } (fun s => s.engineIssue (.mzero (s.reg a) (s.reg b)))

def State.mdrainOp (s : State) (a b : BitVec 6) (kind : Nat) : Out :=
  s.issue { unit := .matrix, reads := [a.toNat, b.toNat] } (fun s =>
    s.engineIssue (.mdrain kind (s.reg a) (s.reg b) ((s.ctx s.cur).getOx 1)))

def execMdrainF (a b : BitVec 6) (s : State) : Out := s.mdrainOp a b 0

def execMdrainIw (a b : BitVec 6) (s : State) : Out := s.mdrainOp a b 1

def execMdrainIs (a b : BitVec 6) (s : State) : Out := s.mdrainOp a b 2

def execMdrainRs (a b : BitVec 6) (s : State) : Out := s.mdrainOp a b 3

/-- DRDONE: the activation's buffer entry is freed at issue; its ring entry retires at once (R153, R296). -/
def execDrdone (s : State) : Out :=
  s.issue { unit := .matrix } (fun s => s.irrevocably (fun s =>
    match s.ringTake with
    | none => s.stall
    | some (seq, s) => .next (((s.ringRetire (coreOf s.cur) seq).freeDrain s.cur).skip 4)))

/-! ## Elements of a tile (R62, R133, R134) -/

/-- The code of element (r, c) of an image of a format. -/
def elemCode (format : Nat) (img : Nat → Byte) (r c : Nat) : Nat :=
  if format = 3 || format = 6 then (img (128 * r + c)).toNat
  else if format = 7 then (img (64 * r + c / 2)).toNat / 16 ^ (c % 2) % 16
  else if format = 4 then
    (img (64 * r + c / 2)).toNat / 16 ^ (c % 2) % 16 * 4 + (img (8192 + 32 * r + c / 4)).toNat / 4 ^ (c % 4) % 4
  else if format = 1 || format = 2 then bytesNat [img (256 * r + 2 * c), img (256 * r + 2 * c + 1)]
  else bytesNat ((List.range 4).map (fun i => img (512 * r + 4 * c + i)))

/-- The value of a float element. -/
def elemVal (format code : Nat) : FVal :=
  if format = 0 then fmtF32.value code
  else if format = 1 then fmtBF16.value code
  else if format = 2 then fmtF16.value code
  else if format = 3 then valKF8 code
  else fmtKF6.value code

/-- The value of an integer element. -/
def elemInt (format code : Nat) : Int := sextNat (if format = 7 then 4 else 8) code

/-- A byte of a group's image. -/
def State.imageByte (s : State) (unit first pos : Nat) : Byte := Tbl.get 0 s.opmem (imageKey unit first pos false)

/-- A scale vector of 512 bytes. -/
def scalesOf (f : Nat → Byte) : Vec := Vec.ofBytes f

/-! ## MWLD (R146) -/

/-- The weights of a group: its image and its scale vector. -/
def weightsOf (format : Nat) (img side : Nat → Byte) : Weights :=
  { format := format, image := Tbl.tabulate 0 (groupWidth format * 16384) img, scales := scalesOf side }

/-- The weights that MWLD loads from a group: none where the tag of a sealed unit fails. -/
def State.slotWeights (s : State) (unit first : Nat) (kept : Option SealRec) : Option Weights :=
  let t := s.tile unit
  let g := slotTag t first
  let n := groupWidth g.format * 16384
  let img := s.imageByte unit first
  let side := fun c => Tbl.get 0 s.opmem (imageKey unit first c true)
  if !g.sealed then some (weightsOf g.format img side)
  else
    match (match kept with | some r => some r | none => Tbl.get none t.seals first) with
    | none => none
    | some r =>
      let cipher := (List.range n).map img ++ (List.range 512).map side
      if r.key = 0 then none
      else
        match openUnit r.key r.model 1 g.format r.unit cipher r.tag with
        | none => none
        | some p => some (weightsOf g.format (fun i => nth 0 p i) (fun c => nth 0 p (n + c)))

/-! ## MMA (R147 to R150) -/

def mmaM (shape : Word) : Nat := Word.field shape 0 9

def mmaK (shape : Word) : Nat := Word.field shape 9 8

def mmaN (shape : Word) : Nat := Word.field shape 17 8

def mmaFormat (shape : Word) : Nat := Word.field shape 25 4

/-- Whether a range of rows lies within one bank (R145). -/
def rowsAllowed (first count : Nat) : Bool :=
  decide (1 ≤ count) && decide (count ≤ 256) && decide (first + count ≤ 512) && first / 256 == (first + count - 1) / 256

/-- Whether ox0 and the row operand of an MMA are in range. -/
def shapeAllowed (rows shape : Word) : Bool :=
  Word.field shape 29 35 == 0 && decide (1 ≤ mmaN shape) && decide (mmaN shape ≤ 128) && decide (1 ≤ mmaK shape) &&
    decide (mmaK shape ≤ 128) && decide (rows.toNat < 512) && rowsAllowed rows.toNat (mmaM shape)

/-- The format pairs of each opcode. -/
def pairAllowed (kind : RowKind) (a w : Nat) : Bool :=
  match kind with
  | .f => decide (a ≤ 4) && decide (w ≤ 4)
  | .i => (a == 6 || a == 7) && (w == 6 || w == 7)
  | .rs => a == 8 && w == 8
  | .empty => false

/-- Whether a row may take a kind: EMPTY, or of that kind. -/
def rowTakes (t : Tile) (kind : RowKind) (n : Nat) : Bool :=
  let k := (Tbl.get {} t.rows n).kind
  k == .empty || k == kind

/-- The weights that an MMA would use. -/
def Tile.mmaWeights (t : Tile) : Option Weights := match t.shadow with | some w => some w | none => t.active

/-- The fault of an MMA, subcause and detail, in the order in which R147 lists them. -/
def Tile.mmaFault (t : Tile) (broken : Bool) (kind : RowKind) (slot : Nat) (rows shape : Word) : Option (Nat × Nat) :=
  let g := slotTag t slot
  let g2 := slotTag t (slot + g.width)
  match t.mmaWeights with
  | none => some (5, 0)
  | some w =>
    if broken || !shapeAllowed rows shape || !pairAllowed kind g.format w.format || mmaFormat shape ≠ g.format then some (4, 0)
    else if 128 < mmaM shape && (g2.format ≠ g.format || g2.width ≠ g.width) then some (4, 0)
    else if !(List.range (mmaM shape)).all (fun i => rowTakes t kind (rows.toNat + i)) then some (6, 0)
    else if g.sealed || (decide (128 < mmaM shape) && g2.sealed) then some (2, 8)
    else none

/-- The code of A(i, k): rows from 128 on lie in the group that follows. -/
def State.aCode (s : State) (unit slot width format i k : Nat) : Nat :=
  elemCode format (s.imageByte unit (if i < 128 then slot else slot + width)) (i % 128) k

/-- Lane (i, j) of MMA.F: a chain of fused multiply-adds in ascending k, one rounding a step (R148). -/
def chainF (a w : Nat → FVal) : Nat → Word32 → Nat → Word32
  | _, p, 0 => p
  | k, p, n + 1 => chainF a w (k + 1) (toF32 ((valF32 p).add ((a k).mul (w k)))) n

/-- Lane (i, j) of MMA.I: the exact sum, which the three value channels reconstruct; its check channel agrees unless an upset has met the
pass, which the upset itself replays or ends in a machine check (R149). -/
def sumI (a w : Nat → Int) (n : Nat) : Int := (List.range n).foldl (fun s k => s + a k * w k) 0

/-- A channel's sum of products modulo its modulus (R150). -/
def sumRs (a w : Nat → Nat) (m n : Nat) : Nat := (List.range n).foldl (fun s k => (s + a k * w k) % m) 0

/-- A lane after the pass of an MMA, from the codes of its row of A and column of W. -/
def lanePass (kind : RowKind) (fa fw : Nat) (a w : Nat → Nat) (k : Nat) (old : BitVec 48) : BitVec 48 :=
  match kind with
  | .f => (f32Add (old.setWidth 32) (chainF (fun i => elemVal fa (a i)) (fun i => elemVal fw (w i)) 0 0 k)).setWidth 48
  | .i => old + BitVec.ofInt 48 (sumI (fun i => elemInt fa (a i)) (fun i => elemInt fw (w i)) k)
  | .rs =>
    let ch := fun n m => (old.toNat / 256 ^ n % 256 + sumRs (fun i => a i / 256 ^ n % 256) (fun i => w i / 256 ^ n % 256) m k) % m
    BitVec.ofNat 48 (resPack (ch 0 256, ch 1 255, ch 2 253, ch 3 251))
  | .empty => old

/-- A row after the pass: lanes below N change, and the row takes the kind. -/
def State.rowPass (s : State) (unit : Nat) (kind : RowKind) (slot : Nat) (shape : Word) (w : Weights) (i : Nat) (old : Row) :
    Row :=
  let g := slotTag (s.tile unit) slot
  let img := fun n => Tbl.get 0 w.image n
  { kind := kind, lanes := (List.range (mmaN shape)).foldl (fun t j =>
      Tbl.set 0 t j (lanePass kind g.format w.format (s.aCode unit slot g.width g.format i)
        (fun k => elemCode w.format img k j) (mmaK shape) (Tbl.get 0 old.lanes j))) old.lanes }

/-- The rows after the pass. -/
def State.mmaRows (s : State) (unit : Nat) (kind : RowKind) (slot : Nat) (rows shape : Word) (w : Weights) : Tbl Row :=
  (List.range (mmaM shape)).foldl (fun t i =>
    Tbl.set {} t (rows.toNat + i) (s.rowPass unit kind slot shape w i (Tbl.get {} t (rows.toNat + i)))) (s.tile unit).rows

/-! ## MDRAIN (R152, R153) -/

def drainFirst (rows : Word) : Nat := Word.field rows 0 9

def drainCount (rows : Word) : Nat := Word.field rows 16 9

/-- The row kind that a drain needs. -/
def drainKind (kind : Nat) : RowKind := if kind = 0 then .f else if kind = 3 then .rs else .i

/-- The fault of an MDRAIN: OPERAND or ACC_KIND. -/
def State.drainFault (s : State) (unit launch kind : Nat) (rows ox1 : Word) : Option Nat :=
  let allows := match s.handler? launch (Word.field ox1 0 12) with
    | some h => roleAllows h.role 2
    | none => false
  if Word.field rows 9 7 ≠ 0 || Word.field rows 25 39 ≠ 0 || !rowsAllowed (drainFirst rows) (drainCount rows) ||
      Word.field ox1 12 52 ≠ 0 || !allows then some 4
  else if !(List.range (drainCount rows)).all (fun i => rowTakes (s.tile unit) (drainKind kind) (drainFirst rows + i)) then some 6
  else none

/-- A lane as a drain delivers it. -/
def drainLane (kind : Nat) (x : BitVec 48) : Word32 := if kind = 2 then w32 (clampInt 32 x.toInt) else x.setWidth 32

/-- The lowest free entry of the drain buffer. -/
def Tile.freeEntry (t : Tile) : Option Nat := (List.range 8).find? (fun n => Tbl.get none t.drain n == none)

/-- Rows copied into free entries of the buffer, in order: the tile after it, and how many of them in all. -/
def Tile.fillDrain (t : Tile) (order launch kind handler : Nat) (user : Word) (first : Nat) : Nat → Nat → Tile × Nat
  | done, 0 => (t, done)
  | done, n + 1 =>
    match t.freeEntry with
    | none => (t, done)
    | some e =>
      let row := Tbl.get {} t.rows (first + done)
      let d : DrainEntry := { order := order, row := first + done, lanes := Vec.ofFn (fun i => drainLane kind (Tbl.get 0 row.lanes i)),
                              scales := match t.active with | some w => w.scales | none => [], user := user,
                              handler := handler, launch := launch, dispatched := false }
      Tile.fillDrain { t with drain := Tbl.set none t.drain e (some d) } (order + 1) launch kind handler user first (done + 1) n

/-! ## MATRIX_PERFORM -/

/-- The engine's entry at the head of its queue gone, its ring entry retired. -/
def State.engineDone (s : State) (unit : Nat) (e : MatEntry) (t : Tile) : State :=
  (s.setTile unit { t with engine := t.engine.drop 1 }).ringRetire (agentKey unit 2) e.seq

/-- A late fault of an engine entry: nothing else changes (R145, R303). -/
def State.engineFault (s : State) (unit : Nat) (e : MatEntry) (sub detail : Nat) (t : Tile) : State :=
  (s.setTile unit { t with engine := t.engine.drop 1 }).lateFault e.ctx e.act e.launch
    ⟨e.pc, e.word, e.seq, sub, detail, 0, none⟩

/-- Whether data that an instruction reads holds an uncorrectable error: a slot of its groups, or an accumulator row (R22, R171). -/
def Tile.consumesBad (t : Tile) (op : MatOp) : Bool :=
  let group := fun (n : Nat) => (List.range (slotTag t n).width).any (fun i => Tbl.get false t.slotBad (n + i))
  let rows := fun (first n : Nat) => (List.range n).any (fun i => (Tbl.get {} t.rows (first + i)).bad)
  match op with
  | .mwld slot => group slot
  | .mma _ slot first shape =>
    group slot || (decide (128 < mmaM shape) && group (slot + (slotTag t slot).width)) || rows first.toNat (mmaM shape)
  | .mzero _ _ => false
  | .mdrain _ r _ _ => rows (drainFirst r) (drainCount r)

/-- The head of the engine queue performed (R146 to R153). -/
def State.performHead (s : State) (unit : Nat) (e : MatEntry) : State :=
  let t := s.tile unit
  match e.op with
  | .mwld slot =>
    if e.broken then s.engineFault unit e 4 0 t
    else if t.consumesBad e.op then s.engineFault unit e 8 0 t
    else
      match s.slotWeights unit slot e.kept with
      | none => s.engineFault unit e 7 0 { t with shadow := none }
      | some w => s.engineDone unit e { t with shadow := some w }
  | .mma kind slot rows shape =>
    match t.mmaFault e.broken kind slot rows shape, t.mmaWeights with
    | some (sub, detail), _ => s.engineFault unit e sub detail t
    | none, some w =>
      if t.consumesBad e.op then s.engineFault unit e 8 0 t
      else s.engineDone unit e { t with shadow := none, active := some w, rows := s.mmaRows unit kind slot rows shape w }
    | none, none => s
  | .mzero first count =>
    if first.toNat < 512 && rowsAllowed first.toNat count.toNat then
      s.engineDone unit e { t with rows := Tbl.clear t.rows first.toNat (first.toNat + count.toNat) }
    else s.engineFault unit e 4 0 t
  | .mdrain kind rows user ox1 =>
    match (if e.done = 0 then s.drainFault unit e.launch kind rows ox1 else none) with
    | some sub => s.engineFault unit e sub 0 t
    | none =>
      if e.done = 0 && t.consumesBad e.op then s.engineFault unit e 8 0 t
      else
      let (t, n) := t.fillDrain s.nextId e.launch kind (Word.field ox1 0 12) user (drainFirst rows) e.done
        (drainCount rows - e.done)
      let s := { s with nextId := s.nextId + (n - e.done) }
      if n = drainCount rows then (s.sampleAt e.ctx 10 (s.cycle - e.waits.getD s.cycle)).engineDone unit e t
      else s.setTile unit { t with engine := { e with done := n, waits := some (e.waits.getD s.cycle) } :: t.engine.drop 1 }

/-- MATRIX_PERFORM: the next matrix instruction in issue order, once every OSLD issued before it has written its group (R155). -/
def execMatrixPerform (unit : Nat) (s : State) : Out :=
  match (s.tile unit).engine with
  | [] => .next s
  | e :: _ => if s.loads.any (fun l => l.unit == unit && seqOlder l.seq e.seq) then .next s else .next (s.performHead unit e)

end Sys2Proof.Machine
end

