-- ==== Sys2Proof/Machine/EngineRuns.lean ====
section
/-!
DEFINITION. Sys2Proof/Machine/EngineRuns.lean: what engines do with what was submitted to them: copy jobs (R308, R309) and
collectives (R218, R219) under their footprints (R84), tile tasks (R109, R110), block reads (R288, R289), and the start of
drain activations (R153).
-/

namespace Sys2Proof.Machine

/-! ## Faults (R163) -/

/-- An entry of a footprint table gone, its submitter's cp or tl lowered. -/
def State.retireJob (s : State) (j : EngineJob) : State :=
  let s := { s with clusters := s.clusters.map (fun (e : Nat × Cluster) =>
    (e.1, { e.2 with table := e.2.table.filter (fun (x : EngineJob) => x.id != j.id) })) }
  if j.kind = .tileTask then s.lowerTl j.ctx j.act else s.lowerCp j.ctx j.act

/-- ENGINE_FAULT: the message to the late-class handler on the submitter's tile (R166), whichever activation submitted the job (DESIGN CHOICE, log
entry 98). -/
def State.engineMessage (s : State) (ctx tag : Nat) (va : Word) (sub detail : Nat) (addr : Word) : State :=
  s.trapMessage tag 2 (coreOf ctx) (unitOf ctx) [va, trapWord 0x1A sub none detail, s.whoWord ctx, addr]

def State.jobFault (s : State) (j : EngineJob) (sub detail : Nat) (addr : Word) : State :=
  (s.retireJob j).engineMessage j.ctx j.launch j.va sub detail addr

/-! ## Accesses of an engine -/

/-- The answer of an engine's accesses: not yet, a fault with subcause, detail and address, or done with a value. -/
inductive JobAns (α : Type) where
  | wait
  | fault (s : State) (sub detail : Nat) (addr : Word)
  | done (s : State) (x : α)

/-- The engine fault of a memory fault: XLATE, PERM with its detail, or POISON of a translation. -/
def engineSub (f : MemFault) : Nat := if f.cause = 8 then 2 else if f.cause = 0x14 then 5 else 1

/-- Whether an engine's access waits at a home: a region holds a line of it (R130), or the plane to it is held (R217). -/
def State.engHeld (s : State) (ps : List Part) : Bool :=
  ps.any (fun p => s.lineHeld p.home (linesOf p.key p.len) none || s.homeHeld p.home)

/-- The packets of the parts of an engine's access that leave the package: reads, or writes of the access's bytes (R215). -/
def State.engSend (s : State) (u : Nat) (bytes : Option (List (Byte × Bool))) : List Part → State
  | [] => s
  | p :: r => (s.sendFor u p.home p.key p.len (bytes.map (fun bs => enumBytes (((bs.drop p.off).take p.len).map (·.1))))).engSend u bytes r

/-- Bytes read by an engine, each with its mark; an error among them is counted as it is detected (R171). -/
def State.engRead (s : State) (u : Nat) (va n : Nat) : JobAns (List (Byte × Bool)) :=
  match s.locate (engineAgent u) .load (BitVec.ofNat 64 va) n with
  | .error f => .fault (s.noteError f) (engineSub f) f.detail f.addr
  | .ok (ps, s) =>
    if s.engHeld ps then .wait
    else
      let s := s.engSend u none ps
      let bs := ps.flatMap (fun p => (List.range p.len).map (fun i => (s.readByte p.kid (p.key + i), Tbl.get false s.bad (p.key + i))))
      .done (if bs.any (fun b => b.2) then s.logError true else s) bs

/-- Marked bytes stored at a key, but for those that hardware alone writes (R5). -/
def State.pokeMarked (s : State) (kid key : Nat) : List (Byte × Bool) → State
  | [] => s
  | (b, bad) :: r => (if s.hardwareOwned key then s else s.writeByte kid key b bad).pokeMarked kid (key + 1) r

def State.storeMarked (s : State) (bs : List (Byte × Bool)) : List Part → State
  | [] => s
  | p :: r => ((s.abortReaders p.home p.key p.len).pokeMarked p.kid p.key ((bs.drop p.off).take p.len)).storeMarked bs r

/-- Bytes written by an engine. -/
def State.engWrite (s : State) (u : Nat) (va : Nat) (bs : List (Byte × Bool)) : JobAns Unit :=
  match s.locate (engineAgent u) .store (BitVec.ofNat 64 va) bs.length with
  | .error f => .fault (s.noteError f) (engineSub f) f.detail f.addr
  | .ok (ps, s) =>
    if s.engHeld ps then .wait else .done ((s.engSend u (some bs) ps).storeMarked bs ps) ()

/-- Bytes read and written one run after another. -/
def State.engCopy (s : State) (u src dst : Nat) : List (Nat × Nat) → JobAns Unit
  | [] => .done s ()
  | (off, len) :: r =>
    match s.engRead u (src + off) len with
    | .wait => .wait
    | .fault s a b c => .fault s a b c
    | .done s bs =>
      match s.engWrite u (dst + off) bs with
      | .done s _ => s.engCopy u src dst r
      | other => other

/-- The runs of a range: cut where 256-byte blocks end. -/
def runsOf (va n : Nat) : List (Nat × Nat) := splitBlocks (n / 256 + 2) va 0 n

/-- A pattern written over runs. -/
def State.engFill (s : State) (u dst : Nat) (pattern : Word) : List (Nat × Nat) → JobAns Unit
  | [] => .done s ()
  | (off, len) :: r =>
    match s.engWrite u (dst + off) ((List.range len).map (fun i => (pattern.extractLsb' (8 * ((off + i) % 8)) 8, false))) with
    | .done s _ => s.engFill u dst pattern r
    | other => other

/-! ## Copy cards (R309) -/

def EngineJob.dword (j : EngineJob) (n : Nat) : Word := BitVec.ofNat 64 (bytesNat ((j.card.drop (8 * n)).take 8))

def EngineJob.num (j : EngineJob) (n : Nat) : Nat := (j.dword n).toNat

def EngineJob.cardRevision (j : EngineJob) : Nat := Word.field (j.dword 0) 0 8

def EngineJob.copyOp (j : EngineJob) : Nat := Word.field (j.dword 0) 16 8

/-- Whether two ranges overlap. -/
def overlap (a n b m : Nat) : Bool := decide (a < b + m) && decide (b < a + n)

/-- Whether a copy card meets its table. -/
def EngineJob.copyAllowed (j : EngineJob) : Bool :=
  let len := Word.field (j.dword 3) 0 33
  let bytes := decide (8 ≤ len) && decide (len ≤ 2 ^ 32) && len % 8 == 0
  Word.field (j.dword 0) 24 40 == 0 && Word.field (j.dword 0) 8 8 == 0 && Word.field (j.dword 3) 33 31 == 0 &&
    Word.field (j.dword 5) 8 56 == 0 && j.num 7 == 0 && j.num 2 % 8 == 0 &&
    (match j.copyOp with
     | 0 => bytes && j.num 1 % 8 == 0 && j.num 4 == 0 && j.num 5 == 0 && j.num 6 == 0 && !overlap (j.num 1) len (j.num 2) len
     | 1 => decide (1 ≤ len) && decide (len ≤ 2 ^ 24) && j.num 4 % 4 == 0 && (j.num 5 == 4 || j.num 5 == 8) &&
         decide (1 ≤ j.num 6) && decide (j.num 6 ≤ 2 ^ 40)
     | 2 => j.cardRevision == 2 && bytes && j.num 1 == 0 && j.num 5 == 0 && j.num 6 == 0
     | _ => false)

/-- The elements of a gather from number i: index, element, destination. A poisoned index array is POISON (R171). -/
def State.engGather (s : State) (u : Nat) (j : EngineJob) (i : Nat) : Nat → JobAns Unit
  | 0 => .done s ()
  | n + 1 =>
    let size := j.num 5
    match s.engRead u (j.num 4 + 4 * i) 4 with
    | .wait => .wait
    | .fault s a b c => .fault s a b c
    | .done s ix =>
      if ix.any (fun p => p.2) then .fault s 5 0 (BitVec.ofNat 64 (j.num 4 + 4 * i))
      else
        let off := size * bytesNat (ix.map (fun p => p.1))
        if j.num 6 < off + size then .fault s 3 0 (BitVec.ofNat 64 (j.num 1 + off))
        else
          match s.engRead u (j.num 1 + off) size with
          | .wait => .wait
          | .fault s a b c => .fault s a b c
          | .done s bs =>
            match s.engWrite u (j.num 2 + size * i) bs with
            | .done s _ => s.engGather u j (i + 1) n
            | other => other

/-- A copy job's accesses, whole. -/
def State.copyRun (s : State) (j : EngineJob) : JobAns Unit :=
  let len := Word.field (j.dword 3) 0 33
  match j.copyOp with
  | 0 => s.engCopy j.unit (j.num 1) (j.num 2) (runsOf (j.num 1) len)
  | 1 => s.engGather j.unit j 0 len
  | _ => s.engFill j.unit (j.num 2) (j.dword 4) (runsOf (j.num 2) len)

/-! ## Collectives (R218, R219) -/

def EngineJob.firstPackage (j : EngineJob) : Nat := Word.field (j.dword 1) 0 16

def EngineJob.packageCount (j : EngineJob) : Nat := Word.field (j.dword 1) 16 16

def EngineJob.collectiveOp (j : EngineJob) : Nat := Word.field (j.dword 0) 48 8

def EngineJob.collectiveAllowed (j : EngineJob) : Bool :=
  let f := Word.field (j.dword 0) 44 4
  Word.field (j.dword 0) 56 8 == 0 && decide (j.collectiveOp ≤ 3) && (f == 0 || f == 5) && Word.field (j.dword 0) 8 36 == 0 &&
    Word.field (j.dword 1) 48 16 == 0 && decide (1 ≤ j.packageCount) && decide (j.packageCount ≤ 288) && decide (1 ≤ j.num 2) &&
    decide (j.num 2 ≤ 2 ^ 32) && j.num 4 % 64 == 0 && j.num 5 % 64 == 0 && j.num 6 == 0 && j.num 7 == 0

/-- The 32-bit elements of bytes. -/
def elementsOf (n : Nat) (bs : List Byte) : List Word32 :=
  (List.range n).map (fun i => BitVec.ofNat 32 (bytesNat ((bs.drop (4 * i)).take 4)))

/-- Elements combined pairwise. -/
def combine (f : Word32 → Word32 → Word32) (a b : List Word32) : List Word32 := List.zipWith f a b

/-- The operator of an all-reduce: F32 or I32, sum or maximum. -/
def reduceWith (op format : Nat) : Word32 → Word32 → Word32 :=
  if op = 0 then (if format = 0 then f32Add else fun x y => x + y)
  else if format = 0 then f32Max else fun x y => if x.slt y then y else x

/-- The first n elements that packets have brought of a package's contribution to a collective, in the order in which they came, and the packets
that are left; none while some are missing. -/
def gatherFrom (tag : Word) (p n : Nat) : List (Word × Nat × List Word32) → Option (List Word32 × List (Word × Nat × List Word32))
  | [] => if n = 0 then some ([], []) else none
  | e :: r =>
    if n = 0 then some ([], e :: r)
    else if e.1 = tag && e.2.1 = p then (gatherFrom tag p (n - e.2.2.length) r).map (fun x => (e.2.2 ++ x.1, x.2))
    else (gatherFrom tag p n r).map (fun x => (x.1, e :: x.2))

/-- The contribution of a package to a collective: this package's own, or what has arrived of another's. -/
def State.contribution (s : State) (j : EngineJob) (own : List Word32) (p : Nat) : Option (List Word32) :=
  if p = s.package then some own else (gatherFrom (j.dword 3) p (j.num 2) s.collected).map (·.1)

/-- The contributions of packages in ascending order; none while one is missing. -/
def State.contributions (s : State) (j : EngineJob) (own : List Word32) : List Nat → Option (List (List Word32))
  | [] => some []
  | p :: r =>
    match s.contribution j own p, s.contributions j own r with
    | some x, some xs => some (x :: xs)
    | _, _ => none

/-- The result of a collective from its contributions in ascending package order (R219). What a root outside the group gives, and a group that runs
past package 287 or leaves this package out, is the model's choice (DESIGN CHOICE, log entry 101). -/
def EngineJob.collectiveResult (j : EngineJob) (xs : List (List Word32)) : List Word32 :=
  let f := Word.field (j.dword 0) 44 4
  match j.collectiveOp with
  | 2 => nth [] xs (Word.field (j.dword 1) 32 16 - j.firstPackage)
  | 3 => xs.flatten
  | op =>
    match xs with
    | [] => []
    | x :: r => r.foldl (combine (reduceWith op f)) x

/-- The contributions of the other members that a collective has combined leave: a later collective of the tag has contributions of its
own. -/
def State.consume (s : State) (tag : Word) (n : Nat) : List Nat → State
  | [] => s
  | p :: r =>
    let left := if p = s.package then s.collected else ((gatherFrom tag p n s.collected).map (·.2)).getD s.collected
    State.consume { s with collected := left } tag n r

/-- The members of a collective's group, in ascending order. -/
def EngineJob.members (j : EngineJob) : List Nat := (List.range j.packageCount).map (· + j.firstPackage)

/-- Elements in runs of at most 64, the 256 bytes that one packet takes. -/
def packetsOf : Nat → List Word32 → List (List Word32)
  | 0, _ => []
  | fuel + 1, xs => if xs.isEmpty then [] else xs.take 64 :: packetsOf fuel (xs.drop 64)

/-- A contribution sent to a member: it is addressed to the unit of the same number there (log entry 82). -/
def State.contribute (s : State) (j : EngineJob) (q : Nat) : List (List Word32) → State
  | [] => s
  | xs :: r =>
    let x : Packet := ⟨s.package * 4096 + j.unit * 4, q * 4096 + j.unit * 4, .collective (j.dword 3) s.package xs⟩
    ((s.sendOn (planeOf q j.unit) s.nextId x).fresh).contribute j q r

/-- A collective's source read and sent to every other member directly (R219); it waits while the plane to one of them is held. -/
def State.collectiveSend (s : State) (j : EngineJob) : JobAns (List Word32) :=
  let n := j.num 2
  let others := j.members.filter (· != s.package)
  if others.any (fun q => s.planeHeld (planeOf q j.unit)) then .wait
  else
    match s.engRead j.unit (j.num 4) (4 * n) with
    | .wait => .wait
    | .fault s a b c => .fault s a b c
    | .done s bs =>
      if bs.any (fun p => p.2) then .fault s 5 0 (j.dword 4)
      else
        let xs := elementsOf n (bs.map (fun p => p.1))
        .done (others.foldl (fun (s : State) q => s.contribute j q (packetsOf n xs)) s) xs

/-- A collective's destination written once every member has contributed. -/
def State.collectiveRun (s : State) (j : EngineJob) (own : List Word32) : JobAns Unit :=
  match s.contributions j own j.members with
  | none => .wait
  | some xs => (s.consume (j.dword 3) (j.num 2) j.members).engWrite j.unit (j.num 5)
      ((j.collectiveResult xs).flatMap (fun x => (natBytes 4 x.toNat).map (fun b => (b, false))))

/-- A job's accesses: a collective first sends its contribution, which it then keeps, and is done with the result. -/
def State.jobRun (s : State) (j : EngineJob) : JobAns (Option (List Word32)) :=
  let whole := fun (a : JobAns Unit) => match a with
    | .wait => JobAns.wait
    | .fault s x y z => .fault s x y z
    | .done s _ => .done s none
  if j.kind = .copy then whole (s.copyRun j)
  else
    match j.own with
    | some xs => whole (s.collectiveRun j xs)
    | none =>
      match s.collectiveSend j with
      | .wait => .wait
      | .fault s x y z => .fault s x y z
      | .done s xs => .done s (some xs)

/-! ## Footprints (R84) -/

/-- What of a footprint lies in n bytes of a local window from an address, whose memory keys start at a key. -/
def Footprint.within (f : Footprint) (va n key : Nat) : List (Nat × Footprint) :=
  let lo := max f.base va
  let hi := min (f.base + f.len) (va + n)
  if lo < hi then [(0, { f with base := key + (lo - va), len := hi - lo })] else []

/-- The windows of local memory as an engine's launch sees them: address, bytes and memory key of its own tile, of each tile of the launch (R53),
and of the pool. -/
def Launch.windows (l : Launch) (unit : Nat) : List (Nat × Nat × Nat) :=
  (0x80 * 2 ^ 48, 524288, scratchKey unit 0) ::
    ((List.zip (List.range l.units.length) l.units).map (fun e =>
      (0x81 * 2 ^ 48 + e.1 / l.groupTiles * 2 ^ 32 + e.1 % l.groupTiles * 524288, 524288, scratchKey e.2 0))) ++
    (match assoc l.pools (clusterOf unit) with
     | some b => [(0x82 * 2 ^ 48, l.poolBytes, poolKey (clusterOf unit) b)]
     | none => [])

/-- A footprint in the spaces where its bytes lie: a page table's global addresses, or the memory keys of a local window, tile by tile; the own tile
is that of the engine's M-core, also for a tile task (R84; DESIGN CHOICE, log entry 88). -/
def State.places (s : State) (j : EngineJob) (f : Footprint) : List (Nat × Footprint) :=
  match s.launch? j.launch with
  | none => []
  | some l =>
    if f.base < 2 ^ 55 then [(l.root + 1, f)]
    else (l.windows j.unit).flatMap (fun w => f.within w.1 w.2.1 w.2.2)

/-- The footprints of a job or tile task, those of length 0 unused. -/
def EngineJob.footprints (j : EngineJob) : List Footprint :=
  let len := Word.field (j.dword 3) 0 33
  let fs : List Footprint := match j.kind with
    | .copy =>
      (match j.copyOp with
       | 0 => [⟨j.num 1, len, false⟩, ⟨j.num 2, len, true⟩]
       | 1 => [⟨j.num 4, 4 * len, false⟩, ⟨j.num 1, j.num 6, false⟩, ⟨j.num 2, len * j.num 5, true⟩]
       | _ => [⟨j.num 2, len, true⟩])
    | .collective =>
      [⟨j.num 4, 4 * j.num 2, false⟩, ⟨j.num 5, 4 * j.num 2 * (if j.collectiveOp = 3 then j.packageCount else 1), true⟩]
    | .tileTask =>
      (List.range 4).map (fun i => ⟨j.num (4 + 2 * i), Word.field (j.dword (5 + 2 * i)) 0 48, pteBit (j.dword (5 + 2 * i)) 63⟩)
  fs.filter (fun f => f.len != 0)

/-- Whether an earlier entry and a later one have an edge. -/
def State.edge (s : State) (a b : EngineJob) : Bool :=
  a.footprints.any (fun f => b.footprints.any (fun g =>
    (f.write || g.write) && (s.places a f).any (fun x => (s.places b g).any (fun y =>
      x.1 == y.1 && overlap x.2.base x.2.len y.2.base y.2.len))))

/-- Whether an entry has no edge to an unfinished earlier entry of its table. -/
def State.noEdges (s : State) (j : EngineJob) : List EngineJob → Bool
  | [] => true
  | x :: r => if x.id = j.id then true else !s.edge x j && s.noEdges j r

/-- The table that holds an entry. -/
def State.jobEntry (s : State) (id : Nat) : Option (List EngineJob × EngineJob) :=
  s.clusters.findSome? (fun (e : Nat × Cluster) => (e.2.table.find? (fun (x : EngineJob) => x.id == id)).map (fun x => (e.2.table, x)))

def State.setJobEntry (s : State) (j : EngineJob) : State :=
  { s with clusters := s.clusters.map (fun (e : Nat × Cluster) =>
    (e.1, { e.2 with table := e.2.table.map (fun (x : EngineJob) => if x.id = j.id then j else x) })) }

/-- Whether a launch holds its tiles: the jobs of an absent launch wait (R170). -/
def State.holdsTiles (s : State) (tag : Nat) : Bool := match s.launch? tag with | some l => l.state == .resident | none => false

/-- ENGINE_JOB_START: an engine job without edges has its card checked and starts. -/
def execEngineJobStart (job : Nat) (s : State) : Out :=
  match s.jobEntry job with
  | none => .next s
  | some (table, j) =>
    if j.kind = .tileTask || j.started || !s.holdsTiles j.launch || !s.noEdges j table then .next s
    else if j.cardRevision ≠ j.revision then .next (s.jobFault j 4 0 0)
    else if !(if j.kind = .copy then j.copyAllowed else j.collectiveAllowed) then .next (s.jobFault j 3 0 0)
    else .next (s.setJobEntry { j with started := true })

/-- ENGINE_JOB_COMPLETE: a started job makes its accesses and is retired, or faults, a collective once for its contribution and once for its
result; a tile task whose writes have been performed
leaves the table (R110). -/
def execEngineJobComplete (job : Nat) (s : State) : Out :=
  match s.jobEntry job with
  | none => .next s
  | some (_, j) =>
    if j.kind = .tileTask then
      match j.ending with
      | some ids => if s.anyUnderWay ids then .next s else .next (s.retireJob j)
      | none => .next s
    else if !j.started || !s.holdsTiles j.launch then .next s
    else
      match (s.engineFor j.unit j.launch).jobRun j with
      | .wait => .next s
      | .fault s sub detail addr => .next ((s.engineFree j.unit).jobFault j sub detail addr)
      | .done s (some xs) => .next ((s.engineFree j.unit).setJobEntry { j with own := some xs })
      | .done s none => .next ((s.engineFree j.unit).retireJob j)

/-! ## Tile tasks (R109, R110) -/

/-- One operand load of a tile-task record: slot, format and address. -/
structure TaskLoad where
  slot : Nat
  format : Nat
  va : Word
  deriving DecidableEq, Repr

def EngineJob.taskLoads (j : EngineJob) : List TaskLoad :=
  ((List.range 4).map (fun i => j.dword (12 + i))).filterMap (fun d =>
    if pteBit d 63 then some ⟨16 + Word.field d 60 3, Word.field d 56 4, BitVec.ofNat 64 (Word.field d 0 56)⟩ else none)

/-- Whether the groups of a list of loads lie apart. -/
def loadsApart : List TaskLoad → Bool
  | [] => true
  | x :: r => r.all (fun y => !overlap x.slot (groupWidth x.format) y.slot (groupWidth y.format)) && loadsApart r

/-- Whether a tile-task record meets its table. -/
def EngineJob.taskAllowed (j : EngineJob) : Bool :=
  j.num 3 == 0 && (List.range 4).all (fun i => Word.field (j.dword (5 + 2 * i)) 48 15 == 0) &&
    j.taskLoads.all (fun x => let n := groupWidth x.format
      n != 0 && x.slot % (if n = 0 then 1 else n) == 0 && decide (x.slot + n ≤ 24)) && loadsApart j.taskLoads

/-- Whether a tile's engine is free for a launch's task (R110). -/
def State.engineIdle (s : State) (table : List EngineJob) (tag : Nat) (l : Launch) (v : Nat) : Bool :=
  let t := s.tile v
  t.launch == some tag && !table.any (fun x => x.runner == some v) && (List.range 16).all (fun n => (slotTag t n).state == .free) &&
    (s.idleContext (agentKey v 2) l).isSome && (s.dispatcher (agentKey v 2) false).isSome

/-- The tile on which a task would run now. -/
def State.taskTile (s : State) (cluster : Nat) (table : List EngineJob) (j : EngineJob) : Option Nat :=
  match s.launch? j.launch with
  | none => none
  | some l => ((List.range 8).map (· + cluster * 8)).find? (s.engineIdle table j.launch l)

/-- A task's operand loads made, in order; each is a load of an image and its scales (R199). -/
def State.taskLoadsFrom (s : State) (v tag : Nat) : List TaskLoad → JobAns Unit
  | [] => .done s ()
  | x :: r =>
    let w := groupWidth x.format
    let load : SlotLoad := { id := s.nextId, ctx := engineAgent v, act := 0, launch := tag, unit := v, slot := x.slot, src := x.va,
                             ox1 := 0, ox2 := BitVec.ofNat 64 x.format, seq := 0, pc := 0, word := 0 }
    match s.readPieces load false (load.pieces.flatMap Piece.cut) with
    | .wait => .wait
    | .fault s sub detail addr => .fault s (if sub = 8 then 5 else sub) detail addr
    | .done s sealed =>
      let record := if sealed then s.sealRecord .core (engineAgent v) tag x.va (w * 16384 + 512) else none
      let t := s.tile v
      let t := { t with seals := Tbl.set none t.seals x.slot record }
      (s.setTile v (tagGroup t x.slot w .ready x.format sealed)).taskLoadsFrom v tag r

/-- Slots 16 to 23 of a tile freed, at once: an instruction still in the engine queue finds them FREE (R64; DESIGN CHOICE, log entry 86). -/
def Tile.freeTaskSlots (t : Tile) : Tile :=
  { t with slots := Tbl.clear t.slots 16 24, seals := Tbl.clear t.seals 16 24, slotBad := Tbl.clear t.slotBad 16 24 }

/-- A task issued to a tile: its loads, then its handler's activation. -/
def State.issueTask (s : State) (j : EngineJob) (l : Launch) (v : Nat) : State :=
  match (s.engineFor v j.launch).taskLoadsFrom v j.launch j.taskLoads with
  | .wait => s
  | .fault s sub detail addr => ((s.engineFree v).setTile v (s.tile v).freeTaskSlots).jobFault j sub detail addr
  | .done s _ =>
    let s := (s.engineFree v).setJobEntry { j with started := true, runner := some v }
    match s.idleContext (agentKey v 2) l, s.handler? j.launch (Word.field (j.dword 0) 0 12) with
    | some k, some h => s.start k j.launch l h { header := j.dword 0, ttq := some j.id } 0 [j.dword 1, j.dword 2]
    | _, _ => s

/-- TILE_TASK_ISSUE: the oldest task of a cluster that has no edge and a free engine; a malformed record is rejected as it is
read, here (DESIGN CHOICE, log entry 93). -/
def execTileTaskIssue (cluster : Nat) (s : State) : Out :=
  let table := (s.cluster cluster).table
  let ready := fun (j : EngineJob) => j.kind == .tileTask && !j.started && s.noEdges j table
  match table.find? (fun j => ready j && (!j.taskAllowed || (s.taskTile cluster table j).isSome)) with
  | none => .next s
  | some j =>
    if !j.taskAllowed then .next (s.jobFault j 3 0 0)
    else
      match s.taskTile cluster table j, s.launch? j.launch with
      | some v, some l => .next (s.issueTask j l v)
      | _, _ => .next s

/-! ## Block reads (R288, R289) -/

/-- A block read gone, and cp lowered. -/
def State.endBlk (s : State) (b : BlkRead) : State := State.lowerCp { s with blks := s.blks.erase b } b.ctx b.act

/-- The completion message of a block read (R288): cp falls when its record is written. -/
def State.blkMessage (s : State) (b : BlkRead) : State :=
  let n := Word.field b.ctl 0 20
  let head := headerWord (s.placeOf (coreOf b.ctx)) b.launch 2 (Word.field b.ctl 40 3) 4 (Word.field b.ctl 20 12)
  State.post { s with blks := s.blks.erase b } none b.act (agentKey (unitOf b.ctx) (Word.field b.ctl 32 2)) b.launch
    [head, b.dst, b.src, BitVec.ofNat 64 n, b.user] (some b.ctx)

/-- Marked bytes stored at their home: what carries a mark apart from what carries none (R171). -/
def State.homeStoreMarked (s : State) (t : Txn) (bs : List (Byte × Bool)) : HomeAns :=
  let mine := fun (marked : Bool) => ((List.zip (List.range bs.length) bs).filter (fun e => e.2.2 == marked)).map (fun e => (e.1, e.2.1))
  if s.lineHeld t.home (linesOf t.key t.n) t.region then .wait
  else
    match s.homeStore t false (mine false) with
    | .done s _ _ => s.homeStore t true (mine true)
    | other => other

/-- BLKRD_PART_RETURN: a part that its home has read is written at the tile; the last one sends the completion message. A part whose
translation failed ends the block read. -/
def execBlkrdPartReturn (part : Nat) (s : State) : Out :=
  match s.blks.find? (fun b => b.parts.any (fun p => p.id == part)) with
  | none => .next s
  | some b =>
    match b.parts.find? (fun p => p.id == part) with
    | none => .next s
    | some p =>
      if (match s.launch? b.launch with | some l => l.cancel.isSome | none => true) then .next (s.endBlk b)
      else
        match p.fault with
        | some (cause, detail, addr) =>
          .next (((s.endBlk b).noteError ⟨cause, detail, addr⟩).engineMessage b.ctx b.launch b.dst (engineSub ⟨cause, detail, addr⟩) detail addr)
        | none =>
          match p.got with
          | none => .next s
          | some (bs, bad) =>
            let u := unitOf b.ctx
            let key := scratchKey u (b.dst.toNat % 524288 + p.off)
            let t : Txn := { id := p.id, ctx := b.ctx, act := b.act, grp := p.id, home := .tile u, op := .load false, key := key, n := p.len,
                             region := s.liveRegion b.region }
            match s.homeStoreMarked t (List.zip bs bad) with
            | .done s _ _ =>
              let b' := { b with parts := b.parts.filter (fun q => q.id != part) }
              if b'.parts.isEmpty then .next (s.blkMessage b)
              else .next { s with blks := s.blks.map (fun x => if x = b then b' else x) }
            | _ => .next s

/-! ## Drain activations (R153) -/

/-- The lowest DORMANT drain context of an A-core. -/
def State.drainContext (s : State) (unit : Nat) (l : Launch) : Option Nat :=
  ((List.range l.drains).find? (fun i => (s.ctx (ctxKey unit 2 (8 - l.drains + i))).state == .dormant)).map
    (fun i => ctxKey unit 2 (8 - l.drains + i))

/-- The buffered row that entered first and has no activation. -/
def Tile.oldestRow (t : Tile) : Option (Nat × DrainEntry) :=
  (List.range 8).foldl (fun (best : Option (Nat × DrainEntry)) n =>
    match Tbl.get none t.drain n with
    | none => best
    | some e =>
      if e.dispatched then best
      else match best with
        | some b => if e.order < b.2.order then some (n, e) else best
        | none => some (n, e)) none

/-- DRAIN_DISPATCH: it takes a vector block of the A-core's pool ahead of stalled RBACQs (R329). -/
def execDrainDispatch (unit : Nat) (s : State) : Out :=
  match s.dispatcher (agentKey unit 2) false, (s.tile unit).oldestRow with
  | some (tag, l), some (n, e) =>
    match s.drainContext unit l, s.handler? tag e.handler with
    | some k, some h =>
      if s.freeBlocks (agentKey unit 2) 1 = 0 || e.launch ≠ tag then .next s
      else
        let t := s.tile unit
        let s := s.setTile unit { t with drain := Tbl.set none t.drain n (some { e with dispatched := true }) }
        let head := headerWord (s.placeOf (agentKey unit 2)) tag 5 0 0 e.handler
        let s := s.start k tag l h { header := head, drain := some n } 0 [BitVec.ofNat 64 e.row, e.user]
        .next (s.setCtx k ((((s.ctx k).bindBlock 1 0).putV 0 e.lanes false).putV 1 e.scales false))
    | _, _ => .next s
  | _, _ => .next s

end Sys2Proof.Machine
end

