-- ==== Sys2Proof/Machine/Tasks.lean ====
section
/-!
DEFINITION. Sys2Proof/Machine/Tasks.lean: the worklist at work: TASK_DISPATCH and the steals (R98, R102, R103), DEQUE_REFILL (R100),
TKSIG_RESPONSE (R107, R108, R341), FLOOR_UPDATE and FLOOR_EXCHANGE (R101).
-/

namespace Sys2Proof.Machine

/-! ## Dispatch of tasks -/

/-- A task's activation started on a context (R98): its TCB, if it has one, is RUNNING. -/
def State.startTask (s : State) (k tag : Nat) (l : Launch) (h : HandlerEntry) (r : TaskRec) : State :=
  let a : Act := { header := r.header, bucket := r.bucket, seq := r.seq, pkg := r.pkg,
                   tcb := if r.isReleased then r.tcb.map (BitVec.ofNat 64) else none }
  let s := s.start k tag l h a 0 [r.arg0, r.arg1, BitVec.ofNat 64 r.bucket,
    BitVec.ofNat 64 (if r.isReleased then r.tcb.getD 0 else 0)]
  let s := s.sampleAt k 3 (r.bucket - (s.core (coreOf k)).floor)
  match a.tcb with
  | some t => if (s.ctx k).stop.isNone then s.tcbState k t 2 else s
  | none => s

/-- Whether a core's ring holds a record not yet dispatched: it goes before any task (R41). -/
def Core.ringWaits (c : Core) : Bool := c.ring.any (fun r => !r.dispatched)

/-- The task that a core's idle context would take of its own deque (R102). -/
def State.ownTask (s : State) (core tag : Nat) : Option TaskRec :=
  pickNewest (s.bound core tag) (fun r => s.recordAllows tag r (core % 4)) (s.core core).deque

/-- Whether an access is a TKARM or TKSIG. -/
def Txn.isTask (t : Txn) : Bool := match t.op with | .tkarm => true | .tksig => true | _ => false

/-- Whether an answer to a TKARM or TKSIG of a core is still to come: the records that they release enter its deque before one is dispatched
(R108, R267). One whose record waits for an entry of the deque is not awaited. -/
def State.signalsAwaited (s : State) (core : Nat) : Bool := s.txns.any (fun t => t.isTask && coreOf t.ctx == core && !t.arrived)

/-- TASK_DISPATCH. -/
def execTaskDispatch (core : Nat) (s : State) : Out :=
  match (if s.signalsAwaited core then none else s.dispatcher core false) with
  | none => .next s
  | some (tag, l) =>
    match s.idleContext core l, s.ownTask core tag with
    | some k, some r =>
      match s.handler? tag r.handler with
      | some h => if (s.core core).ringWaits then .next s else .next ((s.takeRecord core r).startTask k tag l h r)
      | none => .next s
    | _, _ => .next s

/-! ## Steals (R102) -/

/-- The other tiles of a cluster that hold the same launch, in the order of the victim sequence. -/
def State.nearVictims (s : State) (u tag : Nat) : List Nat :=
  ((List.range 7).map (fun i => clusterOf u * 8 + (u % 8 + i + 1) % 8)).filter (fun v => (s.tile v).launch == some tag)

/-- Whether a tile may be the next victim of a core: those of its cluster in turn, then any tile of its launch outside; where there is none, no
request is made (R102; DESIGN CHOICE, log entry 45). -/
def State.nextVictim (s : State) (core tag : Nat) (l : Launch) (victim : Nat) : Bool :=
  let near := s.nearVictims (core / 4) tag
  let n := (s.core core).stealPos
  if n < near.length then near[n]? == some victim
  else l.units.contains victim && clusterOf victim != clusterOf (core / 4)

/-- The record with which a tile answers a thief (R102). -/
def State.stolen (s : State) (thief victim tag : Nat) : Option (Nat × TaskRec) :=
  let low := lowestBucket (s.core thief).deque
  (List.range 3).findSome? (fun role =>
    let v := agentKey victim role
    (pickOldest (min (s.bound v tag) low) (fun r => !r.keep && s.recordAllows tag r (thief % 4)) (s.core v).deque).map
      (fun r => (v, r)))

/-- STEAL_REQUEST: a core with an idle context and nothing to dispatch asks one tile, at most once in 64 cycles. -/
def execStealRequest (thief victim : Nat) (s : State) : Out :=
  match s.dispatcher thief false with
  | none => .next s
  | some (tag, l) =>
    let c := s.core thief
    let soon := match c.stealAt with | some t => decide (s.cycle < t + 64) | none => false
    if (s.idleContext thief l).isNone || c.ringWaits || (s.ownTask thief tag).isSome || c.stealAnswer.isSome || soon ||
        !s.nextVictim thief tag l victim then .next s
    else
      let answer := s.stolen thief victim tag
      let s := match answer with
        | some (v, r) => s.takeRecord v r
        | none => s
      let c := s.core thief
      .next (s.setCore thief { c with stealPos := c.stealPos + 1, stealAt := some s.cycle,
                                      stealAnswer := some (answer.map (fun a => { a.2 with reserve := none })) })

/-- STEAL_ANSWER: the record starts a task, or joins the deque where meanwhile the context has been taken, a ring record has come, which goes
first (R41), or the floor has fallen and left it out of bound (R102); that of a launch being cancelled is discarded. -/
def execStealAnswer (thief : Nat) (s : State) : Out :=
  let c := s.core thief
  match c.stealAnswer with
  | none => .next s
  | some none => .next (s.setCore thief { c with stealAnswer := none })
  | some (some r) =>
    let s := s.setCore thief { c with stealAnswer := none }
    let keep := if s.coreCancelled thief then s else s.setCore thief { s.core thief with deque := (s.core thief).deque ++ [r] }
    match s.dispatcher thief false with
    | none => .next keep
    | some (tag, l) =>
      match s.idleContext thief l, s.handler? tag r.handler with
      | some k, some h =>
        if (s.core thief).ringWaits || decide (s.bound thief tag < r.bucket) then .next keep else .next (s.startTask k tag l h r)
      | _, _ => .next keep

/-! ## The Stacks read back (R100) -/

/-- A record put into a deque in the order of the pushes. -/
def insertBySeq (r : TaskRec) : List TaskRec → List TaskRec
  | [] => [r]
  | x :: xs => if r.seq < x.seq then r :: x :: xs else x :: insertBySeq r xs

/-- The chunk of lowest stamp of a core's list, and the core without it; records still gathered count as a chunk. -/
def Core.lowestChunk (c : Core) : Option (Chunk × Core) :=
  let g := chunkOf c.gathered
  match c.chunks.find? (fun k => c.chunks.all (fun j => decide (k.stamp ≤ j.stamp))) with
  | some k =>
    if c.gathered.isEmpty || k.stamp ≤ g.stamp then some (k, { c with chunks := c.chunks.erase k })
    else some (g, { c with gathered := [] })
  | none => if c.gathered.isEmpty then none else some (g, { c with gathered := [] })

/-- Stalled pushes of a list of cores placed where they now may be. -/
def State.serveAll (s : State) : List Nat → State
  | [] => s
  | a :: r => (s.afterTake a).serveAll r

/-- DEQUE_REFILL. -/
def execDequeRefill (core : Nat) (s : State) : Out :=
  let c := s.core core
  match c.lowestChunk with
  | none => .next s
  | some (k, c') =>
    if 64 ≤ c.deque.length then .next s
    else
      let s := s.setCore core { c' with deque := (s.readChunk (s.tagOfCore core) k).foldl (fun d r => insertBySeq r d) c'.deque }
      match s.launch? (s.tagOfCore core) with
      | some l => .next (s.serveAll l.agents)
      | none => .next s

/-! ## Across packages (R103) -/

/-- Whether no core of a launch has in-bound work. -/
def State.noInBound (s : State) (tag : Nat) (l : Launch) : Bool := l.agents.all (fun a => (s.ownTask a tag).isNone)

/-- The peer package that reported most in-bound records. -/
def Launch.richest (l : Launch) (p : PeerFloor) : Bool := decide (0 < p.inBound) && l.peers.all (fun q => decide (q.inBound ≤ p.inBound))

/-- PACKAGE_STEAL: one request to the package that the event names: to another, after 4 microseconds in which no core found in-bound
work; or, where it names this package, one that another package has sent here. -/
def execPackageSteal (tag peer : Nat) (s : State) : Out :=
  match s.launch? tag with
  | none => .next s
  | some l =>
    if l.state ≠ .resident then .next s
    else if peer = s.package then
      .next (if l.peers.isEmpty then s else s.setLaunch tag { l with received := l.received + 1, sample := none, asks := l.asks + 1 })
    else
      let dry := l.agents.all (fun a => decide ((s.core a).workedAt + 5600 ≤ s.cycle))
      if l.cancel.isNone && l.asked.isNone && s.noInBound tag l && dry && l.peers.any (fun p => p.package == peer && l.richest p) then
        .next (s.setLaunch tag { l with sent := l.sent + 1, sample := none, asked := some peer })
      else .next s

/-- Whether a record may go to another package: in bound, and without keep. -/
def State.leaves (s : State) (tag a : Nat) (r : TaskRec) : Bool := !r.keep && decide (r.bucket ≤ s.bound a tag)

/-- A record put into a list in the order of the pushes. -/
def addBySeq (r : Nat × TaskRec) : List (Nat × TaskRec) → List (Nat × TaskRec)
  | [] => [r]
  | x :: xs => if r.2.seq < x.2.seq then r :: x :: xs else x :: addBySeq r xs

/-- The eight oldest of records that may go, with their cores. -/
def State.oldestEight (s : State) (tag : Nat) (l : Launch) (of : Core → List TaskRec) : List (Nat × TaskRec) :=
  ((l.agents.flatMap (fun a => ((of (s.core a)).filter (s.leaves tag a)).map (fun r => (a, r)))).foldr addBySeq []).take 8

/-- The records of a core's list of the Stacks. -/
def Core.listed (c : Core) : List TaskRec := c.chunks.flatMap (fun k => k.recs) ++ c.gathered

/-- A record taken from a core's list; the chunk that held it is written again without it. -/
def State.unlist (s : State) (core tag : Nat) (r : TaskRec) : State :=
  let c := s.core core
  let less := fun (k : Chunk) => if k.recs.contains r then { chunkOf (k.recs.erase r) with place := k.place } else k
  let chunks := (c.chunks.map less).filter (fun k => !k.recs.isEmpty)
  (s.setCore core { c with chunks := chunks, gathered := c.gathered.erase r }).writeChunks tag
    ((c.chunks.filter (fun k => k.recs.contains r)).map less)

/-- The chunk that this package gives another: from its Stacks lists or, failing that, from its deques (R103). -/
def State.giveChunk (s : State) (tag : Nat) (l : Launch) : List TaskRec × State :=
  match s.oldestEight tag l Core.listed with
  | [] =>
    let xs := s.oldestEight tag l (·.deque)
    (xs.map (·.2), xs.foldl (fun s x => s.takeRecord x.1 x.2) s)
  | xs => (xs.map (·.2), (xs.foldl (fun (s : State) x => s.unlist x.1 tag x.2) s).serveAll l.agents)

/-- The core of a launch with the fewest records on its deque and lists. -/
def State.leastLoaded (s : State) (l : Launch) : Option Nat :=
  l.agents.find? (fun a => l.agents.all (fun b => decide ((s.core a).records.length ≤ (s.core b).records.length)))

/-- PACKAGE_STEAL_ANSWER: the answer of the package that the event names. Another's is a chunk of up to 8 records, empty where it has none,
appended to the list of the least-loaded core; this package's own leaves for the one that asked. -/
def execPackageStealAnswer (tag peer : Nat) (chunk : List TaskRec) (s : State) : Out :=
  match s.launch? tag with
  | none => .next s
  | some l =>
    if l.state ≠ .resident then .next s
    else if peer = s.package then
      if l.asks = 0 then .next s
      else
        let (xs, t) := s.giveChunk tag l
        match t.launch? tag with
        | none => .next t
        | some l => .next (t.setLaunch tag { l with asks := l.asks - 1, sent := l.sent + 1, sample := none, given := l.given ++ [xs] })
    else if 8 < chunk.length || l.asked ≠ some peer then .next s
    else
      match s.leastLoaded l with
      | none => .next s
      | some a =>
        let s := s.setLaunch tag { l with received := l.received + 1, sample := none, asked := none }
        if l.cancel.isSome || chunk.isEmpty then .next s else .next (s.keepChunk a tag (chunk.map (fun r => { r with reserve := none })))

/-! ## Answers of TKARM and TKSIG (R106 to R108) -/

/-- A released record pushed to its core's deque, or reported where its handler names none (R107); whether it has been placed. -/
def State.release (s : State) (t : Txn) (r : TaskRec) : State × Bool :=
  let tag := (s.ctx t.ctx).launch
  let core := coreOf t.ctx
  let tcb := BitVec.ofNat 64 (r.tcb.getD 0)
  if (s.handler? tag r.handler).isNone then
    ((s.tcbState t.ctx tcb 4).trapMessage tag 2 core (unitOf t.ctx) [tcb, trapWord 0x1A 3 none 0, s.whoWord t.ctx, 0], true)
  else
    let r : TaskRec := { r with header := pushHeader r.header (s.placeOf core) tag, seq := s.pushSeq, pkg := s.package }
    ({ s with pushSeq := s.pushSeq + 1 }.push (s.pushTarget core tag r) none r.depth r (some t.id))

/-- TKSIG_RESPONSE: the answers of a core's TKSIGs and TKARMs are taken in issue order (R108); one whose record's push stalls waits with
it (R341). -/
def execTksigResponse (core : Nat) (s : State) : Out :=
  match s.txns.find? (fun t => t.isTask && coreOf t.ctx == core) with
  | none => .next s
  | some t =>
    if !t.performed || t.arrived then .next s
    else
      match t.released with
      | none => .next (s.respond t)
      | some r =>
        let (s, placed) := s.release t r
        .next (if placed then s.respond t else s.setTxn { t with arrived := true, released := none })

/-! ## The floor (R101) -/

/-- The lowest floor that the other packages last reported. -/
def Launch.domainFloor (l : Launch) : Nat := (l.peers.map (fun p => p.floor)).foldl min 0x100000000

def State.setFloors (s : State) (f : Nat) : List Nat → State
  | [] => s
  | a :: r => (s.setCore a { s.core a with floor := f }).setFloors f r

/-- The cores of a list that have in-bound work note the cycle (R103). -/
def State.noteWork (s : State) (tag : Nat) : List Nat → State
  | [] => s
  | a :: r => (if (s.ownTask a tag).isSome then s.setCore a { s.core a with workedAt := s.cycle } else s).noteWork tag r

/-- FLOOR_UPDATE: every core of the launch sees the lower of the package's floor and the domain's; pushes that stalled under the old
floor may now be placed. -/
def execFloorUpdate (tag : Nat) (s : State) : Out :=
  match s.launch? tag with
  | none => .next s
  | some l =>
    if l.state ≠ .resident then .next s
    else
      let s := (s.setFloors (min (s.trueFloor tag l) l.domainFloor) l.agents).serveAll l.agents
      .next (s.noteWork tag l.agents)

/-- FLOOR_EXCHANGE: what the other packages report. -/
def execFloorExchange (tag : Nat) (peers : List PeerFloor) (s : State) : Out :=
  match s.launch? tag with
  | none => .next s
  | some l =>
    if peers.all (fun p => decide (p.package < s.packages) && p.package != s.package) then .next (s.setLaunch tag { l with peers := peers })
    else .next s

end Sys2Proof.Machine
end

