-- ==== Sys2Proof/Machine/Lifecycle.lean ====
section
/-!
DEFINITION. Sys2Proof/Machine/Lifecycle.lean: time passing and launches ending: PAUSE_END (R34), ALIGN_TIMEOUT (R46), IDLE_SAMPLE (R111,
R112), DEADLINE_EXPIRY (R113), CANCEL_GRACE_EXPIRY (R48, R49), MACHINE_CHECK (R21, R173), IDLE_CLOCK_GATE and THERMAL_LIMIT
(R231), MONITOR_SAMPLE (R229, R230).
-/

namespace Sys2Proof.Machine

/-! ## Waits that end -/

/-- PAUSE_END. -/
def execPauseEnd (k : Nat) (s : State) : Out :=
  let c := s.ctx k
  match c.window with
  | some t =>
    if t ≤ s.cycle then
      .next (s.setCtx k { c with window := none, state := if c.state = .background then .ready else c.state })
    else .next s
  | none => .next s

/-- ALIGN_TIMEOUT. -/
def execAlignTimeout (k : Nat) (s : State) : Out :=
  let c := s.ctx k
  match c.align with
  | some (_, expiry, _) =>
    if expiry ≤ s.cycle && c.state = .stalled then .next (s.setCtx k ({ c with align := none }.next 4)) else .next s
  | none => .next s

/-! ## Quiescence (R111, R112) -/

/-- Whether a core is idle: contexts DORMANT, no undispatched record, no task, no push or stolen record on its way. -/
def State.coreIdle (s : State) (core : Nat) : Bool :=
  let c := s.core core
  (List.range 8).all (fun n => (s.ctx (core * 8 + n)).state == .dormant) && !c.ringWaits && c.deque.isEmpty && c.pushes.isEmpty &&
    c.stealAnswer.isNone

/-- Whether a tile is idle: its cores, its matrix engine and its drain buffer, and nothing of its cores on its way. -/
def State.tileIdle (s : State) (u : Nat) : Bool :=
  (List.range 3).all (fun r => s.coreIdle (agentKey u r)) && (s.tile u).engine.isEmpty && (s.tile u).drain.isEmpty &&
    !s.txns.any (fun t => unitOf t.ctx == u) && !s.msgs.any (fun m => m.ctx.map unitOf == some u || m.dest / 4 == u) &&
    !s.blks.any (fun b => unitOf b.ctx == u) && !s.loads.any (fun b => b.unit == u) && !s.lates.any (fun p => unitOf p.ctx == u) &&
    !s.submitted.any (fun j => unitOf j.ctx == u) && !s.clusters.any (fun (e : Nat × Cluster) => e.2.table.any (fun (j : EngineJob) => unitOf j.ctx == u))

/-- Whether a launch is idle on this package. -/
def State.launchIdle (s : State) (tag : Nat) (l : Launch) : Bool :=
  l.units.all s.tileIdle && !s.msgs.any (fun m => m.launch == tag) && l.parked.isEmpty

/-- Whether the other packages are idle for a launch, and the sums of messages sent and received equal (R112). -/
def Launch.domainIdle (l : Launch) : Bool :=
  l.peers.all (fun p => p.idle) &&
    l.sent + (l.peers.map (fun p => p.sent)).sum == l.received + (l.peers.map (fun p => p.received)).sum

/-- The end message of the idle tree (R112): its source is the core that receives it. -/
def State.endMessage (s : State) (tag : Nat) (l : Launch) : State :=
  let h := l.field 6 16 12
  let u := nth 0 l.units 0
  let role := match s.handler? tag h with | some e => e.role | none => 0
  let core := if role = 3 then s.resolveRole tag u h else agentKey u role
  s.post none 0 core tag [headerWord (s.placeOf core) tag 7 0 0 h]

/-- A quiescent launch: its end handler is started, or it completes CANCELLED (R49). -/
def State.quiescent (s : State) (tag : Nat) (l : Launch) : State :=
  if l.cancel.isSome then s.endLaunch tag 1 ""
  else if l.endSent then s
  else (s.setLaunch tag { l with endSent := true, sample := none }).endMessage tag l

/-- IDLE_SAMPLE: two samples 1,024 cycles apart, or 5 microseconds apart for a launch that spans packages. -/
def execIdleSample (tag : Nat) (s : State) : Out :=
  match s.launch? tag with
  | none => .next s
  | some l =>
    if l.state ≠ .resident then .next s
    else if !s.launchIdle tag l || s.trueFloor tag l ≠ 0x100000000 || !l.domainIdle then .next (s.setLaunch tag { l with sample := none })
    else
      match l.sample with
      | none => .next (s.setLaunch tag { l with sample := some s.cycle })
      | some t => .next (if t + (if l.peers.isEmpty then 1024 else 7000) ≤ s.cycle then s.quiescent tag l else s)

/-! ## Deadlines (R113) -/

/-- Every running context of a list stopped where it stands (R162). -/
def State.haltCtxs (s : State) (cause : Nat) : List Nat → State
  | [] => s
  | k :: r =>
    let c := s.ctx k
    (if c.act.isNone || c.stop.isSome then s
     else s.stopCtx k { cause := cause, subcode := 0, faultPc := 0, faultAddr := 0, word := 0, resumePc := c.pc }).haltCtxs cause r

/-- The addresses of the folios of a list of contexts that have activations. -/
def State.folioAddrs (s : State) (ks : List Nat) : List Nat :=
  (ks.filter (fun k => (s.ctx k).act.isSome)).map (fun k => ((s.folioVa k).getD 0).toNat)

/-- The launches of a job that hold tiles. -/
def State.placedLaunches (s : State) (job : Nat) : List (Nat × Launch) :=
  s.launches.filter (fun e => e.2.job == job && e.2.state == .resident)

/-- What a DEADLINE report holds of a job's launches as they stand: rings, deques and Stacks, region slots. -/
def State.withDump (s : State) (j : Job) (placed : List (Nat × Launch)) : Job :=
  let agents := placed.flatMap (fun e => e.2.agents)
  { j with reason := "DEADLINE", dumpRings := agents.map (fun a => (a, (s.core a).ring)),
           dumpTasks := agents.map (fun a => (a, (s.core a).records)),
           dumpRegions := s.dir.filter (fun (d : Nat × DirSlot) => placed.any (fun e => e.1 == d.2.launch)) }

/-- A launch of an expired job ends: one that holds no tiles as cancelled. -/
def State.expireLaunch (s : State) (tag : Nat) : State :=
  match s.launch? tag with
  | some l => if l.state = .waiting || l.state = .pending || l.state = .placing then s.cancelLaunch tag 4 0 else s.endLaunch tag 2 "DEADLINE"
  | none => s

/-- DEADLINE_EXPIRY: no trap handler runs; every context of the job stops, and once their folios are written (R162) every launch of the job
ends. -/
def execDeadlineExpiry (job : Nat) (s : State) : Out :=
  match s.job? job with
  | none => .next s
  | some j =>
    let placed := s.placedLaunches job
    let ks := placed.flatMap (fun e => e.2.ctxKeys)
    if j.dlLeft ≠ 0 || j.status.isSome || placed.isEmpty then .next s
    else if ks.any (fun k => (s.ctx k).act.isSome && (s.ctx k).stop.isNone) then
      .next ((s.setJob job (s.withDump j placed)).haltCtxs 0x16 ks)
    else if !s.allWritten ks then .next s
    else
      let j := if j.reason = "DEADLINE" then j else s.withDump j placed
      let s := s.setJob job { j with fatal := some (j.fatal.getD 2), dump := s.folioAddrs ks }
      .next ((s.launchesOf job).foldl State.expireLaunch s)

/-! ## The end of a cancel's grace interval (R48) -/

/-- The identifier of a cancelled level that CANCELLED's w11 carries (R166). -/
def Launch.levelId (l : Launch) (tag level : Nat) : Word :=
  if level = 1 then BitVec.ofNat 64 tag else nth 0 l.record (13 + level)

/-- What a tile's engine, slot loads and drain buffer still hold of a cancelled launch discarded, its ring entries retired
(log entry 31). -/
def State.discardEngine (s : State) (u : Nat) : State :=
  let t := s.tile u
  let seqs := t.engine.map (fun e => e.seq) ++ (s.loads.filter (fun l => l.unit == u)).map (fun l => l.seq)
  let s := { s with loads := s.loads.filter (fun l => l.unit != u) }.setTile u { t with engine := [], drain := [] }
  seqs.foldl (fun (s : State) q => s.ringRetire (agentKey u 2) q) s

/-- The activations of a launch stopped where they stand, and what remains of its tile tasks and engines' work gone. -/
def State.stopAll (s : State) (tag : Nat) (l : Launch) : State :=
  let s := l.units.foldl State.discardEngine (s.restAll l.ctxKeys)
  { s with clusters := s.clusters.map (fun (e : Nat × Cluster) =>
             (e.1, { e.2 with table := e.2.table.filter (fun (j : EngineJob) => !(j.launch == tag && j.kind == .tileTask)) })),
           msgs := s.msgs.filter (fun m => !(m.launch == tag && m.ctx.isNone)) }

/-- CANCEL_GRACE_EXPIRY: what has not ended is stopped, and CANCELLED goes to tile (0, 0); an absent launch completes at once. -/
def execCancelGraceExpiry (tag : Nat) (s : State) : Out :=
  match s.launch? tag with
  | none => .next s
  | some l =>
    match l.cancel with
    | none => .next s
    | some c =>
      if c.graceOver || s.cycle < c.since + 65536 || (l.state ≠ .resident && l.state ≠ .absent) then .next s
      else if l.state = .absent then .next (s.endLaunch tag 1 "")
      else
        let s := (s.stopAll tag l).setLaunch tag { l with cancel := some { c with graceOver := true }, sample := none }
        .next (s.trapMessage tag 4 (agentKey 1008 0) (nth 0 l.units 0) [0, trapWord 0x18 c.level none 0, c.by_, l.levelId tag c.level])

/-! ## Machine checks (R21, R173) -/

/-- A list cut into pieces of n. -/
def pieces {α : Type} (n : Nat) : Nat → List α → List (List α)
  | 0, _ => []
  | fuel + 1, xs => if xs.isEmpty then [] else xs.take n :: pieces n fuel (xs.drop n)

/-- A launch that waits for more tiles gives up the group that holds a failed tile, with its pool space, and is placed anew (R21, R97). -/
def Launch.unplace (u : Nat) (l : Launch) : Launch :=
  if l.state = .placing && (l.held.contains u || l.chosen.contains u) then
    let held := ((pieces l.groupTiles l.held.length l.held).filter (fun g => !g.contains u)).flatten
    { l with held := held, chosen := [], pools := l.pools.filter (fun p => held.any (fun v => clusterOf v == p.1)) }
  else l

/-- A tile quarantined: the count of tiles in service falls, and vector 1 is raised. -/
def State.quarantine (s : State) (u : Nat) : State :=
  let t := s.tile u
  let s := s.setTile u { t with inService := false, quarantined := true }
  let s := { s with launches := s.launches.map (fun (e : Nat × Launch) => (e.1, e.2.unplace u)) }
  State.raiseMsix { s with host := { s.host with tileCount := s.host.tileCount - (if t.inService then 1 else 0) } } 1

/-- A machine check of a tile: its contexts stop, it is quarantined, and when their folios are written its launch ends. -/
def State.machineCheck (s : State) (u : Nat) : State :=
  let t := s.tile u
  if !t.inService then s
  else
    let s := ((s.logError true).haltCtxs 0x15 (tileCtxs u)).quarantine u
    let s := s.setTile u { s.tile u with checking := true }
    (s.launchEvent (t.launch.getD 0)).finishCheck u

def execMachineCheck (u : Nat) (s : State) : Out := .next (s.machineCheck u)

/-! ## Errors (R22, R171, R173) -/

/-- A list with one element changed. -/
def changeAt {α : Type} (xs : List α) (n : Nat) (f : α → α) : List α :=
  (List.zip (List.range xs.length) xs).map (fun e => if e.1 = n then f e.2 else e.2)

def State.replays (s : State) : Nat → State
  | 0 => s
  | n + 1 => (s.logError false).replays n

/-- The next pass of a tile's matrix engine met by computations that mismatch: up to two replays are counted; a third mismatch is a machine
check, and the instruction has gone from the engine with no row changed (R149, R150). -/
def State.passUpset (s : State) (u times : Nat) : State :=
  match (s.tile u).engine with
  | e :: _ =>
    match e.op with
    | .mma _ _ _ _ => if times ≤ 2 then s.replays times else (s.engineDone u e (s.tile u)).replays 2 |>.machineCheck u
    | _ => s
  | [] => s

/-- A core with an error in the n-th entry of its TLBs: the micro-TLB's come first, then the vector unit's and the matrix unit's. -/
def Core.spoil (c : Core) (n : Nat) : Core :=
  let spoilt := fun (xs : List TlbEntry) (n : Nat) => changeAt xs n (fun e => { e with bad := true })
  let v := c.utlb.length
  let m := v + c.vtlb.length
  if n < v then { c with utlb := spoilt c.utlb n }
  else if n < m then { c with vtlb := spoilt c.vtlb (n - v) }
  else { c with mtlb := spoilt c.mtlb (n - m) }

/-- An error that physics brings in, counted as it is detected (R22, R171): what it marks traps when it is consumed. -/
def State.upset (s : State) : Upset → State
  | .corrected => s.logError false
  | .memory key => { s.logError true with bad := Tbl.set false s.bad key true }
  | .slot u n => if n < 24 then (s.logError true).setTile u { s.tile u with slotBad := Tbl.set false (s.tile u).slotBad n true } else s
  | .row u n =>
    if n < 512 then
      (s.logError true).setTile u { s.tile u with rows := Tbl.set {} (s.tile u).rows n { Tbl.get {} (s.tile u).rows n with bad := true } }
    else s
  | .tlb core n => (s.logError true).setCore core ((s.core core).spoil n)
  | .clusterTlb q n =>
    (s.logError true).setCluster q { s.cluster q with tlb := changeAt (s.cluster q).tlb n (fun e => { e with bad := true }) }
  | .version n => { s.logError true with versions := changeAt s.versions n (fun v => { v with bad := true }) }
  | .registers k again => if again then s.machineCheck (unitOf k) else s.logError false
  | .pass u times => s.passUpset u times

/-! ## Power (R231) -/

/-- IDLE_CLOCK_GATE: a tile whose idle wire has stayed set for 4,096 cycles. -/
def execIdleClockGate (u : Nat) (s : State) : Out :=
  let t := s.tile u
  match t.idleSince with
  | some since => if isTile u && since + 4096 ≤ s.cycle && s.tileIdle u then .next (s.setTile u { t with gated := true }) else .next s
  | none => .next s

/-- A tile as a cycle leaves it: how long its idle wire has been set; any arrival ends the idle state. -/
def Tile.watch (t : Tile) (idle arrival : Bool) (now : Nat) : Tile :=
  { t with idleSince := if idle then some (t.idleSince.getD now) else none, gated := t.gated && idle && !arrival }

/-- THERMAL_LIMIT: at 95 degrees the device throttles to the cap's minimum; at 110 every tile has a machine check, and it stops. -/
def execThermalLimit (celsius : Nat) (s : State) : Out :=
  if 110 ≤ celsius then
    let s := (List.range 288).foldl (fun (s : State) u => s.machineCheck u) s
    .next { s with vault := { s.vault with stopped := true, throttled := true } }
  else if 95 ≤ celsius then .next { s with vault := { s.vault with throttled := true } }
  else .next { s with vault := { s.vault with throttled := false } }

/-! ## Monitor slots (R229, R230) -/

/-- The interval at which physics or the memory system measures a source: HBM queue depth, temperature, power (log entry 70). The machine itself
samples the others. -/
def measuredEvery : Nat → Option Nat
  | 9 => some 128
  | 11 | 12 => some 1024
  | _ => none

/-- Whether a source is measured in this cycle. -/
def State.measured (s : State) (source : Nat) : Bool := match measuredEvery source with | some n => s.cycle % n == 0 | none => false

/-- MONITOR_SAMPLE: a measured source's value, at the end of its interval; source 0 and the reserved sources are never sampled. -/
def execMonitorSample (cluster slot value : Nat) (s : State) : Out :=
  let q := s.cluster cluster
  let m := Tbl.get {} q.monitors slot
  if m.launch.isNone || !s.measured m.source then .next s
  else .next (s.setCluster cluster { q with monitors := Tbl.set {} q.monitors slot (m.take value) })

end Sys2Proof.Machine
end

