-- ==== Sys2Proof/Machine/Paging.lean ====
section
/-!
DEFINITION. Sys2Proof/Machine/Paging.lean: what the resident system does with page tables (R66, R67, R71; log entry 11): pages
allocated, mappings made and removed, translations dropped, and the shootdown's registers.
-/

namespace Sys2Proof.Machine

/-- The 64 KiB page that the resident system takes n-th, from the top of this package's HBM down. -/
def State.pageAt (s : State) (n : Nat) : Nat := s.package * 2 ^ 43 + (2 ^ 39 - 65536 * (n + 1))

/-- Whether a page belongs to a sealed region: no writable mapping of it is made (R73). -/
def State.pageSealed (s : State) (pa : Nat) : Bool := s.vault.sealed.any (fun r => r.pages.contains (pa / 65536))

/-- The pages of the bodies that the Mint has built (R72). -/
def State.bodyPages (s : State) : List Nat := s.bodies.flatMap (fun b => b.pages.map (· / 65536))

/-- The pages that the resident system gives to nothing else: those of sealed regions and of bodies, and those that it maps for a tenant. -/
def State.keptPages (s : State) : List Nat :=
  s.vault.sealed.flatMap (fun r => r.pages) ++ s.bodyPages ++ s.vault.tenants.flatMap (fun e => e.2.maps.map (fun m => m.2.1 / 65536))

def State.pageKept (s : State) (pa : Nat) : Bool := s.keptPages.contains (pa / 65536)

/-- The number of the first page from n on that is not kept. -/
def State.nextPage (s : State) : Nat → Nat → Nat
  | 0, n => n
  | fuel + 1, n => if s.pageKept (s.pageAt n) then s.nextPage fuel (n + 1) else n

/-- A 64 KiB page of this package's HBM taken by the resident system, zeroed (R206): the first given back, or the next, that is not kept. -/
def State.allocPage (s : State) : Nat × State :=
  match s.freePages.find? (fun pa => !s.pageKept pa) with
  | some pa => (pa, { s.zeroRange pa (pa + 65536) with freePages := s.freePages.erase pa })
  | none =>
    let n := s.nextPage s.keptPages.length s.pages
    (s.pageAt n, { s.zeroRange (s.pageAt n) (s.pageAt n + 65536) with pages := n + 1 })

/-- Whether a block of 64 MiB holds a page that is kept. -/
def State.blockKept (s : State) (base : Nat) : Bool := s.keptPages.any (fun p => p / 1024 == base / 67108864)

/-- The number of the first page of the next block of 1,024 pages, from page n on, that holds none. -/
def State.nextBlock (s : State) : Nat → Nat → Nat
  | 0, n => n
  | fuel + 1, n => if s.blockKept (s.pageAt (n + 1023)) then s.nextBlock fuel (n + 1024) else n

/-- An aligned block of 64 MiB taken by the resident system, zeroed. -/
def State.allocBlock (s : State) : Nat × State :=
  match s.spareBlocks.find? (fun b => !s.blockKept b) with
  | some b => (b, { s.zeroRange b (b + 67108864) with spareBlocks := s.spareBlocks.erase b })
  | none =>
    let n := s.nextBlock s.keptPages.length ((s.pages + 1023) / 1024 * 1024)
    let b := s.pageAt (n + 1023)
    (b, { s.zeroRange b (b + 67108864) with pages := n + 1024 })

def State.allocBlocks (s : State) : Nat → List Nat × State
  | 0 => ([], s)
  | n + 1 =>
    let (b, s) := s.allocBlock
    let (bs, s) := s.allocBlocks n
    (b :: bs, s)

/-- Whether n blocks can still be taken. -/
def State.blocksLeft (s : State) (n : Nat) : Bool :=
  decide (s.pages + 1024 * (n + 1 + s.keptPages.length) ≤ 8388608 + 1024 * s.spareBlocks.length)

/-- A leaf entry of a 64 KiB page: its address and its low sixteen bits, of size class 1. -/
def leafEntry (pa bits : Nat) : Word := BitVec.ofNat 64 (pa / 65536 * 65536 + bits / 1024 * 1024 % 65536 + 256 + bits % 256)

/-- A leaf entry of a 64 MiB page, of size class 2. -/
def blockEntry (pa bits : Nat) : Word := BitVec.ofNat 64 (pa / 67108864 * 67108864 + bits / 1024 * 1024 % 65536 + 512 + bits % 256)

/-- A leaf written for an address at a level, the tables above it made where they are missing; 0 removes a mapping. -/
def State.setLeafFrom (s : State) (va : Nat) (e : Word) (last : Nat) : Nat → Nat → Nat → State
  | 0, _, _ => s
  | fuel + 1, level, table =>
    let at_ := table + 8 * field va (46 - 10 * level) 10
    if level = last then s.writeDword at_ e
    else
      let p := s.readDword at_
      if pteBit p 0 then
        if Word.field p 8 2 = 0 then s.setLeafFrom va e last fuel (level + 1) (Word.field p 16 36 * 65536) else s
      else
        let (pa, s) := s.allocPage
        (s.writeDword at_ (BitVec.ofNat 64 (pa + 1))).setLeafFrom va e last fuel (level + 1) pa

def State.setLeaf (s : State) (root va : Nat) (e : Word) : State := s.setLeafFrom va e 3 4 0 root

/-- A launch's 64 MiB at an address mapped to a block, and so the following blocks. -/
def State.mapBlocks (s : State) (root va bits : Nat) : List Nat → State
  | [] => s
  | b :: r => (s.setLeafFrom va (blockEntry b bits) 2 4 0 root).mapBlocks root (va + 67108864) bits r

/-- A launch's page at an address mapped to a physical page. -/
def State.mapPage (s : State) (root va pa bits : Nat) : State := s.setLeaf root va (leafEntry pa bits)

/-- Pages from an address mapped to consecutive fresh pages. -/
def State.mapFresh (s : State) (root va bits : Nat) : Nat → State
  | 0 => s
  | n + 1 =>
    let (pa, s) := s.allocPage
    (s.mapPage root va pa bits).mapFresh root (va + 65536) bits n

/-- The translations held for a core's or a cluster's lookups that satisfy a condition dropped. -/
def State.dropTranslations (s : State) (gone : TlbEntry → Bool) : State :=
  { s with cores := (s.cores.map (fun (e : Nat × Core) => (e.1, e.2.dropTlbs gone))).filter
             (fun e => e.2 != {}),
           clusters := (s.clusters.map (fun (e : Nat × Cluster) => (e.1, { e.2 with tlb := e.2.tlb.filter (fun x => !gone x) }))).filter
             (fun e => e.2 != {}) }

/-- Whether an access not yet performed, or a part of a block read, was translated through the page of an address. -/
def State.pageBusy (s : State) (tag va : Nat) : Bool :=
  s.txns.any (fun t => !t.performed && (s.ctx t.ctx).launch == tag && t.va.toNat / 65536 == va / 65536 && t.op.lane == 0) ||
    s.blks.any (fun b => b.launch == tag && b.parts.any (fun p => p.got.isNone && p.fault.isNone &&
      (b.src.toNat + p.off) / 65536 == va / 65536))

/-! ## Shootdowns (R71) -/

/-- The clusters of a launch's sub-mesh: its tenant's rectangle (R10, R96), and in any case those of its tiles. -/
def State.meshClusters (s : State) (l : Launch) : List Nat :=
  let mesh := match (Tbl.get {} s.vault.tenants (l.field 1 8 8)).mesh with
    | some (x, y, w, h) => (List.range (w * h)).map (fun i => (y + i / w) * 6 + x + i % w)
    | none => []
  (mesh ++ l.units.map clusterOf).dedup

/-- The agents of a shootdown: cores, engines and cluster TLBs of a launch's sub-mesh. Cores bear their own numbers, a tile's engine
8192 and its unit (its TLB stands at role 3 of the tile), a cluster's TLB 16384 and its cluster. -/
def State.shootAgents (s : State) (l : Launch) : List Nat :=
  let clusters := s.meshClusters l
  let units := (clusters.flatMap (fun c => (List.range 8).map (· + c * 8))).filter (fun u => (s.tile u).inService || l.units.contains u)
  units.flatMap (fun u => [u * 4, u * 4 + 1, u * 4 + 2]) ++ units.map (· + 8192) ++ clusters.map (· + 16384)

/-- A write of XSD_CTL starts a shootdown of the range that XSD_BASE and XSD_LEN then hold; its reserved bits stay zero (R6). -/
def State.startShootdown (s : State) (ctl : Word) : State :=
  let awaited := match s.launch? (shootTag ctl) with
    | some l => s.shootAgents l
    | none => []
  { s with shoot := { s.shoot with ctl := ctl &&& 0x1FFFF, fromBase := s.shoot.base, fromLen := s.shoot.len, awaited := awaited } }

/-- Whether an agent has performed every access that it translated through a page in the range: a cluster's TLB, those of the cluster's
cores and engines. -/
def State.shootDrained (s : State) (agent : Nat) : Bool :=
  let mine := fun k => if agent < 8192 then coreOf k == agent else if agent < 16384 then unitOf k == agent - 8192
    else clusterOf (unitOf k) == agent - 16384
  !s.txns.any (fun t => mine t.ctx && !t.performed && s.shootMeets t.va.toNat (max t.size 1)) &&
    !s.blks.any (fun b => mine b.ctx && b.parts.any (fun p => p.got.isNone && p.fault.isNone &&
      s.shootMeets (b.src.toNat + p.off) (max p.size 1)))

/-- Whether an agent's turn to acknowledge has come: a cluster's TLB, which its cores and engines look into, follows them. -/
def State.shootTurn (s : State) (agent : Nat) : Bool :=
  decide (agent < 16384) || !s.shoot.awaited.any (fun a => decide (a < 16384) &&
    clusterOf (if a < 8192 then a / 4 else a - 8192) == agent - 16384)

/-- An agent's translations dropped and its acknowledgement counted. -/
def State.shootAck (s : State) (agent : Nat) : State :=
  let s := if agent < 8192 then
      s.setCore agent ((s.core agent).dropTlbs s.shootRemoves)
    else if agent < 16384 then
      s.setCore (agentKey (agent - 8192) 3) ((s.core (agentKey (agent - 8192) 3)).dropTlbs s.shootRemoves)
    else
      let q := s.cluster (agent - 16384)
      s.setCluster (agent - 16384) { q with tlb := q.tlb.filter (fun e => !s.shootRemoves e) }
  { s with shoot := { s.shoot with awaited := s.shoot.awaited.filter (· != agent) } }

/-- SHOOTDOWN_ACK (R71). -/
def execShootdownAck (agent : Nat) (s : State) : Out :=
  if s.shoot.awaited.contains agent && s.shootTurn agent && s.shootDrained agent then .next (s.shootAck agent) else .next s

end Sys2Proof.Machine
end

