-- ==== Sys2Proof/Machine/Walk.lean ====
section
/-!
DEFINITION. Sys2Proof/Machine/Walk.lean: the walk unit (R200 to R203), the path digests (R204) and the audit log (R205, R209).
-/

namespace Sys2Proof.Machine

/-! ## Node-format descriptors (R201) -/

/-- Whether a locator's field exists, and its value in a node: bits from an offset. -/
def locField (node : Nat) (locator : Nat) : Option Nat :=
  if field locator 15 1 = 1 then some (field node (field locator 0 10) (field locator 10 5 + 1)) else none

/-- The same, sign-extended. -/
def locSigned (node : Nat) (locator : Nat) : Option Int :=
  (locField node locator).map (sextNat (field locator 10 5 + 1))

/-- A locator of a descriptor: dword and lowest bit. -/
def locator (d : List Word) (dword lo : Nat) : Nat := Word.field (nth 0 d dword) lo 16

def nodeBytes (d : List Word) : Nat := 8 * Word.field (nth 0 d 3) 56 8

/-! ## The node port (R200) -/

/-- What a read of the walk unit, or a step of a walk, comes to. -/
inductive WalkAns (α : Type) where
  | wait
  | fault (s : State) (sub detail : Nat) (addr : Word)
  | ok (s : State) (x : α)

/-- An own launch's bytes read at their homes for a walk; a mark among them is counted as it is read (R171). -/
def State.walkParts (s : State) (t : Txn) (va : Word) : List Part → WalkAns (List Byte)
  | [] => .ok s []
  | p :: r =>
    let u : Txn := { t with home := p.home, op := .load false, key := p.key, n := p.len, kid := p.kid,
                            region := t.region }
    match s.homeLoad u with
    | .done s bs bad =>
      if bad then .fault (s.logError true) 8 0 va
      else
        match s.walkParts t va r with
        | .ok s bs' => .ok s (bs ++ bs')
        | .wait => .wait
        | .fault s a b c => .fault s a b c
    | _ => .wait

/-- n bytes at an address, aligned, for a walk. -/
def State.walkRead (s : State) (t : Txn) (va : Word) (n align : Nat) : WalkAns (List Byte) :=
  if va.toNat % align ≠ 0 then .fault s 3 0 va
  else
    match s.locate t.ctx .load va n with
    | .error f => .fault (s.noteError f) f.subcause f.detail f.addr
    | .ok (ps, s) => s.walkParts t va ps

/-- Whether a walk's region is sealed: its base lies on a sealed page. -/
def State.baseSealed (s : State) (k : Nat) (base : Word) : Option Nat :=
  match s.locate k .load base 1 with
  | .ok (p :: _, _) => if p.sealed then some p.key else none
  | _ => none

/-- A sealed unit's plaintext at the node port, from its address: one of the eight kept, or decrypted whole. -/
def State.sealedUnit (s : State) (t : Txn) (va : Word) (unit : Nat) : WalkAns (List Byte) :=
  match s.locate t.ctx .load va 4112 with
  | .error f => .fault (s.noteError f) f.subcause f.detail f.addr
  | .ok (ps, s) =>
    let key := match ps with | p :: _ => p.key | [] => 0
    let tile := s.tile (unitOf t.ctx)
    match assoc tile.nodeUnits key with
    | some p => .ok s p
    | none =>
      let bs := ps.flatMap (fun p => s.readBytes p.kid p.key p.len)
      if ps.any (fun p => s.readBad p.key p.len) then .fault (s.logError true) 8 0 va
      else
        match s.vault.sealed.find? (fun r => r.offset? key == some (4160 * unit)) with
        | none => .fault s 7 0 va
        | some r =>
          let tag := (s.ctx t.ctx).launch
          match (if s.modelKey tag r.handle = r.key then openUnit r.key r.handle 2 0 unit (bs.take 4096) (bs.drop 4096) else none) with
          | none => .fault s 7 0 va
          | some p => .ok (s.setTile (unitOf t.ctx) { tile with nodeUnits := ((key, p) :: tile.nodeUnits).take 8 }) p

/-- n bytes of a node region from an offset: OPERAND where they cross a multiple of 4,096. -/
def State.nodeRead (s : State) (t : Txn) (base off : Word) (n align : Nat) : WalkAns (List Byte) :=
  if 4096 < off.toNat % 4096 + n then .fault s 4 0 0
  else
    match s.baseSealed t.ctx base with
    | none => s.walkRead t (base + off) n align
    | some _ =>
      if off.toNat % align ≠ 0 then .fault s 3 0 (base + off)
      else
        match s.sealedUnit t (base + BitVec.ofNat 64 (4160 * (off.toNat / 4096))) (off.toNat / 4096) with
        | .ok s p => .ok s ((p.drop (off.toNat % 4096)).take n)
        | .wait => .wait
        | .fault s a b c => .fault s a b c

/-! ## One step of a walk (R202) -/

/-- Where a step leads: a leaf's value, ordinal and tree, or the next node. -/
inductive StepTo where
  | leaf (value : Nat) (path : Nat)
  | node (off : Word)
  /-- a path word, an index or a field out of range, or an absent field (R203) -/
  | bad

/-- A signed multiple of eight bytes from an offset. -/
def stepBy (o : Word) (x : Int) : Word := o + BitVec.ofInt 64 (8 * x)

/-- The child of a node by its index (R202). -/
def childOf (d : List Word) (node : Nat) (o : Word) (i : Nat) : StepTo :=
  if Word.field (nth 0 d 3) 52 1 = 0 then
    if 1 < i then .bad
    else
      match locSigned node (if i = 0 then locator d 1 48 else locator d 1 32) with
      | some x => .node (stepBy o x)
      | none => .bad
  else
    match locSigned node (locator d 1 48) with
    | some x => .node (stepBy o x + BitVec.ofNat 64 (i * nodeBytes d))
    | none => .bad

/-- The path word of a leaf: tree identifier and ordinal (R204); none where either is out of range or absent. -/
def pathWord (d : List Word) (node : Nat) : Option Nat :=
  match locField node (locator d 2 48), locField node (locator d 1 0) with
  | some t, some n => if t < 2 ^ 20 && n < 4096 then some (t * 4096 + n) else none
  | _, _ => none

/-- The child index by a comparison that reads no table (R202): codes 0 to 2. -/
def plainChild (c : Nat) (x t : Word32) : Nat :=
  if (if c = 0 then f32Lt x t else if c = 1 then f32Le x t else x == t) then 0 else 1

/-- The child index by bitset or range table at an offset. The bitset is read whole before the value is tested, also where the value is not
below its count (DESIGN CHOICE, log entry 95). -/
def State.tableChild (s : State) (t : Txn) (base : Word) (c : Nat) (x : Word32) (count : Nat) (off : Word) : WalkAns Nat :=
  if c = 3 then
    match s.nodeRead t base off ((count + 7) / 8) 8 with
    | .ok s bs => .ok s (if x.toNat < count && (nth 0 bs (x.toNat / 8)).getLsbD (x.toNat % 8) then 0 else 1)
    | .wait => .wait
    | .fault s a b e => .fault s a b e
  else
    match s.nodeRead t base off (4 * count) 8 with
    | .ok s bs =>
      .ok s ((List.range count).filter (fun i =>
        f32Le (BitVec.ofNat 32 (bytesNat ((bs.drop (4 * i)).take 4))) x)).length
    | .wait => .wait
    | .fault s a b e => .fault s a b e

/-- Whether a feature counts as missing under a comparison. -/
def featureMissing (c : Nat) (x : Word32) : Bool :=
  ((decide (c ≤ 1) || c == 4) && isNaN32 x) || ((c == 2 || c == 3) && x == 0x80000000)

/-- The feature of a node, from the own tile's scratchpad. An address outside that window is XLATE, as a read that its source cannot give (DESIGN
CHOICE, log entry 95). -/
def State.featureRead (s : State) (t : Txn) (features : Word) (index : Nat) : WalkAns (List Byte) :=
  let va := features + BitVec.ofNat 64 (4 * index)
  if windowOf va.toNat ≠ 0x80 then .fault s 1 0 va else s.walkRead t va 4 4

/-- An interior node's step: the child index, then the child. -/
def State.interior (s : State) (t : Txn) (d : List Word) (base o features : Word) (node : Nat) : WalkAns StepTo :=
  let c0 := Word.field (nth 0 d 3) 53 3
  match locField node (locator d 0 32) with
  | none => .ok s .bad
  | some feature =>
    match s.featureRead t features feature with
    | .wait => .wait
    | .fault s a b e => .fault s a b e
    | .ok s bs =>
      let x : Word32 := BitVec.ofNat 32 (bytesNat bs)
      match (if c0 = 7 then locField node (locator d 2 32) else some c0), locField node (locator d 0 16) with
      | some c, some thr =>
        if 4 < c then .ok s .bad
        else if featureMissing c x then
          match locField node (locator d 0 0) with
          | some i => .ok s (childOf d node o i)
          | none => .ok s .bad
        else if c ≤ 2 then .ok s (childOf d node o (plainChild c x (BitVec.ofNat 32 thr)))
        else
          match locField node (locator d 2 16), locSigned node (locator d 0 16) with
          | some count, some off =>
            match s.tableChild t base c x count (stepBy o off) with
            | .ok s i => .ok s (childOf d node o i)
            | .wait => .wait
            | .fault s a b e => .fault s a b e
          | _, _ => .ok s .bad
      | _, _ => .ok s .bad

/-- One step: the node read, and where it leads. -/
def State.walkStep (s : State) (t : Txn) (d : List Word) (base o features : Word) : WalkAns StepTo :=
  match s.nodeRead t base o (nodeBytes d) 8 with
  | .wait => .wait
  | .fault s a b e => .fault s a b e
  | .ok s bs =>
    let node := bytesNat bs
    match locField node (locator d 0 48) with
    | none => .ok s .bad
    | some kind =>
      if kind = Word.field (nth 0 d 3) 44 8 then
        match locField node (locator d 1 16) with
        | none => .ok s .bad
        | some v => .ok s (.leaf v ((pathWord d node).getD (2 ^ 32)))
      else s.interior t d base o features node

/-! ## The path digest at a leaf (R204) -/

/-- The sealed region that a base lies in. -/
def State.modelAt (s : State) (k : Nat) (base : Word) : Option Word :=
  match s.baseSealed k base with
  | none => none
  | some key => (s.vault.sealed.find? (fun r => r.offset? key == some 0)).map (·.handle)

/-- The digest after a leaf: a path word absorbed, or the digest invalid where the region is not its model. -/
def Digest.atLeaf (d : Digest) (model : Option Word) (path : Nat) : Digest :=
  if !d.active then d
  else if model ≠ some d.model then { d with valid := false }
  else { d with absorbed := d.absorbed ++ natBytes 4 path }

/-- A walk of up to n steps (R202): the value for wd, and the state. -/
def State.walkFor (s : State) (t : Txn) (d : List Word) (base features : Word) : Nat → Word → WalkAns Word
  | 0, o => .ok s o
  | n + 1, o =>
    match s.walkStep t d base o features with
    | .wait => .wait
    | .fault s a b e => .fault s a b e
    | .ok s .bad => .fault s 4 0 0
    | .ok s (.node o') => s.walkFor t d base features n o'
    | .ok s (.leaf v path) =>
      let c := s.ctx t.ctx
      if c.pd.active && s.modelAt t.ctx base == some c.pd.model && 2 ^ 32 ≤ path then .fault s 4 0 0
      else
        .ok (s.setCtx t.ctx { c with pd := c.pd.atLeaf (s.modelAt t.ctx base) path })
          (BitVec.ofNat 64 (2 ^ 63 + v))

/-- The descriptor that a walk names, where its operand registers are in range (R202, R203). -/
def State.walkFormat (s : State) (tag : Nat) (base : Word) (limit desc : Nat) : Option (List Word) :=
  if Word.field base 0 16 ≠ 0 || Word.field base 56 8 ≠ 0 || limit = 0 || 255 < limit then none
  else ((s.launch? tag).bind s.capsuleOf).bind (fun c => c.nodeFormats[desc]?)

/-- The late record of an access's instruction, from its coprocessor ring entry (R160). -/
def State.lateOf (s : State) (t : Txn) (sub detail : Nat) (addr : Word) (lane : Option Nat) : LateRec :=
  let e := Tbl.get {} (s.core (coreOf t.ctx)).cring (t.seq.getD 0 % 64)
  { pc := e.pc, word := e.word, seq := t.seq.getD 0, subcause := sub, detail := detail, addr := addr, lane := lane }

/-- A walk performed: its value on the way back, or its fault on the way to the context, which leaves wd unchanged (R203). -/
def State.performWalk (s : State) (t : Txn) (node base features : Word) (limit desc : Nat) : State :=
  let c := s.ctx t.ctx
  let gone := fun (s : State) => { s with txns := s.txns.filter (fun u => u.id != t.id) }
  let fail := fun (s : State) (sub detail : Nat) (addr : Word) =>
    (gone s).lateFault t.ctx t.act c.launch (s.lateOf t sub detail addr none)
  match s.walkFormat c.launch base limit desc with
  | none => fail s 4 0 0
  | some d =>
    match s.walkFor t d base features limit node with
    | .wait => s
    | .fault s sub detail addr => fail s sub detail addr
    | .ok s x => s.setTxn { t with performed := true, value := x }

/-! ## WALK and WALKN -/

/-- A walk on its way: a ring entry is taken, and a reader of wd waits (R202). The operand registers are read at issue (R315):
what is out of range names no descriptor, which faults late. -/
def State.walkOp (s : State) (d a b : BitVec 6) (limit : State → Nat) : Out :=
  s.issue { unit := .walk, reads := [a.toNat, b.toNat], writes := [d.toNat] } (fun s => s.irrevocably (fun s =>
    if s.gated false then s.waitGate
    else if s.msgHeld [.tile (unitOf s.cur)] then s.stall
    else
      match s.ringTake with
      | none => s.stall
      | some (seq, s) =>
        let x := (s.ctx s.cur).getOx 3
        let desc := if Word.field x 56 4 = 0 then Word.field x 60 4 else 16
        let base : Word := BitVec.ofNat 64 (Word.field x 0 56)
        let t : Txn := { s.proto 0 (dstW d.toNat) [] false false (some seq) with
                           home := .tile (unitOf s.cur), op := .walk (s.reg a) base (s.reg b) (limit s) desc,
                           region := s.tagFor s.cur }
        .next ({ s.fresh with txns := s.txns ++ [t] }.skip 4)))

def execWalk (d a b : BitVec 6) (s : State) : Out := s.walkOp d a b (fun _ => 1)

/-- WALKN: the step limit is ox4[7:0], the rest zero. -/
def execWalkn (d a b : BitVec 6) (s : State) : Out := s.walkOp d a b (fun s => ((s.ctx s.cur).getOx 4).toNat)

/-! ## PDRST, PDSEAL and PDRD (R204) -/

/-- Whether a walk of the current context has not completed. -/
def State.walking (s : State) : Bool :=
  s.txns.any (fun t => t.ctx == s.cur && (match t.op with | .walk _ _ _ _ _ => true | _ => false))

/-- The context's digest state replaced, and a value for wd. -/
def State.pdResult (s : State) (d : Nat) (p : Digest) (x : Word) : Out :=
  .next (s.done 4 (({ s.ctx s.cur with pd := p }).setW d x))

/-- Whether a handle is a sealed model bound to a launch. -/
def State.modelBound (s : State) (tag : Nat) (h : Word) : Bool :=
  match s.launch? tag with
  | some l => l.modelKeys.any (fun e => e.1 == h)
  | none => false

/-- PDRST; walks already issued end first, since they belong to the digest before it. -/
def execPdrst (d a b : BitVec 6) (s : State) : Out :=
  s.issue { unit := .walk, reads := [a.toNat, b.toNat], writes := [d.toNat] } (fun s => s.irrevocably (fun s =>
    let p := (s.ctx s.cur).pd
    if s.walking then s.stall
    else if !s.modelBound (s.ctx s.cur).launch (s.reg a) then s.pdResult d.toNat { p with active := false } Word.minusOne
    else
      s.pdResult d.toNat { p with absorbed := natBytes 8 (s.reg b).toNat ++ natBytes 8 (s.reg a).toNat, model := s.reg a,
                                  record := s.reg b, active := true, valid := true } 0))

/-- The key of the log's record q: k_0, replaced at every multiple of 2^24 (R209) by 32 bytes in the order in which HMAC gives them (R361;
DESIGN CHOICE, log entry 84). -/
def logKeyAt (key : List Byte) (q : Nat) : List Byte :=
  ratchet "KF-LOG" key q

/-- The bytes of dwords 0 to 11 of a log record (R205). -/
def logHead (l : Launch) (p : Digest) (q : Nat) (score : Word) (digest : List Byte) : List Byte :=
  natBytes 8 q ++ natBytes 8 p.model.toNat ++ natBytes 8 p.record.toNat ++ natBytes 8 score.toNat ++ digest ++
    natBytes 8 (nth 0 l.record 0).toNat ++ natBytes 8 (nth 0 l.record 17).toNat

/-- A record of 128 bytes written at the tenant's log, and the log's counts (R205). -/
def State.appendLog (s : State) (tenant : Nat) (l : Launch) (p : Digest) (score : Word) (digest : List Byte) : State :=
  let n := Tbl.get {} s.vault.tenants tenant
  let key := logKeyAt n.logKey n.logSeq
  let head := logHead l p n.logSeq score digest
  let bytes := head ++ (hmac384 key head).take 16 ++ List.replicate 16 0
  let s := s.writeList 0 (n.logBase + 128 * (n.logWrite % n.logSize)) false bytes
  { s with vault := { s.vault with tenants := Tbl.set {} s.vault.tenants tenant
                                     { n with logKey := key, logSeq := n.logSeq + 1, logWrite := n.logWrite + 1 } } }

/-- PDSEAL: the digest finished, its record in the log; stalls while the log is full. -/
def execPdseal (d a : BitVec 6) (s : State) : Out :=
  s.issue { unit := .walk, reads := [a.toNat], writes := [d.toNat] } (fun s => s.irrevocably (fun s =>
    let p := (s.ctx s.cur).pd
    if s.walking then s.stall
    else if !p.active || !p.valid then s.pdResult d.toNat { p with active := false } Word.minusOne
    else
      match s.launchOf s.cur with
      | none => s.pdResult d.toNat { p with active := false } Word.minusOne
      | some l =>
        let tenant := l.field 1 8 8
        let n := Tbl.get {} s.vault.tenants tenant
        if n.logRead + n.logSize ≤ n.logWrite then s.stall
        else
          let digest := sha384 p.absorbed
          let s := s.setLaunch (s.ctx s.cur).launch { l with lastAudit := some n.logSeq }
          (s.appendLog tenant l p (s.reg a) digest).pdResult d.toNat { p with active := false, last := some (digest, n.logSeq) }
            (BitVec.ofNat 64 n.logSeq)))

/-- A store of a list of bytes, put on its way part by part; it is no region access (R117, R118). -/
def State.storeList (s : State) (len : Nat) (va : Word) (align : Nat) (bs : List Byte) (finish : State → State) : Out :=
  s.access .store va bs.length align false true (fun ps s =>
    .next ((finish (s.sendAccess va ps (fun p => .store (enumBytes ((bs.drop p.off).take p.len)) false) .none [] false true)).skip len)) (inPackage := false)

def execPdrd (d a : BitVec 6) (s : State) : Out :=
  s.issue { unit := .walk, reads := [a.toNat], writes := [d.toNat] } (fun s => s.irrevocably (fun s =>
    match (s.ctx s.cur).pd.last with
    | none => .next (s.result 4 d.toNat Word.minusOne)
    | some (digest, q) =>
      s.storeList 4 (s.reg a) 8 digest (fun s => s.setCtx s.cur ((s.ctx s.cur).setW d.toNat (BitVec.ofNat 64 q)))))

end Sys2Proof.Machine
end

