-- ==== Sys2Proof/Machine/System.lean ====
section
/-!
DEFINITION. Sys2Proof/Machine/System.lean: the system registers (R260, R336), the ring read by CIRRD (R293), ZEROSP (R360), SIGCHK
(R207), MONRD (R319), REFGET and REFCHK (R331), and the services of SVC (R340).
-/

namespace Sys2Proof.Machine

/-! ## System registers (R260) -/

/-- The levels that reading and writing a system register need; a register that cannot be written has no second one. -/
def sysLevels (n : Nat) : Option (Level × Option Level) :=
  if n ≤ 3 || n = 8 then some (.h, none)
  else if n = 0x10 then some (.h, some .s)
  else if n = 0x100 || n = 0x101 || n = 0x102 then some (.s, some .s)
  else if n = 0x103 then some (.s, none)
  else none

/-- The launch-relative place of a core: group, tile index and role (R24). -/
def State.selfPlace (_s : State) (k : Nat) (l : Launch) : Word :=
  match l.units.findIdx? (· == unitOf k) with
  | none => 0
  | some i => BitVec.ofNat 64 (i / l.groupTiles * 65536 + i % l.groupTiles * 4 + roleOf k)

/-- The deadline count that a core shows: that of the job whose launch its tile holds, 0 where it holds none (R113). -/
def State.deadlineAt (s : State) (unit : Nat) : Nat :=
  match (s.tile unit).launch.bind s.launch? with
  | none => 0
  | some l => match s.job? l.job with
    | some j => j.dlLeft
    | none => 0

/-- A system register as it stands, for a context. On a steward or the vault SELF, PHYS, SHAPE, CTX and CYCLE read zero. -/
def State.sysRead (s : State) (k n : Nat) : Word :=
  let tile := isTile (unitOf k)
  if n = 0x10 then BitVec.ofNat 64 (s.deadlineAt (unitOf k))
  else if n = 0x100 then s.shoot.base
  else if n = 0x101 then s.shoot.len
  else if n = 0x102 then s.shoot.ctl
  else if n = 0x103 then BitVec.ofNat 64 s.shoot.awaited.length
  else if !tile then 0
  else if n = 1 then BitVec.ofNat 64 (s.placeOf (coreOf k))
  else if n = 3 then BitVec.ofNat 64 (numOf k)
  else
    match s.launchOf k with
    | none => 0
    | some l =>
      if n = 0 then s.selfPlace k l
      else if n = 2 then BitVec.ofNat 64 (l.field 4 24 40 * 2 ^ 24)
      else match l.first with
        | some t => BitVec.ofNat 64 (s.cycle - t)
        | none => 0

def execSrd (d : BitVec 6) (n : BitVec 12) (s : State) : Out :=
  match sysLevels n.toNat with
  | none => s.trap 1 0
  | some (lv, _) =>
    s.issue { level := lv, writes := [d.toNat] } (fun s => .next (s.result 4 d.toNat (s.sysRead s.cur n.toNat)))

/-- The deadline count of the job whose launch a core's tile holds set: bits [47:0] (R113, R260). -/
def State.setDeadline (s : State) (core : Nat) (v : Word) : State :=
  match (s.tile (core / 4)).launch.bind s.launch? with
  | none => s
  | some l => match s.job? l.job with
    | some j => s.setJob l.job { j with dlLeft := Word.field v 0 48 }
    | none => s

/-- SWR: the effect its register's row states. A second shootdown waits until the first is acknowledged (R71). -/
def execSwr (a : BitVec 6) (n : BitVec 12) (s : State) : Out :=
  match sysLevels n.toNat with
  | some (_, some lv) =>
    s.issue { level := lv, reads := [a.toNat] } (fun s =>
      let v := s.reg a
      if n.toNat = 0x10 then .next ((s.setDeadline (coreOf s.cur) v).skip 4)
      else if n.toNat = 0x100 then .next ({ s with shoot := { s.shoot with base := v } }.skip 4)
      else if n.toNat = 0x101 then .next ({ s with shoot := { s.shoot with len := v } }.skip 4)
      else if s.shoot.awaited.isEmpty then .next ((s.startShootdown v).skip 4)
      else s.stall)
  | _ => s.trap 1 0

/-- XSD_CTL_WRITE: what a SWR to XSD_CTL brings about (R71). -/
def execXsdCtlWrite (_core : Nat) (v : Word) (s : State) : Out :=
  .next (if s.shoot.awaited.isEmpty then s.startShootdown v else s)

/-- DL_LEFT_WRITE: what a SWR to DL_LEFT brings about (R260). -/
def execDlLeftWrite (core : Nat) (v : Word) (s : State) : Out := .next (s.setDeadline core v)

/-! ## CIRRD (R293) -/

/-- The descriptor form of a ring entry. -/
def RingEntry.descriptor (e : RingEntry) : Word :=
  BitVec.ofNat 64 (e.word.toNat * 2 ^ 32 + e.seq % 65536 * 65536 + e.ctx % 8 * 256 + boolNat e.faulted * 2 + boolNat e.retired)

def execCirrd (d a b : BitVec 6) (s : State) : Out :=
  s.issue (need2 d.toNat a.toNat b.toNat) (fun s =>
    let x := s.reg a
    let y := s.reg b
    let e := Tbl.get {} (s.core (agentKey (unitOf s.cur) (y.toNat % 4))).cring (x.toNat % 64)
    .next (s.result 4 d.toNat
      (if Word.field x 16 48 ≠ 0 || Word.field y 3 61 ≠ 0 || y.toNat % 4 = 3 || !e.used || e.launch ≠ (s.ctx s.cur).launch ||
          e.seq ≠ x.toNat then Word.minusOne
       else if pteBit y 2 then e.pc else e.descriptor)))

/-! ## ZEROSP and SIGCHK -/

/-- ZEROSP: in program order with the context's accesses to its tile (R360). -/
def execZerosp (d a b : BitVec 6) (s : State) : Out :=
  s.issue { level := .v, reads := [a.toNat, b.toNat], writes := [d.toNat] } (fun s =>
    let x := (s.reg a).toNat
    let n := (s.reg b).toNat
    let u := unitOf s.cur
    if x % 64 ≠ 0 || n % 64 ≠ 0 || 524288 < x + n || !isTile u then .next (s.result 4 d.toNat Word.minusOne)
    else if s.txns.any (fun t => t.ctx == s.cur && t.home == .tile u && !t.performed) then s.stall
    else .next ((s.zeroRange (scratchKey u x) (scratchKey u (x + n))).result 4 d.toNat 0))

/-- Whether a table lists anything in a range of keys. -/
def anyIn {α : Type} (t : Tbl α) (lo hi : Nat) : Bool := t.any (fun e => decide (lo ≤ e.1) && decide (e.1 < hi))

/-- The nine structures of a tile that R206 lists, each whether it holds a bit that is not zero. -/
def State.signature (s : State) (u : Nat) : List Bool :=
  let t := s.tile u
  let cores := (List.range 3).map (fun r => s.core (agentKey u r))
  let ctxs := (List.range 24).map (fun i => s.ctx (ctxKey u (i / 8) (i % 8)))
  let pool := match t.launch.bind s.launch? with
    | none => (0, 0)
    | some l => match assoc l.pools (clusterOf u) with
      | some b => (b, b + l.poolBytes)
      | none => (0, 0)
  [ctxs.any (fun c => !c.w.isEmpty || !c.v.isEmpty || !c.m.isEmpty || !c.ix.isEmpty || !c.ox.isEmpty || c.pd != {}),
   anyIn s.mem (scratchKey u 0) (scratchKey u 524288) || cores.any (fun c => !c.ring.isEmpty || !c.deque.isEmpty),
   anyIn s.mem (poolKey (clusterOf u) pool.1) (poolKey (clusterOf u) pool.2),
   anyIn s.opmem (slotKey u 0 0) (slotKey u 24 0) || !t.seals.isEmpty || !t.slots.isEmpty,
   !t.rows.isEmpty || t.shadow.isSome || t.active.isSome || !t.drain.isEmpty,
   !t.catalogue.isEmpty || !t.sems.isEmpty || !t.queues.isEmpty || !t.outcomes.isEmpty,
   cores.any (fun c => !c.cring.isEmpty),
   !t.nodeUnits.isEmpty,
   s.versions.any (fun v => v.home == .tile u)]

/-- Bits from 0 up. -/
def bitsNat : List Bool → Nat
  | [] => 0
  | b :: r => boolNat b + 2 * bitsNat r

def execSigchk (d : BitVec 6) (s : State) : Out :=
  s.issue { level := .v, writes := [d.toNat] } (fun s =>
    .next (s.result 4 d.toNat (if isTile (unitOf s.cur) then BitVec.ofNat 64 (bitsNat (s.signature (unitOf s.cur))) else 0)))

/-! ## MONRD (R319, R230) -/

/-- The ten dwords of a monitor slot's record. -/
def Monitor.dwords (m : Monitor) : List Word :=
  BitVec.ofNat 64 (m.samples * 2 ^ 32 + m.source) :: BitVec.ofNat 64 (m.max * 2 ^ 32 + m.min) ::
    (List.range 8).map (fun i => BitVec.ofNat 64 (Tbl.get 0 m.bins (2 * i) + Tbl.get 0 m.bins (2 * i + 1) * 2 ^ 32))

def execMonrd (d a b : BitVec 6) (s : State) : Out :=
  s.issue (need2 d.toNat a.toNat b.toNat) (fun s =>
    let n := (s.reg a).toNat
    let m := Tbl.get {} (s.cluster (clusterOf (unitOf s.cur))).monitors n
    if 64 ≤ n || m.launch ≠ some (s.ctx s.cur).launch then .next (s.result 4 d.toNat Word.minusOne)
    else s.storeDwords (s.reg b) 10 (fun ps s => .next ((s.sendDwords (s.reg b) ps 0 m.dwords).result 4 d.toNat 0)))

/-! ## REFGET and REFCHK (R331) -/

/-- The type and value of a parameter in a launch's bindings (R272). -/
def Launch.bindingOf (l : Launch) (n : Nat) : Option (Nat × Word) :=
  (l.bindings.find? (fun e => e.1 == n)).map (fun e => e.2)

/-- The number of parameters of a launch's capsule. -/
def State.parameters (s : State) (l : Launch) : Nat :=
  match s.capsuleOf l with
  | some c => c.refs.length
  | none => 0

/-- The value bound to a parameter of the current launch under a type: the subcode of REF_TYPE where it is not, with whether the
parameter exists. -/
def State.reference (s : State) (n : Word) (type : Nat) : Except (Bool × Nat) Word :=
  match s.launchOf s.cur with
  | none => .error (false, min n.toNat 0xFFFF)
  | some l =>
    if s.parameters l ≤ n.toNat then .error (false, min n.toNat 0xFFFF)
    else
      match l.bindingOf n.toNat with
      | some (t, v) => if t = type then .ok v else .error (true, n.toNat)
      | none => .error (true, n.toNat)

def execRefget (d a b : BitVec 6) (s : State) : Out :=
  s.issue (need2 d.toNat a.toNat b.toNat) (fun s =>
    match s.reference (s.reg a) (Word.field (s.reg b) 0 32) with
    | .ok v => .next (s.result 4 d.toNat v)
    | .error (_, sub) => s.trap 9 sub)

def execRefchk (d a b : BitVec 6) (s : State) : Out :=
  s.issue (need2 d.toNat a.toNat b.toNat) (fun s =>
    match s.reference (s.reg a) (Word.field (s.reg b) 0 32) with
    | .ok _ => .next (s.result 4 d.toNat 1)
    | .error (exists_, _) => .next (s.result 4 d.toNat (if exists_ then 0 else Word.minusOne)))

/-! ## The services of SVC (R340) -/

/-- Service 1: the lowest free monitor slot of a cluster assigned to a launch. -/
def State.assignMonitor (s : State) (cluster tag : Nat) (x : Word) : State × Word :=
  let q := s.cluster cluster
  if 16 ≤ x.toNat then (s, Word.minusOne)
  else
    match (List.range 64).find? (fun n => (Tbl.get {} q.monitors n : Monitor).launch == none) with
    | none => (s, Word.minusOne)
    | some n =>
      (s.setCluster cluster { q with monitors := Tbl.set {} q.monitors n { launch := some tag, source := x.toNat } },
       BitVec.ofNat 64 n)

/-- Service 2: a slot of the launch released. -/
def State.releaseMonitor (s : State) (cluster tag : Nat) (x : Word) : State × Word :=
  let q := s.cluster cluster
  if x.toNat < 64 && (Tbl.get {} q.monitors x.toNat : Monitor).launch == some tag then
    (s.setCluster cluster { q with monitors := Tbl.set {} q.monitors x.toNat {} }, 0)
  else (s, Word.minusOne)

/-- A job's reserved page of an address. -/
def Job.page (j : Job) (x : Word) : Option ReservedPage := j.reserved.find? (fun p => p.va / 65536 == x.toNat / 65536)

def Job.setPage (j : Job) (p : ReservedPage) : Job :=
  { j with reserved := j.reserved.map (fun q => if q.va = p.va then p else q) }

/-- The launches of a job that have page tables. -/
def State.mappedLaunches (s : State) (job : Nat) : List (Nat × Launch) :=
  s.launches.filter (fun (e : Nat × Launch) => e.2.job == job && (e.2.state == .resident || e.2.state == .absent))

/-- The world that a page is mapped into recorded (R206). -/
def State.ownPage (s : State) (world pa : Nat) : State := { s with worldPages := Tbl.set 0 s.worldPages (pa / 65536) world }

/-- A page zero-filled as its world's key reads it. -/
def State.zeroUnder (s : State) (kid pa : Nat) : State :=
  let s := s.zeroRange pa (pa + 65536)
  if kid = 0 then s
  else { s with lineKey := (List.range 1024).foldl (fun (t : Tbl Nat) i => Tbl.set 0 t (pa / 64 + i) kid) s.lineKey }

/-- Service 3: a reserved page mapped read-write for the job's launches, each under its world's key, and zero-filled for the caller. -/
def State.mapReserved (s : State) (kid job : Nat) (x : Word) : State × Word :=
  match s.job? job with
  | none => (s, Word.minusOne)
  | some j =>
    match j.page x with
    | none => (s, Word.minusOne)
    | some p =>
      if p.mapped then (s, 0)
      else
        let (pa, s) := s.allocPage
        let s := s.zeroUnder kid pa
        let s := (s.mappedLaunches job).foldl (fun (s : State) e => (s.ownPage e.2.world pa).mapPage e.2.root p.va pa (7 + 1024 * e.2.worldKey.getD 0)) s
        (s.setJob job (j.setPage { p with pa := pa, mapped := true }), 0)

/-- Service 4: such a page unmapped and given back, every translation of it dropped; none while an access through it is on its way
(R71). -/
def State.unmapReserved (s : State) (job : Nat) (x : Word) : Option (State × Word) :=
  match s.job? job with
  | none => some (s, Word.minusOne)
  | some j =>
    match j.page x with
    | none => some (s, Word.minusOne)
    | some p =>
      let ls := s.mappedLaunches job
      if !p.mapped then some (s, Word.minusOne)
      else if ls.any (fun e => s.pageBusy e.1 p.va) then none
      else
        let s := ls.foldl (fun (s : State) e => s.setLeaf e.2.root p.va 0) s
        let s := s.dropTranslations (fun e => ls.any (fun l => l.2.root == e.root) && e.page == p.va / 65536)
        some (State.setJob { s with freePages := s.freePages ++ [p.pa] } job (j.setPage { p with mapped := false }), 0)

/-- A service with its argument for a stopped context: the state and the result, none while it must wait. -/
def State.service (s : State) (k : Nat) (n x : Word) : Option (State × Word) :=
  let c := s.ctx k
  match s.launch? c.launch with
  | none => some (s, Word.minusOne)
  | some l =>
    let cluster := clusterOf (unitOf k)
    match n.toNat with
    | 0 => some (s, 0)
    | 1 => some (s.assignMonitor cluster c.launch x)
    | 2 => some (s.releaseMonitor cluster c.launch x)
    | 3 => some (s.mapReserved (s.worldKeyOf l) l.job x)
    | 4 => s.unmapReserved l.job x
    | _ => some (s, Word.minusOne)

/-- A steward serves the SVC of a context whose folio has been written, and returns to it by ERET (R339). A service is begun and carried
to its end in one step, so one not begun when a cancel makes its folio not resumable, or from which ERET could not return, is not performed. -/
def State.serveSvc (s : State) (k : Nat) : State :=
  let c := s.ctx k
  match c.stop with
  | none => s
  | some st =>
    if st.cause ≠ 0x10 || !c.lates.isEmpty || s.returnWaits k st k ((s.folioVa k).getD 0) || (s.returnFolio k st).isNone then s
    else
      match s.service k (c.getW (field st.word.toNat 14 6)) (c.getW (field st.word.toNat 20 6)) with
      | none => s
      | some (s, x) => (s.eretOn k st x).1

end Sys2Proof.Machine
end

