-- ==== Sys2Proof/Machine/Moves.lean ====
section
/-!
DEFINITION. Sys2Proof/Machine/Moves.lean: a tile's whole state moved to another place: live migration (R89, R168, R169), launches made
absent and brought back (R170), and the clear routine with its receipt (R206, R208).
-/

namespace Sys2Proof.Machine

/-! ## Renaming -/

/-- A move: every number of the source tile as the destination's. -/
structure TileMove where
  src : Nat
  dst : Nat

def TileMove.unit (m : TileMove) (u : Nat) : Nat := if u = m.src then m.dst else u

def TileMove.agent (m : TileMove) (a : Nat) : Nat := if a / 4 = m.src then agentKey m.dst (a % 4) else a

def TileMove.ctx (m : TileMove) (k : Nat) : Nat := if unitOf k = m.src then m.dst * 32 + k % 32 else k

def TileMove.home (m : TileMove) : Home → Home
  | .tile u => .tile (m.unit u)
  | h => h

/-- A memory key in the source's scratchpad as the destination's. -/
def TileMove.key (m : TileMove) (key : Nat) : Nat :=
  if scratchKey m.src 0 ≤ key && key < scratchKey m.src 524288 then scratchKey m.dst (key - scratchKey m.src 0) else key

def TileMove.line (m : TileMove) (line : Nat) : Nat := m.key (line * 64) / 64

/-- A table's entries of a range moved to another range. -/
def moveRange {α : Type} (t : Tbl α) (lo n to_ : Nat) : Tbl α :=
  let xs := t.filter (fun e => decide (lo ≤ e.1) && decide (e.1 < lo + n))
  xs.foldl (fun (t : Tbl α) e => Tbl.insert t (to_ + (e.1 - lo)) e.2) (Tbl.clear (Tbl.clear t lo (lo + n)) to_ (to_ + n))

def TileMove.waiter (m : TileMove) : Waiter → Waiter
  | .ctx k d => .ctx (m.ctx k) d
  | w => w

def TileMove.waiters (m : TileMove) (t : Tbl (List Waiter)) : Tbl (List Waiter) := t.map (fun e => (e.1, e.2.map m.waiter))

def TileMove.txn (m : TileMove) (t : Txn) : Txn := { t with ctx := m.ctx t.ctx, home := m.home t.home, key := m.key t.key }

def TileMove.msg (m : TileMove) (x : Msg) : Msg := { x with ctx := x.ctx.map m.ctx, dest := m.agent x.dest, cp := x.cp.map m.ctx }

def TileMove.blk (m : TileMove) (b : BlkRead) : BlkRead :=
  { b with ctx := m.ctx b.ctx, parts := b.parts.map (fun p => { p with home := p.home.map m.home, key := m.key p.key }) }

def TileMove.job (m : TileMove) (j : EngineJob) : EngineJob :=
  { j with ctx := m.ctx j.ctx, unit := m.unit j.unit, runner := j.runner.map m.unit }

def TileMove.ctxState (m : TileMove) (c : Ctx) : Ctx := { c with align := c.align.map (fun a => (a.1, a.2.1, a.2.2.map m.ctx)) }

def TileMove.core (m : TileMove) (c : Core) : Core :=
  { c with rbWait := c.rbWait.map (fun e => (m.ctx e.1, e.2)), pushes := c.pushes.map (fun p => { p with ctx := p.ctx.map m.ctx }) }

/-- What moves of a tile; its place in the package stays what it was. -/
def TileMove.tile (m : TileMove) (t place : Tile) : Tile :=
  { t with semDown := m.waiters t.semDown, semUp := m.waiters t.semUp, queueGet := m.waiters t.queueGet,
           queuePut := m.waiters t.queuePut, engine := t.engine.map (fun e => { e with ctx := m.ctx e.ctx }),
           forward := none, markers := [], frozen := none, inService := place.inService, quarantined := place.quarantined,
           spare := place.spare, checking := t.checking, gated := false, idleSince := none }

/-- A tile that has been left: its place in the package. -/
def Tile.vacated (t : Tile) : Tile := { inService := t.inService, quarantined := t.quarantined, spare := t.spare }

/-- Every reference to a tile renamed, without the state that lies at it. -/
def State.renamed (s : State) (m : TileMove) : State :=
  { s with txns := s.txns.map m.txn, msgs := s.msgs.map m.msg, blks := s.blks.map m.blk,
           loads := s.loads.map (fun l => { l with ctx := m.ctx l.ctx, unit := m.unit l.unit }),
           lates := s.lates.map (fun p => { p with ctx := m.ctx p.ctx }),
           submitted := s.submitted.map m.job,
           clusters := s.clusters.map (fun (e : Nat × Cluster) => (e.1, { e.2 with
             table := e.2.table.map m.job, aligns := e.2.aligns.map (fun g => { g with awaited := g.awaited.map m.ctx }) })),
           dir := s.dir.map (fun (e : Nat × DirSlot) => (e.1, { e.2 with
             ctx := m.ctx e.2.ctx, homes := e.2.homes.map m.home, touched := e.2.touched.map (fun x => (m.home x.1, m.line x.2)) })),
           launches := s.launches.map (fun (e : Nat × Launch) => (e.1, { e.2 with queues := e.2.queues.map (fun q => { q with unit := m.unit q.unit }) })),
           versions := s.versions.map (fun v => { v with home := m.home v.home, line := m.line v.line }),
           cur := m.ctx s.cur }

/-- A tile's whole state moved: contexts, cores, tile resources, scratchpad and operand memory. -/
def State.moveTile (s : State) (src dst : Nat) : State :=
  let m : TileMove := ⟨src, dst⟩
  let s := s.renamed m
  let s := { s with ctxs := moveRange (s.ctxs.map (fun (e : Nat × Ctx) => (e.1, m.ctxState e.2))) (src * 32) 32 (dst * 32),
                    cores := moveRange (s.cores.map (fun (e : Nat × Core) => (e.1, m.core e.2))) (src * 4) 4 (dst * 4),
                    mem := moveRange s.mem (scratchKey src 0) 524288 (scratchKey dst 0),
                    bad := moveRange s.bad (scratchKey src 0) 524288 (scratchKey dst 0),
                    opmem := moveRange s.opmem (slotKey src 0 0) 405504 (slotKey dst 0 0) }
  let t := s.tile src
  (s.setTile dst (m.tile t (s.tile dst))).setTile src t.vacated

/-! ## Live migration (R168) -/

/-- Whether a context may be frozen: its st is zero, and it has no coprocessor instruction outstanding; drain activations and STOPPED
contexts move as they stand. A block read is awaited in any case, with the message that lowers cp (R289). An answer that its instruction awaits
follows it (R89). -/
def State.mayFreeze (s : State) (k : Nat) : Bool :=
  let c := s.ctx k
  let drains := match c.act with | some a => a.drain.isSome | none => false
  !s.blks.any (fun b => b.ctx == k) && !s.msgs.any (fun m => m.cp == some k) &&
    (c.state == .stopped || drains || (c.st == 0 && !s.coprocUnderWay k))

/-- Whether a tile may take a launch: in service, holding none, and no forwarding entry. -/
def Tile.isFree (t : Tile) : Bool := t.inService && t.launch.isNone && t.forward.isNone

/-- Whether a tile is free and no migration under way goes to it. -/
def State.tileFree (s : State) (u : Nat) : Bool := (s.tile u).isFree && !s.tiles.any (fun (e : Nat × Tile) => e.2.frozen == some u)

/-- Whether a launch that waits for tiles holds a tile, or its choice names it (R97). -/
def State.tilePromised (s : State) (u : Nat) : Bool :=
  s.launches.any (fun (e : Nat × Launch) => e.2.state == .placing && (e.2.held.contains u || e.2.chosen.contains u))

/-- The tenant's clusters: the rectangle of its sub-mesh (R10, R96). -/
def State.inMesh (s : State) (tenant cluster : Nat) : Bool :=
  match (Tbl.get {} s.vault.tenants tenant).mesh with
  | none => false
  | some (x, y, w, h) =>
    decide (x ≤ cluster % 6) && decide (cluster % 6 < x + w) && decide (y ≤ cluster / 6) && decide (cluster / 6 < y + h)

/-- The loads that a context carries over: it issues no access before they have returned (R89). -/
def State.carry (s : State) (k : Nat) : State :=
  let c := s.ctx k
  s.setCtx k { c with acq := (s.txns.filter (fun t => t.ctx == k)).map (fun t => t.id) ++ c.acq }

/-- Whether a migration may be made: the tile runs a launch that is not being cancelled, and has no machine check; the destination is free, belongs
to the tenant, and no waiting launch holds or has chosen it; the pool stays where it is, so a launch that uses it stays in its cluster. -/
def State.mayMigrate (s : State) (src dst : Nat) (l : Launch) : Bool :=
  l.state == .resident && l.cancel.isNone && (s.tile dst).isFree && !s.tilePromised dst && src != dst && isTile dst &&
    s.inMesh (l.field 1 8 8) (clusterOf dst) && (l.poolBytes == 0 || clusterOf src == clusterOf dst) &&
    !(s.tile src).checking && !s.falling && !s.tiles.any (fun (e : Nat × Tile) => e.2.forward == some src)

/-- Whether every context of a tile may be frozen. -/
def State.allFreeze (s : State) (u : Nat) : Bool := (tileCtxs u).all s.mayFreeze

/-- A launch's tile tasks that have not started, in a cluster where it has no tile any more, go to the table of their submitter's (R109, R169). -/
def State.rehomeTasks (s : State) (tag : Nat) : State :=
  match s.launch? tag with
  | none => s
  | some l =>
    let strays := fun (n : Nat) (j : EngineJob) => j.kind == .tileTask && !j.started && j.launch == tag && !l.units.any (fun u => clusterOf u == n)
    let moved := s.clusters.flatMap (fun (e : Nat × Cluster) => e.2.table.filter (strays e.1))
    let s := { s with clusters := s.clusters.map (fun (e : Nat × Cluster) => (e.1, { e.2 with table := e.2.table.filter (fun j => !strays e.1 j) })) }
    moved.foldl (fun (s : State) j =>
      let n := clusterOf (unitOf j.ctx)
      s.setCluster n { s.cluster n with table := (s.cluster n).table ++ [j] }) s

/-- The messages after a tile's move: one held at its rings from elsewhere is re-sent with kind 6 to where they are now, in its order; one under way
still goes to the old tile; those admitted, and the tile's own, have moved with it. -/
def resendAll (src : Nat) (before after : List Msg) : List Msg :=
  after.map (fun m => match before.find? (fun x => x.id == m.id) with
    | some x =>
      if x.dest / 4 ≠ src || x.admitted.isSome then m
      else if !x.held then { m with dest := x.dest }
      else if x.ctx.map unitOf = some src then m
      else m.resent
    | none => m)

/-- A frozen tile's state copied to its destination, where its contexts resume; the place map follows, and the old tile keeps a forwarding entry. -/
def State.migrate (s : State) (tag src dst : Nat) : State :=
  let t := s.moveTile src dst
  let t := { t with msgs := resendAll src s.msgs t.msgs }
  let t := match t.launch? tag with
    | some l => t.setLaunch tag { l with units := l.units.map (fun u => if u = src then dst else u) }
    | none => t
  let t := (tileCtxs dst).foldl (fun (s : State) k => s.carry k) t
  (t.setTile src { t.tile src with forward := some dst, markers := [] }).rehomeTasks tag

/-- TILE_MIGRATION: the tile is frozen, which stops its dispatch and holds what reaches it; when all its contexts may be frozen it moves. A cancel
of its launch, and whatever else takes its grounds away, abandons the migration (R169). -/
def execTileMigration (src dst : Nat) (s : State) : Out :=
  match (s.tile src).launch.bind (fun tag => (s.launch? tag).map (fun l => (tag, l))), (s.tile src).frozen with
  | some (_, l), none =>
    .next (if s.mayMigrate src dst l && s.tileFree dst then s.setTile src { s.tile src with frozen := some dst } else s)
  | some (tag, l), some to_ =>
    if !s.mayMigrate src to_ l then .next (s.setTile src { s.tile src with frozen := none })
    else .next (if s.allFreeze src then s.migrate tag src to_ else s)
  | none, some _ => .next (s.setTile src { s.tile src with frozen := none })
  | none, none => .next s

/-- MIGRATION_MARKER: a core's marker passes through the old tile once every message that it sent there before has gone on. -/
def execMigrationMarker (core u : Nat) (s : State) : Out :=
  let t := s.tile u
  if t.forward.isSome && !t.markers.contains core && !s.msgs.any (fun m => m.ctx.map coreOf == some core && m.dest / 4 == u) then
    .next (s.setTile u { t with markers := t.markers ++ [core] })
  else .next s

/-- FORWARDING_RETIRE: every core's marker has passed, and nothing addressed to the old tile is under way; it becomes free. -/
def execForwardingRetire (u : Nat) (s : State) : Out :=
  let t := s.tile u
  match t.forward with
  | none => .next s
  | some v =>
    let cores := match (s.tile v).launch.bind s.launch? with | some l => l.agents | none => []
    if cores.all t.markers.contains && !s.msgs.any (fun m => m.dest / 4 == u) then .next (s.setTile u { t with forward := none, markers := [] })
    else .next s

/-! ## Absent launches (R170) -/

/-- The cluster number under which the pool of an absent launch is kept. -/
def parkingPool (tag cluster : Nat) : Nat := 524288 + tag * 64 + cluster

/-- Bytes of memory moved with their marks. -/
def State.moveBytes (s : State) (lo n to_ : Nat) : State :=
  { s with mem := moveRange s.mem lo n to_, bad := moveRange s.bad lo n to_ }

def State.parkTiles (s : State) (tag : Nat) : Nat → List Nat → State
  | _, [] => s
  | i, u :: r => (s.moveTile u (parkingUnit tag i)).parkTiles tag (i + 1) r

/-- Whether an access to memory of a launch's contexts is on its way to its home; one that has arrived at a barrier waits there. -/
def State.accessesFly (s : State) (l : Launch) : Bool :=
  s.txns.any (fun t => l.units.contains (unitOf t.ctx) && t.op.lane == 0 && !t.performed && !t.arrived)

/-- Whether a launch may become absent: nothing of it is under way that would reach its tiles, or memory, after it has left them: accesses, block
reads, slot loads, late faults, engine jobs; what waits in its tiles goes with them (R170, R183, R297; log entry 30). -/
def State.launchQuiet (s : State) (tag : Nat) (l : Launch) : Bool :=
  !s.accessesFly l && !s.blks.any (fun b => b.launch == tag) && !s.loads.any (fun x => x.launch == tag) &&
    !s.lates.any (fun x => x.launch == tag) && !s.submitted.any (fun j => j.launch == tag && j.kind != .tileTask) &&
    !s.clusters.any (fun (e : Nat × Cluster) => e.2.table.any (fun (j : EngineJob) => j.launch == tag && j.kind != .tileTask)) &&
    !l.units.any (fun u => (s.tile u).checking)

/-- A resident launch saved whole and its tiles freed. -/
def State.makeAbsent (s : State) (tag : Nat) : State :=
  match s.launch? tag with
  | none => s
  | some l =>
    if l.state ≠ .resident then s
    else
      let units := l.units
      let s := s.parkTiles tag 0 l.units
      let l := (s.launch? tag).getD l
      let s := l.pools.foldl (fun (s : State) p => s.moveBytes (poolKey p.1 p.2) l.poolBytes (poolKey (parkingPool tag p.1) p.2)) s
      s.setLaunch tag { l with state := .absent, left := units, units := (List.range units.length).map (parkingUnit tag),
                               returning := false, sample := none }

/-- ABSENT_CONTEXT: the first arrival for an absent launch makes a steward bring it back. -/
def execAbsentContext (tag : Nat) (s : State) : Out :=
  match s.launch? tag with
  | none => .next s
  | some l =>
    if l.state = .absent && !l.parked.isEmpty && !l.returning then .next ((s.setLaunch tag { l with returning := true }).launchEvent tag)
    else .next s

def State.unparkTiles (s : State) : List (Nat × Nat) → State
  | [] => s
  | (p, u) :: r =>
    let s := s.moveTile p u
    (s.setTile p {}).unparkTiles r

/-- The pool of each cluster that a returning launch holds, from the cluster that its tiles left. -/
def State.unparkPools (s : State) (tag n : Nat) (old : Nat → Nat) (bases : List (Nat × Nat)) : List (Nat × Nat) → State
  | [] => s
  | (c, b) :: r =>
    let from_ := old c
    (s.moveBytes (poolKey (parkingPool tag from_) ((assoc bases from_).getD 0)) n (poolKey c b)).unparkPools tag n old bases r

/-- A parked arrival addressed to where its tile now is. -/
def Launch.unparkedDest (l : Launch) (units : List Nat) (dest : Nat) : Nat :=
  match l.units.findIdx? (· == dest / 4) with
  | some i => agentKey (nth 0 units i) (dest % 4)
  | none => agentKey (nth 0 units 0) (dest % 4)

/-- An absent launch on tiles again: its state comes back, and its parked arrivals are delivered before others, in the order they
were appended. -/
def State.bringBack (s : State) (tag : Nat) (l : Launch) (units : List Nat) (pools : List (Nat × Nat)) : State :=
  let s := s.unparkTiles (List.zip l.units units)
  let queues := ((s.launch? tag).getD l).queues
  let old := fun c => match units.findIdx? (fun u => clusterOf u == c) with | some i => clusterOf (nth 0 l.left i) | none => c
  let s := s.unparkPools tag l.poolBytes old l.pools pools
  let parked := (s.readParked l 0 l.parked).map (fun m => { m with dest := l.unparkedDest units m.dest })
  let s := { s with msgs := parked ++ s.msgs }
  (s.setLaunch tag { l with state := .resident, units := units, left := [], queues := queues, pools := pools, parked := [], returning := false,
                            held := [], chosen := [] }).rehomeTasks tag

/-! ## The clear routine (R206, R208) -/

/-- A tile's world zeroed. -/
def State.clearTile (s : State) (u : Nat) : State :=
  let s := { s with ctxs := Tbl.clear s.ctxs (u * 32) (u * 32 + 32), cores := Tbl.clear s.cores (u * 4) (u * 4 + 4),
                    opmem := Tbl.clear s.opmem (slotKey u 0 0) (slotKey u 24 0),
                    versions := s.versions.filter (fun (v : Version) => v.home != Home.tile u) }
  let s := s.zeroRange (scratchKey u 0) (scratchKey u 524288)
  let t := s.tile u
  s.setTile u { t.vacated with forward := t.forward, markers := t.markers }

/-- A launch's key indices emptied (R206). -/
def State.emptyKeys (s : State) (l : Launch) : State :=
  let is := (match l.worldKey with | some i => [i] | none => []) ++ l.modelKeys.map (fun e => e.2)
  { s with vault := { s.vault with indices := is.foldl (fun t i => Tbl.set 0 t i 0) s.vault.indices } }

/-- The clusters of a tenant's sub-mesh as a bitmap. -/
def State.meshBits (s : State) (tenant : Nat) : Nat :=
  (List.range 36).foldl (fun n c => if s.inMesh tenant c then n + 2 ^ c else n) 0

/-- A retirement receipt (R208). -/
def State.receipt (s : State) (tag : Nat) (l : Launch) (result : Nat) : List Byte :=
  let tenant := l.field 1 8 8
  let head := [nth 0 l.record 17,
    BitVec.ofNat 64 (tag % 65536 * 2 ^ 48 + tenant * 2 ^ 40 + result % 16 * 2 ^ 36 + s.meshBits tenant), nth 0 l.record 0,
    match l.lastAudit with | some q => BitVec.ofNat 64 q | none => Word.minusOne].flatMap (fun d => natBytes 8 d.toNat)
  head ++ (List.range 96).map (nth 0 (Config.deviceSignature head))

/-- A receipt appended to its tenant's receipt ring: 128-byte entries behind the audit log's ring in HBM, as many as that has (R208; log
entry 75). -/
def State.putReceipt (s : State) (tenant : Nat) (bs : List Byte) : State :=
  let n : Tenant := Tbl.get {} s.vault.tenants tenant
  let s := { s with vault := { s.vault with tenants := Tbl.set {} s.vault.tenants tenant { n with receipts := n.receipts + 1 } } }
  if n.logSize = 0 then s else s.writeList 0 (n.logBase + 128 * (n.logSize + n.receipts % n.logSize)) false bs

/-- The monitor slots of a launch zeroed. -/
def Cluster.forgetLaunch (q : Cluster) (tag : Nat) : Cluster :=
  { q with monitors := q.monitors.filter (fun (e : Nat × Monitor) => e.2.launch != some tag) }

/-- An ended launch's tiles cleared and freed once its accesses have reached their homes, what still waits for it gone; its keys emptied, its
receipt appended. A tile whose signature is not zero has a machine
check, which quarantines it (R208). -/
def State.clearLaunch (s : State) (tag : Nat) : State :=
  match s.launch? tag with
  | none => s
  | some l =>
    if l.state ≠ .ended || s.accessesFly l then s
    else
      let s := l.units.foldl State.clearTile (s.dropTxns (s.txns.filter (fun t => l.units.contains (unitOf t.ctx))))
      -- an absent launch's pool is parked
      let place := fun (c : Nat) => if l.left.isEmpty then c else parkingPool tag c
      let s := l.pools.foldl (fun (s : State) p => (s.zeroRange (poolKey (place p.1) p.2) (poolKey (place p.1) (p.2 + l.poolBytes)))) s
      let failed := l.units.filter (fun u => isTile u && (s.signature u).any id)
      let s := failed.foldl (fun (s : State) u => s.machineCheck u) s
      let s := { s with clusters := s.clusters.map (fun (e : Nat × Cluster) => (e.1, e.2.forgetLaunch tag)) }
      let s := (s.emptyKeys l).dropTranslations (fun e => e.launch == tag)
      let tenant := l.field 1 8 8
      let s := s.putReceipt tenant (s.receipt tag l (if failed.isEmpty then 0 else 1))
      let s := { s with spareBlocks := s.spareBlocks ++ l.stackBlocks ++ (if l.overflowBlock = 0 then [] else [l.overflowBlock]) }
      s.setLaunch tag { l with state := .retired, units := [], left := [], pools := [], worldKey := none, modelKeys := [], stackBlocks := [],
                               overflowBlock := 0 }

/-- CLEAR_ROUTINE. -/
def execClearRoutine (tag : Nat) (s : State) : Out := .next (s.clearLaunch tag)

end Sys2Proof.Machine
end

