-- ==== Sys2Proof/Machine/Registers.lean ====
section
/-!
DEFINITION. Sys2Proof/Machine/Registers.lean: the register pages (R211, R222, R223): reads, and writes by the host and by trusted
agents with their effects: the job queue (R92), the SPDM mailbox (R224), the rings of the protected-transfer channel (R225),
the power registers (R231, R212).
-/

namespace Sys2Proof.Machine

/-! ## Reads -/

/-- A 64-bit register of BAR 0 (R222). -/
def State.readShared (s : State) (off : Nat) : Nat :=
  let h := s.host
  match off with
  | 0x0000 => 0x200000001
  | 0x0100 => h.jqBase.toNat
  | 0x0108 => h.jqSize
  | 0x0110 => h.jqTail
  | 0x0118 => h.jqHead
  | 0x0120 => h.jqOverrun
  | 0x0200 => h.bootStatus
  | 0x0208 => h.tileCount
  | 0x0300 => h.secEvents
  | 0x0400 => h.errUncorrectable * 2 ^ 32 + h.errCorrected
  | 0x0500 => h.spdmReqLen
  | 0x0508 => h.spdmRspLen
  | 0x0600 => h.ptReqBase.toNat
  | 0x0608 => h.ptRspBase.toNat
  | 0x0610 => h.ptSize
  | 0x0618 => h.ptReqTail
  | 0x0620 => h.ptReqHead
  | 0x0628 => h.ptRspTail
  | 0x0630 => h.ptRspHead
  | _ => 0

/-- A 64-bit register of BAR 2 (R223). -/
def State.readPrivate (s : State) (off : Nat) : Nat :=
  match off with
  | 0x0000 => s.host.hwinBase.toNat
  | 0x0100 => s.host.powerCap
  | 0x0108 => s.host.powerCtl
  | _ => 0

/-- The offsets that R222 and R223 list. -/
def sharedOffsets : List Nat :=
  [0, 0x100, 0x108, 0x110, 0x118, 0x120, 0x200, 0x208, 0x300, 0x400, 0x500, 0x508, 0x600, 0x608, 0x610, 0x618, 0x620, 0x628, 0x630]

def privateOffsets : List Nat := [0, 0x100, 0x108]

/-- Whether an offset of BAR 0 lies in a mailbox buffer. -/
def inMailbox (off : Nat) : Bool := decide (0x1000 ≤ off) && decide (off < 0x3000)

/-- The bytes of a mailbox buffer from an offset of BAR 0. -/
def State.mailboxBytes (s : State) (off n : Nat) : List Byte :=
  (List.range n).map (fun i => if off < 0x2000 then Tbl.get 0 s.host.spdmReq (off + i - 0x1000) else Tbl.get 0 s.host.spdmRsp (off + i - 0x2000))

/-- A read of BAR 0, or of BAR 2 by a trusted agent: registers by aligned accesses of 8 bytes, the mailbox by aligned accesses of 4 or
8; anything else reads zero. -/
def State.readBar (s : State) (bar off n : Nat) : Nat :=
  if bar = 2 then (if n = 8 then s.readPrivate off else 0)
  else if inMailbox off then (if (n = 4 || n = 8) && off % n == 0 then bytesNat (s.mailboxBytes off n) else 0)
  else if n = 8 then s.readShared off else 0

/-! ## The job queue (R92) -/

/-- A write refused, and counted. -/
def State.jqRefuse (s : State) : State := { s with host := { s.host with jqOverrun := min (s.host.jqOverrun + 1) (2 ^ 64 - 1) } }

def State.jqEmpty (s : State) : Bool := s.host.jqHead == s.host.jqTail

/-- A write of the tail: accepted when what it queues fits in the free entries; the doorbell is an event at the stewards (R301). -/
def State.jqTailWrite (s : State) (v : Word) : State :=
  let n := 2 ^ s.host.jqSize
  let t := v.toNat
  if n ≤ t then s.jqRefuse
  else if (t + n - s.host.jqTail) % n ≤ (s.host.jqHead + n + n - s.host.jqTail - 1) % n then
    State.stewardEvent { s with host := { s.host with jqTail := t } }
  else s.jqRefuse

/-- A write of the base. The manual says that the address is aligned; the bits below 4 KiB of another are dropped (DESIGN CHOICE, log
entry 78). -/
def State.jqBaseWrite (s : State) (v : Word) : State :=
  if s.jqEmpty then { s with host := { s.host with jqBase := v &&& 0xFFFFFFFFFFFFF000, jqHead := 0, jqTail := 0 } } else s.jqRefuse

def State.jqSizeWrite (s : State) (v : Word) : State :=
  if s.jqEmpty then
    { s with host := { s.host with jqSize := if 6 ≤ v.toNat && v.toNat ≤ 12 then v.toNat else 6, jqHead := 0, jqTail := 0 } }
  else s.jqRefuse

/-! ## The mailbox and the transfer rings (R224, R225) -/

/-- A length written to SPDM_REQ_LEN: a request to the vault (R301). -/
def State.spdmReqWrite (s : State) (v : Word) : State :=
  if v = 0 || 4096 < v.toNat || s.host.spdmReqLen ≠ 0 || s.host.spdmRspLen ≠ 0 then s.secEvent
  else State.eventAt { s with host := { s.host with spdmReqLen := v.toNat } } 1016

/-- A write of SPDM_RSP_LEN: the host writes 0 when it has read the response. -/
def State.spdmRspWrite (s : State) (v : Word) : State := { s with host := { s.host with spdmRspLen := v.toNat } }

/-- The entries of a transfer ring. -/
def State.ptEntries (s : State) : Nat := 2 ^ s.host.ptSize

def State.ptSizeWrite (s : State) (v : Word) : State :=
  { s with host := { s.host with ptSize := if 4 ≤ v.toNat && v.toNat ≤ 10 then v.toNat else 4 } }

/-- The base of a transfer ring as a write leaves it: the bits below 4 KiB are dropped (DESIGN CHOICE, log entry 78). -/
def ringBaseOf (v : Word) : Word := v &&& 0xFFFFFFFFFFFFF000

/-- The doorbell of the request ring: a request to the vault (R301). What is written reads back; the ring takes it modulo its entries
(DESIGN CHOICE, log entry 78). -/
def State.ptTailWrite (s : State) (v : Word) : State :=
  State.eventAt { s with host := { s.host with ptReqTail := v.toNat } } 1016

def State.ptHeadWrite (s : State) (v : Word) : State := { s with host := { s.host with ptRspHead := v.toNat } }

/-! ## Power (R212, R223, R231) -/

def State.powerCapWrite (s : State) (v : Word) : State :=
  { s with host := { s.host with powerCap := max 1200 (min v.toNat 2200) } }

/-- Whether a protected world is live (R212). -/
def State.protectedLive (s : State) : Bool :=
  s.launches.any (fun e => e.2.protected_ && (e.2.state == .resident || e.2.state == .absent || e.2.state == .ended))

/-- A launch made absent for the dormant state once it may be; a drain of it begins anew when it has returned. -/
def State.sleepLaunch (s : State) (tag : Nat) : State :=
  match s.launch? tag with
  | some l => if l.state = .resident && s.launchQuiet tag l then (s.setLaunch tag { l with forRebuild := false }).makeAbsent tag else s
  | none => s

/-- The way to the dormant state: launches become absent one by one, ended ones are cleared, and the device is dormant when none holds tiles. -/
def State.fallAsleep (s : State) : State :=
  if !s.falling then s
  else
    let s := (s.launches.map (·.1)).foldl State.sleepLaunch s
    if s.launches.any (fun e => e.2.state == .resident || e.2.state == .ended) then s
    else { s with vault := { s.vault with dormant := true } }

/-- Admission stops, and no context of a launch issues: the device is on its way to the dormant state. -/
def State.enterDormant (s : State) : State := State.fallAsleep { s with host := { s.host with powerCtl := 1 } }

/-- A request for the dormant state: admission stops, or the request is refused while a protected world is live. -/
def State.requestDormant (s : State) : State :=
  if s.vault.dormant then s
  else if s.protectedLive then { s with host := { s.host with powerCtl := 2 } }
  else s.enterDormant

/-- A protected world ended by a forced entry: it is cleared, with its receipt and the destruction of its keys, once its accesses have reached their
homes. -/
def State.loseWorld (s : State) (tag : Nat) : State :=
  match s.launch? tag with
  | some l =>
    if !l.protected_ then s
    else if l.state = .resident || l.state = .absent then (s.endLaunch tag 4 "dormant").clearLaunch tag
    else s.clearLaunch tag
  | none => s

/-- The dormant state forced: every protected world ends, and the session keys are destroyed. -/
def State.forceDormant (s : State) : State :=
  if s.vault.dormant then s
  else
    let s := (s.launches.map (·.1)).foldl State.loseWorld s
    let v := { s.vault with mailbox := {}, ethernet := [], transfer := {}, debug := [], steward := {} }
    State.enterDormant { s with vault := v }

/-- A write of POWER_CTL; the manual gives the values 1 and 2 an effect, and another has none (DESIGN CHOICE, log entry 78). -/
def State.powerCtlWrite (s : State) (v : Word) : State :=
  if v = 1 then s.requestDormant else if v = 2 then s.forceDormant else s

/-! ## Writes -/

/-- A write of 8 bytes to a register of BAR 0: what is read-only or not listed discards it. -/
def State.writeShared (s : State) (off : Nat) (v : Word) : State :=
  match off with
  | 0x0100 => s.jqBaseWrite v
  | 0x0108 => s.jqSizeWrite v
  | 0x0110 => s.jqTailWrite v
  | 0x0500 => s.spdmReqWrite v
  | 0x0508 => s.spdmRspWrite v
  | 0x0600 => { s with host := { s.host with ptReqBase := ringBaseOf v } }
  | 0x0608 => { s with host := { s.host with ptRspBase := ringBaseOf v } }
  | 0x0610 => s.ptSizeWrite v
  | 0x0618 => s.ptTailWrite v
  | 0x0630 => s.ptHeadWrite v
  | _ => s

/-- A write of 8 bytes to a register of BAR 2 by a trusted agent. -/
def State.writePrivate (s : State) (off : Nat) (v : Word) : State :=
  match off with
  | 0x0000 => { s with host := { s.host with hwinBase := v &&& 0x000FFFF000000000 } }
  | 0x0100 => s.powerCapWrite v
  | 0x0108 => s.powerCtlWrite v
  | _ => s

/-- Bytes written to the request buffer. -/
def State.writeMailbox (s : State) (off : Nat) : List Byte → State
  | [] => s
  | b :: r => ({ s with host := { s.host with spdmReq := Tbl.set 0 s.host.spdmReq (off - 0x1000) b } }).writeMailbox (off + 1) r

/-- A write of n bytes to BAR 0, or to BAR 2 by a trusted agent. -/
def State.writeBar (s : State) (bar off n : Nat) (v : Word) : State :=
  if bar = 2 then (if n = 8 then s.writePrivate off v else s)
  else if inMailbox off then
    (if (n = 4 || n = 8) && off % n == 0 && off < 0x2000 then s.writeMailbox off (natBytes n v.toNat) else s)
  else if n = 8 then s.writeShared off v else s

/-- Bytes of one block stored by physical address under a key identity: an ordinary store at their home (R131, R196). It changes nothing of an audit
log or receipt ring (R5); in the HW fields of barriers, TCBs and folios it lands (DESIGN CHOICE, log entry 91). While an
IRREVOCABLE region holds the line the moment of the store has not come (R130): the host link and the transfer channel do not ask for it then
(log entry 71). -/
def State.writeBlock (s : State) (kid pa : Nat) (bs : List Byte) : State :=
  if field pa 39 4 ≠ 0 || s.lineHeld (homeOf pa) (linesOf pa bs.length) none then s
  else (s.abortReaders (homeOf pa) pa bs.length).writeBytes kid pa false (s.landing pa (enumBytes bs))

/-- Whether an IRREVOCABLE region holds a line of n bytes of HBM at a physical address (R130). -/
def State.physicalHeld (s : State) (pa n : Nat) : Bool :=
  (splitBlocks (n / 256 + 2) pa 0 n).any (fun p => s.lineHeld (homeOf (pa + p.1)) (linesOf (pa + p.1) p.2) none)

/-- Bytes stored by physical address, block by block (R55). -/
def State.writePhysical (s : State) (kid pa : Nat) (bs : List Byte) : State :=
  (splitBlocks (bs.length / 256 + 2) pa 0 bs.length).foldl (fun (s : State) p =>
    s.writeBlock kid (pa + p.1) ((bs.drop p.1).take p.2)) s

/-- A host write as it is performed (R211, R220): BAR 0, BAR 2 not trusted, BAR 4 the host window on HBM. -/
def State.hostWrite (s : State) (bar off n : Nat) (v : Word) : State :=
  if bar = 0 then s.writeBar 0 off n v
  else if bar = 2 then s.secEvent
  else if bar = 4 && off + n ≤ 2 ^ 36 then s.writePhysical 0 (s.host.hwinBase.toNat + off) (natBytes n v.toNat)
  else s

/-- What a host read returns (R211, R220): BAR 2 reads zero, and is a security event; the host window gives the bytes as stored (R196). -/
def State.hostRead (s : State) (bar off n : Nat) : List Byte × State :=
  if bar = 0 then (natBytes n (s.readBar 0 off n), s)
  else if bar = 2 then (List.replicate n 0, s.secEvent)
  else if bar = 4 && off + n ≤ 2 ^ 36 then (s.readBytes 0 (s.host.hwinBase.toNat + off) n, s)
  else (List.replicate n 0, s)

/-- Whether a request of the link must wait at its home: an IRREVOCABLE region holds the line (R130). -/
def State.linkHeld (s : State) (r : LinkReq) : Bool :=
  r.bar == 4 && decide (r.off + r.size ≤ 2 ^ 36) && s.physicalHeld (s.host.hwinBase.toNat + r.off) r.size

/-- A request of the link performed. -/
def State.linkPerform (s : State) (r : LinkReq) : State :=
  match r.value with
  | some v => s.hostWrite r.bar r.off r.size v
  | none =>
    let (bs, s) := s.hostRead r.bar r.off r.size
    { s with host := { s.host with reads := s.host.reads ++ [bs] } }

/-- The link's requests performed in arrival order, as far as their homes let them (R221). -/
def State.linkServe (s : State) : Nat → State
  | 0 => s
  | n + 1 =>
    match s.host.link with
    | [] => s
    | r :: rest => if s.linkHeld r then s else (State.linkPerform { s with host := { s.host with link := rest } } r).linkServe n

/-- A request that arrives at the link. -/
def State.linkRequest (s : State) (r : LinkReq) : State :=
  let s := { s with host := { s.host with link := s.host.link ++ [r] } }
  s.linkServe s.host.link.length

/-- A register of BAR 0 written by the host: a posted write of 8 bytes. -/
def State.doorbell (s : State) (off : Nat) (v : Word) : Out := .next (s.linkRequest ⟨0, off, 8, some v⟩)

def execJqTailWrite (v : Word) (s : State) : Out := s.doorbell 0x110 v

def execJqBaseWrite (v : Word) (s : State) : Out := s.doorbell 0x100 v

def execJqSizeWrite (v : Word) (s : State) : Out := s.doorbell 0x108 v

def execRegisterWrite (bar off size : Nat) (v : Word) (s : State) : Out := .next (s.linkRequest ⟨bar, off, size, some v⟩)

def execSpdmReqLenWrite (v : Word) (s : State) : Out := s.doorbell 0x500 v

def execSpdmRspLenWrite (v : Word) (s : State) : Out := s.doorbell 0x508 v

def execPtReqTailWrite (v : Word) (s : State) : Out := s.doorbell 0x618 v

def execPtRspHeadWrite (v : Word) (s : State) : Out := s.doorbell 0x630 v

def execPowerCapWrite (v : Word) (s : State) : Out := .next (s.powerCapWrite v)

def execDormantRequest (s : State) : Out := .next s.requestDormant

def execDormantForce (s : State) : Out := .next s.forceDormant

/-! ## Register space in the physical map (R55, R211) -/

/-- The page of a register-space offset: BAR 0 at offset 0, BAR 2 at 0x100000 (log entry 21). -/
def barOf (off : Nat) : Nat × Nat := if off < 0x100000 then (0, off) else (2, off - 0x100000)

/-- An access to register space at its home. Agents of level S and V are trusted; another's access to a private page reads zero,
writes nothing, and is a security event. -/
def State.performRegister (s : State) (t : Txn) : State :=
  let (bar, off) := barOf (t.key - registerKey 0)
  let trusted := decide (1 ≤ (s.level t.ctx).rank)
  let old := natBytes t.n (s.readBar bar off t.n)
  if bar = 2 && !trusted then s.secEvent.setTxn { t with performed := true, bytes := List.replicate t.n 0 }
  else
    match t.op with
    | .load _ => s.setTxn { t with performed := true, bytes := old }
    | .store bs _ =>
      (s.writeBar bar off t.n (BitVec.ofNat 64 (bytesNat (bs.map (fun p => p.2))))).setTxn { t with performed := true }
    | .amo op v _ _ =>
      let s := match amoNew op t.n (bytesNat old) (v.toNat % 2 ^ (8 * t.n)) with
        | some x => s.writeBar bar off t.n (BitVec.ofNat 64 x)
        | none => s
      s.setTxn { t with performed := true, bytes := old }
    | _ => s.setTxn { t with performed := true, bytes := old, refused := true }

end Sys2Proof.Machine
end

