-- ==== Sys2Proof/Machine/Fabric.lean ====
section
/-!
DEFINITION. Sys2Proof/Machine/Fabric.lean: the scale-up fabric: FABRIC_FLIT_RECEIVE (R209, R215 to R217), LINK_RETRAINED and LINK_DOWN
(R217).
-/

namespace Sys2Proof.Machine

/-! ## Packets that arrive -/

/-- The number under which a unit of another package stands for a context: no agent of this package bears it. -/
def foreignCtx (source : Nat) : Nat := 2 ^ 40 + source

/-- An access of another package on its way to its home here. It is addressed physically, so that it reaches the bytes as they are stored
(R196). -/
def State.foreignAccess (s : State) (source pa n : Nat) (op : TxnOp) : State :=
  if field pa 39 4 ≠ 0 || pa / 2 ^ 43 ≠ s.package then s
  else
    let t : Txn := { id := s.nextId, ctx := foreignCtx source, act := 1, grp := s.nextId, home := homeOf pa, op := op, key := pa, n := n }
    { s.fresh with txns := s.txns ++ [t] }

/-- The atomic operation of an op field (R256). -/
def amoOfCode (n : Nat) : Option AmoOp := [AmoOp.add, .and, .or, .xor, .min, .max, .minu, .maxu, .swp, .fadd][n]?

/-- What a foreign atomic does at its home, by the number of its operation (R256, R283, R88; log entry 82). -/
def atomicOfCode (op : Nat) (operand expected : Word) : Option TxnOp :=
  match amoOfCode op, op with
  | some o, _ => some (.amo o operand false false)
  | none, 10 => some (.amo (.cas expected) operand false false)
  | none, 11 => some (.barrier operand.toNat false)
  | none, 12 => some (.barrier operand.toNat true)
  | none, _ => none

/-- A message of another package delivered to its inbox stream, and counted (R112, R209). -/
def State.acceptMessage (s : State) (source dest launch : Nat) (words : List Word) : State :=
  let s := match s.launch? launch with
    | some l => s.setLaunch launch { l with received := l.received + 1, sample := none }
    | none => s
  (s.setStream (source / 4096) (s.stream (source / 4096)).took).post (some (foreignCtx source)) 1 (field dest 0 12) launch words

/-- A packet accepted: delivered once, in order; none where it is a message whose turn in its inbox stream it is not, which its link holds. -/
def State.acceptPacket (s : State) (source dest : Nat) : FabricPacket → Option State
  | .read pa n => some (s.foreignAccess source pa n (.load false))
  | .write pa n bytes => some (s.foreignAccess source pa n (.store bytes false))
  | .atomic pa n op operand expected => some ((atomicOfCode op operand expected).elim s (s.foreignAccess source pa n))
  | .message launch ws tag =>
    let x := s.stream (source / 4096)
    (openMessage x.next x.count ws tag).map (s.acceptMessage source dest launch)
  | .collective tag package elements => some { s with collected := s.collected ++ [(tag, package, elements)] }

/-! ## Flits (R209, R216, R217) -/

def flitIndex (f : Flit) : Nat := bytesNat (f.bytes.take 8)

/-- The packet type, the flit count and the places of source and destination of a header, and its other bits, which are reserved. -/
def flitKind (f : Flit) : Nat := field (bytesNat (f.bytes.take 16)) 64 3

def flitCount (f : Flit) : Nat := field (bytesNat (f.bytes.take 16)) 68 4

def flitSource (f : Flit) : Nat := field (bytesNat (f.bytes.take 16)) 72 21

def flitDest (f : Flit) : Nat := field (bytesNat (f.bytes.take 16)) 93 21

def flitReservedZero (f : Flit) : Bool :=
  field (bytesNat (f.bytes.take 16)) 67 1 == 0 && field (bytesNat (f.bytes.take 16)) 114 14 == 0

/-- A flit after the correction of its bytes where its parity shows an error. -/
def flitCorrected (f : Flit) : Flit :=
  if f.bytes.drop 248 = natBytes 8 (Config.flitParity (f.bytes.take 248)).toNat then f else { f with bytes := Config.flitCorrect f.bytes }

/-- Whether the CRC-64 of bytes 0 to 239 holds. -/
def flitCrcHolds (f : Flit) : Bool :=
  f.bytes.length == 256 && (f.bytes.drop 240).take 8 == natBytes 8 (Config.flitCrc (f.bytes.take 240)).toNat

/-- The payload of a flit under a port key, where its tag verifies with the header as additional data (log entry 82). -/
def flitPayload (f : Flit) (key : List Byte) (i : Nat) : Option (List Byte) :=
  gcmOpen key (flitIv (flitIndex f) i) (f.bytes.take 16) ((f.bytes.drop 16).take 208) ((f.bytes.drop 224).take 16)

/-- A flit that must be asked for again, and is counted; after 16 in a row the link retrains (R217). -/
def State.flitRetry (s : State) (n : Nat) : State :=
  let s := s.logError false
  let p := s.port n
  if 16 ≤ p.retries + 1 then s.setPort n { p with retries := 0, retraining := true, since := s.cycle }
  else s.setPort n { p with retries := p.retries + 1 }

/-- A port after the payload of its packet's next flit. -/
def Port.took (p : Port) (payload : List Byte) : Port := { p with retries := 0, parts := p.parts ++ [payload] }

/-- The key of the packet that a port awaits (R209). -/
def Port.nextKey (p : Port) : List Byte := ratchet "KF-PORT" p.key p.next

/-- A port after a whole packet: with the first of a boundary the key of the one before is destroyed (R209). -/
def Port.accepted (p : Port) : Port := { p with next := p.next + 1, parts := [], key := p.nextKey }

/-- A flit that its port takes: one that the forward error code corrected is counted (R22). -/
def State.flitCounted (s : State) (flit : Flit) : State := if flitCorrected flit = flit then s else s.logError false

/-- FABRIC_FLIT_RECEIVE: a flit whose CRC fails after correction, or whose tag fails, is asked for again; one that is out of its turn is the
replay of one already had. Nothing corrupted is delivered, and a packet is delivered when its last flit has come; a message whose turn in its
stream it is not yet, or of a type that R215 does not have, changes nothing (log entry 82). -/
def execFabricFlitReceive (flit : Flit) (s : State) : Out :=
  let p := s.port flit.port
  if 64 ≤ flit.port || !p.up || p.retraining then .next s
  else
    let f := flitCorrected flit
    if !flitCrcHolds f then .next (s.flitRetry flit.port)
    else
      let s := s.flitCounted flit
      if flitIndex f ≠ p.next || !flitReservedZero f then .next s
      else
        match flitPayload f p.nextKey p.parts.length with
        | none => .next (s.flitRetry flit.port)
        | some x =>
          let q := p.took x
          if q.parts.length < flitCount f then .next (s.setPort flit.port q)
          else
            match packetOf (flitKind f) q.parts.flatten with
            | none => .next (s.setPort flit.port q.accepted)
            | some c =>
              match (s.setPort flit.port q.accepted).acceptPacket (flitSource f) (flitDest f) c with
              | some s => .next s
              | none => .next s

/-! ## Links -/

/-- The next live plane after a plane (R217). -/
def State.nextLive (s : State) (plane : Nat) : Option Nat :=
  ((List.range 63).map (fun i => (plane + 1 + i) % 64)).find? (fun p => (s.port p).up && !(s.port p).retraining)

/-- Whether packets for a home of another package go by a link. -/
def State.homeOn (s : State) (plane : Nat) : Home → Bool
  | .bank p b => p != s.package && s.carrier (planeOf p (512 + b)) == plane
  | .registers p => p != s.package && s.carrier (planeOf p 1008) == plane
  | _ => false

/-- The launches that have a packet unacknowledged on a link: messages, accesses, parts of block reads, and collectives under way. -/
def State.launchesOn (s : State) (plane : Nat) : List Nat :=
  (s.msgs.filterMap (fun (m : Msg) => if m.left = some plane then some m.launch else none) ++
    s.txns.filterMap (fun (t : Txn) => if s.homeOn plane t.home then some (s.ctx t.ctx).launch else none) ++
    s.blks.filterMap (fun (b : BlkRead) =>
      if b.parts.any (fun p => p.got.isNone && (match p.home with | some h => s.homeOn plane h | none => false)) then some b.launch else none) ++
    s.clusters.flatMap (fun (e : Nat × Cluster) => e.2.table.filterMap (fun (j : EngineJob) =>
      if j.kind = .collective && j.started && ((List.range j.packageCount).any (fun i =>
          j.firstPackage + i != s.package && s.carrier (planeOf (j.firstPackage + i) j.unit) == plane)) then some j.launch
      else none))).dedup

/-- The traffic of a plane that has retrained moves back once nothing of it that went by the other plane is unacknowledged. -/
def State.moveBack (s : State) (plane : Nat) : State :=
  let p := s.port plane
  let waits := match p.redirect with
    | some n => (s.port n).out.waiting.any (fun e => e.2.2 == plane && s.unacked e.1)
    | none => false
  if p.returning && !waits then s.setPort plane { p with redirect := none, returning := false } else s

/-- LINK_RETRAINED: a link that retrained in time goes on; one that was down takes its traffic back, in steps. -/
def execLinkRetrained (plane : Nat) (s : State) : Out :=
  let p := s.port plane
  if 64 ≤ plane || (p.up && !p.retraining) then .next (s.moveBack plane)
  else .next ((s.setPort plane { p with up := true, retries := 0, retraining := false, returning := p.redirect.isSome }).moveBack plane)

/-- The other package has written a message that left for it: the sender has its acknowledgement (R300). -/
def State.remoteAck (s : State) (id : Nat) : State :=
  match s.msgs.find? (fun m => m.id == id) with
  | none => s
  | some m => if m.left.isSome then (List.range 64).foldl State.moveBack (s.ackMsg m) else s

/-- The traffic of plane n, where the plane that has gone down carries it, put on the next live plane; the link of a plane whose own link has
retrained since takes its traffic itself. -/
def State.redirectFrom (s : State) (plane n : Nat) : State :=
  let p := s.port n
  if n ≠ plane && p.redirect ≠ some plane then s
  else if n ≠ plane && p.up && !p.retraining then s.setPort n { p with redirect := none, returning := false }
  else s.setPort n { p with redirect := s.nextLive n }

/-- LINK_DOWN: a link that has not retrained within 10 ms, 14,000,000 cycles; the launches that it cuts off end, and the traffic that it carried
goes by the next live plane. -/
def execLinkDown (plane : Nat) (s : State) : Out :=
  if !(s.port plane).retraining || s.cycle < (s.port plane).since + 14000000 then .next s
  else
    let s := (s.launchesOn plane).foldl (fun (s : State) t => s.endLaunch t 3 "link down") s
    .next ((List.range 64).foldl (fun (s : State) n => s.redirectFrom plane n)
      (s.setPort plane { s.port plane with up := false, retraining := false }))

end Sys2Proof.Machine
end

