-- ==== Sys2Proof/Machine/Waiting.lean ====
section
/-!
DEFINITION. Sys2Proof/Machine/Waiting.lean: WAIT (R356, R357), PAUSE (R34, R326), semaphores and data queues (R43, R328, R333),
barriers (R88, R284) and ALIGN (R46, R280).
-/

namespace Sys2Proof.Machine

/-! ## WAIT -/

/-- Whether a counter is at most a field's value; 15 does not wait (R252). -/
def counterMet (field : BitVec 4) (count : Nat) : Bool := field == 15 || decide (count ≤ field.toNat)

def Ctx.countersMet (x : Ctx) (l n c t : BitVec 4) : Bool :=
  counterMet l x.ld && counterMet n x.st && counterMet c x.cp && counterMet t x.tl

/-- Whether a SEMUP or QPUT of a context, which no counter counts, waits for its release or in line: a WAIT for st = 0 awaits its
acknowledgement too (R357). -/
def State.tileOpsOut (s : State) (k : Nat) : Bool := s.txns.any (fun t => t.ctx == k && t.op.lane == 1)

/-- WAIT; the hint is ignored. -/
def execWait (l n c t _h : BitVec 4) (s : State) : Out :=
  s.issue {} (fun s =>
    if (s.ctx s.cur).countersMet l n c t && !(n == 0 && s.tileOpsOut s.cur) then .next (s.skip 4) else s.stall)

/-! ## PAUSE -/

/-- The context in BACKGROUND for 16 n cycles from the cycle after issue; PAUSE 0 has no effect (R34). -/
def State.pauseOp (s : State) (len n : Nat) : Out :=
  s.issue {} (fun s =>
    if n = 0 then .next (s.skip len)
    else .next (s.done len { s.ctx s.cur with window := some (s.cycle + 1 + 16 * n) }))

def execPause (i : BitVec 12) (s : State) : Out := s.pauseOp 4 i.toNat

def execCPause (n : BitVec 11) (s : State) : Out := s.pauseOp 2 n.toNat

/-! ## Semaphores (R333) -/

/-- Who waited is served: a context's instruction completes with a value in its register; an access whose release was awaited
answers. -/
def State.serve (s : State) (w : Waiter) (x : Word) : State :=
  match w with
  | .ctx k d => s.setCtx k (((s.ctx k).setW d x).next 4)
  | .txn id =>
    match s.txn? id with
    | some t => s.respond { t with performed := true, value := x }
    | none => s

/-- An access that joins a queue is arrived: its home asks for it no more. -/
def State.queueUp (s : State) (w : Waiter) : State :=
  match w with
  | .ctx _ _ => s
  | .txn id =>
    match s.txn? id with
    | some t => s.setTxn { t with arrived := true }
    | none => s

def waitersOf (t : Tbl (List Waiter)) (n : Nat) : List Waiter := Tbl.get [] t n

/-- Whether a waiter may take effect: a context's instruction once the release that it carries is complete (R82). -/
def State.waiterReady (s : State) : Waiter → Bool
  | .ctx k _ => (s.outstanding k 1).isEmpty
  | .txn _ => true

/-- A semaphore below 65,535 raised: the oldest stalled SEMDN takes the unit. -/
def State.semGive (s : State) (u n : Nat) (w : Waiter) : State :=
  let t := s.tile u
  let count := (Tbl.get 0 t.sems n).toNat
  match waitersOf t.semDown n with
  | x :: r => ((s.setTile u { t with semDown := Tbl.set [] t.semDown n r }).serve x 0).serve w 1
  | [] => (s.setTile u { t with sems := Tbl.set 0 t.sems n (BitVec.ofNat 16 (count + 1)) }).serve w (BitVec.ofNat 64 (count + 1))

/-- Whether a SEMUP that arrives finds the semaphore at its limit, or behind others that do. -/
def semFull (t : Tile) (n : Nat) : Bool :=
  !(waitersOf t.semUp n).isEmpty || ((waitersOf t.semDown n).isEmpty && (Tbl.get 0 t.sems n).toNat == 65535)

/-- Raise a semaphore: at 65,535 the raiser waits. -/
def State.semRaise (s : State) (u n : Nat) (w : Waiter) : State :=
  let t := s.tile u
  if semFull t n then (s.setTile u { t with semUp := Tbl.set [] t.semUp n (waitersOf t.semUp n ++ [w]) }).queueUp w
  else s.semGive u n w

/-- The stalled SEMUPs, oldest first, take the places below 65,535 that they find. -/
def State.semDrain (s : State) (u n : Nat) : Nat → State
  | 0 => s
  | fuel + 1 =>
    let t := s.tile u
    match waitersOf t.semUp n with
    | [] => s
    | x :: r =>
      if (Tbl.get 0 t.sems n).toNat < 65535 && s.waiterReady x then
        ((s.setTile u { t with semUp := Tbl.set [] t.semUp n r }).semGive u n x).semDrain u n fuel
      else s

/-- Lower a semaphore above zero: the oldest stalled SEMUP takes the place that this makes. -/
def State.semLower (s : State) (u n : Nat) (w : Waiter) : State :=
  let t := s.tile u
  let count := (Tbl.get 0 t.sems n).toNat
  ((s.setTile u { t with sems := Tbl.set 0 t.sems n (BitVec.ofNat 16 (count - 1)) }).serve w (BitVec.ofNat 64 (count - 1))).semDrain u n
    ((waitersOf t.semUp n).length)

def semCount (t : Tile) (n : Nat) : Nat := (Tbl.get 0 t.sems n).toNat

/-- Whether the current context waits in a queue. -/
def waits (k : Nat) (l : List Waiter) : Bool := l.any (fun w => match w with | .ctx j _ => j == k | .txn _ => false)

/-- An operation of the tile whose implicit release waits (R82): it goes on its way, and the context goes on. Where the release is then complete
and the queue has filled, or the semaphore reached its limit, since it issued, the operation waits there, and not its context (DESIGN
CHOICE, log entry 87). -/
def State.deferTile (s : State) (op : TxnOp) (dst : Dst) (after : List Nat) : Out :=
  let t : Txn := { s.proto 0 dst after false false none with home := .tile (unitOf s.cur), op := op }
  let s := { s.fresh with txns := s.txns ++ [t] }
  .next ((s.holdCur [] after).skip 4)

/-- SEMUP: a release at tile scope, whose effect waits until the release is complete (R82); at 65,535 the context stalls in line. -/
def execSemup (d a : BitVec 6) (s : State) : Out :=
  s.issue (need1 d.toNat a.toNat) (fun s => s.irrevocably (fun s =>
    let u := unitOf s.cur
    let n := (s.reg a).toNat % 8
    let t := s.tile u
    let stay := fun (s : State) => if waits s.cur (waitersOf (s.tile u).semUp n) then s.stall else .next s
    if waits s.cur (waitersOf t.semUp n) then stay (s.semDrain u n (waitersOf t.semUp n).length)
    else if s.gated true then s.waitGate
    else
      let after := s.outstanding s.cur 1
      if !after.isEmpty && !semFull t n then s.deferTile (.semup n) (dstW d.toNat) after
      else stay (s.semRaise u n (.ctx s.cur d.toNat))))

/-- SEMDN: STALLED while the count is 0; an acquire. -/
def execSemdn (d a : BitVec 6) (s : State) : Out :=
  s.issue (need1 d.toNat a.toNat) (fun s => s.irrevocably (fun s =>
    let u := unitOf s.cur
    let n := (s.reg a).toNat % 8
    let t := s.tile u
    if waits s.cur (waitersOf t.semDown n) then s.stall
    else if s.gated false then s.waitGate
    else if semCount t n = 0 then
      (s.setTile u { t with semDown := Tbl.set [] t.semDown n (waitersOf t.semDown n ++ [.ctx s.cur d.toNat]) }).stall
    else .next (s.semLower u n (.ctx s.cur d.toNat))))

def execSemtry (d a : BitVec 6) (s : State) : Out :=
  s.issue (need1 d.toNat a.toNat) (fun s => s.irrevocably (fun s =>
    let u := unitOf s.cur
    let n := (s.reg a).toNat % 8
    if s.gated false then s.waitGate
    else if semCount (s.tile u) n = 0 then .next (s.result 4 d.toNat Word.minusOne)
    else .next (s.semLower u n (.ctx s.cur d.toNat))))

/-! ## Data queues (R328) -/

def queueOf (t : Tile) (n : Nat) : List Word := Tbl.get [] t.queues n

/-- The value that a waiting QPUT brings. -/
def State.waiterValue (s : State) (w : Waiter) : Word :=
  match w with
  | .ctx k b => (s.ctx k).getW b
  | .txn id =>
    match s.txn? id with
    | some t => match t.op with
      | .qput _ x => x
      | _ => 0
    | none => 0

/-- The waiter whose QPUT is served: its instruction writes no register. -/
def Waiter.put : Waiter → Waiter
  | .ctx k _ => .ctx k 0
  | .txn id => .txn id

/-- A value put into a data queue that has room for it: the oldest stalled QGET takes it. -/
def State.queueGive (s : State) (u n : Nat) (w : Waiter) (x : Word) : State :=
  let t := s.tile u
  match waitersOf t.queueGet n with
  | y :: r => ((s.setTile u { t with queueGet := Tbl.set [] t.queueGet n r }).serve y x).serve w.put 0
  | [] => (s.setTile u { t with queues := Tbl.set [] t.queues n (queueOf t n ++ [x]) }).serve w.put 0

/-- Whether a QPUT that arrives finds 16 entries queued, or others stalled before it. -/
def queueFull (t : Tile) (n : Nat) : Bool :=
  !(waitersOf t.queuePut n).isEmpty || ((waitersOf t.queueGet n).isEmpty && decide (16 ≤ (queueOf t n).length))

/-- A value put into a data queue; with 16 entries queued the putter waits. A waiting context's register number is that of its value. -/
def State.queueAdd (s : State) (u n : Nat) (w : Waiter) (x : Word) : State :=
  let t := s.tile u
  if queueFull t n then (s.setTile u { t with queuePut := Tbl.set [] t.queuePut n (waitersOf t.queuePut n ++ [w]) }).queueUp w
  else s.queueGive u n w x

/-- The stalled QPUTs, oldest first, take the places that they find. -/
def State.queueDrain (s : State) (u n : Nat) : Nat → State
  | 0 => s
  | fuel + 1 =>
    let t := s.tile u
    match waitersOf t.queuePut n with
    | [] => s
    | y :: r =>
      if (queueOf t n).length < 16 && s.waiterReady y then
        ((s.setTile u { t with queuePut := Tbl.set [] t.queuePut n r }).queueGive u n y (s.waiterValue y)).queueDrain u n fuel
      else s

/-- The oldest entry of a data queue that is not empty, taken by a getter; the oldest stalled QPUT takes its place. -/
def State.queueTake (s : State) (u n : Nat) (w : Waiter) : State :=
  let t := s.tile u
  match queueOf t n with
  | [] => s
  | x :: r =>
    ((s.setTile u { t with queues := Tbl.set [] t.queues n r }).serve w x).queueDrain u n (waitersOf t.queuePut n).length

/-- QPUT: a release at tile scope, whose effect waits until the release is complete (R82); at 16 entries the context stalls in line. -/
def execQput (a b : BitVec 6) (s : State) : Out :=
  s.issue { reads := [a.toNat, b.toNat] } (fun s => s.irrevocably (fun s =>
    let u := unitOf s.cur
    let n := (s.reg a).toNat % 4
    let t := s.tile u
    let stay := fun (s : State) => if waits s.cur (waitersOf (s.tile u).queuePut n) then s.stall else .next s
    if waits s.cur (waitersOf t.queuePut n) then stay (s.queueDrain u n (waitersOf t.queuePut n).length)
    else if s.gated true then s.waitGate
    else
      let after := s.outstanding s.cur 1
      if !after.isEmpty && !queueFull t n then s.deferTile (.qput n (s.reg b)) .none after
      else stay (s.queueAdd u n (.ctx s.cur b.toNat) (s.reg b))))

def execQget (d a : BitVec 6) (s : State) : Out :=
  s.issue (need1 d.toNat a.toNat) (fun s => s.irrevocably (fun s =>
    let u := unitOf s.cur
    let n := (s.reg a).toNat % 4
    let t := s.tile u
    if waits s.cur (waitersOf t.queueGet n) then s.stall
    else if s.gated false then s.waitGate
    else if (queueOf t n).isEmpty then
      (s.setTile u { t with queueGet := Tbl.set [] t.queueGet n (waitersOf t.queueGet n ++ [.ctx s.cur d.toNat]) }).stall
    else .next (s.queueTake u n (.ctx s.cur d.toNat))))

/-! ## Barriers (R88, R284) -/

/-- BARW and BARA: a release at domain scope, then an arrival whose answer the context awaits; counted on no counter. -/
def State.barrierOp (s : State) (d a b : BitVec 6) (waits : Bool) : Out :=
  s.issue (need2 d.toNat a.toNat b.toNat) (fun s => s.awaiting
    (fun s => if s.gated true then s.waitGate
      else s.access .store (s.reg a) 16 16 false false (fun ps s => s.irrevocably (fun s =>
        let after := s.outstanding s.cur 4
        let id := s.nextId
        let s := s.sendAccess (s.reg a) ps (fun _ => .barrier ((s.reg b).toNat % 2 ^ 32) waits) .none after false false
        (s.setCtx s.cur { s.ctx s.cur with await := some id }).stall)) (inPackage := false))
    (fun s x => .next (s.result 4 d.toNat x)))

def execBarw (d a b : BitVec 6) (s : State) : Out := s.barrierOp d a b true

def execBara (d a b : BitVec 6) (s : State) : Out := s.barrierOp d a b false

/-! ## ALIGN (R46) -/

/-- The handler index of an activation. -/
def Ctx.handler (c : Ctx) : Option Nat := c.act.map (fun a => Word.field a.header 0 12)

/-- The other contexts of a launch in the cluster that run an activation of the same handler. -/
def State.alignPeers (s : State) (k : Nat) : List Nat :=
  let c := s.ctx k
  (s.ctxs.filter (fun e => e.1 != k && clusterOf (unitOf e.1) == clusterOf (unitOf k) && e.2.act.isSome &&
    e.2.launch == c.launch && e.2.handler == c.handler)).map (·.1)

/-- A context reaches ALIGN: the peers that await it do so no longer, and it awaits those that its group still awaits; the
first of a group fixes it, as every peer. -/
def State.reachAlign (s : State) (k imm : Nat) : State :=
  let peers := s.alignPeers k
  let c := s.ctx k
  let n := clusterOf (unitOf k)
  let h := c.handler.getD 0
  let ours := fun (g : AlignGroup) => g.launch == c.launch && g.handler == h && g.imm == imm
  let q := s.cluster n
  let awaited := match q.aligns.find? ours with
    | some g => g.awaited.filter (· != k)
    | none => peers
  let groups := if q.aligns.any ours then leaveGroups ours k q.aligns
    else if peers.isEmpty then q.aligns else q.aligns ++ [⟨c.launch, h, imm, peers⟩]
  let s := s.setCluster n { q with aligns := groups }
  let s := { s with ctxs := s.ctxs.map (fun (e : Nat × Ctx) => match e.2.align with
      | some (i, t, ks) => if i = imm && peers.contains e.1 then (e.1, { e.2 with align := some (i, t, ks.filter (· != k)) }) else e
      | none => e) }
  s.setCtx k { s.ctx k with align := some (imm, s.cycle + 16 * (imm + 1), awaited) }

/-- ALIGN; its immediate is in the word fetched. -/
def execAlign (s : State) : Out :=
  s.issue {} (fun s =>
    let imm := (s.ctx s.cur).word.toNat / 2 ^ 20
    let s := if (s.ctx s.cur).align.isNone then s.reachAlign s.cur imm else s
    match (s.ctx s.cur).align with
    | some (_, expiry, ks) =>
      if ks.isEmpty || decide (expiry ≤ s.cycle) then .next (s.done 4 { s.ctx s.cur with align := none }) else s.stall
    | none => .next (s.skip 4))

end Sys2Proof.Machine
end

