-- ==== Sys2Proof/Machine/Homes.lean ====
section
/-!
DEFINITION. Sys2Proof/Machine/Homes.lean: accesses performed by their homes, ACCESS_PERFORMED (R74, R75, R84), and their answers,
LOAD_RESPONSE and STORE_ACK (R78, R88); translations and instruction lines that come in, PAGE_WALK_COMPLETE (R69) and
INSTRUCTION_LINE_FILL (R172).
-/

namespace Sys2Proof.Machine

/-! ## ACCESS_PERFORMED -/

/-- The cluster of a footprint table's home (R86). -/
def tableCluster : Home → Nat
  | .tile u => clusterOf u
  | .pool c => c
  | _ => 0

/-- A job taken by its footprint table; it waits while the table is full (R84). One of a launch being cancelled is discarded (R48, R310). -/
def State.acceptJob (s : State) (t : Txn) (job : Nat) : State :=
  let n := tableCluster t.home
  match s.submitted.find? (fun j => j.id == job) with
  | none => s.setTxn { t with performed := true }
  | some j =>
    if (s.launch? j.launch).any (fun l => l.cancel.isSome) then
      (s.discardSubmitted j.launch).setTxn { t with performed := true }
    else if s.tableBusy n then s
    else
      let s := s.setCluster n { s.cluster n with table := (s.cluster n).table ++ [{ j with accepted := true }] }
      State.setTxn { s with submitted := s.submitted.filter (fun x => x.id != job) } { t with performed := true }

/-- The tile of a home; the accesses that ask for it are to tiles. -/
def homeUnit : Home → Nat
  | .tile u => u
  | _ => 0

/-- An access performed at its home, once it may be. -/
def State.performTxn (s : State) (t : Txn) : State :=
  match t.op with
  | .semup n => s.semRaise (homeUnit t.home) n (.txn t.id)
  | .qput n x => s.queueAdd (homeUnit t.home) n (.txn t.id) x
  | .enqueue job => s.acceptJob t job
  | .walk node base features limit desc => s.performWalk t node base features limit desc
  | _ =>
    match t.home with
    | .registers _ => s.performRegister t
    | _ => s.performWhole t

/-- Whether a part of a block read may be read: in program order with its context's accesses to that home (R289). -/
def State.partReadable (s : State) (b : BlkRead) (p : BlkPart) (h : Home) : Bool :=
  p.got.isNone && p.fault.isNone && !s.homeHeld h && !s.frozenTo b.ctx h &&
    !s.txns.any (fun t => t.ctx == b.ctx && t.home == h && decide (t.id < p.id) && !t.performed && t.op.isMemory) &&
    !s.blks.any (fun x => x != b && x.ctx == b.ctx && x.parts.any (fun q => q.home == some h && decide (q.id < p.id) && q.got.isNone))

/-- A part of a block read at its home. -/
def State.performPart (s : State) (b : BlkRead) (p : BlkPart) (h : Home) : State :=
  let t : Txn := { id := p.id, ctx := b.ctx, act := b.act, grp := p.id, home := h, op := .load false, key := p.key, n := p.len,
                   kid := p.kid, region := s.liveRegion b.region }
  let marks := s.byteMarks t
  match s.homeLoad t with
  | .done s bs bad =>
    let s := if bad then s.logError true else s
    { s with blks := s.blks.map (fun x => if x = b then
        { b with parts := b.parts.map (fun q => if q.id = p.id then { q with got := some (bs, marks) } else q) } else x) }
  | _ => s

/-- ACCESS_PERFORMED. -/
def execAccessPerformed (id : Nat) (s : State) : Out :=
  match s.txn? id with
  | some t => .next (if s.mayPerform t then s.performTxn t else s)
  | none =>
    match s.blks.findSome? (fun b => (b.parts.find? (fun p => p.id == id)).map (fun p => (b, p))) with
    | none => .next s
    | some (b, p) =>
      match p.home with
      | some h => .next (if s.partReadable b p h then s.performPart b p h else s)
      | none => .next s

/-! ## Answers -/

def TxnOp.isBarrier : TxnOp → Bool
  | .barrier _ _ => true
  | _ => false

/-- A barrier arrival refused, or made at poisoned bytes: an exact trap at the instruction, which has changed nothing (R88). -/
def State.barrierTrap (s : State) (t : Txn) : Out :=
  let s := s.finishTxn t
  let c := s.ctx t.ctx
  if c.actId = t.act && c.await = some t.id then
    (s.setCtx t.ctx { c with await := none }).trapAt t.ctx (if t.bad then 0x14 else 0xF) 0 0 none
  else .next s

/-- The latency of a load that another home than the own tile has answered (R229). -/
def State.sampleLoad (s : State) (t : Txn) : State :=
  match t.op with
  | .load _ | .vload _ _ => if t.home = .tile (unitOf t.ctx) then s else s.sampleAt t.ctx 1 (s.cycle - t.issued)
  | _ => s

/-- LOAD_RESPONSE. -/
def execLoadResponse (id : Nat) (s : State) : Out :=
  match s.txn? id with
  | none => .next s
  | some t =>
    if !t.performed || !t.op.returns then .next s
    else if t.op.isBarrier && (t.refused || t.bad) then s.barrierTrap t
    else .next ((s.sampleLoad t).respond t)

/-- STORE_ACK: the acknowledgement of a store, of an atomic without a result, or of an enqueue. -/
def execStoreAck (id : Nat) (s : State) : Out :=
  match s.txn? id with
  | none => .next s
  | some t => .next (if t.performed && !t.op.returns && !t.isTask then s.finishTxn t else s)

/-! ## Translations and instruction lines -/

/-- PAGE_WALK_COMPLETE: the cluster's TLB keeps what the walk found, never a faulting translation or one read from an entry with an
uncorrectable error (R22, R69). -/
def execPageWalkComplete (cluster root va : Nat) (s : State) : Out :=
  match s.walkTables root va, s.launches.find? (fun e => e.2.root == root) with
  | some leaf, some (tag, _) =>
    if s.walkBad root va then .next s
    else
    let q := s.cluster cluster
    let e : TlbEntry := { root := root, page := va / 65536, pte := leaf.pte, size := leaf.size, launch := tag }
    .next (s.setCluster cluster { q with tlb := e :: (q.tlb.filter (· ≠ e)).take 4095 })
  | _, _ => .next s

/-- INSTRUCTION_LINE_FILL: an uncorrectable error marks the line, and is counted; nothing traps until a context fetches it. -/
def execInstructionLineFill (cluster line : Nat) (bad : Bool) (s : State) : Out :=
  let marked := bad || s.readBad (line * 64) 64
  let l : ILine := ⟨line, s.readBytes (Tbl.get 0 s.lineKey line) (line * 64) 64, marked⟩
  let s := if marked then s.logError true else s
  let q := s.cluster cluster
  .next (s.setCluster cluster { q with icache := putLine q.icache 4096 l })

end Sys2Proof.Machine
end

