-- ==== Sys2Proof/Machine/Levels.lean ====
section
/-!
DEFINITION. Sys2Proof/Machine/Levels.lean: the completion counters and cancels of the levels of work: LVCNT (R47, R316) and
CNCL (R48, R49, R294).
-/

namespace Sys2Proof.Machine

/-! ## Counters (R47) -/

/-- Undispatched messages, running activations and held tasks of a launch. -/
def State.launchCount (s : State) (tag : Nat) (l : Launch) : Nat :=
  (l.agents.map (fun a => ((s.core a).ring.filter (fun r => !r.dispatched)).length + (s.core a).records.length)).sum +
    (s.msgs.filter (fun m => m.launch == tag)).length + l.parked.length +
    (l.ctxKeys.filter (fun k => (s.ctx k).act.isSome && (s.ctx k).launch == tag)).length +
    (s.txns.filter (fun t => t.released.isSome && (s.ctx t.ctx).launch == tag)).length

/-- Launches of a job that satisfy a condition. -/
def State.someLaunches (s : State) (p : Launch → Bool) : List (Nat × Launch) := s.launches.filter (fun e => p e.2)

def Launch.inGraph (l : Launch) (job phase graph : Nat) : Bool := l.job == job && l.phase == phase && l.graph == graph

/-- The unfinished launches of a graph. -/
def State.graphCount (s : State) (job phase graph : Nat) : Nat :=
  (s.someLaunches (fun l => l.inGraph job phase graph && l.status.isNone)).length

/-- The unfinished graphs of a phase: the graphs of the phase that runs are those whose launches are unfinished; a later phase's
graphs are all unfinished, an earlier one's are none. -/
def State.phaseCount (s : State) (job phase : Nat) : Nat :=
  match s.job? job with
  | none => 0
  | some j =>
    let n := (nth [] j.phases phase).length
    if phase < j.phase then 0
    else if j.phase < phase then n
    else ((List.range n).filter (fun g => s.graphCount job phase g != 0)).length

/-- The unfinished phases of a job. -/
def State.jobCount (s : State) (job : Nat) : Nat :=
  match s.job? job with
  | none => 0
  | some j => if j.status.isSome then 0 else ((List.range j.phases.length).filter (fun p => s.phaseCount job p != 0)).length

/-- The counter of a level above the launch, as a launch of it sees it. -/
def State.levelCount (s : State) (level tag : Nat) (l : Launch) : Nat :=
  match level with
  | 1 => s.launchCount tag l
  | 2 => s.graphCount l.job l.phase l.graph
  | 3 => s.phaseCount l.job l.phase
  | _ => s.jobCount l.job

/-- The launch that an identifier names at a level (R294): its tag, or a launch of the graph, phase or job whose id it is. -/
def State.byIdentifier (s : State) (level : Nat) (x : Word) : Option (Nat × Launch) :=
  match level with
  | 1 => s.launches.find? (fun e => BitVec.ofNat 64 e.1 == x && e.2.status.isNone)
  | 2 => s.launches.find? (fun e => nth 0 e.2.record 15 == x)
  | 3 => s.launches.find? (fun e => nth 0 e.2.record 16 == x)
  | 4 => s.launches.find? (fun e => nth 0 e.2.record 17 == x)
  | _ => none

/-- What a level operand names: none for -1. -/
def State.levelTarget (s : State) (a b : Word) : Option (Nat × Nat × Launch) :=
  let level := Word.field a 0 3
  if Word.field a 3 61 ≠ 0 || 5 ≤ level then none
  else if (s.level s.cur).rank = 0 then
    if b ≠ 0 then none
    else
      match s.launchOf s.cur with
      | some l => some (level, (s.ctx s.cur).launch, l)
      | none => none
  else
    match s.byIdentifier level b with
    | some e => some (level, e.1, e.2)
    | none => none

/-- LVCNT: the executing activation's own unit reads 1. -/
def execLvcnt (d a b : BitVec 6) (s : State) : Out :=
  s.issue (need2 d.toNat a.toNat b.toNat) (fun s =>
    .next (s.result 4 d.toNat (match s.levelTarget (s.reg a) (s.reg b) with
      | none => Word.minusOne
      | some (0, _, _) => 1
      | some (level, tag, l) => BitVec.ofNat 64 (s.levelCount level tag l))))

/-! ## Cancels (R48, R49) -/

/-- Whether a level, or one above it, is already being cancelled (R49). -/
def State.cancelling (s : State) (level : Nat) (l : Launch) : Bool :=
  match s.job? l.job with
  | none => false
  | some j =>
    j.cancel.isSome || (decide (level ≤ 3) && j.cancelledPhases.contains l.phase) ||
      (decide (level ≤ 2) && j.cancelledGraphs.contains (l.phase, l.graph)) || (decide (level ≤ 1) && l.cancel.isSome)

/-- A cancel of a level, named by one of its launches. -/
def State.cancelLevel (s : State) (level tag : Nat) (l : Launch) (by_ : Word) : State :=
  match s.job? l.job with
  | none => s
  | some j =>
    match level with
    | 1 => s.cancelLaunch tag 1 by_
    | 2 =>
      (s.setJob l.job { j with cancelledGraphs := (l.phase, l.graph) :: j.cancelledGraphs }).cancelLaunches 2 by_
        ((s.someLaunches (fun x => x.inGraph l.job l.phase l.graph)).map (·.1))
    | 3 =>
      (s.setJob l.job { j with cancelledPhases := l.phase :: j.cancelledPhases }).cancelLaunches 3 by_
        ((s.someLaunches (fun x => x.job == l.job && x.phase == l.phase)).map (·.1))
    | _ =>
      (s.setJob l.job { j with cancel := some { level := 4, since := s.cycle, by_ := by_ } }).cancelLaunches 4 by_
        (s.launchesOf l.job)

/-- The current context's place and number where its own launch is cancelled from within, 0 for a steward (R166). -/
def State.canceller (s : State) : Word := if (s.level s.cur).rank = 0 then s.whoWord s.cur else 0

/-- What CNCL does with its operands read (R294). -/
def State.cancelBody (s : State) (d a b : BitVec 6) : Out :=
  match s.levelTarget (s.reg a) (s.reg b) with
  | none => .next (s.result 4 d.toNat Word.minusOne)
  | some (0, _, _) => s.hretBody
  | some (level, tag, l) =>
    if s.cancelling level l then .next (s.result 4 d.toNat 1)
    else .next ((s.cancelLevel level tag l s.canceller).result 4 d.toNat 0)

/-- Whether CNCL's level operand is denied at level H (R47, R261). -/
def State.cancelDenied (a : BitVec 6) (s : State) (f : Nat → Word) : Bool :=
  let level := Word.field (f a.toNat) 0 3
  (s.level s.cur).rank = 0 && (level == 3 || level == 4)

/-- CNCL (R294): at levels 1 and 2 an open region first becomes IRREVOCABLE. -/
def execCncl (d a b : BitVec 6) (s : State) : Out :=
  s.issueOn (need2 d.toNat a.toNat b.toNat) [a.toNat] (State.cancelDenied a) (fun _ _ => false) (fun s =>
    let level := Word.field (s.reg a) 0 3
    if level = 1 || level = 2 then s.irrevocably (fun s => s.cancelBody d a b) else s.cancelBody d a b)

end Sys2Proof.Machine
end

