-- ==== Sys2Proof/Machine/Ecdsa.lean ====
section
/-!
DEFINITION. Sys2Proof/Machine/Ecdsa.lean: ECDSA on the Brainpool-384 curve of RFC 5639 (brainpoolP384r1) over SHA-384, as signatures of capsules,
consents and images are verified (R177, R193, R227).
-/

namespace Sys2Proof.Machine

/-- The curve y^2 = x^3 + ax + b over the integers modulo p, its base point, and the point's order q. -/
def curveP : Nat := 0x8CB91E82A3386D280F5D6F7E50E641DF152F7109ED5456B412B1DA197FB71123ACD3A729901D1A71874700133107EC53

def curveA : Nat := 0x7BC382C63D8C150C3C72080ACE05AFA0C2BEA28E4FB22787139165EFBA91F90F8AA5814A503AD4EB04A8C7DD22CE2826

def curveQ : Nat := 0x8CB91E82A3386D280F5D6F7E50E641DF152F7109ED5456B31F166E6CAC0425A7CF3AB6AF6B7FC3103B883202E9046565

def curveB : Nat := 0x04A8C7DD22CE28268B39B55416F0447C2FB77DE107DCD2A62E880EA53EEB62D57CB4390295DBC9943AB78696FA504C11

def baseX : Nat := 0x1D1C64F068CF45FFA2A63A81B7C13F6B8847A3E77EF14FE3DB7FCAFE0CBD10E8E826E03436D646AAEF87B2E247D4AF1E

def baseY : Nat := 0x8ABE1D7520F9C2A45CB1EB8E95CFD55262B70B29FEEC5864E19C054FF99129280E4646217791811142820341263C5315

/-- A power modulo m by squaring, n bits of exponent. -/
def powMod (m : Nat) (x e : Nat) : Nat → Nat
  | 0 => 1 % m
  | n + 1 =>
    let r := powMod m x (e / 2) n
    if e % 2 = 1 then r * r % m * x % m else r * r % m

/-- The inverse modulo a prime of 384 bits. -/
def invMod (m x : Nat) : Nat := powMod m x (m - 2) 384

/-- A point of the curve: none is the point at infinity. -/
abbrev CurvePoint := Option (Nat × Nat)

def subMod (a b : Nat) : Nat := (a + curveP - b) % curveP

/-- The third point on a line of a slope through two points, mirrored. -/
def chord (slope : Nat) (x1 y1 x2 : Nat) : Nat × Nat :=
  let x := subMod (subMod (slope * slope % curveP) x1) x2
  (x, subMod (slope * subMod x1 x % curveP) y1)

def curveAdd (a b : CurvePoint) : CurvePoint :=
  match a, b with
  | none, q => q
  | p, none => p
  | some (x1, y1), some (x2, y2) =>
    if x1 = x2 then
      if (y1 + y2) % curveP = 0 then none
      else some (chord ((3 * x1 * x1 + curveA) * invMod curveP (2 * y1 % curveP) % curveP) x1 y1 x2)
    else some (chord (subMod y2 y1 * invMod curveP (subMod x2 x1) % curveP) x1 y1 x2)

/-- A multiple of a point, n bits of multiplier. -/
def curveMul (k : Nat) (p : CurvePoint) : Nat → CurvePoint
  | 0 => none
  | n + 1 =>
    let h := curveMul (k / 2) p n
    let d := curveAdd h h
    if k % 2 = 1 then curveAdd d p else d

/-- Whether a public key is a point of the curve. -/
def onCurve (x y : Nat) : Bool :=
  decide (x < curveP) && decide (y < curveP) && y * y % curveP == (x * x * x + curveA * x + curveB) % curveP

/-- Whether a signature of 96 bytes, r then s, verifies over a message under a public key of 96 bytes, x then y: numbers whose first byte is the
most significant (R361). -/
def ecdsaHolds (key message signature : List Byte) : Bool :=
  let x := beNat (key.take 48)
  let y := beNat (key.drop 48)
  let r := beNat (signature.take 48)
  let s := beNat (signature.drop 48)
  if key.length ≠ 96 || signature.length ≠ 96 || !onCurve x y || r = 0 || curveQ ≤ r || s = 0 || curveQ ≤ s then false
  else
    let w := invMod curveQ s
    let u := beNat (sha384 message) * w % curveQ
    let v := r * w % curveQ
    match curveAdd (curveMul u (some (baseX, baseY)) 384) (curveMul v (some (x, y)) 384) with
    | none => false
    | some p => p.1 % curveQ == r

end Sys2Proof.Machine
end

