-- ==== Sys2Proof/Machine/Capsules.lean ====
section
/-!
DEFINITION. Sys2Proof/Machine/Capsules.lean: the capsule's byte string and the checks that the Mint makes of it: container, notes and
signature (R174 to R177), the handlers, slots, references and node formats (R178, R179, R184, R188, R190, R201), and the patches of
specialisation slots (R184).
-/

namespace Sys2Proof.Machine

/-- The doubleword at an offset of a byte string. -/
def dwordAt (bs : List Byte) (o : Nat) : Nat := bytesNat ((bs.drop o).take 8)

/-! ## Sections (R175) -/

/-- A section header. -/
structure CapSection where
  kind : Nat
  skip : Bool
  off : Nat
  size : Nat
  clean : Bool
  deriving DecidableEq, Repr

def capSection (bs : List Byte) (at_ : Nat) : CapSection :=
  let d := dwordAt bs at_
  { kind := field d 0 16, skip := field d 16 1 == 1, off := dwordAt bs (at_ + 8), size := dwordAt bs (at_ + 16),
    clean := field d 17 47 == 0 && dwordAt bs (at_ + 24) == 0 }

/-- The counts and offsets of the capsule header (R174). -/
def capSections (bs : List Byte) : Nat := field (dwordAt bs 8) 32 32

def capNoteCount (bs : List Byte) : Nat := field (dwordAt bs 8) 0 32

def capTable (bs : List Byte) : Nat := dwordAt bs 16

def capNotesAt (bs : List Byte) : Nat := dwordAt bs 24

def capSigned (bs : List Byte) : Bool := field (dwordAt bs 40) 0 1 == 1

def capSigAt (bs : List Byte) : Nat := dwordAt bs 48

def sectionsOf (bs : List Byte) : List CapSection :=
  (List.range (min 64 (capSections bs))).map (fun i => capSection bs (capTable bs + 32 * i))

/-- The bytes of the section of a type; a type that is absent has none. -/
def sectionBytes (bs : List Byte) (kind : Nat) : List Byte :=
  match (sectionsOf bs).find? (fun c => c.kind == kind) with
  | some c => (bs.drop c.off).take c.size
  | none => []

/-! ## Notes (R176) -/

/-- A note. -/
structure CapNote where
  kind : Nat
  mandatory : Bool
  payload : List Byte
  clean : Bool
  deriving DecidableEq, Repr

/-- A length rounded up to a multiple of eight. -/
def roundUp8 (n : Nat) : Nat := (n + 7) / 8 * 8

/-- The notes from an offset, and where they end. -/
def notesFrom (bs : List Byte) : Nat → Nat → List CapNote × Nat
  | 0, p => ([], p)
  | n + 1, p =>
    let d := dwordAt bs p
    let len := field (dwordAt bs (p + 8)) 0 32
    let last := p + 16 + roundUp8 len
    let note : CapNote :=
      { kind := field d 0 16, mandatory := field d 16 1 == 1, payload := (bs.drop (p + 16)).take len,
        clean := field d 17 47 == 0 && field (dwordAt bs (p + 8)) 32 32 == 0 && decide (last ≤ bs.length) &&
                 ((bs.drop (p + 16 + len)).take (roundUp8 len - len)).all (· == 0) }
    let (r, e) := notesFrom bs n last
    (note :: r, e)

def notesOf (bs : List Byte) : List CapNote := (notesFrom bs (min 256 (capNoteCount bs)) (capNotesAt bs)).1

def notesEnd (bs : List Byte) : Nat := (notesFrom bs (min 256 (capNoteCount bs)) (capNotesAt bs)).2

/-- The payload of a note of a type. -/
def noteBytes (bs : List Byte) (kind : Nat) : List Byte :=
  match (notesOf bs).find? (fun n => n.kind == kind) with
  | some n => n.payload
  | none => []

def half16 (bs : List Byte) (i : Nat) : Nat := bytesNat ((bs.drop (2 * i)).take 2)

/-- The 56-byte records of the SEAL note: measurement and handle. -/
def sealRecords (bs : List Byte) : List (List Byte × Word) :=
  let p := noteBytes bs 4
  (List.range (p.length / 56)).map (fun i =>
    ((p.drop (56 * i)).take 48, BitVec.ofNat 64 (bytesNat ((p.drop (56 * i + 48)).take 8))))

/-- The ABI note (R176): whether the body tries for register blocks. -/
def capTrying (bs : List Byte) : Bool := noteBytes bs 2 == [1]

/-! ## Step 1: the container -/

/-- Whether the header keeps R174. -/
def headerHolds (bs : List Byte) : Bool :=
  decide (64 ≤ bs.length) && decide (bs.length ≤ 2 ^ 30) && dwordAt bs 0 == 0x5041434B00400001 &&
    decide (2 ≤ capSections bs) && decide (capSections bs ≤ 64) && decide (capNoteCount bs ≤ 256) &&
    capTable bs % 8 == 0 && capNotesAt bs % 8 == 0 && dwordAt bs 32 == bs.length && field (dwordAt bs 40) 1 63 == 0 &&
    (if capSigned bs then capSigAt bs + 144 == bs.length && decide (64 ≤ capSigAt bs) else capSigAt bs == 0) &&
    dwordAt bs 56 == 0 && decide (capTable bs + 32 * capSections bs ≤ bs.length)

/-- Whether two ranges of bytes, first and length, share no byte. -/
def apart (a b : Nat × Nat) : Bool := decide (a.1 + a.2 ≤ b.1) || decide (b.1 + b.2 ≤ a.1) || a.2 == 0 || b.2 == 0

def allApart : List (Nat × Nat) → Bool
  | [] => true
  | a :: r => r.all (apart a) && allApart r

/-- Whether the sections keep R175. -/
def sectionsHold (bs : List Byte) : Bool :=
  let cs := sectionsOf bs
  let spans := cs.map (fun c => (c.off, c.size))
  let others := [(0, 64), (capTable bs, 32 * capSections bs), (capNotesAt bs, notesEnd bs - capNotesAt bs)] ++
    (if capSigned bs then [(capSigAt bs, 144)] else [])
  cs.all (fun c => c.clean && c.kind != 0 && c.off % 8 == 0 && decide (c.off + c.size ≤ bs.length)) &&
    (List.range 9).all (fun k => decide ((cs.filter (fun c => c.kind == k + 1)).length ≤ 1)) &&
    cs.any (fun c => c.kind == 1) && cs.any (fun c => c.kind == 2) &&
    allApart spans && spans.all (fun a => others.all (apart a))

/-- Whether a known note's payload has its form (R176). -/
def CapNote.holds (n : CapNote) : Bool :=
  n.clean &&
    match n.kind with
    | 1 => n.payload.length == 6 && decide (half16 n.payload 2 ≤ 1)
    | 2 => n.payload == [0] || n.payload == [1]
    | 3 => n.payload.length % 4 == 0
    | 4 => decide (56 ≤ n.payload.length) && n.payload.length % 56 == 0
    | _ => true

/-- Whether the notes keep R176. -/
def notesHold (bs : List Byte) : Bool :=
  let count := fun (k : Nat) => ((notesOf bs).filter (fun n => n.kind == k)).length
  (notesOf bs).all CapNote.holds && count 1 == 1 && count 2 == 1 && decide (count 3 ≤ 1) && decide (count 4 ≤ 1)

/-- The types of notes that R176 defines. -/
def CapNote.known (n : CapNote) : Bool := decide (1 ≤ n.kind) && decide (n.kind ≤ 4)

def hasBody (bs : List Byte) : Bool := (sectionsOf bs).any (fun c => c.kind == 9)

/-! ## Step 2: the signature (R177) -/

/-- The bytes that the accession number and the signature cover (R180). -/
def capContent (bs : List Byte) : List Byte := if capSigned bs then bs.take (capSigAt bs) else bs

/-- Whether a signature block of 144 bytes, r and s and the SHA-384 of a public key that the tenant holds, signs a message. -/
def Tenant.signed (t : Tenant) (message block : List Byte) : Bool :=
  t.keys.any (fun k => sha384 k == (block.drop 96).take 48 && ecdsaHolds k message (block.take 96))

def signatureGood (t : Tenant) (bs : List Byte) : Bool :=
  if capSigned bs then t.signed (capContent bs) (bs.drop (capSigAt bs)) else !t.signedOnly

/-! ## Steps 5 to 7: revisions and the ABI (R156, R190) -/

/-- The words of PORTABLE. -/
def capPortable (bs : List Byte) : List Word32 :=
  let p := sectionBytes bs 1
  (List.range (p.length / 4)).map (fun i => BitVec.ofNat 32 (bytesNat ((p.drop (4 * i)).take 4)))

def isRbacq : Instr → Bool
  | .rbacq _ _ => true
  | _ => false

def isRbacqt : Instr → Bool
  | .rbacqt _ _ => true
  | _ => false

/-- Whether PORTABLE keeps to its ABI note. -/
def abiHolds (bs : List Byte) : Bool :=
  (capPortable bs).all (fun w =>
    match decode32 w.toNat with
    | some i => if capTrying bs then !isRbacq i else !isRbacqt i
    | none => true)

/-- The pairs of the ENGINE note. -/
def enginePairs (bs : List Byte) : List (Nat × Nat) :=
  let p := noteBytes bs 3
  (List.range (p.length / 4)).map (fun i => (half16 p (2 * i), half16 p (2 * i + 1)))

/-- The highest revision of an engine kind that the device reads. -/
def deviceRevision (kind : Nat) : Nat := if kind = 0 then 2 else if kind = 1 then 1 else 0

/-- The revision negotiated for a kind: 0 where none can be. -/
def negotiated (bs : List Byte) (kind : Nat) : Nat :=
  match (enginePairs bs).find? (fun e => e.1 == kind) with
  | some e => min e.2 (deviceRevision kind)
  | none => 1

def enginesHold (bs : List Byte) : Bool := (enginePairs bs).all (fun e => decide (1 ≤ min e.2 (deviceRevision e.1)))

/-! ## Step 8: the tables -/

/-- A 16-byte entry of a table. -/
structure Entry16 where
  d0 : Nat
  d1 : Nat
  deriving DecidableEq, Repr

def entries16 (bs : List Byte) : List Entry16 :=
  (List.range (bs.length / 16)).map (fun i => ⟨dwordAt bs (16 * i), dwordAt bs (16 * i + 8)⟩)

/-- The entries before the first whose dword 0 is zero: the string table of SLOTS, REFS or REGIONS follows (log entry 32). -/
def entriesBeforeNames (bs : List Byte) : List Entry16 := (entries16 bs).takeWhile (fun e => e.d0 != 0)

def capHandlers (bs : List Byte) : List HandlerEntry :=
  (entries16 (sectionBytes bs 2)).map (fun e =>
    { entry := field e.d0 32 32, role := field e.d0 24 8, hint := field e.d0 16 8, present := field e.d0 0 1 == 1 })

/-- Whether each present handler points to a PAD of kind H. -/
def padsHold (bs : List Byte) : Bool :=
  (capHandlers bs).all (fun h => !h.present || (h.entry % 4 == 0 && (capPortable bs)[h.entry / 4]? == some 0x00300033))

/-- Whether the HANDLERS entries keep R179. -/
def handlersHold (bs : List Byte) : Bool :=
  let p := sectionBytes bs 2
  p.length % 16 == 0 && decide (p.length ≤ 65536) &&
    (entries16 p).all (fun e => e.d1 == 0 && field e.d0 1 15 == 0 && decide (field e.d0 24 8 ≤ 3) &&
      field e.d0 32 32 % 4 == 0 && (field e.d0 0 1 == 1 || e.d0 == 0))

/-- The SLOTS entries with their site lists, from an offset of the section, up to an entry whose dword 0 is zero. -/
def slotsFrom (bs : List Byte) : Nat → Nat → List (Entry16 × List Nat)
  | 0, _ => []
  | n + 1, p =>
    let d := dwordAt bs p
    if d = 0 || bs.length < p + 16 then []
    else
      let c := field d 48 16
      let sites := (List.range c).map (fun i => bytesNat ((bs.drop (p + 16 + 4 * i)).take 4))
      (⟨d, dwordAt bs (p + 8)⟩, sites) :: slotsFrom bs n (p + 16 + 4 * c)

def slotTable (bs : List Byte) : List (Entry16 × List Nat) :=
  let p := sectionBytes bs 4
  slotsFrom p (p.length / 16) 0

def capSlots (bs : List Byte) : List SlotEntry :=
  (slotTable bs).map (fun e => { sites := e.2, type := field e.1.d0 40 8, when_ := field e.1.d0 32 8 })

/-- Whether a word is of format I (R256). -/
def isFormatI (w : Nat) : Bool :=
  let p := w % 256 / 2
  w % 2 == 1 && ((decide (0x02 ≤ p) && decide (p ≤ 0x0A)) || p == 0x0E || p == 0x0F || p == 0x19 ||
    (decide (0x20 ≤ p) && decide (p ≤ 0x2A)) || p == 0x2D || p == 0x2E || p == 0x39 || p == 0x3D)

/-- The words that a slot of a type patches at a site (R184). -/
def siteWords (type : Nat) : Nat := if type = 3 then 4 else if type = 4 then 2 else 1

/-- Whether the words at a site are LI, then LIS, on one register, their immediates zero. -/
def liChain (ws : List Word32) (site n : Nat) : Bool :=
  let at_ := fun (i : Nat) => (nth 0 ws (site / 4 + i)).toNat
  decide (site / 4 + n ≤ ws.length) && at_ 0 % 256 == 0x17 &&
    (List.range n).all (fun i => at_ i / 16384 == 0 && field (at_ i) 8 6 == field (at_ 0) 8 6 && (i == 0 || at_ i % 256 == 0x19))

/-- Whether a site is the form that its slot's type patches, with the patched field zero. -/
def siteHolds (ws : List Word32) (type site : Nat) : Bool :=
  let w := (nth 0 ws (site / 4)).toNat
  site % 4 == 0 && decide (site / 4 + siteWords type ≤ ws.length) &&
    match type with
    | 0 => isFormatI w && w / 2 ^ 20 == 0
    | 1 => (w % 256 == 0x17 || w % 256 == 0x19) && w / 2 ^ 14 == 0
    | 2 => (w % 256 == 0x2D || w % 256 == 0x2F) && w / 2 ^ 8 == 0
    | 3 => liChain ws site 4
    | 4 => liChain ws site 2
    | _ => true

/-- The bytes of a SLOTS section that its entries take with their site lists. -/
def slotsEnd (es : List (Entry16 × List Nat)) : Nat := (es.map (fun e => 16 + 4 * e.2.length)).sum

/-- Whether every site is what its slot's type patches. A site list that runs past its section is no list, and breaks the table later. -/
def sitesHold (bs : List Byte) : Bool :=
  decide ((sectionBytes bs 4).length < slotsEnd (slotTable bs)) ||
    (capSlots bs).all (fun e => e.sites.all (siteHolds (capPortable bs) e.type))

/-- Whether a name's offset lies in the string table that follows a section's entries (R184, R188): the bytes behind the zero dword that
ends them (log entry 32). -/
def nameHolds (p : List Byte) (entries off : Nat) : Bool := decide (entries + 16 + off < p.length) || off == 0

/-- Whether the SLOTS entries keep R184, each with its site list within the section. -/
def slotsHold (bs : List Byte) : Bool :=
  let entries := slotsEnd (slotTable bs)
  decide (entries ≤ (sectionBytes bs 4).length) && (slotTable bs).all (fun e => nameHolds (sectionBytes bs 4) entries (field e.1.d0 0 32) &&
    decide (1 ≤ field e.1.d0 48 16) && decide (field e.1.d0 48 16 ≤ 1024) && decide (field e.1.d0 40 8 ≤ 4) &&
      decide (field e.1.d0 32 8 ≤ 2) && e.1.d1 == 0)

/-- Whether a type code keeps R188 and R133. -/
def typeHolds (t : Nat) : Bool :=
  let format := field t 24 4
  let count := field t 0 24
  match field t 28 4 with
  | 1 => decide (format ≤ 8) && count == 1
  | 2 => decide (format ≤ 8)
  | 3 => format == 0
  | 4 => format == 0 && count == 0
  | 5 => format == 0 && count == 0
  | 6 => format == 0 && count == 0
  | _ => false

def refTable (bs : List Byte) : List Entry16 := entriesBeforeNames (sectionBytes bs 5)

def refsHold (bs : List Byte) : Bool :=
  (refTable bs).all (fun e => field e.d0 16 16 == 0 && typeHolds (field e.d0 32 32) &&
    nameHolds (sectionBytes bs 5) (16 * (refTable bs).length) e.d1)

/-- The node-format descriptors. -/
def capNodes (bs : List Byte) : List (List Word) :=
  let p := sectionBytes bs 6
  (List.range (p.length / 32)).map (fun i =>
    (List.range 4).map (fun j => BitVec.ofNat 64 (dwordAt p (32 * i + 8 * j))))

/-- Whether a locator is absent, or its field lies in a node of a number of bits. -/
def locatorFits (bits : Nat) (x : Nat) : Bool := field x 15 1 == 0 || decide (field x 0 10 + field x 10 5 + 1 ≤ bits)

/-- Whether a node-format descriptor keeps R201. -/
def nodeHolds (d : List Word) : Bool :=
  let loc := fun (dword lo : Nat) => Word.field (nth 0 d dword) lo 16
  let size := Word.field (nth 0 d 3) 56 8
  let cmp := Word.field (nth 0 d 3) 53 3
  let needed := [loc 0 48, loc 0 32, loc 0 16, loc 0 0, loc 1 48, loc 1 16, loc 1 0, loc 2 48]
  needed.all (fun x => field x 15 1 == 1) && (needed ++ [loc 1 32, loc 2 32, loc 2 16]).all (locatorFits (64 * size)) &&
    loc 2 0 == 0 && Word.field (nth 0 d 3) 0 44 == 0 && decide (1 ≤ size) && decide (size ≤ 16) && cmp != 5 && cmp != 6

def nodesHold (bs : List Byte) : Bool :=
  (sectionBytes bs 6).length % 32 == 0 && decide ((capNodes bs).length ≤ 16) && (capNodes bs).all nodeHolds

/-- The total bytes of the named regions, each aligned to 64 bytes (R31): the size of a region is dword 0 of its entry (log entry
32). -/
def capRegions (bs : List Byte) : Nat :=
  (entriesBeforeNames (sectionBytes bs 3)).foldl (fun n e => (n + 63) / 64 * 64 + e.d0) 0

/-- The trap handlers: class in dword 0 [15:0], handler in [63:32] (log entry 32). -/
def capTraps (bs : List Byte) : List (Nat × Nat) :=
  (entries16 (sectionBytes bs 7)).map (fun e => (field e.d0 0 16, field e.d0 32 32))

/-! ## Slot values (R184, R186) -/

/-- Whether a place value has the form of R24 with phys = 0, and names a group and tile within counts where they are known. -/
def placeHolds (v : Word) : Option (Nat × Nat) → Bool
  | none => Word.field v 32 32 == 0
  | some (groups, tiles) => Word.field v 32 32 == 0 && decide (Word.field v 16 16 < groups) && decide (Word.field v 2 14 < tiles)

/-- Whether a value lies in the range of a slot of a capsule of n portable words. -/
def slotAllows (n : Nat) (e : SlotEntry) (v : Word) (counts : Option (Nat × Nat)) : Bool :=
  match e.type with
  | 0 => decide (-2048 ≤ v.toInt) && decide (v.toInt ≤ 2047)
  | 1 => decide (-131072 ≤ v.toInt) && decide (v.toInt ≤ 131071)
  | 2 => v.toNat % 4 == 0 && decide (v.toNat < 4 * n) &&
      e.sites.all (fun p => decide (-16777216 ≤ v.toInt - (p : Int)) && decide (v.toInt - (p : Int) ≤ 16777212))
  | 3 => decide (v.toNat < 2 ^ 56)
  | _ => placeHolds v counts

/-- A word with n bits from bit lo replaced. -/
def patchField (w : Word32) (lo n x : Nat) : Word32 :=
  BitVec.ofNat 32 (w.toNat % 2 ^ lo + x % 2 ^ n * 2 ^ lo + w.toNat / 2 ^ (lo + n) * 2 ^ (lo + n))

/-- The word at a place in a slot's site with its value patched in. -/
def patchWord (type : Nat) (v : Word) (site i : Nat) (w : Word32) : Word32 :=
  match type with
  | 0 => patchField w 20 12 v.toNat
  | 1 => patchField w 14 18 v.toNat
  | 2 => patchField w 8 24 ((v.toNat + 2 ^ 64 - site) / 2)
  | 3 => patchField w 14 18 (v.toNat / 2 ^ (54 - 18 * i))
  | _ => patchField w 14 18 (v.toNat / 2 ^ (18 - 18 * i))

def patchSite (type : Nat) (v : Word) (ws : List Word32) (site : Nat) : List Word32 :=
  (List.range (siteWords type)).foldl (fun (ws : List Word32) i =>
    ws.set (site / 4 + i) (patchWord type v site i (nth 0 ws (site / 4 + i)))) ws

/-- The portable words with the values of slots patched in. -/
def patchSlots (slots : List SlotEntry) (ws : List Word32) (values : List (Nat × Word)) : List Word32 :=
  values.foldl (fun (ws : List Word32) v =>
    match slots[v.1]? with
    | some e => e.sites.foldl (patchSite e.type v.2) ws
    | none => ws) ws

/-- Whether the values given are one for each slot that satisfies a condition, and none for another. -/
def valuesMatch (slots : List SlotEntry) (wanted : SlotEntry → Bool) (values : List (Nat × Word)) : Bool :=
  values.all (fun v => match slots[v.1]? with | some e => wanted e | none => false) &&
    (List.range slots.length).all (fun i =>
      match slots[i]? with
      | some e => !wanted e || (values.filter (fun v => v.1 == i)).length == 1
      | none => true)

/-- Whether every value given lies in its slot's range. -/
def valuesInRange (n : Nat) (slots : List SlotEntry) (values : List (Nat × Word)) (counts : Option (Nat × Nat)) : Bool :=
  values.all (fun v => match slots[v.1]? with | some e => slotAllows n e v.2 counts | none => true)

end Sys2Proof.Machine
end

