-- ==== Sys2Proof/Machine/Native.lean ====
section
/-!
DEFINITION. Sys2Proof/Machine/Native.lean: the body that the Mint builds of a portable form (R178, R182, R184, R254): 16-bit forms where one is
equivalent, the map of portable locations to places in the body, and branches whose offsets are those of the body.
-/

namespace Sys2Proof.Machine

/-! ## Branches (R249) -/

/-- A relative branch with another offset. -/
def withOffset (i : Instr) (d : Int) : Instr :=
  match i with
  | .beq a b _ => .beq a b (BitVec.ofInt 12 d)
  | .bne a b _ => .bne a b (BitVec.ofInt 12 d)
  | .blt a b _ => .blt a b (BitVec.ofInt 12 d)
  | .bge a b _ => .bge a b (BitVec.ofInt 12 d)
  | .bltu a b _ => .bltu a b (BitVec.ofInt 12 d)
  | .bgeu a b _ => .bgeu a b (BitVec.ofInt 12 d)
  | .loop a _ => .loop a (BitVec.ofInt 12 d)
  | .boqb c _ => .boqb c (BitVec.ofInt 12 d)
  | .j _ => .j (BitVec.ofInt 24 d)
  | .jl _ => .jl (BitVec.ofInt 24 d)
  | x => x

/-! ## 16-bit forms (R254) -/

def fits (n : Nat) (x : Int) : Bool := decide (-(2 ^ (n - 1) : Int) ≤ x) && decide (x < (2 ^ (n - 1) : Int))

def isLow (r : BitVec 6) : Bool := decide (r.toNat < 16)

def low (r : BitVec 6) : BitVec 4 := r.setWidth 4

/-- The 16-bit form equivalent to an instruction whose branch, if it is one, goes d halfwords. -/
def narrowForm (i : Instr) (d : Int) : Option Instr :=
  match i with
  | .addi x a n =>
    if x = 0 && a = 0 && n = 0 then some .cHint
    else if x = a && isLow x && fits 7 n.toInt then some (.cAddi (low x) (n.setWidth 7))
    else none
  | .add x a b =>
    if !isLow x || !isLow a || !isLow b then none
    else if b = 0 then some (.cMov (low x) (low a))
    else if x = a then some (.cAdd (low x) (low b))
    else none
  | .sub x a b => if x = a && isLow x && isLow b then some (.cSub (low x) (low b)) else none
  | .and x a b => if x = a && isLow x && isLow b then some (.cAnd (low x) (low b)) else none
  | .li x n => if isLow x && fits 7 n.toInt then some (.cLi (low x) (n.setWidth 7)) else none
  | .shli x a n => if x = a && isLow x && n.toNat < 32 then some (.cShli (low x) (n.setWidth 5)) else none
  | .ldw x a n =>
    if isLow x && a = 2 && 0 ≤ n.toInt && n.toNat % 4 = 0 && n.toNat ≤ 508 then some (.cLdw (low x) ((n >>> 2).setWidth 7)) else none
  | .stw x a n =>
    if isLow x && a = 2 && 0 ≤ n.toInt && n.toNat % 4 = 0 && n.toNat ≤ 508 then some (.cStw (low x) ((n >>> 2).setWidth 7)) else none
  | .beq a b _ => if isLow a && b = 0 && fits 7 d then some (.cBz (low a) (BitVec.ofInt 7 d)) else none
  | .bne a b _ => if isLow a && b = 0 && fits 7 d then some (.cBnz (low a) (BitVec.ofInt 7 d)) else none
  | .j _ => if fits 11 d then some (.cJ (BitVec.ofInt 11 d)) else none
  | .pause n => if n.toNat < 2048 then some (.cPause (n.setWidth 11)) else none
  | .ret a => if a = 1 then some .cRet else none
  | .hret => some .cHret
  | _ => none

/-! ## The layout -/

/-- The places of words of given sizes, and their total behind the last. -/
def layoutFrom (at_ : Nat) : List Nat → List Nat
  | [] => [at_]
  | n :: r => at_ :: layoutFrom (at_ + n) r

/-- Where a location of PORTABLE lies in a layout of n words, also one outside it. -/
def placeIn (map : List Nat) (n : Nat) (x : Int) : Int :=
  if x < 0 then x
  else if 4 * (n : Int) ≤ x then (nth 0 map n : Int) + (x - 4 * n)
  else (nth 0 map (x.toNat / 4) : Int) + x % 4

/-- The offset in halfwords, in a layout, of a branch at a word that goes o halfwords in PORTABLE. -/
def bodyOffset (map : List Nat) (n i : Nat) (o : Int) : Int := (placeIn map n (4 * i + 2 * o) - placeIn map n (4 * i)) / 2

/-- The instruction of a word in a layout, its branch offset that of the body. -/
def narrowAt (map : List Nat) (n i : Nat) (w : Word32) : Option Instr :=
  match decode32 w.toNat with
  | some x => narrowForm x (match branchOffset x with | some o => bodyOffset map n i o | none => 0)
  | none => none

/-- Of each word, whether it has a 16-bit form under a layout, and whether it must lie at a multiple of 4 bytes: a landing pad, and a word
that a slot patches, which keeps its form. -/
def narrowWords (map : List Nat) (fixed : List Nat) (n : Nat) : Nat → List Word32 → List (Bool × Bool)
  | _, [] => []
  | i, w :: r =>
    let anchor := fixed.contains i || (match decode32 w.toNat with | some .pad => true | _ => false)
    (!anchor && (narrowAt map n i w).isSome, anchor) :: narrowWords map fixed n (i + 1) r

/-- Whether another word that has a 16-bit form comes before the next that must be aligned, or no such word comes. -/
def pairAhead : List (Bool × Bool) → Bool
  | [] => true
  | (narrow, anchor) :: r => !anchor && (narrow || pairAhead r)

/-- The sizes of words: two bytes for a 16-bit form, but where that would leave an aligned word at an odd halfword; odd says that the first word
lies at one. -/
def sizesFrom (odd : Bool) : List (Bool × Bool) → List Nat
  | [] => []
  | (narrow, _) :: r => if narrow && (odd || pairAhead r) then 2 :: sizesFrom (!odd) r else 4 :: sizesFrom odd r

/-- Whether every word of two bytes in a layout has a 16-bit form there. -/
def layoutHolds (map : List Nat) (ws : List Word32) : Bool :=
  (List.range ws.length).all (fun i => nth 0 map (i + 1) - nth 0 map i == 4 || (narrowAt map ws.length i (nth 0 ws i)).isSome)

/-- A layout made shorter as long as branches that come nearer have a 16-bit form. -/
def shrink (ws : List Word32) (fixed : List Nat) : Nat → List Nat → List Nat
  | 0, map => map
  | fuel + 1, map =>
    let next := layoutFrom 0 (sizesFrom false (narrowWords map fixed ws.length 0 ws))
    if next = map || !layoutHolds next ws then map else shrink ws fixed fuel next

/-- The words that slots patch. -/
def fixedWords (slots : List SlotEntry) : List Nat :=
  slots.flatMap (fun e => e.sites.flatMap (fun p => (List.range (siteWords e.type)).map (fun i => p / 4 + i)))

/-- MAP as the Mint writes it (R178, R182): where each portable word lies in the body, and the body's length. A 16-bit form stands wherever one is
equivalent, but that landing pads and the words of slots, which lie across no line (R244), are aligned (DESIGN CHOICE, log entry 20). -/
def bodyMap (ws : List Word32) (slots : List SlotEntry) : List Nat :=
  shrink ws (fixedWords slots) (ws.length + 1) (layoutFrom 0 (ws.map (fun _ => 4)))

/-- The bytes of a word in the body: its 16-bit form where its room is two bytes, else itself with its branch offset made the body's. -/
def bodyWord (map : List Nat) (n i : Nat) (w : Word32) : List Byte :=
  if nth 0 map (i + 1) - nth 0 map i = 2 then
    match (narrowAt map n i w).bind encode with
    | some (_, x) => natBytes 2 x
    | none => natBytes 2 0
  else
    match decode32 w.toNat with
    | none => natBytes 4 w.toNat
    | some x =>
      match branchOffset x with
      | none => natBytes 4 w.toNat
      | some o => match encode (withOffset x (bodyOffset map n i o)) with
        | some (_, y) => natBytes 4 y
        | none => natBytes 4 w.toNat

def bodyWordsFrom (map : List Nat) (n : Nat) : Nat → List Word32 → List Byte
  | _, [] => []
  | i, w :: r => bodyWord map n i w ++ bodyWordsFrom map n (i + 1) r

/-- The bytes of a capsule's body with values of its slots patched in (R184, R187). -/
def Capsule.bodyBytes (c : Capsule) (values : List (Nat × Word)) : List Byte :=
  let ws := patchSlots c.slots c.portable (c.installed ++ values)
  bodyWordsFrom c.map ws.length 0 ws

/-- The bytes of a body as laid out. -/
def Capsule.bodySize (c : Capsule) : Nat := c.native (4 * c.portable.length)

end Sys2Proof.Machine
end

