-- ==== Sys2Proof/Machine/Mint.lean ====
section
/-!
DEFINITION. Sys2Proof/Machine/Mint.lean: the Mint at work: install, retire and export (R178, R180, R181), bodies voided and rebuilt with the
drains of live launches (R182, R183, R292), and live patches (R185, R186).
-/

namespace Sys2Proof.Machine

/-! ## Install (R178) -/

/-- The slot that an entry of an install request names, and its value (R186). -/
def SlotValue.pair (v : SlotValue) : Nat × Word := (Word.field v.head 0 16, v.value)

/-- Whether the entry's first dword marks a slot entry, its reserved bits zero (R186). -/
def SlotValue.clean (v : SlotValue) : Bool := Word.field v.head 31 1 == 1 && Word.field v.head 16 15 == 0 && Word.field v.head 32 32 == 0

/-- The accession number of a capsule (R180, R361). -/
def accessionOf (bs : List Byte) : Word := lastDword (sha384 (capContent bs))

def isInstallSlot (e : SlotEntry) : Bool := e.when_ == 0

/-- Whether a capsule's number is taken by another capsule, or is 0. -/
def State.collides (s : State) (bs : List Byte) : Bool :=
  accessionOf bs == 0 ||
    (match s.capsule? (accessionOf bs) with | some c => c.state != .retired && capContent c.bytes != capContent bs | none => false)

/-- Whether an identical capsule is held: its second install builds nothing (R180). -/
def State.holdsSame (s : State) (bs : List Byte) : Bool :=
  match s.capsule? (accessionOf bs) with
  | some c => c.state != .retired && capContent c.bytes == capContent bs
  | none => false

/-- Whether HBM has pages for a body of n bytes. -/
def State.bodyFits (s : State) (n : Nat) : Bool := decide (s.pages + (n + 65535) / 65536 < 8388608 + s.freePages.length)

/-- The bytes of the body that an install would write. -/
def installSize (bs : List Byte) : Nat := nth 0 (bodyMap (capPortable bs) (capSlots bs)) (capPortable bs).length

/-- The checks of R178 in order, each with the status it gives. -/
def State.installChecks (s : State) (bs : List Byte) (slots : List SlotValue) (t : Tenant) : List (Bool × Nat) :=
  let values := slots.map SlotValue.pair
  let n := (sectionBytes bs 1).length / 4
  [(headerHolds bs, 2), (!hasBody bs, 10), (sectionsHold bs && notesHold bs, 2), (signatureGood t bs, 1),
   ((sectionsOf bs).all (fun c => decide (c.kind ≤ 9) || c.skip), 3),
   ((notesOf bs).all (fun n => n.known || !n.mandatory), 4), (decide (half16 (noteBytes bs 1) 1 ≤ 2), 5),
   (abiHolds bs, 6), (enginesHold bs, 7),
   ((sectionBytes bs 1).length % 4 == 0 && (capPortable bs).all (fun w => w.getLsbD 0), 2), (padsHold bs, 8), (sitesHold bs, 9),
   (handlersHold bs && slotsHold bs && refsHold bs && nodesHold bs, 2),
   (slots.all SlotValue.clean && valuesMatch (capSlots bs) isInstallSlot values, 2),
   (valuesInRange n (capSlots bs) values none, 13), (s.bodyFits (installSize bs) || s.holdsSame bs, 12), (!s.collides bs, 11)]

/-- The install status: that of the first check that fails, else INSTALLED. -/
def State.installStatus (s : State) (bs : List Byte) (slots : List SlotValue) (t : Tenant) : Nat :=
  match (s.installChecks bs slots t).find? (fun c => !c.1) with
  | some c => c.2
  | none => 0

/-- The unknown notes that an install ignores (R178, step 4). -/
def ignoredNotes (bs : List Byte) : List Nat := ((notesOf bs).filter (fun n => !n.known && !n.mandatory)).map (fun n => n.kind)

/-- Those that its report lists: none where it was refused before its notes were looked at, at one of the first five checks. -/
def State.listedNotes (s : State) (bs : List Byte) (slots : List SlotValue) (t : Tenant) : List Nat :=
  if ((s.installChecks bs slots t).take 5).all (·.1) then ignoredNotes bs else []

/-- The capsule that an install leaves, READY under the current triple. -/
def State.newCapsule (s : State) (bs : List Byte) (values : List (Nat × Word)) (tenant : Nat) : Capsule :=
  { accession := accessionOf bs, state := .ready, triple := s.triple, bytes := bs, portable := capPortable bs,
    map := bodyMap (capPortable bs) (capSlots bs), handlers := capHandlers bs, regions := capRegions bs, slots := capSlots bs,
    refs := (refTable bs).map (fun e => (field e.d0 0 16, field e.d0 32 32)), nodeFormats := capNodes bs, traps := capTraps bs,
    trying := capTrying bs, revisions := [negotiated bs 0, negotiated bs 1], seals := sealRecords bs,
    ignored := ignoredNotes bs, tenant := tenant,
    installed := values }

def State.report (s : State) (r : MintReport) : State := { s with reports := s.reports ++ [r] }

/-! ## Bodies (R72, R181, R187) -/

/-- Pages taken for a body. -/
def State.takePages (s : State) : Nat → List Nat × State
  | 0 => ([], s)
  | n + 1 =>
    let (pa, s) := s.allocPage
    let (r, s) := s.takePages n
    (pa :: r, s)

/-- Bytes written to pages one after another under a key identity. -/
def State.writePages (s : State) (kid : Nat) (bs : List Byte) : List Nat → State
  | [] => s
  | pa :: r => (s.writeList kid pa false (bs.take 65536)).writePages kid (bs.drop 65536) r

/-- The lines of physical pages dropped from every instruction cache and L0 buffer. -/
def State.dropCode (s : State) (pages : List Nat) : State :=
  let keep := fun (x : ILine) => !pages.contains (x.line / 1024 * 65536)
  { s with cores := (s.cores.map (fun (e : Nat × Core) => (e.1, { e.2 with l0 := e.2.l0.filter keep }))).filter (fun e => e.2 != {}),
           clusters := (s.clusters.map (fun (e : Nat × Cluster) => (e.1, { e.2 with icache := e.2.icache.filter keep }))).filter
             (fun e => e.2 != {}) }

/-- A body's bytes written under the body key of the current triple, and its lines dropped from the caches. -/
def State.fillBody (s : State) (c : Capsule) (b : Body) : State :=
  (s.writePages (bodyKey s.triple) (c.bodyBytes b.values) b.pages).dropCode b.pages

/-- A body of a capsule built: its pages taken and filled. -/
def State.buildBody (s : State) (c : Capsule) (number : Nat) (values : List (Nat × Word)) (live : Bool) : State :=
  let (pages, s) := s.takePages ((c.bodySize + 65535) / 65536)
  let b : Body := { number := number, accession := c.accession, values := values, live := live, pages := pages }
  State.fillBody { s with bodies := s.bodies ++ [b] } c b

/-- The bodies of a capsule. -/
def State.bodiesOf (s : State) (acc : Word) : List Body := s.bodies.filter (fun b => b.accession == acc)

/-- The body that a launch runs: its bound body, or the capsule's own, number 0. -/
def State.bodyOf (s : State) (l : Launch) : Option Body :=
  (s.bodiesOf (nth 0 l.record 0)).find? (fun b => b.number == l.bound.getD 0)

def Capsule.bindsSlots (c : Capsule) : Bool := c.slots.any (fun e => e.when_ == 1 || e.when_ == 2)

def Capsule.isLive (c : Capsule) : Bool := c.slots.any (fun e => e.when_ == 2)

/-- A bound body that a launch with these values may share: built of equal values, and serving no launch with live slots (R187). -/
def State.sharedBody (s : State) (c : Capsule) (values : List (Nat × Word)) : Option Body :=
  if c.isLive then none
  else (s.bodiesOf c.accession).find? (fun b => b.number != 0 && !b.live && values.all b.values.contains && b.values.all values.contains)

/-- Whether a launch with these values has its body, or pages for one. -/
def State.bindable (s : State) (c : Capsule) (values : List (Nat × Word)) : Bool :=
  !c.bindsSlots || (s.sharedBody c values).isSome || s.bodyFits c.bodySize

/-- The bound body of a launch admitted with values: the capsule's own where it binds no slot, a shared one, or one of its own. -/
def State.bindBody (s : State) (c : Capsule) (values : List (Nat × Word)) : Option Nat × State :=
  if !c.bindsSlots then (none, s)
  else
    match s.sharedBody c values with
    | some b => (some b.number, s)
    | none => (some s.nextId, s.fresh.buildBody c s.nextId values c.isLive)

/-- CAPSULE_INSTALL. A retired capsule's number may be installed again (R181). -/
def execCapsuleInstall (bytes : List Byte) (slots : List SlotValue) (tenant : Nat) (s : State) : Out :=
  let values := slots.map SlotValue.pair
  let t := Tbl.get {} s.vault.tenants tenant
  let status := s.installStatus bytes slots t
  if status ≠ 0 then .next (s.report { status := status, accession := 0, existing := false, ignored := s.listedNotes bytes slots t })
  else
    let c := s.newCapsule bytes values tenant
    if s.holdsSame bytes then .next (s.report { status := 0, accession := c.accession, existing := true, ignored := c.ignored })
    else
      let s := { s with capsules := s.capsules.filter (fun (x : Capsule) => x.accession != c.accession) ++ [c] }
      .next ((s.buildBody c 0 [] false).report { status := 0, accession := c.accession, existing := false, ignored := c.ignored })

/-! ## Retire and export (R181) -/

def State.setCapsule (s : State) (c : Capsule) : State :=
  { s with capsules := s.capsules.map (fun (x : Capsule) => if x.accession = c.accession then c else x) }

/-- Whether a launch names a capsule, one not yet admitted by its record in memory (R181). -/
def State.capsuleNamed (s : State) (acc : Word) : Bool :=
  s.launches.any (fun (e : Nat × Launch) => e.2.state != .retired &&
    (nth 0 e.2.record 0 == acc || ((e.2.state == .waiting || e.2.state == .pending) && s.readDword e.2.addr == acc)))

/-- CAPSULE_RETIRE: refused (-1) while a launch names it, or while it is being rebuilt; else its bodies go, and its state says so (R292).
-/
def execCapsuleRetire (acc : Word) (s : State) : Out :=
  match s.capsule? acc with
  | none => .next (s.report { status := -1, accession := acc, existing := false })
  | some c =>
    if s.capsuleNamed acc || (c.state ≠ .ready && c.state ≠ .void) then
      .next (s.report { status := -1, accession := acc, existing := true })
    else
      let s := (s.setCapsule { c with state := .retired })
      .next (State.report { s with bodies := s.bodies.filter (fun (b : Body) => b.accession != acc),
                                   freePages := s.freePages ++ (s.bodiesOf acc).flatMap (fun b => b.pages) }
        { status := 0, accession := acc, existing := false })

/-- CAPSULE_EXPORT: the capsule, which holds no BODY section. -/
def execCapsuleExport (acc : Word) (s : State) : Out :=
  match s.capsule? acc with
  | none => .next (s.report { status := -1, accession := acc, existing := false })
  | some c =>
    if c.state = .retired then .next (s.report { status := -1, accession := acc, existing := false })
    else .next (s.report { status := 0, accession := acc, existing := true, exported := c.bytes })

/-! ## Drains (R183) -/

/-- The folio's dwords that differ in portable form written over a native folio, which goes on at a PC. -/
def State.convertFolio (s : State) (k : Nat) (st : Stop) (pc : Word) : State :=
  match s.folioVa k with
  | none => s
  | some va =>
    let st := { st with resumePc := pc, portable := true, location := s.portableLoc k pc }
    let s := ([0, 1, 2, 3, 6, 46, 47] ++ (List.range 32).map (· + 64)).foldl (fun (s : State) n =>
      match s.portableDword k st n with
      | none => s
      | some x => match s.storeVa k (va + BitVec.ofNat 64 (8 * n)) false (natBytes 8 x.toNat) with
        | .ok s => s
        | .error _ => s) s
    s.setCtx k { s.ctx k with stop := some st }

/-- The PC at which a stopped context's folio would go on, where that is a resume point and no region is open: with an open one it is stranded (DESIGN
CHOICE, log entry 100). -/
def State.portablePc (s : State) (k : Nat) (l : Launch) (c : Capsule) : Option Word :=
  if (s.ctx k).region.isSome then none
  else
    match (s.folioVa k).bind (s.readFolio k) with
    | none => none
    | some (f, _) => if c.resumesAt (f.dword 1 - BitVec.ofNat 64 l.body).toNat then some (f.dword 1) else none

/-- Whether a context is stranded: STOPPED with its folio written, at no resume point. -/
def State.stranded (s : State) (l : Launch) (c : Capsule) (k : Nat) : Bool :=
  match (s.ctx k).stop with
  | some st => st.written && !st.portable && (s.portablePc k l c).isNone
  | none => false

/-- A context asked to drain: a running one receives the request, a STOPPED one's folio is converted. -/
def State.drainCtx (s : State) (l : Launch) (c : Capsule) (k : Nat) : State :=
  let x := s.ctx k
  if x.act.isNone then s
  else
    match x.stop with
    | none => if x.drainReq.isSome then s else s.setCtx k { x with drainReq := some s.cycle }
    | some st =>
      if st.portable || !st.written then s
      else
        match s.portablePc k l c with
        | some pc => s.convertFolio k st pc
        | none => s

/-- Whether every context of a launch has stopped in portable form, and nothing of the launch is under way. -/
def State.drained (s : State) (tag : Nat) (l : Launch) : Bool :=
  l.ctxKeys.all (fun k => (s.ctx k).act.isNone || (match (s.ctx k).stop with | some st => st.portable && st.written | none => false)) &&
    s.launchQuiet tag l

/-- A launch taken one step toward its rebuild: dispatch stops and its contexts drain; it is absent when all have. A launch that is
absent already for another reason is brought back first, so that its contexts can reach their resume points. -/
def State.drainLaunch (s : State) (tag : Nat) : State :=
  match s.launch? tag with
  | none => s
  | some l =>
    if l.state = .absent then (if l.forRebuild then s else s.setLaunch tag { l with returning := true })
    else if l.state ≠ .resident then s
    else
      match s.capsuleOf l with
      | none => s
      | some c =>
        if l.ctxKeys.any (s.stranded l c) then s.endLaunch tag 3 "BODY_VOID_LIVE"
        else
          let s := s.setLaunch tag { l with forRebuild := true }
          let s := l.ctxKeys.foldl (fun (s : State) k => s.drainCtx l c k) s
          if s.drained tag l then s.makeAbsent tag else s

/-- The launches that hold, or held, tiles and satisfy a condition. -/
def State.liveLaunches (s : State) (p : Launch → Bool) : List Nat :=
  (s.launches.filter (fun (e : Nat × Launch) => (e.2.state == .resident || e.2.state == .absent) && p e.2)).map (·.1)

/-- Whether every such launch is absent for a rebuild. -/
def State.allDrained (s : State) (p : Launch → Bool) : Bool :=
  (s.liveLaunches p).all (fun t => match s.launch? t with | some l => l.state == .absent && l.forRebuild | none => true)

def State.drainWhere (s : State) (p : Launch → Bool) : State := (s.liveLaunches p).foldl State.drainLaunch s

def Launch.uses (acc : Word) (l : Launch) : Bool := nth 0 l.record 0 == acc

/-- BODY_VOID: a change of translator or of body key. It drains the live launches first, and is made when all have drained. -/
def execBodyVoid (translator epoch : Nat) (s : State) : Out :=
  if translator = s.triple.translator && epoch = s.triple.epoch then .next s
  else
    let s := s.drainWhere (fun _ => true)
    if s.allDrained (fun _ => true) then
      .next { s with triple := { s.triple with translator := translator, epoch := epoch },
                     capsules := s.capsules.map (fun (c : Capsule) => if c.state = .ready then { c with state := .void } else c) }
    else .next s

/-- BODY_VOID_LIVE: a context that has reached no active resume point within 2^20 cycles of its drain request ends its launch. -/
def execBodyVoidLive (k : Nat) (s : State) : Out :=
  let c := s.ctx k
  match c.drainReq with
  | none => .next s
  | some t =>
    if c.act.isSome && t + 1048576 ≤ s.cycle && (match c.stop with | some st => !st.portable | none => true) then
      .next (s.endLaunch c.launch 3 "BODY_VOID_LIVE")
    else .next s

/-! ## Rebuilds (R181, R292) -/

/-- CAPREB: the current context of a steward asks for a rebuild. -/
def execCapreb (d a : BitVec 6) (s : State) : Out :=
  s.issue { level := .s, reads := [a.toNat], writes := [d.toNat] } (fun s => s.irrevocably (fun s =>
    match s.capsule? (s.reg a) with
    | none => .next (s.result 4 d.toNat Word.minusOne)
    | some c =>
      match c.state with
      | .rebuilding => .next (s.result 4 d.toNat 1)
      | .ready | .void =>
        .next (((s.setCapsule { c with state := .rebuilding }).drainWhere (Launch.uses c.accession)).result 4 d.toNat 0)
      | .installing | .retired => .next (s.result 4 d.toNat (-2))))

/-- A launch not admitted: it completes with a status, its job ends, and the job's other launches are cancelled (R94). -/
def State.refuseLaunch (s : State) (tag status : Nat) (reason : String) : State :=
  match s.launch? tag with
  | none => s
  | some l =>
    let s := s.setLaunch tag { l with state := .retired, status := some status, reason := reason, units := [], held := [], chosen := [],
                                      pools := [], worldKey := none, modelKeys := [] }
    let s := s.sweepBodies.endNotice tag l.job status
    match s.job? l.job with
    | none => s
    | some j =>
      let s := s.setJob l.job { j with fatal := some (j.fatal.getD status), reason := if j.fatal.isSome then j.reason else reason }
      s.cancelLaunches 4 0 ((s.launchesOf l.job).filter (· ≠ tag))

/-- A launch absent for a rebuild that has been made: a steward brings it back. -/
def State.rebuilt (s : State) (tag : Nat) : State :=
  match s.launch? tag with
  | some l => if l.state = .absent && l.forRebuild then s.setLaunch tag { l with forRebuild := false, returning := true } else s
  | none => s

/-- A launch that waited for a rebuild that has failed. -/
def State.rebuildFailed (s : State) (tag : Nat) : State :=
  match s.launch? tag with
  | some l =>
    if l.state = .absent && l.forRebuild then s.endLaunch tag 3 "REBUILD_FAILED"
    else if l.state = .pending then s.refuseLaunch tag 3 "REBUILD_FAILED"
    else s
  | none => s

/-- The launches of a capsule. -/
def State.launchesUsing (s : State) (acc : Word) : List Nat :=
  (s.launches.filter (fun (e : Nat × Launch) => e.2.uses acc)).map (·.1)

/-- REBUILD_COMPLETE: the build ends, once the capsule's live launches have drained. -/
def execRebuildComplete (acc : Word) (ok : Bool) (s : State) : Out :=
  match s.capsule? acc with
  | none => .next s
  | some c =>
    if c.state ≠ .rebuilding then .next s
    else
      let s := s.drainWhere (Launch.uses acc)
      if !s.allDrained (Launch.uses acc) then .next s
      else if ok then
        let c := { c with state := .ready, triple := s.triple }
        let s := (s.bodiesOf acc).foldl (fun (s : State) b => s.fillBody c b) (s.setCapsule c)
        .next ((s.launchesUsing acc).foldl State.rebuilt s)
      else .next ((s.launchesUsing acc).foldl State.rebuildFailed ((s.setCapsule { c with state := .void }).logReason "REBUILD_FAILED"))

/-! ## Live patches (R185, R186) -/

/-- A slot's value replaced in a launch's list. -/
def setValue (values : List (Nat × Word)) (slot : Nat) (v : Word) : List (Nat × Word) :=
  values.map (fun e => if e.1 = slot then (slot, v) else e)

/-- A launch's bound body rewritten with its present values, its lines dropped from every cache: all sites of a slot at once (DESIGN CHOICE, log entry
99). -/
def State.patchBody (s : State) (l : Launch) (c : Capsule) : State :=
  match s.bodyOf l with
  | none => s
  | some b =>
    let b := { b with values := l.slotValues }
    State.fillBody { s with bodies := s.bodies.map (fun (x : Body) => if x.number = b.number && x.accession = b.accession then b else x) } c b

/-- LIVE_PATCH: -1 where the launch does not run, VALUE_RANGE (13) where the value is refused, MALFORMED (2) where the slot is not live. -/
def execLivePatch (tag slot : Nat) (v : Word) (s : State) : Out :=
  let answer := fun (s : State) (status : Int) => s.report { status := status, accession := 0, existing := false }
  match s.launch? tag with
  | none => .next (answer s (-1))
  | some l =>
    match s.capsuleOf l with
    | none => .next (answer s (-1))
    | some c =>
      if l.state ≠ .resident && l.state ≠ .absent then .next (answer s (-1))
      else
        match c.slots[slot]? with
        | none => .next (answer s 2)
        | some e =>
          if e.when_ ≠ 2 then .next (answer s 2)
          else if !slotAllows c.portable.length e v (some (l.groups, l.groupTiles)) then .next (answer s 13)
          else
            let l := { l with slotValues := setValue l.slotValues slot v }
            .next (answer ((s.setLaunch tag l).patchBody l c) 0)

end Sys2Proof.Machine
end

