-- ==== Sys2Proof/Machine/Jobs.lean ====
section
/-!
DEFINITION. Sys2Proof/Machine/Jobs.lean: jobs: JOB_DESCRIPTOR_TAKE (R92, R93), LAUNCH_ADMISSION (R95, R186, R189, R194, R97) and
JOB_COMPLETION (R94).
-/

namespace Sys2Proof.Machine

/-- Whether n bytes from a physical address lie in this package's HBM (R94). -/
def State.inHbm (s : State) (pa n : Nat) : Bool :=
  decide (pa / 2 ^ 43 = s.package) && field pa 39 4 == 0 && decide (pa % 2 ^ 39 + n ≤ 2 ^ 39)

/-! ## The descriptor and its tables (R93) -/

/-- The values of a list, none where any is missing. -/
def allSome {α : Type} : List (Option α) → Option (List α)
  | [] => some []
  | none :: _ => none
  | some x :: r => (allSome r).map (fun xs => x :: xs)

/-- Whether launches can be taken one by one, each after its predecessors: n rounds take what has none left. -/
def orderable (edges : List (Nat × Nat)) : Nat → List Nat → Bool
  | 0, left => left.isEmpty
  | n + 1, left =>
    orderable edges n (left.filter (fun x => edges.any (fun e => e.2 == x && left.contains e.1)))

/-- The edge array of a graph. -/
def State.readEdges (s : State) (a n : Nat) : List (Nat × Nat) :=
  (List.range n).map (fun i => (s.readNat (a + 4 * i) 2, s.readNat (a + 4 * i + 2) 2))

/-- A graph entry and what it names, none where it is malformed. -/
def State.readGraph (s : State) (a : Nat) : Option Graph :=
  let n := s.readNat a 8
  let records := s.readNat (a + 8) 8
  let m := s.readNat (a + 16) 8
  let array := s.readNat (a + 24) 8
  if n = 0 || 256 < n || 65536 < m || records % 64 ≠ 0 || !s.inHbm records (256 * n) || (m ≠ 0 && !s.inHbm array (4 * m)) then none
  else
    let edges := s.readEdges array m
    if edges.any (fun e => decide (n ≤ e.1) || decide (n ≤ e.2) || e.1 == e.2) || !orderable edges n (List.range n) then none
    else some ⟨(List.range n).map (fun i => records + 256 * i), edges.dedup⟩

/-- The graphs of a phase table entry. -/
def State.readPhase (s : State) (a : Nat) : Option (List Graph) :=
  let n := s.readNat a 8
  let array := s.readNat (a + 8) 8
  if n = 0 || 1024 < n || !s.inHbm array (32 * n) then none
  else allSome ((List.range n).map (fun i => s.readGraph (array + 32 * i)))

/-- The phases of a descriptor, none where it or a table is malformed. -/
def State.readPhases (s : State) (d : List Word) : Option (List (List Graph)) :=
  let n := Word.field (nth 0 d 1) 0 16
  let table := (nth 0 d 3).toNat
  let reserved := Word.field (nth 0 d 1) 16 32 == 0 && Word.field (nth 0 d 2) 48 16 == 0 && (d.drop 5).all (· == 0)
  if !reserved || n = 0 || 1024 < n || Word.field (nth 0 d 2) 0 48 = 0 || table % 64 ≠ 0 || !s.inHbm table (16 * n) then none
  else allSome ((List.range n).map (fun i => s.readPhase (table + 16 * i)))

/-! ## Launches of a phase -/

def State.tagUsed (s : State) (t : Nat) : Bool :=
  s.launches.any (fun (e : Nat × Launch) => e.1 == t &&
    (e.2.state != .retired || (match s.job? e.2.job with | some j => j.status.isNone | none => false)))

/-- A launch tag of 16 bits that no unfinished job's launch bears, from a number on. -/
def State.tagFrom (s : State) : Nat → Nat → Nat
  | 0, t => t
  | n + 1, t => if s.tagUsed t then s.tagFrom n (t % 65535 + 1) else t

/-- The record of a launch not yet read: its graph, phase and job (R95). -/
def freshRecord (job phase graph : Nat) (id : Word) : List Word :=
  List.replicate 15 0 ++ [BitVec.ofNat 64 (job * 2 ^ 32 + phase * 2 ^ 16 + graph + 1), BitVec.ofNat 64 (job * 2 ^ 16 + phase + 1), id] ++
    List.replicate 14 0

def State.addLaunch (s : State) (job phase graph index addr : Nat) (id : Word) : State :=
  let t := s.tagFrom 65535 s.nextTag
  let l : Launch := { addr := addr, record := freshRecord job phase graph id, job := job, phase := phase, graph := graph,
                      index := index, state := .waiting }
  { s.setLaunch t l with nextTag := t % 65535 + 1 }

def State.addGraph (s : State) (job phase graph : Nat) (id : Word) (addrs : List Nat) : State :=
  (List.zip (List.range addrs.length) addrs).foldl (fun (s : State) e => s.addLaunch job phase graph e.1 e.2 id) s

/-- The launches of a job's phase, all waiting. -/
def State.startPhase (s : State) (job phase : Nat) (j : Job) : State :=
  let gs := nth [] j.phases phase
  let s := s.setJob job { j with phase := phase }
  (List.zip (List.range gs.length) gs).foldl (fun (s : State) g => s.addGraph job phase g.1 (nth 0 j.desc 0) g.2.launches) s

/-! ## JOB_DESCRIPTOR_TAKE -/

/-- The status that keeps a descriptor's job from running (R93, R94). -/
def State.takeRefusal (s : State) (d : List Word) (phases : Option (List (List Graph))) : Option (Nat × String) :=
  let t := Tbl.get {} s.vault.tenants (Word.field (nth 0 d 1) 48 8)
  if phases.isNone then some (5, "descriptor")
  else if !t.registered then some (5, "tenant")
  else if s.host.bootStatus ≠ 1 then some (6, "not serviceable")
  else if t.mesh.isNone then some (6, "no sub-mesh")
  else none

/-- A job made of a descriptor. -/
def State.makeJob (s : State) (d : List Word) : State :=
  let phases := s.readPhases d
  let j : Job := { desc := d, phases := phases.getD [], phase := 0, dlLeft := Word.field (nth 0 d 2) 0 48 }
  let n := s.nextJob
  let s := { s with nextJob := n + 1 }
  match s.takeRefusal d phases with
  | some (status, reason) => s.setJob n { j with phases := [], fatal := some status, reason := reason }
  | none => s.startPhase n 0 j

/-- JOB_DESCRIPTOR_TAKE: the descriptor at the head. One without a place for its completion record is passed over. -/
def execJobDescriptorTake (s : State) : Out :=
  let h := s.host
  if h.jqHead = h.jqTail || s.vault.dormant then .next s
  else
    let at_ := h.jqBase.toNat + 128 * h.jqHead
    let d := s.readDwords at_ 16
    let s := { s with host := { h with jqHead := (h.jqHead + 1) % 2 ^ h.jqSize } }
    let record := (nth 0 d 4).toNat
    if !s.inHbm at_ 128 || record % 16 ≠ 0 || !s.inHbm record 16 then .next ((s.raiseMsix 0).logReason "completion record")
    else .next (s.makeJob d)

/-! ## The launch record (R95) -/

def rfield (r : List Word) (dword lo n : Nat) : Nat := Word.field (nth 0 r dword) lo n

/-- Whether a record's fields are within their ranges. -/
def recordHolds (r : List Word) : Bool :=
  rfield r 1 16 48 == 0 && rfield r 1 2 6 == 0 && decide (1 ≤ rfield r 4 48 16) && decide (rfield r 4 48 16 ≤ 288) &&
    decide (1 ≤ rfield r 4 40 8) && decide (rfield r 4 40 8 ≤ 6) && decide (1 ≤ rfield r 4 32 8) && decide (rfield r 4 32 8 ≤ 6) &&
    [1, 2, 4, 8].contains (rfield r 4 24 8) && rfield r 4 0 24 == 0 && rfield r 5 40 24 == 0 && decide (rfield r 5 36 4 ≤ 4) &&
    rfield r 5 34 2 != 3 && decide (1 ≤ rfield r 5 30 4) && decide (rfield r 5 30 4 ≤ 8) && decide (rfield r 5 24 6 ≤ 63) &&
    decide (rfield r 5 0 24 ≤ 124) && rfield r 6 28 36 == 0 && rfield r 6 12 4 == 0 && rfield r 8 16 48 == 0 &&
    decide (rfield r 8 0 16 ≤ 4096) && rfield r 10 16 48 == 0 && rfield r 12 32 32 == 0 && (r.drop 18).all (· == 0)

/-- A record as checked, with the fields that the steward keeps from the job. -/
def copiedRecord (old r : List Word) (tenant : Nat) : List Word :=
  [nth 0 r 0, BitVec.ofNat 64 (rfield r 1 0 8 + tenant * 256), nth 0 r 2, 0] ++ (r.drop 4).take 7 ++ [0, nth 0 r 12, 0, 0] ++
    (old.drop 15).take 3 ++ List.replicate 14 0

/-- Whether a key handle names a tenant's key (R194): its entry, its tenant and its generation. -/
def State.keyHandle (s : State) (h : Word) (tenant : Nat) : Option KeyEntry :=
  match Tbl.get none s.vault.keys (Word.field h 48 8) with
  | some e =>
    if Word.field h 56 8 == tenant && e.tenant == tenant && e.generation == Word.field h 0 48 then some e else none
  | none => none

/-! ## Bindings and slot entries (R186, R189) -/

/-- The entries of a launch's binding list. -/
def State.readEntries (s : State) (r : List Word) : List (Word × Word) :=
  (List.range (rfield r 10 0 16)).map (fun i =>
    (s.readDword ((nth 0 r 9).toNat + 16 * i), s.readDword ((nth 0 r 9).toNat + 16 * i + 8)))

def isSlotEntry (e : Word × Word) : Bool := Word.field e.1 31 1 == 1

/-- The slot entries as index and value. -/
def slotEntries (es : List (Word × Word)) : List (Nat × Word) :=
  (es.filter isSlotEntry).map (fun e => (Word.field e.1 0 16, e.2))

/-- The bindings as parameter, type code and value. -/
def bindingEntries (es : List (Word × Word)) : List (Nat × Nat × Word) :=
  (es.filter (fun e => !isSlotEntry e)).map (fun e => (Word.field e.1 0 16, Word.field e.1 32 32, e.2))

def isBoundSlot (e : SlotEntry) : Bool := e.when_ == 1 || e.when_ == 2

/-- Whether a sealed model may be bound: the SEAL note lists its handle with the measurement of the region, and the world is
protected (R189, R194). -/
def State.modelAllowed (s : State) (c : Capsule) (isProtected : Bool) (v : Word) : Bool :=
  isProtected &&
    match c.seals.find? (fun (e : List Byte × Word) => e.2 == v), s.vault.sealed.find? (fun (r : SealedRegion) => r.handle == v) with
    | some e, some r => e.1 == r.measurement
    | _, _ => false

/-- Whether the binding list keeps R189 and R186, but for the ranges of slot values. -/
def State.entriesHold (s : State) (c : Capsule) (isProtected : Bool) (es : List (Word × Word)) : Bool :=
  let bs := bindingEntries es
  es.all (fun e => Word.field e.1 16 15 == 0 && (!isSlotEntry e || Word.field e.1 32 32 == 0)) &&
    valuesMatch c.slots isBoundSlot (slotEntries es) &&
    c.refs.all (fun p => (bs.filter (fun b => b.1 == p.1)).length == 1) &&
    bs.all (fun b => c.refs.contains (b.1, b.2.1)) &&
    bs.all (fun b => field b.2.1 28 4 != 5 || s.modelAllowed c isProtected b.2.2)

/-! ## Whether a launch can ever be placed (R97) -/

/-- How many groups of a launch a cluster can hold at once: its tiles in service, tpc to a group. -/
def State.clusterRoom (s : State) (cluster tpc : Nat) : Nat :=
  ((List.range 8).filter (fun t => (s.tile (cluster * 8 + t)).inService)).length / tpc

/-- The clusters of a rectangle, row by row (R363). -/
def rectangle (x y gx gy : Nat) : List Nat := (List.range (gx * gy)).map (fun c => (y + c / gx) * 6 + x + c % gx)

/-- Whether n groups can be put at rectangles of a list, each cluster holding no more than its room. -/
def packs : Nat → List (List Nat) → (Nat → Nat) → Nat → Bool
  | _, _, _, 0 => true
  | 0, _, _, _ => false
  | _, [], _, _ => false
  | fuel + 1, r :: rest, room, n + 1 =>
    (r.all (fun c => decide (1 ≤ room c)) && packs fuel (r :: rest) (fun c => if r.contains c then room c - 1 else room c) n) ||
      packs fuel rest room (n + 1)

/-- The rectangles of gx by gy clusters in a sub-mesh. -/
def meshRectangles (m : Nat × Nat × Nat × Nat) (gx gy : Nat) : List (List Nat) :=
  let (x, y, w, h) := m
  (List.range ((w + 1 - gx) * (h + 1 - gy))).map (fun i => rectangle (x + i % (w + 1 - gx)) (y + i / (w + 1 - gx)) gx gy)

/-- Whether a launch could be placed in its tenant's empty sub-mesh. -/
def State.feasible (s : State) (r : List Word) (tenant : Nat) : Bool :=
  match (Tbl.get {} s.vault.tenants tenant).mesh with
  | none => false
  | some m =>
    let gx := rfield r 4 40 8
    let gy := rfield r 4 32 8
    let places := meshRectangles m gx gy
    decide (gx ≤ m.2.2.1) && decide (gy ≤ m.2.2.2) &&
      packs (rfield r 4 48 16 + places.length + 1) places (fun c => s.clusterRoom c (rfield r 4 24 8)) (rfield r 4 48 16)

/-! ## LAUNCH_ADMISSION -/

/-- Whether a launch is ready: its predecessors in its graph have completed, as DONE or CANCELLED (R93, R94). -/
def State.isReady (s : State) (l : Launch) (j : Job) : Bool :=
  let g := nth ⟨[], []⟩ (nth [] j.phases l.phase) l.graph
  (g.edges.filter (fun e => e.2 == l.index)).all (fun e =>
    s.launches.any (fun (x : Nat × Launch) => x.2.inGraph l.job l.phase l.graph && x.2.index == e.1 &&
      (x.2.status == some 0 || x.2.status == some 1)))

/-- Whether no launch is admitted: the device is not serviceable, is dormant, or is asked to be (R20, R212). -/
def State.admissionStopped (s : State) : Bool := s.vault.dormant || s.host.powerCtl == 1 || s.host.bootStatus != 1

/-- The status that a launch's record earns at admission, with the reason of the fault report (R95, R31, R179, R194, R189, R186, R97). -/
def State.admissionRefusal (s : State) (r : List Word) (c : Capsule) (tenant : Nat) (es : List (Word × Word)) : Option (Nat × String) :=
  let isProtected := rfield r 1 1 1 == 1
  let ring := 2 ^ (12 + rfield r 5 36 4)
  let base := 524288 - 3 * ring - 49152
  let counts := (rfield r 4 48 16, rfield r 4 40 8 * rfield r 4 32 8 * rfield r 4 24 8)
  if base < c.regions then
    some (5, "regions " ++ toString c.regions ++ " ring " ++ toString ring ++ " limit " ++ toString base)
  else if (c.handler? (rfield r 6 0 12)).isNone || (c.handler? (rfield r 6 16 12)).isNone then some (5, "handler")
  else if isProtected && (s.keyHandle (nth 0 r 2) tenant).isNone then some (5, "key handle")
  else if !isProtected && nth 0 r 2 ≠ 0 then some (5, "key handle")
  else if rfield r 8 0 16 ≠ 0 && !s.inHbm (nth 0 r 7).toNat (8 * rfield r 8 0 16) then some (5, "messages")
  else if rfield r 10 0 16 ≠ 0 && !s.inHbm (nth 0 r 9).toNat (16 * rfield r 10 0 16) then some (5, "bindings")
  else if !s.entriesHold c isProtected es then some (5, "bindings")
  else if !valuesInRange c.portable.length c.slots (slotEntries es) (some counts) then some (5, "VALUE_RANGE")
  else if !s.feasible r tenant then some (6, "placement")
  else none

/-- A ticket: the job's priority in [63:56] and the package-wide arrival sequence in [55:0] (R97). -/
def ticketOf (priority sequence : Nat) : Nat := priority * 2 ^ 56 + sequence % 2 ^ 56

/-- Whether a ticket is older than another: of higher priority, or of equal priority and a smaller sequence (R97). -/
def olderTicket (a b : Nat) : Bool :=
  decide (b / 2 ^ 56 < a / 2 ^ 56) || (a / 2 ^ 56 == b / 2 ^ 56 && decide (a % 2 ^ 56 < b % 2 ^ 56))

/-! ## Key indices (R195) -/

/-- The sealed models that a launch binds (R188, R195). -/
def Launch.models (l : Launch) : List Word :=
  ((l.bindings.filter (fun b => Machine.field b.2.1 28 4 == 5)).map (fun b => b.2.2)).dedup

/-- The key indices that a launch needs: one for a protected world and one for each sealed model. -/
def Launch.keysNeeded (l : Launch) : Nat := boolNat l.protected_ + l.models.length

/-- The key indices that a launch has. -/
def Launch.keyIndices (l : Launch) : List Nat :=
  (match l.worldKey with | some i => [i] | none => []) ++ l.modelKeys.map (fun e => e.2)

/-- The key indices that hold no key and that no launch has. -/
def State.freeIndices (s : State) : List Nat :=
  ((List.range 63).map (· + 1)).filter (fun i =>
    Tbl.get 0 s.vault.indices i == 0 && !s.launches.any (fun (e : Nat × Launch) => e.2.keyIndices.contains i))

/-- Whether a launch can obtain its key indices. -/
def State.keysFree (s : State) (l : Launch) : Bool := decide (l.keysNeeded ≤ s.freeIndices.length)

/-- A launch with its key indices; the keys come with the first dispatch. -/
def State.withKeys (s : State) (l : Launch) : Launch :=
  let free := s.freeIndices
  let rest := if l.protected_ then free.drop 1 else free
  { l with worldKey := if l.protected_ then free.head? else none, modelKeys := List.zip l.models rest }

/-! ## Admission -/

/-- A launch whose record is in order, at the end of its admission: it waits while it cannot obtain its key indices or a body; then it is
placed (R97, R187, R195). -/
def State.admitLaunch (s : State) (tag : Nat) (l : Launch) (c : Capsule) : State :=
  if !s.keysFree l || !s.bindable c l.slotValues then s.setLaunch tag { l with bindings := [], slotValues := [] }
  else
    let (bound, s) := s.bindBody c l.slotValues
    s.setLaunch tag { s.withKeys l with bound := bound, state := .placing }

/-- A launch that became ready takes its ticket, and a steward by its tag (log entry 80). -/
def State.takeTicket (s : State) (tag : Nat) (l : Launch) (j : Job) : State :=
  if l.state = .waiting then
    { s.setLaunch tag { l with state := .pending, steward := tag % 8, ticket := ticketOf (Word.field (nth 0 j.desc 1) 56 8) s.nextTicket } with
      nextTicket := s.nextTicket + 1 }
  else s

/-- A ready launch whose record is in order: checked against its capsule, it waits for a body, is refused, or waits for tiles. -/
def State.admitWith (s : State) (tag : Nat) (l : Launch) (r : List Word) (tenant : Nat) : State :=
  match s.capsule? (nth 0 r 0) with
  | none => s.refuseLaunch tag 5 "accession"
  | some c =>
    let rec_ := copiedRecord l.record r tenant
    match c.state with
    | .installing | .retired => s.refuseLaunch tag 5 "accession"
    | .void =>
      ((s.setLaunch tag { l with record := rec_ }).setCapsule { c with state := .rebuilding }).drainWhere (Launch.uses c.accession)
    | .rebuilding => s.setLaunch tag { l with record := rec_ }
    | .ready =>
      let es := s.readEntries r
      match s.admissionRefusal r c tenant es with
      | some (status, reason) => s.refuseLaunch tag status reason
      | none =>
        s.admitLaunch tag { l with record := rec_, bindings := bindingEntries es, slotValues := slotEntries es } c

/-- LAUNCH_ADMISSION. -/
def execLaunchAdmission (tag : Nat) (s : State) : Out :=
  match s.launch? tag with
  | none => .next s
  | some l =>
    match s.job? l.job with
    | none => .next s
    | some j =>
      if (l.state ≠ .waiting && l.state ≠ .pending) || s.admissionStopped || !s.isReady l j then .next s
      else
        let s := s.takeTicket tag l j
        match s.launch? tag with
        | none => .next s
        | some l =>
          let r := s.readDwords l.addr 32
          if !recordHolds r then .next (s.refuseLaunch tag 5 "record")
          else .next (s.admitWith tag l r (Word.field (nth 0 j.desc 1) 48 8))

/-! ## JOB_COMPLETION (R94) -/

/-- The completion status of a job whose launches have all ended. -/
def State.jobStatus (s : State) (job : Nat) (j : Job) : Nat :=
  match j.fatal with
  | some n => n
  | none =>
    if j.cancel.isSome || s.launches.any (fun (e : Nat × Launch) => e.2.job == job && e.2.status != some 0) then 1 else 0

/-- The completion record written, vector 0 raised, and the report sent. -/
def State.completeJob (s : State) (job : Nat) (j : Job) : State :=
  let status := s.jobStatus job j
  let record := (nth 0 j.desc 4).toNat
  let used := Word.field (nth 0 j.desc 2) 0 48 - j.dlLeft
  let s := (s.writeDword record (BitVec.ofNat 64 status)).writeDword (record + 8) (BitVec.ofNat 64 used)
  let s := (s.setJob job { j with status := some status }).raiseMsix 0
  { s with host := { s.host with reports := s.host.reports ++ [(nth 0 j.desc 0, status, j.reason)] } }

/-- JOB_COMPLETION: the launches of the phase that runs have all ended: the next phase starts, or the job ends. -/
def execJobCompletion (job : Nat) (s : State) : Out :=
  match s.job? job with
  | none => .next s
  | some j =>
    let open_ := s.launches.any (fun (e : Nat × Launch) => e.2.job == job && e.2.status.isNone)
    if j.status.isSome || open_ || s.vault.dormant then .next s
    else if j.fatal.isNone && j.cancel.isNone && j.phase + 1 < j.phases.length then .next (s.startPhase job (j.phase + 1) j)
    else .next (s.completeJob job j)

end Sys2Proof.Machine
end

