-- ==== Sys2Proof/Machine/LoadStore.lean ====
section
/-!
DEFINITION. Sys2Proof/Machine/LoadStore.lean: loads and stores (R312, R337), LDA and STL (R311, R338), FENCE (R81, R300), IFLUSH
(R304), the catalogue (R58, R59), atomics (R281 to R283) and the 16-bit forms (R254).
-/

namespace Sys2Proof.Machine

/-! ## Loads (R312) -/

/-- A load from a base register and an offset. -/
def State.loadFrom (s : State) (len d a : Nat) (off : Word) (n : Nat) (signed : Bool) : Out :=
  s.issue { reads := [a], writes := [d] } (fun s => s.loadOp len d ((s.ctx s.cur).getW a + off) n signed false)

def execLdb (d a : BitVec 6) (i : BitVec 12) (s : State) : Out := s.loadFrom 4 d.toNat a.toNat (immS i) 1 true
def execLdbu (d a : BitVec 6) (i : BitVec 12) (s : State) : Out := s.loadFrom 4 d.toNat a.toNat (immS i) 1 false
def execLdh (d a : BitVec 6) (i : BitVec 12) (s : State) : Out := s.loadFrom 4 d.toNat a.toNat (immS i) 2 true
def execLdhu (d a : BitVec 6) (i : BitVec 12) (s : State) : Out := s.loadFrom 4 d.toNat a.toNat (immS i) 2 false
def execLdw (d a : BitVec 6) (i : BitVec 12) (s : State) : Out := s.loadFrom 4 d.toNat a.toNat (immS i) 4 true
def execLdwu (d a : BitVec 6) (i : BitVec 12) (s : State) : Out := s.loadFrom 4 d.toNat a.toNat (immS i) 4 false
def execLdd (d a : BitVec 6) (i : BitVec 12) (s : State) : Out := s.loadFrom 4 d.toNat a.toNat (immS i) 8 false
def execCLdw (d : BitVec 4) (u : BitVec 7) (s : State) : Out := s.loadFrom 2 d.toNat 2 (u.setWidth 64 <<< 2) 4 true

/-- LDA: zero-extended at every size, and an acquire (R311). -/
def execLda (d a : BitVec 6) (n : BitVec 2) (s : State) : Out :=
  s.issue { reads := [a.toNat], writes := [d.toNat] } (fun s => s.loadOp 4 d.toNat (s.reg a) (2 ^ n.toNat) false true)

/-! ## Stores (R337) -/

/-- A store to a base register and an offset: the data register's poison moves on with the data. -/
def State.storeTo (s : State) (len d a : Nat) (off : Word) (n : Nat) (release : Bool) : Out :=
  s.issue { reads := [a], data := [d] } (fun s =>
    let c := s.ctx s.cur
    s.storeOp len (c.getW a + off) n (c.getW d) (Tbl.get false c.wbad d) release)

def execStb (d a : BitVec 6) (i : BitVec 12) (s : State) : Out := s.storeTo 4 d.toNat a.toNat (immS i) 1 false
def execSth (d a : BitVec 6) (i : BitVec 12) (s : State) : Out := s.storeTo 4 d.toNat a.toNat (immS i) 2 false
def execStw (d a : BitVec 6) (i : BitVec 12) (s : State) : Out := s.storeTo 4 d.toNat a.toNat (immS i) 4 false
def execStd (d a : BitVec 6) (i : BitVec 12) (s : State) : Out := s.storeTo 4 d.toNat a.toNat (immS i) 8 false
def execCStw (d : BitVec 4) (u : BitVec 7) (s : State) : Out := s.storeTo 2 d.toNat 2 (u.setWidth 64 <<< 2) 4 false

/-- STL: a release at domain scope (R80, R338). -/
def execStl (d a : BitVec 6) (n : BitVec 2) (s : State) : Out := s.storeTo 4 d.toNat a.toNat 0 (2 ^ n.toNat) true

/-! ## FENCE and IFLUSH -/

/-- FENCE: kind 0 full, 1 acquire, 2 release, and the scope (R81). -/
def execFence (k : BitVec 2) (n : BitVec 3) (s : State) : Out :=
  s.issue {} (fun s =>
    let out := s.outstanding s.cur n.toNat
    let back := s.returning s.cur n.toNat
    if s.gated false then s.waitGate
    else .next ((match k.toNat with
      | 0 => s.holdCur out out
      | 1 => s.holdCur back []
      | _ => s.holdCur [] out).skip 4))

/-- IFLUSH: the line goes from the core's L0 buffer and its cluster's cache; an address that cannot be fetched does nothing
(R304). -/
def execIflush (a : BitVec 6) (i : BitVec 12) (s : State) : Out :=
  s.issue { reads := [a.toNat] } (fun s =>
    match s.locate s.cur .fetch (s.reg a + immS i) 1 with
    | .ok (p :: _, s) => .next ((s.dropLine (coreOf s.cur) (p.key / 64)).skip 4)
    | _ => .next (s.skip 4))

/-! ## The catalogue (R58, R59) -/

/-- The valid entry that holds a key. -/
def catFind (t : Tile) (key : BitVec 48) : Option Nat :=
  (List.range 256).find? (fun i => Tbl.get none t.catalogue i == some key)

def indexWord (o : Option Nat) : Word :=
  match o with
  | some i => BitVec.ofNat 64 i
  | none => Word.minusOne

def execCatl (d a : BitVec 6) (s : State) : Out :=
  s.alu1 4 d.toNat a.toNat (fun x => indexWord (catFind (s.tile (unitOf s.cur)) (x.setWidth 48)))

/-- The catalogue with a key at a slot and in no other entry. -/
def catPut (t : Tile) (key : BitVec 48) (slot : Nat) : Tile :=
  let kept := t.catalogue.filter (fun e => e.2 != some key)
  { t with catalogue := Tbl.set none kept slot (some key) }

def execCats (d a b : BitVec 6) (s : State) : Out :=
  s.issue (need2 d.toNat a.toNat b.toNat) (fun s => s.irrevocably (fun s =>
    let u := unitOf s.cur
    let t := s.tile u
    let slot := (s.reg b).toNat % 256
    let old : Word := match Tbl.get none t.catalogue slot with
      | some k => k.setWidth 64
      | none => Word.minusOne
    .next ((s.setTile u (catPut t ((s.reg a).setWidth 48) slot)).result 4 d.toNat old)))

def execCati (d a : BitVec 6) (s : State) : Out :=
  s.issue (need1 d.toNat a.toNat) (fun s => s.irrevocably (fun s =>
    let u := unitOf s.cur
    let t := s.tile u
    match catFind t ((s.reg a).setWidth 48) with
    | none => .next (s.result 4 d.toNat Word.minusOne)
    | some i =>
      .next ((s.setTile u { t with catalogue := Tbl.set none t.catalogue i none }).result 4 d.toNat (BitVec.ofNat 64 i))))

/-! ## Atomics (R281 to R283) -/

/-- An atomic read-modify-write of 4 or 8 bytes. -/
def State.atomic (s : State) (d a b : BitVec 6) (n : Nat) (op : AmoOp) : Out :=
  s.issue (need2 d.toNat a.toNat b.toNat) (fun s => s.amoOp d.toNat (s.reg a) n op (s.reg b))

/-- The bytes of a size field (R281). -/
def amoBytes (z : BitVec 1) : Nat := if z = 0 then 4 else 8

def execAmoadd (d a b : BitVec 6) (z : BitVec 1) (s : State) : Out := s.atomic d a b (amoBytes z) .add
def execAmoand (d a b : BitVec 6) (z : BitVec 1) (s : State) : Out := s.atomic d a b (amoBytes z) .and
def execAmoor (d a b : BitVec 6) (z : BitVec 1) (s : State) : Out := s.atomic d a b (amoBytes z) .or
def execAmoxor (d a b : BitVec 6) (z : BitVec 1) (s : State) : Out := s.atomic d a b (amoBytes z) .xor
def execAmomin (d a b : BitVec 6) (z : BitVec 1) (s : State) : Out := s.atomic d a b (amoBytes z) .min
def execAmomax (d a b : BitVec 6) (z : BitVec 1) (s : State) : Out := s.atomic d a b (amoBytes z) .max
def execAmominu (d a b : BitVec 6) (z : BitVec 1) (s : State) : Out := s.atomic d a b (amoBytes z) .minu
def execAmomaxu (d a b : BitVec 6) (z : BitVec 1) (s : State) : Out := s.atomic d a b (amoBytes z) .maxu
def execAmoswp (d a b : BitVec 6) (z : BitVec 1) (s : State) : Out := s.atomic d a b (amoBytes z) .swp
def execAmofadd (d a b : BitVec 6) (s : State) : Out := s.atomic d a b 4 .fadd

/-- AMOCAS: wd holds the expected value (R283). -/
def execAmocas (d a b : BitVec 6) (z : BitVec 1) (s : State) : Out :=
  s.issue { reads := [a.toNat, b.toNat, d.toNat], writes := [d.toNat] } (fun s =>
    s.amoOp d.toNat (s.reg a) (amoBytes z) (.cas (s.reg d)) (s.reg b))

end Sys2Proof.Machine
end

