-- ==== Sys2Proof/Machine/Placement.lean ====
section
/-!
DEFINITION. Sys2Proof/Machine/Placement.lean: launches on tiles: LAUNCH_PLACEMENT with the first dispatch (R31, R60, R95 to R97, R113, R165,
R195, R363) and LAUNCH_RETURN (R170, R183). Which rectangle and which tiles a group receives is the resident system's choice, and
comes with the event.
-/

namespace Sys2Proof.Machine

/-! ## A choice of tiles (R96, R363) -/

/-- Whether a list of tiles can be a launch's group: a rectangle of clusters of its tenant, tpc tiles in service of each, numbered as
R363 says. -/
def State.groupHolds (s : State) (l : Launch) (us : List Nat) : Bool :=
  let gx := l.field 4 40 8
  let tpc := l.field 4 24 8
  let c := clusterOf (nth 0 us 0)
  us.length == l.groupTiles && decide (c % 6 + gx ≤ 6) &&
    (List.range us.length).all (fun i =>
      let u := nth 0 us i
      isTile u && (s.tile u).inService && clusterOf u == c + i / tpc / gx * 6 + i / tpc % gx &&
        s.inMesh (l.field 1 8 8) (clusterOf u) && (i % tpc == 0 || decide (nth 0 us (i - 1) < u)))

/-- Whether a launch that waits for tiles is older than another, or the other way (R97). -/
def State.waitingFor (s : State) (tag : Nat) (p : Launch → Bool) : List (Nat × Launch) :=
  s.launches.filter (fun (e : Nat × Launch) => e.2.state == .placing && e.1 != tag && p e.2)

def State.elders (s : State) (tag : Nat) (l : Launch) : List (Nat × Launch) := s.waitingFor tag (fun x => olderTicket x.ticket l.ticket)

def State.juniors (s : State) (tag : Nat) (l : Launch) : List (Nat × Launch) := s.waitingFor tag (fun x => olderTicket l.ticket x.ticket)

/-- Whether a launch may take a tile: free, and held or chosen by no other waiting launch. -/
def State.tileFor (s : State) (tag : Nat) (l : Launch) (u : Nat) : Bool :=
  l.held.contains u || (s.tileFree u && !(s.waitingFor tag (fun x => x.held.contains u)).any (fun _ => true))

/-! ## Pool space (R60) -/

/-- The allocations of a cluster's pool: base and bytes. -/
def State.poolTaken (s : State) (cluster : Nat) : List (Nat × Nat) :=
  s.launches.filterMap (fun (e : Nat × Launch) =>
    if e.2.state = .absent || !e.2.left.isEmpty then none else (assoc e.2.pools cluster).map (fun b => (b, e.2.poolBytes)))

/-- The lowest base at which a pool has n free bytes, in units of 64 KiB below 7.75 MiB. -/
def State.poolBase (s : State) (cluster n : Nat) : Option Nat :=
  ((List.range 124).map (· * 65536)).find? (fun b =>
    decide (b + n ≤ 124 * 65536) && (s.poolTaken cluster).all (fun p => !overlap b n p.1 p.2))

/-- A launch with pool space in a cluster, none where the cluster cannot give it. -/
def State.withPool (s : State) (l : Launch) (cluster : Nat) : Option Launch :=
  if l.poolBytes = 0 || (assoc l.pools cluster).isSome then some l
  else (s.poolBase cluster l.poolBytes).map (fun b => { l with pools := (cluster, b) :: l.pools })

def State.withPools (s : State) (l : Launch) : List Nat → Option Launch
  | [] => some l
  | c :: r => match s.withPool l c with
    | some l => s.withPools l r
    | none => none

/-! ## The choice (R97) -/

/-- The groups of a launch that a cluster has room for among free tiles: none where it cannot give the pool allocation. -/
def State.freeRoom (s : State) (tag : Nat) (l : Launch) (cluster : Nat) : Nat :=
  if (s.withPool l cluster).isNone then 0
  else
    let elders := s.elders tag l
    ((List.range 8).filter (fun t =>
      let u := cluster * 8 + t
      !l.held.contains u && s.tileFor tag l u && !elders.any (fun e => e.2.chosen.contains u))).length / l.field 4 24 8

/-- Whether the groups that a launch has not placed can be placed on free tiles of its sub-mesh. -/
def State.placeable (s : State) (tag : Nat) (l : Launch) : Bool :=
  match (Tbl.get {} s.vault.tenants (l.field 1 8 8)).mesh with
  | none => false
  | some m =>
    let places := meshRectangles m (l.field 4 40 8) (l.field 4 32 8)
    let left := l.groups - l.held.length / max l.groupTiles 1
    packs (left + places.length + 1) places (s.freeRoom tag l) left

/-- Whether the steward may choose these tiles for a launch: it keeps the groups that it has; every older launch of its tenant has its
choice, and no tile is of an older launch's; and it takes tiles that are not free only where it cannot be placed on free ones. -/
def State.choiceHolds (s : State) (tag : Nat) (l : Launch) (groups : List (List Nat)) : Bool :=
  let us := groups.flatten
  groups.length == l.groups && groups.all (s.groupHolds l) && decide us.Nodup && l.held.all us.contains &&
    (s.elders tag l).all (fun e =>
      (e.2.field 1 8 8 != l.field 1 8 8 || !e.2.chosen.isEmpty) && !us.any (fun u => e.2.chosen.contains u || e.2.held.contains u)) &&
    (us.all (s.tileFor tag l) || !s.placeable tag l)

/-! ## Groups placed one at a time (R97) -/

/-- A launch with a group placed where its tiles are free and its clusters can give its pool allocation. -/
def State.placeGroup (s : State) (tag : Nat) (l : Launch) (us : List Nat) : Launch :=
  if us.all l.held.contains then l
  else if us.all (s.tileFor tag l) then
    match s.withPools l (us.map clusterOf).dedup with
    | some l => { l with held := (l.held ++ us).dedup }
    | none => l
  else l

/-- Younger launches that hold a tile of a choice release every tile, and their pool space. -/
def State.releaseJuniors (s : State) (us : List Nat) : List (Nat × Launch) → State
  | [] => s
  | (t, x) :: r =>
    (if x.held.any us.contains then s.setLaunch t { x with held := [], chosen := [], pools := [] } else s).releaseJuniors us r

/-! ## The first dispatch -/

/-- Where the steward maps a launch's save area, Stacks, overflow store and body (log entry 33). -/
def saveVa : Nat := 2 ^ 54

def stacksVa : Nat := 2 ^ 54 + 2 ^ 44

def overflowVa : Nat := 2 ^ 54 + 2 ^ 43

def bodyVa : Nat := 2 ^ 54 + 2 ^ 45

/-- The vault generates the world's key, and installs it and the keys of the bound models in the launch's indices (R195). -/
def State.installKeys (s : State) (l : Launch) : State :=
  let keys := match l.worldKey with
    | some i => Tbl.set 0 s.vault.indices i (2 * s.nextId)
    | none => s.vault.indices
  let keys := l.modelKeys.foldl (fun (t : Tbl Nat) e =>
    Tbl.set 0 t e.2 (match s.vault.sealed.find? (fun (r : SealedRegion) => r.handle == e.1) with | some r => r.key | none => 0)) keys
  { s.fresh with vault := { s.vault with indices := keys } }

/-- The permission bits and key index of a page of the resident system as a launch maps it: a sealed region's page is read-only,
under the model's key where the launch binds it (R195, R198). -/
def State.worldBits (s : State) (l : Launch) (pa bits : Nat) : Nat :=
  match s.vault.sealed.find? (fun (r : SealedRegion) => r.pages.contains (pa / 65536)) with
  | some r => 19 + (match l.modelKeys.find? (fun e => e.1 == r.handle) with | some e => 1024 * e.2 | none => 0)
  | none => bits % 256 + 1024 * l.worldKey.getD 0

/-- The fields that the steward writes before dispatch (R95). -/
def Launch.withPlaces (l : Launch) (root : Nat) : Launch :=
  { l with record := (((l.record.set 3 (BitVec.ofNat 64 root)).set 11 (BitVec.ofNat 64 stacksVa)).set 13 (BitVec.ofNat 64 saveVa)).set 14
                       (BitVec.ofNat 64 overflowVa), body := bodyVa }

/-- Those fields in the record's memory. -/
def State.writeRecordFields (s : State) (l : Launch) : State :=
  [1, 3, 11, 13, 14, 15, 16, 17].foldl (fun (s : State) i => s.writeDword (l.addr + 8 * i) (nth 0 l.record i)) s

/-- Whether the resident system maps a page for a launch of another living world: pages of a tenant's list, or of a job's reserved pages. -/
def State.pageShared (s : State) (world page : Nat) : Bool :=
  s.launches.any (fun (e : Nat × Launch) => (e.2.state == .resident || e.2.state == .absent) && e.2.world != world &&
    ((Tbl.get {} s.vault.tenants (e.2.field 1 8 8)).maps.any (fun m => m.2.1 / 65536 == page) ||
      (match s.job? e.2.job with | some j => j.reserved.any (fun p => p.mapped && p.pa / 65536 == page) | none => false)))

/-- A page of the resident system mapped for a launch, never one of a capsule body (R72); one that another world has had, and none that lives
has, is zeroed first (R206; log entry 33). -/
def State.mapWorld (s : State) (l : Launch) (va pa bits : Nat) : State :=
  let page := pa / 65536
  if s.bodyPages.contains page then s
  else
    let last := Tbl.get 0 s.worldPages page
    let s := if s.pageSealed pa || last = 0 || last = l.world || s.pageShared l.world page then s
      else s.zeroRange (page * 65536) (page * 65536 + 65536)
    ((if s.pageSealed pa then s else s.ownPage l.world pa).mapPage l.root va pa (s.worldBits l pa bits))

/-- The pages of a launch's body mapped for execution only (R72). -/
def State.mapBody (s : State) (l : Launch) : State :=
  match s.bodyOf l with
  | none => s
  | some b => (List.zip (List.range b.pages.length) b.pages).foldl (fun (s : State) p => s.mapPage l.root (bodyVa + 65536 * p.1) p.2 41) s

/-- The launch's page tables: save area, Stacks and overflow store, both read-only, body, and what the resident system maps (log entry 33). -/
def State.buildTables (s : State) (l : Launch) : State :=
  let wkey := 1024 * l.worldKey.getD 0
  let s := s.mapFresh l.root saveVa (7 + wkey) ((18432 * 24 * l.units.length + 65535) / 65536)
  let s := (s.mapBlocks l.root stacksVa (3 + wkey) l.stackBlocks).mapBlocks l.root overflowVa (3 + wkey) [l.overflowBlock]
  let s := s.mapBody l
  let s := (Tbl.get {} s.vault.tenants (l.field 1 8 8)).maps.foldl (fun (s : State) m => s.mapWorld l m.1 m.2.1 m.2.2) s
  match s.job? l.job with
  | none => s
  | some j => (j.reserved.filter (fun p => p.mapped)).foldl (fun (s : State) p => s.mapWorld l p.va p.pa 7) s

/-- The pages that the job's launches may have mapped by SVC (R340). -/
def State.reservePages (s : State) (l : Launch) : State :=
  match s.job? l.job with
  | none => s
  | some j =>
    let pages := ((Tbl.get {} s.vault.tenants (l.field 1 8 8)).reserves.filter (fun va => !j.reserved.any (fun p => p.va == va))).map
      (fun va => ({ va := va, pa := 0, mapped := false } : ReservedPage))
    s.setJob l.job { j with reserved := j.reserved ++ pages }

/-- The initial messages from an address. -/
def State.readMessages (s : State) : Nat → Nat → List (List Word)
  | 0, _ => []
  | n + 1, a =>
    let p := Word.field (s.readDword a) 12 6
    s.readDwords a (p + 1) :: s.readMessages n (a + 8 * (p + 1))

/-- A message as the steward sends it: its own place and the launch's tag in the header. -/
def State.stewardMessage (s : State) (tag : Nat) (ws : List Word) : List Word :=
  let h := nth 0 ws 0
  headerWord (s.placeOf (agentKey (1008 + (match s.launch? tag with | some l => l.steward | none => 0)) 0)) tag (Word.field h 21 3) (Word.field h 18 3) (Word.field h 12 6) (Word.field h 0 12) :: ws.drop 1

/-- The initial messages sent: message i to tile 0 of group i mod groups; without any, one with no payload to tile (0, 0). -/
def State.sendInitial (s : State) (tag : Nat) (l : Launch) : State :=
  let h := l.field 6 0 12
  let role := match s.handler? tag h with | some e => e.role | none => 0
  let n := l.field 8 0 16
  let ms := if n = 0 then [[BitVec.ofNat 64 h]] else s.readMessages n (nth 0 l.record 7).toNat
  (List.zip (List.range ms.length) ms).foldl (fun (s : State) e =>
    s.post none 0 (agentKey (nth 0 l.units (e.1 % l.groups * l.groupTiles)) role) tag (s.stewardMessage tag e.2)) s

def State.takeTiles (s : State) (tag : Nat) : List Nat → State
  | [] => s
  | u :: r => (s.setTile u { s.tile u with launch := some tag, gated := false }).takeTiles tag r

/-- The tiles of a launch's start as the clear routine has left them: their memory zero, their resources empty (R31, R43, R206). -/
def State.freshTiles (s : State) (us : List Nat) : State := us.foldl State.clearTile s

/-- A launch whose groups are all placed is dispatched. -/
def State.dispatchLaunch (s : State) (tag : Nat) (l : Launch) (us : List Nat) : State :=
  let world := 2 * s.nextId
  let (root, s) := (s.installKeys l).allocPage
  let (blocks, s) := s.allocBlocks l.stackPages
  let (store, s) := s.allocBlock
  let l : Launch := { l.withPlaces root with units := us, held := [], chosen := [], state := .resident, world := world, stackBlocks := blocks,
                                             overflowBlock := store }
  let s := ((s.setLaunch tag l).freshTiles us).takeTiles tag us
  let s := l.pools.foldl (fun (s : State) p => s.zeroRange (poolKey p.1 p.2) (poolKey p.1 (p.2 + l.poolBytes))) s
  let s := (s.buildTables l).reservePages l
  (s.writeRecordFields l).sendInitial tag l

/-! ## LAUNCH_PLACEMENT -/

/-- LAUNCH_PLACEMENT: the steward chooses tiles for a waiting launch, which takes those groups whose tiles are free, and is dispatched
when it has all; one that can be placed no more is refused. -/
def execLaunchPlacement (tag : Nat) (units : List (List Nat)) (s : State) : Out :=
  match s.launch? tag with
  | none => .next s
  | some l =>
    if l.state ≠ .placing || s.admissionStopped then .next s
    else if !s.feasible l.record (l.field 1 8 8) then .next (s.refuseLaunch tag 6 "placement")
    else if !s.choiceHolds tag l units then .next s
    else
      let us := units.flatten
      let s := s.releaseJuniors us (s.juniors tag l)
      let l := units.foldl (s.placeGroup tag) { l with chosen := us }
      match s.capsuleOf l with
      | none => .next s
      | some c =>
        if us.all l.held.contains && c.state = .ready && s.blocksLeft (l.stackPages + 1) then .next (s.dispatchLaunch tag l us)
        else .next (s.setLaunch tag l)

/-! ## LAUNCH_RETURN (R170, R183) -/

/-- Whether tiles may take an absent launch back: groups as it had them, all free, none chosen for a launch that waits; tiles that
shared a cluster share one again where they shared a pool. -/
def State.returnHolds (s : State) (tag : Nat) (l : Launch) (groups : List (List Nat)) : Bool :=
  let us := groups.flatten
  groups.length == l.groups && groups.all (s.groupHolds l) && decide us.Nodup && us.all s.tileFree &&
    !(s.waitingFor tag (fun x => us.any (fun u => x.held.contains u || x.chosen.contains u))).any (fun _ => true) &&
    (l.poolBytes == 0 ||
      (List.zip l.left us).all (fun a => (List.zip l.left us).all (fun b =>
        (clusterOf a.1 == clusterOf b.1) == (clusterOf a.2 == clusterOf b.2))))

/-- A context that a drain stopped goes on in the rebuilt body. -/
def State.resumeDrained (s : State) (k : Nat) : State :=
  match (s.ctx k).stop with
  | some st => if st.portable then (s.eretOn k st 0).1 else s
  | none => s

/-- LAUNCH_RETURN. -/
def execLaunchReturn (tag : Nat) (units : List (List Nat)) (s : State) : Out :=
  match s.launch? tag with
  | none => .next s
  | some l =>
    match s.capsuleOf l with
    | none => .next s
    | some c =>
      if l.state ≠ .absent || !l.returning || s.vault.dormant || s.falling || !(c.state == .ready || (c.state == .rebuilding && !l.forRebuild)) || !s.returnHolds tag l units then .next s
      else
        let us := units.flatten
        match s.withPools { l with pools := [] } (us.map clusterOf).dedup with
        | none => .next s
        | some x =>
          let s := (s.bringBack tag l us x.pools).takeTiles tag us
          match s.launch? tag with
          | none => .next s
          | some l => .next (l.ctxKeys.foldl State.resumeDrained s)

end Sys2Proof.Machine
end

