-- ==== Sys2Proof/Machine/Vault.lean ====
section
/-!
DEFINITION. Sys2Proof/Machine/Vault.lean: SEAL and the end of a seal (R197, R198), the audit log's consumer (R205), the vault's SPDM sessions
(R213, R224, R225), the protected-transfer channel (R210, R225, R226), WAKE (R212) and the boot (R20, R227).
-/

namespace Sys2Proof.Machine

/-! ## SEAL (R197, R198) -/

/-- A seal request (R198). -/
structure SealRequest where
  source : Nat
  dest : Nat
  units : Nat
  kind : Nat
  format : Nat
  handle : Word
  clean : Bool
  deriving DecidableEq, Repr

def State.sealRequest (s : State) (pa : Nat) : SealRequest :=
  let d := s.readDwords pa 8
  { source := (nth 0 d 0).toNat, dest := (nth 0 d 1).toNat, units := Word.field (nth 0 d 2) 32 32, kind := Word.field (nth 0 d 2) 28 4,
    format := Word.field (nth 0 d 2) 24 4, handle := nth 0 d 3,
    clean := Word.field (nth 0 d 2) 0 24 == 0 && (d.drop 4).all (· == 0) }

/-- The bytes of a unit's plaintext, and the stride of the region's units (R197). -/
def SealRequest.plain (r : SealRequest) : Nat := if r.kind = 2 then 4096 else groupWidth r.format * 16384 + 512

def SealRequest.stride (r : SealRequest) : Nat := r.plain + 64

def SealRequest.pages (r : SealRequest) : List Nat :=
  (List.range ((r.units * r.stride + 65535) / 65536)).map (fun i => r.dest / 65536 + i)

/-- Whether a seal request keeps R198; its region holds no page of a capsule body, which stays mapped as one (R72). -/
def State.sealHolds (s : State) (r : SealRequest) : Bool :=
  r.clean && r.source % 64 == 0 && r.dest % 65536 == 0 && decide (1 ≤ r.units) && decide (r.units ≤ 2 ^ 24) &&
    ((r.kind == 1 && (decide (r.format ≤ 4) || (decide (6 ≤ r.format) && decide (r.format ≤ 8)))) || (r.kind == 2 && r.format == 0)) &&
    s.inHbm r.source (r.units * r.plain) && s.inHbm r.dest (r.units * r.stride) && !r.pages.any s.bodyPages.contains

/-- The plaintext of the units. -/
def State.sealPlain (s : State) (r : SealRequest) : List (List Byte) :=
  (List.range r.units).map (fun i => s.readBytes 0 (r.source + i * r.plain) r.plain)

/-- The measurement: the SHA-384 of a header of 16 bytes and every unit's plaintext. -/
def measure (kind format : Nat) (units : List (List Byte)) : List Byte :=
  sha384 (natBytes 4 kind ++ natBytes 4 format ++ natBytes 4 units.length ++ natBytes 4 0 ++ units.flatten)

/-- The lowest free entry of the vault's key store. -/
def State.freeKeyEntry (s : State) : Option Nat := (List.range 256).find? (fun i => (Tbl.get none s.vault.keys i).isNone)

/-- The mappings of a launch that the steward keeps account of: address, physical page and permission bits of its save area, its pages of the
resident system and the job's pages (R67, R340). -/
def State.mappings (s : State) (l : Launch) : List (Nat × Nat × Nat) :=
  let save := (List.range ((18432 * 24 * l.units.length + 65535) / 65536)).filterMap (fun i =>
    (s.walkTables l.root (saveVa + 65536 * i)).map (fun leaf => (saveVa + 65536 * i, leaf.pa (saveVa + 65536 * i), 7)))
  save ++ (Tbl.get {} s.vault.tenants (l.field 1 8 8)).maps ++
    (match s.job? l.job with
     | none => []
     | some j => (j.reserved.filter (fun p => p.mapped)).map (fun p => (p.va, p.pa, 7)))

/-- The launches that have tables. -/
def State.mapped (s : State) : List Launch :=
  (s.launches.filter (fun (e : Nat × Launch) => e.2.state == .resident || e.2.state == .absent)).map (fun e => e.2)

/-- The translations through pages dropped, and a launch's mappings of those pages changed (R71). -/
def State.changeMappings (s : State) (pages : List Nat) (change : State → Launch → Nat × Nat × Nat → State) : State :=
  s.mapped.foldl (fun (s : State) l => ((s.mappings l).filter (fun m => pages.contains (m.2.1 / 65536))).foldl (fun (s : State) m => change s l m) s)
    (s.dropTranslations (fun e => pages.contains (Word.field e.pte 16 36)))

/-- Every mapping of pages made anew: a sealed page is mapped sealed and read-only, and so in every launch. -/
def State.remapAll (s : State) (pages : List Nat) : State :=
  s.changeMappings pages (fun s l m => s.mapPage l.root m.1 m.2.1 (s.worldBits l m.2.1 m.2.2))

/-- Every writable mapping of pages removed in every launch (R198, step 2). -/
def State.unmapWritable (s : State) (pages : List Nat) : State :=
  s.changeMappings pages (fun s l m =>
    match s.walkTables l.root m.1 with
    | some leaf => if pteBit leaf.pte 2 then s.setLeaf l.root m.1 0 else s
    | none => s)

/-- The units written as ciphertext, each with its trailer. -/
def State.writeUnits (s : State) (r : SealedRegion) (dest stride : Nat) (units : List (List Byte)) : State :=
  (List.zip (List.range units.length) units).foldl (fun (s : State) u =>
    s.writeList 0 (dest + u.1 * stride) false ((r.close u.1 u.2).1 ++ (r.close u.1 u.2).2 ++ List.replicate 48 0)) s

/-- A region sealed: its model key made and wrapped, its units written, its pages mapped sealed everywhere. -/
def State.sealRegion (s : State) (q : SealRequest) (e : KeyEntry) (n : Nat) : State :=
  let units := s.sealPlain q
  let m := measure q.kind q.format units
  let r : SealedRegion :=
    { handle := lastDword m, kind := q.kind, format := q.format, units := q.units, measurement := m, key := 2 * s.nextId,
      tenantKey := e.key, tenant := e.tenant, pages := q.pages }
  -- the entry of a wrapped model key answers to no handle: its generation is beyond every handle's
  let entry : KeyEntry := { tenant := e.tenant, generation := 2 ^ 48, key := 2 * s.nextId }
  let v := { s.vault with sealed := s.vault.sealed ++ [r], keys := Tbl.set none s.vault.keys n (some entry) }
  (State.writeUnits { s.fresh with vault := v } r q.dest q.stride units).remapAll q.pages

/-- Whether an access under way lies in physical pages: the shootdown's acknowledgements wait for it (R71). -/
def State.pagesBusy (s : State) (pages : List Nat) : Bool :=
  s.txns.any (fun t => !t.performed && pages.contains (t.key / 65536)) ||
    s.blks.any (fun b => b.parts.any (fun p => p.got.isNone && p.fault.isNone && pages.contains (p.key / 65536)))

/-- SEAL, in the order of R198: the request is checked, the writable mappings go, the plaintext is measured. Its addresses are a steward's, so
physical (log entry 13). A request that reaches the vault is an event there (R301). -/
def execSeal (d a b : BitVec 6) (s : State) : Out :=
  s.issue { level := .s, reads := [a.toNat, b.toNat], writes := [d.toNat] } (fun s => s.irrevocably (fun s =>
    let q := s.sealRequest (s.reg a).toNat
    if s.gated true then s.waitGate
    else if !(s.outstanding s.cur 4).isEmpty then s.stall
    else if s.reg b ≠ 0 || !s.inHbm (s.reg a).toNat 64 || !s.sealHolds q then .next (s.result 4 d.toNat Word.minusOne)
    else
      match s.keyHandle q.handle (Word.field q.handle 56 8) with
      | none => .next ((s.result 4 d.toNat (-2)).eventAt 1016)
      | some e =>
        let s := s.unmapWritable q.pages
        if s.pagesBusy q.pages then s.stall
        else
          let s := s.eventAt 1016
          let x := lastDword (measure q.kind q.format (s.sealPlain q))
          if x = 0 || s.vault.sealed.any (fun (r : SealedRegion) => r.handle == x) then .next (s.result 4 d.toNat (-3))
          else
            match s.freeKeyEntry with
            | none => .next (s.result 4 d.toNat (-4))
            | some n => .next ((s.sealRegion q e n).result 4 d.toNat x)))

/-- Whether a launch binds a region. -/
def Launch.binds (l : Launch) (h : Word) : Bool := l.state != .retired && l.models.contains h

/-- SEALED_REGION_RETIRE: refused while any launch binds the region; else its key-store entry is free and its pages are mapped as
before. -/
def execSealedRegionRetire (h : Word) (s : State) : Out :=
  match s.vault.sealed.find? (fun (r : SealedRegion) => r.handle == h) with
  | none => .next s
  | some r =>
    if s.launches.any (fun (e : Nat × Launch) => e.2.binds h) then .next s
    else
      let keys := match (List.range 256).find? (fun i =>
          match Tbl.get none s.vault.keys i with | some (e : KeyEntry) => e.key == r.key && e.generation == 2 ^ 48 | none => false) with
        | some i => Tbl.set none s.vault.keys i none
        | none => s.vault.keys
      let v := { s.vault with sealed := s.vault.sealed.filter (fun (x : SealedRegion) => x.handle != h), keys := keys }
      .next (State.remapAll { s with vault := v } r.pages)

/-- AUDIT_LOG_CONSUME: the read pointer advances, never past what has been written. -/
def execAuditLogConsume (tenant rp : Nat) (s : State) : Out :=
  let t : Tenant := Tbl.get {} s.vault.tenants tenant
  if t.logRead ≤ rp && rp ≤ t.logWrite then
    let t' : Tenant := { t with logRead := rp }
    .next { s with vault := { s.vault with tenants := Tbl.set {} s.vault.tenants tenant t' } }
  else .next s

/-! ## A world's page moved (R195) -/

/-- A page's bytes, marks and keys moved to another page: they are then encrypted under the new address. -/
def State.carryPage (s : State) (old new : Nat) : State :=
  { s with mem := moveRange s.mem old 65536 new, bad := moveRange s.bad old 65536 new,
           lineKey := moveRange s.lineKey (old / 64) 1024 (new / 64),
           worldPages := Tbl.set 0 s.worldPages (new / 65536) (Tbl.get 0 s.worldPages (old / 65536)) }

/-- Whether a launch maps a page pinned (R67). -/
def State.pagePinned (s : State) (page : Nat) : Bool :=
  s.mapped.any (fun l => (s.mappings l).any (fun m => m.2.1 / 65536 == page &&
    (match s.walkTables l.root m.1 with | some leaf => pteBit leaf.pte 6 | none => false)))

/-- The steward moves a page of a launch, that none maps pinned (R67), to the page that it takes next (log entry 11), where nothing is under way in
either; every launch that maps it maps the new one. A page that the steward had taken is given back. -/
def State.movePage (s : State) (tag va pa : Nat) : State :=
  match s.launch? tag with
  | none => s
  | some l =>
    match (s.mappings l).find? (fun m => m.1 == va) with
    | none => s
    | some (_, old, _) =>
      let pages := [old / 65536, pa / 65536]
      if old % 65536 ≠ 0 || pa ≠ s.allocPage.1 || old = pa || !s.inHbm pa 65536 || s.pagesBusy pages || s.pageSealed old ||
          s.pagePinned (old / 65536) || s.versions.any (fun v => pages.contains (v.line / 1024)) ||
          s.mapped.any (fun x => (s.mappings x).any (fun m => m.2.1 / 65536 == pa / 65536)) then s
      else
        let s := (s.allocPage.2.carryPage old pa).changeMappings [old / 65536] (fun s l m =>
          match s.walkTables l.root m.1 with
          | some leaf => s.mapPage l.root m.1 pa (leaf.pte.toNat % 65536)
          | none => s)
        let go := fun (x : Nat) => if x = old then pa else x
        let tenants := s.vault.tenants.map (fun (e : Nat × Tenant) => (e.1, { e.2 with maps := e.2.maps.map (fun m => (m.1, go m.2.1, m.2.2)) }))
        { s with vault := { s.vault with tenants := tenants }, freePages := if s.pageAt s.pages < old then s.freePages ++ [old] else s.freePages,
                 jobs := s.jobs.map (fun (e : Nat × Job) => (e.1, { e.2 with reserved := e.2.reserved.map (fun p => { p with pa := go p.pa }) })) }

/-! ## Debug sessions that end (R228) -/

/-- A context that a debug session held goes on where it stopped; a late fault recorded meanwhile is delivered as one. A machine check's stop stays
(R173). -/
def State.releaseHeld (s : State) (k : Nat) : State :=
  let c := s.ctx k
  match c.stop with
  | none => s
  | some st =>
    if !st.held || (s.tile (unitOf k)).checking then s
    else if !c.lates.isEmpty then s.setCtx k { c with stop := some { st with held := false, written := false } }
    else s.resume k { c with brokeAt := some st.resumePc } st.resumePc

/-- The contexts of the launches of a job. -/
def State.jobContexts (s : State) (job : Nat) : List Nat :=
  (s.launches.filter (fun (e : Nat × Launch) => e.2.job == job && (e.2.state == .resident || e.2.state == .absent))).flatMap
    (fun e => e.2.ctxKeys)

def State.client (s : State) (n : Nat) : Session := Tbl.get {} s.readroom.sessions n

def State.setClient (s : State) (n : Nat) (x : Session) : State :=
  { s with readroom := { s.readroom with sessions := Tbl.set {} s.readroom.sessions n x } }

/-- Every launch that a client's session had stopped goes on. -/
def State.continueHeld (s : State) (n : Nat) : State :=
  match (s.client n).job with
  | none => s
  | some job => (s.jobContexts job).foldl State.releaseHeld (s.setClient n { s.client n with stopped := false })

/-- A client's session ended: launches continue, breakpoints are removed. -/
def State.endSession (s : State) (n : Nat) : State := (s.continueHeld n).setClient n {}

def State.endSessions (s : State) : State := (s.readroom.sessions.map (fun (e : Nat × Session) => e.1)).foldl State.endSession s

/-! ## The keys of sessions (R210, R224, R225) -/

/-- The key of a direction, 0 to the device and 1 from it: a session's identity has one for each, and a rekey packet's key serves both. -/
def directionKey (id direction : Nat) : List Byte :=
  if id % 2 = 1 then keyBytes id 32 else ((keyBytes id 64).drop (32 * direction)).take 32

/-- The IV of a secured message: the direction's salt, the sequence number added to it bit by bit (log entry 65). -/
def messageIv (id direction sequence : Nat) : List Byte :=
  List.zipWith (· ^^^ ·) (((keyBytes id 88).drop (64 + 12 * direction)).take 12) (natBytes 12 sequence)

/-- A message in the secured framing: the session and a length, then the message with its own length and a tag over them. -/
def secured (id direction sequence session : Nat) (message : List Byte) : List Byte :=
  let plain := natBytes 2 message.length ++ message
  let head := natBytes 4 session ++ natBytes 2 (plain.length + 16)
  let c := gcmSeal (directionKey id direction) (messageIv id direction sequence) head plain
  head ++ c.1 ++ c.2

/-- The message of a secured one, where its tag verifies. -/
def unsecured (id direction sequence : Nat) (bs : List Byte) : Option (List Byte) :=
  let n := bs.length - 22
  if bs.length < 24 || bytesNat ((bs.drop 4).take 2) ≠ n + 16 then none
  else
    (gcmOpen (directionKey id direction) (messageIv id direction sequence) (bs.take 6) ((bs.drop 6).take n) (bs.drop (6 + n))).map
      (fun p => (p.drop 2).take (bytesNat (p.take 2)))

/-! ## SPDM (R213, R224) -/

/-- The session of a path: over Ethernet each client has its own (R228). -/
def State.session (s : State) : SpdmPath → SpdmState
  | .mailbox => s.vault.mailbox
  | .ethernet => Tbl.get {} s.vault.ethernet s.readroom.client

def State.setSession (s : State) (p : SpdmPath) (x : SpdmState) : State :=
  match p with
  | .mailbox => { s with vault := { s.vault with mailbox := x } }
  | .ethernet => { s with vault := { s.vault with ethernet := Tbl.set {} s.vault.ethernet s.readroom.client x } }

/-- Whether messages travel in the secured framing: from the key exchange on. -/
def SpdmState.secure (x : SpdmState) : Bool := x.exchange || x.established

/-- The bytes in the mailbox, and the message that they are or carry. -/
def State.mailboxBytesIn (s : State) : List Byte := (List.range s.host.spdmReqLen).map (fun i => Tbl.get 0 s.host.spdmReq i)

def State.mailboxRequest (s : State) : Option (List Byte) :=
  let x := s.vault.mailbox
  if x.secure then unsecured x.key 0 x.taken s.mailboxBytesIn else some s.mailboxBytesIn

/-- Whether the mailbox holds a request that is not yet answered. -/
def State.mailboxFull (s : State) : Bool := s.host.spdmReqLen != 0 && s.host.spdmRspLen == 0

/-- Whether a request is there to be taken: over Ethernet it comes with the event, the mailbox holds it. -/
def State.arrived (s : State) (p : SpdmPath) (req : List Byte) : Bool :=
  match p with
  | .ethernet => true
  | .mailbox => s.mailboxFull && s.mailboxRequest == some req

/-- Whether a request of a code is there. -/
def State.requested (s : State) (p : SpdmPath) (code : Nat) (req : List Byte) : Bool := (nth 0 req 1).toNat == code && s.arrived p req

/-- Bytes put into the response buffer, with their length; vector 3 is raised. -/
def State.mailboxAnswer (s : State) (bs : List Byte) : State :=
  let bs := bs.take 4096
  State.raiseMsix { s with host := { s.host with spdmReqLen := 0, spdmRspLen := bs.length, spdmRsp := Tbl.tabulate 0 4096 (nth 0 bs) } } 3

/-- An answer sent to the client over Ethernet, whose request was an event at the vault (R301). -/
def State.ethernetAnswer (s : State) (bs : List Byte) : State :=
  State.eventAt { s with vault := { s.vault with answered := s.vault.answered ++ [(s.readroom.client, bs)] } } 1016

/-- A response given, in the framing of its session: into the mailbox, or to the client, whose session's messages name session 0 (log entry
65). -/
def State.respondSpdm (s : State) (p : SpdmPath) (bs : List Byte) : State :=
  let x := s.session p
  let noted := s.setSession p { x with taken := x.taken + 1, given := x.given + 1 }
  match p with
  | .ethernet => if x.secure then noted.ethernetAnswer (secured x.key 1 x.given 0 bs) else s.ethernetAnswer bs
  | .mailbox =>
    if x.secure then noted.mailboxAnswer (secured x.key 1 x.given (bytesNat (s.mailboxBytesIn.take 4)) (bs.take 4072))
    else s.mailboxAnswer bs

/-- A message of SPDM 1.3: its code and parameters (log entry 65). -/
def spdmHead (code p1 p2 : Nat) : List Byte := [0x13, BitVec.ofNat 8 code, BitVec.ofNat 8 p1, BitVec.ofNat 8 p2]

/-- An ERROR. -/
def spdmError (code data : Nat) : List Byte := spdmHead 0x7F code data

def unexpectedRequest : List Byte := spdmError 0x04 0

/-- The response to a request. -/
def State.answerSpdm (s : State) (p : SpdmPath) (code : Nat) (req bs : List Byte) : Out :=
  if s.requested p code req then .next (s.respondSpdm p bs) else .next s

/-- VERSION: 1.3 alone. -/
def versionBody : List Byte := [0x10, 0x04, 0, 0, 0, 1, 0, 0x13]

def execSpdmGetVersion (path : SpdmPath) (req : List Byte) (s : State) : Out :=
  if s.requested path 0x84 req then
    .next ((s.respondSpdm path versionBody).setSession path { (s.respondSpdm path versionBody).session path with version := true })
  else .next s

/-- CAPABILITIES: CERT, CHAL, MEAS with signature, ENCRYPT, MAC, MUT_AUTH, KEY_EX and ENCAP; the exponent of its crypto timeout is not given. -/
def capabilitiesBody : List Byte :=
  spdmHead 0x61 0 0 ++ [0, nth 0 (Config.spdmBody 0x61 []) 0, 0, 0] ++ natBytes 4 0x13D6 ++ natBytes 4 4096 ++ natBytes 4 4096

def execSpdmGetCapabilities (path : SpdmPath) (req : List Byte) (s : State) : Out := s.answerSpdm path 0xE1 req capabilitiesBody

/-- ALGORITHMS: SHA-384 for measurements and digests, an extended asymmetric algorithm, whose registry number is not given, and the structures
of DHE secp384r1 and of AEAD AES-256-GCM. -/
def algorithmsBody : List Byte :=
  spdmHead 0x63 2 0 ++ natBytes 2 48 ++ [1, 0] ++ natBytes 4 4 ++ natBytes 4 0 ++ natBytes 4 2 ++ List.replicate 12 0 ++ [1, 0, 0, 0] ++
    (List.range 4).map (nth 0 (Config.spdmBody 0x63 [])) ++ [2, 0x20, 0x10, 0] ++ [3, 0x20, 2, 0]

def execSpdmNegotiateAlgorithms (path : SpdmPath) (req : List Byte) (s : State) : Out :=
  if s.requested path 0xE3 req then
    .next ((s.respondSpdm path algorithmsBody).setSession path { (s.respondSpdm path algorithmsBody).session path with negotiated := true })
  else .next s

/-- The certificate chain of slot 0, the only one: vendor root, device identity, attestation alias. -/
def certChain : List Byte := Config.spdmBody 0x02 []

def execSpdmGetDigests (path : SpdmPath) (req : List Byte) (s : State) : Out := s.answerSpdm path 0x81 req (spdmHead 0x01 0 1 ++ sha384 certChain)

/-- CERTIFICATE: the portion of the chain that the request names. -/
def certificateBody (req : List Byte) : List Byte :=
  let off := bytesNat ((req.drop 4).take 2)
  let portion := (certChain.drop off).take (bytesNat ((req.drop 6).take 2))
  if nth 0 req 2 ≠ 0 then spdmError 0x01 0
  else spdmHead 0x02 0 0 ++ natBytes 2 portion.length ++ natBytes 2 (certChain.length - off - portion.length) ++ portion

def execSpdmGetCertificate (path : SpdmPath) (req : List Byte) (s : State) : Out := s.answerSpdm path 0x82 req (certificateBody req)

/-- A body signed with the alias key over the request and what precedes the signature. -/
def signedBody (req body : List Byte) : List Byte := body ++ Config.deviceSignature (req ++ body)

/-- The nonce of a response. -/
def responseNonce (req : List Byte) : List Byte := (List.range 32).map (nth 0 (Config.spdmBody 0x03 req))

/-! ### Measurements -/

/-- The value of a measurement: 1 the vault's ROM, 2 the firmware image, 3 the translator's revision, 4 the vault's firmware, 5 the clear
routine, 6 the spare map and the self-test, 7 the heads of the audit logs. -/
def State.measurementOf (s : State) (i : Nat) : List Byte :=
  match i with
  | 2 => Tbl.get [] s.vault.measurements 2
  | 3 => natBytes 8 s.triple.translator
  | 6 => sha384 (natBytes 8 s.host.bootStatus ++ (List.range 288).flatMap (fun u => natBytes 1 (boolNat (s.tile u).spare)) ++
           s.host.selfTest.flatMap (natBytes 2))
  | 7 => s.vault.tenants.flatMap (fun (e : Nat × Tenant) => natBytes 8 e.1 ++ natBytes 8 e.2.logSeq)
  | i => Config.builtIn i

/-- A measurement block: its index, the DMTF specification and the value with its type and length. -/
def State.measurementBlock (s : State) (i : Nat) : List Byte :=
  let v := s.measurementOf i
  natBytes 1 i ++ [1] ++ natBytes 2 (v.length + 3) ++ natBytes 1 (i - 1) ++ natBytes 2 v.length ++ v

/-- The indices that a request asks for: 0 asks for their number, 255 for all. -/
def measurementsAsked (req : List Byte) : List Nat :=
  let n := (nth 0 req 3).toNat
  if n = 255 then [1, 2, 3, 4, 5, 6, 7] else if 1 ≤ n && n ≤ 7 then [n] else []

/-- MEASUREMENTS, signed where the request asks for it. -/
def State.measurementsBody (s : State) (req : List Byte) : List Byte :=
  let is := measurementsAsked req
  let blocks := is.flatMap s.measurementBlock
  let body := spdmHead 0x60 (if (nth 0 req 3).toNat = 0 then 7 else 0) 0 ++ natBytes 1 is.length ++ natBytes 3 blocks.length ++ blocks ++
    responseNonce req ++ natBytes 2 0
  if (nth 0 req 2).getLsbD 0 then signedBody req body else body

def execSpdmGetMeasurements (path : SpdmPath) (req : List Byte) (s : State) : Out := s.answerSpdm path 0xE0 req (s.measurementsBody req)

/-- CHALLENGE_AUTH. -/
def State.challengeBody (s : State) (req : List Byte) : List Byte :=
  signedBody req (spdmHead 0x03 0 1 ++ sha384 certChain ++ responseNonce req ++
    (if (nth 0 req 3).toNat = 0 then [] else sha384 ([1, 2, 3, 4, 5, 6, 7].flatMap s.measurementBlock)) ++ natBytes 2 0)

def execSpdmChallenge (path : SpdmPath) (req : List Byte) (s : State) : Out := s.answerSpdm path 0x83 req (s.challengeBody req)

/-! ### Sessions -/

/-- A session gone, with its keys; a client's debug session goes with it (R228). -/
def State.dropSession (s : State) : SpdmPath → State
  | .mailbox => { s with vault := { s.vault with mailbox := {}, transfer := {} } }
  | .ethernet =>
    let v := { s.vault with ethernet := Tbl.set {} s.vault.ethernet s.readroom.client {}, debug := Tbl.set {} s.vault.debug s.readroom.client {} }
    State.endSession { s with vault := v } s.readroom.client

/-- KEY_EXCHANGE: refused by the mailbox while its session lasts (R225); else the keys of a handshake are agreed on. A client's earlier session
ends with it (log entry 65). -/
def execSpdmKeyExchange (path : SpdmPath) (req : List Byte) (s : State) : Out :=
  let x := s.session path
  if path = .mailbox && x.established then s.answerSpdm path 0xE4 req (spdmError 0x0A 0)
  else if s.requested path 0xE4 req then
    let y : SpdmState := { x with exchange := true, established := false, key := 2 * s.nextId, taken := 0, given := 0, encapsulated := false,
                                  requester := none }
    let t := s.respondSpdm path (Config.spdmBody 0xE4 req)
    .next ((if x.established then t.dropSession path else t).fresh.setSession path y)
  else .next s

/-- The keys of a session that FINISH establishes: the mailbox's are the protected-transfer channel's, whose first request carries sequence
0 (R225); a client's are its debug channel's (R210). -/
def State.sessionKeys (s : State) : SpdmPath → State
  | .mailbox => { s.fresh with vault := { s.vault with transfer := { active := some (2 * s.nextId) }, ptNext := 0 } }
  | .ethernet =>
    { s.fresh with vault := { s.vault with debug := Tbl.set {} s.vault.debug s.readroom.client { active := some (2 * s.nextId) } } }

/-- The session after its FINISH: it is established, under keys of its own. -/
def SpdmState.finished (x : SpdmState) (key : Nat) : SpdmState :=
  { x with exchange := false, established := true, key := key, taken := 0, given := 0, encapsulated := false }

def execSpdmFinish (path : SpdmPath) (req : List Byte) (s : State) : Out :=
  let x := s.session path
  if !s.requested path 0xE5 req then .next s
  else if !x.exchange then .next (s.respondSpdm path unexpectedRequest)
  else
    let s := s.respondSpdm path (spdmHead 0x65 0 0)
    .next ((s.setSession path (x.finished (2 * s.nextId))).sessionKeys path)

def execSpdmEndSession (path : SpdmPath) (req : List Byte) (s : State) : Out :=
  if !s.requested path 0xEC req then .next s
  else if !(s.session path).established then .next (s.respondSpdm path unexpectedRequest)
  else .next ((s.respondSpdm path (spdmHead 0x6C 0 0)).dropSession path)

/-- The requests that the vault supports. -/
def spdmCodes : List Nat := [0x84, 0xE1, 0xE3, 0x81, 0x82, 0x83, 0xE0, 0xE4, 0xE5, 0xEC]

/-- The encapsulated requests of mutual authentication (R213): the requester asks for the device's request, GET_DIGESTS, and what it then
delivers is answered with GET_CERTIFICATE; the certificate gives the requester's key. -/
def State.encapsulated (s : State) (p : SpdmPath) (req : List Byte) : State :=
  let x := s.session p
  let put := fun (s : State) (f : SpdmState → SpdmState) => s.setSession p (f (s.session p))
  if (nth 0 req 1).toNat = 0xEA && x.exchange then
    put (s.respondSpdm p (spdmHead 0x6A 1 0 ++ spdmHead 0x81 0 0)) (fun x => { x with encapsulated := true })
  else if (nth 0 req 1).toNat = 0xEB && x.encapsulated then
    if (nth 0 req 5).toNat = 0x01 then
      s.respondSpdm p (spdmHead 0x6B 2 1 ++ natBytes 4 1 ++ spdmHead 0x82 0 0 ++ natBytes 2 0 ++ natBytes 2 4096)
    else put (s.respondSpdm p (spdmHead 0x6B 2 0 ++ natBytes 4 1)) (fun x => { x with encapsulated := false, requester := Config.spdmRequester req })
  else s.respondSpdm p (spdmError 0x07 (nth 0 req 1).toNat)

/-- Any other request: UnsupportedRequest; bytes in the mailbox that no key of the session opens are answered with DecryptError. -/
def execSpdmUnsupportedRequest (path : SpdmPath) (req : List Byte) (s : State) : Out :=
  if path = .mailbox && s.mailboxFull && s.mailboxRequest.isNone then .next (s.mailboxAnswer (spdmError 0x06 0))
  else if spdmCodes.contains (nth 0 req 1).toNat || !s.arrived path req then .next s
  else .next (s.encapsulated path req)

/-- The first value of a tenant's log stream key released over a session whose requester the tenant has registered (R205), while the vault
still has it. -/
def State.releaseLogKey (s : State) (p : SpdmPath) (tenant : Nat) : State :=
  let x := s.session p
  let n := Tbl.get {} s.vault.tenants tenant
  match x.requester with
  | none => s
  | some q =>
    if x.established && n.requesters.contains q && n.logSeq ≤ 2 ^ 24 && !n.logKey.isEmpty then
      let s := s.setSession p { x with given := x.given + 1 }
      let t : Tenant := { n with logReleased := n.logReleased + 1 }
      { s with vault := { s.vault with tenants := Tbl.set {} s.vault.tenants tenant t,
                                       released := s.vault.released ++ [(tenant, secured x.key 1 x.given 0 n.logKey)] } }
    else s

/-! ## Key slots (R210) -/

/-- The key that a phase bit names: while the old slot stands, it is still the active one's. -/
def KeySlots.keyOf (q : KeySlots) (phase : Bool) : Option Nat :=
  if q.draining then (if phase = q.phase then q.pending else q.active)
  else if phase = q.phase then q.active else q.pending

/-- The slots after a packet under a phase bit has been accepted: the first of the new phase lets the old slot be zeroed, and the oldest rekey that
waits goes on. -/
def KeySlots.accept (q : KeySlots) (phase : Bool) : KeySlots :=
  if (q.draining && phase = q.phase) || (!q.draining && phase ≠ q.phase) then
    { active := q.pending, pending := q.waiting.head?, waiting := q.waiting.tail, phase := phase }
  else q

/-- The initiator's phase bit flipped on the acknowledgement of its new key. -/
def KeySlots.flip (q : KeySlots) : KeySlots :=
  if q.pending.isSome && !q.draining then { q with phase := !q.phase, draining := true } else q

/-- A new key under the active one, installed in the pending slot; a second one waits until the old slot has been zeroed. -/
def KeySlots.install (q : KeySlots) (key : Nat) : KeySlots :=
  if q.active.isNone then q
  else if q.pending.isNone then { q with pending := some key }
  else { q with waiting := q.waiting ++ [key] }

/-- The slots of a channel: each client has a debug channel of its own. -/
def State.channel (s : State) : Channel → KeySlots
  | .protectedTransfer => s.vault.transfer
  | .debug => Tbl.get {} s.vault.debug s.readroom.client
  | .stewardVault => s.vault.steward

def State.setChannel (s : State) (c : Channel) (q : KeySlots) : State :=
  match c with
  | .protectedTransfer => { s with vault := { s.vault with transfer := q } }
  | .debug => { s with vault := { s.vault with debug := Tbl.set {} s.vault.debug s.readroom.client q } }
  | .stewardVault => { s with vault := { s.vault with steward := q } }

def execRekeyAck (chan : Channel) (s : State) : Out := .next (s.setChannel chan (s.channel chan).flip)

/-- A rekey packet of the debug or the steward's channel: its key, as a number of 32 bytes. -/
def State.newKey (s : State) (chan : Channel) (key : Nat) : State := s.setChannel chan ((s.channel chan).install (2 * (key % 2 ^ 256) + 1))

/-- A packet of a channel under a phase bit: one that names an empty slot is discarded, and is a security event. -/
def State.channelPacket (s : State) (chan : Channel) (phase : Bool) : State :=
  match (s.channel chan).keyOf phase with
  | none => s.secEvent
  | some _ => s.setChannel chan ((s.channel chan).accept phase)

/-! ## The protected-transfer channel (R225, R226) -/

/-- The request at the head of the ring: its header, and its sealed payload. -/
structure PtRequest where
  header : List Word
  sealed : List Byte
  deriving DecidableEq, Repr

def PtRequest.op (r : PtRequest) : Nat := Word.field (nth 0 r.header 0) 56 8

def PtRequest.phase (r : PtRequest) : Bool := pteBit (nth 0 r.header 0) 55

def PtRequest.length (r : PtRequest) : Nat := Word.field (nth 0 r.header 0) 0 16

def PtRequest.sequence (r : PtRequest) : Nat := (nth 0 r.header 1).toNat

def PtRequest.address (r : PtRequest) : Nat := (nth 0 r.header 2).toNat

def PtRequest.index (r : PtRequest) : Nat := (nth 0 r.header 3).toNat

def headerBytes (ws : List Word) : List Byte := ws.flatMap (fun w => natBytes 8 w.toNat)

/-- Whether the header keeps R225. -/
def PtRequest.clean (r : PtRequest) : Bool :=
  Word.field (nth 0 r.header 0) 16 39 == 0 && decide (r.length ≤ 4032) && r.length % 8 == 0 && nth 0 r.header 6 == 0 &&
    nth 0 r.header 7 == 0 && decide (1 ≤ r.op) && decide (r.op ≤ 5)

/-- The request taken next, while the response ring has room and no IRREVOCABLE region holds the lines of its next entry (R130). -/
def State.ptRequest (s : State) : Option PtRequest :=
  let h := s.host
  let at_ := h.ptReqBase.toNat + 4096 * h.ptReqHead
  let rsp := h.ptRspBase.toNat + 4096 * h.ptRspTail
  if h.ptReqHead = h.ptReqTail % s.ptEntries || s.vault.transfer.active.isNone || (h.ptRspTail + 1) % s.ptEntries = h.ptRspHead % s.ptEntries ||
      !s.inHbm at_ 4096 || !s.inHbm rsp 4096 || s.physicalHeld rsp 4096 then none
  else
    let d := s.readDwords at_ 8
    let n := if Word.field (nth 0 d 0) 56 8 = 4 || Word.field (nth 0 d 0) 56 8 = 1 then 0 else min 4032 (Word.field (nth 0 d 0) 0 16)
    some ⟨d, s.readBytes 0 (at_ + 64) n⟩

/-- The IV of a packet: its sequence and its direction (R225). -/
def transferIv (sequence direction : Nat) : List Byte := natBytes 8 sequence ++ natBytes 4 direction

/-- The answer to the request at the head: one entry at the response tail, sealed under the key of the phase in use, and vector 4. -/
def State.ptAnswer (s : State) (r : PtRequest) (status : Word) (out : List Byte) : State :=
  let h := s.host
  let q := s.vault.transfer
  let key := ((if q.draining then q.pending else q.active)).getD 0
  let d0 := BitVec.ofNat 64 (r.op * 2 ^ 56 + boolNat q.phase * 2 ^ 55 + out.length)
  let head := headerBytes [d0, nth 0 r.header 1, nth 0 r.header 2, status]
  let body := gcmSeal (directionKey key 1) (transferIv r.sequence 1) head out
  let entry := head ++ body.2 ++ List.replicate 16 0 ++ body.1
  let s := s.writePhysical 0 (h.ptRspBase.toNat + 4096 * h.ptRspTail) entry
  State.raiseMsix { s with host := { s.host with ptReqHead := (h.ptReqHead + 1) % s.ptEntries,
                                                 ptRspTail := (h.ptRspTail + 1) % s.ptEntries } } 4

/-- The payload of a request, where its tag verifies under the key that its phase names. -/
def State.ptOpens (s : State) (r : PtRequest) : Option (List Byte) :=
  (s.vault.transfer.keyOf r.phase).bind (fun k =>
    gcmOpen (directionKey k 0) (transferIv r.sequence 0) (headerBytes (r.header.take 4)) r.sealed (headerBytes ((r.header.drop 4).take 2)))

/-- The checks of a request before it is performed: authentication, then sequence; each that fails is a security event. One that passes is
accepted, and its packet's phase noted. -/
def State.ptAccept (s : State) (r : PtRequest) (perform : State → List Byte → State) : State :=
  let q := s.vault.transfer
  match s.ptOpens r with
  | none => s.secEvent.ptAnswer r (-2) []
  | some payload =>
    if r.sequence ≠ s.vault.ptNext then s.secEvent.ptAnswer r (-3) []
    else
      let s := { s with vault := { s.vault with transfer := q.accept r.phase, ptNext := s.vault.ptNext + 1 } }
      if r.clean then perform s payload else s.ptAnswer r Word.minusOne []

/-- The request at the head performed if it is of an op. -/
def State.ptServe (s : State) (op : Nat → Bool) (perform : State → PtRequest → List Byte → State) : Out :=
  match s.ptRequest with
  | none => .next s
  | some r => if op r.op then .next (s.ptAccept r (fun s p => perform s r p)) else .next s

/-- The register that a request's address names: its page and offset, none where R222 and R223 list none. -/
def PtRequest.register (r : PtRequest) : Option (Nat × Nat) :=
  let bar := if r.address / 2 ^ 63 = 1 then 2 else 0
  let off := r.address % 2 ^ 63
  if bar = 2 then (if privateOffsets.contains off then some (2, off) else none)
  else if sharedOffsets.contains off || (inMailbox off && off % 8 == 0) then some (0, off) else none

/-- PT_REGISTER_READ; it also answers a request whose op names nothing. -/
def execPtRegisterRead (s : State) : Out :=
  s.ptServe (fun n => n == 1 || n == 0 || decide (6 ≤ n)) (fun s r _ =>
    match r.register with
    | some (bar, off) => s.ptAnswer r 0 (natBytes 8 (s.readBar bar off 8))
    | none => s.ptAnswer r Word.minusOne [])

def execPtRegisterWrite (s : State) : Out :=
  s.ptServe (· == 2) (fun s r p =>
    match r.register with
    | some (bar, off) =>
      if p.length = 8 then (s.writeBar bar off 8 (BitVec.ofNat 64 (bytesNat p))).ptAnswer r 0 [] else s.ptAnswer r Word.minusOne []
    | none => s.ptAnswer r Word.minusOne [])

/-- Whether a key index is the world key of a protected world whose tenant registered this session's requester (R226). -/
def State.indexAllowed (s : State) (i : Nat) : Bool :=
  match s.vault.mailbox.requester with
  | none => false
  | some q => s.launches.any (fun (e : Nat × Launch) =>
      e.2.worldKey == some i && (Tbl.get {} s.vault.tenants (e.2.field 1 8 8)).requesters.contains q)

/-- Whether the request at the head reaches a line that an IRREVOCABLE region holds: its access waits at the home (R130). -/
def State.ptHeld (s : State) : Bool :=
  match s.ptRequest with
  | none => false
  | some r => s.inHbm r.address r.length && s.physicalHeld r.address r.length

/-- Whether a memory request may be performed. -/
def State.ptMemory (s : State) (r : PtRequest) : Bool :=
  let pages := (List.range ((r.address % 65536 + r.length + 65535) / 65536)).map (fun i => r.address / 65536 + i)
  r.address % 64 == 0 && s.inHbm r.address r.length && decide (r.index < 64) && (r.index == 0 || s.indexAllowed r.index) &&
    !s.vault.sealed.any (fun (x : SealedRegion) => pages.any x.pages.contains) && !pages.any s.bodyPages.contains

def execPtMemoryWrite (s : State) : Out :=
  if s.ptHeld then .next s
  else
    s.ptServe (· == 3) (fun s r p =>
      if s.ptMemory r && p.length = r.length then
        (s.writePhysical (Tbl.get 0 s.vault.indices r.index) r.address p).ptAnswer r 0 []
      else s.ptAnswer r Word.minusOne [])

def execPtMemoryRead (s : State) : Out :=
  if s.ptHeld then .next s
  else
    s.ptServe (· == 4) (fun s r _ =>
      if s.ptMemory r then s.ptAnswer r 0 (s.readBytes (Tbl.get 0 s.vault.indices r.index) r.address r.length)
      else s.ptAnswer r Word.minusOne [])

/-- Whether the request at the head is a second rekey before the old slot is zeroed: it would be accepted, and does not itself zero the slot (R210,
step 4). -/
def State.rekeyWaits (s : State) : Bool :=
  match s.ptRequest with
  | none => false
  | some r =>
    (match s.ptOpens r with | some p => p.length == 32 | none => false) && r.op == 5 && r.clean && r.sequence == s.vault.ptNext &&
      (s.vault.transfer.accept r.phase).pending.isSome

/-- PT_REKEY: the new key, its first byte the lowest, installed in the pending slot; a second one waits until the old slot has been zeroed
(R210). -/
def execPtRekey (s : State) : Out :=
  if s.rekeyWaits then .next s
  else
    s.ptServe (· == 5) (fun s r p =>
      if p.length = 32 then
        State.ptAnswer { s with vault := { s.vault with transfer := s.vault.transfer.install (2 * bytesNat p + 1) } } r 0 []
      else s.ptAnswer r Word.minusOne [])

/-! ## WAKE (R212, R231) -/

def State.wakeLaunch (s : State) (tag : Nat) : State :=
  match s.launch? tag with
  | some l => if l.state = .absent && !l.forRebuild then s.setLaunch tag { l with returning := true } else s
  | none => s

/-- Every SPDM session gone, with its keys; the debug sessions end (R212). -/
def State.dropSessions (s : State) : State :=
  State.endSessions { s with vault := { s.vault with mailbox := {}, transfer := {}, ethernet := [], debug := [] } }

/-- WAKE: absent launches are brought back, and every SPDM session must be established anew. -/
def execWake (s : State) : Out :=
  if !s.vault.dormant then .next s
  else
    let s := s.dropSessions
    let s := { s with host := { s.host with powerCtl := 0 }, vault := { s.vault with dormant := false } }
    .next ((s.launches.map (·.1)).foldl State.wakeLaunch s)

/-! ## Boot (R20, R227) -/

/-- The column of a tile, with its half of the package: each compute die holds three rows of clusters, and one spare for each of its six
columns (R9, R10, R20). -/
def columnOf (unit : Nat) : Nat := if unit < 288 then clusterOf unit / 6 / 3 * 6 + clusterOf unit % 6 else unit - 288

/-- Whether the failures of self-test can be repaired: at most one in each column, its spare included. -/
def repairable (failed : List Nat) : Bool :=
  (List.range 12).all (fun c => decide (((failed.dedup).filter (fun u => columnOf u == c)).length ≤ 1))

/-- Every tile in service, with its spare. -/
def State.serveTiles (s : State) (failed : List Nat) : State :=
  { s with tiles := Tbl.tabulate {} 288 (fun u => { inService := true, spare := failed.contains u }) }

/-- The clear routine on every tile: every on-chip structure zero, with no mark (R227, step 6). -/
def State.clearChip (s : State) : State :=
  { s with ctxs := Tbl.clear s.ctxs 0 (288 * 32), cores := Tbl.clear s.cores 0 (288 * 4), tiles := [], clusters := [], opmem := [],
           mem := Tbl.clear s.mem (scratchKey 0 0) (poolKey 36 0), bad := Tbl.clear s.bad (scratchKey 0 0) (poolKey 36 0),
           dir := [], versions := [] }

/-- The image as it arrives over the network from the location that the provisioning record names, while the device boots and its delay has passed. -/
def State.fetchImage (s : State) (i : Image) : State :=
  if s.vault.booted || s.cycle < s.vault.retryAt || i.url ≠ s.vault.url then s else { s with vault := { s.vault with image := some i } }

/-- Whether an image verifies: the vendor root key of the fused hash, the firmware key under it, the image with its revision under that, and a
revision that is not below the fused minimum (R227; log entry 83). -/
def Vault.verifies (v : Vault) (i : Image) : Bool :=
  sha384 i.rootKey == v.rootHash && ecdsaHolds i.rootKey i.firmwareKey i.keySignature &&
    ecdsaHolds i.firmwareKey (natBytes 8 i.revision ++ i.body) i.signature && decide (v.fusedMinimum ≤ i.revision)

/-- The first keys of a port and of an inbox stream, as training and the forming of the domain leave them. -/
def trainedPort (n : Nat) : Port :=
  { key := (List.range 32).map (Config.portKeyByte n 0), out := { keys := [(0, (List.range 32).map (Config.portKeyByte n 1))] } }

def formedStream (n : Nat) : Stream :=
  { key := (List.range 32).map (Config.streamKeyByte n 0), out := { keys := [(0, (List.range 32).map (Config.streamKeyByte n 1))] } }

/-- The links trained, and the stewards' channel to the vault keyed (R209, R210, R227). -/
def State.trainLinks (s : State) : State :=
  { s.fresh with ports := Tbl.tabulate {} 64 trainedPort, streams := Tbl.tabulate {} (min s.packages 288) formedStream,
                 vault := { s.vault with steward := { active := some (2 * s.nextId) } } }

/-- The image measured and run. -/
def State.runImage (s : State) (i : Image) : State :=
  let h := sha384 i.body
  { s with vault := { s.vault with booted := true, image := none, lastGood := h, minRevision := s.vault.fusedMinimum,
                                   measurements := Tbl.set [] s.vault.measurements 2 h } }

/-- A fetch or a verification that failed: what was fetched is discarded, and the next attempt may be made after a delay, from one second, 1.4 x 10^9
cycles, doubling up to 64. -/
def State.bootFailed (s : State) : State :=
  let n := if s.vault.retryDelay = 0 then 1 else min 64 (2 * s.vault.retryDelay)
  { s with vault := { s.vault with retryDelay := n, retryAt := s.cycle + 1400000000 * n, image := none } }

/-- BOOT: an image that verifies is measured and run; the links are trained; self-test of the 300 tiles gives the failed ones, and a column
with two cannot be repaired, which is reported; the tiles are cleared. An image that does not verify never runs. -/
def execBoot (failed : List Nat) (s : State) : Out :=
  match s.vault.image with
  | none => .next s
  | some i =>
    if s.vault.booted || s.cycle < s.vault.retryAt then .next s
    else if !s.vault.verifies i then .next s.bootFailed
    else
      let ok := repairable failed
      let s := (s.runImage i).trainLinks.clearChip
      let s := { s with host := { s.host with bootStatus := if ok then 1 else 2, tileCount := if ok then 288 else 0,
                                              selfTest := if ok then [] else failed } }
      .next ((if ok then s.serveTiles failed else s).raiseMsix 2)

/-- BOOT_RETRY. -/
def execBootRetry (s : State) : Out := .next (if s.vault.booted then s else s.bootFailed)

end Sys2Proof.Machine
end

