-- ==== Sys2Proof/Machine/Readroom.lean ====
section
/-!
DEFINITION. Sys2Proof/Machine/Readroom.lean: the debug service (R193, R228, R242, R274). Each command appends an answer; an answer of -1 alone
refuses it.
-/

namespace Sys2Proof.Machine

/-- What a client is shown, as bytes: of each value whether it is a location, then its 8 bytes (log entry 52). -/
def Shown.bytes : Shown → List Byte
  | .value x => 0 :: natBytes 8 x.toNat
  | .mapped loc => 1 :: natBytes 8 loc

/-- An answer to the client whose command it is; one under a key travels as a sealed message of its session, which alone is sent (R193). -/
def State.answer (s : State) (key : Option Nat) (xs : List Shown) : State :=
  match key with
  | none => s.answerTo s.readroom.client none xs
  | some id =>
    let x := s.session .ethernet
    (s.setSession .ethernet { x with given := x.given + 1 }).putAnswer
      { client := s.readroom.client, key := key, shown := [], sealed := secured id 1 x.given 0 (xs.flatMap Shown.bytes) }

/-- Values as they are. -/
def shown (ws : List Word) : List Shown := ws.map Shown.value

def State.done0 (s : State) (w : Word) : State := s.answer none [.value w]

def State.refuse (s : State) : Out := .next (s.done0 Word.minusOne)

/-- The session of the client whose command it is. -/
def State.mine (s : State) : Session := s.client s.readroom.client

def State.setMine (s : State) (x : Session) : State := s.setClient s.readroom.client x

/-! ## The session -/

/-- A context stopped for the session where it stands (R162); one that waits for the answer of an instruction already sent stops when it has
come (log entry 22). -/
def State.holdCtx (s : State) (k : Nat) : State :=
  if s.lateStops k && (s.ctx k).state != .dormant then
    s.stopCtx k { cause := 0x12, subcode := 0, faultPc := (s.ctx k).pc, faultAddr := 0, word := 0, resumePc := (s.ctx k).pc, held := true }
  else s

/-- ATTACH: a job that has not ended and that no session holds, within an SPDM session; its launches are held until CONTINUE (R242, R275). -/
def execRrAttach (job : Word) (s : State) : Out :=
  if !(s.session .ethernet).established || s.mine.job.isSome then s.refuse
  else
    match s.jobs.find? (fun (e : Nat × Job) => nth 0 e.2.desc 0 == job && e.2.status.isNone) with
    | none => s.refuse
    | some e =>
      if (s.sessionOf e.1).isSome then s.refuse
      else .next (((s.jobContexts e.1).foldl State.holdCtx (s.setMine { s.mine with job := some e.1, stopped := true })).done0 0)

/-- BREAK: the breakpoint's number is answered. -/
def execRrBreak (loc : Nat) (s : State) : Out :=
  let x := s.mine
  if x.job.isNone then s.refuse
  else
    .next ((s.setMine { x with breakpoints := x.breakpoints ++ [(x.nextBreak + 1, loc)], nextBreak := x.nextBreak + 1 }).done0
      (BitVec.ofNat 64 (x.nextBreak + 1)))

/-- DELETE: the breakpoint of a number. -/
def execRrDelete (n : Nat) (s : State) : Out :=
  let x := s.mine
  if x.job.isNone || !x.breakpoints.any (fun b => b.1 == n) then s.refuse
  else .next ((s.setMine { x with breakpoints := x.breakpoints.filter (fun b => b.1 != n) }).done0 0)

/-- STOP. -/
def execRrStop (s : State) : Out :=
  match s.mine.job with
  | none => s.refuse
  | some job => .next (((s.jobContexts job).foldl State.holdCtx (s.setMine { s.mine with stopped := true })).done0 0)

/-- CONTINUE. -/
def execRrContinue (s : State) : Out := if s.mine.job.isNone then s.refuse else .next ((s.continueHeld s.readroom.client).done0 0)

/-- QUIT. -/
def execRrQuit (s : State) : Out := .next (s.endSession s.readroom.client)

/-- The loss of the connection, and of the SPDM session that it carried. -/
def execRrDisconnect (s : State) : Out := .next (s.dropSession .ethernet)

/-! ## What a client may see (R193, R274) -/

/-- The launches of the session's job that hold, or held, tiles. -/
def State.seenLaunches (s : State) : List (Nat × Launch) :=
  match s.mine.job with
  | none => []
  | some job => s.launches.filter (fun (e : Nat × Launch) => e.2.job == job && (e.2.state == .resident || e.2.state == .absent))

/-- Whether a home is no scratchpad, or that of a tile on which no context runs (R193: the scratchpad of STOPPED contexts). -/
def State.homeRests (s : State) : Home → Bool
  | .tile u => (List.range 32).all (fun i => (s.ctx (u * 32 + i)).act.isNone || (s.ctx (u * 32 + i)).stop.isSome)
  | _ => true

/-- Bytes at virtual addresses of a launch, read through its tables as its handlers would; none where they cannot, or where a scratchpad is not
at rest and must be. -/
def State.readLaunch (s : State) (tag : Nat) (l : Launch) (va : Word) (n : Nat) (rests : Bool) : Option (List Byte) :=
  let u := nth 0 l.units 0
  let s := s.engineFor u tag
  match s.locate (engineAgent u) .load va n with
  | .ok (ps, s) =>
    if !rests || ps.all (fun p => s.homeRests p.home) then some (ps.flatMap (fun p => s.readBytes p.kid p.key p.len)) else none
  | .error _ => none

/-- Whether a launch's bindings hold a consent that a key of its tenant signed for its job (R193): the job's identifier, then a signature
block of 144 bytes (log entry 34). -/
def State.consented (s : State) (tag : Nat) (l : Launch) : Bool :=
  (l.bindings.filter (fun b => field b.2.1 28 4 == 6)).any (fun b =>
    match s.readLaunch tag l b.2.2 152 false with
    | none => false
    | some bs =>
      decide (BitVec.ofNat 64 (bytesNat (bs.take 8)) = nth 0 l.record 17) &&
        (Tbl.get {} s.vault.tenants (l.field 1 8 8)).signed (bs.take 8) (bs.drop 8))

/-- Whether a launch's registers, folios and memory may be shown. -/
def State.visible (s : State) (tag : Nat) (l : Launch) : Bool := !l.protected_ || s.consented tag l

/-- The key under which state of a launch travels: the session's where the launch is protected (R193). -/
def State.showKey (s : State) (l : Launch) : Option Nat := if l.protected_ then (s.channel .debug).active else none

/-- The bytes of a launch's body mapping. -/
def State.bodySpan (s : State) (l : Launch) : Nat := match s.bodyOf l with | some b => 65536 * b.pages.length | none => 0

/-- A value as a client sees it: an address inside the launch's body mapping is replaced by the portable location that MAP ties to it. -/
def State.hideBody (s : State) (l : Launch) (x : Word) : Shown :=
  match s.capsuleOf l with
  | some c => if l.body ≤ x.toNat && x.toNat < l.body + s.bodySpan l then .mapped (c.portableAt (x.toNat - l.body)) else .value x
  | none => .value x

/-- The launch of a core that the session holds. -/
def State.seenAt (s : State) (core : Nat) : Option (Nat × Launch) :=
  s.seenLaunches.find? (fun e => e.2.units.contains (core / 4))

/-- A context of the session, STOPPED, whose state may be shown, with its launch. -/
def State.seenCtx (s : State) (core n : Nat) : Option Launch :=
  match s.seenAt core with
  | none => none
  | some (tag, l) =>
    if n < 8 && (s.ctx (core * 8 + n)).stop.isSome && (s.ctx (core * 8 + n)).launch = tag && s.visible tag l then some l else none

/-- The doublewords of a vector register. -/
def vecWords (v : Vec) : List Word :=
  (List.range 64).map (fun i => BitVec.ofNat 64 ((Tbl.get 0 v (2 * i)).toNat + 2 ^ 32 * (Tbl.get 0 v (2 * i + 1)).toNat))

/-- The registers of a context: PC, w0 to w63, ix, ox, the masks' halves, v0 to v31. -/
def Ctx.registers (c : Ctx) : List Word :=
  c.pc :: ((List.range 64).map c.getW ++ (List.range 4).map c.getIx ++ (List.range 8).map c.getOx ++
    (List.range 8).flatMap (fun i => [half (c.getM i) 0, half (c.getM i) 1]) ++ (List.range 32).flatMap (fun i => vecWords (c.getV i)))

/-- REGS. -/
def execRrRegs (core ctx : Nat) (s : State) : Out :=
  match s.seenCtx core ctx with
  | none => s.refuse
  | some l => .next (s.answer (s.showKey l) ((s.ctx (core * 8 + ctx)).registers.map (s.hideBody l)))

/-- FOLIO: its doublewords, once it has been written. -/
def execRrFolio (core ctx : Nat) (s : State) : Out :=
  let k := core * 8 + ctx
  match s.seenCtx core ctx, (s.ctx k).stop with
  | some l, some st =>
    match (s.folioVa k).bind (s.readFolio k) with
    | none => s.refuse
    | some (f, _) =>
      if st.written then .next (s.answer (s.showKey l) ((List.range 2304).map (fun i => s.hideBody l (f.dword i)))) else s.refuse
  | _, _ => s.refuse

/-- Bytes as a client sees them: the doubleword of an address inside the body mapping is replaced by its location, whichever of its bytes
are asked for. -/
def State.showBytes (s : State) (tag : Nat) (l : Launch) (va : Nat) : List Byte → List Shown
  | [] => []
  | b :: r =>
    let this := match s.readLaunch tag l (BitVec.ofNat 64 (va / 8 * 8)) 8 true with
      | none => Shown.value (b.setWidth 64)
      | some d =>
        match s.hideBody l (BitVec.ofNat 64 (bytesNat d)) with
        | .mapped loc => .mapped loc
        | .value _ => .value (b.setWidth 64)
    this :: s.showBytes tag l (va + 1) r

/-- MEM: refused whole where it touches a body page, a scratchpad of contexts that run, or where no launch of the session that may be shown
could load the bytes itself. -/
def execRrMem (addr n : Nat) (s : State) : Out :=
  match s.seenLaunches.findSome? (fun e =>
      if s.visible e.1 e.2 then (s.readLaunch e.1 e.2 (BitVec.ofNat 64 addr) n true).map (fun bs => (e, bs)) else none) with
  | none => s.refuse
  | some ((tag, l), bs) => .next (s.answer (s.showKey l) (s.showBytes tag l addr bs))

/-- RING: a core's coprocessor ring, or of a protected launch the count of its entries. -/
def execRrRing (core : Nat) (s : State) : Out :=
  match s.seenAt core with
  | none => s.refuse
  | some (tag, l) =>
    let es := ((s.core core).cring.filter (fun (e : Nat × RingEntry) => e.2.used && e.2.launch == tag)).map (fun e => e.2)
    if s.visible tag l then
      .next (s.answer (s.showKey l) (es.flatMap (fun (e : RingEntry) => [s.hideBody l e.pc,
        .value (BitVec.ofNat 64 (e.word.toNat * 2 ^ 32 + e.seq * 65536 + e.ctx * 256 + boolNat e.faulted * 2 + boolNat e.retired))])))
    else .next (s.answer none (shown [BitVec.ofNat 64 es.length]))

/-- The four doublewords of a task record (R98). -/
def taskWords (r : TaskRec) : List Word := [r.header, r.dword1, r.arg0, r.arg1]

/-- One answer for each launch of the session. -/
def State.showEach (s : State) (f : Nat → Launch → Option Nat × List Shown) : Out :=
  if s.mine.job.isNone then s.refuse
  else .next (s.seenLaunches.foldl (fun (t : State) e => t.answer (f e.1 e.2).1 (f e.1 e.2).2) s)

/-- A list of task records as a client sees it: their number, then each. -/
def State.showRecords (s : State) (l : Launch) (rs : List TaskRec) : List Shown :=
  .value (BitVec.ofNat 64 rs.length) :: rs.flatMap (fun r => (taskWords r).map (s.hideBody l))

/-- The contexts of a core that run tasks (R98). -/
def State.tasksOn (s : State) (core : Nat) : List Nat :=
  ((List.range 8).map (fun n => core * 8 + n)).filter (fun k => match (s.ctx k).act with | some a => Word.field a.header 21 3 == 1 | none => false)

/-- A running task: its context's number, its bucket, and its region's slot in the directory, or -1. -/
def State.taskShown (s : State) (k : Nat) : List Word :=
  [BitVec.ofNat 64 (numOf k), BitVec.ofNat 64 (match (s.ctx k).act with | some a => a.bucket | none => 0),
    match (s.ctx k).region with | some r => BitVec.ofNat 64 r.slot | none => Word.minusOne]

/-- The worklist of a core: its place and floor; its deque, its list of the Stacks with what is gathered for it, and the pushes not yet placed, each
as records; and its running tasks. -/
def State.coreWorklist (s : State) (tag : Nat) (l : Launch) (a : Nat) : List Shown :=
  let c := s.core a
  let answer := match c.stealAnswer with | some (some r) => [r] | _ => []
  shown [BitVec.ofNat 64 (s.placeOf a), BitVec.ofNat 64 c.floor] ++ s.showRecords l c.deque ++
    s.showRecords l (c.chunks.flatMap (s.readChunk tag) ++ c.gathered) ++ s.showRecords l (c.pushes.map (fun p => p.record) ++ answer) ++
    shown (BitVec.ofNat 64 (s.tasksOn a).length :: (s.tasksOn a).flatMap s.taskShown)

/-- WL: of each launch its tag and the worklist of each core; of a protected one the numbers of running tasks and of records. -/
def execRrWl (s : State) : Out :=
  s.showEach (fun tag l =>
    if s.visible tag l then (s.showKey l, shown [BitVec.ofNat 64 tag] ++ l.agents.flatMap (s.coreWorklist tag l))
    else (none, shown [BitVec.ofNat 64 (l.agents.flatMap s.tasksOn).length, BitVec.ofNat 64 (l.agents.flatMap (fun a => (s.core a).records)).length]))

/-- A directory slot: its number and its owner's context, then its doublewords ctl, key, order, seq, pred, src and clo (R119). -/
def State.slotWords (s : State) (n : Nat) (d : DirSlot) : List Word :=
  let phase := match d.phase with | .free => 0 | .active => 1 | .irrevocable => 2 | .committing => 3 | .aborting => 4
  let set := fun (x : BitVec 256) => (List.range 4).map (fun i => x.extractLsb' (64 * i) 64)
  [BitVec.ofNat 64 n, BitVec.ofNat 64 (numOf d.ctx),
    BitVec.ofNat 64 (phase * 2 ^ 61 + boolNat d.ordered * 2 ^ 60 + d.inDepth * 2 ^ 56 + d.outDepth * 2 ^ 52 + d.launch % 65536 * 2 ^ 36 +
      s.placeOf (coreOf d.ctx) % 2 ^ 21 * 2 ^ 15 + min d.aborts 255 * 2 ^ 7),
    BitVec.ofNat 64 (d.bucket % 2 ^ 32 * 2 ^ 32 + d.pkg % 512 * 2 ^ 23), BitVec.ofNat 64 d.order, BitVec.ofNat 64 d.beginAt] ++
    set d.pred ++ set d.src ++ set d.clo

/-- The region state of a launch beside its slots: its tag, its cascade bound, and its counts of forwards granted and withheld, of aborts by cycle
and by cascade. -/
def Launch.regionShown (tag : Nat) (l : Launch) : List Word :=
  [BitVec.ofNat 64 tag, BitVec.ofNat 64 (l.field 5 30 4)] ++ [4, 5, 6, 7].map (fun i => BitVec.ofNat 64 (Tbl.get 0 l.counters i))

/-- REGION: the region state of each launch and its slots in the region directory, or of a protected one their number. -/
def execRrRegion (s : State) : Out :=
  s.showEach (fun tag l =>
    let ds := s.dir.filter (fun (d : Nat × DirSlot) => d.2.launch == tag)
    if s.visible tag l then (s.showKey l, shown (l.regionShown tag ++ ds.flatMap (fun d => s.slotWords d.1 d.2)))
    else (none, shown [BitVec.ofNat 64 ds.length]))

end Sys2Proof.Machine
end

