-- ==== Sys2Proof/Machine/RegionOps.lean ====
section
/-!
DEFINITION. Sys2Proof/Machine/RegionOps.lean: FRBEG, FRCOM, FRABT and FRSTAT (R115, R116, R127 to R129), the fixed edges of
ordered regions (R123), the merge at a home (R127) and the closure rows recomputed (R124).
-/

namespace Sys2Proof.Machine

/-- The lowest FREE slot of the directory (R116). -/
def State.freeSlot (s : State) : Option Nat := (List.range 256).find? (fun n => (s.slot n).phase == .free)

/-- The slot of a region that a context opens (R114, R119). In a tile task, which has no bucket and no push sequence, an ordered region's key holds
those that a new Act has (DESIGN CHOICE, log entry 94). -/
def State.newSlot (s : State) (k : Nat) (ordered : Bool) (aborts : Nat) : DirSlot :=
  let c := s.ctx k
  let a : Act := c.act.getD {}
  { phase := .active, ordered := ordered, launch := c.launch, ctx := k, aborts := aborts, bucket := a.bucket,
    pkg := if ordered then a.pkg else s.package, order := if ordered then a.seq else s.beginSeq, beginAt := s.beginSeq }

/-- The checkpoint of a context at its FRBEG (R116). -/
def Ctx.checkpoint (c : Ctx) (slot beginAt : Nat) : OpenRegion :=
  { slot := slot, beginAt := beginAt, sblk := c.sblk, w := c.w, wbad := c.wbad, ix := c.ix, ox := c.ox, m := c.m, pc := c.pc,
    vblk := c.vblk }

/-- The fixed edges between a new ordered region and the other open ordered regions of its launch (R123). -/
def State.fixedEdges (s : State) (n : Nat) : List Nat → State
  | [] => s
  | x :: r =>
    let d := s.slot x
    let first := d.phase == .committing || d.phase == .irrevocable || (s.slot n).younger d
    (if first then s.addEdge x n 257 else s.addEdge n x 257).fixedEdges n r

def State.orderedPeers (s : State) (n : Nat) : List Nat :=
  (s.dir.filter (fun e => e.1 != n && e.2.ordered && e.2.launch == (s.slot n).launch)).map (·.1)

/-- FRBEG (R116): REGION_NEST inside a region, REGION_SCOPE for an ordered one outside a task; waits for ld = 0 and a slot. -/
def State.beginRegion (s : State) (d : BitVec 6) (ordered : Bool) : Out :=
  s.issue { writes := [d.toNat] } (fun s =>
    let c := s.ctx s.cur
    if c.region.isSome then s.trap 0xE 0
    else if ordered && Word.field (c.act.getD {}).header 21 3 != 1 then s.trap 0xD 0
    else if c.ld ≠ 0 then s.stall
    else
      match s.freeSlot with
      | none => s.stall
      | some n =>
        let aborts := if c.restarting then c.aborts else 0
        let s' := { s.setSlot n (s.newSlot s.cur ordered aborts) with beginSeq := s.beginSeq + 1 }
        let c' := { c with region := some (c.checkpoint n s.beginSeq), aborts := aborts, restarting := false }
        let s' := s'.done 4 (c'.setW d.toNat (BitVec.ofNat 64 aborts))
        .next (if ordered then s'.fixedEdges n (s'.orderedPeers n) else s'))

def execFrbegU (d : BitVec 6) (s : State) : Out := s.beginRegion d false

def execFrbegO (d : BitVec 6) (s : State) : Out := s.beginRegion d true

/-- The homes that hold a version of a slot. -/
def State.homesOf (s : State) (n : Nat) : List Home := ((s.versions.filter (fun v => v.slot == n)).map (·.home)).dedup

/-- The region committed: its slot is free and its bit goes from every row; wd says whether it was IRREVOCABLE (R127). -/
def State.endCommit (s : State) (d n : Nat) : State :=
  let solid := (s.slot n).solid
  let s := s.sampleAt s.cur 8 (s.slot n).inDepth
  let s := { s with dir := freeSlots s.dir (slotBit n) }
  s.done 4 (({ s.ctx s.cur with region := none, aborts := 0 }).setW d (condWord solid))

/-- FRCOM: waits, in the background, for its accesses and predecessors, then for the merges at its homes (R127). -/
def execFrcom (d : BitVec 6) (s : State) : Out :=
  s.issue { writes := [d.toNat] } (fun s =>
    let c := s.ctx s.cur
    match c.region with
    | none => s.trap 0xE 0
    | some r =>
      let x := s.slot r.slot
      if x.phase = .committing then
        if x.homes.isEmpty then .next (s.endCommit d.toNat r.slot) else s.waitBackground
      else if c.ld ≠ 0 || c.st ≠ 0 || x.pred ≠ 0 then s.waitBackground
      else
        let homes := s.homesOf r.slot
        let s := s.setSlot r.slot { x with phase := .committing, homes := homes }
        if homes.isEmpty then .next (s.endCommit d.toNat r.slot) else s.waitBackground)

/-- FRABT: the region aborts with its cascade, and the context goes on behind it (R128). -/
def execFrabt (s : State) : Out :=
  s.issue {} (fun s =>
    let c := s.ctx s.cur
    match c.region with
    | none => s.trap 0xE 0
    | some r =>
      if (s.slot r.slot).solid then s.trap 0xE 0
      else
        let s := s.abortSlots (slotBit r.slot)
        .next (s.setCtx s.cur { s.ctx s.cur with pc := c.pc + 4, aborts := c.aborts, restarting := false,
                                                 state := c.running }))

/-- FRSTAT's word (R129). -/
def State.regionStatus (s : State) (r : OpenRegion) : Word :=
  let d := s.slot r.slot
  BitVec.ofNat 64 (2 ^ 63 + boolNat d.solid * 2 ^ 62 + boolNat d.ordered * 2 ^ 61 + r.slot % 256 * 2 ^ 48 +
    d.aborts % 256 * 2 ^ 40 + d.inDepth % 16 * 2 ^ 36 + min 15 (countOnes d.pred.toNat 256) * 2 ^ 32)

def execFrstat (d : BitVec 6) (s : State) : Out :=
  s.issue { writes := [d.toNat] } (fun s =>
    .next (s.result 4 d.toNat (match (s.ctx s.cur).region with
      | none => 0
      | some r => s.regionStatus r)))

/-! ## Steps of homes and of the directory -/

/-- A home merges every version of a committing region, indivisibly, and acknowledges (R127). -/
def execCommitMerge (slot : Nat) (home : Home) (s : State) : Out :=
  let d := s.slot slot
  if d.phase = .committing && d.homes.contains home then
    let mine := fun (v : Version) => v.slot == slot && v.home == home
    let merged := s.versions.filter mine
    let s' := s.mergeVersions merged
    let d := { d with homes := d.homes.erase home,
                      touched := if d.solid then merged.map (fun v => (home, v.line)) ++ d.touched else d.touched }
    .next ({ s' with versions := s.versions.filter (fun v => !mine v) }.setSlot slot d)
  else .next s

/-- One pass of the closure: what each slot reaches through its successors, an edge A→B standing in pred of B. -/
def closePass (dir : Tbl DirSlot) : Tbl DirSlot :=
  dir.map (fun e => (e.1, { e.2 with clo := dir.foldl (fun m b =>
    if b.2.pred.getLsbD e.1 then m ||| slotBit b.1 ||| b.2.clo else m) e.2.clo }))

def closePasses (dir : Tbl DirSlot) : Nat → Tbl DirSlot
  | 0 => dir
  | n + 1 => closePasses (closePass dir) n

/-- The directory's closure rows recomputed from its edges (R124). -/
def execClosureRecompute (s : State) : Out :=
  let bare := s.dir.map (fun e => (e.1, { e.2 with clo := (0 : BitVec 256) }))
  .next { s with dir := closePasses bare s.dir.length }

end Sys2Proof.Machine
end

