-- ==== Sys2Proof/Machine/ScalarFloat.lean ====
section
/-!
DEFINITION. Sys2Proof/Machine/ScalarFloat.lean: the scalar floating-point group (R298, R299).
-/

namespace Sys2Proof.Machine

/-- An F32 operation of the low words of two registers. -/
def onF32 (f : Word32 → Word32 → Word32) (x y : Word) : Word := wordOfF32 (f (lowF32 x) (lowF32 y))

/-- An F32 comparison of them. -/
def testF32 (f : Word32 → Word32 → Bool) (x y : Word) : Word := condWord (f (lowF32 x) (lowF32 y))

def execFadd (d a b : BitVec 6) (s : State) : Out := s.alu2 4 d.toNat a.toNat b.toNat (onF32 f32Add)
def execFsub (d a b : BitVec 6) (s : State) : Out := s.alu2 4 d.toNat a.toNat b.toNat (onF32 f32Sub)
def execFmul (d a b : BitVec 6) (s : State) : Out := s.alu2 4 d.toNat a.toNat b.toNat (onF32 f32Mul)
def execFdiv (d a b : BitVec 6) (s : State) : Out := s.alu2 4 d.toNat a.toNat b.toNat (onF32 f32Div)
def execFmin (d a b : BitVec 6) (s : State) : Out := s.alu2 4 d.toNat a.toNat b.toNat (onF32 f32Min)
def execFmax (d a b : BitVec 6) (s : State) : Out := s.alu2 4 d.toNat a.toNat b.toNat (onF32 f32Max)
def execFeq (d a b : BitVec 6) (s : State) : Out := s.alu2 4 d.toNat a.toNat b.toNat (testF32 f32Eq)
def execFlt (d a b : BitVec 6) (s : State) : Out := s.alu2 4 d.toNat a.toNat b.toNat (testF32 f32Lt)
def execFle (d a b : BitVec 6) (s : State) : Out := s.alu2 4 d.toNat a.toNat b.toNat (testF32 f32Le)

/-- FFMA reads wd; with w0 the addend is +0 (R299). -/
def execFfma (d a b : BitVec 6) (s : State) : Out :=
  s.issue { reads := [a.toNat, b.toNat, d.toNat], writes := [d.toNat] } (fun s =>
    .next (s.result 4 d.toNat (wordOfF32 (f32Fma (lowF32 (s.reg a)) (lowF32 (s.reg b)) (lowF32 (s.reg d))))))

def execFsqrt (d a : BitVec 6) (s : State) : Out := s.alu1 4 d.toNat a.toNat (fun x => wordOfF32 (f32Sqrt (lowF32 x)))

/-- FCVTWS: toward zero, clamped to 32 bits, sign-extended; a NaN gives 0. -/
def execFcvtws (d a : BitVec 6) (s : State) : Out :=
  s.alu1 4 d.toNat a.toNat (fun x => BitVec.ofInt 64 (clampInt 32 (toI32 false (valF32 (lowF32 x)))))

def execFcvtsw (d a : BitVec 6) (s : State) : Out := s.alu1 4 d.toNat a.toNat (fun x => wordOfF32 (f32OfInt x.toInt))

end Sys2Proof.Machine
end

