-- ==== Sys2Proof/Machine/Vector.lean ====
section
/-!
DEFINITION. Sys2Proof/Machine/Vector.lean: the vector instructions that work on registers: the integer group (R346), the compares
(R347), the conversions (R348, R140 to R142), the float group (R349), the permute group (R353), the reductions (R355, R137) and
the mask operations (R317), under the rules of R345.
-/

namespace Sys2Proof.Machine

/-! ## Shapes -/

/-- A vector instruction's work done on its context, its ring entry retired (R160, R345). -/
def State.vectorOp (s : State) (need : Need) (f : Ctx → Ctx) : Out :=
  s.coprocess need (fun s seq =>
    let s := s.ringRetire (coreOf s.cur) seq
    .next (s.done 4 (f (s.ctx s.cur))))

/-- The active lanes of a vector register written; an inactive lane keeps its value, and a mark stays with lanes not written
(R345, R171). -/
def Ctx.putLanes (c : Ctx) (d : Nat) (mask : BitVec 128) (f : Nat → Word32) : Ctx :=
  let old := c.getV d
  c.putV d (Vec.ofFn (fun i => if mask.getLsbD i then f i else old.lane i))
    (Tbl.get false c.vbad d && mask != BitVec.allOnes 128)

/-- A lane-by-lane operation of two vectors. -/
def State.lanes2 (s : State) (unit : UnitNeed) (d a b : BitVec 5) (m : BitVec 3) (f : Word32 → Word32 → Word32) : Out :=
  s.vectorOp { unit := unit, vreads := [a.toNat, b.toNat], vwrites := [d.toNat] } (fun c =>
    c.putLanes d.toNat (c.getM m.toNat) (fun i => f ((c.getV a.toNat).lane i) ((c.getV b.toNat).lane i)))

/-- A lane-by-lane operation of one vector. -/
def State.lanes1 (s : State) (unit : UnitNeed) (d a : BitVec 5) (m : BitVec 3) (f : Word32 → Word32) : Out :=
  s.vectorOp { unit := unit, vreads := [a.toNat], vwrites := [d.toNat] } (fun c =>
    c.putLanes d.toNat (c.getM m.toNat) (fun i => f ((c.getV a.toNat).lane i)))

/-- A lane-by-lane operation that reads its destination too. -/
def State.lanes3 (s : State) (d a b : BitVec 5) (m : BitVec 3) (f : Word32 → Word32 → Word32 → Word32) : Out :=
  s.vectorOp { unit := .vector, vreads := [a.toNat, b.toNat, d.toNat], vwrites := [d.toNat] } (fun c =>
    c.putLanes d.toNat (c.getM m.toNat) (fun i =>
      f ((c.getV a.toNat).lane i) ((c.getV b.toNat).lane i) ((c.getV d.toNat).lane i)))

/-- A compare: every bit of md is written, an inactive lane's with 0 (R347). -/
def State.compareLanes (s : State) (d : BitVec 3) (a b : BitVec 5) (m : BitVec 3) (f : Word32 → Word32 → Bool) : Out :=
  s.vectorOp { unit := .vector, vreads := [a.toNat, b.toNat] } (fun c =>
    let mask := c.getM m.toNat
    c.putM d.toNat (maskOf (fun i => mask.getLsbD i && f ((c.getV a.toNat).lane i) ((c.getV b.toNat).lane i))))

/-! ## The integer group (R346) -/

/-- A shift count: y[4:0]. -/
def laneShift (y : Word32) : Nat := y.toNat % 32

def execVadd (d a b : BitVec 5) (m : BitVec 3) (s : State) : Out := s.lanes2 .vector d a b m (fun x y => x + y)
def execVadds (d a b : BitVec 5) (m : BitVec 3) (s : State) : Out := s.lanes2 .vector d a b m (fun x y => clamp32 (x.toInt + y.toInt))
def execVsub (d a b : BitVec 5) (m : BitVec 3) (s : State) : Out := s.lanes2 .vector d a b m (fun x y => x - y)
def execVsubs (d a b : BitVec 5) (m : BitVec 3) (s : State) : Out := s.lanes2 .vector d a b m (fun x y => clamp32 (x.toInt - y.toInt))
def execVmul (d a b : BitVec 5) (m : BitVec 3) (s : State) : Out := s.lanes2 .vector d a b m (fun x y => x * y)
def execVmulh (d a b : BitVec 5) (m : BitVec 3) (s : State) : Out := s.lanes2 .vector d a b m (fun x y => w32 (x.toInt * y.toInt / 2 ^ 32))
def execVmulhu (d a b : BitVec 5) (m : BitVec 3) (s : State) : Out := s.lanes2 .vector d a b m (fun x y => BitVec.ofNat 32 (x.toNat * y.toNat / 2 ^ 32))
def execVand (d a b : BitVec 5) (m : BitVec 3) (s : State) : Out := s.lanes2 .vector d a b m (fun x y => x &&& y)
def execVor (d a b : BitVec 5) (m : BitVec 3) (s : State) : Out := s.lanes2 .vector d a b m (fun x y => x ||| y)
def execVxor (d a b : BitVec 5) (m : BitVec 3) (s : State) : Out := s.lanes2 .vector d a b m (fun x y => x ^^^ y)
def execVshl (d a b : BitVec 5) (m : BitVec 3) (s : State) : Out := s.lanes2 .vector d a b m (fun x y => x <<< laneShift y)
def execVshr (d a b : BitVec 5) (m : BitVec 3) (s : State) : Out := s.lanes2 .vector d a b m (fun x y => x >>> laneShift y)
def execVsha (d a b : BitVec 5) (m : BitVec 3) (s : State) : Out := s.lanes2 .vector d a b m (fun x y => x.sshiftRight (laneShift y))
def execVmin (d a b : BitVec 5) (m : BitVec 3) (s : State) : Out := s.lanes2 .vector d a b m (fun x y => if y.slt x then y else x)
def execVmax (d a b : BitVec 5) (m : BitVec 3) (s : State) : Out := s.lanes2 .vector d a b m (fun x y => if x.slt y then y else x)
def execVminu (d a b : BitVec 5) (m : BitVec 3) (s : State) : Out := s.lanes2 .vector d a b m (fun x y => if y.ult x then y else x)
def execVmaxu (d a b : BitVec 5) (m : BitVec 3) (s : State) : Out := s.lanes2 .vector d a b m (fun x y => if x.ult y then y else x)

/-! ## The compares (R347) -/

def execVfcmpEq (d : BitVec 3) (a b : BitVec 5) (m : BitVec 3) (s : State) : Out := s.compareLanes d a b m f32Eq
def execVfcmpLt (d : BitVec 3) (a b : BitVec 5) (m : BitVec 3) (s : State) : Out := s.compareLanes d a b m f32Lt
def execVfcmpLe (d : BitVec 3) (a b : BitVec 5) (m : BitVec 3) (s : State) : Out := s.compareLanes d a b m f32Le
def execVfcmpUn (d : BitVec 3) (a b : BitVec 5) (m : BitVec 3) (s : State) : Out := s.compareLanes d a b m f32Un
def execVcmpEq (d : BitVec 3) (a b : BitVec 5) (m : BitVec 3) (s : State) : Out := s.compareLanes d a b m (fun x y => x == y)
def execVcmpLt (d : BitVec 3) (a b : BitVec 5) (m : BitVec 3) (s : State) : Out := s.compareLanes d a b m (fun x y => x.slt y)
def execVcmpLtu (d : BitVec 3) (a b : BitVec 5) (m : BitVec 3) (s : State) : Out := s.compareLanes d a b m (fun x y => x.ult y)

/-! ## The float group (R349) -/

def execVfadd (d a b : BitVec 5) (m : BitVec 3) (s : State) : Out := s.lanes2 .vector d a b m f32Add
def execVfsub (d a b : BitVec 5) (m : BitVec 3) (s : State) : Out := s.lanes2 .vector d a b m f32Sub
def execVfmul (d a b : BitVec 5) (m : BitVec 3) (s : State) : Out := s.lanes2 .vector d a b m f32Mul
def execVfma (d a b : BitVec 5) (m : BitVec 3) (s : State) : Out := s.lanes3 d a b m f32Fma
def execVfms (d a b : BitVec 5) (m : BitVec 3) (s : State) : Out := s.lanes3 d a b m f32Fms
def execVfdiv (d a b : BitVec 5) (m : BitVec 3) (s : State) : Out := s.lanes2 .vector d a b m f32Div
def execVfsqrt (d a : BitVec 5) (m : BitVec 3) (s : State) : Out := s.lanes1 .vector d a m f32Sqrt
def execVfmin (d a b : BitVec 5) (m : BitVec 3) (s : State) : Out := s.lanes2 .vector d a b m f32Min
def execVfmax (d a b : BitVec 5) (m : BitVec 3) (s : State) : Out := s.lanes2 .vector d a b m f32Max
def execVfabs (d a : BitVec 5) (m : BitVec 3) (s : State) : Out := s.lanes1 .vector d a m f32Abs
def execVfneg (d a : BitVec 5) (m : BitVec 3) (s : State) : Out := s.lanes1 .vector d a m f32Neg
def execVfexps (d a b : BitVec 5) (m : BitVec 3) (s : State) : Out := s.lanes2 .vector d a b m f32Exps
def execVffloor (d a : BitVec 5) (m : BitVec 3) (s : State) : Out := s.lanes1 .vector d a m f32Floor

/-! ## The conversions (R140 to R142, R348) -/

/-- Element i of width bits in a vector whose elements lie packed from byte 0. -/
def Vec.elem (v : Vec) (bits i : Nat) : Nat := (v.lane (bits * i / 32)).toNat / 2 ^ (bits * i % 32) % 2 ^ bits

/-- The vector of 128 elements of a width packed from byte 0, the rest zero. -/
def Vec.pack (bits : Nat) (f : Nat → Nat) : Vec :=
  let per := 32 / bits
  Vec.ofFn (fun l =>
    if l * per < 128 then
      BitVec.ofNat 32 ((List.range per).foldr (fun j x => f (l * per + j) % 2 ^ bits * 2 ^ (bits * j) + x) 0)
    else 0)

/-- The widths in bits of the source and result elements of a conversion code. -/
def convSource (code : Nat) : Nat :=
  if code = 8 || code = 9 then 16 else if code = 10 || code = 11 || code = 13 then 8 else if code = 14 then 4 else 32

def convResult (code : Nat) : Nat :=
  if code = 0 || code = 1 then 16 else if code = 2 || code = 3 || code = 6 then 8 else if code = 7 then 4 else 32

/-- The code of KF8 whose zero has no sign. -/
def toKF8 (x : Word32) : Nat :=
  match valF32 x with
  | .nan => 0x80
  | v => if fmtKF8.saturate 0x80 v = 0x80 then 0 else fmtKF8.saturate 0x80 v

/-- An integer's code in n bits. -/
def codeOf (n : Nat) (x : Int) : Nat := (x % 2 ^ n).toNat

/-- One element converted (R140). -/
def convert (code x : Nat) : Nat :=
  let w := BitVec.ofNat 32 x
  if code = 0 then fmtBF16.saturate 0x7FC0 (valF32 w)
  else if code = 1 then fmtF16.saturate 0x7E00 (valF32 w)
  else if code = 2 then toKF8 w
  else if code = 3 then fmtKF6.saturate 0 (valF32 w)
  else if code = 4 then codeOf 32 (toI32 false (valF32 w))
  else if code = 5 then codeOf 32 (toI32 true (valF32 w))
  else if code = 6 then codeOf 8 (clampInt 8 w.toInt)
  else if code = 7 then codeOf 4 (clampInt 4 w.toInt)
  else if code = 8 then (toF32 (fmtBF16.value x)).toNat
  else if code = 9 then (toF32 (fmtF16.value x)).toNat
  else if code = 10 then (toF32 (valKF8 x)).toNat
  else if code = 11 then (toF32 (fmtKF6.value (x % 64))).toNat
  else if code = 12 then (f32OfInt w.toInt).toNat
  else if code = 13 then codeOf 32 (sextNat 8 x)
  else codeOf 32 (sextNat 4 x)

/-- VCVT: an element whose lane is masked off is written as zero; a code of 15 or more is no instruction (R256). -/
def execVcvt (d a : BitVec 5) (m : BitVec 3) (c : BitVec 6) (s : State) : Out :=
  if 15 ≤ c.toNat then s.trap 1 0
  else
    s.vectorOp { unit := .conversion, vreads := [a.toNat], vwrites := [d.toNat] } (fun x =>
      let v := x.getV a.toNat
      let mask := x.getM m.toNat
      x.putV d.toNat (Vec.pack (convResult c.toNat) (fun i =>
        if mask.getLsbD i then convert c.toNat (v.elem (convSource c.toNat) i) else 0)) false)

/-- A byte of the two planes of 128 KF6 containers (R141). -/
def packByte (v : Vec) (n : Nat) : Byte :=
  let e := fun i => (v.byte i).toNat % 64
  if n < 64 then BitVec.ofNat 8 (e (2 * n) / 4 + e (2 * n + 1) / 4 * 16)
  else if n < 96 then
    BitVec.ofNat 8 ((List.range 4).foldr (fun j x => e (4 * (n - 64) + j) % 4 * 4 ^ j + x) 0)
  else 0

/-- A byte container of the two planes. -/
def unpackByte (v : Vec) (i : Nat) : Byte :=
  if i < 128 then
    BitVec.ofNat 8 ((v.byte (i / 2)).toNat / 16 ^ (i % 2) % 16 * 4 + (v.byte (64 + i / 4)).toNat / 4 ^ (i % 4) % 4)
  else 0

/-- A vector rearranged whole. -/
def State.wholeVector (s : State) (d a : BitVec 5) (f : Vec → Vec) : Out :=
  s.vectorOp { unit := .conversion, vreads := [a.toNat], vwrites := [d.toNat] } (fun c =>
    c.putV d.toNat (f (c.getV a.toNat)) false)

def execVpk6 (d a : BitVec 5) (s : State) : Out := s.wholeVector d a (fun v => Vec.ofBytes (packByte v))
def execVupk6 (d a : BitVec 5) (s : State) : Out := s.wholeVector d a (fun v => Vec.ofBytes (unpackByte v))
def execVrfwd (d a : BitVec 5) (m : BitVec 3) (s : State) : Out := s.lanes1 .conversion d a m resFwd
def execVrrev (d a : BitVec 5) (m : BitVec 3) (s : State) : Out := s.lanes1 .conversion d a m resRev

/-! ## The reductions (R137, R355) -/

/-- One level of the tree: adjacent results combined. -/
def pairUp {α : Type} (f : α → α → α) : List α → List α
  | x :: y :: r => f x y :: pairUp f r
  | r => r

def reduceTree {α : Type} (f : α → α → α) : Nat → List α → List α
  | 0, l => l
  | n + 1, l => reduceTree f n (pairUp f l)

/-- A reduction of 128 lanes, an inactive one contributing zero: the result extended with its sign. -/
def State.reduce {α : Type} (s : State) (d a : BitVec 5) (m : BitVec 3) (lane : Word32 → α) (f : α → α → α) (out : Option α → Word) :
    Out :=
  s.vectorOp { unit := .vector, vreads := [a.toNat], writes := [d.toNat] } (fun c =>
    let v := c.getV a.toNat
    let mask := c.getM m.toNat
    c.setW d.toNat (out (reduceTree f 7 ((List.range 128).map (fun i => lane (if mask.getLsbD i then v.lane i else 0)))).head?))

def sext32 (x : Option Word32) : Word := (x.getD 0).signExtend 64

def execVredfadd (d a : BitVec 5) (m : BitVec 3) (s : State) : Out := s.reduce d a m id f32Add sext32
def execVredfmax (d a : BitVec 5) (m : BitVec 3) (s : State) : Out := s.reduce d a m id f32Max sext32
def execVredadd (d a : BitVec 5) (m : BitVec 3) (s : State) : Out :=
  s.reduce d a m (fun x => x.toInt) (fun x y => x + y) (fun x => BitVec.ofInt 64 (x.getD 0))
def execVredmax (d a : BitVec 5) (m : BitVec 3) (s : State) : Out :=
  s.reduce d a m id (fun x y => if x.slt y then y else x) sext32

/-! ## The permute group (R353) -/

def execVperm (d a b : BitVec 5) (m : BitVec 3) (s : State) : Out :=
  s.vectorOp { unit := .conversion, vreads := [a.toNat, b.toNat], vwrites := [d.toNat] } (fun c =>
    c.putLanes d.toNat (c.getM m.toNat) (fun i => (c.getV a.toNat).lane (((c.getV b.toNat).lane i).toNat % 128)))

def execVbcast (d a : BitVec 5) (m : BitVec 3) (s : State) : Out :=
  s.vectorOp { unit := .conversion, data := [a.toNat], vwrites := [d.toNat] } (fun c =>
    c.putLanes d.toNat (c.getM m.toNat) (fun _ => (c.getW a.toNat).setWidth 32))

def execVextr (d a b : BitVec 5) (s : State) : Out :=
  s.vectorOp { unit := .conversion, data := [b.toNat], vreads := [a.toNat], writes := [d.toNat] } (fun c =>
    c.setW d.toNat (((c.getV a.toNat).lane ((c.getW b.toNat).toNat % 128)).signExtend 64))

def execVins (d a b : BitVec 5) (s : State) : Out :=
  s.vectorOp { unit := .conversion, data := [a.toNat, b.toNat], vreads := [d.toNat], vwrites := [d.toNat] } (fun c =>
    c.putV d.toNat (Tbl.set 0 (c.getV d.toNat) ((c.getW b.toNat).toNat % 128) ((c.getW a.toNat).setWidth 32)) false)

def execViota (d : BitVec 5) (m : BitVec 3) (s : State) : Out :=
  s.vectorOp { unit := .conversion, vwrites := [d.toNat] } (fun c =>
    c.putV d.toNat (Vec.ofFn (fun i => BitVec.ofNat 32 (countOnes (c.getM m.toNat).toNat i))) false)

def execVsel (d a b : BitVec 5) (m : BitVec 3) (s : State) : Out :=
  s.vectorOp { unit := .conversion, vreads := [a.toNat, b.toNat], vwrites := [d.toNat] } (fun c =>
    c.putV d.toNat (Vec.ofFn (fun i => if (c.getM m.toNat).getLsbD i then (c.getV a.toNat).lane i else (c.getV b.toNat).lane i))
      false)

def execVmov (d a : BitVec 5) (m : BitVec 3) (s : State) : Out := s.lanes1 .conversion d a m id

/-! ## The mask operations (R317) -/

/-- A mask written where a governing mask is 1. -/
def Ctx.putMask (c : Ctx) (d k : Nat) (x : BitVec 128) : Ctx :=
  c.putM d ((x &&& c.getM k) ||| (c.getM d &&& ~~~ c.getM k))

def State.maskOp (s : State) (d a b m : BitVec 3) (f : BitVec 128 → BitVec 128 → BitVec 128) : Out :=
  s.vectorOp { unit := .conversion } (fun c => c.putMask d.toNat m.toNat (f (c.getM a.toNat) (c.getM b.toNat)))

def execMand (d a b m : BitVec 3) (s : State) : Out := s.maskOp d a b m (fun x y => x &&& y)
def execMor (d a b m : BitVec 3) (s : State) : Out := s.maskOp d a b m (fun x y => x ||| y)
def execMnot (d a m : BitVec 3) (s : State) : Out := s.maskOp d a 0 m (fun x _ => ~~~ x)

def execMcnt (d : BitVec 5) (a m : BitVec 3) (s : State) : Out :=
  s.vectorOp { unit := .conversion, writes := [d.toNat] } (fun c =>
    c.setW d.toNat (BitVec.ofNat 64 (countOnes (c.getM a.toNat &&& c.getM m.toNat).toNat 128)))

def execMset (d : BitVec 3) (a b : BitVec 5) (s : State) : Out :=
  s.vectorOp { unit := .conversion, data := [a.toNat, b.toNat] } (fun c =>
    c.putM d.toNat (c.getW b.toNat ++ c.getW a.toNat))

end Sys2Proof.Machine
end

