-- ==== Sys2Proof/Machine/VectorMemory.lean ====
section
/-!
DEFINITION. Sys2Proof/Machine/VectorMemory.lean: VLD and VST (R354), the strided and indexed forms (R350, R351) and the vector
atomics (R352).
-/

namespace Sys2Proof.Machine

/-! ## VLD and VST -/

/-- w[base] + 512 sext(imm7, 7). -/
def unitAddress (s : State) (b : BitVec 6) (i : BitVec 7) : Word := s.reg b + (i.signExtend 64 <<< 9)

/-- VLD: its parts fill the active lanes as they return. Under a full mask the register's mark goes: the data bring their own. -/
def execVld (d : BitVec 5) (b : BitVec 6) (i : BitVec 7) (m : BitVec 3) (_h : BitVec 1) (s : State) : Out :=
  s.issue { unit := .conversion, reads := [b.toNat], vwrites := [d.toNat] } (fun s =>
    let va := unitAddress s b i
    s.access .load va 512 64 true false (fun ps s =>
      match s.ringTake with
      | none => s.stall
      | some (seq, s) =>
        let mask := (s.ctx s.cur).getM m.toNat
        let s := s.sendAccess va ps (fun p => .vload (p.off / 4) mask) (.v d.toNat) [] true false (some seq)
        let c := s.ctx s.cur
        .next (s.done 4 (if mask = BitVec.allOnes 128 then { c with vbad := Tbl.set false c.vbad d.toNat false } else c))))

/-- The bytes of the active lanes in a part of a 512-byte image, at their offsets in the part. -/
def laneBytes (v : Vec) (mask : BitVec 128) (off len : Nat) : List (Nat × Byte) :=
  (List.range len).filterMap (fun i => if mask.getLsbD ((off + i) / 4) then some (i, v.byte (off + i)) else none)

def execVst (d : BitVec 5) (b : BitVec 6) (i : BitVec 7) (m : BitVec 3) (_h : BitVec 1) (s : State) : Out :=
  s.issue { unit := .conversion, reads := [b.toNat], vdata := [d.toNat] } (fun s =>
    let va := unitAddress s b i
    s.access .store va 512 64 false true (fun ps s =>
      match s.ringTake with
      | none => s.stall
      | some (seq, s) =>
        let c := s.ctx s.cur
        let op := fun (p : Part) => TxnOp.store (laneBytes (c.getV d.toNat) (c.getM m.toNat) p.off p.len) (Tbl.get false c.vbad d.toNat)
        .next ((s.sendAccess va ps op .none [] false true (some seq)).skip 4)))

/-! ## Lanes (R351) -/

/-- A lane that failed: lane, subcause, detail and address. -/
structure LaneFault where
  lane : Nat
  sub : Nat
  detail : Nat
  addr : Word

/-- One lane's access translated in the vector unit's own TLB (R70), then checked for alignment and permission. -/
def State.locateLane (s : State) (a : Access) (va : Word) : Except (Nat × Nat × Word) (Part × State) :=
  if va.toNat % 4 ≠ 0 then
    match s.locateBy .vector s.cur a va 1 with
    | .error f => if f.cause = 7 then .error (1, 0, va) else .error (3, 0, va)
    | .ok _ => .error (3, 0, va)
  else
    match s.locateBy .vector s.cur a va 4 with
    | .error f => .error (f.subcause, f.detail, va)
    | .ok (p :: _, s) => .ok (p, s)
    | .ok ([], _) => .error (1, 0, va)

/-- The lanes of a list in ascending order up to the first that fails; a translation with an uncorrectable error is counted (R22). -/
def State.locateLanes (s : State) (a : Access) (addr : Nat → Word) : List Nat → List (Nat × Part) × Option LaneFault × State
  | [] => ([], none, s)
  | i :: r =>
    match s.locateLane a (addr i) with
    | .error (sub, detail, va) => ([], some ⟨i, sub, detail, va⟩, if sub = 8 then s.logError true else s)
    | .ok (p, s) =>
      let (ls, f, s) := s.locateLanes a addr r
      ((i, p) :: ls, f, s)

/-- Lanes put on their way: each is an access of its own, all of one instruction. -/
def State.putLanes (s : State) (proto : Txn) (op : Nat → TxnOp) (addr : Nat → Word) : List (Nat × Part) → State
  | [] => s
  | (i, p) :: r =>
    let t : Txn := { proto with id := s.nextId, home := p.home, op := op i, va := addr i, key := p.key, n := 4, kid := p.kid, size := p.size,
                                region := s.tagFor proto.ctx }
    (State.sendHome { s.fresh with txns := s.txns ++ [t] } t).putLanes proto op addr r

/-- The active lanes of a mask. -/
def activeLanes (mask : BitVec 128) : List Nat := (List.range 128).filter (fun i => mask.getLsbD i)

/-- What a strided or indexed instruction does once it has its ring entry: the lanes below the first that fails go on their way,
and the fault is late (R351). -/
def State.sendLanes (s : State) (seq : Nat) (a : Access) (st : Bool) (op : Nat → TxnOp) (dst : Dst) (addr : Nat → Word)
    (lanes : List (Nat × Part)) (fault : Option LaneFault) : State :=
  let own := match fault with | none => some seq | some _ => none
  let counted := !lanes.isEmpty
  let c := s.ctx s.cur
  let s := match fault with
    | none => if counted then s else s.ringRetire (coreOf s.cur) seq
    | some f => s.lateHere seq f.sub f.detail f.addr (some f.lane)
  let s := s.putLanes { s.proto 0 dst [] (a == .load && !st) st own with act := c.actId } op addr lanes
  let c := if counted then (s.ctx s.cur).raise (!st) st else s.ctx s.cur
  s.setCtx s.cur (match dst with
    | .v n => if lanes.length = 128 then { c with vbad := Tbl.set false c.vbad n false } else c
    | _ => c)

/-- The shared form of the strided and indexed instructions (R350 to R352). -/
def State.laneOp (s : State) (need : Need) (a : Access) (st : Bool) (m : BitVec 3) (op : Ctx → Nat → TxnOp) (dst : Dst)
    (addr : Ctx → Nat → Word) : Out :=
  s.issue need (fun s => s.irrevocably (fun s =>
    if s.gated st then s.waitGate
    else if s.full (!st) st then s.stall
    else
      match s.ringTake with
      | none => s.stall
      | some (seq, s') =>
        let c := s'.ctx s'.cur
        if need.vreads.any (fun n => Tbl.get false c.vbad n) then .next ((s'.lateHere seq 8 0 0 none).skip 4)
        else
          let (lanes, fault, s') := s'.locateLanes a (addr c) (activeLanes (c.getM m.toNat))
          if s'.msgHeld (lanes.map (fun l => l.2.home)) then s.stall
          else .next ((s'.sendLanes seq a st (op c) dst (addr c) lanes fault).skip 4)))

/-- wa + i s(wb). -/
def strideAddress (a b : BitVec 5) (c : Ctx) (i : Nat) : Word := c.getW a.toNat + BitVec.ofNat 64 i * c.getW b.toNat

/-- wa + 4 u(vb[i]). -/
def indexAddress (a b : BitVec 5) (c : Ctx) (i : Nat) : Word := c.getW a.toNat + BitVec.ofNat 64 (4 * ((c.getV b.toNat).lane i).toNat)

/-- The store of a lane, with the register's mark. -/
def laneStore (d : BitVec 5) (c : Ctx) (i : Nat) : TxnOp :=
  .store (enumBytes (natBytes 4 ((c.getV d.toNat).lane i).toNat)) (Tbl.get false c.vbad d.toNat)

def laneLoad (m : BitVec 3) (c : Ctx) (i : Nat) : TxnOp := .vload i (c.getM m.toNat)

def execVlds (d a b : BitVec 5) (m : BitVec 3) (s : State) : Out :=
  s.laneOp { unit := .conversion, reads := [a.toNat, b.toNat], vwrites := [d.toNat] } .load false m (laneLoad m) (.v d.toNat)
    (strideAddress a b)

def execVsts (d a b : BitVec 5) (m : BitVec 3) (s : State) : Out :=
  s.laneOp { unit := .conversion, reads := [a.toNat, b.toNat], vdata := [d.toNat] } .store true m (laneStore d) .none
    (strideAddress a b)

def execVgth (d a b : BitVec 5) (m : BitVec 3) (s : State) : Out :=
  s.laneOp { unit := .vector, reads := [a.toNat], vreads := [b.toNat], vwrites := [d.toNat] } .load false m (laneLoad m)
    (.v d.toNat) (indexAddress a b)

def execVsct (d a b : BitVec 5) (m : BitVec 3) (s : State) : Out :=
  s.laneOp { unit := .vector, reads := [a.toNat], vreads := [b.toNat], vdata := [d.toNat] } .store true m (laneStore d) .none
    (indexAddress a b)

/-- VAMOOR and VAMOADD: a poisoned operand vector faults late, since it is no plain data. -/
def State.vectorAtomic (s : State) (d a b : BitVec 5) (m : BitVec 3) (op : AmoOp) : Out :=
  s.laneOp { unit := .vector, reads := [a.toNat], vreads := [b.toNat, d.toNat] } .store true m
    (fun c i => .amo op (((c.getV d.toNat).lane i).setWidth 64) false false) .none (indexAddress a b)

def execVamoor (d a b : BitVec 5) (m : BitVec 3) (s : State) : Out := s.vectorAtomic d a b m .or

def execVamoadd (d a b : BitVec 5) (m : BitVec 3) (s : State) : Out := s.vectorAtomic d a b m .add

end Sys2Proof.Machine
end

