-- ==== Sys2Proof/Machine/Dispatch.lean ====
section
/-!
DEFINITION. Sys2Proof/Machine/Dispatch.lean: one arm for each constructor of Instr, a direct call of its meaning.
-/

namespace Sys2Proof.Machine

/-- What an instruction or step does. -/
def exec (i : Instr) (s : State) : Host.Outcome State Fault Refusal :=
  match i with
  | .add d a b => Sys2Proof.Machine.execAdd d a b s
  | .sub d a b => Sys2Proof.Machine.execSub d a b s
  | .and d a b => Sys2Proof.Machine.execAnd d a b s
  | .or d a b => Sys2Proof.Machine.execOr d a b s
  | .xor d a b => Sys2Proof.Machine.execXor d a b s
  | .shl d a b => Sys2Proof.Machine.execShl d a b s
  | .shr d a b => Sys2Proof.Machine.execShr d a b s
  | .sha d a b => Sys2Proof.Machine.execSha d a b s
  | .min d a b => Sys2Proof.Machine.execMin d a b s
  | .max d a b => Sys2Proof.Machine.execMax d a b s
  | .minu d a b => Sys2Proof.Machine.execMinu d a b s
  | .maxu d a b => Sys2Proof.Machine.execMaxu d a b s
  | .seq d a b => Sys2Proof.Machine.execSeq d a b s
  | .sne d a b => Sys2Proof.Machine.execSne d a b s
  | .slt d a b => Sys2Proof.Machine.execSlt d a b s
  | .sltu d a b => Sys2Proof.Machine.execSltu d a b s
  | .mul d a b => Sys2Proof.Machine.execMul d a b s
  | .mulh d a b => Sys2Proof.Machine.execMulh d a b s
  | .mulhu d a b => Sys2Proof.Machine.execMulhu d a b s
  | .div d a b => Sys2Proof.Machine.execDiv d a b s
  | .divu d a b => Sys2Proof.Machine.execDivu d a b s
  | .rem d a b => Sys2Proof.Machine.execRem d a b s
  | .remu d a b => Sys2Proof.Machine.execRemu d a b s
  | .sel d a b => Sys2Proof.Machine.execSel d a b s
  | .clz d a => Sys2Proof.Machine.execClz d a s
  | .popc d a => Sys2Proof.Machine.execPopc d a s
  | .extsB d a => Sys2Proof.Machine.execExtsB d a s
  | .extsH d a => Sys2Proof.Machine.execExtsH d a s
  | .extsW d a => Sys2Proof.Machine.execExtsW d a s
  | .extzB d a => Sys2Proof.Machine.execExtzB d a s
  | .extzH d a => Sys2Proof.Machine.execExtzH d a s
  | .extzW d a => Sys2Proof.Machine.execExtzW d a s
  | .addi d a k => Sys2Proof.Machine.execAddi d a k s
  | .andi d a k => Sys2Proof.Machine.execAndi d a k s
  | .ori d a k => Sys2Proof.Machine.execOri d a k s
  | .xori d a k => Sys2Proof.Machine.execXori d a k s
  | .slti d a k => Sys2Proof.Machine.execSlti d a k s
  | .sltiu d a k => Sys2Proof.Machine.execSltiu d a k s
  | .shli d a n => Sys2Proof.Machine.execShli d a n s
  | .shri d a n => Sys2Proof.Machine.execShri d a n s
  | .shai d a n => Sys2Proof.Machine.execShai d a n s
  | .li d k => Sys2Proof.Machine.execLi d k s
  | .lis d k => Sys2Proof.Machine.execLis d k s
  | .rbacq d a => Sys2Proof.Machine.execRbacq d a s
  | .rbacqt d a => Sys2Proof.Machine.execRbacqt d a s
  | .rbrel a b => Sys2Proof.Machine.execRbrel a b s
  | .ixset x a => Sys2Proof.Machine.execIxset x a s
  | .ixadd x a => Sys2Proof.Machine.execIxadd x a s
  | .lox o a => Sys2Proof.Machine.execLox o a s
  | .movox d o => Sys2Proof.Machine.execMovox d o s
  | .movx d x k => Sys2Proof.Machine.execMovx d x k s
  | .movxw d x k => Sys2Proof.Machine.execMovxw d x k s
  | .beq a b o => Sys2Proof.Machine.execBeq a b o s
  | .bne a b o => Sys2Proof.Machine.execBne a b o s
  | .blt a b o => Sys2Proof.Machine.execBlt a b o s
  | .bge a b o => Sys2Proof.Machine.execBge a b o s
  | .bltu a b o => Sys2Proof.Machine.execBltu a b o s
  | .bgeu a b o => Sys2Proof.Machine.execBgeu a b o s
  | .j o => Sys2Proof.Machine.execJ o s
  | .jl o => Sys2Proof.Machine.execJl o s
  | .jr a => Sys2Proof.Machine.execJr a s
  | .jlr a => Sys2Proof.Machine.execJlr a s
  | .ret a => Sys2Proof.Machine.execRet a s
  | .loop a o => Sys2Proof.Machine.execLoop a o s
  | .boqw a => Sys2Proof.Machine.execBoqw a s
  | .boqb n o => Sys2Proof.Machine.execBoqb n o s
  | .ctxres d a b => Sys2Proof.Machine.execCtxres d a b s
  | .fadd d a b => Sys2Proof.Machine.execFadd d a b s
  | .fsub d a b => Sys2Proof.Machine.execFsub d a b s
  | .fmul d a b => Sys2Proof.Machine.execFmul d a b s
  | .ffma d a b => Sys2Proof.Machine.execFfma d a b s
  | .fdiv d a b => Sys2Proof.Machine.execFdiv d a b s
  | .fsqrt d a => Sys2Proof.Machine.execFsqrt d a s
  | .fmin d a b => Sys2Proof.Machine.execFmin d a b s
  | .fmax d a b => Sys2Proof.Machine.execFmax d a b s
  | .feq d a b => Sys2Proof.Machine.execFeq d a b s
  | .flt d a b => Sys2Proof.Machine.execFlt d a b s
  | .fle d a b => Sys2Proof.Machine.execFle d a b s
  | .fcvtws d a => Sys2Proof.Machine.execFcvtws d a s
  | .fcvtsw d a => Sys2Proof.Machine.execFcvtsw d a s
  | .ldb d a k => Sys2Proof.Machine.execLdb d a k s
  | .ldbu d a k => Sys2Proof.Machine.execLdbu d a k s
  | .ldh d a k => Sys2Proof.Machine.execLdh d a k s
  | .ldhu d a k => Sys2Proof.Machine.execLdhu d a k s
  | .ldw d a k => Sys2Proof.Machine.execLdw d a k s
  | .ldwu d a k => Sys2Proof.Machine.execLdwu d a k s
  | .ldd d a k => Sys2Proof.Machine.execLdd d a k s
  | .stb d a k => Sys2Proof.Machine.execStb d a k s
  | .sth d a k => Sys2Proof.Machine.execSth d a k s
  | .stw d a k => Sys2Proof.Machine.execStw d a k s
  | .std d a k => Sys2Proof.Machine.execStd d a k s
  | .lda d a n => Sys2Proof.Machine.execLda d a n s
  | .stl d a n => Sys2Proof.Machine.execStl d a n s
  | .fence k n => Sys2Proof.Machine.execFence k n s
  | .iflush a k => Sys2Proof.Machine.execIflush a k s
  | .catl d a => Sys2Proof.Machine.execCatl d a s
  | .cats d a b => Sys2Proof.Machine.execCats d a b s
  | .cati d a => Sys2Proof.Machine.execCati d a s
  | .amoadd d a b z => Sys2Proof.Machine.execAmoadd d a b z s
  | .amoand d a b z => Sys2Proof.Machine.execAmoand d a b z s
  | .amoor d a b z => Sys2Proof.Machine.execAmoor d a b z s
  | .amoxor d a b z => Sys2Proof.Machine.execAmoxor d a b z s
  | .amomin d a b z => Sys2Proof.Machine.execAmomin d a b z s
  | .amomax d a b z => Sys2Proof.Machine.execAmomax d a b z s
  | .amominu d a b z => Sys2Proof.Machine.execAmominu d a b z s
  | .amomaxu d a b z => Sys2Proof.Machine.execAmomaxu d a b z s
  | .amoswp d a b z => Sys2Proof.Machine.execAmoswp d a b z s
  | .amofadd d a b => Sys2Proof.Machine.execAmofadd d a b s
  | .amocas d a b z => Sys2Proof.Machine.execAmocas d a b z s
  | .vamoor d a b m => Sys2Proof.Machine.execVamoor d a b m s
  | .vamoadd d a b m => Sys2Proof.Machine.execVamoadd d a b m s
  | .wait l n c t h => Sys2Proof.Machine.execWait l n c t h s
  | .pause k => Sys2Proof.Machine.execPause k s
  | .semup d a => Sys2Proof.Machine.execSemup d a s
  | .semdn d a => Sys2Proof.Machine.execSemdn d a s
  | .semtry d a => Sys2Proof.Machine.execSemtry d a s
  | .barw d a b => Sys2Proof.Machine.execBarw d a b s
  | .bara d a b => Sys2Proof.Machine.execBara d a b s
  | .qput a b => Sys2Proof.Machine.execQput a b s
  | .qget d a => Sys2Proof.Machine.execQget d a s
  | .send a b => Sys2Proof.Machine.execSend a b s
  | .sendv d a v => Sys2Proof.Machine.execSendv d a v s
  | .wlpush a => Sys2Proof.Machine.execWlpush a s
  | .wlpop d a => Sys2Proof.Machine.execWlpop d a s
  | .wlfloor d => Sys2Proof.Machine.execWlfloor d s
  | .tkarm d a => Sys2Proof.Machine.execTkarm d a s
  | .tksig d a => Sys2Proof.Machine.execTksig d a s
  | .frbegU d => Sys2Proof.Machine.execFrbegU d s
  | .frbegO d => Sys2Proof.Machine.execFrbegO d s
  | .frcom d => Sys2Proof.Machine.execFrcom d s
  | .frstat d => Sys2Proof.Machine.execFrstat d s
  | .lvcnt d a b => Sys2Proof.Machine.execLvcnt d a b s
  | .cncl d a b => Sys2Proof.Machine.execCncl d a b s
  | .job d a b => Sys2Proof.Machine.execJob d a b s
  | .qbind d a b => Sys2Proof.Machine.execQbind d a b s
  | .blkrd a b => Sys2Proof.Machine.execBlkrd a b s
  | .ttq d a => Sys2Proof.Machine.execTtq d a s
  | .osclaim d a => Sys2Proof.Machine.execOsclaim d a s
  | .osrel a => Sys2Proof.Machine.execOsrel a s
  | .osld a b => Sys2Proof.Machine.execOsld a b s
  | .mwld a => Sys2Proof.Machine.execMwld a s
  | .mmaF a b => Sys2Proof.Machine.execMmaF a b s
  | .mmaI a b => Sys2Proof.Machine.execMmaI a b s
  | .mmaRs a b => Sys2Proof.Machine.execMmaRs a b s
  | .mzero a b => Sys2Proof.Machine.execMzero a b s
  | .mdrainF a b => Sys2Proof.Machine.execMdrainF a b s
  | .mdrainIw a b => Sys2Proof.Machine.execMdrainIw a b s
  | .mdrainIs a b => Sys2Proof.Machine.execMdrainIs a b s
  | .mdrainRs a b => Sys2Proof.Machine.execMdrainRs a b s
  | .walk d a b => Sys2Proof.Machine.execWalk d a b s
  | .walkn d a b => Sys2Proof.Machine.execWalkn d a b s
  | .pdrst d a b => Sys2Proof.Machine.execPdrst d a b s
  | .pdseal d a => Sys2Proof.Machine.execPdseal d a s
  | .pdrd d a => Sys2Proof.Machine.execPdrd d a s
  | .refget d a b => Sys2Proof.Machine.execRefget d a b s
  | .refchk d a b => Sys2Proof.Machine.execRefchk d a b s
  | .trap k => Sys2Proof.Machine.execTrap k s
  | .svc d a b => Sys2Proof.Machine.execSvc d a b s
  | .eret d a b => Sys2Proof.Machine.execEret d a b s
  | .cirrd d a b => Sys2Proof.Machine.execCirrd d a b s
  | .zerosp d a b => Sys2Proof.Machine.execZerosp d a b s
  | .sigchk d => Sys2Proof.Machine.execSigchk d s
  | .capreb d a => Sys2Proof.Machine.execCapreb d a s
  | .seal d a b => Sys2Proof.Machine.execSeal d a b s
  | .monrd d a b => Sys2Proof.Machine.execMonrd d a b s
  | .srd d n => Sys2Proof.Machine.execSrd d n s
  | .swr a n => Sys2Proof.Machine.execSwr a n s
  | .vfadd d a b m => Sys2Proof.Machine.execVfadd d a b m s
  | .vfsub d a b m => Sys2Proof.Machine.execVfsub d a b m s
  | .vfmul d a b m => Sys2Proof.Machine.execVfmul d a b m s
  | .vfma d a b m => Sys2Proof.Machine.execVfma d a b m s
  | .vfms d a b m => Sys2Proof.Machine.execVfms d a b m s
  | .vfdiv d a b m => Sys2Proof.Machine.execVfdiv d a b m s
  | .vfsqrt d a m => Sys2Proof.Machine.execVfsqrt d a m s
  | .vfmin d a b m => Sys2Proof.Machine.execVfmin d a b m s
  | .vfmax d a b m => Sys2Proof.Machine.execVfmax d a b m s
  | .vfabs d a m => Sys2Proof.Machine.execVfabs d a m s
  | .vfneg d a m => Sys2Proof.Machine.execVfneg d a m s
  | .vfexps d a b m => Sys2Proof.Machine.execVfexps d a b m s
  | .vffloor d a m => Sys2Proof.Machine.execVffloor d a m s
  | .vfcmpEq d a b m => Sys2Proof.Machine.execVfcmpEq d a b m s
  | .vfcmpLt d a b m => Sys2Proof.Machine.execVfcmpLt d a b m s
  | .vfcmpLe d a b m => Sys2Proof.Machine.execVfcmpLe d a b m s
  | .vfcmpUn d a b m => Sys2Proof.Machine.execVfcmpUn d a b m s
  | .vadd d a b m => Sys2Proof.Machine.execVadd d a b m s
  | .vadds d a b m => Sys2Proof.Machine.execVadds d a b m s
  | .vsub d a b m => Sys2Proof.Machine.execVsub d a b m s
  | .vsubs d a b m => Sys2Proof.Machine.execVsubs d a b m s
  | .vmul d a b m => Sys2Proof.Machine.execVmul d a b m s
  | .vmulh d a b m => Sys2Proof.Machine.execVmulh d a b m s
  | .vmulhu d a b m => Sys2Proof.Machine.execVmulhu d a b m s
  | .vand d a b m => Sys2Proof.Machine.execVand d a b m s
  | .vor d a b m => Sys2Proof.Machine.execVor d a b m s
  | .vxor d a b m => Sys2Proof.Machine.execVxor d a b m s
  | .vshl d a b m => Sys2Proof.Machine.execVshl d a b m s
  | .vshr d a b m => Sys2Proof.Machine.execVshr d a b m s
  | .vsha d a b m => Sys2Proof.Machine.execVsha d a b m s
  | .vmin d a b m => Sys2Proof.Machine.execVmin d a b m s
  | .vmax d a b m => Sys2Proof.Machine.execVmax d a b m s
  | .vminu d a b m => Sys2Proof.Machine.execVminu d a b m s
  | .vmaxu d a b m => Sys2Proof.Machine.execVmaxu d a b m s
  | .vcmpEq d a b m => Sys2Proof.Machine.execVcmpEq d a b m s
  | .vcmpLt d a b m => Sys2Proof.Machine.execVcmpLt d a b m s
  | .vcmpLtu d a b m => Sys2Proof.Machine.execVcmpLtu d a b m s
  | .vcvt d a m c => Sys2Proof.Machine.execVcvt d a m c s
  | .vpk6 d a => Sys2Proof.Machine.execVpk6 d a s
  | .vupk6 d a => Sys2Proof.Machine.execVupk6 d a s
  | .vrfwd d a m => Sys2Proof.Machine.execVrfwd d a m s
  | .vrrev d a m => Sys2Proof.Machine.execVrrev d a m s
  | .vredfadd d a m => Sys2Proof.Machine.execVredfadd d a m s
  | .vredfmax d a m => Sys2Proof.Machine.execVredfmax d a m s
  | .vredadd d a m => Sys2Proof.Machine.execVredadd d a m s
  | .vredmax d a m => Sys2Proof.Machine.execVredmax d a m s
  | .vperm d a b m => Sys2Proof.Machine.execVperm d a b m s
  | .vbcast d a m => Sys2Proof.Machine.execVbcast d a m s
  | .vextr d a b => Sys2Proof.Machine.execVextr d a b s
  | .vins d a b => Sys2Proof.Machine.execVins d a b s
  | .viota d m => Sys2Proof.Machine.execViota d m s
  | .vsel d a b m => Sys2Proof.Machine.execVsel d a b m s
  | .vmov d a m => Sys2Proof.Machine.execVmov d a m s
  | .mand d a b m => Sys2Proof.Machine.execMand d a b m s
  | .mor d a b m => Sys2Proof.Machine.execMor d a b m s
  | .mnot d a m => Sys2Proof.Machine.execMnot d a m s
  | .mcnt d a m => Sys2Proof.Machine.execMcnt d a m s
  | .mset d a b => Sys2Proof.Machine.execMset d a b s
  | .vld d b k m h => Sys2Proof.Machine.execVld d b k m h s
  | .vst d b k m h => Sys2Proof.Machine.execVst d b k m h s
  | .vlds d a b m => Sys2Proof.Machine.execVlds d a b m s
  | .vsts d a b m => Sys2Proof.Machine.execVsts d a b m s
  | .vgth d a b m => Sys2Proof.Machine.execVgth d a b m s
  | .vsct d a b m => Sys2Proof.Machine.execVsct d a b m s
  | .cMov d a => Sys2Proof.Machine.execCMov d a s
  | .cAdd d a => Sys2Proof.Machine.execCAdd d a s
  | .cSub d a => Sys2Proof.Machine.execCSub d a s
  | .cAnd d a => Sys2Proof.Machine.execCAnd d a s
  | .cAddi d k => Sys2Proof.Machine.execCAddi d k s
  | .cLi d k => Sys2Proof.Machine.execCLi d k s
  | .cShli d n => Sys2Proof.Machine.execCShli d n s
  | .cLdw d u => Sys2Proof.Machine.execCLdw d u s
  | .cStw d u => Sys2Proof.Machine.execCStw d u s
  | .cBz a o => Sys2Proof.Machine.execCBz a o s
  | .cBnz a o => Sys2Proof.Machine.execCBnz a o s
  | .cJ o => Sys2Proof.Machine.execCJ o s
  | .cPause n => Sys2Proof.Machine.execCPause n s
  | .pad => Sys2Proof.Machine.execPad s
  | .align => Sys2Proof.Machine.execAlign s
  | .hret => Sys2Proof.Machine.execHret s
  | .frabt => Sys2Proof.Machine.execFrabt s
  | .drdone => Sys2Proof.Machine.execDrdone s
  | .halt => Sys2Proof.Machine.execHalt s
  | .bkpt => Sys2Proof.Machine.execBkpt s
  | .cHint => Sys2Proof.Machine.execCHint s
  | .cRet => Sys2Proof.Machine.execCRet s
  | .cHret => Sys2Proof.Machine.execCHret s
  | .xsdCtlWrite core v => Sys2Proof.Machine.execXsdCtlWrite core v s
  | .dlLeftWrite core v => Sys2Proof.Machine.execDlLeftWrite core v s
  | .shootdownAck agent => Sys2Proof.Machine.execShootdownAck agent s
  | .jqTailWrite v => Sys2Proof.Machine.execJqTailWrite v s
  | .jqBaseWrite v => Sys2Proof.Machine.execJqBaseWrite v s
  | .jqSizeWrite v => Sys2Proof.Machine.execJqSizeWrite v s
  | .registerWrite bar off size v => Sys2Proof.Machine.execRegisterWrite bar off size v s
  | .jobDescriptorTake => Sys2Proof.Machine.execJobDescriptorTake s
  | .jobCompletion job => Sys2Proof.Machine.execJobCompletion job s
  | .launchAdmission l => Sys2Proof.Machine.execLaunchAdmission l s
  | .launchPlacement l units => Sys2Proof.Machine.execLaunchPlacement l units s
  | .messageDelivery msg => Sys2Proof.Machine.execMessageDelivery msg s
  | .heldMessageAdmit core => Sys2Proof.Machine.execHeldMessageAdmit core s
  | .messageDispatch core => Sys2Proof.Machine.execMessageDispatch core s
  | .taskDispatch core => Sys2Proof.Machine.execTaskDispatch core s
  | .stealRequest thief victim => Sys2Proof.Machine.execStealRequest thief victim s
  | .stealAnswer thief => Sys2Proof.Machine.execStealAnswer thief s
  | .packageSteal l peer => Sys2Proof.Machine.execPackageSteal l peer s
  | .dequeRefill core => Sys2Proof.Machine.execDequeRefill core s
  | .tksigResponse core => Sys2Proof.Machine.execTksigResponse core s
  | .floorUpdate l => Sys2Proof.Machine.execFloorUpdate l s
  | .floorExchange l peers => Sys2Proof.Machine.execFloorExchange l peers s
  | .drainDispatch unit => Sys2Proof.Machine.execDrainDispatch unit s
  | .tileTaskIssue cluster => Sys2Proof.Machine.execTileTaskIssue cluster s
  | .engineJobStart job => Sys2Proof.Machine.execEngineJobStart job s
  | .engineJobComplete job => Sys2Proof.Machine.execEngineJobComplete job s
  | .blkrdPartReturn part => Sys2Proof.Machine.execBlkrdPartReturn part s
  | .osldComplete op => Sys2Proof.Machine.execOsldComplete op s
  | .matrixPerform unit => Sys2Proof.Machine.execMatrixPerform unit s
  | .accessPerformed id => Sys2Proof.Machine.execAccessPerformed id s
  | .loadResponse id => Sys2Proof.Machine.execLoadResponse id s
  | .storeAck id => Sys2Proof.Machine.execStoreAck id s
  | .pageWalkComplete cluster root va => Sys2Proof.Machine.execPageWalkComplete cluster root va s
  | .closureRecompute => Sys2Proof.Machine.execClosureRecompute s
  | .commitMerge slot home => Sys2Proof.Machine.execCommitMerge slot home s
  | .lateFault id => Sys2Proof.Machine.execLateFault id s
  | .folioWrite ctx => Sys2Proof.Machine.execFolioWrite ctx s
  | .pauseEnd ctx => Sys2Proof.Machine.execPauseEnd ctx s
  | .alignTimeout ctx => Sys2Proof.Machine.execAlignTimeout ctx s
  | .idleSample l => Sys2Proof.Machine.execIdleSample l s
  | .deadlineExpiry job => Sys2Proof.Machine.execDeadlineExpiry job s
  | .cancelGraceExpiry l => Sys2Proof.Machine.execCancelGraceExpiry l s
  | .machineCheck unit => Sys2Proof.Machine.execMachineCheck unit s
  | .tileMigration src dst => Sys2Proof.Machine.execTileMigration src dst s
  | .migrationMarker core unit => Sys2Proof.Machine.execMigrationMarker core unit s
  | .forwardingRetire unit => Sys2Proof.Machine.execForwardingRetire unit s
  | .absentContext l => Sys2Proof.Machine.execAbsentContext l s
  | .launchReturn l units => Sys2Proof.Machine.execLaunchReturn l units s
  | .clearRoutine l => Sys2Proof.Machine.execClearRoutine l s
  | .capsuleInstall bytes slots tenant => Sys2Proof.Machine.execCapsuleInstall bytes slots tenant s
  | .capsuleRetire acc => Sys2Proof.Machine.execCapsuleRetire acc s
  | .capsuleExport acc => Sys2Proof.Machine.execCapsuleExport acc s
  | .bodyVoid translator epoch => Sys2Proof.Machine.execBodyVoid translator epoch s
  | .rebuildComplete acc ok => Sys2Proof.Machine.execRebuildComplete acc ok s
  | .livePatch l slot v => Sys2Proof.Machine.execLivePatch l slot v s
  | .sealedRegionRetire h => Sys2Proof.Machine.execSealedRegionRetire h s
  | .auditLogConsume tenant rp => Sys2Proof.Machine.execAuditLogConsume tenant rp s
  | .spdmReqLenWrite v => Sys2Proof.Machine.execSpdmReqLenWrite v s
  | .spdmRspLenWrite v => Sys2Proof.Machine.execSpdmRspLenWrite v s
  | .spdmGetVersion path req => Sys2Proof.Machine.execSpdmGetVersion path req s
  | .spdmGetCapabilities path req => Sys2Proof.Machine.execSpdmGetCapabilities path req s
  | .spdmNegotiateAlgorithms path req => Sys2Proof.Machine.execSpdmNegotiateAlgorithms path req s
  | .spdmGetDigests path req => Sys2Proof.Machine.execSpdmGetDigests path req s
  | .spdmGetCertificate path req => Sys2Proof.Machine.execSpdmGetCertificate path req s
  | .spdmChallenge path req => Sys2Proof.Machine.execSpdmChallenge path req s
  | .spdmGetMeasurements path req => Sys2Proof.Machine.execSpdmGetMeasurements path req s
  | .spdmKeyExchange path req => Sys2Proof.Machine.execSpdmKeyExchange path req s
  | .spdmFinish path req => Sys2Proof.Machine.execSpdmFinish path req s
  | .spdmEndSession path req => Sys2Proof.Machine.execSpdmEndSession path req s
  | .spdmUnsupportedRequest path req => Sys2Proof.Machine.execSpdmUnsupportedRequest path req s
  | .ptReqTailWrite v => Sys2Proof.Machine.execPtReqTailWrite v s
  | .ptRspHeadWrite v => Sys2Proof.Machine.execPtRspHeadWrite v s
  | .ptRegisterRead => Sys2Proof.Machine.execPtRegisterRead s
  | .ptRegisterWrite => Sys2Proof.Machine.execPtRegisterWrite s
  | .ptMemoryWrite => Sys2Proof.Machine.execPtMemoryWrite s
  | .ptMemoryRead => Sys2Proof.Machine.execPtMemoryRead s
  | .ptRekey => Sys2Proof.Machine.execPtRekey s
  | .rekeyAck chan => Sys2Proof.Machine.execRekeyAck chan s
  | .powerCapWrite v => Sys2Proof.Machine.execPowerCapWrite v s
  | .dormantRequest => Sys2Proof.Machine.execDormantRequest s
  | .dormantForce => Sys2Proof.Machine.execDormantForce s
  | .wake => Sys2Proof.Machine.execWake s
  | .idleClockGate unit => Sys2Proof.Machine.execIdleClockGate unit s
  | .thermalLimit celsius => Sys2Proof.Machine.execThermalLimit celsius s
  | .boot failed => Sys2Proof.Machine.execBoot failed s
  | .bootRetry => Sys2Proof.Machine.execBootRetry s
  | .fabricFlitReceive flit => Sys2Proof.Machine.execFabricFlitReceive flit s
  | .linkRetrained plane => Sys2Proof.Machine.execLinkRetrained plane s
  | .linkDown plane => Sys2Proof.Machine.execLinkDown plane s
  | .monitorSample cluster slot value => Sys2Proof.Machine.execMonitorSample cluster slot value s
  | .rrAttach job => Sys2Proof.Machine.execRrAttach job s
  | .rrBreak loc => Sys2Proof.Machine.execRrBreak loc s
  | .rrDelete n => Sys2Proof.Machine.execRrDelete n s
  | .rrContinue => Sys2Proof.Machine.execRrContinue s
  | .rrStop => Sys2Proof.Machine.execRrStop s
  | .rrRegs core ctx => Sys2Proof.Machine.execRrRegs core ctx s
  | .rrMem addr n => Sys2Proof.Machine.execRrMem addr n s
  | .rrFolio core ctx => Sys2Proof.Machine.execRrFolio core ctx s
  | .rrRing core => Sys2Proof.Machine.execRrRing core s
  | .rrWl => Sys2Proof.Machine.execRrWl s
  | .rrRegion => Sys2Proof.Machine.execRrRegion s
  | .rrQuit => Sys2Proof.Machine.execRrQuit s
  | .rrDisconnect => Sys2Proof.Machine.execRrDisconnect s
  | .instructionLineFill cluster line bad => Sys2Proof.Machine.execInstructionLineFill cluster line bad s
  | .bodyVoidLive ctx => Sys2Proof.Machine.execBodyVoidLive ctx s
  | .packageStealAnswer l peer chunk => Sys2Proof.Machine.execPackageStealAnswer l peer chunk s

end Sys2Proof.Machine
end

