-- ==== Sys2Proof/Machine/Hardware.lean ====
section
/-!
DEFINITION. Sys2Proof/Machine/Hardware.lean: what a step is made of: time (R113), the fetch and issue of the current context's instruction
(R243 to R245, R255), the stops at an instruction boundary (R161, R183, R228), the moves of the schedule and the hardware's own steps
when the schedule names none (log entry 3).
-/

namespace Sys2Proof.Machine

/-! ## Time -/

/-- Whether a job's deadline count falls: a launch of it holds tiles, and no debug session has stopped it (R113, R228). -/
def State.counting (s : State) (job : Nat) (j : Job) : Bool :=
  j.status.isNone && s.launches.any (fun (e : Nat × Launch) => e.2.job == job && e.2.state == .resident) &&
    !(match s.sessionOf job with | some e => e.2.stopped | none => false)

/-- Whether an access is on its way to a tile's scratchpad (R231). -/
def State.tileAccessed (s : State) (u : Nat) : Bool := s.txns.any (fun t => t.home == .tile u)

/-- Cycles pass: deadline counts fall, and idle wires are watched. -/
def State.tick (s : State) (n : Nat) : State :=
  let s := s.ackPorts.watchMonitors n
  { s with cycle := s.cycle + n,
           tiles := s.tiles.map (fun (e : Nat × Tile) => (e.1, e.2.watch (s.tileIdle e.1) (s.tileAccessed e.1) (s.cycle + n))),
           jobs := s.jobs.map (fun (e : Nat × Job) => if s.counting e.1 e.2 then (e.1, { e.2 with dlLeft := e.2.dlLeft - n }) else e) }

/-! ## Fetch and issue -/

/-- The class in which a context issues (R33): drain activations, atomic handlers, ordinary activations, BACKGROUND contexts. A wait that has
ended is no longer BACKGROUND (R34). -/
def Ctx.issueClass (c : Ctx) : Nat :=
  if c.window.isSome then 4
  else
    match c.act with
    | none => 3
    | some a => if a.drain.isSome || Word.field a.header 21 3 = 5 then 1 else if Word.field a.header 21 3 = 3 || Word.field a.header 21 3 = 4 then 2 else 3

/-- The current context with the word that it has fetched, a breakpoint there passed; its issue is noted, and its turn in its class (R33). -/
def State.setWord (s : State) (w : Word32) : State :=
  let c := s.ctx s.cur
  let q := s.core (coreOf s.cur)
  (s.setCtx s.cur { c with word := w, brokeAt := none, issuedAt := s.cycle }).setCore (coreOf s.cur)
    { q with turns := Tbl.set 0 q.turns c.issueClass (numOf s.cur) }

/-- The instruction at the current context's PC fetched, decoded and issued. A fetch that faults, and a pattern that is no instruction, trap
exactly there. -/
def State.runCur (s : State) : Out :=
  match s.fetchBytes s.cur (s.ctx s.cur).pc with
  | (.error f, s) => (s.setWord 0).trapAt s.cur f.cause f.sub f.addr none
  | (.ok bs, s) =>
    match decode bs with
    | .error _ => (s.setWord (BitVec.ofNat 32 (bytesNat bs))).trapAt s.cur 1 0 0 none
    | .ok (i, _) => exec i (s.setWord (wideWord i (bytesNat bs)))

/-! ## Stops at an instruction boundary -/

/-- Whether a context that was asked to drain is at an active resume point (R182). -/
def State.atResumePoint (s : State) (k : Nat) : Bool :=
  let c := s.ctx k
  c.drainReq.isSome && c.act.isSome && c.stop.isNone && c.ld == 0 && c.region.isNone && c.await.isNone && !s.coprocUnderWay k &&
    (match s.launchOf k with
     | some l => match s.capsuleOf l with
       | some p => p.resumesAt (c.pc - BitVec.ofNat 64 l.body).toNat
       | none => false
     | none => false)

/-- It stops there, and the steward writes its portable folio (R183). -/
def State.drainStop (s : State) (k : Nat) : State :=
  let st : Stop := { cause := 0, subcode := 0, faultPc := 0, faultAddr := 0, word := 0, resumePc := (s.ctx k).pc, portable := true }
  let s := s.stopCtx k st
  let s := s.setCtx k { s.ctx k with drainReq := none }
  s.writeFolio k st

/-- Whether a debug session stops a context before its next instruction: its launch is held, or its PC is a breakpoint that it has just
reached (R228, R242). -/
def State.debugStops (s : State) (k : Nat) : Bool :=
  match s.launchOf k with
  | none => false
  | some l =>
    match s.sessionOf l.job, s.capsuleOf l with
    | some (_, x), some p =>
      let c := s.ctx k
      s.lateStops k && (x.stopped || (c.state == .ready && c.brokeAt != some c.pc &&
        x.breakpoints.any (fun b => BitVec.ofNat 64 (l.body + p.native b.2) == c.pc)))
    | _, _ => false

/-- The job of a context whose deadline count has reached zero: its tiles issue no more (R113). -/
def State.expired (s : State) (k : Nat) : Option Nat :=
  match s.launchOf k with
  | none => none
  | some l =>
    match s.job? l.job with
    | none => none
    | some j => if j.dlLeft = 0 && j.status.isNone && l.state = .resident then some l.job else none

/-- The turn of a context that may issue: its job's deadline ends it, it stops for a late fault recorded while it waited, for a drain or for a debug session, or runs
its instruction. -/
def State.turn (s : State) : Out :=
  let k := s.cur
  match s.expired k with
  | some job => execDeadlineExpiry job s
  | none =>
    if !(s.ctx k).lates.isEmpty && s.lateStops k then .next (s.lateStop k)
    else if s.atResumePoint k then .next (s.drainStop k)
    else if s.debugStops k then .next (s.holdCtx k)
    else s.runCur

/-! ## The hardware's own steps -/

def State.accessSteps (s : State) : List (State → Out) :=
  s.txns.map (fun t => execAccessPerformed t.id) ++ s.txns.map (fun t => execLoadResponse t.id) ++
    s.txns.map (fun t => execStoreAck t.id) ++ (s.txns.filter Txn.isTask).map (fun t => execTksigResponse (coreOf t.ctx)) ++
    s.blks.flatMap (fun b => b.parts.map (fun p => execAccessPerformed p.id)) ++
    s.blks.flatMap (fun b => b.parts.map (fun p => execBlkrdPartReturn p.id))

def State.engineSteps (s : State) : List (State → Out) :=
  s.loads.map (fun l => execOsldComplete l.id) ++ s.tiles.map (fun (e : Nat × Tile) => execMatrixPerform e.1) ++
    s.clusters.flatMap (fun (e : Nat × Cluster) =>
      e.2.table.map (fun (j : EngineJob) => execEngineJobStart j.id) ++ e.2.table.map (fun (j : EngineJob) => execEngineJobComplete j.id) ++
        [execTileTaskIssue e.1])

def State.messageSteps (s : State) : List (State → Out) :=
  s.msgs.map (fun m => execMessageDelivery m.id) ++ s.cores.map (fun (e : Nat × Core) => execHeldMessageAdmit e.1)

def State.trapSteps (s : State) : List (State → Out) :=
  s.lates.map (fun p => execLateFault p.id) ++ s.ctxs.map (fun (e : Nat × Ctx) => execFolioWrite e.1) ++
    (s.ctxs.filter (fun (e : Nat × Ctx) => e.2.stop.isSome)).map (fun (e : Nat × Ctx) (s : State) => .next (s.serveSvc e.1)) ++
    (s.tiles.filter (fun (e : Nat × Tile) => e.2.checking)).map (fun (e : Nat × Tile) (s : State) => .next (s.finishCheck e.1))

def State.regionSteps (s : State) : List (State → Out) :=
  s.dir.flatMap (fun (e : Nat × DirSlot) => e.2.homes.map (fun h => execCommitMerge e.1 h)) ++ [execClosureRecompute]

def State.dispatchSteps (s : State) : List (State → Out) :=
  s.cores.map (fun (e : Nat × Core) => execMessageDispatch e.1) ++ s.tiles.map (fun (e : Nat × Tile) => execDrainDispatch e.1) ++
    s.cores.map (fun (e : Nat × Core) => execTaskDispatch e.1) ++ s.cores.map (fun (e : Nat × Core) => execDequeRefill e.1) ++
    s.ctxs.map (fun (e : Nat × Ctx) => execPauseEnd e.1) ++ s.ctxs.map (fun (e : Nat × Ctx) => execAlignTimeout e.1) ++
    s.launches.map (fun (e : Nat × Launch) => execFloorUpdate e.1)

/-- What the stewards do without a choice: the host link's requests, admission, samples, completions, clears, acknowledgements. -/
def State.stewardSteps (s : State) : List (State → Out) :=
  [fun s => .next (s.linkServe s.host.link.length), execJobDescriptorTake] ++
    s.launches.flatMap (fun (e : Nat × Launch) => [execLaunchAdmission e.1, execLaunchPlacement e.1 [], execIdleSample e.1,
      execCancelGraceExpiry e.1, execClearRoutine e.1, execAbsentContext e.1]) ++
    s.jobs.flatMap (fun (e : Nat × Job) => [execDeadlineExpiry e.1, execJobCompletion e.1]) ++
    s.tiles.flatMap (fun (e : Nat × Tile) => [execIdleClockGate e.1, execForwardingRetire e.1]) ++ [fun s => .next s.fallAsleep] ++
    (s.tiles.filter (fun (e : Nat × Tile) => e.2.frozen.isSome)).map (fun (e : Nat × Tile) => execTileMigration e.1 0) ++
    (s.tiles.filter (fun (e : Nat × Tile) => e.2.forward.isSome)).flatMap (fun (e : Nat × Tile) =>
      s.cores.map (fun (c : Nat × Core) => execMigrationMarker c.1 e.1)) ++
    s.ctxs.map (fun (e : Nat × Ctx) => execBodyVoidLive e.1) ++ s.shoot.awaited.map execShootdownAck ++
    s.capsules.map (fun (c : Capsule) (s : State) =>
      .next (if c.state = .rebuilding then s.drainWhere (Launch.uses c.accession) else s))

/-- The first of a list of steps that changes the state. -/
def State.firstChange (s : State) : List (State → Out) → Option State
  | [] => none
  | f :: r =>
    match f s with
    | .next t => if t = s then s.firstChange r else some t
    | .fault _ => s.firstChange r
    | .refused _ => s.firstChange r

/-- A list begun at a place, and around. -/
def rotate {α : Type} (n : Nat) (xs : List α) : List α := xs.drop (n % max xs.length 1) ++ xs.take (n % max xs.length 1)

/-- One step of the hardware or the resident system where the schedule names none. The kinds of steps take turns, and so do the steps of a
kind, so that none is passed over for ever (R50). -/
def State.hardware (s : State) : Option State :=
  let kinds := [s.accessSteps, s.engineSteps, s.messageSteps, s.trapSteps, s.regionSteps, s.dispatchSteps, s.stewardSteps]
  (s.firstChange ((rotate s.hwPos kinds).flatMap (rotate (s.hwPos / 7)))).map (fun t => { t with hwPos := t.hwPos + 1 })

/-! ## Which context issues (R33) -/

/-- Whether a context may issue, or try again. -/
def Ctx.runnable (c : Ctx) : Bool :=
  match c.state with
  | .ready | .stalled | .background => true
  | .dormant | .stopped => false

/-- Whether a context stays at its instruction boundary: its tile is frozen and it may be, or the device is on its way to the dormant state (R168,
R212). -/
def State.stays (s : State) (k : Nat) : Bool :=
  (s.isFrozen (unitOf k) && s.mayFreeze k) || (s.falling && (s.tile (unitOf k)).launch.isSome)

/-- Whether a context's turn may come. -/
def State.runs (s : State) (k : Nat) : Bool := (s.ctx k).runnable && !s.stays k

/-- A state in which a context's turn came to nothing: its issue is as it was noted before. -/
def State.unissued (t s : State) (k : Nat) : State :=
  (t.setCtx k { t.ctx k with issuedAt := (s.ctx k).issuedAt }).setCore (coreOf k)
    { t.core (coreOf k) with turns := (s.core (coreOf k)).turns }

/-- Whether the wait of a context has ended: its turn would change more than the note of its issue. -/
def State.waitOver (s : State) (k : Nat) : Bool :=
  let s := { s with cur := k }
  match s.turn with
  | .next t => decide (t.unissued s k ≠ s)
  | .fault _ => true
  | .refused _ => true

/-- Whether a context may issue now: it is READY, in the window of a PAUSE, or its wait has ended. -/
def State.canIssue (s : State) (k : Nat) : Bool :=
  let c := s.ctx k
  s.runs k && (match c.state with
    | .ready => true
    | .background => c.window.isSome || s.waitOver k
    | .stalled => s.waitOver k
    | .dormant | .stopped => false)

/-- The context that a core issues from (R33): one that is BACKGROUND and has not issued for 256 cycles; else one of the highest class, by
turns within it. -/
def State.choiceOf (s : State) (core : Nat) : Option Nat :=
  let ks := ((List.range 8).map (fun n => core * 8 + n)).filter s.canIssue
  match ks.find? (fun k => (s.ctx k).issueClass == 4 && decide ((s.ctx k).issuedAt + 256 ≤ s.cycle)) with
  | some k => some k
  | none =>
    [1, 2, 3, 4].findSome? (fun i =>
      let mine := ks.filter (fun k => (s.ctx k).issueClass == i)
      match mine.find? (fun k => decide (Tbl.get 0 (s.core core).turns i < numOf k)) with
      | some k => some k
      | none => mine.head?)

/-- The context whose turn comes next: cores take turns, those of parked tiles never (log entry 3). -/
def State.choose (s : State) : Nat :=
  let cores := ((s.ctxs.map (fun (e : Nat × Ctx) => coreOf e.1)).dedup).filter (fun q => decide (q < 16777216))
  let order := cores.filter (fun q => decide (coreOf s.cur < q)) ++ cores.filter (fun q => decide (q ≤ coreOf s.cur))
  (order.findSome? s.choiceOf).getD s.cur

/-- A step where the schedule is empty: the current context issues, or tries again; then the hardware takes a step, and the next context's
turn comes. -/
def State.freeStep (s : State) : Out :=
  if !s.hwTurn && s.runs s.cur then State.turn { s with hwTurn := true }
  else
    let t := s.hardware.getD s
    .next { t with hwTurn := false, cur := t.choose }

/-! ## The schedule -/

/-- An input that the opcode table has no row for (log entry 81). -/
def State.input (s : State) : Move → State
  | .hostRead bar off n => s.linkRequest ⟨bar, off, n, none⟩
  | .msixRequest => s.stewardEvent
  | .remoteAck id => s.remoteAck id
  | .upset u => s.upset u
  | .folioError k => s.folioError k
  | .image i => s.fetchImage i
  | .client n => { s with readroom := { s.readroom with client := n } }
  | .newKey chan key => s.newKey chan key
  | .packet chan phase => s.channelPacket chan phase
  | .logKey path tenant => s.releaseLogKey path tenant
  | .movePage tag va pa => s.movePage tag va pa
  | _ => s

/-- A move of the schedule: an instruction is fetched, never named by it; a turn is a core's, which issues from the context that R33 says.
-/
def State.move (s : State) (m : Move) : Out :=
  match m with
  | .event i => if (encode i).isSome then .next s else exec i s
  | .turn k =>
    let s := { s with cur := (s.choiceOf (coreOf k)).getD k }
    if s.runs s.cur then s.turn else .next s
  | .idle n => .next (s.tick n)
  | .service k => .next (s.serveSvc k)
  | m => .next (s.input m)

/-- Whether the device has stopped at 110 degrees: every machine check has had its folios (R231). -/
def State.halted (s : State) : Bool := s.vault.stopped && !s.tiles.any (fun (e : Nat × Tile) => e.2.checking)

/-- One step of the machine. -/
def State.stepOnce (s : State) : Out :=
  let s := s.tick 1
  if s.halted then .next s
  else
    match s.schedule with
    | m :: r => State.move { s with schedule := r } m
    | [] => s.freeStep

end Sys2Proof.Machine
end

