-- ==== Sys2Proof/Machine/Step.lean ====
section
/-!
DEFINITION. Sys2Proof/Machine/Step.lean: one step of the machine, and a state whose next step runs a given instruction.
-/

namespace Sys2Proof.Machine

/-- One step: a cycle passes, and the next move of the schedule, or the current context's instruction, is made (log entry 3). -/
def step (s : State) : Host.Outcome State Fault Refusal := s.stepOnce

/-- The launch that stands for a program loaded from outside: one group of one tile, tile 0 (log entry 35). -/
def fetchLaunch : Launch :=
  { addr := 0, record := [0, 0, 0, 0x20000, 0x1010101000000, 0x2040000000] ++ List.replicate 26 0, job := 0, phase := 0, graph := 0,
    index := 0, state := .resident, units := [0] }

/-- The virtual address of the instruction, and the physical address where its bytes lie. -/
def fetchVa : Nat := 0x40200000000000

def fetchPa : Nat := 0x10000

/-- The context whose next instruction it is: context 0 of the A-core of tile 0, at handler level. -/
def fetchContext : Ctx :=
  { state := .ready, launch := 1, actId := 1, act := some {}, pc := BitVec.ofNat 64 fetchVa }

/-- The state with an instruction of nbits, numbered as the opcode table numbers it, where step fetches next: the turn is the context's, its
launch is resident, the page is mapped for execution, and no cache holds the line. -/
def State.withFetchWord (s : State) (nbits w : Nat) : State :=
  let s := s.pokeBytes fetchPa false (natBytes 4 (w % 2 ^ nbits))
  let s := { s with schedule := [], hwTurn := false, cur := ctxKey 0 2 0, launches := assocSet s.launches 1 fetchLaunch,
                    lineKey := Tbl.erase s.lineKey (fetchPa / 64), readroom := {}, vault := { s.vault with stopped := false } }
  let s := s.setTile 0 { launch := some 1, inService := true }
  let s := s.setCtx (ctxKey 0 2 0) fetchContext
  let e : TlbEntry := { root := 0x20000, page := fetchVa / 65536, pte := 0x10109, size := 1, launch := 1 }
  (s.setCore (agentKey 0 2) { utlb := [e] }).dropLine (agentKey 0 2) (fetchPa / 64)

end Sys2Proof.Machine
end

