-- ==== Sys2Proof/Safety.lean ====
section
/-!
DEFINITION. Sys2Proof/Safety.lean: what the claims say of a step: that it completes, that it traps, and the conditions under which an
instruction issues.
-/

namespace Sys2Proof

open Machine

/-- A step goes on. -/
def Completes (o : Out) : Prop := ∃ t, o = .next t

/-- A context has stopped for a cause and subcode, at an instruction, with nothing of it done but what a stop does (R159). -/
def StoppedFor (s : State) (k cause sub : Nat) : Prop :=
  ∃ st, (s.ctx k).stop = some st ∧ st.cause = cause ∧ st.subcode = sub ∧ (s.ctx k).state = .stopped

/-- The current context may issue an instruction that needs these registers, this unit and this level: every check that comes before
the instruction's own passes, and no result is awaited (R245, R171, R277). -/
def Ready (s : State) (need : Need) : Prop := s.ready need = true

/-- The current context. -/
def Machine.State.me (s : State) : Ctx := s.ctx s.cur

/-- Nothing but contexts changed, and of those only the current one: no byte of memory or operand memory, no tile, core, cluster, queue,
region, launch or register page. -/
def OnlyContext (s t : State) : Prop :=
  t = { s with ctxs := t.ctxs } ∧ (∀ k, k ≠ s.cur → t.ctx k = s.ctx k) ∧ ∀ kid key, t.readByte kid key = s.readByte kid key

/-- A step changed the current context only: its program counter and state, and of its registers the scalar ones listed (R259). -/
def ChangesScalars (s t : State) (ws : List Nat) : Prop :=
  OnlyContext s t ∧ t.me = { s.me with pc := t.me.pc, state := t.me.state, w := t.me.w, wbad := t.me.wbad } ∧
    ∀ n, n ∉ ws → t.me.getW n = s.me.getW n ∧ Tbl.get false t.me.wbad n = Tbl.get false s.me.wbad n

/-- The step did not run its instruction: it took a trap at it, or it waits at it (R245, R277). -/
def TurnedAway (s t : State) : Prop :=
  (∃ cause sub, s.trap cause sub = .next t) ∨ s.stall = .next t ∨ s.waitBackground = .next t

/-- The current context is in no region, or in one that is IRREVOCABLE already: an effect that cannot be undone takes place at once
(R118). -/
def Settled (s : State) : Prop := ∀ r, s.me.region = some r → (s.slot r.slot).phase = .irrevocable

/-- An access of the current context passes its own checks and goes on its way (R312, R337): nothing before it holds it, it is aligned,
its window, translation and permission allow it, an open region has its homes in this package and, at the pool, is irrevocable, and no
counter is full. ps are its parts, and u is the state with the translations kept. -/
def Sends (s : State) (a : Access) (va : Word) (n align : Nat) (ld st : Bool) (ps : List Part) (u : State) : Prop :=
  s.gated st = false ∧ va.toNat % align = 0 ∧ s.locate s.cur a va n = .ok (ps, u) ∧ u.scopeBreach ps = false ∧
    (ps.any (fun p => isPool p.home) = true → Settled u) ∧ u.msgHeld (ps.map (·.home)) = false ∧ u.full ld st = false

/-- A record of n bytes of the current context is read, free of poison: its doublewords are located, nothing earlier holds them, and its
bytes are bs. v is the state after the reads (R268, R308, R344). -/
def Reads (s : State) (va : Word) (n align : Nat) (bs : List Byte) (v : State) : Prop :=
  s.gated false = false ∧ va.toNat % align = 0 ∧ ∃ ps u, s.locateDwords .load false va 0 (n / 8) = .ok (ps, u) ∧
    u.recordHeld ps = false ∧ u.full true false = false ∧ u.readParts (u.proto va .none [] false false none) ps = some (bs, false, v)

/-- The n doubleword stores of one instruction pass their checks (R319): ps are their parts, and u is the state with the translations
kept. -/
def SendsDwords (s : State) (va : Word) (n : Nat) (ps : List Part) (u : State) : Prop :=
  s.gated true = false ∧ va.toNat % 8 = 0 ∧ s.locateDwords .store true va 0 n = .ok (ps, u) ∧
    (ps.any (fun p => isPool p.home) = true → Settled u) ∧ u.msgHeld (ps.map (·.home)) = false ∧ u.storesFull n = false

end Sys2Proof
end

