-- ==== Sys2Proof/Certificates/Slice0/Obligations.lean ====
section
/-!
DEFINITION. Sys2Proof/Certificates/Slice0/Obligations.lean: the statements for the provers, each from the rules it names.
-/

section

open Sys2Proof Sys2Proof.Machine

/-- Every instruction of the register group with a b field, except SEL, completes when the checks before it pass, with the
value that the table gives in wd and the PC 4 further; nothing traps. SEL writes wb where wa is not zero and keeps wd
otherwise; CLZ and POPC count leading zeros and ones; EXTS and EXTZ extend the low 8, 16 or 32 bits; each completes
when the checks before it pass. (R278) -/
def Obligations.RegisterGroupResults : Prop :=
  (∀ (s : State) (d a b : BitVec 6), Ready s { reads := [a.toNat, b.toNat], writes := [d.toNat] } →
    let x := s.reg a
    let y := s.reg b
    let gives := fun (i : Instr) (z : Word) => exec i s = .next (s.result 4 d.toNat z)
    gives (.add d a b) (x + y) ∧ gives (.sub d a b) (x - y) ∧ gives (.and d a b) (x &&& y) ∧
      gives (.or d a b) (x ||| y) ∧ gives (.xor d a b) (x ^^^ y) ∧
      gives (.shl d a b) (x <<< (y.setWidth 6).toNat) ∧ gives (.shr d a b) (x >>> (y.setWidth 6).toNat) ∧
      gives (.sha d a b) (x.sshiftRight (y.setWidth 6).toNat) ∧
      gives (.min d a b) (if x.toInt ≤ y.toInt then x else y) ∧ gives (.max d a b) (if x.toInt ≤ y.toInt then y else x) ∧
      gives (.minu d a b) (if x.toNat ≤ y.toNat then x else y) ∧ gives (.maxu d a b) (if x.toNat ≤ y.toNat then y else x) ∧
      gives (.seq d a b) (if x = y then 1 else 0) ∧ gives (.sne d a b) (if x = y then 0 else 1) ∧
      gives (.slt d a b) (if x.toInt < y.toInt then 1 else 0) ∧ gives (.sltu d a b) (if x.toNat < y.toNat then 1 else 0) ∧
      gives (.mul d a b) (BitVec.ofInt 64 (x.toInt * y.toInt)) ∧
      gives (.mulh d a b) (BitVec.ofInt 64 (x.toInt * y.toInt / 2 ^ 64)) ∧
      gives (.mulhu d a b) (BitVec.ofNat 64 (x.toNat * y.toNat / 2 ^ 64)) ∧
      gives (.div d a b) (if y = 0 then BitVec.allOnes 64
        else if x = BitVec.intMin 64 ∧ y = BitVec.allOnes 64 then BitVec.intMin 64 else BitVec.ofInt 64 (x.toInt.tdiv y.toInt)) ∧
      gives (.divu d a b) (if y = 0 then BitVec.allOnes 64 else BitVec.ofNat 64 (x.toNat / y.toNat)) ∧
      gives (.rem d a b) (if y = 0 then x
        else if x = BitVec.intMin 64 ∧ y = BitVec.allOnes 64 then 0 else BitVec.ofInt 64 (x.toInt.tmod y.toInt)) ∧
      gives (.remu d a b) (if y = 0 then x else BitVec.ofNat 64 (x.toNat % y.toNat))) ∧
  (∀ (s : State) (d a b : BitVec 6),
    (Ready s { reads := [a.toNat, b.toNat, d.toNat], writes := [d.toNat] } →
      exec (.sel d a b) s = .next (s.result 4 d.toNat (if s.reg a = 0 then s.reg d else s.reg b))) ∧
    (Ready s { reads := [a.toNat], writes := [d.toNat] } →
      let x := s.reg a
      let gives := fun (i : Instr) (z : Word) => exec i s = .next (s.result 4 d.toNat z)
      (∃ n : Nat, gives (.clz d a) (BitVec.ofNat 64 n) ∧ (x = 0 → n = 64) ∧
        (x ≠ 0 → n < 64 ∧ x.getLsbD (63 - n) = true ∧ ∀ j, 63 - n < j → x.getLsbD j = false)) ∧
      gives (.popc d a) (BitVec.ofNat 64 ((List.range 64).filter x.getLsbD).length) ∧
      gives (.extsB d a) ((x.setWidth 8).signExtend 64) ∧ gives (.extsH d a) ((x.setWidth 16).signExtend 64) ∧
      gives (.extsW d a) ((x.setWidth 32).signExtend 64) ∧ gives (.extzB d a) ((x.setWidth 8).setWidth 64) ∧
      gives (.extzH d a) ((x.setWidth 16).setWidth 64) ∧ gives (.extzW d a) ((x.setWidth 32).setWidth 64)))

/-- Each instruction of the immediate group, LI and LIS completes when the checks before it pass, with the value of its
table in wd and the PC 4 further. (R279, R313) -/
def Obligations.ImmediateGroupResults : Prop :=
  ∀ (s : State) (d a k : BitVec 6) (m : BitVec 12) (n : BitVec 18),
    let gives := fun (i : Instr) (z : Word) => exec i s = .next (s.result 4 d.toNat z)
    (Ready s { reads := [a.toNat], writes := [d.toNat] } →
      let x := s.reg a
      let v := m.signExtend 64
      gives (.addi d a m) (x + v) ∧ gives (.andi d a m) (x &&& v) ∧ gives (.ori d a m) (x ||| v) ∧
        gives (.xori d a m) (x ^^^ v) ∧ gives (.slti d a m) (if x.toInt < m.toInt then 1 else 0) ∧
        gives (.sltiu d a m) (if x.toNat < v.toNat then 1 else 0) ∧ gives (.shli d a k) (x <<< k.toNat) ∧
        gives (.shri d a k) (x >>> k.toNat) ∧ gives (.shai d a k) (x.sshiftRight k.toNat)) ∧
    (Ready s { writes := [d.toNat] } → gives (.li d n) (n.signExtend 64)) ∧
    (Ready s { reads := [d.toNat], writes := [d.toNat] } → gives (.lis d n) (s.reg d * 2 ^ 18 + n.setWidth 64))

/-- The state after a 16-bit integer form is the state after its 32-bit equivalent but for the PC, which is 2 further and
not 4; a C.HINT only moves on. (R255) -/
def Obligations.CompressedArithmetic : Prop :=
  ∀ (s : State) (d a : BitVec 4) (k : BitVec 7) (n : BitVec 5),
    let D := d.setWidth 6
    let A := a.setWidth 6
    let same := fun (i j : Instr) (rs : List Nat) =>
      (Ready s { reads := rs, writes := [d.toNat] } →
        ∃ z, exec j s = .next (s.result 4 d.toNat z) ∧ exec i s = .next (s.result 2 d.toNat z)) ∧
      (¬ Ready s { reads := rs, writes := [d.toNat] } → exec i s = exec j s)
    same (.cMov d a) (.add D A 0) [a.toNat, 0] ∧ same (.cAdd d a) (.add D D A) [d.toNat, a.toNat] ∧
      same (.cSub d a) (.sub D D A) [d.toNat, a.toNat] ∧ same (.cAnd d a) (.and D D A) [d.toNat, a.toNat] ∧
      same (.cAddi d k) (.addi D D (k.signExtend 12)) [d.toNat] ∧ same (.cLi d k) (.li D (k.signExtend 18)) [] ∧
      same (.cShli d n) (.shli D D (n.setWidth 6)) [d.toNat] ∧
      (Ready s {} → exec .cHint s = .next (s.skip 2))

/-- If an instruction of the integer groups, LI, LIS or their 16-bit forms gives a next state, then either it was turned
away (a trap of the decoder's checks, or a wait) or every register of the context except wd, and everything outside
the context, memory among it, is unchanged. (R278, R279, R313, R259) -/
def Obligations.IntegerFrame : Prop :=
  ∀ (s t : State) (d a b : BitVec 6) (m : BitVec 12) (n : BitVec 18) (e f : BitVec 4) (k : BitVec 7) (h : BitVec 5),
    (∀ i ∈ [Instr.add d a b, .sub d a b, .and d a b, .or d a b, .xor d a b, .shl d a b, .shr d a b, .sha d a b, .min d a b,
        .max d a b, .minu d a b, .maxu d a b, .seq d a b, .sne d a b, .slt d a b, .sltu d a b, .mul d a b, .mulh d a b,
        .mulhu d a b, .div d a b, .divu d a b, .rem d a b, .remu d a b, .sel d a b, .clz d a, .popc d a, .extsB d a, .extsH d a,
        .extsW d a, .extzB d a, .extzH d a, .extzW d a, .addi d a m, .andi d a m, .ori d a m, .xori d a m, .slti d a m,
        .sltiu d a m, .shli d a b, .shri d a b, .shai d a b, .li d n, .lis d n],
      exec i s = .next t → TurnedAway s t ∨ (ChangesScalars s t [d.toNat] ∧ t.me.pc = s.me.pc + 4)) ∧
    (∀ i ∈ [Instr.cMov e f, .cAdd e f, .cSub e f, .cAnd e f, .cAddi e k, .cLi e k, .cShli e h],
      exec i s = .next t → TurnedAway s t ∨ (ChangesScalars s t [e.toNat] ∧ t.me.pc = s.me.pc + 2)) ∧
    (exec .cHint s = .next t → TurnedAway s t ∨ (ChangesScalars s t [] ∧ t.me.pc = s.me.pc + 2))

/-- Whatever a context holds, w0 reads zero and m0 reads all ones; writing w0 or m0 leaves the context as it was, writing
another register is read back from it and from no other; an instruction whose destination is w0 leaves every scalar
register as it was. (R259) -/
def Obligations.HardWiredRegisters : Prop :=
  (∀ (c : Ctx) (x : Word) (p : Bool) (y : BitVec 128), c.getW 0 = 0 ∧ c.getM 0 = BitVec.allOnes 128 ∧
    c.putW 0 x p = c ∧ c.putM 0 y = c ∧
    ∀ n j : Nat, n ≠ 0 → (c.putW n x p).getW n = x ∧ (c.putM n y).getM n = y ∧
      (j ≠ n → (c.putW n x p).getW j = c.getW j ∧ (c.putM n y).getM j = c.getM j)) ∧
  (∀ (c : Ctx) (n : Nat), c.holdsW n = (decide (n < 16) || c.sblk.getLsbD (n / 8))) ∧
  (∀ (s : State) (len : Nat) (x : Word) (n : Nat), (s.result len 0 x).me.getW n = s.me.getW n)

/-- For a sample of instructions of every unit and level: the level is checked first and raises PRIV, then the unit and
raises UNIT_ABSENT, then the blocks and raises BLOCK_NOT_HELD with the lowest register outside them, n for wn and 64 +
n for vn; the trap is at the instruction's PC. That code above level H meets the model's named stop instead is the
model's choice (log entry 36). (R245, R261, R256) -/
def Obligations.DecoderChecks : Prop :=
  ∀ (s : State) (d a b : BitVec 6) (vd va vb : BitVec 5) (m : BitVec 3) (k : BitVec 12),
    ∀ p ∈ [((Instr.add d a b, ({ reads := [a.toNat, b.toNat], writes := [d.toNat] } : Need))),
        (.addi d a k, { reads := [a.toNat], writes := [d.toNat] }),
        (.vadd vd va vb m, { unit := .vector, vreads := [va.toNat, vb.toNat], vwrites := [vd.toNat] }),
        (.mwld a, { unit := .matrix, reads := [a.toNat] }),
        (.capreb d a, { level := .s, reads := [a.toNat], writes := [d.toNat] }),
        (.blkrd a b, { unit := .reader, reads := [a.toNat, b.toNat] }),
        (.walk d a b, { unit := .walk, reads := [a.toNat, b.toNat], writes := [d.toNat] }),
        (.vcvt vd va m 2, { unit := .conversion, vreads := [va.toNat], vwrites := [vd.toNat] }),
        (.zerosp d a b, { level := .v, reads := [a.toNat, b.toNat], writes := [d.toNat] }),
        (.sigchk d, { level := .v, writes := [d.toNat] })],
      ((s.level s.cur).rank < p.2.level.rank → exec p.1 s = s.trap 0x19 0) ∧
      (p.2.level.rank ≤ (s.level s.cur).rank → unitPresent p.2.unit (unitOf s.cur) (roleOf s.cur) = false →
        exec p.1 s = s.trap 2 0) ∧
      (p.2.level.rank ≤ (s.level s.cur).rank → unitPresent p.2.unit (unitOf s.cur) (roleOf s.cur) = true →
        ∀ n, s.me.unheld p.2 = some n → exec p.1 s = s.trap 5 n ∧
          (n < 64 → n ∈ p.2.reads ++ p.2.writes ∧ s.me.holdsW n = false) ∧
          (64 ≤ n → n - 64 ∈ p.2.vreads ++ p.2.vwrites ∧ s.me.holdsV (n - 64) = false ∧
            (∀ r ∈ p.2.reads ++ p.2.writes, s.me.holdsW r = true) ∧
            ∀ r ∈ p.2.vreads ++ p.2.vwrites, s.me.holdsV r = false → n ≤ 64 + r) ∧
          ∀ r ∈ p.2.reads ++ p.2.writes, s.me.holdsW r = false → n ≤ r)

/-- Each of the six branches and the two 16-bit ones completes when the checks before it pass: the PC becomes PC + 2 ×
sext(off) where the condition of its table holds and the address past the instruction otherwise, and nothing else
changes. J, C.J and JL go to PC + 2 × sext(off), and JL also writes PC + 4 into w1. LOOP lowers its register by one,
modulo 2^64, and goes to its target while the result is positive, to PC + 4 otherwise. PAD only moves on. Each
completes when the checks before it pass and changes nothing else. (R285, R306, R314) -/
def Obligations.BranchAndDirectJumpResults : Prop :=
  (∀ (s : State) (a b : BitVec 6) (o : BitVec 12) (e : BitVec 4) (q : BitVec 7),
    let go := fun (i : Instr) (len : Nat) (off : Int) (taken : Prop) =>
      ∃ t, exec i s = .next t ∧ ChangesScalars s t [] ∧ (taken → t.me.pc = s.me.pc + BitVec.ofInt 64 (2 * off)) ∧
        (¬ taken → t.me.pc = s.me.pc + BitVec.ofNat 64 len)
    (Ready s { reads := [a.toNat, b.toNat] } →
      let x := s.reg a
      let y := s.reg b
      go (.beq a b o) 4 o.toInt (x = y) ∧ go (.bne a b o) 4 o.toInt (x ≠ y) ∧
        go (.blt a b o) 4 o.toInt (x.toInt < y.toInt) ∧ go (.bge a b o) 4 o.toInt (y.toInt ≤ x.toInt) ∧
        go (.bltu a b o) 4 o.toInt (x.toNat < y.toNat) ∧ go (.bgeu a b o) 4 o.toInt (y.toNat ≤ x.toNat)) ∧
    (Ready s { reads := [e.toNat, 0] } →
      go (.cBz e q) 2 q.toInt (s.reg e = 0) ∧ go (.cBnz e q) 2 q.toInt (s.reg e ≠ 0))) ∧
  (∀ (s : State) (a : BitVec 6) (o : BitVec 24) (f : BitVec 12) (g : BitVec 11),
    let go := fun (i : Instr) (ws : List Nat) (pc : Word) => ∃ t, exec i s = .next t ∧ ChangesScalars s t ws ∧ t.me.pc = pc
    (Ready s {} → go (.j o) [] (s.me.pc + BitVec.ofInt 64 (2 * o.toInt)) ∧
      go (.cJ g) [] (s.me.pc + BitVec.ofInt 64 (2 * g.toInt)) ∧ go .pad [] (s.me.pc + 4)) ∧
    (Ready s { writes := [1] } → ∃ t, exec (.jl o) s = .next t ∧ ChangesScalars s t [1] ∧
      t.me.pc = s.me.pc + BitVec.ofInt 64 (2 * o.toInt) ∧ t.me.getW 1 = s.me.pc + 4) ∧
    (Ready s { reads := [a.toNat], writes := [a.toNat] } → ∃ t, exec (.loop a f) s = .next t ∧ ChangesScalars s t [a.toNat] ∧
      (a ≠ 0 → t.me.getW a.toNat = s.reg a - 1) ∧
      (0 < (s.reg a - 1).toInt → t.me.pc = s.me.pc + BitVec.ofInt 64 (2 * f.toInt)) ∧
      ((s.reg a - 1).toInt ≤ 0 → t.me.pc = s.me.pc + 4)))

/-- An indirect jump whose target is even, can be fetched and holds the PAD of its kind goes there, JLR writing PC + 4
into w1. A set bit 0 traps with MISALIGN, a target that cannot be fetched traps with the fault of the fetch, and
another instruction traps with PAD_MISS whose subcode is the kind expected; each trap is exact at the jump with the
target as fault address. (R307, R332) -/
def Obligations.IndirectJumpResults : Prop :=
  ∀ (s : State) (a : BitVec 6),
    ∀ p ∈ [(Instr.jr a, a.toNat, (1 : Nat), ([] : List Nat)), (.jlr a, a.toNat, 0, [1]), (.ret a, a.toNat, 2, []), (.cRet, 1, 2, [])],
      Ready s { reads := [p.2.1], writes := p.2.2.2 } →
        let t := s.me.getW p.2.1
        (t.toNat % 2 = 1 → exec p.1 s = s.trapAt s.cur 6 0 t none) ∧
        (t.toNat % 2 = 0 →
          (∀ f u, s.fetchBytes s.cur t = (.error f, u) → exec p.1 s = u.trapAt s.cur f.cause f.sub t none) ∧
          (∀ bs u, s.fetchBytes s.cur t = (.ok bs, u) →
            (bytesNat bs ≠ 0x33 + p.2.2.1 * 2 ^ 20 → exec p.1 s = u.trapAt s.cur 3 p.2.2.1 t none) ∧
            (bytesNat bs = 0x33 + p.2.2.1 * 2 ^ 20 →
              u.cur = s.cur ∧ u.ctxs = s.ctxs ∧ ∃ v, exec p.1 s = .next v ∧ v.me.pc = t ∧ ChangesScalars u v p.2.2.2 ∧
                (1 ∈ p.2.2.2 → v.me.getW 1 = u.me.pc + 4))))

/-- Outside a region, or in an irrevocable one, BOQW appends 1 if wa is not zero and 0 otherwise while fewer than 32
outcomes are queued, and waits, changing only its context's state, when 32 are. BOQB takes the oldest outcome and
branches where it is 1 (sense 0) or 0 (sense 1); with no outcome it waits. With a free block that no earlier waiter is
due, RBACQ and RBACQT bind the lowest block that the context does not hold, zero every register in it and put its
number in wd. A file above 1, or a file whose blocks are all held, gives -1 at once; with no free block RBACQT gives
-1 and RBACQ waits in the order of its core. A vector file on a core without vector blocks traps with UNIT_ABSENT.
RBREL of a held block, 2 or above for the scalar file, that no load is still to write drops the block outside a
region; a file above 1 or a number beyond the file traps with BLOCK_NOT_HELD, subcode 0xFFFF; a block below 2 of the
scalar file or one not held traps with 8 × wb, or 64 + 8 × wb for a vector block. (R290, R291, R329, R330) -/
def Obligations.OutcomesAndRegisterBlocks : Prop :=
  (∀ (s : State) (a : BitVec 6) (n : BitVec 1) (o : BitVec 12), Settled s →
    let q := s.tile (unitOf s.cur)
    (Ready s { reads := [a.toNat] } →
      (q.outcomes.length < 32 → exec (.boqw a) s =
        .next ((s.setTile (unitOf s.cur) { q with outcomes := q.outcomes ++ [decide (s.reg a ≠ 0)] }).skip 4)) ∧
      (32 ≤ q.outcomes.length → exec (.boqw a) s = s.stall)) ∧
    (Ready s {} → (q.outcomes = [] → exec (.boqb n o) s = s.stall) ∧
      ∀ x r, q.outcomes = x :: r →
        let u := s.setTile (unitOf s.cur) { q with outcomes := r }
        exec (.boqb n o) s = .next (u.setCtx s.cur { s.me with
          pc := if (x = true ↔ n = 0) then s.me.pc + BitVec.ofInt 64 (2 * o.toInt) else s.me.pc + 4
          state := s.me.running }))) ∧
  ((∀ (s : State) (d a : BitVec 6), Ready s { reads := [a.toNat], writes := [d.toNat] } →
    let file := (s.reg a).toNat
    let core := coreOf s.cur
    let ahead := waitersAhead s.cur file (s.core core).rbWait + (if file = 1 then s.rowsAhead core else 0)
    ∀ p ∈ [(Instr.rbacq d a, false), (.rbacqt d a, true)],
      (file = 1 → poolBlocks core 1 = 0 → exec p.1 s = s.trap 2 0) ∧
      (1 < file → exec p.1 s = .next (s.result 4 d.toNat (-1))) ∧
      (file ≤ 1 → ¬ (file = 1 ∧ poolBlocks core 1 = 0) →
        ((∀ n < (if file = 0 then 8 else 4), s.me.holdsBlock file n = true) → exec p.1 s = .next (s.result 4 d.toNat (-1))) ∧
        ∀ n, n < (if file = 0 then 8 else 4) → s.me.holdsBlock file n = false → (∀ m < n, s.me.holdsBlock file m = true) →
          (ahead < s.freeBlocks core file →
            ∃ t, exec p.1 s = .next t ∧ t.me.holdsBlock file n = true ∧ (d ≠ 0 → t.me.getW d.toNat = BitVec.ofNat 64 n) ∧
              t.me.pc = s.me.pc + 4 ∧
              (file = 0 → ∀ r, 8 * n ≤ r → r < 8 * n + 8 → r ≠ d.toNat → t.me.getW r = 0) ∧
              (file = 1 → ∀ r, 8 * n ≤ r → r < 8 * n + 8 → t.me.getV r = [])) ∧
          (s.freeBlocks core file ≤ ahead → p.2 = true →
            exec p.1 s = .next (s.result 4 d.toNat (-1))) ∧
          (s.freeBlocks core file ≤ ahead → p.2 = false →
            let ws := (s.core core).rbWait
            exec p.1 s = (s.setCore core { s.core core with
              rbWait := if ws.any (fun e => e.1 == s.cur) then ws else ws ++ [(s.cur, file)] }).stall))) ∧
  (∀ (s : State) (a b : BitVec 6), Ready s { reads := [a.toNat, b.toNat] } →
    let file := (s.reg a).toNat
    let n := (s.reg b).toNat
    (file = 1 → poolBlocks (coreOf s.cur) 1 = 0 → exec (.rbrel a b) s = s.trap 2 0) ∧
    (¬ (file = 1 ∧ poolBlocks (coreOf s.cur) 1 = 0) →
      (1 < file ∨ (file = 0 ∧ 7 < n) ∨ (file = 1 ∧ 3 < n) → exec (.rbrel a b) s = s.trap 5 0xFFFF) ∧
      (file = 0 → n ≤ 7 → (n < 2 ∨ s.me.holdsBlock 0 n = false) → exec (.rbrel a b) s = s.trap 5 (8 * n)) ∧
      (file = 1 → n ≤ 3 → s.me.holdsBlock 1 n = false → exec (.rbrel a b) s = s.trap 5 (64 + 8 * n)) ∧
      (file ≤ 1 → (file = 0 → 2 ≤ n ∧ n ≤ 7) → (file = 1 → n ≤ 3) → s.me.holdsBlock file n = true → Settled s →
        (s.blockAwaits s.cur file n = true → exec (.rbrel a b) s = s.waitFor (s.blockSlow s.cur file n)) ∧
        (s.blockAwaits s.cur file n = false →
          ∃ t, exec (.rbrel a b) s = .next t ∧ t = s.done 4 (s.me.dropBlock file n) ∧ t.me.holdsBlock file n = false ∧
            (∀ f m, f ≤ 1 → (f ≠ file ∨ m ≠ n) → t.me.holdsBlock f m = s.me.holdsBlock f m))))))

/-- IXSET writes wa to the index register, IXADD adds wa to it modulo 2^64, LOX writes wa to the operand-extension
register and MOVOX copies one into wd; each completes when the checks before it pass, changes that register only, and
moves on. With x the signed index register and n the exact sum of x and the immediate, a negative x, an n outside 0 to
63 or an n whose block is not held traps with REG_BOUND, subcode 0, and nothing is read or written. Otherwise MOVX
puts w[n] into wd and MOVXW puts wd into w[n], which w0 discards; MOVXW waits for a load still to write w[n]. (R305,
R315, R320, R321) -/
def Obligations.IndexRegistersAndMoves : Prop :=
  (∀ (s : State) (x : BitVec 2) (y : BitVec 3) (d a : BitVec 6),
    (Ready s { reads := [a.toNat] } →
      exec (.ixset x a) s = .next (s.done 4 (s.me.putIx x.toNat (s.reg a))) ∧
      exec (.ixadd x a) s = .next (s.done 4 (s.me.putIx x.toNat (s.me.getIx x.toNat + s.reg a))) ∧
      exec (.lox y a) s = .next (s.done 4 (s.me.putOx y.toNat (s.reg a)))) ∧
    (Ready s { writes := [d.toNat] } → exec (.movox d y) s = .next (s.result 4 d.toNat (s.me.getOx y.toNat))) ∧
    ∀ (c : Ctx) (n j : Nat) (v : Word), (c.putIx n v).getIx n = v ∧ (c.putOx n v).getOx n = v ∧
      (j ≠ n → (c.putIx n v).getIx j = c.getIx j ∧ (c.putOx n v).getOx j = c.getOx j)) ∧
  (∀ (s : State) (d : BitVec 6) (x : BitVec 2) (k : BitVec 12),
    let v := (s.me.getIx x.toNat).toInt
    let n := v + k.toInt
    let bad := v < 0 ∨ n < 0 ∨ 63 < n ∨ s.me.holdsW n.toNat = false
    (Ready s { writes := [d.toNat] } →
      (bad → exec (.movx d x k) s = s.trap 4 0) ∧
      (¬ bad → Ready s { reads := [n.toNat] } → exec (.movx d x k) s = .next (s.result 4 d.toNat (s.me.getW n.toNat)))) ∧
    (Ready s { reads := [d.toNat] } →
      (bad → exec (.movxw d x k) s = s.trap 4 0) ∧
      (¬ bad → s.awaits s.cur (.w n.toNat) = true → exec (.movxw d x k) s = s.waitFor (s.slowly s.cur (.w n.toNat))) ∧
      (¬ bad → s.awaits s.cur (.w n.toNat) = false → exec (.movxw d x k) s = .next (s.result 4 n.toNat (s.reg d)))))

/-- Each instruction of the group completes when the checks before it pass; an F32 result of the low words of its operands
stands in wd[31:0] with wd[63:32] zero, a comparison is 1 or 0 over all of wd, FFMA takes wd[31:0] as its addend with
one rounding, FCVTWS clamps the value rounded toward zero and FCVTSW rounds all 64 bits of wa; nothing traps. (R298,
R299) -/
def Obligations.ScalarFloatResults : Prop :=
  ∀ (s : State) (d a b : BitVec 6),
    let x := (s.reg a).setWidth 32
    let y := (s.reg b).setWidth 32
    let gives := fun (i : Instr) (z : Word) => exec i s = .next (s.result 4 d.toNat z)
    (Ready s { reads := [a.toNat, b.toNat], writes := [d.toNat] } →
      gives (.fadd d a b) ((f32Add x y).setWidth 64) ∧ gives (.fsub d a b) ((f32Sub x y).setWidth 64) ∧
      gives (.fmul d a b) ((f32Mul x y).setWidth 64) ∧ gives (.fdiv d a b) ((f32Div x y).setWidth 64) ∧
      gives (.fmin d a b) ((f32Min x y).setWidth 64) ∧ gives (.fmax d a b) ((f32Max x y).setWidth 64) ∧
      gives (.feq d a b) (if f32Eq x y then 1 else 0) ∧ gives (.flt d a b) (if f32Lt x y then 1 else 0) ∧
      gives (.fle d a b) (if f32Le x y then 1 else 0)) ∧
    (Ready s { reads := [a.toNat, b.toNat, d.toNat], writes := [d.toNat] } →
      gives (.ffma d a b) ((toF32 (((valF32 x).mul (valF32 y)).add (valF32 ((s.reg d).setWidth 32)))).setWidth 64)) ∧
    (Ready s { reads := [a.toNat], writes := [d.toNat] } →
      gives (.fsqrt d a) ((f32Sqrt x).setWidth 64) ∧
      gives (.fcvtws d a) (BitVec.ofInt 64 (toI32 false (valF32 x))) ∧
      gives (.fcvtsw d a) ((f32OfInt (s.reg a).toInt).setWidth 64))

/-- A NaN operand gives the canonical NaN and every NaN result is it; an F32 that is no NaN is its own value rounded,
subnormals among them; a zero sum is -0 only of two negative zeros; a zero product or quotient carries the exclusive
or of the signs; FMIN and FMAX return the other operand of one NaN and order -0 below +0; the square root of -0 is -0
and of another negative value NaN; the comparisons are false for NaN and hold -0 equal to +0. (R135, R136) -/
def Obligations.FloatSpecialValues : Prop :=
  (∀ x y z : Word32, isNaN32 x = true →
    f32Add x y = 0x7FC00000 ∧ f32Add y x = 0x7FC00000 ∧ f32Sub x y = 0x7FC00000 ∧ f32Sub y x = 0x7FC00000 ∧
    f32Mul x y = 0x7FC00000 ∧ f32Mul y x = 0x7FC00000 ∧ f32Div x y = 0x7FC00000 ∧ f32Div y x = 0x7FC00000 ∧
    f32Fma x y z = 0x7FC00000 ∧ f32Fma y x z = 0x7FC00000 ∧ f32Fma y z x = 0x7FC00000 ∧ f32Sqrt x = 0x7FC00000 ∧
    (isNaN32 y = false → f32Min x y = y ∧ f32Min y x = y ∧ f32Max x y = y ∧ f32Max y x = y) ∧
    (isNaN32 y = true → f32Min x y = 0x7FC00000 ∧ f32Max x y = 0x7FC00000) ∧
    f32Eq x y = false ∧ f32Eq y x = false ∧ f32Lt x y = false ∧ f32Lt y x = false ∧ f32Le x y = false ∧ f32Le y x = false) ∧
  (∀ x y z : Word32, ∀ r ∈ [f32Add x y, f32Sub x y, f32Mul x y, f32Div x y, f32Fma x y z, f32Sqrt x, f32Min x y, f32Max x y],
    isNaN32 r = true → r = 0x7FC00000) ∧
  (∀ x : Word32, isNaN32 x = false → toF32 (valF32 x) = x ∧
    (x.toNat % 2 ^ 31 ≠ 0 → x.toNat % 2 ^ 31 ≠ 0x7F800000 → f32Add x (x ^^^ 0x80000000) = 0) ∧
    (2 ^ 31 < x.toNat → f32Sqrt x = 0x7FC00000)) ∧
  f32Add 0x80000000 0x80000000 = 0x80000000 ∧ f32Add 0 0x80000000 = 0 ∧ f32Sub 0x80000000 0 = 0x80000000 ∧
  f32Sqrt 0x80000000 = 0x80000000 ∧ f32Min 0 0x80000000 = 0x80000000 ∧ f32Max 0x80000000 0 = 0 ∧
  f32Eq 0 0x80000000 = true ∧ f32Lt 0x80000000 0 = false ∧
  (∀ x : Word32, isNaN32 x = false → x.toNat % 2 ^ 31 ≠ 0x7F800000 →
    f32Mul x 0 = x &&& 0x80000000 ∧ f32Mul x 0x80000000 = (x ^^^ 0x80000000) &&& 0x80000000 ∧
    f32Div x 0x7F800000 = x &&& 0x80000000 ∧ f32Div x 0xFF800000 = (x ^^^ 0x80000000) &&& 0x80000000) ∧
  (∀ x : Word32, isNaN32 x = false → x.toNat % 2 ^ 31 ≠ 0 →
    f32Div 0 x = x &&& 0x80000000 ∧ f32Div 0x80000000 x = (x ^^^ 0x80000000) &&& 0x80000000) ∧
  (∀ x y : Word32, ∀ r ∈ [f32Mul x y, f32Div x y], r.toNat % 2 ^ 31 = 0 → r.getLsbD 31 = (x.getLsbD 31 != y.getLsbD 31))

/-- Of all finite F32 codes none lies nearer to the value than the one that rounding gives, where that one is finite;
where another value lies as near, the code given is even; an infinity is given exactly where the value's magnitude is
at least half a unit in the last place above the largest finite code; the sign of the value is kept, a result of zero
included. (R135, R134) -/
def Obligations.FloatRoundsToNearestEven : Prop :=
  let q := fun (v : FVal) => (match v with
    | .fin n m e => (if n then -1 else 1) * (m : ℚ) * (2 : ℚ) ^ e
    | _ => 0 : ℚ)
  let finite := fun (x : Word32) => x.toNat % 2 ^ 31 < 0x7F800000
  ∀ (n : Bool) (m : Nat) (e : Int),
    let r := toF32 (.fin n m e)
    r.getLsbD 31 = n ∧
    (finite r → ∀ c : Word32, finite c →
      |q (valF32 r) - q (.fin n m e)| ≤ |q (valF32 c) - q (.fin n m e)| ∧
      (|q (valF32 c) - q (.fin n m e)| = |q (valF32 r) - q (.fin n m e)| → q (valF32 c) ≠ q (valF32 r) → r.getLsbD 0 = false)) ∧
    (¬ finite r → r.toNat % 2 ^ 31 = 0x7F800000) ∧
    (¬ finite r ↔ ((2 : ℚ) ^ (128 : Int) - (2 : ℚ) ^ (103 : Int)) ≤ (m : ℚ) * (2 : ℚ) ^ e)

/-- A load whose checks pass puts one access per home on its way, for its bytes and for wd, raises ld, writes no register
yet and moves on; LDA loads zero-extended and holds every later access of its context until its value has returned;
C.LDW is LDW from w2. A store whose checks pass puts one access per home on its way with the low bytes of wd and its
poison mark, raises st and moves on, memory unchanged until its home performs it; STL awaits at its home every earlier
access and message of its context, and holds later stores until then; C.STW is STW to w2. (R312, R311, R337, R338) -/
def Obligations.LoadsAndStoresIssue : Prop :=
  (∀ (s u : State) (d a : BitVec 6) (k : BitVec 12) (n : BitVec 2) (e : BitVec 4) (q : BitVec 7) (ps : List Part),
    (Ready s { reads := [a.toNat], writes := [d.toNat] } →
      let va := s.reg a + k.signExtend 64
      (∀ p ∈ [(Instr.ldb d a k, 1, true), (.ldbu d a k, 1, false), (.ldh d a k, 2, true), (.ldhu d a k, 2, false),
          (.ldw d a k, 4, true), (.ldwu d a k, 4, false), (.ldd d a k, 8, false)],
        Sends s .load va p.2.1 p.2.1 true false ps u →
          exec p.1 s = .next ((u.sendAccess va ps (fun _ => .load p.2.2) (dstW d.toNat) [] true false).skip 4)) ∧
      (Sends s .load (s.reg a) (2 ^ n.toNat) (2 ^ n.toNat) true false ps u →
        exec (.lda d a n) s = .next
          (((u.sendAccess (s.reg a) ps (fun _ => .load false) (dstW d.toNat) [] true false).holdCur [u.nextId] []).skip 4))) ∧
    (Ready s { reads := [2], writes := [e.toNat] } →
      let va := s.me.getW 2 + BitVec.ofNat 64 (4 * q.toNat)
      Sends s .load va 4 4 true false ps u →
        exec (.cLdw e q) s = .next ((u.sendAccess va ps (fun _ => .load true) (dstW e.toNat) [] true false).skip 2))) ∧
  (∀ (s u : State) (d a : BitVec 6) (k : BitVec 12) (n : BitVec 2) (e : BitVec 4) (q : BitVec 7) (ps : List Part),
    let sent := fun (va x : Word) (w : Nat) (bad : Bool) (after : List Nat) =>
      (u.sendAccess va ps (fun _ => .store (enumBytes (natBytes w x.toNat)) bad) .none after false true).holdCur [] after
    (Ready s { reads := [a.toNat], data := [d.toNat] } →
      let va := s.reg a + k.signExtend 64
      let bad := Tbl.get false s.me.wbad d.toNat
      (∀ p ∈ [(Instr.stb d a k, 1), (.sth d a k, 2), (.stw d a k, 4), (.std d a k, 8)],
        Sends s .store va p.2 p.2 false true ps u →
          exec p.1 s = .next ((sent va (s.reg d) p.2 bad []).skip 4)) ∧
      (Sends s .store (s.reg a + 0) (2 ^ n.toNat) (2 ^ n.toNat) false true ps u →
        exec (.stl d a n) s = .next ((sent (s.reg a + 0) (s.reg d) (2 ^ n.toNat) bad (u.outstanding u.cur 4)).skip 4))) ∧
    (Ready s { reads := [2], data := [e.toNat] } →
      let va := s.me.getW 2 + BitVec.ofNat 64 (4 * q.toNat)
      Sends s .store va 4 4 false true ps u →
        exec (.cStw e q) s = .next ((sent va (s.reg e) 4 (Tbl.get false s.me.wbad e.toNat) []).skip 2)))

/-- An atomic whose checks pass puts its operation, its operand and, for AMOCAS, the expected value of wd on the way to
the home, raises ld and st, and moves on. (R281, R283) -/
def Obligations.AtomicsIssue : Prop :=
  ∀ (s u : State) (d a b : BitVec 6) (z : BitVec 1) (ps : List Part),
    let n := if z = 0 then 4 else 8
    let sent := fun (op : AmoOp) =>
      (u.sendAccess (s.reg a) ps (fun _ => .amo op (s.reg b) true false) (dstW d.toNat) [] true true).skip 4
    (Ready s { reads := [a.toNat, b.toNat], writes := [d.toNat] } →
      (Sends s .store (s.reg a) n n true true ps u →
        ∀ p ∈ [(Instr.amoadd d a b z, AmoOp.add), (.amoand d a b z, .and), (.amoor d a b z, .or), (.amoxor d a b z, .xor),
            (.amomin d a b z, .min), (.amomax d a b z, .max), (.amominu d a b z, .minu), (.amomaxu d a b z, .maxu),
            (.amoswp d a b z, .swp)],
          exec p.1 s = .next (sent p.2)) ∧
      (Sends s .store (s.reg a) 4 4 true true ps u → exec (.amofadd d a b) s = .next (sent .fadd))) ∧
    (Ready s { reads := [a.toNat, b.toNat, d.toNat], writes := [d.toNat] } →
      Sends s .store (s.reg a) n n true true ps u → exec (.amocas d a b z) s = .next (sent (.cas (s.reg d))))

/-- A load or store waits while an acquire or release holds it; then a misaligned address traps with MISALIGN and the
address; then a window, translation or permission that fails traps with its own cause, subcode and address, a poisoned
translation counted as an uncorrectable error (log entry 18); then a home in another package in a region traps with
REGION_SCOPE; and a full counter makes it wait. (R312, R337, R22, R117) -/
def Obligations.AccessTraps : Prop :=
  ∀ (s : State) (d a : BitVec 6) (k : BitVec 12),
    let va := s.reg a + k.signExtend 64
    ∀ p ∈ [(Instr.ldb d a k, Access.load, 1), (.ldbu d a k, .load, 1), (.ldh d a k, .load, 2), (.ldhu d a k, .load, 2),
        (.ldw d a k, .load, 4), (.ldwu d a k, .load, 4), (.ldd d a k, .load, 8), (.stb d a k, .store, 1), (.sth d a k, .store, 2),
        (.stw d a k, .store, 4), (.std d a k, .store, 8)],
      let st := decide (p.2.1 = .store)
      Ready s (if st then { reads := [a.toNat], data := [d.toNat] } else { reads := [a.toNat], writes := [d.toNat] }) →
        (s.gated st = true → exec p.1 s = s.waitGate) ∧
        (s.gated st = false → va.toNat % p.2.2 ≠ 0 → exec p.1 s = s.trapAt s.cur 6 0 va none) ∧
        (s.gated st = false → va.toNat % p.2.2 = 0 →
          (∀ f, s.locate s.cur p.2.1 va p.2.2 = .error f →
            exec p.1 s = (if f.cause = 0x14 then s.logError true else s).trapAt s.cur f.cause f.sub f.addr none) ∧
          (∀ ps u, s.locate s.cur p.2.1 va p.2.2 = .ok (ps, u) →
            (u.scopeBreach ps = true → exec p.1 s = u.trap 0xD 0) ∧
            (u.scopeBreach ps = false → u.me.region = none → u.full (!st) st = true → exec p.1 s = u.stall)))

/-- One access per part joins those in flight, each with its part's home, address and length, the counters named rise by
one, no byte of memory and no other context changes, of the current context nothing but the counters, and no port and
no flit where every home lies in this package. (R78, R312, R356) -/
def Obligations.AccessOnItsWay : Prop :=
  ∀ (s : State) (va : Word) (ps : List Part) (op : Part → TxnOp) (dst : Dst) (after : List Nat) (ld st : Bool),
    let t := s.sendAccess va ps op dst after ld st
    t.txns.length = s.txns.length + ps.length ∧
    (∀ j : Nat, j < s.txns.length → t.txns[j]? = s.txns[j]?) ∧
    (∀ (j : Nat) (p : Part), ps[j]? = some p → ∃ x, t.txns[s.txns.length + j]? = some x ∧ x.id = s.nextId + j ∧ x.grp = s.nextId ∧
      x.ctx = s.cur ∧ x.home = p.home ∧ x.key = p.key ∧ x.n = p.len ∧ x.kid = p.kid ∧ x.op = op p ∧ x.dst = dst ∧ x.after = after ∧
      x.ld = ld ∧ x.st = st ∧ x.performed = false) ∧
    (∀ kid key, t.readByte kid key = s.readByte kid key) ∧ (∀ k, k ≠ s.cur → t.ctx k = s.ctx k) ∧
    t.me = { s.me with ld := s.me.ld + (if ld then 1 else 0), st := s.me.st + (if st then 1 else 0) } ∧
    t = { s with ctxs := t.ctxs, txns := t.txns, ports := t.ports, flits := t.flits, nextId := s.nextId + ps.length } ∧
    ((∀ p ∈ ps, s.remotePlane p.home = none) → t.ports = s.ports ∧ t.flits = s.flits)

/-- ACCESS_PERFORMED of an ordinary access that may be performed, with no region in the package: a load keeps the bytes
and mark of memory, a mark counted as an uncorrectable error (log entry 18); a store writes its bytes and no other,
and of those none of an audit log or receipt ring, which hardware alone writes (R5; log entry 91); an atomic keeps the
old bytes and stores the operation's result in the same way, but where its line holds an uncorrectable error nothing
is written, the error is counted and old carries poison. An access that may not be performed yet stays. (R281, R74,
R171, R5, R354) -/
def Obligations.HomePerformsAccesses : Prop :=
  ∀ (s : State) (id : Nat) (t : Txn), s.txn? id = some t → t.region = none → (∀ p, t.home ≠ .registers p) →
    (s.mayPerform t = false → exec (.accessPerformed id) s = .next s) ∧
    (s.mayPerform t = true → s.versions = [] → s.dir = [] → t.op.isWide = true → ∃ v, exec (.accessPerformed id) s = .next v ∧
      (∃ x ∈ v.txns, x.id = id ∧ x.performed = true) ∧ ∀ u ∈ s.siblings t, ∃ x ∈ v.txns, x.id = u.id ∧ x.performed = true) ∧
    (s.mayPerform t = true → s.versions = [] → s.dir = [] → s.siblings t = [] →
      let old := s.readBytes t.kid t.key t.n
      let done := { t with performed := true, withheld := none }
      (∀ sg, t.op = .load sg →
        exec (.accessPerformed id) s = .next ((if s.readBad t.key t.n then s.logError true else s).setTxn
          { done with bytes := old, bad := s.readBad t.key t.n })) ∧
      (∀ bs bad, t.op = .store bs bad →
        exec (.accessPerformed id) s = .next ((s.writeBytes t.kid t.key bad (s.landing t.key bs)).setTxn done)) ∧
      (∀ op v r bad, t.op = .amo op v r bad → s.readBad (t.key / 64 * 64) 64 = true →
        exec (.accessPerformed id) s = .next ((s.logError true).setTxn { done with bytes := old, bad := true })) ∧
      (∀ op v r bad, t.op = .amo op v r bad → s.readBad (t.key / 64 * 64) 64 = false →
        exec (.accessPerformed id) s = .next
          (((match amoNew op t.n (bytesNat old) (v.toNat % 2 ^ (8 * t.n)) with
            | some x => s.writeBytes t.kid t.key bad (s.landing t.key (enumBytes (natBytes t.n x)))
            | none => s)).setTxn { done with bytes := old, bad := false }))) ∧
    ∀ key bs p, p ∈ s.landing key bs ↔ p ∈ bs ∧ s.hardwareOwned (key + p.1) = false

/-- After bytes are stored under a key at offsets that are all different, each reads back under that key; every byte of a
line that the store does not touch reads as before under every key; and every other byte of a line that it touches
reads, under the store's key, as it read before. (R74, R195) -/
def Obligations.StoreWritesItsBytes : Prop :=
  ∀ (s : State) (kid key : Nat) (bad : Bool) (bs : List (Nat × Byte)), (bs.map (·.1)).Nodup →
    let t := s.writeBytes kid key bad bs
    (∀ p ∈ bs, t.readByte kid (key + p.1) = p.2 ∧ Tbl.get false t.bad (key + p.1) = bad) ∧
    (∀ a, (∀ p ∈ bs, a ≠ key + p.1) → t.readByte kid a = s.readByte kid a ∧ Tbl.get false t.bad a = Tbl.get false s.bad a) ∧
    (∀ a kid', (∀ p ∈ bs, a / 64 ≠ (key + p.1) / 64) → t.readByte kid' a = s.readByte kid' a)

/-- On n bytes, AMOADD adds modulo 2^(8n), AMOAND, AMOOR and AMOXOR combine bits, AMOMIN and AMOMAX compare signed and
AMOMINU and AMOMAXU unsigned, AMOSWP takes the operand, AMOFADD adds as F32, and AMOCAS stores the operand only where
the location holds the expected value. (R281) -/
def Obligations.AtomicOperations : Prop :=
  (∀ x v : BitVec 32, amoNew .add 4 x.toNat v.toNat = some (x + v).toNat ∧ amoNew .and 4 x.toNat v.toNat = some (x &&& v).toNat ∧
    amoNew .or 4 x.toNat v.toNat = some (x ||| v).toNat ∧ amoNew .xor 4 x.toNat v.toNat = some (x ^^^ v).toNat ∧
    amoNew .min 4 x.toNat v.toNat = some (if x.toInt ≤ v.toInt then x else v).toNat ∧
    amoNew .max 4 x.toNat v.toNat = some (if x.toInt ≤ v.toInt then v else x).toNat ∧
    amoNew .minu 4 x.toNat v.toNat = some (if x.toNat ≤ v.toNat then x else v).toNat ∧
    amoNew .maxu 4 x.toNat v.toNat = some (if x.toNat ≤ v.toNat then v else x).toNat ∧
    amoNew .swp 4 x.toNat v.toNat = some v.toNat ∧ amoNew .fadd 4 x.toNat v.toNat = some (f32Add x v).toNat ∧
    (∀ e : Word, amoNew (.cas e) 4 x.toNat v.toNat = if x = e.setWidth 32 then some v.toNat else none)) ∧
  (∀ x v : BitVec 64, amoNew .add 8 x.toNat v.toNat = some (x + v).toNat ∧ amoNew .and 8 x.toNat v.toNat = some (x &&& v).toNat ∧
    amoNew .or 8 x.toNat v.toNat = some (x ||| v).toNat ∧ amoNew .xor 8 x.toNat v.toNat = some (x ^^^ v).toNat ∧
    amoNew .min 8 x.toNat v.toNat = some (if x.toInt ≤ v.toInt then x else v).toNat ∧
    amoNew .max 8 x.toNat v.toNat = some (if x.toInt ≤ v.toInt then v else x).toNat ∧
    amoNew .minu 8 x.toNat v.toNat = some (if x.toNat ≤ v.toNat then x else v).toNat ∧
    amoNew .maxu 8 x.toNat v.toNat = some (if x.toNat ≤ v.toNat then v else x).toNat ∧
    amoNew .swp 8 x.toNat v.toNat = some v.toNat ∧
    (∀ e : Word, amoNew (.cas e) 8 x.toNat v.toNat = if x = e then some v.toNat else none))

/-- LOAD_RESPONSE of a performed scalar load, the last access of its instruction, for a context that still runs the
activation writes the value, extended as the load says, and its mark into the register, lowers ld, and takes the
access away; STORE_ACK of a performed store lowers st and takes it away. Memory and every other context stay. (R78,
R171, R356) -/
def Obligations.AccessAnswers : Prop :=
  ∀ (s : State) (id : Nat) (t : Txn), s.txn? id = some t → t.performed = true →
    (∀ u ∈ s.txns, u.id ≠ t.id → u.grp ≠ t.grp) → (s.ctx t.ctx).actId = t.act → t.seq = none →
    (∀ sg, t.op = .load sg → t.ld = true → t.st = false → ∃ v, exec (.loadResponse id) s = .next v ∧
      v.txns = s.txns.filter (fun u => u.id != t.id) ∧ (∀ kid key, v.readByte kid key = s.readByte kid key) ∧
      (∀ k, k ≠ t.ctx → v.ctx k = s.ctx k) ∧ (v.ctx t.ctx).ld = (s.ctx t.ctx).ld - 1 ∧
      (∀ n, t.dst = .w n → n ≠ 0 →
        (v.ctx t.ctx).getW n = loadValue sg t.n t.bytes ∧ Tbl.get false (v.ctx t.ctx).wbad n = t.bad)) ∧
    (∀ bs bad, t.op = .store bs bad → t.ld = false → t.st = true → ∃ v, exec (.storeAck id) s = .next v ∧
      v.txns = s.txns.filter (fun u => u.id != t.id) ∧ (∀ kid key, v.readByte kid key = s.readByte kid key) ∧
      (∀ k, k ≠ t.ctx → v.ctx k = s.ctx k) ∧ v.ctx t.ctx = { s.ctx t.ctx with st := (s.ctx t.ctx).st - 1 })

/-- With nothing else in flight and no region in the package, a doubleword load of one home that is memory of this
package, then ACCESS_PERFORMED and LOAD_RESPONSE for it, leave in wd the eight bytes that memory holds, ld where it
was, the PC past the load and memory as it was. (R312, R74, R78) -/
def Obligations.LoadBringsWhatMemoryHolds : Prop :=
  ∀ (s u : State) (d a : BitVec 6) (k : BitVec 12) (p : Part),
    Ready s { reads := [a.toNat], writes := [d.toNat] } → d ≠ 0 →
    Sends s .load (s.reg a + k.signExtend 64) 8 8 true false [p] u → (∀ q, p.home ≠ .registers q) → p.len = 8 →
    s.homePackage p.home = s.package → s.txns = [] → s.blks = [] → s.versions = [] → s.dir = [] → s.me.region = none →
      ∃ t v w, exec (.ldd d a k) s = .next t ∧ exec (.accessPerformed u.nextId) t = .next v ∧
        exec (.loadResponse u.nextId) v = .next w ∧ w.txns = [] ∧
        w.me.getW d.toNat = BitVec.ofNat 64 (bytesNat (s.readBytes p.kid p.key 8)) ∧
        Tbl.get false w.me.wbad d.toNat = s.readBad p.key 8 ∧ w.me.ld = s.me.ld ∧ w.me.pc = s.me.pc + 4 ∧
        ∀ kid key, w.readByte kid key = s.readByte kid key

/-- FENCE, once no acquire holds its context, completes at once for it: a full fence makes every later access await what
is on its way to homes in scope, an acquire fence every later access the loads and atomics not returned, a release
fence every later store, atomic, message and enqueue what is on its way. IFLUSH removes the instruction line that its
address names from the core's buffer and its cluster's cache, and does nothing where the address cannot be fetched.
CATL gives the index of a valid entry that holds the key, or -1. CATS puts the key into the entry named, in no other,
and gives that entry's old key or -1. CATI invalidates the entry that holds the key and gives its index, or -1. Keys
are the low 48 bits; no other tile resource changes. (R81, R304, R59) -/
def Obligations.FencesAndCatalogue : Prop :=
  (∀ (s : State) (k : BitVec 2) (n : BitVec 3) (a : BitVec 6) (m : BitVec 12),
    (Ready s {} → s.gated false = false →
      (k = 0 → exec (.fence k n) s = .next ((s.holdCur (s.outstanding s.cur n.toNat) (s.outstanding s.cur n.toNat)).skip 4)) ∧
      (k = 1 → exec (.fence k n) s = .next ((s.holdCur (s.returning s.cur n.toNat) []).skip 4)) ∧
      (k = 2 → exec (.fence k n) s = .next ((s.holdCur [] (s.outstanding s.cur n.toNat)).skip 4))) ∧
    (Ready s { reads := [a.toNat] } →
      (∀ f, s.locate s.cur .fetch (s.reg a + m.signExtend 64) 1 = .error f → exec (.iflush a m) s = .next (s.skip 4)) ∧
      (∀ p ps u, s.locate s.cur .fetch (s.reg a + m.signExtend 64) 1 = .ok (p :: ps, u) →
        ∃ t, exec (.iflush a m) s = .next t ∧ t = (u.dropLine (coreOf u.cur) (p.key / 64)).skip 4 ∧
          (∀ l ∈ (t.core (coreOf u.cur)).l0, l.line ≠ p.key / 64) ∧
          (∀ l ∈ (t.cluster (clusterOf (coreOf u.cur / 4))).icache, l.line ≠ p.key / 64)))) ∧
  (∀ (s : State) (d a b : BitVec 6),
    let u := unitOf s.cur
    let cat := fun (t : State) (i : Nat) => Tbl.get none (t.tile u).catalogue i
    let key := (s.reg a).setWidth 48
    (Ready s { reads := [a.toNat], writes := [d.toNat] } →
      (∃ x, exec (.catl d a) s = .next (s.result 4 d.toNat x) ∧
        ((∀ i < 256, cat s i ≠ some key) → x = -1) ∧
        ((∃ i < 256, cat s i = some key) → x.toNat < 256 ∧ cat s x.toNat = some key)) ∧
      (Settled s → ∃ t x, exec (.cati d a) s = .next (t.result 4 d.toNat x) ∧ t = { s with tiles := t.tiles } ∧
        ((∀ i < 256, cat s i ≠ some key) → x = -1 ∧ t = s) ∧
        ((∃ i < 256, cat s i = some key) → x.toNat < 256 ∧ cat s x.toNat = some key ∧ cat t x.toNat = none ∧
          ∀ i, i ≠ x.toNat → cat t i = cat s i))) ∧
    (Ready s { reads := [a.toNat, b.toNat], writes := [d.toNat] } → Settled s →
      let n := (s.reg b).toNat % 256
      ∃ t, exec (.cats d a b) s = .next (t.result 4 d.toNat (match cat s n with | some k => k.setWidth 64 | none => -1)) ∧
        t = { s with tiles := t.tiles } ∧ cat t n = some key ∧ (∀ v, v ≠ u → t.tile v = s.tile v) ∧
        ∀ i, i ≠ n → cat t i = if cat s i = some key then none else cat s i))

/-- WAIT completes once every counter whose field is not 15 is at most the field's value and, with st = 0, no SEMUP or
QPUT of the context is still to be acknowledged, and otherwise waits; its hint changes nothing. PAUSE and C.PAUSE set
the end of the window 16 × n cycles after the cycle that follows issue, the context going on in BACKGROUND; PAUSE 0
only moves on. BARW and BARA send their arrival to the object's home and wait; when the answer has come they complete
with it in wd. The home counts an arrival for the phase that collects while its count is open, holds one for the next
phase, refuses any other, and completes phases whose counts are full. ALIGN completes when no peer is awaited any more
or its time has passed, and waits otherwise; the first of a group to reach it awaits each other context of its cluster
that runs the same handler, 16 × (imm + 1) cycles at most. (Who is awaited is log entry 72's choice, and that WAIT
also awaits SEMUPs and QPUTs entry 87's.) (R356, R326, R88, R284, R46, R280) -/
def Obligations.WaitsPausesAndBarriers : Prop :=
  (∀ (s : State) (l n c t h : BitVec 4) (k : BitVec 12) (q : BitVec 11), Ready s {} →
    let met := (l = 15 ∨ s.me.ld ≤ l.toNat) ∧ (n = 15 ∨ s.me.st ≤ n.toNat) ∧ (c = 15 ∨ s.me.cp ≤ c.toNat) ∧
      (t = 15 ∨ s.me.tl ≤ t.toNat) ∧ (n = 0 → s.tileOpsOut s.cur = false)
    (met → exec (.wait l n c t h) s = .next (s.skip 4)) ∧ (¬ met → exec (.wait l n c t h) s = s.stall) ∧
    (k = 0 → exec (.pause k) s = .next (s.skip 4)) ∧ (q = 0 → exec (.cPause q) s = .next (s.skip 2)) ∧
    (k ≠ 0 → ∃ v, exec (.pause k) s = .next v ∧ v = s.setCtx s.cur { s.me with
      pc := s.me.pc + 4, state := .background, window := some (s.cycle + 1 + 16 * k.toNat) }) ∧
    (q ≠ 0 → ∃ v, exec (.cPause q) s = .next v ∧ v = s.setCtx s.cur { s.me with
      pc := s.me.pc + 2, state := .background, window := some (s.cycle + 1 + 16 * q.toNat) })) ∧
  ((∀ (s : State) (d a b : BitVec 6), Ready s { reads := [a.toNat, b.toNat], writes := [d.toNat] } →
    ∀ p ∈ [(Instr.barw d a b, true), (.bara d a b, false)],
      (∀ id x, s.me.await = some id → s.me.answer = some x →
        exec p.1 s = .next ((s.setCtx s.cur { s.me with await := none, answer := none }).result 4 d.toNat x)) ∧
      (∀ id, s.me.await = some id → s.me.answer = none → exec p.1 s = s.stall) ∧
      (s.me.await = none → s.gated true = true → exec p.1 s = s.waitGate) ∧
      (∀ ps u, s.me.await = none → s.gated true = false → (s.reg a).toNat % 16 = 0 →
        s.locate s.cur .store (s.reg a) 16 = .ok (ps, u) → Settled u → u.msgHeld (ps.map (·.home)) = false →
        ∃ v, exec p.1 s = .next v ∧ v.me.await = some u.nextId ∧ v.me.state = .stalled ∧ v.me.pc = u.me.pc ∧
          v.txns.length = u.txns.length + ps.length ∧
          ∀ x ∈ v.txns, x ∉ u.txns → x.op = .barrier ((s.reg b).toNat % 2 ^ 32) p.2 ∧ x.after = u.outstanding u.cur 4)) ∧
  (∀ (b : Barrier) (q : Nat), b.expected < 2 ^ 16 → b.arrived < b.expected → b.held ≤ b.expected → b.phase < 2 ^ 32 → b.reserved = false →
    (q = b.phase → b.arrived + 1 < b.expected →
      b.arrive q = some ({ b with arrived := b.arrived + 1 }, b.arrived + 1, [])) ∧
    (q = b.phase → b.arrived + 1 = b.expected → b.held < b.expected →
      b.arrive q = some ({ b with phase := (b.phase + 1) % 2 ^ 32, arrived := b.held, held := 0 }, b.expected, [q])) ∧
    (q = (b.phase + 1) % 2 ^ 32 → b.held < b.expected → b.arrive q = some ({ b with held := b.held + 1 }, b.held + 1, [])) ∧
    (q ≠ b.phase → q ≠ (b.phase + 1) % 2 ^ 32 → b.arrive q = none) ∧
    (q = (b.phase + 1) % 2 ^ 32 → b.held = b.expected → b.arrive q = none)) ∧
  (∀ s : State, Ready s {} →
    (∀ i e ks, s.me.align = some (i, e, ks) → (ks = [] ∨ e ≤ s.cycle) →
      exec .align s = .next (s.done 4 { s.me with align := none })) ∧
    (∀ i e ks, s.me.align = some (i, e, ks) → ks ≠ [] → s.cycle < e → exec .align s = s.stall) ∧
    (s.me.align = none → (∀ g ∈ (s.cluster (clusterOf (unitOf s.cur))).aligns, g.launch ≠ s.me.launch) →
      (s.alignPeers s.cur = [] → ∃ v, exec .align s = .next v ∧ v.me.pc = s.me.pc + 4 ∧ v.me.align = none) ∧
      (s.alignPeers s.cur ≠ [] → ∃ v, exec .align s = .next v ∧ v.me.pc = s.me.pc ∧ v.me.state = .stalled ∧
        v.me.align = some (s.me.word.toNat / 2 ^ 20, s.cycle + 16 * (s.me.word.toNat / 2 ^ 20 + 1), s.alignPeers s.cur)))))

/-- Outside a region, or in an irrevocable one, an acquire or release that holds the context makes each of them wait. With
nothing of its release outstanding, SEMUP adds one and gives the new count; with SEMDNs stalled it hands its unit to
the oldest, which gets 0 while SEMUP gets 1. At 65,535, or behind SEMUPs stalled there, it waits in line, whatever its
release awaits; below, with its release outstanding, it goes on its way behind what that awaits. SEMDN and SEMTRY take
one and give the new count; at 0 SEMDN waits in line and SEMTRY gives -1; at 65,535 with SEMUPs stalled both make room
for the oldest, whose release is complete. QPUT with nothing of its release outstanding appends wb while fewer than 16
entries are queued and no QGET waits, and hands it to the oldest waiting QGET otherwise; at 16, or behind QPUTs
stalled there, it waits in line, and with room and its release outstanding it goes on its way. QGET takes the oldest
entry into wd, and waits in line at none; a QPUT that waits, its release complete, takes the place made. (That such an
operation on its way, and not its context, waits where the queue has filled since, and that SEMTRY makes room as SEMDN
does, R333 naming SEMDN only, are log entry 87's choices.) (R333, R328, R43, R82) -/
def Obligations.SemaphoresAndQueues : Prop :=
  (∀ (s : State) (d a : BitVec 6), Ready s { reads := [a.toNat], writes := [d.toNat] } → Settled s →
    let u := unitOf s.cur
    let t := s.tile u
    let n := (s.reg a).toNat % 8
    let c := (Tbl.get 0 t.sems n).toNat
    let down := Tbl.get [] t.semDown n
    let up := Tbl.get [] t.semUp n
    let count := fun (x : Nat) => s.setTile u { t with sems := Tbl.set 0 t.sems n (BitVec.ofNat 16 x) }
    (waits s.cur up = false → s.gated true = true → exec (.semup d a) s = s.waitGate) ∧
    (s.gated false = true → exec (.semtry d a) s = s.waitGate ∧
      (waits s.cur down = false → exec (.semdn d a) s = s.waitGate)) ∧
    (waits s.cur up = false → s.gated true = false → (up ≠ [] ∨ (down = [] ∧ c = 65535)) → exec (.semup d a) s =
      (s.setTile u { t with semUp := Tbl.set [] t.semUp n (up ++ [.ctx s.cur d.toNat]) }).stall) ∧
    (up = [] → s.gated true = false → s.outstanding s.cur 1 = [] →
      (down = [] → c < 65535 → exec (.semup d a) s = .next ((count (c + 1)).result 4 d.toNat (BitVec.ofNat 64 (c + 1)))) ∧
      (∀ k e r, down = .ctx k e :: r → k ≠ s.cur → ∃ v, exec (.semup d a) s = .next v ∧ (v.ctx k).pc = (s.ctx k).pc + 4 ∧
        (e ≠ 0 → (v.ctx k).getW e = 0) ∧ (d ≠ 0 → v.me.getW d.toNat = 1) ∧ v.me.pc = s.me.pc + 4 ∧
        Tbl.get 0 (v.tile u).sems n = Tbl.get 0 t.sems n ∧ Tbl.get [] (v.tile u).semDown n = r)) ∧
    (up = [] → (down ≠ [] ∨ c < 65535) → s.gated true = false → s.outstanding s.cur 1 ≠ [] → ∃ v x, exec (.semup d a) s = .next v ∧ v.txns = s.txns ++ [x] ∧
      x.op = .semup n ∧ x.after = s.outstanding s.cur 1 ∧ x.dst = dstW d.toNat ∧ v.me.pc = s.me.pc + 4) ∧
    (waits s.cur down = false → s.gated false = false →
      (up = [] → 0 < c → exec (.semdn d a) s = .next ((count (c - 1)).result 4 d.toNat (BitVec.ofNat 64 (c - 1)))) ∧
      (c = 0 → exec (.semdn d a) s =
        (s.setTile u { t with semDown := Tbl.set [] t.semDown n (down ++ [.ctx s.cur d.toNat]) }).stall) ∧
      (∀ k e r, up = .ctx k e :: r → k ≠ s.cur → c = 65535 → s.outstanding k 1 = [] → down = [] → ∃ v, exec (.semdn d a) s = .next v ∧
        (e ≠ 0 → (v.ctx k).getW e = 65535) ∧ (d ≠ 0 → v.me.getW d.toNat = 65534) ∧
        Tbl.get 0 (v.tile u).sems n = Tbl.get 0 t.sems n ∧ Tbl.get [] (v.tile u).semUp n = r)) ∧
    (s.gated false = false → ∀ k e r, up = .ctx k e :: r → k ≠ s.cur → c = 65535 → s.outstanding k 1 = [] → down = [] →
      ∃ v, exec (.semtry d a) s = .next v ∧ (e ≠ 0 → (v.ctx k).getW e = 65535) ∧ (d ≠ 0 → v.me.getW d.toNat = 65534) ∧
        Tbl.get 0 (v.tile u).sems n = Tbl.get 0 t.sems n ∧ Tbl.get [] (v.tile u).semUp n = r) ∧
    (s.gated false = false → up = [] → 0 < c → exec (.semtry d a) s = .next ((count (c - 1)).result 4 d.toNat (BitVec.ofNat 64 (c - 1)))) ∧
    (s.gated false = false → c = 0 → exec (.semtry d a) s = .next (s.result 4 d.toNat (-1)))) ∧
  (∀ (s : State) (d a b : BitVec 6), Settled s →
    let u := unitOf s.cur
    let t := s.tile u
    let n := (s.reg a).toNat % 4
    let q := Tbl.get [] t.queues n
    let gets := Tbl.get [] t.queueGet n
    let puts := Tbl.get [] t.queuePut n
    (Ready s { reads := [a.toNat, b.toNat] } → waits s.cur puts = false → s.gated true = true → exec (.qput a b) s = s.waitGate) ∧
    (Ready s { reads := [a.toNat], writes := [d.toNat] } → waits s.cur gets = false → s.gated false = true → exec (.qget d a) s = s.waitGate) ∧
    (Ready s { reads := [a.toNat, b.toNat] } → waits s.cur puts = false → s.gated true = false →
      (puts ≠ [] ∨ (gets = [] ∧ 16 ≤ q.length)) → exec (.qput a b) s =
        (s.setTile u { t with queuePut := Tbl.set [] t.queuePut n (puts ++ [.ctx s.cur b.toNat]) }).stall) ∧
    (Ready s { reads := [a.toNat, b.toNat] } → puts = [] → (gets ≠ [] ∨ q.length < 16) → s.gated true = false →
      s.outstanding s.cur 1 ≠ [] → ∃ v x, exec (.qput a b) s = .next v ∧ v.txns = s.txns ++ [x] ∧ x.op = .qput n (s.reg b) ∧
        x.after = s.outstanding s.cur 1 ∧ v.me.pc = s.me.pc + 4 ∧ v.tiles = s.tiles) ∧
    (Ready s { reads := [a.toNat, b.toNat] } → puts = [] → s.gated true = false → s.outstanding s.cur 1 = [] →
      (gets = [] → q.length < 16 → exec (.qput a b) s =
        .next ((s.setTile u { t with queues := Tbl.set [] t.queues n (q ++ [s.reg b]) }).skip 4)) ∧
      (∀ k e r, gets = .ctx k e :: r → k ≠ s.cur → ∃ v, exec (.qput a b) s = .next v ∧ (e ≠ 0 → (v.ctx k).getW e = s.reg b) ∧
        (v.ctx k).pc = (s.ctx k).pc + 4 ∧ v.me.pc = s.me.pc + 4 ∧ (v.tile u).queues = t.queues ∧
        Tbl.get [] (v.tile u).queueGet n = r)) ∧
    (Ready s { reads := [a.toNat], writes := [d.toNat] } → waits s.cur gets = false → s.gated false = false →
      (q = [] → exec (.qget d a) s =
        (s.setTile u { t with queueGet := Tbl.set [] t.queueGet n (gets ++ [.ctx s.cur d.toNat]) }).stall) ∧
      (∀ x r, q = x :: r → puts = [] → exec (.qget d a) s =
        .next ((s.setTile u { t with queues := Tbl.set [] t.queues n r }).result 4 d.toNat x)) ∧
      (∀ x r k e, q = x :: r → puts = [.ctx k e] → k ≠ s.cur → q.length ≤ 16 → gets = [] → s.outstanding k 1 = [] → ∃ v, exec (.qget d a) s = .next v ∧
        Tbl.get [] (v.tile u).queues n = r ++ [(s.ctx k).getW e] ∧ (d ≠ 0 → v.me.getW d.toNat = x) ∧
        (v.ctx k).pc = (s.ctx k).pc + 4)))

/-- A header or place above the level traps with PRIV, a size beyond the form with MSG_SIZE, a place that names no agent,
or a handler that excludes its role, with MSG_PLACE, a record beyond the ring's capacity with MSG_SIZE. Otherwise,
with nothing holding it, a message with the source and launch tag in its header, and w8 and on or the lanes of the
vector as payload, joins those in flight, st rises and the context moves on; memory stays. HRET and C.HRET trap with
REGION_NEST in an open region, and wait while a load or a vector, conversion or walk instruction is outstanding.
Otherwise an activation that is no task and no end handler ends: its context is DORMANT with blocks 0 and 1 only, its
buffer entry is free, and memory stays. (R334, R302, R32) -/
def Obligations.MessagesSentAndHandlerReturn : Prop :=
  (∀ (s : State) (d a b : BitVec 6) (vb : BitVec 5),
    let place := s.reg a
    ∀ p ∈ [(Instr.send a b, ({ reads := [a.toNat, b.toNat] } : Need), s.reg b, false),
        (.sendv d a vb, { reads := [a.toNat, d.toNat], vreads := [vb.toNat] }, s.reg d, true)],
      Ready s p.2.1 →
      let h := p.2.2.1
      let vec := p.2.2.2
      let n := if vec then 64 else Word.field h 12 6
      let rs := if vec then [] else (List.range (Word.field h 12 6)).map (· + 8)
      let sized := (if vec then Word.field h 12 6 = 0 else Word.field h 12 6 ≤ 32) ∧ Word.field h 61 3 = 0
      (sendPriv (s.level s.cur) h place = true → exec p.1 s = s.trap 0x19 0) ∧
      (sendPriv (s.level s.cur) h place = false → ¬ sized → exec p.1 s = s.trap 0xA 0) ∧
      (sendPriv (s.level s.cur) h place = false → sized → (vec = true → Tbl.get false s.me.vbad vb.toNat = false) →
        (s.resolvePlace s.cur place = none → exec p.1 s = s.trap 0xB 0) ∧
        ∀ pkg dest, s.resolvePlace s.cur place = some (pkg, dest) →
          ((s.level s.cur).rank = 0 → s.handlerAllows s.me.launch (Word.field h 0 12) (dest % 4) = false →
            exec p.1 s = s.trap 0xB 0) ∧
          (((s.level s.cur).rank = 0 → s.handlerAllows s.me.launch (Word.field h 0 12) (dest % 4) = true) →
            Ready s { reads := rs } →
            (isTile (dest / 4) = true → capacity (s.ringOf pkg dest) (Word.field h 18 3) < 8 * (1 + n) →
              exec p.1 s = s.trap 0xA 0) ∧
            ((isTile (dest / 4) = true → 8 * (1 + n) ≤ capacity (s.ringOf pkg dest) (Word.field h 18 3)) → Settled s →
              s.gated true = false → (isTile (dest / 4) = true → pkg = s.package → s.accessHeld (dest / 4) = false) →
              s.me.st < 63 →
              ∃ t m, exec p.1 s = .next t ∧ t.msgs = s.msgs ++ [m] ∧ m.launch = s.me.launch ∧ m.ctx = some s.cur ∧
                m.dest = (if pkg = s.package then dest else dest + 4096 * (pkg + 1)) ∧
                m.words = headerWord (s.placeOf (coreOf s.cur)) s.me.launch (Word.field h 21 3) (Word.field h 18 3)
                  (Word.field h 12 6) (Word.field h 0 12) ::
                    (if vec then vecDwords (s.me.getV vb.toNat) else rs.map s.me.getW) ∧
                t.me = { s.me with st := s.me.st + 1, pc := s.me.pc + 4, state := s.me.running } ∧
                (∀ kid key, t.readByte kid key = s.readByte kid key) ∧ ∀ k, k ≠ s.cur → t.ctx k = s.ctx k)))) ∧
  (∀ s : State, Ready s {} → ∀ i ∈ [Instr.hret, .cHret],
    (s.me.region.isSome = true → exec i s = s.trap 0xE 0) ∧
    (s.me.region = none → (s.me.ld ≠ 0 ∨ s.coprocBusy s.cur = true) → exec i s = s.stall) ∧
    (s.me.region = none → s.me.ld = 0 → s.coprocBusy s.cur = false → s.tcbHeld s.cur = false →
      exec i s = .next (s.endActivation s.cur) ∧
      ∀ act, s.me.act = some act → act.tcb = none → act.ttq = none → act.endHandler = false →
        ∃ t, exec i s = .next t ∧ t.me.state = .dormant ∧ t.me.act = none ∧ t.me.sblk = 3 ∧ t.me.vblk = 0 ∧ t.mem = s.mem ∧
          (∀ e, act.drain = some e → Tbl.get none (t.tile (unitOf s.cur)).drain e = none) ∧ t.msgs = s.msgs ∧ t.txns = s.txns))

/-- WLPUSH of a record whose bytes are read traps with MSG_PLACE where its handler is unknown, and otherwise stamps it
with its context's place, tag and push sequence and completes when it is placed, waiting while it is not. WLPOP takes
the record of lowest bucket within the bound, the newest of equals, among those not released whose handler may run on
the core, stores it and gives 0, or gives -1. WLFLOOR gives the floor. TKARM and TKSIG whose checks pass put their
operation on its way, TKSIG behind a release, raise ld and st and move on. At the home TKSIG of an ARMED block counts
one down and releases the task at zero, and otherwise changes nothing and answers -1; TKARM of a DONE block with no
reserved field set and a known handler arms it with its count, released at once where that is 0. (R268, R358, R359,
R107) -/
def Obligations.WorklistAndTaskControl : Prop :=
  ((∀ (s v : State) (a : BitVec 6) (bs : List Byte), Ready s { reads := [a.toNat] } →
    s.cores.any (fun e => e.2.pushes.any (fun p => p.ctx == some s.cur)) = false → Settled s → s.gated true = false →
    s.outstanding s.cur 4 = [] → Reads s (s.reg a) 32 8 bs v →
      let c := v.ctx v.cur
      let ds := dwordsOf 4 bs
      let r : TaskRec := { header := headerWord (v.placeOf (coreOf v.cur)) c.launch 1 (Word.field (nth 0 ds 0) 18 3) 2
                             (Word.field (nth 0 ds 0) 0 12),
                           dword1 := nth 0 ds 1 &&& 0x0001FFFFFFFFFFFF, arg0 := nth 0 ds 2, arg1 := nth 0 ds 3,
                           seq := v.pushSeq, pkg := v.package }
      let depth := match c.act with | some x => Word.field x.header 18 3 | none => 0
      let pushed := ({ v with pushSeq := v.pushSeq + 1 } : State).push (v.pushTarget (coreOf v.cur) c.launch r) (some v.cur) depth r
      (v.handler? c.launch r.handler = none → exec (.wlpush a) s = v.trap 0xB 0) ∧
      (v.handler? c.launch r.handler ≠ none →
        (pushed.2 = true → exec (.wlpush a) s = .next (pushed.1.skip 4)) ∧ (pushed.2 = false → exec (.wlpush a) s = pushed.1.stall))) ∧
  (∀ (s : State) (core depth : Nat) (k : Option Nat) (r : TaskRec), s.coreCancelled core = false → (s.core core).pushes = [] →
    r.bucket < (s.core core).floor + 64 → (s.core core).generalUsed < 248 → (s.core core).deque.length < 192 →
      s.push core k depth r = (s.setCore core { s.core core with deque := (s.core core).deque ++ [r] }, true)) ∧
  (∀ (s u : State) (d a : BitVec 6) (ps : List Part), Ready s { reads := [a.toNat], writes := [d.toNat] } → Settled u →
    s.gated true = false → (s.reg a).toNat % 8 = 0 → s.locateDwords .store false (s.reg a) 0 4 = .ok (ps, u) →
      let core := coreOf u.cur
      let ok := fun (r : TaskRec) => !r.isReleased && u.recordAllows u.me.launch r (core % 4)
      let bound := (u.core core).floor + u.delta u.me.launch
      ((∀ r ∈ (u.core core).deque, ok r = true → bound < r.bucket) → exec (.wlpop d a) s = .next (u.result 4 d.toNat (-1))) ∧
      (∀ xs r ys, (u.core core).deque = xs ++ r :: ys → ok r = true → r.bucket ≤ bound →
        (∀ y ∈ xs, ok y = true → r.bucket ≤ y.bucket) → (∀ y ∈ ys, ok y = true → r.bucket < y.bucket) →
        u.msgHeld (ps.map (·.home)) = false → u.storesFull 4 = false →
          exec (.wlpop d a) s = .next (((u.takeRecord core r).sendDwords (s.reg a) ps 0 r.dwords).result 4 d.toNat 0))) ∧
  (∀ (s : State) (d : BitVec 6), Ready s { writes := [d.toNat] } →
    exec (.wlfloor d) s = .next (s.result 4 d.toNat (BitVec.ofNat 64 (s.core (coreOf s.cur)).floor)))) ∧
  ((∀ (s u : State) (d a : BitVec 6) (ps : List Part), Ready s { reads := [a.toNat], writes := [d.toNat] } →
    s.gated true = false → (s.reg a).toNat % 64 = 0 → s.locate s.cur .store (s.reg a) 64 = .ok (ps, u) → Settled u →
    u.msgHeld (ps.map (·.home)) = false → u.full true true = false →
      exec (.tkarm d a) s = .next
        (((u.sendAccess (s.reg a) ps (fun _ => .tkarm) (dstW d.toNat) [] true true).holdCur [] []).skip 4) ∧
      exec (.tksig d a) s = .next
        (((u.sendAccess (s.reg a) ps (fun _ => .tksig) (dstW d.toNat) (u.outstanding u.cur 4) true true).holdCur []
          (u.outstanding u.cur 4)).skip 4)) ∧
  (∀ d : List Word, d.length = 8 →
    let state := Word.field (nth 0 d 5) 16 3
    let rem := Word.field (nth 0 d 6) 0 16
    let count := Word.field (nth 0 d 1) 32 16
    ((state ≠ 0 ∨ rem = 0) → tksigAt d = none) ∧
    (state = 0 → rem ≠ 0 → ∃ e, tksigAt d = some (e, BitVec.ofNat 64 (rem - 1), rem == 1) ∧ Word.field (nth 0 e 6) 0 16 = rem - 1 ∧
      Word.field (nth 0 e 5) 16 3 = (if rem = 1 then 1 else 0) ∧ (∀ j, j ≠ 5 → j ≠ 6 → nth 0 e j = nth 0 d j)) ∧
    (state ≠ 3 → ∀ names, tkarmAt names d = none) ∧ tkarmAt false d = none ∧
    (state = 3 → nth 0 d 7 = 0 → Word.field (nth 0 d 5) 19 45 = 0 → Word.field (nth 0 d 6) 16 48 = 0 →
      Word.field (nth 0 d 1) 50 14 = 0 → ∃ e, tkarmAt true d = some (e, BitVec.ofNat 64 count, count == 0) ∧
        Word.field (nth 0 e 6) 0 16 = count ∧ Word.field (nth 0 e 5) 16 3 = (if count = 0 then 1 else 0) ∧
        (∀ j, j ≠ 5 → j ≠ 6 → nth 0 e j = nth 0 d j))))

/-- FRBEG traps with REGION_NEST inside a region and, ordered outside a task, with REGION_SCOPE; with no load outstanding
and a free slot it takes the lowest, keeps the checkpoint and puts the restart count into wd. FRCOM outside a region
traps; it waits in the background for its accesses, predecessors and merges, and then ends the region with wd saying
whether it was irrevocable. FRABT of a region that is not irrevocable restores the checkpoint and goes on behind
itself. FRSTAT is zero outside a region. (R116, R127, R128, R129) -/
def Obligations.ForwardingRegions : Prop :=
  ∀ (s : State) (d : BitVec 6),
    (Ready s { writes := [d.toNat] } →
      (∀ p ∈ [(Instr.frbegU d, false), (.frbegO d, true)],
        (s.me.region ≠ none → exec p.1 s = s.trap 0xE 0) ∧
        (s.me.region = none → p.2 = true → Word.field (s.me.act.getD {}).header 21 3 ≠ 1 → exec p.1 s = s.trap 0xD 0) ∧
        (s.me.region = none → (p.2 = true → Word.field (s.me.act.getD {}).header 21 3 = 1) →
          (s.me.ld ≠ 0 → exec p.1 s = s.stall) ∧
          (s.me.ld = 0 → (∀ n < 256, (s.slot n).phase ≠ .free) → exec p.1 s = s.stall) ∧
          (s.me.ld = 0 → ∀ n < 256, (s.slot n).phase = .free → (∀ m < n, (s.slot m).phase ≠ .free) →
            p.2 = false → ∃ t, exec p.1 s = .next t ∧ (t.slot n).phase = .active ∧ (t.slot n).ctx = s.cur ∧
              t.me.region = some (s.me.checkpoint n s.beginSeq) ∧ t.beginSeq = s.beginSeq + 1 ∧ t.me.pc = s.me.pc + 4 ∧
              (d ≠ 0 → t.me.getW d.toNat = BitVec.ofNat 64 (if s.me.restarting then s.me.aborts else 0)) ∧ t.mem = s.mem) ∧
          (s.me.ld = 0 → ∀ n < 256, (s.slot n).phase = .free → (∀ m < n, (s.slot m).phase ≠ .free) →
            p.2 = true → ∃ t u : State, exec p.1 s = .next t ∧ t = u.fixedEdges n (u.orderedPeers n) ∧ (u.slot n).ordered = true ∧
              (u.slot n).phase = .active ∧ u.me.region = some (s.me.checkpoint n s.beginSeq) ∧
              (d ≠ 0 → u.me.getW d.toNat = BitVec.ofNat 64 (if s.me.restarting then s.me.aborts else 0))))) ∧
      (s.me.region = none → exec (.frcom d) s = s.trap 0xE 0 ∧ exec (.frstat d) s = .next (s.result 4 d.toNat 0)) ∧
      (∀ r, s.me.region = some r → r.slot < 256 →
        let x := s.slot r.slot
        (x.phase = .committing → x.homes = [] → exec (.frcom d) s = .next (s.endCommit d.toNat r.slot)) ∧
        (x.phase = .committing → x.homes ≠ [] → exec (.frcom d) s = s.waitBackground) ∧
        (x.phase ≠ .committing → (s.me.ld ≠ 0 ∨ s.me.st ≠ 0 ∨ x.pred ≠ 0) → exec (.frcom d) s = s.waitBackground) ∧
        (x.phase ≠ .committing → s.me.ld = 0 → s.me.st = 0 → x.pred = 0 → s.homesOf r.slot = [] →
          ∃ t, exec (.frcom d) s = .next t ∧ t.me.region = none ∧ t.me.aborts = 0 ∧ (t.slot r.slot).phase = .free ∧
            t.me.pc = s.me.pc + 4 ∧ (d ≠ 0 → t.me.getW d.toNat = if x.solid then 1 else 0)) ∧
        ∃ y, exec (.frstat d) s = .next (s.result 4 d.toNat y) ∧ Word.field y 63 1 = 1 ∧ Word.field y 62 1 = (if x.solid then 1 else 0) ∧
          Word.field y 61 1 = (if x.ordered then 1 else 0) ∧ Word.field y 48 8 = r.slot % 256 ∧ Word.field y 40 8 = x.aborts % 256)) ∧
    (Ready s {} → (s.me.region = none → exec .frabt s = s.trap 0xE 0) ∧
      ∀ r, s.me.region = some r → r.slot < 256 → ((s.slot r.slot).solid = true → exec .frabt s = s.trap 0xE 0) ∧
        ((s.slot r.slot).solid = false → (s.slot r.slot).phase = .active → (s.slot r.slot).ctx = s.cur →
          ∃ t, exec .frabt s = .next t ∧ t.me.pc = s.me.pc + 4 ∧ t.me.region = none ∧ t.me.w = r.w ∧ t.me.ix = r.ix ∧ t.me.ox = r.ox ∧
            t.me.m = r.m ∧ (t.slot r.slot).phase = .free ∧ (∀ v ∈ t.versions, v.slot ≠ r.slot) ∧ t.mem = s.mem))

/-- LVCNT gives -1 for a malformed operand or an unknown identifier, 1 for the activation's own unit, and otherwise the
counter of the level. CNCL at level H of a phase or job traps with PRIV; of the unit it ends the activation as HRET
does; a malformed operand gives -1; of another level it gives 1 where that level or one above is being cancelled, and
otherwise begins the cancel and gives 0. (R316, R294) -/
def Obligations.LevelCountersAndCancels : Prop :=
  ∀ (s : State) (d a b : BitVec 6), Ready s { reads := [a.toNat, b.toNat], writes := [d.toNat] } →
    let x := s.reg a
    let y := s.reg b
    let code := Word.field x 0 3
    ((Word.field x 3 61 ≠ 0 ∨ 5 ≤ code ∨ ((s.level s.cur).rank = 0 ∧ y ≠ 0) ∨
        ((s.level s.cur).rank ≠ 0 ∧ (code = 0 ∨ s.byIdentifier code y = none))) →
      exec (.lvcnt d a b) s = .next (s.result 4 d.toNat (-1)) ∧
      (¬ ((s.level s.cur).rank = 0 ∧ (code = 3 ∨ code = 4)) → Settled s →
        exec (.cncl d a b) s = .next (s.result 4 d.toNat (-1)))) ∧
    ((s.level s.cur).rank = 0 → (code = 3 ∨ code = 4) → exec (.cncl d a b) s = s.trap 0x19 0) ∧
    (∀ l, (s.level s.cur).rank = 0 → y = 0 → Word.field x 3 61 = 0 → s.launchOf s.cur = some l →
      (code = 0 → exec (.lvcnt d a b) s = .next (s.result 4 d.toNat 1) ∧ exec (.cncl d a b) s = s.hretBody) ∧
      (code = 1 → exec (.lvcnt d a b) s = .next (s.result 4 d.toNat (BitVec.ofNat 64 (s.launchCount s.me.launch l)))) ∧
      (code = 2 → exec (.lvcnt d a b) s = .next (s.result 4 d.toNat (BitVec.ofNat 64 (s.graphCount l.job l.phase l.graph)))) ∧
      (code = 3 → exec (.lvcnt d a b) s = .next (s.result 4 d.toNat (BitVec.ofNat 64 (s.phaseCount l.job l.phase)))) ∧
      (code = 4 → exec (.lvcnt d a b) s = .next (s.result 4 d.toNat (BitVec.ofNat 64 (s.jobCount l.job)))) ∧
      ((code = 1 ∨ code = 2) → Settled s →
        (s.cancelling code l = true → exec (.cncl d a b) s = .next (s.result 4 d.toNat 1)) ∧
        (s.cancelling code l = false →
          exec (.cncl d a b) s = .next ((s.cancelLevel code s.me.launch l (s.whoWord s.cur)).result 4 d.toNat 0)) ∧
        (∀ j, code = 1 → s.job? l.job = some j → l.state = .resident → l.cancel = none →
          (s.cancelLevel code s.me.launch l 0).launch? s.me.launch =
            some { l with cancel := some { level := 1, since := s.cycle, by_ := 0 }, parked := [] })))

/-- QBIND gives -1 for a kind above 1, a place that names no M-core of the launch, or 16 queues on it, and otherwise the
handle of a new queue. JOB traps with MISALIGN, gives -1 for a handle that is not live, and otherwise takes its card
and its place in cp and st, the job on its way to its footprint table behind a release. TTQ does the same for a tile
task, with -1 where the launch has none. BLKRD makes its window checks at issue, and otherwise raises cp and leaves
its parts to the engine. (R308, R327, R344, R287) -/
def Obligations.EngineSubmissions : Prop :=
  ∀ (s : State) (d a b : BitVec 6), Settled s →
    (Ready s { reads := [a.toNat, b.toNat], writes := [d.toNat] } →
      let kind := (s.reg a).toNat
      ((1 < kind ∨ s.queuePlace (s.reg b) = none) → exec (.qbind d a b) s = .next (s.result 4 d.toNat (-1))) ∧
      (∀ u l, s.queuePlace (s.reg b) = some u → s.launch? s.me.launch = some l → kind ≤ 1 →
        let n := (l.queues.filter (fun q => q.unit == u)).length
        let rev := s.boundRevision l kind
        let h := queueHandle kind rev n (s.reg b)
        (16 ≤ n → exec (.qbind d a b) s = .next (s.result 4 d.toNat (-1))) ∧
        (n < 16 → exec (.qbind d a b) s = .next
          ((s.setLaunch s.me.launch { l with queues := l.queues ++ [⟨u, n, kind, rev, h⟩] }).result 4 d.toNat h))) ∧
      ((s.reg a).toNat % 64 ≠ 0 → exec (.job d a b) s = s.trapAt s.cur 6 0 (s.reg a) none) ∧
      ((s.reg a).toNat % 64 = 0 → (∀ l, s.launchOf s.cur = some l → ∀ q ∈ l.queues, q.handle ≠ s.reg b) →
        exec (.job d a b) s = .next (s.result 4 d.toNat (-1))) ∧
      (∀ l q bs v, s.launchOf s.cur = some l → l.queues.find? (fun q => q.handle == s.reg b) = some q →
        Reads s (s.reg a) 64 64 bs v → s.gated true = false →
        v.me.cp < 63 → v.me.st < 63 → v.tableBusy (clusterOf q.unit) = false →
          ∃ t j, exec (.job d a b) s = .next t ∧ t.submitted = v.submitted ++ [j] ∧ j.card = bs ∧ j.unit = q.unit ∧
            j.kind = (if q.kind = 0 then .copy else .collective) ∧ t.me.cp = v.me.cp + 1 ∧ t.me.st = v.me.st + 1 ∧
            t.me.pc = v.me.pc + 4 ∧ (d ≠ 0 → t.me.getW d.toNat = 0) ∧ t.mem = v.mem)) ∧
    (Ready s { reads := [a.toNat], writes := [d.toNat] } →
      ((s.reg a).toNat % 64 ≠ 0 → exec (.ttq d a) s = s.trapAt s.cur 6 0 (s.reg a) none) ∧
      ((s.reg a).toNat % 64 = 0 → (∀ l, s.launch? s.me.launch = some l → l.tileTasks = false) →
        exec (.ttq d a) s = .next (s.result 4 d.toNat (-1))) ∧
      (∀ l bs v, s.launch? s.me.launch = some l → l.tileTasks = true → s.gated true = false → Reads s (s.reg a) 128 64 bs v →
        (v.handlerAllows s.me.launch (bytesNat (bs.take 8) % 4096) 2 = false → exec (.ttq d a) s = v.trap 0xB 0) ∧
        (v.handlerAllows s.me.launch (bytesNat (bs.take 8) % 4096) 2 = true →
          v.me.tl < 63 → v.me.st < 63 → v.tableBusy (clusterOf (unitOf v.cur)) = false →
          ∃ t j, exec (.ttq d a) s = .next t ∧ t.submitted = v.submitted ++ [j] ∧ j.kind = .tileTask ∧ t.me.tl = v.me.tl + 1 ∧
            t.me.st = v.me.st + 1 ∧ t.me.pc = v.me.pc + 4 ∧ (d ≠ 0 → t.me.getW d.toNat = 0) ∧ t.mem = v.mem))) ∧
    (Ready s { unit := .reader, reads := [a.toNat, b.toNat] } →
      (∀ cause sub addr, s.blkCheck (s.reg a) (s.reg b) (s.me.getOx 0) = some (cause, sub, addr) →
        exec (.blkrd a b) s = s.trapAt s.cur cause sub addr none) ∧
      (s.blkCheck (s.reg a) (s.reg b) (s.me.getOx 0) = none →
        let n := Word.field (s.me.getOx 0) 0 20
        ∀ ps w, (s.engineFor (unitOf s.cur) s.me.launch).blkParts (s.reg a).toNat (sourceCuts (s.reg a).toNat n) = (ps, w) →
          let u := w.engineFree (unitOf s.cur)
          u.gated true = false →
          u.msgHeld (ps.filterMap (·.home)) = false → u.me.cp < 63 →
          ∃ t x, exec (.blkrd a b) s = .next t ∧ t.blks = u.blks ++ [x] ∧ x.src = s.reg a ∧ x.dst = s.reg b ∧ x.parts = ps ∧
            x.user = s.me.getOx 1 ∧ t.me = { u.me with cp := u.me.cp + 1, pc := u.me.pc + 4, state := u.me.running } ∧ t.mem = u.mem))

/-- OSCLAIM of a size that is not 1, 2 or 4 traps with SLOT_STATE and subcode 24. Otherwise it claims the lowest free
group of that size below 24 slots, or 16 where the launch enables tile tasks, its slots CLAIMED with their parts
numbered, and gives the first slot, or -1 where there is none. OSREL traps with SLOT_STATE and subcode 24 for a slot
above 23 or any reserved bit, with the slot as subcode where it is a tile task's or is not the first of a CLAIMED or
READY group, and otherwise frees the group. No other slot, no byte of memory or of operand memory and no other
register changes. OSLD traps with SLOT_STATE, in order: subcode 24 for a slot above 23, the slot for a format refused,
and for a group that is a tile task's, not the first of a CLAIMED or READY group, or of another width; with cp at 63,
an acquire that holds it or a full ring it waits; otherwise the group is LOADING, the load is under way with ox1 and
ox2 as they stand, and cp rises. MWLD and MMA trap with SLOT_STATE, the slot index as subcode, for a slot that may not
be used, an MMA of more than 128 rows also for its second group; they, MZERO and MDRAIN wait for a ring entry and
otherwise join the engine's queue in issue order, the context going on with nothing else changed. DRDONE waits for a
ring entry; it then frees the buffer entry of its activation at issue, waiting for no store, and moves on, the
registers and memory as they were; an activation with no entry loses nothing. (R322, R323, R145, R296, R153) -/
def Obligations.OperandSlotsLoadsAndDrains : Prop :=
  (∀ (s : State) (d a : BitVec 6),
    let u := unitOf s.cur
    let t := s.tile u
    let n := (s.reg a).toNat
    let kept := fun (v : State) => v.mem = s.mem ∧ v.opmem = s.opmem ∧ v.txns = s.txns ∧ ∀ w, w ≠ u → v.tile w = s.tile w
    (Ready s { unit := .matrix, reads := [a.toNat], writes := [d.toNat] } →
      let lim := if s.tileTasksOn then 16 else 24
      (n ≠ 1 → n ≠ 2 → n ≠ 4 → exec (.osclaim d a) s = s.trap 0x17 24) ∧
      ((n = 1 ∨ n = 2 ∨ n = 4) → Settled s →
        ((∀ i, n * i + n ≤ lim → t.groupFree (n * i) n = false) →
          exec (.osclaim d a) s = .next (s.result 4 d.toNat (-1))) ∧
        (∀ i, n * i + n ≤ lim → t.groupFree (n * i) n = true → (∀ j < i, t.groupFree (n * j) n = false) →
          ∃ v, exec (.osclaim d a) s = .next v ∧ kept v ∧ v.me.pc = s.me.pc + 4 ∧
            (d ≠ 0 → v.me.getW d.toNat = BitVec.ofNat 64 (n * i)) ∧ (∀ r, r ≠ d.toNat → v.me.getW r = s.me.getW r) ∧
            (∀ j < n, slotTag (v.tile u) (n * i + j) = ⟨.claimed, 0, false, j, n⟩) ∧
            ∀ j, (j < n * i ∨ n * i + n ≤ j) → slotTag (v.tile u) j = slotTag t j))) ∧
    (Ready s { unit := .matrix, reads := [a.toNat] } →
      let g := slotTag t n
      let refused := (s.tileTasksOn = true ∧ 16 ≤ n) ∨ g.part ≠ 0 ∨ (g.state ≠ .claimed ∧ g.state ≠ .ready)
      (23 < n → exec (.osrel a) s = s.trap 0x17 24) ∧
      (n ≤ 23 → refused → exec (.osrel a) s = s.trap 0x17 n) ∧
      (n ≤ 23 → ¬ refused → Settled s →
        ∃ v, exec (.osrel a) s = .next v ∧ kept v ∧ v.me = { s.me with pc := s.me.pc + 4, state := s.me.running } ∧
          (∀ j < g.width, (slotTag (v.tile u) (n + j)).state = .free ∧ (slotTag (v.tile u) (n + j)).part = 0) ∧
          ∀ j, (j < n ∨ n + g.width ≤ j) → slotTag (v.tile u) j = slotTag t j))) ∧
  ((∀ (s : State) (a b : BitVec 6),
    let t := s.tile (unitOf s.cur)
    let n := (s.reg a).toNat
    let usable := fun (k : Nat) => (slotTag t k).part = 0 ∧ ((slotTag t k).state = .ready ∨ (slotTag t k).state = .loading)
    let queued := fun (i : Instr) (op : MatOp) => Settled s →
      (s.ringTake = none → exec i s = s.stall) ∧
      ∀ seq u, s.ringTake = some (seq, u) → ∃ v e, exec i s = .next v ∧ (v.tile (unitOf s.cur)).engine = t.engine ++ [e] ∧
        e.op = op ∧ e.seq = seq ∧ e.ctx = s.cur ∧ e.act = s.me.actId ∧ e.pc = s.me.pc ∧
        v.me = { s.me with pc := s.me.pc + 4, state := s.me.running } ∧ v.mem = s.mem ∧ v.opmem = s.opmem ∧ v.txns = s.txns ∧
        (∀ w, w ≠ unitOf s.cur → v.tile w = s.tile w) ∧ (v.tile (unitOf s.cur)).rows = t.rows ∧
        (v.tile (unitOf s.cur)).slots = t.slots
    (Ready s { unit := .matrix, reads := [a.toNat, b.toNat] } →
      let o := s.me.getOx 2
      let f := Word.field o 0 4
      let g := slotTag t n
      let shape := s.me.getOx 0
      let wide := 128 < Word.field shape 0 9
      let refused := (s.tileTasksOn = true ∧ 16 ≤ n) ∨ g.part ≠ 0 ∨ (g.state ≠ .claimed ∧ g.state ≠ .ready) ∨ g.width ≠ groupWidth f
      (23 < n → exec (.osld a b) s = s.trap 0x17 24) ∧
      (n ≤ 23 → (f = 5 ∨ 8 < f) → exec (.osld a b) s = s.trap 0x17 n) ∧
      (n ≤ 23 → ¬ (f = 5 ∨ 8 < f) → refused → exec (.osld a b) s = s.trap 0x17 n) ∧
      (n ≤ 23 → ¬ (f = 5 ∨ 8 < f) → ¬ refused → Settled s →
        (s.gated false = true → exec (.osld a b) s = s.waitGate) ∧
        (s.gated false = false → (63 ≤ s.me.cp ∨ s.ringTake = none) → exec (.osld a b) s = s.stall) ∧
        (s.me.cp < 63 → s.gated false = false → ∀ seq u, s.ringTake = some (seq, u) →
          ∃ v x, exec (.osld a b) s = .next v ∧ v.loads = s.loads ++ [x] ∧ x.slot = n ∧ x.src = s.reg b ∧ x.ox1 = s.me.getOx 1 ∧
            x.ox2 = o ∧ x.seq = seq ∧ x.ctx = s.cur ∧
            v.me = { s.me with pc := s.me.pc + 4, state := s.me.running, cp := s.me.cp + 1 } ∧
            (∀ j < g.width, (slotTag (v.tile (unitOf s.cur)) (n + j)).state = .loading) ∧
            (∀ j, (j < n ∨ n + g.width ≤ j) → slotTag (v.tile (unitOf s.cur)) j = slotTag t j) ∧
            v.mem = s.mem ∧ v.opmem = s.opmem)) ∧
      (∀ p ∈ [(Instr.mmaF a b, RowKind.f), (.mmaI a b, .i), (.mmaRs a b, .rs)],
        (23 < n → exec p.1 s = s.trap 0x17 (n % 32)) ∧
        (n ≤ 23 → ¬ usable n → exec p.1 s = s.trap 0x17 n) ∧
        (n ≤ 23 → usable n → wide → 23 < n + g.width → exec p.1 s = s.trap 0x17 (n + g.width)) ∧
        (n ≤ 23 → usable n → wide → n + g.width ≤ 23 → ¬ usable (n + g.width) → exec p.1 s = s.trap 0x17 (n + g.width)) ∧
        (n ≤ 23 → usable n → (wide → n + g.width ≤ 23 ∧ usable (n + g.width)) → queued p.1 (.mma p.2 n (s.reg b) shape))) ∧
      queued (.mzero a b) (.mzero (s.reg a) (s.reg b)) ∧
      ∀ p ∈ [(Instr.mdrainF a b, 0), (.mdrainIw a b, 1), (.mdrainIs a b, 2), (.mdrainRs a b, 3)],
        queued p.1 (.mdrain p.2 (s.reg a) (s.reg b) (s.me.getOx 1))) ∧
    (Ready s { unit := .matrix, reads := [a.toNat] } →
      (23 < n → exec (.mwld a) s = s.trap 0x17 (n % 32)) ∧ (n ≤ 23 → ¬ usable n → exec (.mwld a) s = s.trap 0x17 n) ∧
      (n ≤ 23 → usable n → queued (.mwld a) (.mwld n)))) ∧
  (∀ s : State, Ready s { unit := .matrix } → Settled s →
    (s.ringTake = none → exec .drdone s = s.stall) ∧
    (∀ seq u, s.ringTake = some (seq, u) → ∃ v, exec .drdone s = .next v ∧ v.me.pc = s.me.pc + 4 ∧ v.me.w = s.me.w ∧
      v.me.v = s.me.v ∧ v.mem = s.mem ∧ v.txns = s.txns ∧ (∀ k, k ≠ s.cur → v.ctx k = s.ctx k) ∧
      (∀ act e, s.me.act = some act → act.drain = some e →
        Tbl.get none (v.tile (unitOf s.cur)).drain e = none ∧ (∃ x, v.me.act = some x ∧ x.drain = none) ∧
        ∀ j, j ≠ e → Tbl.get none (v.tile (unitOf s.cur)).drain j = Tbl.get none (s.tile (unitOf s.cur)).drain j) ∧
      ((∀ act, s.me.act = some act → act.drain = none) →
        v.me = { s.me with pc := s.me.pc + 4, state := s.me.running } ∧ (v.tile (unitOf s.cur)).drain = (s.tile (unitOf s.cur)).drain))))

/-- WALK and WALKN wait for a ring entry and otherwise put a walk on its way with its offset, region, features, step limit
and descriptor, for wd. PDRST waits for the context's walks; it gives -1 and ends the digest where wa is no sealed
model bound to the launch, and otherwise starts one over the model and the record and gives 0. PDSEAL gives -1 for a
digest that is not active and valid, waits while the tenant's log is full, and otherwise gives the log's next sequence
number, writes one record there and ends the digest. PDRD gives -1 with no digest, and otherwise stores its 48 bytes
and gives its number. (That PDRST waits for the walks is the model's own reading, log entry 95: R204 says it of
PDSEAL.) (R202, R204, R205) -/
def Obligations.WalksAndDigests : Prop :=
  ∀ (s : State) (d a b : BitVec 6), Settled s →
    let p := s.me.pd
    let now := fun (q : Digest) (x : Word) => (.next (s.done 4 (({ s.me with pd := q }).setW d.toNat x)) : Out)
    (Ready s { unit := .walk, reads := [a.toNat, b.toNat], writes := [d.toNat] } →
      (∀ i ∈ [(Instr.walk d a b, 1), (.walkn d a b, (s.me.getOx 4).toNat)],
        (s.gated false = true → exec i.1 s = s.waitGate) ∧
        (s.gated false = false → (s.msgHeld [.tile (unitOf s.cur)] = true ∨ s.ringTake = none) → exec i.1 s = s.stall) ∧
        (s.gated false = false → s.msgHeld [.tile (unitOf s.cur)] = false → ∀ seq u, s.ringTake = some (seq, u) →
          ∃ v x, exec i.1 s = .next v ∧ v.txns = s.txns ++ [x] ∧ x.dst = dstW d.toNat ∧ x.seq = some seq ∧
            x.op = .walk (s.reg a) (BitVec.ofNat 64 (Word.field (s.me.getOx 3) 0 56)) (s.reg b) i.2
              (if Word.field (s.me.getOx 3) 56 4 = 0 then Word.field (s.me.getOx 3) 60 4 else 16) ∧
            v.me = { s.me with pc := s.me.pc + 4, state := s.me.running } ∧ v.mem = s.mem)) ∧
      (s.walking = true → exec (.pdrst d a b) s = s.stall) ∧
      (s.walking = false →
        (s.modelBound s.me.launch (s.reg a) = false → exec (.pdrst d a b) s = now { p with active := false } (-1)) ∧
        (s.modelBound s.me.launch (s.reg a) = true → exec (.pdrst d a b) s = now
          { p with absorbed := natBytes 8 (s.reg b).toNat ++ natBytes 8 (s.reg a).toNat, model := s.reg a, record := s.reg b,
                   active := true, valid := true } 0))) ∧
    (Ready s { unit := .walk, reads := [a.toNat], writes := [d.toNat] } →
      (s.walking = true → exec (.pdseal d a) s = s.stall) ∧
      (s.walking = false →
        ((p.active = false ∨ p.valid = false) → exec (.pdseal d a) s = now { p with active := false } (-1)) ∧
        (p.active = true → p.valid = true → ∀ l, s.launchOf s.cur = some l →
          let n := Tbl.get {} s.vault.tenants (l.field 1 8 8)
          (n.logRead + n.logSize ≤ n.logWrite → exec (.pdseal d a) s = s.stall) ∧
          (n.logWrite < n.logRead + n.logSize → ∃ v, exec (.pdseal d a) s = .next v ∧
            v.me = (({ s.me with pd := { p with active := false, last := some (sha384 p.absorbed, n.logSeq) } }).setW d.toNat
              (BitVec.ofNat 64 n.logSeq)).next 4 ∧
            (Tbl.get {} v.vault.tenants (l.field 1 8 8)).logSeq = n.logSeq + 1 ∧
            (Tbl.get {} v.vault.tenants (l.field 1 8 8)).logWrite = n.logWrite + 1 ∧
            let at_ := n.logBase + 128 * (n.logWrite % n.logSize)
            ∀ kid key, (key / 64 < at_ / 64 ∨ (at_ + 127) / 64 < key / 64) → v.readByte kid key = s.readByte kid key))) ∧
      (p.last = none → exec (.pdrd d a) s = .next (s.result 4 d.toNat (-1))) ∧
      (∀ bs q ps u, p.last = some (bs, q) → s.gated true = false → (s.reg a).toNat % 8 = 0 →
        s.locate s.cur .store (s.reg a) bs.length = .ok (ps, u) → (ps.any (fun p => isPool p.home) = true → Settled u) →
        u.msgHeld (ps.map (·.home)) = false → u.full false true = false →
        ∃ v, exec (.pdrd d a) s = .next v ∧ (d ≠ 0 → v.me.getW d.toNat = BitVec.ofNat 64 q) ∧ v.me.st = u.me.st + 1 ∧
          v.me.pc = u.me.pc + 4 ∧ v.mem = u.mem ∧ v.txns.length = u.txns.length + ps.length ∧
          (∀ x ∈ v.txns, x ∉ u.txns → ∃ r ∈ ps, x.op = .store (enumBytes ((bs.drop r.off).take r.len)) false ∧ x.home = r.home ∧ x.key = r.key)))

/-- TRAP, BKPT and SVC take an exact exception with their causes; the first two resume after themselves, and SVC in a
region traps with REGION_NEST instead. Taking one at level H gives a next state: the context is STOPPED with cause,
subcode, fault PC, fault address, word and resume PC saved, every register, counter and block kept and memory as it
was; a region that is not irrevocable aborts, its checkpoint is back and the resume PC is its FRBEG; an irrevocable
one stays open; a released task's TCB becomes FAULTED. Above level H, where the manual gives no folio, the model stops
by name (log entry 36). (R343, R286, R339, R159, R162, R131) -/
def Obligations.ExceptionsTaken : Prop :=
  ∀ (s : State) (i : BitVec 12) (d a b : BitVec 6),
    (Ready s {} → exec (.trap i) s = s.trapAt s.cur 0x11 i.toNat 0 (some (s.me.pc + 4)) ∧
      exec .bkpt s = s.trapAt s.cur 0x12 0 0 (some (s.me.pc + 4))) ∧
    (Ready s { reads := [a.toNat, b.toNat], writes := [d.toNat] } →
      (s.me.region.isSome = true → exec (.svc d a b) s = s.trapAt s.cur 0xE 0 0 none) ∧
      (s.me.region = none → exec (.svc d a b) s = s.trapAt s.cur 0x10 ((s.reg a).toNat % 65536) 0 none)) ∧
    ∀ (cause sub : Nat) (addr : Word) (resume : Option Word),
      let saved : Stop := { cause := cause, subcode := sub, faultPc := s.me.pc, faultAddr := addr, word := s.me.word,
                            resumePc := resume.getD s.me.pc }
      let halted := fun (st : Stop) => { s.me with state := .stopped, stop := some st, window := none, align := none }
      (s.level s.cur ≠ .h → s.trapAt s.cur cause sub addr resume = .fault (.supervisorTrap cause sub)) ∧
      (s.level s.cur = .h →
        ((∀ x, s.me.act = some x → x.tcb = none) → ∃ t, s.trapAt s.cur cause sub addr resume = .next t ∧ t.me.state = .stopped ∧
          ((∀ r, s.me.region = some r → (s.slot r.slot).phase = .irrevocable) →
            t.me = halted saved ∧ t.mem = s.mem ∧ t.txns = s.txns ∧ ∀ k, k ≠ s.cur → t.ctx k = s.ctx k) ∧
          (∀ r, s.me.region = some r → (s.slot r.slot).phase = .active → (s.slot r.slot).ctx = s.cur → r.slot < 256 →
            t.me.stop = some { saved with resumePc := r.pc, restart := true } ∧ t.me.region = none ∧ t.me.w = r.w ∧
              t.me.ix = r.ix ∧ t.me.ox = r.ox ∧ t.me.m = r.m ∧ t.me.sblk = r.sblk ∧ t.me.vblk = r.vblk ∧
              (∀ v ∈ t.versions, v.slot ≠ r.slot) ∧ t.mem = s.mem)) ∧
        (∀ x tcb, s.me.act = some x → x.tcb = some tcb → s.me.region = none →
          ∃ u : State, u.me = halted saved ∧ u.mem = s.mem ∧ u.cur = s.cur ∧
            s.trapAt s.cur cause sub addr resume = .next (u.tcbState s.cur tcb 4)))

/-- Both wait for their release. An address that is no folio gives -1, a context that is not STOPPED -2, and one whose
folio is not written yet, whose tile is being migrated or in a machine check, or whose folio's lines a region holds,
is awaited. CTXRES gives -3 for a wrong action, kind, flag, reserved field, block or drain entry; it otherwise ends
the context or resumes it with the folio's registers at its resume PC, its counters kept, and gives 0. ERET gives -3
for a folio that is not resumable or not mapped; it resumes a native folio at its resume PC, for an SVC with wb in the
SVC's register at the PC after it, and a portable one with zero counters at its place in the body. Of the folio's HW
fields the hardware takes what it wrote itself (log entry 91). (R167, R295, R297, R183, R5) -/
def Obligations.ResumeAndDiscard : Prop :=
  ∀ (s : State) (d a b : BitVec 6),
    let held := s.gated true = true ∨ s.outstanding s.cur 4 ≠ []
    let waits := fun (i : Instr) => (s.gated true = true → exec i s = s.waitGate) ∧
      (s.gated true = false → s.outstanding s.cur 4 ≠ [] → exec i s = s.stall)
    let gives := fun (i : Instr) (u : State) (x : Word) =>
      exec i s = .next (u.done 4 (({ u.ctx u.cur with await := none }).setW d.toNat x))
    let awaits := fun (i : Instr) => exec i s = .next (s.setCtx s.cur { s.me with await := some 0, state := .stalled })
    let resumed := fun (c : Ctx) (pc : Word) => { c with state := c.running, stop := none, lates := [], pc := pc }
    let early := fun (k : Nat) (st : Stop) (reader : Nat) (va : Word) => st.written = false ∨ s.isFrozen (unitOf k) = true ∨
      (s.tile (unitOf k)).checking = true ∨ s.folioHeld reader va = true
    (Ready s { reads := [a.toNat, b.toNat], writes := [d.toNat] } →
      let folio := (s.launchOf s.cur).bind (fun l => l.folioKey (s.reg a))
      waits (.ctxres d a b) ∧
      (¬ held → (folio = none → gives (.ctxres d a b) s (-1)) ∧
        ∀ k, folio = some k → ((s.ctx k).stop = none → gives (.ctxres d a b) s (-2)) ∧
          ∀ st, (s.ctx k).stop = some st →
            (early k st s.cur (s.reg a) → awaits (.ctxres d a b)) ∧
            (¬ early k st s.cur (s.reg a) →
              (s.readFolio s.cur (s.reg a) = none → gives (.ctxres d a b) s (-1)) ∧
              ∀ f u, s.readFolio s.cur (s.reg a) = some (f, u) →
                let refused := 1 < (s.reg b).toNat ∨ st.portable = true ∨ u.mayResume k st = false ∨ f.reservedZero false = false ∨
                  f.blocksOf (u.ctx k) = false
                (refused → gives (.ctxres d a b) u (-3)) ∧
                (¬ refused → s.reg b = 1 → gives (.ctxres d a b) (u.discardStopped k) 0 ∧
                  (∀ x, (u.ctx k).act = some x → x.ttq = none → x.endHandler = false → (u.ctx k).region = none →
                    ((u.discardStopped k).ctx k).state = .dormant ∧ ((u.discardStopped k).ctx k).act = none ∧
                      (u.discardStopped k).mem = u.mem)) ∧
                (¬ refused → s.reg b = 0 → (∀ x, (u.ctx k).act = some x → x.tcb = none) →
                  gives (.ctxres d a b) (u.setCtx k (resumed ((u.ctx k).takeFolio k st f) (f.dword 1))) 0)))) ∧
    (Ready s { level := .s, reads := [a.toNat, b.toNat], writes := [d.toNat] } →
      waits (.eret d a b) ∧
      (¬ held → (s.folioAt (s.reg a).toNat = none → gives (.eret d a b) s (-1)) ∧
        ∀ k, s.folioAt (s.reg a).toNat = some k → ((s.ctx k).stop = none → gives (.eret d a b) s (-2)) ∧
          ∀ st, (s.ctx k).stop = some st →
            (early k st k ((s.folioVa k).getD 0) → awaits (.eret d a b)) ∧
            (¬ early k st k ((s.folioVa k).getD 0) → ((s.folioVa k).bind (s.readFolio k) = none → gives (.eret d a b) s (-3)) ∧
              ∀ va f u, s.folioVa k = some va → s.readFolio k va = some (f, u) →
              ((s.mayResume k st = false ∨ f.reservedZero st.portable = false) → gives (.eret d a b) s (-3)) ∧
              (s.mayResume k st = true → f.reservedZero st.portable = true →
                let c := (u.ctx k).takeFolio k st f
                let svc := ((u.ctx k).recorded st).1 = 0x10
                ((∀ x, (u.ctx k).act = some x → x.tcb = none) →
                  (st.portable = false → svc → gives (.eret d a b)
                    (u.setCtx k (resumed (c.setW (st.word.toNat / 2 ^ 8 % 64) (s.reg b)) (st.faultPc + 4))) 0) ∧
                  (st.portable = false → ¬ svc → gives (.eret d a b) (u.setCtx k (resumed c (f.dword 1))) 0) ∧
                  (st.portable = true → ∀ l cap, u.launchOf k = some l → u.capsuleOf l = some cap →
                    cap.resumePoint st.location = true → gives (.eret d a b)
                      (u.setCtx k (resumed { c with ld := 0, st := 0, cp := 0, tl := 0 } (BitVec.ofNat 64 (l.body + cap.native st.location)))) 0))))))

/-- On a tile core with a launch SRD gives SELF, PHYS, SHAPE, CTX and CYCLE at level H, DL_LEFT there, and the shootdown
registers at level S; SWR sets the low 48 bits of DL_LEFT, the base and the length at once, and starts a shootdown of
the range that base and length then hold by a write of its control once none is under way, waiting until then. A
register's level above the context's traps with PRIV; a number of no register, and a write of one that cannot be
written, traps with ILLEGAL. CIRRD gives -1 for a malformed operand or an entry that is not the launch's with that
sequence number, and otherwise its PC or its descriptor with every field in place. MONRD gives -1 for a slot that is
not the launch's, and otherwise stores its ten doublewords and gives 0. REFGET traps with REF_TYPE for a parameter
beyond the count or of another type, with the index or 65,535 as subcode, and otherwise gives its value; REFCHK gives
-1, 0 or 1. (The places of XSD_CTL's fields are log entry 59's choice, and that DL_LEFT is the count of the job on the
core's tile is log entry 58's.) (R260, R336, R71, R293, R319, R331) -/
def Obligations.SystemRegistersAndHandlerReads : Prop :=
  (∀ (s : State) (d a : BitVec 6),
    (∀ n : BitVec 12, sysLevels n.toNat = none → exec (.srd d n) s = s.trap 1 0 ∧ exec (.swr a n) s = s.trap 1 0) ∧
    (∀ n ∈ [0, 1, 2, 3, 8, 0x103], exec (.swr a (BitVec.ofNat 12 n)) s = s.trap 1 0) ∧
    (Ready s { writes := [d.toNat] } → isTile (unitOf s.cur) = true → ∀ l, s.launchOf s.cur = some l →
      exec (.srd d 0) s = .next (s.result 4 d.toNat (s.selfPlace s.cur l)) ∧
      exec (.srd d 1) s = .next (s.result 4 d.toNat (BitVec.ofNat 64 (s.placeOf (coreOf s.cur)))) ∧
      exec (.srd d 2) s = .next (s.result 4 d.toNat (BitVec.ofNat 64 (l.field 4 24 40 * 2 ^ 24))) ∧
      exec (.srd d 3) s = .next (s.result 4 d.toNat (BitVec.ofNat 64 (numOf s.cur))) ∧
      (∀ t, l.first = some t → exec (.srd d 8) s = .next (s.result 4 d.toNat (BitVec.ofNat 64 (s.cycle - t))))) ∧
    (Ready s { writes := [d.toNat] } →
      exec (.srd d 0x10) s = .next (s.result 4 d.toNat (BitVec.ofNat 64 (s.deadlineAt (unitOf s.cur))))) ∧
    ((s.level s.cur).rank = 0 → ∀ n ∈ [0x100, 0x101, 0x102, 0x103],
      exec (.srd d (BitVec.ofNat 12 n)) s = s.trap 0x19 0 ∧ (n ≠ 0x103 → exec (.swr a (BitVec.ofNat 12 n)) s = s.trap 0x19 0)) ∧
    ((s.level s.cur).rank = 0 → exec (.swr a 0x10) s = s.trap 0x19 0) ∧
    (Ready s { level := .s, writes := [d.toNat] } →
      ∀ p ∈ [((0x100 : BitVec 12), s.shoot.base), (0x101, s.shoot.len), (0x102, s.shoot.ctl),
          (0x103, BitVec.ofNat 64 s.shoot.awaited.length)],
        exec (.srd d p.1) s = .next (s.result 4 d.toNat p.2)) ∧
    (Ready s { level := .s, reads := [a.toNat] } →
      exec (.swr a 0x100) s = .next ({ s with shoot := { s.shoot with base := s.reg a } }.skip 4) ∧
      exec (.swr a 0x101) s = .next ({ s with shoot := { s.shoot with len := s.reg a } }.skip 4) ∧
      (s.shoot.awaited ≠ [] → exec (.swr a 0x102) s = s.stall) ∧
      (s.shoot.awaited = [] → ∃ v, exec (.swr a 0x102) s = .next v ∧ v.shoot.ctl = s.reg a &&& 0x1FFFF ∧ v.shoot.base = s.shoot.base ∧
        v.shoot.fromBase = s.shoot.base ∧ v.shoot.fromLen = s.shoot.len ∧ v.me.pc = s.me.pc + 4 ∧ ∀ l, s.launch? (shootTag (s.reg a)) = some l → v.shoot.awaited = s.shootAgents l) ∧
      ∃ v, exec (.swr a 0x10) s = .next v ∧ v.me.pc = s.me.pc + 4 ∧ v.mem = s.mem ∧
        ∀ tag l j, (s.tile (unitOf s.cur)).launch = some tag → s.launch? tag = some l → s.job? l.job = some j →
          v.job? l.job = some { j with dlLeft := Word.field (s.reg a) 0 48 })) ∧
  (∀ (s : State) (d a b : BitVec 6), Ready s { reads := [a.toNat, b.toNat], writes := [d.toNat] } →
    let x := s.reg a
    let y := s.reg b
    let e := Tbl.get {} (s.core (agentKey (unitOf s.cur) (y.toNat % 4))).cring (x.toNat % 64)
    let none_ := Word.field x 16 48 ≠ 0 ∨ Word.field y 3 61 ≠ 0 ∨ y.toNat % 4 = 3 ∨ e.used = false ∨ e.launch ≠ s.me.launch ∨ e.seq ≠ x.toNat
    let m := Tbl.get {} (s.cluster (clusterOf (unitOf s.cur))).monitors x.toNat
    (none_ → exec (.cirrd d a b) s = .next (s.result 4 d.toNat (-1))) ∧
    (¬ none_ →
      (y.getLsbD 2 = true → exec (.cirrd d a b) s = .next (s.result 4 d.toNat e.pc)) ∧
      (y.getLsbD 2 = false → ∃ z, exec (.cirrd d a b) s = .next (s.result 4 d.toNat z) ∧ Word.field z 32 32 = e.word.toNat ∧
        Word.field z 16 16 = e.seq ∧ Word.field z 11 5 = 0 ∧ Word.field z 8 3 = e.ctx % 8 ∧ Word.field z 2 6 = 0 ∧
        z.getLsbD 1 = e.faulted ∧ z.getLsbD 0 = e.retired)) ∧
    ((64 ≤ x.toNat ∨ m.launch ≠ some s.me.launch) → exec (.monrd d a b) s = .next (s.result 4 d.toNat (-1))) ∧
    (x.toNat < 64 → m.launch = some s.me.launch → ∀ ps u, SendsDwords s y 10 ps u →
      m.dwords.length = 10 ∧ exec (.monrd d a b) s = .next ((u.sendDwords y ps 0 m.dwords).result 4 d.toNat 0)) ∧
    (∀ l, s.launchOf s.cur = some l →
      let type := Word.field y 0 32
      (s.parameters l ≤ x.toNat → exec (.refget d a b) s = s.trap 9 (min x.toNat 0xFFFF) ∧
        exec (.refchk d a b) s = .next (s.result 4 d.toNat (-1))) ∧
      (x.toNat < s.parameters l → ∀ t v, l.bindingOf x.toNat = some (t, v) →
        (t ≠ type → exec (.refget d a b) s = s.trap 9 x.toNat ∧ exec (.refchk d a b) s = .next (s.result 4 d.toNat 0)) ∧
        (t = type → exec (.refget d a b) s = .next (s.result 4 d.toNat v) ∧ exec (.refchk d a b) s = .next (s.result 4 d.toNat 1)))))

/-- HALT on a tile core puts its eight contexts to rest; elsewhere it takes an event that has arrived and moves on, and
waits without one. CAPREB gives -1, -2, 1 or 0 as the capsule stands, with 0 the capsule REBUILDING. SEAL gives -1 for
a malformed request, -2 for a key handle refused; it then removes the writable mappings of the destination, waits for
the accesses under way there, and gives -3 for an accession number that is 0 or held, -4 with no entry free, and
otherwise the new region's accession number. ZEROSP gives -1 outside its limits, and otherwise zeroes the range,
nothing else, and gives 0. SIGCHK gives 0 exactly where every structure of its tile is zero, and otherwise a bit for
each that is not. A request whose key handle has been looked up is an event for the vault. A context below the level
of each traps with PRIV, at level S too for ZEROSP and SIGCHK. (ZEROSP's -1 off a tile is log entry 42's choice, and
that SEAL's request and its fields name physical addresses is log entry 13's.) (R292, R360, R207, R301, R198, R261) -/
def Obligations.StewardInstructions : Prop :=
  ∀ (s : State) (d a b : BitVec 6),
    ((s.level s.cur).rank = 0 → ∀ i ∈ [Instr.halt, .capreb d a, .seal d a b, .zerosp d a b, .sigchk d], exec i s = s.trap 0x19 0) ∧
    (s.level s.cur ≠ .v → ∀ i ∈ [Instr.zerosp d a b, .sigchk d], exec i s = s.trap 0x19 0) ∧
    (Ready s { level := .s } →
      (isTile (unitOf s.cur) = true → ∃ t, exec .halt s = .next t ∧ t.mem = s.mem ∧ ∀ n < 8, (t.ctx (coreOf s.cur * 8 + n)).state = .dormant) ∧
      (isTile (unitOf s.cur) = false →
        ((s.core (coreOf s.cur)).event = false → exec .halt s = s.stall) ∧
        ((s.core (coreOf s.cur)).event = true → exec .halt s =
          .next ((s.setCore (coreOf s.cur) { s.core (coreOf s.cur) with event := false }).skip 4)))) ∧
    (Ready s { level := .s, reads := [a.toNat], writes := [d.toNat] } → Settled s →
      (s.capsule? (s.reg a) = none → exec (.capreb d a) s = .next (s.result 4 d.toNat (-1))) ∧
      (∀ c, s.capsule? (s.reg a) = some c →
        (c.state = .rebuilding → exec (.capreb d a) s = .next (s.result 4 d.toNat 1)) ∧
        ((c.state = .installing ∨ c.state = .retired) → exec (.capreb d a) s = .next (s.result 4 d.toNat (-2))) ∧
        ((c.state = .ready ∨ c.state = .void) → exec (.capreb d a) s =
          .next (((s.setCapsule { c with state := .rebuilding }).drainWhere (Launch.uses c.accession)).result 4 d.toNat 0)))) ∧
    (Ready s { level := .s, reads := [a.toNat, b.toNat], writes := [d.toNat] } → Settled s →
      s.gated true = false → s.outstanding s.cur 4 = [] →
      let q := s.sealRequest (s.reg a).toNat
      let malformed := s.reg b ≠ 0 ∨ s.inHbm (s.reg a).toNat 64 = false ∨ s.sealHolds q = false
      (malformed → exec (.seal d a b) s = .next (s.result 4 d.toNat (-1))) ∧
      (¬ malformed → (s.keyHandle q.handle (Word.field q.handle 56 8) = none →
          exec (.seal d a b) s = .next ((s.result 4 d.toNat (-2)).eventAt 1016)) ∧
        ∀ e, s.keyHandle q.handle (Word.field q.handle 56 8) = some e →
          let u := s.unmapWritable q.pages
          (u.pagesBusy q.pages = true → exec (.seal d a b) s = u.stall) ∧
          (u.pagesBusy q.pages = false →
            let v := u.eventAt 1016
            let x := lastDword (measure q.kind q.format (v.sealPlain q))
            let taken := x = 0 ∨ ∃ r ∈ v.vault.sealed, r.handle = x
            (taken → exec (.seal d a b) s = .next (v.result 4 d.toNat (-3))) ∧
            (¬ taken → v.freeKeyEntry = none → exec (.seal d a b) s = .next (v.result 4 d.toNat (-4))) ∧
            (¬ taken → ∀ n, v.freeKeyEntry = some n → exec (.seal d a b) s = .next ((v.sealRegion q e n).result 4 d.toNat x))))) ∧
    (Ready s { level := .v, reads := [a.toNat, b.toNat], writes := [d.toNat] } →
      let x := (s.reg a).toNat
      let n := (s.reg b).toNat
      let u := unitOf s.cur
      ((x % 64 ≠ 0 ∨ n % 64 ≠ 0 ∨ 524288 < x + n ∨ isTile u = false) → exec (.zerosp d a b) s = .next (s.result 4 d.toNat (-1))) ∧
      (x % 64 = 0 → n % 64 = 0 → x + n ≤ 524288 → isTile u = true →
        s.txns.any (fun t => t.ctx == s.cur && t.home == .tile u && !t.performed) = false →
        ∃ t : State, exec (.zerosp d a b) s = .next (t.result 4 d.toNat 0) ∧ t.ctxs = s.ctxs ∧ t.tiles = s.tiles ∧ t.opmem = s.opmem ∧
          ∀ key, (scratchKey u x ≤ key ∧ key < scratchKey u (x + n) → t.readByte 0 key = 0 ∧ t.readBad key 1 = false) ∧
            (key < scratchKey u x ∨ scratchKey u (x + n) ≤ key → ∀ kid, t.readByte kid key = s.readByte kid key))) ∧
    (Ready s { level := .v, writes := [d.toNat] } → isTile (unitOf s.cur) = true →
      ∃ x, exec (.sigchk d) s = .next (s.result 4 d.toNat x) ∧
        (x = 0 ↔ ∀ bad ∈ s.signature (unitOf s.cur), bad = false) ∧
        ∀ k < 9, (x.getLsbD k = true ↔ (s.signature (unitOf s.cur))[k]? = some true))

/-- Each waits for a ring entry; a poisoned register it reads makes a late POISON fault, the registers as they were;
otherwise it completes: every active lane of vd holds the operation's result on that lane, every inactive lane its old
value, and no other vector, no scalar, mask, index or extension register and no byte of memory changes. (R346, R349,
R353, R345) -/
def Obligations.VectorLanes : Prop :=
  ∀ (s : State) (d a b w : BitVec 5) (m : BitVec 3),
    let x := fun (k : Nat) => (s.me.getV a.toNat).lane k
    let y := fun (k : Nat) => (s.me.getV b.toNat).lane k
    let z := fun (k : Nat) => (s.me.getV d.toNat).lane k
    let poisoned := fun (need : Need) => (∃ n ∈ need.vreads, Tbl.get false s.me.vbad n = true) ∨ ∃ n ∈ need.data, Tbl.get false s.me.wbad n = true
    let lane := fun (i : Instr) (need : Need) (f : Nat → Word32) => Ready s need →
      (s.ringTake = none → exec i s = s.stall) ∧
      ∀ seq u, s.ringTake = some (seq, u) →
        (poisoned need → ∃ v p, exec i s = .next v ∧ v.lates = s.lates ++ [p] ∧
          p.ctx = s.cur ∧ p.record.subcause = 8 ∧ p.record.seq = seq ∧
          v.me = { s.me with pc := s.me.pc + 4, state := s.me.running } ∧ v.mem = s.mem) ∧
        (¬ poisoned need → ∃ v, exec i s = .next v ∧
          (∀ k < 128, (v.me.getV d.toNat).lane k = if (s.me.getM m.toNat).getLsbD k then f k else z k) ∧
          (∀ n, n ≠ d.toNat → v.me.getV n = s.me.getV n) ∧
          v.me = { s.me with pc := s.me.pc + 4, state := s.me.running, v := v.me.v, vbad := v.me.vbad } ∧
          v.mem = s.mem ∧ v.txns = s.txns ∧ v.tiles = s.tiles ∧ ∀ j, j ≠ s.cur → v.ctx j = s.ctx j)
    let two : UnitNeed → Need := fun unit => { unit := unit, vreads := [a.toNat, b.toNat], vwrites := [d.toNat] }
    let one : UnitNeed → Need := fun unit => { unit := unit, vreads := [a.toNat], vwrites := [d.toNat] }
    let clamp := fun (n : Int) => BitVec.ofInt 32 (max (-(2 ^ 31)) (min (2 ^ 31 - 1) n))
    (∀ p ∈ [(Instr.vadd d a b m, fun k => x k + y k), (.vadds d a b m, fun k => clamp ((x k).toInt + (y k).toInt)),
        (.vsub d a b m, fun k => x k - y k), (.vsubs d a b m, fun k => clamp ((x k).toInt - (y k).toInt)),
        (.vmul d a b m, fun k => x k * y k),
        (.vmulh d a b m, fun k => ((x k).signExtend 64 * (y k).signExtend 64).extractLsb' 32 32),
        (.vmulhu d a b m, fun k => ((x k).setWidth 64 * (y k).setWidth 64).extractLsb' 32 32),
        (.vand d a b m, fun k => x k &&& y k), (.vor d a b m, fun k => x k ||| y k), (.vxor d a b m, fun k => x k ^^^ y k),
        (.vshl d a b m, fun k => x k <<< ((y k).toNat % 32)), (.vshr d a b m, fun k => x k >>> ((y k).toNat % 32)),
        (.vsha d a b m, fun k => (x k).sshiftRight ((y k).toNat % 32)),
        (.vmin d a b m, fun k => BitVec.ofInt 32 (min (x k).toInt (y k).toInt)),
        (.vmax d a b m, fun k => BitVec.ofInt 32 (max (x k).toInt (y k).toInt)),
        (.vminu d a b m, fun k => BitVec.ofNat 32 (min (x k).toNat (y k).toNat)),
        (.vmaxu d a b m, fun k => BitVec.ofNat 32 (max (x k).toNat (y k).toNat)),
        (.vfadd d a b m, fun k => f32Add (x k) (y k)), (.vfsub d a b m, fun k => f32Sub (x k) (y k)),
        (.vfmul d a b m, fun k => f32Mul (x k) (y k)), (.vfdiv d a b m, fun k => f32Div (x k) (y k)),
        (.vfmin d a b m, fun k => f32Min (x k) (y k)), (.vfmax d a b m, fun k => f32Max (x k) (y k)),
        (.vfexps d a b m, fun k => f32Exps (x k) (y k))], lane p.1 (two .vector) p.2) ∧
    (∀ p ∈ [(Instr.vfma d a b m, fun k => f32Fma (x k) (y k) (z k)), (.vfms d a b m, fun k => f32Fms (x k) (y k) (z k))],
      lane p.1 { unit := .vector, vreads := [a.toNat, b.toNat, d.toNat], vwrites := [d.toNat] } p.2) ∧
    (∀ p ∈ [(Instr.vfsqrt d a m, fun k => f32Sqrt (x k)),
        (.vfabs d a m, fun k => if isNaN32 (x k) then 0x7FC00000 else BitVec.ofNat 32 ((x k).toNat % 2 ^ 31)),
        (.vfneg d a m, fun k => if isNaN32 (x k) then 0x7FC00000 else BitVec.ofNat 32 ((x k).toNat + 2 ^ 31)),
        (.vffloor d a m, fun k => f32Floor (x k))], lane p.1 (one .vector) p.2) ∧
    lane (.vmov d a m) (one .conversion) x ∧
    lane (.vperm d a b m) (two .conversion) (fun k => x ((y k).toNat % 128)) ∧
    lane (.vbcast d w m) { unit := .conversion, data := [w.toNat], vwrites := [d.toNat] } (fun _ => (s.reg w).setWidth 32)

/-- VCVT completes with every element whose lane is active converted under its code into its natural place, every other
element and the rest of vd zero. VPK6 completes with the two planes of KF6 and VUPK6 with the containers, and
unpacking what was packed gives every container without its top two bits. VRFWD and VRREV complete lane by lane, and
VRREV of VRFWD of every value in the range gives it back. The special cases of the conversion table hold: infinities
and what lies above the largest finite value give that value with its sign, a minus zero gives 0x00 in KF8 and 0x20 in
KF6, both conversions to I32 clamp, the widening ones are exact, and each NaN gives what the table says. (R140, R141,
R142) -/
def Obligations.VectorConversions : Prop :=
  (∀ (s : State) (d a : BitVec 5) (m : BitVec 3) (c : BitVec 6),
    let need : Need := { unit := .conversion, vreads := [a.toNat], vwrites := [d.toNat] }
    Ready s need → Tbl.get false s.me.vbad a.toNat = false → ∀ seq u, s.ringTake = some (seq, u) →
      let x := s.me.getV a.toNat
      let mask := s.me.getM m.toNat
      let done := fun (i : Instr) (f : Vec → Prop) => ∃ v, exec i s = .next v ∧ f (v.me.getV d.toNat) ∧
        v.me = { s.me with pc := s.me.pc + 4, state := s.me.running, v := v.me.v, vbad := v.me.vbad } ∧
        (∀ n, n ≠ d.toNat → v.me.getV n = s.me.getV n) ∧ v.mem = s.mem
      (c.toNat < 15 → done (.vcvt d a m c) (fun y =>
        (∀ i < 128, y.elem (convResult c.toNat) i =
          (if mask.getLsbD i then convert c.toNat (x.elem (convSource c.toNat) i) else 0) % 2 ^ convResult c.toNat) ∧
        ∀ l, l < 128 → 128 ≤ l * (32 / convResult c.toNat) → y.lane l = 0)) ∧
      done (.vpk6 d a) (fun y =>
        (∀ i < 128, field (y.byte (i / 2)).toNat (4 * (i % 2)) 4 = field (x.byte i).toNat 2 4) ∧
        (∀ i < 128, field (y.byte (64 + i / 4)).toNat (2 * (i % 4)) 2 = field (x.byte i).toNat 0 2) ∧
        ∀ n, 96 ≤ n → n < 512 → y.byte n = 0) ∧
      done (.vupk6 d a) (fun y => (∀ i < 128, (y.byte i).toNat =
        4 * field (x.byte (i / 2)).toNat (4 * (i % 2)) 4 + field (x.byte (64 + i / 4)).toNat (2 * (i % 4)) 2) ∧
        ∀ n, 128 ≤ n → n < 512 → y.byte n = 0) ∧
      done (.vrfwd d a m) (fun y => ∀ k < 128, y.lane k = if mask.getLsbD k then resFwd (x.lane k) else (s.me.getV d.toNat).lane k) ∧
      done (.vrrev d a m) (fun y => ∀ k < 128, y.lane k = if mask.getLsbD k then resRev (x.lane k) else (s.me.getV d.toNat).lane k)) ∧
  (∀ (v : Vec) (i : Nat), i < 128 → unpackByte (Vec.ofBytes (packByte v)) i = v.byte i &&& 0x3F) ∧
  (∀ x : Word32, -8257920 ≤ x.toInt → x.toInt ≤ 8257919 → resRev (resFwd x) = x) ∧
  (∀ x : Word32, ((resFwd x).toNat % 256 : Int) = x.toInt % 256 ∧ ((resFwd x).toNat / 256 % 256 : Int) = x.toInt % 255 ∧
    ((resFwd x).toNat / 65536 % 256 : Int) = x.toInt % 253 ∧ ((resFwd x).toNat / 16777216 : Int) = x.toInt % 251) ∧
  (∀ x : Word32, isNaN32 x = true → convert 0 x.toNat = 0x7FC0 ∧ convert 1 x.toNat = 0x7E00 ∧ convert 2 x.toNat = 0x80 ∧
    convert 3 x.toNat = 0 ∧ convert 4 x.toNat = 0 ∧ convert 5 x.toNat = 0) ∧
  (∀ x : Word32, isNaN32 x = false →
    let m := x.toNat % 2 ^ 31
    let sign := fun (n : Nat) => if x.getLsbD 31 then n else 0
    (0x7F7F8000 ≤ m → convert 0 x.toNat = sign 0x8000 + 0x7F7F) ∧ (0x477FE000 ≤ m → convert 1 x.toNat = sign 0x8000 + 0x7BFF) ∧
    (0x43F00000 ≤ m → convert 2 x.toNat = sign 0x80 + 0x7F) ∧ (m ≤ 0x3A800000 → convert 2 x.toNat = 0) ∧
    (0x41E00000 ≤ m → convert 3 x.toNat = sign 0x20 + 0x1F) ∧ (m ≤ 0x3D000000 → convert 3 x.toNat = sign 0x20) ∧
    (0x4F000000 ≤ m → ∀ c ∈ [4, 5], convert c x.toNat = if x.getLsbD 31 then 0x80000000 else 0x7FFFFFFF)) ∧
  (∀ x : Word32, convert 3 x.toNat < 64 ∧ convert 6 x.toNat = ((max (-128) (min 127 x.toInt)) % 256).toNat ∧
    convert 7 x.toNat = ((max (-8) (min 7 x.toInt)) % 16).toNat) ∧
  (let value := fun (eb w bias y : Nat) =>
      let e := y / 2 ^ w % 2 ^ eb
      let m : ℚ := (y % 2 ^ w : Nat)
      ((if y / 2 ^ (w + eb) % 2 = 1 then -1 else 1) *
        (if e = 0 then (2 : ℚ) ^ (1 - bias : Int) * (m / 2 ^ w) else (2 : ℚ) ^ ((e : Int) - bias) * (1 + m / 2 ^ w)) : ℚ)
    let exact := fun (x : Nat) (r : ℚ) => value 8 23 127 x = r ∧ x % 2 ^ 31 < 0x7F800000
    (∀ y < 65536, convert 8 y = if 0x7F80 < y % 0x8000 then 0x7FC00000 else y * 65536) ∧
    (∀ y < 65536, (0x7C00 < y % 0x8000 → convert 9 y = 0x7FC00000) ∧ (y % 0x8000 < 0x7C00 → exact (convert 9 y) (value 5 10 15 y)) ∧
      (convert 9 y / 2 ^ 31 = 1 ↔ 0x8000 ≤ y ∧ y % 0x8000 ≤ 0x7C00)) ∧
    convert 9 0x7C00 = 0x7F800000 ∧ convert 9 0xFC00 = 0xFF800000 ∧ convert 10 0x80 = 0x7FC00000 ∧
    (∀ y < 256, y ≠ 0x80 → exact (convert 10 y) (value 4 3 7 y)) ∧
    (∀ y < 256, exact (convert 11 y) (value 3 2 3 (y % 64)) ∧ (convert 11 y / 2 ^ 31 = 1 ↔ 0x20 ≤ y % 64)) ∧
    (∀ x : Word32, |x.toInt| ≤ 2 ^ 24 → exact (convert 12 x.toNat) x.toInt) ∧ convert 12 16777217 = 0x4B800000 ∧
    (∀ y < 256, convert 13 y = ((BitVec.ofNat 8 y).signExtend 32).toNat) ∧
    ∀ y < 16, convert 14 y = ((BitVec.ofNat 4 y).signExtend 32).toNat)

/-- Each completes once it has a ring entry, unless a register it reads is poisoned. A compare writes every bit of md: the
lane's result where active, else 0, the float compares false for a NaN but for UN; a write of m0 is discarded. MAND,
MOR and MNOT write the lanes that their mask governs, MCNT counts, MSET sets the mask from two registers. VREDADD sums
the active lanes exactly, VREDMAX takes the largest of the lanes with zero for inactive ones, and VREDFADD and
VREDFMAX combine adjacent results seven times. VEXTR reads a lane, VINS writes one, VIOTA counts the active lanes
below each, and VSEL selects. (R347, R317, R355, R137) -/
def Obligations.VectorToMaskAndScalar : Prop :=
  ∀ (s : State) (d a b : BitVec 5) (n p q m : BitVec 3),
    let x := fun (k : Nat) => (s.me.getV a.toNat).lane k
    let y := fun (k : Nat) => (s.me.getV b.toNat).lane k
    let mask := s.me.getM m.toNat
    let on := fun (k : Nat) => mask.getLsbD k
    let clean := fun (need : Need) => Ready s need ∧ (∀ r ∈ need.vreads, Tbl.get false s.me.vbad r = false) ∧
      (∀ r ∈ need.data, Tbl.get false s.me.wbad r = false) ∧ s.ringTake.isSome = true
    let keeps := fun (v : State) => v.me.pc = s.me.pc + 4 ∧ v.mem = s.mem ∧ v.txns = s.txns ∧ v.me.ix = s.me.ix ∧ v.me.ox = s.me.ox ∧
      ∀ j, j ≠ s.cur → v.ctx j = s.ctx j
    let toMask := fun (i : Instr) (f : Nat → Bool) => ∃ v, exec i s = .next v ∧ keeps v ∧ v.me.w = s.me.w ∧ v.me.v = s.me.v ∧
      (n ≠ 0 → ∀ k < 128, (v.me.getM n.toNat).getLsbD k = f k) ∧ (∀ r, r ≠ n.toNat → v.me.getM r = s.me.getM r)
    let toScalar := fun (i : Instr) (r : Word) => ∃ v, exec i s = .next v ∧ keeps v ∧ v.me.v = s.me.v ∧ v.me.m = s.me.m ∧
      (d ≠ 0 → v.me.getW d.toNat = r) ∧ ∀ j, j ≠ d.toNat → v.me.getW j = s.me.getW j
    let toVector := fun (i : Instr) (f : Nat → Word32) => ∃ v, exec i s = .next v ∧ keeps v ∧ v.me.w = s.me.w ∧ v.me.m = s.me.m ∧
      (∀ k < 128, (v.me.getV d.toNat).lane k = f k) ∧ ∀ j, j ≠ d.toNat → v.me.getV j = s.me.getV j
    let contributed := fun (k : Nat) => if on k then x k else 0
    let tree := fun (f : Word32 → Word32 → Word32) =>
      (Nat.rec (motive := fun _ => Nat → Word32) contributed (fun _ t i => f (t (2 * i)) (t (2 * i + 1))) 7 : Nat → Word32) 0
    (clean { unit := .vector, vreads := [a.toNat, b.toNat] } → ∀ c ∈ [
        (Instr.vfcmpEq n a b m, fun k => !isNaN32 (x k) && !isNaN32 (y k) && (x k == y k || ((x k ||| y k) &&& 0x7FFFFFFF) == 0)),
        (.vfcmpLt n a b m, fun k => f32Lt (x k) (y k)), (.vfcmpLe n a b m, fun k => f32Le (x k) (y k)),
        (.vfcmpUn n a b m, fun k => isNaN32 (x k) || isNaN32 (y k)), (.vcmpEq n a b m, fun k => x k == y k),
        (.vcmpLt n a b m, fun k => decide ((x k).toInt < (y k).toInt)), (.vcmpLtu n a b m, fun k => decide ((x k).toNat < (y k).toNat))],
      toMask c.1 (fun k => on k && c.2 k)) ∧
    (clean { unit := .conversion } →
      let old := s.me.getM n.toNat
      toMask (.mand n p q m) (fun k => if on k then (s.me.getM p.toNat).getLsbD k && (s.me.getM q.toNat).getLsbD k else old.getLsbD k) ∧
      toMask (.mor n p q m) (fun k => if on k then (s.me.getM p.toNat).getLsbD k || (s.me.getM q.toNat).getLsbD k else old.getLsbD k) ∧
      toMask (.mnot n p m) (fun k => if on k then !(s.me.getM p.toNat).getLsbD k else old.getLsbD k)) ∧
    (clean { unit := .conversion, writes := [d.toNat] } → toScalar (.mcnt d p m)
      (BitVec.ofNat 64 ((List.range 128).filter (fun k => (s.me.getM p.toNat).getLsbD k && on k)).length)) ∧
    (clean { unit := .conversion, data := [a.toNat, b.toNat] } → toMask (.mset n a b)
      (fun k => if k < 64 then (s.reg a).getLsbD k else (s.reg b).getLsbD (k - 64))) ∧
    (clean { unit := .vector, vreads := [a.toNat], writes := [d.toNat] } →
      toScalar (.vredfadd d a m) ((tree f32Add).signExtend 64) ∧ toScalar (.vredfmax d a m) ((tree f32Max).signExtend 64) ∧
      toScalar (.vredadd d a m) (BitVec.ofInt 64 ((List.range 128).map (fun k => (contributed k).toInt)).sum) ∧
      ∃ r : Word32, toScalar (.vredmax d a m) (r.signExtend 64) ∧ (∀ k < 128, (contributed k).toInt ≤ r.toInt) ∧ ∃ k < 128, r = contributed k) ∧
    (clean { unit := .conversion, data := [b.toNat], vreads := [a.toNat], writes := [d.toNat] } →
      toScalar (.vextr d a b) ((x ((s.reg b).toNat % 128)).signExtend 64)) ∧
    (clean { unit := .conversion, data := [a.toNat, b.toNat], vreads := [d.toNat], vwrites := [d.toNat] } →
      toVector (.vins d a b) (fun k => if k = (s.reg b).toNat % 128 then (s.reg a).setWidth 32 else (s.me.getV d.toNat).lane k)) ∧
    (clean { unit := .conversion, vwrites := [d.toNat] } → toVector (.viota d m)
      (fun k => BitVec.ofNat 32 ((List.range k).filter on).length)) ∧
    (clean { unit := .conversion, vreads := [a.toNat, b.toNat], vwrites := [d.toNat] } →
      toVector (.vsel d a b m) (fun k => if on k then x k else y k))

/-- VLD and VST whose checks pass over all 512 bytes take a ring entry and put one access per part of at most 256 bytes
(the parts at one home are performed as one) on its way with the lanes their mask allows, raising ld or st once. The
strided, gather, scatter and atomic instructions take their active lanes in ascending order: the lanes below the first
that fails go on their way, each an access of its own at its address, and the failing lane makes a late fault that
names it; they count once where a lane goes, and wait while an acquire, a counter or the ring holds them. No register
but the counters and no byte of memory changes at issue. (R354, R351, R352) -/
def Obligations.VectorMemory : Prop :=
  (∀ (s u w : State) (d : BitVec 5) (b : BitVec 6) (i : BitVec 7) (m : BitVec 3) (h : BitVec 1) (ps : List Part) (seq : Nat),
    let va := s.reg b + BitVec.ofInt 64 (512 * i.toInt)
    let mask := s.me.getM m.toNat
    let sent := fun (j : Instr) (op : Part → TxnOp) (dst : Dst) (ld st : Nat) => ∃ v xs, exec j s = .next v ∧ v.txns = u.txns ++ xs ∧
      xs.length = ps.length ∧ (∀ (n : Nat) (p : Part), ps[n]? = some p → ∃ x, xs[n]? = some x ∧ x.home = p.home ∧ x.key = p.key ∧ x.n = p.len ∧
        x.op = op p ∧ x.dst = dst ∧ x.seq = some seq) ∧ v.mem = u.mem ∧
      v.me = { u.me with pc := u.me.pc + 4, state := u.me.running, ld := u.me.ld + ld, st := u.me.st + st, vbad := v.me.vbad }
    (Ready s { unit := .conversion, reads := [b.toNat], vwrites := [d.toNat] } → Sends s .load va 512 64 true false ps u →
      (u.ringTake = none → exec (.vld d b i m h) s = u.stall) ∧
      (u.ringTake = some (seq, w) → sent (.vld d b i m h) (fun p => .vload (p.off / 4) mask) (.v d.toNat) 1 0)) ∧
    (Ready s { unit := .conversion, reads := [b.toNat], vdata := [d.toNat] } → Sends s .store va 512 64 false true ps u →
      (u.ringTake = none → exec (.vst d b i m h) s = u.stall) ∧
      (u.ringTake = some (seq, w) → sent (.vst d b i m h)
        (fun p => .store (laneBytes (s.me.getV d.toNat) mask p.off p.len) (Tbl.get false s.me.vbad d.toNat)) .none 0 1))) ∧
  (∀ (s u : State) (d a b : BitVec 5) (m : BitVec 3) (seq : Nat), Settled s →
    let mask := s.me.getM m.toNat
    let strided := fun (k : Nat) => s.reg a + BitVec.ofNat 64 k * s.reg b
    let indexed := fun (k : Nat) => s.reg a + BitVec.ofNat 64 (4 * ((s.me.getV b.toNat).lane k).toNat)
    let data := fun (k : Nat) => (s.me.getV d.toNat).lane k
    let store := fun (k : Nat) => TxnOp.store (enumBytes (natBytes 4 (data k).toNat)) (Tbl.get false s.me.vbad d.toNat)
    let load := fun (k : Nat) => TxnOp.vload k mask
    let amo := fun (o : AmoOp) (k : Nat) => TxnOp.amo o ((data k).setWidth 64) false false
    ∀ c ∈ [(Instr.vlds d a b m, ({ unit := .conversion, reads := [a.toNat, b.toNat], vwrites := [d.toNat] } : Need), Access.load, false, strided, load, Dst.v d.toNat),
        (.vsts d a b m, { unit := .conversion, reads := [a.toNat, b.toNat], vdata := [d.toNat] }, .store, true, strided, store, .none),
        (.vgth d a b m, { unit := .vector, reads := [a.toNat], vreads := [b.toNat], vwrites := [d.toNat] }, .load, false, indexed, load, .v d.toNat),
        (.vsct d a b m, { unit := .vector, reads := [a.toNat], vreads := [b.toNat], vdata := [d.toNat] }, .store, true, indexed, store, .none),
        (.vamoor d a b m, { unit := .vector, reads := [a.toNat], vreads := [b.toNat, d.toNat] }, .store, true, indexed, amo .or, .none),
        (.vamoadd d a b m, { unit := .vector, reads := [a.toNat], vreads := [b.toNat, d.toNat] }, .store, true, indexed, amo .add, .none)],
      let need := c.2.1
      let st := c.2.2.2.1
      let addr := c.2.2.2.2.1
      Ready s need → need.vreads.any (fun r => Tbl.get false s.me.vbad r) = false →
        (s.gated st = true → exec c.1 s = s.waitGate) ∧
        (s.gated st = false → (s.full (!st) st = true ∨ s.ringTake = none) → exec c.1 s = s.stall) ∧
        (s.gated st = false → s.full (!st) st = false → s.ringTake = some (seq, u) →
          ∀ lanes fault v, u.locateLanes c.2.2.1 addr (activeLanes mask) = (lanes, fault, v) →
            (∃ r, activeLanes mask = lanes.map (·.1) ++ match fault with | none => [] | some f => f.lane :: r) ∧
            (v.msgHeld (lanes.map (fun l => l.2.home)) = false →
              ∃ t xs, exec c.1 s = .next t ∧ t.txns = v.txns ++ xs ∧ xs.length = lanes.length ∧
                (∀ (n k : Nat) (p : Part), lanes[n]? = some (k, p) → ∃ x, xs[n]? = some x ∧ x.va = addr k ∧ x.home = p.home ∧ x.key = p.key ∧
                  x.n = 4 ∧ x.op = c.2.2.2.2.2.1 k ∧ x.dst = c.2.2.2.2.2.2) ∧
                (fault = none → t.lates = s.lates) ∧
                (∀ f, fault = some f → ∃ y, t.lates = s.lates ++ [y] ∧ y.ctx = s.cur ∧ y.record.lane = some f.lane ∧
                  y.record.subcause = f.sub ∧ y.record.addr = f.addr) ∧
                t.me = { s.me with pc := s.me.pc + 4, state := s.me.running, vbad := t.me.vbad,
                                   ld := s.me.ld + (if lanes ≠ [] ∧ st = false then 1 else 0),
                                   st := s.me.st + (if lanes ≠ [] ∧ st = true then 1 else 0) } ∧ t.mem = s.mem)))

/-- With nothing queued on the link every write is performed. A tail that queues no more than the free entries is taken,
an event at the stewards; any other is ignored and counted; base and size take effect only with the ring empty,
resetting head and tail, the base aligned and the size read back as 6 outside its range. A request length is taken
where it is 1 to 4,096 and both lengths are zero, an event at the vault, and otherwise discarded and counted. The
response length and the pointers of the transfer rings take what is written, and the power cap stays within 1,200 and
2,200. A write by BAR offset does what the register's own write does, one of another size or to a read-only register
nothing, and one of BAR 2 by the host is a security event. Behind a request whose line an irrevocable region holds, a
write waits in its place. (That a base drops its low bits and the pointers keep what is written is log entry 78's
choice, the doorbell as an event at all stewards log entry 77's, BAR 2 of the host log entry 50's, and the link's
order log entry 71's.) (R92, R224, R211, R222, R223, R225, R231) -/
def Obligations.HostRegisterWrites : Prop :=
  ∀ (s : State) (v : Word),
    let h := s.host
    let n := 2 ^ h.jqSize
    let counted := fun (c : Nat) => min (c + 1) (2 ^ 64 - 1)
    let refused := ({ s with host := { h with jqOverrun := counted h.jqOverrun } } : State)
    let insecure := ({ s with host := { h with secEvents := counted h.secEvents } } : State)
    (h.link = [] → h.jqTail < n → h.jqHead < n →
      let queues := ((v.toNat : Int) - h.jqTail) % n
      let room := ((h.jqHead : Int) - h.jqTail - 1) % n
      (v.toNat < n → queues ≤ room → exec (.jqTailWrite v) s = .next (State.stewardEvent { s with host := { h with jqTail := v.toNat } })) ∧
      ((n ≤ v.toNat ∨ room < queues) → exec (.jqTailWrite v) s = .next refused)) ∧
    (h.link = [] → h.jqHead = h.jqTail →
      exec (.jqBaseWrite v) s = .next { s with host := { h with jqBase := BitVec.ofNat 64 (v.toNat / 4096 * 4096), jqHead := 0, jqTail := 0 } } ∧
      exec (.jqSizeWrite v) s = .next { s with host := { h with
        jqSize := if 6 ≤ v.toNat ∧ v.toNat ≤ 12 then v.toNat else 6, jqHead := 0, jqTail := 0 } }) ∧
    (h.link = [] → h.jqHead ≠ h.jqTail → exec (.jqBaseWrite v) s = .next refused ∧ exec (.jqSizeWrite v) s = .next refused) ∧
    (h.link = [] → (1 ≤ v.toNat ∧ v.toNat ≤ 4096 ∧ h.spdmReqLen = 0 ∧ h.spdmRspLen = 0) →
      exec (.spdmReqLenWrite v) s = .next (State.eventAt { s with host := { h with spdmReqLen := v.toNat } } 1016)) ∧
    (h.link = [] → ¬ (1 ≤ v.toNat ∧ v.toNat ≤ 4096 ∧ h.spdmReqLen = 0 ∧ h.spdmRspLen = 0) → exec (.spdmReqLenWrite v) s = .next insecure) ∧
    (h.link = [] →
      exec (.spdmRspLenWrite v) s = .next { s with host := { h with spdmRspLen := v.toNat } } ∧
      exec (.ptReqTailWrite v) s = .next (State.eventAt { s with host := { h with ptReqTail := v.toNat } } 1016) ∧
      exec (.ptRspHeadWrite v) s = .next { s with host := { h with ptRspHead := v.toNat } }) ∧
    exec (.powerCapWrite v) s = .next { s with host := { h with powerCap := if v.toNat < 1200 then 1200 else if 2200 < v.toNat then 2200 else v.toNat } } ∧
    (∀ p ∈ [(0x100, Instr.jqBaseWrite v), (0x108, .jqSizeWrite v), (0x110, .jqTailWrite v), (0x500, .spdmReqLenWrite v),
        (0x508, .spdmRspLenWrite v), (0x618, .ptReqTailWrite v), (0x630, .ptRspHeadWrite v)],
      exec (.registerWrite 0 p.1 8 v) s = exec p.2 s ∧ (h.link = [] → exec (.registerWrite 0 p.1 4 v) s = .next s)) ∧
    (h.link = [] → ∀ off ∈ [0, 0x118, 0x120, 0x200, 0x208, 0x300, 0x400, 0x620, 0x628], exec (.registerWrite 0 off 8 v) s = .next s) ∧
    (h.link = [] → ∀ off size, exec (.registerWrite 2 off size v) s = .next insecure) ∧
    ∀ r rest bar off size, h.link = r :: rest → s.linkHeld r = true →
      exec (.registerWrite bar off size v) s = .next { s with host := { h with link := h.link ++ [⟨bar, off, size, some v⟩] } }

/-- A write of XSD_CTL with no shootdown under way starts one of the range that base and length then hold, of which every
core and engine of the launch's tiles and every cluster TLB there is an agent, and keeps the tag and the flag; an
agent with nothing outstanding in the range, a cluster's TLB after the cluster's cores and engines, acknowledges once;
a write of DL_LEFT sets the job's count to its low 48 bits. The audit log's read pointer advances to any place written
and no further. A sealed region that no launch binds is forgotten and its pages mapped anew; one that is bound stays.
A request for the dormant state is refused while a protected world is live; else, as when it is forced, admission
stops, and the device is dormant as soon as no launch holds tiles; the force destroys every session key, and waking
makes the device active with no session established. (The places of XSD_CTL's fields and the order of the
acknowledgements are log entry 59's choices, the job whose DL_LEFT is written log entry 58's.) (R71, R212, R113, R205,
R198) -/
def Obligations.ResidentSystem : Prop :=
  ∀ (s : State) (v : Word) (core agent tenant rp : Nat) (h : Word),
    (s.shoot.awaited = [] → ∀ l, s.launch? (Word.field v 0 16) = some l → exec (.xsdCtlWrite core v) s =
      .next { s with shoot := { s.shoot with ctl := v &&& 0x1FFFF, fromBase := s.shoot.base, fromLen := s.shoot.len,
                                             awaited := s.shootAgents l } } ∧
      ∀ u ∈ l.units, [u * 4, u * 4 + 1, u * 4 + 2, u + 8192, clusterOf u + 16384].all (s.shootAgents l).contains = true) ∧
    (agent ∈ s.shoot.awaited → s.shootTurn agent = true → s.shootDrained agent = true → ∃ t, exec (.shootdownAck agent) s = .next t ∧
      t.shoot.awaited = s.shoot.awaited.filter (· != agent) ∧ t.mem = s.mem ∧ t.ctxs = s.ctxs ∧
      (agent < 8192 → (∀ e ∈ (t.core agent).utlb, e ∈ (s.core agent).utlb ∧ s.shootRemoves e = false) ∧
        (∀ e ∈ (t.core agent).vtlb, e ∈ (s.core agent).vtlb ∧ s.shootRemoves e = false) ∧
        ∀ e ∈ (t.core agent).mtlb, e ∈ (s.core agent).mtlb ∧ s.shootRemoves e = false)) ∧
    (∀ tag l j, (s.tile (core / 4)).launch = some tag → s.launch? tag = some l → s.job? l.job = some j →
      ∃ t, exec (.dlLeftWrite core v) s = .next t ∧ t.job? l.job = some { j with dlLeft := Word.field v 0 48 } ∧ t.mem = s.mem ∧ t.launches = s.launches) ∧
    ((Tbl.get {} s.vault.tenants tenant).logRead ≤ rp → rp ≤ (Tbl.get {} s.vault.tenants tenant).logWrite →
      ∃ t, exec (.auditLogConsume tenant rp) s = .next t ∧
        Tbl.get {} t.vault.tenants tenant = { Tbl.get {} s.vault.tenants tenant with logRead := rp } ∧ t.mem = s.mem ∧
        ∀ m, m ≠ tenant → Tbl.get {} t.vault.tenants m = Tbl.get {} s.vault.tenants m) ∧
    (∀ r ∈ s.vault.sealed, r.handle = h → (∀ e ∈ s.launches, e.2.state = .retired ∨ h ∉ e.2.models) →
      ∃ t, exec (.sealedRegionRetire h) s = .next t ∧ (∀ x ∈ t.vault.sealed, x.handle ≠ h) ∧
        ∀ x ∈ s.vault.sealed, x.handle ≠ h → x ∈ t.vault.sealed) ∧
    (∀ e ∈ s.launches, e.2.state ≠ .retired → h ∈ e.2.models → exec (.sealedRegionRetire h) s = .next s) ∧
    (s.vault.dormant = false → s.protectedLive = true →
      exec .dormantRequest s = .next { s with host := { s.host with powerCtl := 2 } }) ∧
    (s.vault.dormant = false → s.protectedLive = false → ∃ t, exec .dormantRequest s = .next t ∧ t.host.powerCtl = 1 ∧
      t.vault.dormant = !t.launches.any (fun e => e.2.state == .resident || e.2.state == .ended) ∧
      ((∀ e ∈ s.launches, e.2.state ≠ .resident ∧ e.2.state ≠ .ended) → t.vault.dormant = true ∧ t.mem = s.mem)) ∧
    (s.vault.dormant = false → ∃ t, exec .dormantForce s = .next t ∧ t.host.powerCtl = 1 ∧
      t.vault.dormant = !t.launches.any (fun e => e.2.state == .resident || e.2.state == .ended) ∧
      t.vault.mailbox = {} ∧ t.vault.ethernet = [] ∧ t.vault.transfer = {} ∧ t.vault.debug = [] ∧ t.vault.steward = {}) ∧
    (s.vault.dormant = true → ∃ t, exec .wake s = .next t ∧ t.vault.dormant = false ∧ t.host.powerCtl = 0 ∧
      t.vault.mailbox = {} ∧ t.vault.ethernet = [] ∧ t.vault.debug = [] ∧ ∀ n, (t.client n).job = none)

/-- With the ring empty a take leaves the machine as it is. Otherwise the head advances, and a descriptor with a place for
its completion record becomes the next job, with its desc, its deadline count and its phases; one malformed or of an
unregistered tenant ends with status 5, one that cannot run now with status 6, and neither creates a launch. A
descriptor without such a place is passed over with vector 0 raised, and counted in the error log, which raises vector
1. When every launch of a job's phase has ended, the next phase starts; after the last, or after a failure or a
cancel, the completion record is written, vector 0 raised and the report sent, and the job has its status. (That the
error log's count is of an uncorrectable error is log entry 18's choice, the place in HBM log entry 56's, and the
phases' rule log entry 55's.) (R92, R93, R94) -/
def Obligations.JobQueueAndJobs : Prop :=
  ∀ (s : State) (job : Nat),
    (s.host.jqHead = s.host.jqTail → exec .jobDescriptorTake s = .next s) ∧
    (s.host.jqHead ≠ s.host.jqTail → s.vault.dormant = false →
      let place := s.host.jqBase.toNat + 128 * s.host.jqHead
      let d := s.readDwords place 16
      let record := (nth 0 d 4).toNat
      let tenant := Tbl.get {} s.vault.tenants (Word.field (nth 0 d 1) 48 8)
      ∃ t : State, exec .jobDescriptorTake s = .next t ∧ t.mem = s.mem ∧
        t.host.jqHead = (s.host.jqHead + 1) % 2 ^ s.host.jqSize ∧ t.host.jqTail = s.host.jqTail ∧
        ((s.inHbm place 128 = false ∨ record % 16 ≠ 0 ∨ s.inHbm record 16 = false) →
          t.jobs = s.jobs ∧ t.launches = s.launches ∧ t.host.msix = s.host.msix ++ [0, 1] ∧
          t.host.errUncorrectable = min (s.host.errUncorrectable + 1) 0xFFFFFFFF) ∧
        (s.inHbm place 128 = true → record % 16 = 0 → s.inHbm record 16 = true →
          ∃ j : Job, t.job? s.nextJob = some j ∧ j.desc = d ∧ j.dlLeft = Word.field (nth 0 d 2) 0 48 ∧ j.status = none ∧
            t.nextJob = s.nextJob + 1 ∧ t.host.msix = s.host.msix ∧
            ((s.readPhases d = none ∨ tenant.registered = false) → j.fatal = some 5 ∧ t.launches = s.launches) ∧
            (s.readPhases d ≠ none → tenant.registered = true → (s.host.bootStatus ≠ 1 ∨ tenant.mesh = none) →
              j.fatal = some 6 ∧ t.launches = s.launches) ∧
            (∀ ps, s.readPhases d = some ps → tenant.registered = true → s.host.bootStatus = 1 → tenant.mesh ≠ none →
              j.fatal = none ∧ j.phases = ps ∧ j.phase = 0 ∧
              ∀ a rest, ps = [⟨[a], []⟩] :: rest → ∃ (tag : Nat) (l : Launch), t.launch? tag = some l ∧ l.addr = a ∧
                l.job = s.nextJob ∧ l.phase = 0 ∧ l.graph = 0 ∧ l.index = 0 ∧ l.state = .waiting ∧ l.status = none))) ∧
    (∀ j : Job, s.job? job = some j → j.status = none → s.vault.dormant = false →
      ((∃ e ∈ s.launches, e.2.job = job ∧ e.2.status = none) → exec (.jobCompletion job) s = .next s) ∧
      ((∀ e ∈ s.launches, e.2.job = job → e.2.status ≠ none) →
        (j.fatal = none → j.cancel = none → j.phase + 1 < j.phases.length →
          ∃ (t : State) (j' : Job), exec (.jobCompletion job) s = .next t ∧ t.job? job = some j' ∧ j'.phase = j.phase + 1 ∧
            j'.status = none ∧ j'.phases = j.phases ∧ t.mem = s.mem ∧ t.host = s.host) ∧
        ((j.fatal ≠ none ∨ j.cancel ≠ none ∨ j.phases.length ≤ j.phase + 1) →
          ∃ (t : State) (status : Nat), exec (.jobCompletion job) s = .next t ∧
            (∀ n, j.fatal = some n → status = n) ∧
            (j.fatal = none → (j.cancel ≠ none ∨ ∃ e ∈ s.launches, e.2.job = job ∧ e.2.status ≠ some 0) → status = 1) ∧
            (j.fatal = none → j.cancel = none → (∀ e ∈ s.launches, e.2.job = job → e.2.status = some 0) → status = 0) ∧
            t.job? job = some { j with status := some status } ∧ t.launches = s.launches ∧
            t.host.msix = s.host.msix ++ [0] ∧ t.host.reports = s.host.reports ++ [(nth 0 j.desc 0, status, j.reason)] ∧
            ((nth 0 j.desc 4).toNat % 16 = 0 →
              t.readDword (nth 0 j.desc 4).toNat = BitVec.ofNat 64 status ∧
              t.readDword ((nth 0 j.desc 4).toNat + 8) = BitVec.ofNat 64 (Word.field (nth 0 j.desc 2) 0 48 - j.dlLeft)))))

/-- A ready launch takes a ticket and a steward if it has none (which steward is log entry 80's choice); a record out of
its ranges, or of an accession number with no usable capsule, completes MALFORMED; the admission checks refuse it by
their status; a void capsule begins its rebuild; and one that passes has its key indices and its body and waits for
tiles, or waits to be admitted while it cannot have them. A launch waiting for tiles that can be placed no more is
refused; a choice that the rules forbid changes nothing; one whose every chosen tile is free, with room for its
Stacks, is resident on them, each tile cleared and holding it. The first arrival for an absent launch makes it return,
with an event at its steward, and a return puts its state on free tiles with its parked arrivals before all others.
(The body's address is log entry 33's choice, and that the tiles come with the event log entry 57's.) (R95, R97, R60,
R96, R170) -/
def Obligations.LaunchesPlaced : Prop :=
  ∀ (s : State) (tag : Nat) (l : Launch), s.launch? tag = some l →
    (∀ j : Job, s.job? l.job = some j → s.admissionStopped = false → s.isReady l j = true → (l.state = .waiting ∨ l.state = .pending) →
      let r := s.readDwords l.addr 32
      let refused := fun (t : State) (status : Nat) => ∃ l' : Launch, t.launch? tag = some l' ∧ l'.state = .retired ∧
        l'.status = some status ∧ ∃ j' : Job, t.job? l.job = some j' ∧ j'.fatal = some (j.fatal.getD status)
      ∃ t : State, exec (.launchAdmission tag) s = .next t ∧
        (recordHolds r = false → refused t 5) ∧
        (recordHolds r = true → s.capsule? (nth 0 r 0) = none → refused t 5) ∧
        (∀ c : Capsule, recordHolds r = true → s.capsule? (nth 0 r 0) = some c →
          ((c.state = .installing ∨ c.state = .retired) → refused t 5) ∧
          (c.state = .void → (∃ l' : Launch, t.launch? tag = some l' ∧ l'.state = .pending) ∧
            ∃ c' : Capsule, t.capsule? (nth 0 r 0) = some c' ∧ c'.state = .rebuilding) ∧
          (c.state = .ready →
            let tenant := Word.field (nth 0 j.desc 1) 48 8
            let es := s.readEntries r
            let x : Launch := { l with
              ticket := if l.state = .waiting then Word.field (nth 0 j.desc 1) 56 8 * 2 ^ 56 + s.nextTicket % 2 ^ 56 else l.ticket,
              steward := if l.state = .waiting then tag % 8 else l.steward, state := .pending,
              record := copiedRecord l.record r tenant, bindings := bindingEntries es, slotValues := slotEntries es }
            (∀ status reason, s.admissionRefusal r c tenant es = some (status, reason) → refused t status) ∧
            (s.admissionRefusal r c tenant es = none →
              t.nextTicket = s.nextTicket + (if l.state = .waiting then 1 else 0) ∧
              ((s.keysFree x = false ∨ s.bindable c x.slotValues = false) →
                t.launch? tag = some { x with bindings := [], slotValues := [] } ∧ t.mem = s.mem) ∧
              (s.keysFree x = true → s.bindable c x.slotValues = true → ∃ b : Option Nat,
                t.launch? tag = some { s.withKeys x with bound := b, state := .placing } ∧
                (c.bindsSlots = false → b = none ∧ t.mem = s.mem) ∧
                ∀ y : Body, c.bindsSlots = true → s.sharedBody c x.slotValues = some y → b = some y.number ∧ t.mem = s.mem))))) ∧
    (∀ j : Job, s.job? l.job = some j → (s.admissionStopped = true ∨ s.isReady l j = false) →
      exec (.launchAdmission tag) s = .next s) ∧
    (∀ units : List (List Nat), l.state = .placing → s.admissionStopped = false →
      (s.feasible l.record (l.field 1 8 8) = false → ∃ (t : State) (l' : Launch), exec (.launchPlacement tag units) s = .next t ∧
        t.launch? tag = some l' ∧ l'.state = .retired ∧ l'.status = some 6) ∧
      (s.feasible l.record (l.field 1 8 8) = true → s.choiceHolds tag l units = false →
        exec (.launchPlacement tag units) s = .next s) ∧
      (∀ c : Capsule, s.feasible l.record (l.field 1 8 8) = true → s.choiceHolds tag l units = true →
        (∀ u ∈ units.flatten, s.tileFree u = true ∧ ∀ e ∈ s.launches, e.1 ≠ tag → u ∉ e.2.held) → l.poolBytes = 0 →
        s.capsuleOf l = some c → c.state = .ready → s.blocksLeft (l.stackPages + 1) = true →
        ∃ (t : State) (l' : Launch), exec (.launchPlacement tag units) s = .next t ∧ t.launch? tag = some l' ∧
          l'.state = .resident ∧ l'.units = units.flatten ∧ l'.held = [] ∧ l'.body = 2 ^ 54 + 2 ^ 45 ∧
          (∀ u ∈ units.flatten, (t.tile u).launch = some tag ∧ (t.tile u).inService = true) ∧
          (∀ u, u ∉ units.flatten → t.tile u = s.tile u) ∧
          (∀ k, t.ctx k = if unitOf k ∈ units.flatten then {} else s.ctx k) ∧
          t.msgs.length = s.msgs.length + (if l.field 8 0 16 = 0 then 1 else l.field 8 0 16) ∧
          ∀ m ∈ t.msgs.drop s.msgs.length, m.launch = tag ∧ m.ctx = none)) ∧
    (l.state = .absent → l.parked ≠ [] → l.returning = false →
      ∃ t : State, exec (.absentContext tag) s = .next t ∧ t.launch? tag = some { l with returning := true } ∧ t.ctxs = s.ctxs ∧
        (t.core (agentKey (1008 + l.steward % 8) 0)).event = true) ∧
    ((l.state ≠ .absent ∨ l.returning = true ∨ l.parked = []) → exec (.absentContext tag) s = .next s) ∧
    (∀ (units : List (List Nat)) (c : Capsule), s.capsuleOf l = some c → l.state = .absent → l.returning = true → s.vault.dormant = false → s.falling = false →
      c.state = .ready → s.returnHolds tag l units = true → l.poolBytes = 0 →
      ∃ (u t : State) (l' : Launch), u = (s.bringBack tag l units.flatten []).takeTiles tag units.flatten ∧ u.launch? tag = some l' ∧
        l'.state = .resident ∧ l'.units = units.flatten ∧ l'.parked = [] ∧
        (∀ x ∈ units.flatten, (u.tile x).launch = some tag) ∧ u.msgs.drop l.parked.length = (s.bringBack tag { l with parked := [] } units.flatten []).msgs ∧
        t = l'.ctxKeys.foldl State.resumeDrained u ∧ exec (.launchReturn tag units) s = .next t)

/-- The clear routine waits for an ended launch's accesses on their way to memory; then it zeroes the launch's tiles,
frees them, counts one more receipt and retires it (its tenant's rings lie in HBM). With the deadline count of a job
with launches placed at 0, every activation of those launches is stopped, and once the folios are written the job has
status DEADLINE and each of them ends so. A cancel whose grace interval is over stops every activation of its launch
and sends CANCELLED to tile (0, 0); an absent launch ends CANCELLED. An idle launch is marked by its first sample and,
1,024 cycles later, or 5 microseconds where it spans packages, sends its end message once; one being cancelled
completes CANCELLED instead, and one found busy loses its mark. (That an absent launch ends when the interval is over
is log entry 48's choice, how the contexts stop at a deadline log entry 49's, and the place of the receipts log entry
75's.) (R206, R113, R48, R49, R111, R112, R166) -/
def Obligations.LaunchesEnded : Prop :=
  ∀ (s : State) (tag : Nat) (l : Launch), s.launch? tag = some l →
    (l.state = .ended → s.accessesFly l = true → exec (.clearRoutine tag) s = .next s) ∧
    (l.state = .ended → s.accessesFly l = false → (Tbl.get {} s.vault.tenants (l.field 1 8 8)).logBase + 256 * (Tbl.get {} s.vault.tenants (l.field 1 8 8)).logSize ≤ 2 ^ 52 →
      ∃ t : State, exec (.clearRoutine tag) s = .next t ∧
      t.launch? tag = some { l with state := .retired, units := [], left := [], pools := [], worldKey := none, modelKeys := [],
                                       stackBlocks := [], overflowBlock := 0 } ∧
      (∀ u ∈ l.units, (t.tile u).launch = none ∧ ∀ off < 524288, Tbl.get 0 t.mem (scratchKey u off) = 0) ∧
      (∀ u ∈ l.units, ∀ i < 32, t.ctx (u * 32 + i) = {}) ∧
      (Tbl.get {} t.vault.tenants (l.field 1 8 8)).receipts = (Tbl.get {} s.vault.tenants (l.field 1 8 8)).receipts + 1) ∧
    (l.state ≠ .ended → exec (.clearRoutine tag) s = .next s) ∧
    (∀ j : Job, s.job? l.job = some j → l.state = .resident → j.dlLeft = 0 → j.status = none →
      let written := s.allWritten ((s.placedLaunches l.job).flatMap (fun e => e.2.ctxKeys))
      ∃ t : State, exec (.deadlineExpiry l.job) s = .next t ∧
        (written = false → ∀ k ∈ l.ctxKeys, (t.ctx k).act = none ∨ (t.ctx k).stop ≠ none) ∧
        (written = true → ∃ (j' : Job) (l' : Launch), t.job? l.job = some j' ∧ j'.fatal = some (j.fatal.getD 2) ∧
          j'.reason = "DEADLINE" ∧ t.launch? tag = some l' ∧ l'.state = .ended ∧ l'.status = some 2)) ∧
    (∀ j : Job, s.job? l.job = some j → (j.dlLeft ≠ 0 ∨ j.status ≠ none) → exec (.deadlineExpiry l.job) s = .next s) ∧
    (∀ c : Cancel, l.cancel = some c → c.graceOver = false →
      (s.cycle < c.since + 65536 → exec (.cancelGraceExpiry tag) s = .next s) ∧
      (c.since + 65536 ≤ s.cycle → l.state = .resident →
        ∃ t : State, exec (.cancelGraceExpiry tag) s = .next t ∧
          t.launch? tag = some { l with cancel := some { c with graceOver := true }, sample := none } ∧
          (∀ k ∈ l.ctxKeys, (t.ctx k).state = .dormant ∧ (t.ctx k).act = none) ∧
          ∀ h, (s.capsuleOf l).bind (fun (p : Capsule) => assoc p.traps 4) = some h →
            ∃ m ∈ t.msgs, m.dest = agentKey (nth 0 l.units 0) 3 ∧ m.launch = tag ∧
              m.words.drop 1 = [0, trapWord 0x18 c.level none 0, c.by_, l.levelId tag c.level]) ∧
      (c.since + 65536 ≤ s.cycle → l.state = .absent →
        ∃ (t : State) (l' : Launch), exec (.cancelGraceExpiry tag) s = .next t ∧ t.launch? tag = some l' ∧ l'.state = .ended ∧
          l'.status = some 1)) ∧
    (l.state = .resident →
      let idle := s.launchIdle tag l = true ∧ s.trueFloor tag l = 0x100000000 ∧ l.domainIdle = true
      (¬ idle → exec (.idleSample tag) s = .next (s.setLaunch tag { l with sample := none })) ∧
      (idle → l.sample = none → exec (.idleSample tag) s = .next (s.setLaunch tag { l with sample := some s.cycle })) ∧
      (∀ c0, idle → l.sample = some c0 →
        let wait := if l.peers = [] then 1024 else 7000
        (s.cycle < c0 + wait → exec (.idleSample tag) s = .next s) ∧
        (c0 + wait ≤ s.cycle →
          (l.cancel ≠ none → ∃ (t : State) (l' : Launch), exec (.idleSample tag) s = .next t ∧ t.launch? tag = some l' ∧
            l'.state = .ended ∧ l'.status = some 1) ∧
          (l.cancel = none → l.endSent = true → exec (.idleSample tag) s = .next s) ∧
          (l.cancel = none → l.endSent = false → ∃ (t : State) (m : Msg), exec (.idleSample tag) s = .next t ∧
            t.launch? tag = some { l with endSent := true, sample := none } ∧ t.msgs = s.msgs ++ [m] ∧ m.launch = tag ∧
            m.ctx = none ∧
            ((∀ e, s.handler? tag (l.field 6 16 12) = some e → e.role ≤ 3) → m.dest / 4 = nth 0 l.units 0) ∧
            m.words = [headerWord (s.placeOf m.dest) tag 7 0 0 (l.field 6 16 12)]))))

/-- An install that fails a check changes no capsule and reports the status of the first check that fails, with the notes
ignored where it had come to them; one that passes leaves a READY capsule under the current triple with a body of its
own, or reports the one there is. A retire makes a READY or VOID capsule that no launch names, by its record or by the
one in memory while it waits, RETIRED and takes its bodies, and is refused otherwise; an export reports the bytes of
one not retired. A change of translator or key epoch voids every READY capsule when no launch is live but for those
absent for it. A context that has not drained within 2^20 cycles ends its launch. A rebuild ends READY under the
current triple, its absent launches returning, or VOID with the reason in the error log and the launches that waited
ended. A live patch replaces the value of a live slot within its range. (Its answers for a slot that is not live and
for an unknown launch are log entry 63's choice, all sites at once log entry 99's, and that a failed rebuild counts as
an uncorrectable error log entry 18's.) (R178, R181, R182, R183, R185, R186, R94) -/
def Obligations.CapsulesAndBodies : Prop :=
  ∀ (s : State),
    let names := fun (l : Launch) (acc : Word) => nth 0 l.record 0 = acc ∨
      ((l.state = .waiting ∨ l.state = .pending) ∧ s.readDword l.addr = acc)
    (∀ (bytes : List Byte) (slots : List SlotValue) (tenant : Nat),
      let values := slots.map SlotValue.pair
      let n := Tbl.get {} s.vault.tenants tenant
      let status := s.installStatus bytes slots n
      (bytes.length < 64 → status = 2) ∧ (n.signedOnly = true → capSigned bytes = false → status ≠ 0) ∧
      (status ≠ 0 → exec (.capsuleInstall bytes slots tenant) s = .next { s with reports := s.reports ++ [{ status := status, accession := 0, existing := false, ignored := s.listedNotes bytes slots n }] }) ∧
      (status = 0 → s.capsule? (accessionOf bytes) = none → ∃ (t : State) (c : Capsule) (b : Body), exec (.capsuleInstall bytes slots tenant) s = .next t ∧
        t.capsules = s.capsules ++ [c] ∧ c.accession = accessionOf bytes ∧ c.state = .ready ∧ c.triple = s.triple ∧ c.bytes = bytes ∧
        c.tenant = tenant ∧ c.portable = capPortable bytes ∧ c.installed = values ∧
        t.bodies = s.bodies ++ [b] ∧ b.accession = c.accession ∧ b.number = 0 ∧
        t.reports = s.reports ++ [{ status := 0, accession := accessionOf bytes, existing := false, ignored := c.ignored }]) ∧
      (∀ c, status = 0 → s.capsule? (accessionOf bytes) = some c → c.state = .retired → ∃ (t : State) (c' : Capsule),
        exec (.capsuleInstall bytes slots tenant) s = .next t ∧ t.capsule? (accessionOf bytes) = some c' ∧ c'.state = .ready ∧ c'.bytes = bytes) ∧
      (∀ c, status = 0 → s.capsule? (accessionOf bytes) = some c → c.state ≠ .retired → ∃ t : State, exec (.capsuleInstall bytes slots tenant) s = .next t ∧
        t.capsules = s.capsules ∧ ∃ r : MintReport, t.reports = s.reports ++ [r] ∧ r.status = 0 ∧ r.accession = accessionOf bytes ∧ r.existing = true)) ∧
    (∀ acc : Word,
      (s.capsule? acc = none →
        exec (.capsuleRetire acc) s = .next { s with reports := s.reports ++ [{ status := -1, accession := acc, existing := false }] } ∧
        exec (.capsuleExport acc) s = .next { s with reports := s.reports ++ [{ status := -1, accession := acc, existing := false }] }) ∧
      (∀ c : Capsule, s.capsule? acc = some c →
        (c.state = .retired →
          exec (.capsuleExport acc) s = .next { s with reports := s.reports ++ [{ status := -1, accession := acc, existing := false }] }) ∧
        (c.state ≠ .retired →
          exec (.capsuleExport acc) s = .next { s with reports := s.reports ++ [{ status := 0, accession := acc, existing := true, exported := c.bytes }] }) ∧
        (((∃ e ∈ s.launches, e.2.state ≠ .retired ∧ names e.2 acc) ∨ (c.state ≠ .ready ∧ c.state ≠ .void)) →
          exec (.capsuleRetire acc) s = .next { s with reports := s.reports ++ [{ status := -1, accession := acc, existing := true }] }) ∧
        ((∀ e ∈ s.launches, names e.2 acc → e.2.state = .retired) → (c.state = .ready ∨ c.state = .void) →
          ∃ t : State, exec (.capsuleRetire acc) s = .next t ∧ t.capsule? acc = some { c with state := .retired } ∧
            (∀ b ∈ t.bodies, b.accession ≠ acc) ∧
            ∀ other, other ≠ acc → t.capsule? other = s.capsule? other))) ∧
    (∀ translator epoch : Nat,
      (translator = s.triple.translator → epoch = s.triple.epoch → exec (.bodyVoid translator epoch) s = .next s) ∧
      ((translator ≠ s.triple.translator ∨ epoch ≠ s.triple.epoch) → (s.launches.map (·.1)).Nodup →
        (∀ e ∈ s.launches, e.2.state ≠ .resident ∧ (e.2.state = .absent → e.2.forRebuild = true)) →
        exec (.bodyVoid translator epoch) s = .next { s with
          triple := { s.triple with translator := translator, epoch := epoch },
          capsules := s.capsules.map (fun (c : Capsule) => if c.state = .ready then { c with state := .void } else c) })) ∧
    (∀ (k t0 : Nat) (l : Launch), (s.ctx k).drainReq = some t0 → s.launchOf k = some l →
      (s.cycle < t0 + 1048576 → exec (.bodyVoidLive k) s = .next s) ∧
      (t0 + 1048576 ≤ s.cycle → (s.ctx k).act ≠ none → (∀ st, (s.ctx k).stop = some st → st.portable = false) →
        l.state ≠ .ended → l.state ≠ .retired →
        ∃ (t : State) (l' : Launch), exec (.bodyVoidLive k) s = .next t ∧ t.launch? (s.ctx k).launch = some l' ∧ l'.state = .ended ∧
          l'.status = some 3 ∧ l'.reason = "BODY_VOID_LIVE")) ∧
    (∀ (acc : Word) (c : Capsule), s.capsule? acc = some c →
      (∀ ok, c.state ≠ .rebuilding → exec (.rebuildComplete acc ok) s = .next s) ∧
      (c.state = .rebuilding → (s.launches.map (·.1)).Nodup →
        (∀ e ∈ s.launches, nth 0 e.2.record 0 = acc → e.2.state ≠ .resident ∧ (e.2.state = .absent → e.2.forRebuild = true)) →
        (∃ t : State, exec (.rebuildComplete acc true) s = .next t ∧ t.capsule? acc = some { c with state := .ready, triple := s.triple } ∧
          t.bodies = s.bodies ∧ ∀ tag l, s.launch? tag = some l → t.launch? tag =
            some (if nth 0 l.record 0 = acc ∧ l.state = .absent then { l with forRebuild := false, returning := true } else l)) ∧
        (∃ t : State, exec (.rebuildComplete acc false) s = .next t ∧ t.capsule? acc = some { c with state := .void } ∧
          t.host.errUncorrectable = min (s.host.errUncorrectable + 1) 0xFFFFFFFF ∧
          t.host.errorLog = s.host.errorLog ++ ["REBUILD_FAILED"] ∧
          ∀ tag l, s.launch? tag = some l → nth 0 l.record 0 = acc → (l.state = .absent ∨ l.state = .pending) →
            ∃ l' : Launch, t.launch? tag = some l' ∧ l'.status ≠ none))) ∧
    (∀ (tag slot : Nat) (v : Word),
      let answered := fun (status : Int) => ({ s with reports := s.reports ++ [{ status := status, accession := 0, existing := false }] } : State)
      (s.launch? tag = none → exec (.livePatch tag slot v) s = .next (answered (-1))) ∧
      (∀ (l : Launch) (c : Capsule), s.launch? tag = some l → s.capsuleOf l = some c →
        (l.state ≠ .resident → l.state ≠ .absent → exec (.livePatch tag slot v) s = .next (answered (-1))) ∧
        ((l.state = .resident ∨ l.state = .absent) →
          ((∀ e, c.slots[slot]? = some e → e.when_ ≠ 2) → exec (.livePatch tag slot v) s = .next (answered 2)) ∧
          (∀ e : SlotEntry, c.slots[slot]? = some e → e.when_ = 2 →
            (slotAllows c.portable.length e v (some (l.groups, l.groupTiles)) = false → exec (.livePatch tag slot v) s = .next (answered 13)) ∧
            (slotAllows c.portable.length e v (some (l.groups, l.groupTiles)) = true →
              ∃ t : State, exec (.livePatch tag slot v) s = .next t ∧ t.ctxs = s.ctxs ∧ t.reports = (answered 0).reports ∧
                t.launch? tag = some { l with slotValues := l.slotValues.map (fun p => if p.1 = slot then (slot, v) else p) })))))

/-- A migration that may be made freezes the tile, one to a tile that is not free or is promised changing nothing. A
frozen tile waits until each of its contexts may be frozen, and is free again when the migration may not be made any
more; then the migration puts the tile's launch, contexts and scratchpad at the free tile, renames the tile in the
place map and the launch's queues, and leaves a forwarding entry. A core's marker passes through the old tile when no
message of that core to it is under way, and the entry retires when every core's marker has passed and nothing
addressed to the tile is under way. A machine check takes a tile in service out of service and quarantines it, counts
the error, lowers the count of tiles, raises vector 1 for each, sets its steward's event and stops its activations;
the launch on it ends with status FAULT once their folios are written. (The place map renamed in the step of the move
is log entry 54's choice, the one steward's event log entries 77's and 80's, and the count of a machine check as an
uncorrectable error log entry 18's.) (R168, R21, R173, R22) -/
def Obligations.TilesMovedAndChecked : Prop :=
  ∀ (s : State) (src dst asked core u : Nat),
    (∀ (tag : Nat) (l : Launch), (s.tile src).launch = some tag → s.launch? tag = some l →
      ((s.tile src).frozen = none →
        ((s.mayMigrate src asked l = false ∨ s.tileFree asked = false) → exec (.tileMigration src asked) s = .next s) ∧
        (s.mayMigrate src asked l = true → s.tileFree asked = true →
          exec (.tileMigration src asked) s = .next (s.setTile src { s.tile src with frozen := some asked }))) ∧
      ((s.tile src).frozen = some dst → s.mayMigrate src dst l = false →
        exec (.tileMigration src asked) s = .next (s.setTile src { s.tile src with frozen := none })) ∧
      ((s.tile src).frozen = some dst → s.mayMigrate src dst l = true → (∃ k ∈ tileCtxs src, s.mayFreeze k = false) →
        exec (.tileMigration src asked) s = .next s) ∧
      ((s.tile src).frozen = some dst → s.mayMigrate src dst l = true → (∀ k ∈ tileCtxs src, s.mayFreeze k = true) →
        ∃ t : State, exec (.tileMigration src asked) s = .next t ∧
        t.launch? tag = some { l with
          units := l.units.map (fun x => if x = src then dst else x),
          queues := l.queues.map (fun q => { q with unit := if q.unit = src then dst else q.unit }) } ∧
        (t.tile dst).launch = some tag ∧ (t.tile src).launch = none ∧ (t.tile src).forward = some dst ∧ (t.tile src).markers = [] ∧
        (t.tile src).frozen = none ∧ (t.tile dst).frozen = none ∧
        (t.tile dst).sems = (s.tile src).sems ∧ (t.tile dst).queues = (s.tile src).queues ∧ (t.tile dst).rows = (s.tile src).rows ∧
        (Memory.wf s.mem = true → ∀ off < 524288, Tbl.get 0 t.mem (scratchKey dst off) = Tbl.get 0 s.mem (scratchKey src off)) ∧
        (Tbl.wf {} s.ctxs = true → ∀ i < 32,
          let c := s.ctx (src * 32 + i)
          let c' := t.ctx (dst * 32 + i)
          c'.pc = c.pc ∧ c'.state = c.state ∧ c'.w = c.w ∧ c'.v = c.v ∧ c'.act = c.act ∧ c'.ld = c.ld ∧ c'.stop = c.stop) ∧
        ∀ x, x ≠ src → x ≠ dst → t.tile x = s.tile x)) ∧
    ((s.tile src).launch = none → (s.tile src).frozen = none → exec (.tileMigration src dst) s = .next s) ∧
    (∀ v, (s.tile u).forward = some v →
      (core ∉ (s.tile u).markers → (∀ m ∈ s.msgs, m.ctx.map coreOf = some core → m.dest / 4 ≠ u) →
        exec (.migrationMarker core u) s = .next (s.setTile u { s.tile u with markers := (s.tile u).markers ++ [core] })) ∧
      ((∃ m ∈ s.msgs, m.ctx.map coreOf = some core ∧ m.dest / 4 = u) → exec (.migrationMarker core u) s = .next s) ∧
      (∀ (tag : Nat) (l : Launch), (s.tile v).launch = some tag → s.launch? tag = some l →
        ((∀ a ∈ l.agents, a ∈ (s.tile u).markers) → (∀ m ∈ s.msgs, m.dest / 4 ≠ u) →
          exec (.forwardingRetire u) s = .next (s.setTile u { s.tile u with forward := none, markers := [] })) ∧
        (((∃ a ∈ l.agents, a ∉ (s.tile u).markers) ∨ ∃ m ∈ s.msgs, m.dest / 4 = u) → exec (.forwardingRetire u) s = .next s))) ∧
    ((s.tile u).forward = none → exec (.migrationMarker core u) s = .next s ∧ exec (.forwardingRetire u) s = .next s) ∧
    ((s.tile u).inService = true → ∃ t : State, exec (.machineCheck u) s = .next t ∧ (t.tile u).inService = false ∧
      (t.tile u).quarantined = true ∧ t.host.tileCount = s.host.tileCount - 1 ∧
      ((∀ k ∈ tileCtxs u, ∀ x, (s.ctx k).act = some x → x.tcb = none) → t.host.msix = s.host.msix ++ [1, 1] ∧
        t.host.errUncorrectable = min (s.host.errUncorrectable + 1) 0xFFFFFFFF) ∧ (∀ k ∈ tileCtxs u, (t.ctx k).act = none ∨ (t.ctx k).stop ≠ none) ∧
      ∀ (tag : Nat) (l : Launch), (s.tile u).launch = some tag → s.launch? tag = some l → (t.core (agentKey (1008 + l.steward % 8) 0)).event = true ∧
        (s.allWritten (tileCtxs u) = true → l.state ≠ .ended → l.state ≠ .retired →
        ∃ l' : Launch, t.launch? tag = some l' ∧ l'.state = .ended ∧ l'.status = some 3)) ∧
    ((s.tile u).inService = false → exec (.machineCheck u) s = .next s)

/-- A message that nothing earlier precedes is taken by the firmware of an agent off the tiles, whose event is set, re-
sent with kind 6 by a forwarding entry, parked at a launch that does not hold the tile, written at the ring's write
pointer where general space and the ring's bytes allow, or held. The message held longest is admitted when the ring
has room, and stays while it has none. Dispatch starts the handler of the oldest undispatched record on the lowest
eligible context, with the registers that the rules list; a handler that the capsule does not have starts nothing, is
counted, and is reported to the launch's steward. (That it is counted as an uncorrectable error is log entry 18's
choice, the list of what firmware takes log entry 17's, and where the parked arrivals stand log entry 30's.) (R35,
R37, R39, R29, R36, R41, R362, R42, R168, R170) -/
def Obligations.MessagesReceived : Prop :=
  ∀ (s : State) (id : Nat) (m : Msg), s.msgs.find? (fun x => x.id == id) = some m →
    let u := m.dest / 4
    let n := messageBytes m.words
    let gone := fun (t : State) => ∀ x ∈ t.msgs, x.id ≠ id
    (m.admitted = none → m.held = false → s.earlierMsg m = false →
      (m.dest < 4096 → 288 ≤ u → ∃ t : State, exec (.messageDelivery id) s = .next t ∧ t.firmware = s.firmware ++ [m] ∧
        (t.core (agentKey u 0)).event = true ∧ gone t) ∧
      (∀ v, u < 288 → (s.tile u).forward = some v → ∃ t : State, exec (.messageDelivery id) s = .next t ∧
        t = { s with msgs := t.msgs, nextId := s.nextId + 1 } ∧ ∀ x ∈ t.msgs, x.id = id → x.dest = agentKey v (m.dest % 4) ∧
          Word.field (nth 0 x.words 0) 21 3 = 6 ∧ x.words.drop 1 = m.words.drop 1) ∧
      (∀ l : Launch, u < 288 → (s.tile u).forward = none → s.isFrozen u = false → s.markerAwaited u m = false → s.strange m u = false →
        s.launch? m.launch = some l →
        ((s.tile u).launch ≠ some m.launch → l.state ≠ .ended → l.state ≠ .retired → l.cancel = none →
          l.parkedBytes + n ≤ 16777216 → ∃ (t : State) (l' : Launch), exec (.messageDelivery id) s = .next t ∧ gone t ∧
            t.launch? m.launch = some l' ∧ l'.parked.length = l.parked.length + 1 ∧ l'.parked.take l.parked.length = l.parked ∧
            (nth m l'.parked l.parked.length).words = m.words) ∧
        ((s.tile u).launch = some m.launch → l.state = .resident → l.cancel = none → m.dest % 4 ≠ 3 → s.heldAt m.dest = [] →
          (s.ringCharge m.dest + n ≤ l.ringSize - 3640 → s.admitted m.dest = [] → (s.core m.dest).ringW + n ≤ l.ringSize →
            (∀ r ∈ (s.core m.dest).ring, r.lies l.ringSize (s.core m.dest).ringW ((s.core m.dest).ringW + n) = false) →
            (∀ line, s.lineHeld (.tile u) line none = false) →
            ∃ (t : State) (r : RingRec), exec (.messageDelivery id) s = .next t ∧ gone t ∧
              (t.core m.dest).ring = (s.core m.dest).ring ++ [r] ∧ r.off = (s.core m.dest).ringW ∧ r.size = n ∧ r.pad = 0 ∧
              r.charge = n ∧ r.reserve = none ∧ r.dispatched = false ∧
              (t.core m.dest).ringW = ((s.core m.dest).ringW + n) % l.ringSize ∧
              ∀ i < m.words.length, t.recordWord u (l.ringBase (m.dest % 4) + r.off) i = nth 0 m.words i) ∧
          (l.ringSize - 3640 < s.ringCharge m.dest + (n - 520) → ∃ t : State, exec (.messageDelivery id) s = .next t ∧
            t.msgs = s.msgs.filter (fun x => x.id != id) ++ [{ m with held := true }])))) ∧
    (∀ l : Launch, s.heldAt m.dest = [m] → s.launch? m.launch = some l → l.state = .resident → l.cancel = none →
      (s.admission m.dest l.ringSize n (Word.field (nth 0 m.words 0) 18 3) true = none →
        exec (.heldMessageAdmit m.dest) s = .next s) ∧
      (∀ c r, s.admission m.dest l.ringSize n (Word.field (nth 0 m.words 0) 18 3) true = some (c, r) →
        ∃ t : State, exec (.heldMessageAdmit m.dest) s = .next t ∧ s.heldAt m.dest ≠ t.heldAt m.dest ∧
          ∀ x ∈ t.msgs, x.id = id → x.held = false ∧ x.admitted = some (c, r))) ∧
    (∀ (core k tag : Nat) (l : Launch) (r : RingRec), s.dispatcher core true = some (tag, l) → s.idleContext core l = some k →
      (s.core core).ring.find? (fun x => !x.dispatched) = some r →
      let off := l.ringBase (core % 4) + r.off
      let head := s.recordWord (core / 4) off 0
      (s.handler? tag (Word.field head 0 12) = none → ∃ t : State, exec (.messageDispatch core) s = .next t ∧ t.ctxs = s.ctxs ∧
        t.host.errUncorrectable = min (s.host.errUncorrectable + 1) 0xFFFFFFFF ∧ (t.core (agentKey (1008 + l.steward % 8) 0)).event = true) ∧
      (∀ h : HandlerEntry, s.handler? tag (Word.field head 0 12) = some h →
        ∃ (t : State) (a : Act), exec (.messageDispatch core) s = .next t ∧ (t.ctx k).act = some a ∧ a.header = head ∧
          a.ring = some r.id ∧ (t.ctx k).launch = tag ∧ (t.ctx k).pc = s.entryPc l h ∧
          (t.ctx k).state ≠ .dormant ∧ (t.ctx k).sblk = 3 ∧ (t.ctx k).vblk = 0 ∧ (t.ctx k).region = none ∧
          (t.ctx k).getW 4 = ownTileVa (off + 8) ∧ (t.ctx k).getW 5 = head ∧
          (∀ i < 8, (t.ctx k).getW (8 + i) = if i < Word.field head 12 6 then s.recordWord (core / 4) off (i + 1) else 0) ∧
          (∃ x ∈ (t.core core).ring, x.id = r.id ∧ x.dispatched = true) ∧ t.msgs = s.msgs)) ∧
    (∀ core, s.dispatcher core true = none → exec (.messageDispatch core) s = .next s) ∧
    ∀ core, s.heldAt core = [] → exec (.heldMessageAdmit core) s = .next s

/-- A core with an idle context, no waiting record and no answer to a TKARM or TKSIG on its way starts the task of lowest
bucket within its bound that it holds. A thief with nothing to dispatch takes a record of its next victim, at most
once in 64 cycles, and starts it when the answer is taken, or keeps it. A package dry for 4 microseconds asks the peer
that reported most in-bound records, once at a time, and the answer, a chunk of up to 8 records, joins the least-
loaded core; one that is asked gives at most 8 records, none with keep. A deque below 64 records takes back the chunk
of lowest stamp, its records as their memory holds them. Every core of a launch sees the lower of the package's floor
and the domain's, and an exchange keeps what the other packages report. Answers of TKARM and TKSIG are taken in issue
order, and one whose push stalls waits with it. (That a late answer stays in the deque is log entry 45's reading, the
measure of the 4 microseconds log entry 53's, and the order and places of the chunks log entry 26's choice.) (R98,
R99, R100, R101, R102, R103, R108) -/
def Obligations.TasksMoved : Prop :=
  ∀ (s : State) (core tag : Nat) (l : Launch),
    (∀ (k : Nat) (r : TaskRec) (h : HandlerEntry), s.dispatcher core false = some (tag, l) → s.idleContext core l = some k →
      s.ownTask core tag = some r → s.handler? tag r.handler = some h → (s.core core).ringWaits = false → s.signalsAwaited core = false →
      ∃ t : State, exec (.taskDispatch core) s = .next t ∧ (r.isReleased = false →
        ∃ a : Act, (t.ctx k).act = some a ∧ a.header = r.header ∧ a.bucket = r.bucket ∧ a.seq = r.seq ∧ a.pkg = r.pkg ∧ a.tcb = none ∧
          (t.ctx k).launch = tag ∧ (t.ctx k).pc = s.entryPc l h ∧ (t.ctx k).getW 4 = 0 ∧ (t.ctx k).getW 5 = r.header ∧
          (t.ctx k).getW 8 = r.arg0 ∧ (t.ctx k).getW 9 = r.arg1 ∧ (t.ctx k).getW 10 = BitVec.ofNat 64 r.bucket ∧ (t.ctx k).getW 11 = 0 ∧
          ((s.core core).pushes = [] → (s.core core).deque.length ≤ 193 → (t.core core).deque = (s.core core).deque.erase r))) ∧
    (((s.core core).ringWaits = true ∨ s.signalsAwaited core = true) → exec (.taskDispatch core) s = .next s) ∧
    (∀ victim, s.dispatcher core false = some (tag, l) →
      (∀ t0, (s.core core).stealAt = some t0 → s.cycle < t0 + 64 → exec (.stealRequest core victim) s = .next s) ∧
      (s.nextVictim core tag l victim = false → exec (.stealRequest core victim) s = .next s) ∧
      (s.idleContext core l ≠ none → (s.core core).ringWaits = false → s.ownTask core tag = none → (s.core core).stealAnswer = none →
        (∀ t0, (s.core core).stealAt = some t0 → t0 + 64 ≤ s.cycle) → s.nextVictim core tag l victim = true →
        ∃ t : State, exec (.stealRequest core victim) s = .next t ∧ (t.core core).stealPos = (s.core core).stealPos + 1 ∧
          (t.core core).stealAt = some s.cycle ∧
          (s.stolen core victim tag = none → (t.core core).stealAnswer = some none) ∧
          (∀ v r, s.stolen core victim tag = some (v, r) → (t.core core).stealAnswer = some (some { r with reserve := none }) ∧
            r.keep = false ∧ r ∈ (s.core v).deque ∧
            ((s.core v).pushes = [] → (s.core v).deque.length ≤ 193 → (t.core v).deque = (s.core v).deque.erase r)))) ∧
    ((s.core core).stealAnswer = some none → exec (.stealAnswer core) s = .next (s.setCore core { s.core core with stealAnswer := none })) ∧
    ((s.core core).stealAnswer = none → exec (.stealAnswer core) s = .next s) ∧
    (∀ r : TaskRec, (s.core core).stealAnswer = some (some r) →
      (s.dispatcher core false = none → s.coreCancelled core = false → ∃ t : State, exec (.stealAnswer core) s = .next t ∧ t.ctxs = s.ctxs ∧
        t.core core = { s.core core with stealAnswer := none, deque := (s.core core).deque ++ [r] }) ∧
      (s.dispatcher core false = some (tag, l) → ((s.core core).ringWaits = true ∨ s.bound core tag < r.bucket) → s.coreCancelled core = false →
        ∃ t : State, exec (.stealAnswer core) s = .next t ∧ t.ctxs = s.ctxs ∧
          t.core core = { s.core core with stealAnswer := none, deque := (s.core core).deque ++ [r] }) ∧
      (∀ (k : Nat) (h : HandlerEntry), s.dispatcher core false = some (tag, l) → s.idleContext core l = some k →
        (s.core core).ringWaits = false → r.bucket ≤ s.bound core tag →
        s.handler? tag r.handler = some h → r.isReleased = false → ∃ (t : State) (a : Act), exec (.stealAnswer core) s = .next t ∧
          (t.core core).stealAnswer = none ∧ (t.ctx k).act = some a ∧ a.header = r.header ∧ a.bucket = r.bucket ∧
          (t.ctx k).getW 8 = r.arg0 ∧ (t.ctx k).getW 9 = r.arg1)) ∧
    (∀ (c' : Core) (k : Chunk), (s.core core).lowestChunk = some (k, c') →
      (64 ≤ (s.core core).deque.length → exec (.dequeRefill core) s = .next s) ∧
      ((s.core core).deque.length < 64 → (s.core core).deque.length + k.recs.length ≤ 192 → (∀ a, (s.core a).pushes = []) → ∃ t : State, exec (.dequeRefill core) s = .next t ∧ t.ctxs = s.ctxs ∧
        t.core core = { c' with deque := (s.readChunk (s.tagOfCore core) k).foldl (fun d r => insertBySeq r d) (s.core core).deque } ∧
        (t.core core).deque.length = (s.core core).deque.length + k.recs.length)) ∧
    (∀ t0 : Txn, s.txns.find? (fun t => t.isTask && coreOf t.ctx == core) = some t0 →
      ((t0.performed = false ∨ t0.arrived = true) → exec (.tksigResponse core) s = .next s) ∧
      (t0.performed = true → t0.arrived = false → t0.released = none → exec (.tksigResponse core) s = .next (s.respond t0) ∧
        ∀ x ∈ (s.respond t0).txns, x.id ≠ t0.id) ∧
      (∀ r, t0.performed = true → t0.arrived = false → t0.released = some r →
        ((s.release t0 r).2 = true → exec (.tksigResponse core) s = .next ((s.release t0 r).1.respond t0)) ∧
        ((s.release t0 r).2 = false →
          exec (.tksigResponse core) s = .next ((s.release t0 r).1.setTxn { t0 with arrived := true, released := none })))) ∧
    (s.launch? tag = some l →
      (l.state = .resident → ∃ t : State, exec (.floorUpdate tag) s = .next t ∧ t.launches = s.launches ∧
        ((∀ a ∈ l.agents, (s.core a).pushes = [] ∧ (s.core a).deque.length ≤ 192) → t.mem = s.mem) ∧
        ∀ a ∈ l.agents, (t.core a).floor = min (s.trueFloor tag l) l.domainFloor) ∧
      (l.state ≠ .resident → exec (.floorUpdate tag) s = .next s) ∧
      (∀ peers : List PeerFloor,
        ((∀ p ∈ peers, p.package < s.packages ∧ p.package ≠ s.package) →
          exec (.floorExchange tag peers) s = .next (s.setLaunch tag { l with peers := peers })) ∧
        ((∃ p ∈ peers, s.packages ≤ p.package ∨ p.package = s.package) → exec (.floorExchange tag peers) s = .next s)) ∧
      (∀ peer,
        (l.state = .resident → peer ≠ s.package → l.cancel = none → l.asked = none → s.noInBound tag l = true →
          (∀ a ∈ l.agents, (s.core a).workedAt + 5600 ≤ s.cycle) →
          (∃ p ∈ l.peers, p.package = peer ∧ 0 < p.inBound ∧ ∀ q ∈ l.peers, q.inBound ≤ p.inBound) →
          exec (.packageSteal tag peer) s = .next (s.setLaunch tag { l with sent := l.sent + 1, sample := none, asked := some peer })) ∧
        (peer ≠ s.package → s.noInBound tag l = false → exec (.packageSteal tag peer) s = .next s) ∧
        (l.state = .resident → l.peers ≠ [] → exec (.packageSteal tag s.package) s =
          .next (s.setLaunch tag { l with received := l.received + 1, sample := none, asks := l.asks + 1 })) ∧
        (∀ chunk : List TaskRec, l.state = .resident → 0 < l.asks → ∃ (t : State) (xs : List TaskRec),
          exec (.packageStealAnswer tag s.package chunk) s = .next t ∧ xs.length ≤ 8 ∧ (∀ r ∈ xs, r.keep = false) ∧
            t.launch? tag = some { l with asks := l.asks - 1, sent := l.sent + 1, sample := none, given := l.given ++ [xs] }) ∧
        (∀ chunk : List TaskRec, peer ≠ s.package → (8 < chunk.length ∨ l.asked ≠ some peer) →
          exec (.packageStealAnswer tag peer chunk) s = .next s) ∧
        (∀ (chunk : List TaskRec) (a : Nat), l.state = .resident → peer ≠ s.package → chunk.length ≤ 8 → l.asked = some peer →
          s.leastLoaded l = some a → ∃ t : State, exec (.packageStealAnswer tag peer chunk) s = .next t ∧
            t.launch? tag = some { l with received := l.received + 1, sample := none, asked := none } ∧
            (l.cancel = none → 1 ≤ chunk.length →
              (∃ k : Chunk, (t.core a).chunks = (s.core a).chunks ++ [k] ∧ k.stamp = lowestBucket chunk ∧
                k.recs = chunk.map (fun r => { r with reserve := none }) ∧ ∀ b ∈ l.agents, ∀ j ∈ (s.core b).chunks, j.place ≠ k.place) ∧
              (t.core a).deque = (s.core a).deque))))

/-- An engine job without edges whose card is in order starts, and one whose card is not is rejected; a started copy that
makes its accesses is retired, cp falling, and a fill of eight bytes writes its pattern. A part of a block read
outside a region that its home has read is written at the tile, and the last sends the completion message. An operand
load in its turn makes its group READY or, on a fault of its fields, CLAIMED. The matrix engine zeroes rows, loads
weights, makes its passes lane by lane and drains rows into its buffer, and a fault, one of an error in what it reads
among them, changes no row. A buffered row starts a drain activation with its lanes, scales, row and user word; a tile
task starts its handler on the free engine's A-core. That a job's accesses are one action is log entry 44's choice;
the lowest free drain entry and the order in which faults are found are log entry 39's, and that a malformed tile task
is rejected as it is issued log entry 93's. (R84, R308, R309, R288, R323, R324, R147, R151, R152, R153, R155, R110) -/
def Obligations.EnginesAtWork : Prop :=
  ∀ (s : State) (unit tag : Nat) (l : Launch),
    (∀ (job : Nat) (table : List EngineJob) (j : EngineJob), s.jobEntry job = some (table, j) →
      (j.kind ≠ .tileTask → j.started = false → s.holdsTiles j.launch = true →
        (s.noEdges j table = false → exec (.engineJobStart job) s = .next s) ∧
        (s.noEdges j table = true →
          (j.cardRevision = j.revision → (if j.kind = .copy then j.copyAllowed else j.collectiveAllowed) = true →
            exec (.engineJobStart job) s = .next (s.setJobEntry { j with started := true })) ∧
          ((j.cardRevision ≠ j.revision ∨ (if j.kind = .copy then j.copyAllowed else j.collectiveAllowed) = false) →
            ∃ t : State, exec (.engineJobStart job) s = .next t ∧ ∀ e ∈ t.clusters, ∀ x ∈ e.2.table, x.id ≠ job))) ∧
      (∀ ids, j.kind = .tileTask → j.ending = some ids → s.anyUnderWay ids = false → ∃ t : State, exec (.engineJobComplete job) s = .next t ∧
        (∀ e ∈ t.clusters, ∀ x ∈ e.2.table, x.id ≠ job) ∧ ((s.ctx j.ctx).actId = j.act → (t.ctx j.ctx).tl = (s.ctx j.ctx).tl - 1)) ∧
      (j.kind = .copy → j.started = true → s.holdsTiles j.launch = true →
        (∀ u, (s.engineFor j.unit j.launch).copyRun j = .done u () → ∃ t : State, exec (.engineJobComplete job) s = .next t ∧
          (∀ e ∈ t.clusters, ∀ x ∈ e.2.table, x.id ≠ job) ∧ t.mem = u.mem) ∧
        (∀ (u : State) (p : Part), j.copyOp = 2 → Word.field (j.dword 3) 0 33 = 8 → j.num 2 % 8 = 0 →
          (s.engineFor j.unit j.launch).locate (engineAgent j.unit) .store (BitVec.ofNat 64 (j.num 2)) 8 = .ok ([p], u) → p.off = 0 →
          p.len = 8 → (∀ line, u.lineHeld p.home line none = false) → u.homeHeld p.home = false →
          (∀ i < 8, u.hardwareOwned (p.key + i) = false) →
          ∃ t : State, exec (.engineJobComplete job) s = .next t ∧ t.readBytes p.kid p.key 8 = natBytes 8 (j.dword 4).toNat ∧
            (j.ctx ≠ engineAgent j.unit → (s.ctx j.ctx).actId = j.act → (t.ctx j.ctx).cp = (s.ctx j.ctx).cp - 1)))) ∧
    (∀ (part : Nat) (b : BlkRead) (p : BlkPart), s.blks.find? (fun b => b.parts.any (fun p => p.id == part)) = some b →
      b.parts.find? (fun p => p.id == part) = some p → s.launch? b.launch = some l → l.cancel = none → p.fault = none →
      (p.got = none → exec (.blkrdPartReturn part) s = .next s) ∧
      (∀ bs bad, p.got = some (bs, bad) → bad.length = bs.length → s.liveRegion b.region = none →
        (∀ i < bs.length, s.hardwareOwned (scratchKey (unitOf b.ctx) (b.dst.toNat % 524288 + p.off) + i) = false) → (∀ line, s.lineHeld (.tile (unitOf b.ctx)) line none = false) →
        ∃ t : State, exec (.blkrdPartReturn part) s = .next t ∧
          t.readBytes 0 (scratchKey (unitOf b.ctx) (b.dst.toNat % 524288 + p.off)) bs.length = bs ∧
          ((∃ q ∈ b.parts, q.id ≠ part) → t.msgs = s.msgs ∧ { b with parts := b.parts.filter (fun q => q.id != part) } ∈ t.blks) ∧
          ((∀ q ∈ b.parts, q.id = part) → t.blks = s.blks.erase b ∧ ∃ m : Msg, t.msgs = s.msgs ++ [m] ∧ m.cp = some b.ctx ∧
            m.dest = agentKey (unitOf b.ctx) (Word.field b.ctl 32 2) ∧
            m.words.drop 1 = [b.dst, b.src, BitVec.ofNat 64 (Word.field b.ctl 0 20), b.user]))) ∧
    (∀ (op : Nat) (x : SlotLoad), s.loads.find? (fun y => y.id == op) = some x → 1 ≤ x.width →
      (s.engineAt x.unit x.seq = false → exec (.osldComplete op) s = .next s) ∧
      (s.engineAt x.unit x.seq = true →
        (x.fieldFault ≠ none → ∃ t : State, exec (.osldComplete op) s = .next t ∧ t.opmem = s.opmem ∧ t.loads = s.loads.filter (fun y => y.id != op) ∧
          (slotTag (t.tile x.unit) x.slot).state = .claimed) ∧
        (∀ u sealed_, x.fieldFault = none → (s.zeroGroup x).readPieces x false (x.pieces.flatMap Piece.cut) = .done u sealed_ →
          ∃ t : State, exec (.osldComplete op) s = .next t ∧ t.opmem = u.opmem ∧ (∀ y ∈ t.loads, y.id ≠ op) ∧
            (slotTag (t.tile x.unit) x.slot).state = .ready ∧ (slotTag (t.tile x.unit) x.slot).format = x.format))) ∧
    (∀ (e : MatEntry) (es : List MatEntry), (s.tile unit).engine = e :: es → (∀ x ∈ s.loads, x.unit = unit → seqOlder x.seq e.seq = false) →
      let row := fun (t : State) (n : Nat) => Tbl.get {} (t.tile unit).rows n
      (∀ first count, e.op = .mzero first count → first.toNat < 512 → rowsAllowed first.toNat count.toNat = true →
        ∃ t : State, exec (.matrixPerform unit) s = .next t ∧ (t.tile unit).engine = es ∧
          ∀ n, row t n = if first.toNat ≤ n ∧ n < first.toNat + count.toNat then {} else row s n) ∧
      (∀ slot w, e.op = .mwld slot → e.broken = false → (s.tile unit).consumesBad e.op = false → s.slotWeights unit slot e.kept = some w →
        ∃ t : State, exec (.matrixPerform unit) s = .next t ∧ (t.tile unit).engine = es ∧ (t.tile unit).shadow = some w ∧
          (t.tile unit).active = (s.tile unit).active ∧ ∀ n, row t n = row s n) ∧
      (∀ kind slot rows shape w, e.op = .mma kind slot rows shape → (s.tile unit).mmaWeights = some w →
        ((s.tile unit).mmaFault e.broken kind slot rows shape = none → (s.tile unit).consumesBad e.op = false →
          ∃ t : State, exec (.matrixPerform unit) s = .next t ∧ (t.tile unit).engine = es ∧ (t.tile unit).shadow = none ∧
            (t.tile unit).active = some w ∧
            (∀ i < mmaM shape, (row t (rows.toNat + i)).kind = kind ∧ ∀ j,
              Tbl.get 0 (row t (rows.toNat + i)).lanes j =
                if j < mmaN shape then
                  lanePass kind (slotTag (s.tile unit) slot).format w.format
                    (fun k => s.aCode unit slot (slotTag (s.tile unit) slot).width (slotTag (s.tile unit) slot).format i k)
                    (fun k => elemCode w.format (fun n => Tbl.get 0 w.image n) k j) (mmaK shape) (Tbl.get 0 (row s (rows.toNat + i)).lanes j)
                else Tbl.get 0 (row s (rows.toNat + i)).lanes j) ∧
            ∀ n, (n < rows.toNat ∨ rows.toNat + mmaM shape ≤ n) → row t n = row s n) ∧
        (((s.tile unit).mmaFault e.broken kind slot rows shape ≠ none ∨ (s.tile unit).consumesBad e.op = true) → ∃ t : State, exec (.matrixPerform unit) s = .next t ∧
          (t.tile unit).engine = es ∧ (t.tile unit).active = (s.tile unit).active ∧ ∀ n, row t n = row s n)) ∧
      (∀ kind rows user ox1 n, e.op = .mdrain kind rows user ox1 → e.done = 0 → drainCount rows = 1 →
        s.drainFault unit e.launch kind rows ox1 = none → (s.tile unit).consumesBad e.op = false → (s.tile unit).freeEntry = some n →
        ∃ (t : State) (d : DrainEntry), exec (.matrixPerform unit) s = .next t ∧ (t.tile unit).engine = es ∧
          Tbl.get none (t.tile unit).drain n = some d ∧ d.row = drainFirst rows ∧ d.user = user ∧ d.handler = Word.field ox1 0 12 ∧
          d.launch = e.launch ∧ d.dispatched = false ∧
          (∀ i < 128, d.lanes.lane i = drainLane kind (Tbl.get 0 (row s (drainFirst rows)).lanes i)) ∧ ∀ n, row t n = row s n)) ∧
    (∀ (k n : Nat) (e : DrainEntry) (h : HandlerEntry), s.dispatcher (agentKey unit 2) false = some (tag, l) →
      (s.tile unit).oldestRow = some (n, e) → s.drainContext unit l = some k → s.handler? tag e.handler = some h →
      s.freeBlocks (agentKey unit 2) 1 ≠ 0 → e.launch = tag →
      ∃ (t : State) (a : Act), exec (.drainDispatch unit) s = .next t ∧ (t.ctx k).act = some a ∧ a.drain = some n ∧
        Word.field a.header 21 3 = 5 ∧ (t.ctx k).pc = s.entryPc l h ∧ (t.ctx k).vblk = 1 ∧
        (t.ctx k).getW 8 = BitVec.ofNat 64 e.row ∧ (t.ctx k).getW 9 = e.user ∧ (t.ctx k).getV 0 = e.lanes ∧ (t.ctx k).getV 1 = e.scales ∧
        Tbl.get none (t.tile unit).drain n = some { e with dispatched := true }) ∧
    (∀ (cluster v k : Nat) (j : EngineJob) (h : HandlerEntry),
      let table := (s.cluster cluster).table
      table.find? (fun j => (j.kind == .tileTask && !j.started && s.noEdges j table) &&
        (!j.taskAllowed || (s.taskTile cluster table j).isSome)) = some j →
      (j.taskAllowed = false → ∃ t : State, exec (.tileTaskIssue cluster) s = .next t ∧ ∀ e ∈ t.clusters, ∀ x ∈ e.2.table, x.id ≠ j.id) ∧
      (j.taskAllowed = true → s.taskTile cluster table j = some v → s.launch? j.launch = some l → j.taskLoads = [] →
        s.idleContext (agentKey v 2) l = some k → s.handler? j.launch (Word.field (j.dword 0) 0 12) = some h →
        ∃ (t : State) (a : Act), exec (.tileTaskIssue cluster) s = .next t ∧ (t.ctx k).act = some a ∧ a.header = j.dword 0 ∧
          a.ttq = some j.id ∧ (t.ctx k).pc = s.entryPc l h ∧ (t.ctx k).getW 8 = j.dword 1 ∧
          (t.ctx k).getW 9 = j.dword 2 ∧ ∃ x ∈ (t.cluster cluster).table, x.id = j.id ∧ x.started = true ∧ x.runner = some v))

/-- A walk that finds a leaf puts it into the cluster's buffer; a line that arrives is the cache's, marked and counted
where it is poisoned. The closure recomputed takes in every direct successor. A home's merge writes the bytes of a
committing region's version and acknowledges. A late fault is recorded in its context, which stops for the oldest. A
stopped context's folio is written when everything of it has come back, and its trap is sent to the class's handler. A
PAUSE window and an ALIGN wait end at their cycle. A tile whose idle wire has stayed set for 4,096 cycles is gated. At
95 degrees the device throttles, and at 110 every tile is out of service. A sample measured outside is counted in its
bin at its source's cycles. Walks and line fills are events of their own (log entry 12), what is counted as an error
is log entry 18's reading, the idle wire log entry 53's, who ALIGN awaits log entry 72's, the shutdown at 110 degrees
log entry 66's and the measured sources log entry 70's. (R69, R172, R124, R127, R161, R162, R166, R34, R46, R231,
R229, R230) -/
def Obligations.HardwareAtWork : Prop :=
  ∀ (s : State) (k : Nat) (c : Ctx), c = s.ctx k →
    (∀ cluster root va,
      (∀ leaf e, s.walkTables root va = some leaf → s.walkBad root va = false → s.launches.find? (fun e => e.2.root == root) = some e →
        ∃ t : State, exec (.pageWalkComplete cluster root va) s = .next t ∧ t = { s with clusters := t.clusters } ∧
          (t.cluster cluster).tlb.head? = some { root := root, page := va / 65536, pte := leaf.pte, size := leaf.size, launch := e.1 }) ∧
      ((s.walkTables root va = none ∨ s.walkBad root va = true) → exec (.pageWalkComplete cluster root va) s = .next s)) ∧
    (∀ cluster line bad, ∃ t : State, exec (.instructionLineFill cluster line bad) s = .next t ∧ t.mem = s.mem ∧ t.ctxs = s.ctxs ∧
      findLine (t.cluster cluster).icache line =
        some ⟨line, s.readBytes (Tbl.get 0 s.lineKey line) (line * 64) 64, bad || s.readBad (line * 64) 64⟩ ∧
      t.host.errUncorrectable = (if bad || s.readBad (line * 64) 64 then min (s.host.errUncorrectable + 1) 0xFFFFFFFF else s.host.errUncorrectable)) ∧
    (∃ t : State, exec .closureRecompute s = .next t ∧ t = { s with dir := t.dir } ∧ (∀ n, (t.slot n).pred = (s.slot n).pred) ∧
      (∀ n, (t.slot n).phase = (s.slot n).phase) ∧
      (Tbl.wf {} s.dir = true → ∀ a b, a < 256 → b < 256 → (s.slot a).phase ≠ .free → (s.slot b).pred.getLsbD a = true →
        (t.slot a).clo.getLsbD b = true)) ∧
    (∀ slot home,
      (((s.slot slot).phase ≠ .committing ∨ home ∉ (s.slot slot).homes) → exec (.commitMerge slot home) s = .next s) ∧
      ((s.slot slot).phase = .committing → home ∈ (s.slot slot).homes → ∃ t : State, exec (.commitMerge slot home) s = .next t ∧
        (∃ seen, t.slot slot = { s.slot slot with homes := (s.slot slot).homes.erase home, touched := seen }) ∧
        t.versions = s.versions.filter (fun v => !(v.slot == slot && v.home == home)) ∧
        ∀ v, s.versions.filter (fun v => v.slot == slot && v.home == home) = [v] → (v.data.map (·.1)).Nodup → (∀ p ∈ v.data, p.1 < 64) →
          (∀ p ∈ v.data, t.readByte v.kid (v.line * 64 + p.1) = p.2) ∧
          ∀ kid key, key / 64 ≠ v.line → t.readByte kid key = s.readByte kid key)) ∧
    (∀ id p, s.lates.find? (fun x => x.id == id) = some p → ∃ t : State, exec (.lateFault id) s = .next t ∧ (∀ x ∈ t.lates, x.id ≠ id) ∧
      (p.ctx = k → c.act ≠ none → c.actId = p.act → (∀ a, c.act = some a → a.tcb = none) →
        (t.ctx k).lates = (insertLate p.record c.lates).take 9 ∧
        (s.lateStops k = true → c.lates = [] → StoppedFor t k 0x13 p.record.subcause))) ∧
    (∀ st : Stop, c.stop = some st →
      ((st.written = true ∨ s.folioReady k = false) → exec (.folioWrite k) s = .next s) ∧
      (st.written = false → s.folioReady k = true →
        exec (.folioWrite k) s = .next (((s.writeFolio k st).deliverTrap k st).finishCheck (unitOf k)) ∧
        (st.held = true → (s.tile (unitOf k)).checking = false → s.folioVa k ≠ none → ∃ t : State, exec (.folioWrite k) s = .next t ∧
          (t.ctx k).stop = some { st with written := true, digestAt := s.freeCtr, location := s.portableLoc k st.resumePc } ∧ t.msgs = s.msgs) ∧
        (∀ (l : Launch) (cls h : Nat) (a : Act), st.held = false → (s.tile (unitOf k)).checking = false → c.lates = [] → trapClass st.cause = some cls → s.folioVa k ≠ none →
          (st.cause = 0x12 → s.sessionHolds c.launch = false) → c.act = some a → a.trapHandler = false → s.launch? c.launch = some l →
          l.cancel = none → (s.capsuleOf l).bind (fun (p : Capsule) => assoc p.traps cls) = some h →
          ∃ (t : State) (m : Msg), exec (.folioWrite k) s = .next t ∧ t.msgs = s.msgs ++ [m] ∧ m.dest = agentKey (unitOf k) 3 ∧
            Word.field (nth 0 m.words 0) 0 12 = h % 4096 ∧ Word.field (nth 0 m.words 0) 21 3 = 7 ∧
            m.words.drop 1 = [(s.folioVa k).getD 0, trapWord st.cause st.subcode none 0, s.whoWord k, st.faultPc]))) ∧
    (c.window = none → exec (.pauseEnd k) s = .next s) ∧
    (∀ c0, c.window = some c0 → (s.cycle < c0 → exec (.pauseEnd k) s = .next s) ∧ (c0 ≤ s.cycle → exec (.pauseEnd k) s =
      .next (s.setCtx k { c with window := none, state := if c.state = .background then .ready else c.state }))) ∧
    (∀ i expiry ks, c.align = some (i, expiry, ks) → (s.cycle < expiry → exec (.alignTimeout k) s = .next s) ∧
      (expiry ≤ s.cycle → c.state = .stalled → ∃ t : State, exec (.alignTimeout k) s = .next t ∧ (t.ctx k).pc = c.pc + 4 ∧
        (t.ctx k).align = none ∧ (t.ctx k).w = c.w ∧ ∀ n, n ≠ k → t.ctx n = s.ctx n)) ∧
    (∀ u, (∀ c0, isTile u = true → s.tileIdle u = true → (s.tile u).idleSince = some c0 → c0 + 4096 ≤ s.cycle →
        exec (.idleClockGate u) s = .next (s.setTile u { s.tile u with gated := true })) ∧
      ((s.tileIdle u = false ∨ (s.tile u).idleSince = none) → exec (.idleClockGate u) s = .next s)) ∧
    (∀ celsius, (celsius < 95 → exec (.thermalLimit celsius) s = .next { s with vault := { s.vault with throttled := false } }) ∧
      (95 ≤ celsius → celsius < 110 → exec (.thermalLimit celsius) s = .next { s with vault := { s.vault with throttled := true } }) ∧
      (110 ≤ celsius → ∃ t : State, exec (.thermalLimit celsius) s = .next t ∧ t.vault.stopped = true ∧ t.vault.throttled = true ∧
        ∀ u < 288, (t.tile u).inService = false)) ∧
    ∀ cluster slot v,
      let m := Tbl.get {} (s.cluster cluster).monitors slot
      ((m.launch = none ∨ s.measured m.source = false) → exec (.monitorSample cluster slot v) s = .next s) ∧
      (m.launch ≠ none → ((m.source = 9 ∧ s.cycle % 128 = 0) ∨ (m.source ∈ [11, 12] ∧ s.cycle % 1024 = 0)) → ∃ (t : State) (m' : Monitor), exec (.monitorSample cluster slot v) s = .next t ∧
        Tbl.get {} (t.cluster cluster).monitors slot = m' ∧ m'.launch = m.launch ∧ m'.source = m.source ∧
        m'.samples = min (m.samples + 1) 0xFFFFFFFF ∧ m'.max = max m.max (min v 0xFFFFFFFF) ∧ m'.min = min m.min (min v 0xFFFFFFFF) ∧
        ∀ i < 16, Tbl.get 0 m'.bins i = if (if v = 0 then i = 0 else 1 ≤ i ∧ 2 ^ (i - 1) ≤ v ∧ (v < 2 ^ i ∨ i = 15))
          then min (Tbl.get 0 m.bins i + 1) 0xFFFFFFFF else Tbl.get 0 m.bins i)

/-- A request that is not there is not answered. A capabilities, digests, certificate, challenge or measurements request
is given its response; a version or algorithms request is so too and is remembered. A response by the mailbox stands
in the buffer with its length, in the secured framing within a session; the request length is 0 and vector 3 is
raised. A response over Ethernet is sent to the client and is an event at the vault. A key exchange is refused by the
mailbox within a session and otherwise begins a handshake under new keys; FINISH after an exchange establishes the
session with a fresh key in its channel, over Ethernet the client's own, and END_SESSION takes session and keys away,
with the client's debug session. Bytes in the mailbox that the session's key does not open, and a request that the
vault does not support, are answered with an error. An acknowledged pending key is put to use, and a key that finds
one pending waits. Before an image has arrived, before the delay of a retry has passed and after the device has booted
a boot changes nothing. An image that verifies is measured, is the last good one and runs, with every on-chip
structure cleared: where self-test's failures can be repaired, 288 tiles are in service, each mapped spare marked,
with status 1; else none, with status 2 and the failed tiles reported. Each raises vector 2. An image that does not
verify, as a retry, is discarded, and the delay doubles up to 64 seconds. (The bytes of requests and responses are
taken from outside the specification: log entry 65. What the image's signatures cover is log entry 83's choice, what
END_SESSION takes and the answers to unexpected requests log entry 52's, and the columns that can be repaired log
entry 51's.) (R213, R224, R210, R225, R20, R227) -/
def Obligations.VaultSessions : Prop :=
  ∀ (s : State) (path : SpdmPath) (req : List Byte),
    let events : List (Instr × Nat) := [(.spdmGetVersion path req, 0x84), (.spdmGetCapabilities path req, 0xE1), (.spdmNegotiateAlgorithms path req, 0xE3),
      (.spdmGetDigests path req, 0x81), (.spdmGetCertificate path req, 0x82), (.spdmChallenge path req, 0x83), (.spdmGetMeasurements path req, 0xE0),
      (.spdmKeyExchange path req, 0xE4), (.spdmFinish path req, 0xE5), (.spdmEndSession path req, 0xEC)]
    (∀ e ∈ events, s.requested path e.2 req = false → exec e.1 s = .next s) ∧
    (∀ bs : List Byte, s.vault.mailbox.secure = false → let t := s.respondSpdm .mailbox bs
      t.host.spdmReqLen = 0 ∧ t.host.spdmRspLen = min 4096 bs.length ∧ t.host.msix = s.host.msix ++ [3] ∧
        (∀ i < 4096, Tbl.get 0 t.host.spdmRsp i = nth 0 bs i) ∧ t.vault = s.vault ∧ t.mem = s.mem ∧ t.ctxs = s.ctxs) ∧
    (∀ bs : List Byte, s.vault.mailbox.secure = true → let x := s.vault.mailbox
      s.respondSpdm .mailbox bs = (s.setSession .mailbox { x with taken := x.taken + 1, given := x.given + 1 }).mailboxAnswer
        (secured x.key 1 x.given (bytesNat (s.mailboxBytesIn.take 4)) (bs.take 4072))) ∧
    (∀ bs : List Byte, let x := s.session .ethernet
      let t := s.respondSpdm .ethernet bs
      t.vault.answered = s.vault.answered ++ [(s.readroom.client, if x.secure then secured x.key 1 x.given 0 bs else bs)] ∧
        t.session .ethernet = (if x.secure then { x with taken := x.taken + 1, given := x.given + 1 } else x) ∧
        (t.core (agentKey 1016 0)).event = true ∧ t.host = s.host ∧ t.mem = s.mem ∧ t.ctxs = s.ctxs) ∧
    (∀ p ∈ [(Instr.spdmGetCapabilities path req, 0xE1, capabilitiesBody), (.spdmGetDigests path req, 0x81, spdmHead 0x01 0 1 ++ sha384 certChain),
        (.spdmGetCertificate path req, 0x82, certificateBody req), (.spdmChallenge path req, 0x83, s.challengeBody req),
        (.spdmGetMeasurements path req, 0xE0, s.measurementsBody req)],
      s.requested path p.2.1 req = true → exec p.1 s = .next (s.respondSpdm path p.2.2)) ∧
    (s.requested path 0x84 req = true → ∃ t : State, exec (.spdmGetVersion path req) s = .next t ∧ (t.session path).version = true ∧
      t.host = (s.respondSpdm path versionBody).host ∧ t.vault.answered = (s.respondSpdm path versionBody).vault.answered) ∧
    (s.requested path 0xE3 req = true → ∃ t : State, exec (.spdmNegotiateAlgorithms path req) s = .next t ∧ (t.session path).negotiated = true ∧
      t.host = (s.respondSpdm path algorithmsBody).host ∧ t.vault.answered = (s.respondSpdm path algorithmsBody).vault.answered) ∧
    (s.requested path 0xE4 req = true →
      (path = .mailbox → (s.session path).established = true → exec (.spdmKeyExchange path req) s = .next (s.respondSpdm path (spdmError 0x0A 0))) ∧
      ((path = .ethernet ∨ (s.session path).established = false) → ∃ t : State, exec (.spdmKeyExchange path req) s = .next t ∧
        t.session path = { s.session path with
          exchange := true, established := false, key := 2 * s.nextId, taken := 0, given := 0, encapsulated := false, requester := none } ∧
        t.vault.answered = (s.respondSpdm path (Config.spdmBody 0xE4 req)).vault.answered ∧ s.nextId < t.nextId ∧
        (path = .mailbox → t.host = (s.respondSpdm path (Config.spdmBody 0xE4 req)).host) ∧
        (path = .ethernet → (s.session path).established = true → t.client s.readroom.client = {} ∧ t.channel .debug = {}))) ∧
    (s.requested path 0xE5 req = true →
      ((s.session path).exchange = false → exec (.spdmFinish path req) s = .next (s.respondSpdm path unexpectedRequest)) ∧
      ((s.session path).exchange = true → ∃ t : State, exec (.spdmFinish path req) s = .next t ∧
        t.host = (s.respondSpdm path (spdmHead 0x65 0 0)).host ∧ t.vault.answered = (s.respondSpdm path (spdmHead 0x65 0 0)).vault.answered ∧
        t.session path = { s.session path with
          exchange := false, established := true, key := 2 * s.nextId, taken := 0, given := 0, encapsulated := false } ∧ s.nextId < t.nextId ∧
        (path = .mailbox → t.vault.transfer = { active := some (2 * s.nextId) } ∧ t.vault.ptNext = 0) ∧
        (path = .ethernet → t.channel .debug = { active := some (2 * s.nextId) } ∧
          ∀ n, n ≠ s.readroom.client → Tbl.get {} t.vault.debug n = Tbl.get {} s.vault.debug n))) ∧
    (s.requested path 0xEC req = true →
      ((s.session path).established = false → exec (.spdmEndSession path req) s = .next (s.respondSpdm path unexpectedRequest)) ∧
      ((s.session path).established = true → ∃ t : State, exec (.spdmEndSession path req) s = .next t ∧ t.session path = {} ∧
        t.vault.answered = (s.respondSpdm path (spdmHead 0x6C 0 0)).vault.answered ∧
        (path = .mailbox → t.vault.transfer = {} ∧ t.host = (s.respondSpdm path (spdmHead 0x6C 0 0)).host) ∧
        (path = .ethernet → t.channel .debug = {} ∧ t.client s.readroom.client = {} ∧
          ∀ n, n ≠ s.readroom.client → t.client n = s.client n ∧ Tbl.get {} t.vault.debug n = Tbl.get {} s.vault.debug n))) ∧
    (s.mailboxFull = true → s.mailboxRequest = none → exec (.spdmUnsupportedRequest .mailbox req) s = .next (s.mailboxAnswer (spdmError 0x06 0))) ∧
    (s.arrived path req = true → (nth 0 req 1).toNat ∉ [0x84, 0xE1, 0xE3, 0x81, 0x82, 0x83, 0xE0, 0xE4, 0xE5, 0xEC, 0xEA, 0xEB] →
      (path = .mailbox → s.mailboxRequest ≠ none) →
      exec (.spdmUnsupportedRequest path req) s = .next (s.respondSpdm path (spdmError 0x07 (nth 0 req 1).toNat))) ∧
    exec (.rekeyAck .protectedTransfer) s = .next { s with vault := { s.vault with transfer := s.vault.transfer.flip } } ∧
    (∃ t : State, exec (.rekeyAck .debug) s = .next t ∧ t.channel .debug = (s.channel .debug).flip ∧
      ∀ n, n ≠ s.readroom.client → Tbl.get {} t.vault.debug n = Tbl.get {} s.vault.debug n) ∧
    exec (.rekeyAck .stewardVault) s = .next { s with vault := { s.vault with steward := s.vault.steward.flip } } ∧
    (∀ q : KeySlots, q.pending ≠ none → q.draining = false → q.flip.phase = !q.phase ∧ q.flip.keyOf q.flip.phase = q.pending ∧
      q.flip.keyOf q.phase = q.active ∧ q.flip.accept q.flip.phase = { active := q.pending, pending := q.waiting.head?, waiting := q.waiting.tail, phase := q.flip.phase }) ∧
    (∀ (q : KeySlots) (key : Nat), q.active ≠ none → q.install key =
      if q.pending = none then { q with pending := some key } else { q with waiting := q.waiting ++ [key] }) ∧
    (∀ failed : List Nat,
      let n := if s.vault.retryDelay = 0 then 1 else min 64 (2 * s.vault.retryDelay)
      let again : State := { s with vault := { s.vault with retryDelay := n, retryAt := s.cycle + 1400000000 * n, image := none } }
      ((s.vault.booted = true ∨ s.vault.image = none ∨ s.cycle < s.vault.retryAt) → exec (.boot failed) s = .next s) ∧
      (s.vault.booted = true → exec .bootRetry s = .next s) ∧
      (∀ i, s.vault.image = some i →
        (s.vault.verifies i = false → s.vault.booted = false → s.vault.retryAt ≤ s.cycle → exec (.boot failed) s = .next again) ∧
        (s.vault.verifies i = true → s.vault.booted = false → s.vault.retryAt ≤ s.cycle →
          ∃ t : State, exec (.boot failed) s = .next t ∧ t.vault.booted = true ∧ t.vault.image = none ∧ t.vault.lastGood = sha384 i.body ∧
            Tbl.get [] t.vault.measurements 2 = sha384 i.body ∧ t.host.msix = s.host.msix ++ [2] ∧
            (∀ k < 9216, t.ctx k = {}) ∧ t.opmem = [] ∧ t.dir = [] ∧
            (∀ key, scratchKey 0 0 ≤ key → key < poolKey 36 0 → Tbl.get 0 t.mem key = 0 ∧ Tbl.get false t.bad key = false) ∧
            (repairable failed = true → t.host.bootStatus = 1 ∧ t.host.tileCount = 288 ∧ t.host.selfTest = [] ∧
              ∀ u < 288, (t.tile u).inService = true ∧ (t.tile u).launch = none ∧ (t.tile u).spare = failed.contains u) ∧
            (repairable failed = false → t.host.bootStatus = 2 ∧ t.host.tileCount = 0 ∧ t.host.selfTest = failed ∧ ∀ u, t.tile u = {}))) ∧
      (s.vault.booted = false → exec .bootRetry s = .next again) ∧
      ∀ i, s.vault.verifies i = true → sha384 i.rootKey = s.vault.rootHash ∧ s.vault.fusedMinimum ≤ i.revision ∧
        ecdsaHolds i.rootKey i.firmwareKey i.keySignature = true ∧ ecdsaHolds i.firmwareKey (natBytes 8 i.revision ++ i.body) i.signature = true)

/-- With no request at the head nothing happens, and each of the five steps leaves a request of another op. A request
taken advances the request head and the response tail and raises vector 4. One that does not open under the key of its
phase, or is out of sequence, is a security event and is not performed; another advances the sequence. A register read
or write reaches the register that the address names; a memory read or write is of plain HBM, or of a world whose
tenant registered the requester, and no page that it reaches is a sealed or a body page; a new key stands in the
pending slot, and a second waits until the old slot has been zeroed. A memory request waits while an IRREVOCABLE
region holds a line that it reaches. (The answer -2 for a packet whose slot is empty is log entry 64's choice, and the
identity of a pending key log entry 90's.) (R225, R226, R210, R130) -/
def Obligations.ProtectedTransfers : Prop :=
  ∀ (s : State),
    let q := s.vault.transfer
    let steps : List (Instr × (Nat → Bool)) := [(.ptRegisterRead, fun n => n == 1 || n == 0 || decide (6 ≤ n)), (.ptRegisterWrite, (· == 2)),
      (.ptMemoryWrite, (· == 3)), (.ptMemoryRead, (· == 4)), (.ptRekey, (· == 5))]
    (s.ptRequest = none → ∀ e ∈ steps, exec e.1 s = .next s) ∧
    (s.ptHeld = true → exec .ptMemoryWrite s = .next s ∧ exec .ptMemoryRead s = .next s) ∧
    ∀ r : PtRequest, s.ptRequest = some r →
      let opened := (q.keyOf r.phase).bind (fun k => gcmOpen (directionKey k 0) (transferIv r.sequence 0) (headerBytes (r.header.take 4)) r.sealed
        (headerBytes ((r.header.drop 4).take 2)))
      let u := ({ s with vault := { s.vault with transfer := q.accept r.phase, ptNext := s.vault.ptNext + 1 } } : State)
      let minus := Word.minusOne
      let waits : Prop := ∃ p, opened = some p ∧ p.length = 32 ∧ r.clean = true ∧ r.sequence = s.vault.ptNext ∧ (q.accept r.phase).pending ≠ none
      (r.op = 5 → waits → exec .ptRekey s = .next s) ∧
      (∀ e ∈ steps, (e.2 r.op = false → exec e.1 s = .next s) ∧
        (e.2 r.op = true → (e.1 = .ptRekey → ¬ waits) → (e.1 = .ptMemoryWrite ∨ e.1 = .ptMemoryRead → s.ptHeld = false) →
          (e.1 = .ptRegisterWrite → opened = none ∨ r.sequence ≠ s.vault.ptNext) → ∃ t : State, exec e.1 s = .next t ∧
          t.host.ptReqHead = (s.host.ptReqHead + 1) % 2 ^ s.host.ptSize ∧
          t.host.msix = s.host.msix ++ [4] ∧ t.vault.ptNext = (if opened = none ∨ r.sequence ≠ s.vault.ptNext then s.vault.ptNext else s.vault.ptNext + 1) ∧
          ((opened = none ∨ r.sequence ≠ s.vault.ptNext) → t.vault = s.vault ∧ t.host.ptRspTail = (s.host.ptRspTail + 1) % 2 ^ s.host.ptSize ∧
            t.host.secEvents = min (s.host.secEvents + 1) 0xFFFFFFFFFFFFFFFF))) ∧
      (∀ p, opened = some p → r.sequence = s.vault.ptNext →
        (r.clean = false → ∀ e ∈ steps, e.2 r.op = true → (e.1 = .ptMemoryWrite ∨ e.1 = .ptMemoryRead → s.ptHeld = false) → exec e.1 s = .next (u.ptAnswer r minus [])) ∧
        (r.clean = true →
          (r.op = 1 → (r.register = none → exec .ptRegisterRead s = .next (u.ptAnswer r minus [])) ∧
            ∀ bar off, r.register = some (bar, off) → exec .ptRegisterRead s = .next (u.ptAnswer r 0 (natBytes 8 (s.readBar bar off 8)))) ∧
          (r.op = 2 → p.length = 8 → ∀ bar off, r.register = some (bar, off) →
            exec .ptRegisterWrite s = .next ((u.writeBar bar off 8 (BitVec.ofNat 64 (bytesNat p))).ptAnswer r 0 [])) ∧
          (r.op = 3 → s.ptHeld = false → s.ptMemory r = true → p.length = r.length → exec .ptMemoryWrite s =
            .next ((u.writePhysical (Tbl.get 0 s.vault.indices r.index) r.address p).ptAnswer r 0 [])) ∧
          (r.op = 4 → s.ptHeld = false → s.ptMemory r = true → exec .ptMemoryRead s =
            .next (u.ptAnswer r 0 (s.readBytes (Tbl.get 0 s.vault.indices r.index) r.address r.length))) ∧
          (r.op = 3 → s.ptHeld = false → s.ptMemory r = false → exec .ptMemoryWrite s = .next (u.ptAnswer r minus [])) ∧
          (r.op = 4 → s.ptHeld = false → s.ptMemory r = false → exec .ptMemoryRead s = .next (u.ptAnswer r minus [])) ∧
          (r.op = 5 → p.length ≠ 32 → exec .ptRekey s = .next (u.ptAnswer r minus [])) ∧
          (r.op = 5 → p.length = 32 → (q.accept r.phase).pending = none → ∃ t : State, exec .ptRekey s = .next t ∧
            t.vault.transfer.pending = some (2 * bytesNat p + 1) ∧ t.vault.transfer.active = (q.accept r.phase).active))) ∧
      (s.ptMemory r = true → r.address % 64 = 0 ∧ (r.index = 0 ∨ s.indexAllowed r.index = true) ∧
        ∀ page, r.address / 65536 ≤ page → page * 65536 < r.address + r.length →
          (∀ x ∈ s.vault.sealed, page ∉ x.pages) ∧ page ∉ s.bodyPages)

/-- A command outside a session is refused, as is an attach that finds no job, no SPDM session, a session of the client or
one that holds the job already. An attach holds the job and stops its contexts; a break answers the breakpoint's
number and a delete takes it away; a stop stops every context that may stop where it stands, and a continue lets each
go on where it stopped. What is shown of a launch is a stopped context's registers or folio, memory that the launch
itself can load, the ring, each core's floor, records and running tasks with their regions, and the regions with their
counters; of a protected launch all of it in messages sealed under the session's key, and without a consent only the
counts. The end of a client's session, by the client or by a lost connection, lets the job go on and removes the
breakpoints. (That an attach stops the contexts is log entry 68's reading; the form of the answers is log entry 52's
choice.) (R228, R193, R242, R274) -/
def Obligations.ReadroomCommands : Prop :=
  ∀ (s : State),
    let x := s.mine
    let refused : Out := .next (s.answer none [.value Word.minusOne])
    let held := fun (t : State) (job : Nat) => ∀ k ∈ s.jobContexts job, s.lateStops k = true → (s.ctx k).state ≠ .dormant →
      (t.ctx k).state = .stopped ∧ ∃ st, (t.ctx k).stop = some st ∧ st.held = true ∧ st.cause = 0x12
    (∀ xs, s.answer none xs = { s with readroom := { s.readroom with answers := s.readroom.answers ++
      [{ client := s.readroom.client, key := none, shown := xs }] } }) ∧
    (∀ id xs, let t := s.answer (some id) xs
      let message := secured id 1 (s.session .ethernet).given 0 (xs.flatMap Shown.bytes)
      t.readroom.answers = s.readroom.answers ++ [⟨s.readroom.client, some id, [], message⟩] ∧
      t.session .ethernet = { s.session .ethernet with given := (s.session .ethernet).given + 1 } ∧ t.mem = s.mem ∧ t.ctxs = s.ctxs) ∧
    (x.job = none → ∀ (n m : Nat), ∀ e ∈ ([.rrBreak n, .rrDelete n, .rrStop, .rrContinue, .rrRegs n m, .rrFolio n m, .rrMem n m,
      .rrRing n, .rrWl, .rrRegion] : List Instr), exec e s = refused) ∧
    (∀ job : Word,
      (((s.session .ethernet).established = false ∨ x.job ≠ none ∨ ∀ e ∈ s.jobs, nth 0 e.2.desc 0 = job → e.2.status ≠ none) →
        exec (.rrAttach job) s = refused) ∧
      (∀ e, (s.session .ethernet).established = true → x.job = none →
        s.jobs.find? (fun (e : Nat × Job) => nth 0 e.2.desc 0 == job && e.2.status.isNone) = some e →
        (s.sessionOf e.1 ≠ none → exec (.rrAttach job) s = refused) ∧
        (s.sessionOf e.1 = none → ∃ t : State, exec (.rrAttach job) s = .next t ∧ t.mine = { x with job := some e.1, stopped := true } ∧ held t e.1))) ∧
    (∀ job : Nat, x.job = some job →
      (∀ n, exec (.rrBreak n) s = .next ((s.setMine { x with
        breakpoints := x.breakpoints ++ [(x.nextBreak + 1, n)], nextBreak := x.nextBreak + 1 }).answer none [.value (BitVec.ofNat 64 (x.nextBreak + 1))])) ∧
      (∀ n, ((∀ b ∈ x.breakpoints, b.1 ≠ n) → exec (.rrDelete n) s = refused) ∧ ((∃ b ∈ x.breakpoints, b.1 = n) → exec (.rrDelete n) s =
        .next ((s.setMine { x with breakpoints := x.breakpoints.filter (fun b => b.1 != n) }).answer none [.value 0]))) ∧
      (∃ t : State, exec .rrStop s = .next t ∧ t.mine = { x with stopped := true } ∧ held t job) ∧
      ((∀ k ∈ s.jobContexts job, ∀ a, (s.ctx k).act = some a → a.tcb = none) →
        ∃ t : State, exec .rrContinue s = .next t ∧ t.mine = { x with stopped := false } ∧
          ∀ k ∈ s.jobContexts job, ∀ st, (s.ctx k).stop = some st → st.held = true → (s.ctx k).lates = [] →
            (s.tile (unitOf k)).checking = false → (t.ctx k).stop = none ∧ (t.ctx k).pc = st.resumePc ∧ (t.ctx k).brokeAt = some st.resumePc) ∧
      (let task := fun (k : Nat) => match (s.ctx k).act with | some a => Word.field a.header 21 3 == 1 | none => false
        let tasks := fun (a : Nat) => ((List.range 8).map (fun n => a * 8 + n)).filter task
        let records := fun (l : Launch) (rs : List TaskRec) => Shown.value (BitVec.ofNat 64 rs.length) ::
          rs.flatMap (fun r => [r.header, r.dword1, r.arg0, r.arg1].map (s.hideBody l))
        let running := fun (k : Nat) => [BitVec.ofNat 64 (numOf k), BitVec.ofNat 64 (match (s.ctx k).act with | some a => a.bucket | none => 0),
          match (s.ctx k).region with | some r => BitVec.ofNat 64 r.slot | none => Word.minusOne]
        let answered := fun (a : Nat) => match (s.core a).stealAnswer with | some (some r) => [r] | _ => ([] : List TaskRec)
        let core := fun (e : Nat × Launch) (a : Nat) => shown [BitVec.ofNat 64 (s.placeOf a), BitVec.ofNat 64 (s.core a).floor] ++
          records e.2 (s.core a).deque ++ records e.2 ((s.core a).chunks.flatMap (s.readChunk e.1) ++ (s.core a).gathered) ++
          records e.2 ((s.core a).pushes.map (fun p => p.record) ++ answered a) ++
          shown (BitVec.ofNat 64 (tasks a).length :: (tasks a).flatMap running)
        exec .rrWl s = .next (s.seenLaunches.foldl (fun (t : State) e =>
          if s.visible e.1 e.2 then t.answer (s.showKey e.2) (shown [BitVec.ofNat 64 e.1] ++ e.2.agents.flatMap (core e))
          else t.answer none (shown [BitVec.ofNat 64 (e.2.agents.flatMap tasks).length,
            BitVec.ofNat 64 (e.2.agents.flatMap (fun a => (s.core a).records)).length])) s)) ∧
      exec .rrRegion s = .next (s.seenLaunches.foldl (fun (t : State) e =>
        let ds := s.dir.filter (fun (d : Nat × DirSlot) => d.2.launch == e.1)
        if s.visible e.1 e.2 then t.answer (s.showKey e.2) (shown ([BitVec.ofNat 64 e.1, BitVec.ofNat 64 (e.2.field 5 30 4)] ++
          [4, 5, 6, 7].map (fun i => BitVec.ofNat 64 (Tbl.get 0 e.2.counters i)) ++ ds.flatMap (fun d => s.slotWords d.1 d.2)))
        else t.answer none (shown [BitVec.ofNat 64 ds.length])) s)) ∧
    (∀ core n, (s.seenCtx core n = none → exec (.rrRegs core n) s = refused ∧ exec (.rrFolio core n) s = refused) ∧
      (∀ l st, s.seenCtx core n = some l → (s.ctx (core * 8 + n)).stop = some st →
        exec (.rrRegs core n) s = .next (s.answer (s.showKey l) ((s.ctx (core * 8 + n)).registers.map (s.hideBody l))) ∧
        (∀ f u, (s.folioVa (core * 8 + n)).bind (s.readFolio (core * 8 + n)) = some (f, u) →
          (st.written = false → exec (.rrFolio core n) s = refused) ∧
          (st.written = true → exec (.rrFolio core n) s = .next (s.answer (s.showKey l) ((List.range 2304).map (fun i => s.hideBody l (f.dword i)))))))) ∧
    (∀ core tag l, s.seenAt core = some (tag, l) →
      let es := ((s.core core).cring.filter (fun (e : Nat × RingEntry) => e.2.used && e.2.launch == tag)).map (fun e => e.2)
      (s.visible tag l = true → ∃ xs, exec (.rrRing core) s = .next (s.answer (s.showKey l) xs) ∧ xs.length = 2 * es.length) ∧
      (s.visible tag l = false → exec (.rrRing core) s = .next (s.answer none [.value (BitVec.ofNat 64 es.length)]) ∧
        ∀ n, exec (.rrRegs core n) s = refused ∧ exec (.rrFolio core n) s = refused)) ∧
    (∀ addr n,
      ((∀ e ∈ s.seenLaunches, s.visible e.1 e.2 = false ∨ s.readLaunch e.1 e.2 (BitVec.ofNat 64 addr) n true = none) → exec (.rrMem addr n) s = refused) ∧
      (∀ tag l bs, s.seenLaunches.head? = some (tag, l) → s.visible tag l = true → s.readLaunch tag l (BitVec.ofNat 64 addr) n true = some bs →
        exec (.rrMem addr n) s = .next (s.answer (s.showKey l) (s.showBytes tag l addr bs)) ∧ (s.showBytes tag l addr bs).length = bs.length)) ∧
    (∀ e ∈ ([.rrQuit, .rrDisconnect] : List Instr), ∃ t : State, exec e s = .next t ∧ t.mine = {} ∧
      (e = .rrDisconnect → t.session .ethernet = {} ∧ t.channel .debug = {}))

/-- A flit on a port that is down or retraining, or that does not exist, out of its turn or with a reserved bit set, is
ignored; one whose CRC fails after correction, or whose tag fails under the port key, is counted and asked for again,
and the sixteenth in a row starts a retraining. One that is corrected is counted. The payloads of a packet's flits are
kept until its last, and the packet that the header's type, places and payload give is then accepted once, the port's
key being the ratchet's next at its boundary: a read, write or atomic becomes an access on its way to its home, a
message that its inbox stream's key opens goes on its way and is counted for its launch, a contribution is kept. A
retrained link is up, and once nothing of its traffic that another plane took is unacknowledged the traffic is back; a
retraining link that has stayed down for 10 ms ends the launches whose packets it held, and each plane's traffic that
it carried goes by the next live plane. (How payloads, nonces and types are laid out beyond R216 is log entry 82's
choice, what counts as a corrected error log entry 18's reading, and how an access of another package is received log
entry 67's choice.) (R216, R217, R219, R209) -/
def Obligations.FabricLinks : Prop :=
  ∀ (s : State) (flit : Flit) (plane : Nat),
    let p := s.port flit.port
    let f := flitCorrected flit
    let u := if f = flit then s else s.logError false
    let again : State → Out → Prop := fun v o => ∃ t : State, o = .next t ∧ t.txns = s.txns ∧ t.msgs = s.msgs ∧
      t.host.errCorrected = min (v.host.errCorrected + 1) 0xFFFFFFFF ∧ t.port flit.port =
        if 15 ≤ p.retries then { p with retries := 0, retraining := true, since := s.cycle } else { p with retries := p.retries + 1 }
    ((64 ≤ flit.port ∨ p.up = false ∨ p.retraining = true) → exec (.fabricFlitReceive flit) s = .next s) ∧
    (flit.port < 64 → p.up = true → p.retraining = false →
      (flitCrcHolds f = false → again s (exec (.fabricFlitReceive flit) s)) ∧
      (flitCrcHolds f = true → (flitIndex f ≠ p.next ∨ flitReservedZero f = false) → exec (.fabricFlitReceive flit) s = .next u) ∧
      (flitCrcHolds f = true → flitIndex f = p.next → flitReservedZero f = true →
        let key := ratchet "KF-PORT" p.key p.next
        (flitPayload f key p.parts.length = none → again u (exec (.fabricFlitReceive flit) s)) ∧
        (∀ payload, flitPayload f key p.parts.length = some payload → p.parts.length + 1 < flitCount f →
          exec (.fabricFlitReceive flit) s = .next (u.setPort flit.port { p with retries := 0, parts := p.parts ++ [payload] })) ∧
        (∀ payload, flitPayload f key p.parts.length = some payload → flitCount f ≤ p.parts.length + 1 →
          let q : Port := { p with retries := 0, next := p.next + 1, parts := [], key := key }
          let carried := packetOf (flitKind f) (p.parts ++ [payload]).flatten
          let stream := s.stream (flitSource f / 4096)
          let access := fun (pa n : Nat) (op : TxnOp) => field pa 39 4 = 0 → pa / 2 ^ 43 = s.package → ∃ (t : State) (x : Txn),
            exec (.fabricFlitReceive flit) s = .next t ∧ t.port flit.port = q ∧ t.mem = s.mem ∧ t.txns = s.txns ++ [x] ∧
            x.home = homeOf pa ∧ x.key = pa ∧ x.n = n ∧ x.op = op ∧ x.performed = false
          (carried = none → exec (.fabricFlitReceive flit) s = .next (u.setPort flit.port q)) ∧
          (∀ pa n, carried = some (.read pa n) → access pa n (.load false)) ∧
          (∀ pa n bytes, carried = some (.write pa n bytes) → access pa n (.store bytes false)) ∧
          (∀ pa n v e, carried = some (.atomic pa n 0 v e) → access pa n (.amo .add v false false)) ∧
          (∀ pa n v e, carried = some (.atomic pa n 10 v e) → access pa n (.amo (.cas e) v false false)) ∧
          (∀ launch ws tag, carried = some (.message launch ws tag) →
            let opened := openMessage (ratchet "KF-INBOX" stream.key stream.count) stream.count ws tag
            (opened = none → exec (.fabricFlitReceive flit) s = .next u) ∧
            ∀ words, opened = some words → ∃ (t : State) (m : Msg), exec (.fabricFlitReceive flit) s = .next t ∧ t.port flit.port = q ∧
              t.mem = s.mem ∧ t.msgs = s.msgs ++ [m] ∧ m.dest = field (flitDest f) 0 12 ∧ m.launch = launch ∧ m.words = words ∧
              (t.stream (flitSource f / 4096)).count = stream.count + 1 ∧
              (t.stream (flitSource f / 4096)).key = ratchet "KF-INBOX" stream.key stream.count ∧
              ∀ l, s.launch? launch = some l → t.launch? launch = some { l with received := l.received + 1, sample := none }) ∧
          (∀ tag package elements, carried = some (.collective tag package elements) → ∃ t : State, exec (.fabricFlitReceive flit) s = .next t ∧
            t.port flit.port = q ∧ t.mem = s.mem ∧ t.collected = s.collected ++ [(tag, package, elements)])))) ∧
    (plane < 64 → ((s.port plane).up = false ∨ (s.port plane).retraining = true) → ∃ t : State, exec (.linkRetrained plane) s = .next t ∧
      t = { s with ports := t.ports } ∧ (t.port plane).up = true ∧ (t.port plane).retraining = false ∧ (t.port plane).retries = 0 ∧
      ((∀ n, (s.port plane).redirect = some n → ∀ e ∈ (s.port n).out.waiting, e.2.2 = plane → s.unacked e.1 = false) →
        (t.port plane).redirect = none ∧ (t.port plane).returning = false)) ∧
    (((s.port plane).retraining = false ∨ s.cycle < (s.port plane).since + 14000000) → exec (.linkDown plane) s = .next s) ∧
    ((s.port plane).retraining = true → (s.port plane).since + 14000000 ≤ s.cycle → ∃ t : State, exec (.linkDown plane) s = .next t ∧
      t.port plane = { s.port plane with up := false, retraining := false, redirect := s.nextLive plane } ∧
      (∀ n < 64, n ≠ plane → (s.port n).redirect = some plane → (t.port n).redirect =
        if (s.port n).up = true ∧ (s.port n).retraining = false then none else s.nextLive n) ∧
      ∀ tag ∈ s.launchesOn plane, ∀ l, s.launch? tag = some l → (l.state = .resident ∨ l.state = .absent) →
        ∃ l' : Launch, t.launch? tag = some l' ∧ l'.state = .ended ∧ l'.status = some 3)

/-- After reset every shared and private register reads the value that its table gives, an offset that no table lists
reads zero in every state, BAR 2 apart; the memory is in its canonical form; and every context is DORMANT. (R222,
R223, R227) -/
def Obligations.ResetState : Prop :=
  (∀ p ∈ [(0x0000, 0x200000001), (0x0100, 0), (0x0108, 6), (0x0110, 0), (0x0118, 0), (0x0120, 0), (0x0200, 0), (0x0208, 0), (0x0300, 0),
      (0x0400, 0), (0x0500, 0), (0x0508, 0), (0x0600, 0), (0x0608, 0), (0x0610, 4), (0x0618, 0), (0x0620, 0), (0x0628, 0), (0x0630, 0)],
    State.reset.readBar 0 p.1 8 = p.2 ∧ ∀ n, n ≠ 8 → State.reset.readBar 0 p.1 n = 0) ∧
  (∀ p ∈ [(0x0000, 0), (0x0100, 2200), (0x0108, 0)], State.reset.readBar 2 p.1 8 = p.2) ∧
  (∀ off n, 0x1000 ≤ off → off < 0x3000 → State.reset.readBar 0 off n = 0) ∧
  (∀ (s : State) off, off ∉ [0, 0x100, 0x108, 0x110, 0x118, 0x120, 0x200, 0x208, 0x300, 0x400, 0x500, 0x508, 0x600, 0x608, 0x610, 0x618,
      0x620, 0x628, 0x630] → (off < 0x1000 ∨ 0x3000 ≤ off) → s.readBar 0 off 8 = 0) ∧
  Memory.wf State.reset.mem = true ∧ ∀ k, (State.reset.ctx k).state = .dormant

/-- On a device that has not stopped, where the schedule is empty, the turn is the context's and the current context is
READY, kept at its boundary neither by a migration nor by a fall to the dormant state, with no late fault, drain
request, expired deadline or debug session to stop it, the step fetches at its PC, after one cycle has passed: a
decoded instruction is executed with its word recorded, a pattern that is no instruction traps with cause 1 there, and
a fetch that faults traps with its fault. An event of the schedule that has no encoding is executed, and a turn of a
core goes to the context that the core issues from, which runs if it may. The schedule is the model's (log entry 3).
(R243, R244, R245) -/
def Obligations.StepRunsDecoded : Prop :=
  ∀ (s u : State),
    s.vault.stopped = false →
    let v : State := { s.tick 1 with hwTurn := true }
    (s.schedule = [] → s.hwTurn = false → v.runs s.cur = true → s.me.state = .ready → s.me.lates = [] → s.me.drainReq = none →
      (∀ l, s.launchOf s.cur = some l → s.sessionOf l.job = none) → v.expired s.cur = none →
      (∀ bs i n, v.fetchBytes s.cur s.me.pc = (.ok bs, u) → decode bs = .ok (i, n) →
        step s = exec i (u.setWord (wideWord i (bytesNat bs)))) ∧
      (∀ bs e, v.fetchBytes s.cur s.me.pc = (.ok bs, u) → decode bs = .error e →
        step s = (u.setWord (BitVec.ofNat 32 (bytesNat bs))).trapAt u.cur 1 0 0 none) ∧
      (∀ f, v.fetchBytes s.cur s.me.pc = (.error f, u) → step s = (u.setWord 0).trapAt u.cur f.cause f.sub f.addr none)) ∧
    (∀ i r, s.schedule = .event i :: r → encode i = none → step s = exec i { s.tick 1 with schedule := r }) ∧
    ∀ k r, s.schedule = .turn k :: r →
      let w : State := { s.tick 1 with schedule := r }
      let u : State := { w with cur := (w.choiceOf (coreOf k)).getD k }
      (u.runs u.cur = true → step s = u.turn) ∧ (u.runs u.cur = false → step s = .next u)

/-- The words written out from the encodings of ADD, LI, BEQ, STD, FADD, VFADD, MMA.F and SVC decode to those instructions
with their operands, and the word of a function code that no instruction has decodes to none. (R246, R256) -/
def Obligations.StoredWordsDecode : Prop :=
  decodeTableWord 32 0x00B28903 = some (.add 9 10 11) ∧ decodeTableWord 32 0x03E00C17 = some (.li 12 0xF80) ∧
    decodeTableWord 32 0x00828921 = some (.beq 9 10 8) ∧ decodeTableWord 32 0x10030D55 = some (.std 13 12 0x100) ∧
    decodeTableWord 32 0x01140A3D = some (.fadd 10 16 17) ∧ decodeTableWord 32 0x000402C1 = some (.vfadd 2 0 1 0) ∧
    decodeTableWord 32 0x00B280A5 = some (.mmaF 10 11) ∧ decodeTableWord 32 0x04C34EE1 = some (.svc 14 13 12) ∧ decodeTableWord 32 0xFC000003 = none

/-- For every well-formed instruction that has an encoding, every operand at every value it admits, the decoder reads from
the bytes of its word that instruction and its length, whatever bytes follow. (R243, R246, R247, R255, R256, R257) -/
def Obligations.DecodeEncode : Prop :=
  ∀ (i : Instr) (n w : Nat) (rest : List Byte), i.wellFormed = true → encode i = some (n, w) → decode (leBytes (n / 8) w ++ rest) = .ok (i, n / 8)

/-- From every state whose memory is in its canonical form (addresses strictly rising, no entry that equals what an
unlisted address reads as), a step that goes on gives a state whose memory is so. The form, and that an unlisted
address reads as zero, are the model's choice (log entry 2). (R52, R55) -/
def Obligations.MemoryCanonicalKept : Prop :=
  ∀ s t : State, Memory.wf s.mem = true → step s = .next t → Memory.wf t.mem = true

end
end

