-- ==== Sys2Proof/Laws/Cipher.lean ====
section
/-!
SUPPORT. Sys2Proof/Laws/Cipher.lean: what was closed under AES-256-GCM opens again (R197, R225).
-/

namespace Sys2Proof.Machine

theorem cryptWith_length : ∀ (bs : List Byte) (ks : List Nat), (cryptWith bs ks).length = bs.length
  | [], _ => rfl
  | _ :: r, ks => by simp [cryptWith, cryptWith_length r]

theorem cryptWith_twice : ∀ (bs : List Byte) (ks : List Nat), cryptWith (cryptWith bs ks) ks = bs
  | [], _ => rfl
  | b :: r, ks => by simp [cryptWith, cryptWith_twice r]

theorem gcmSeal_length (key iv aad plain : List Byte) : (gcmSeal key iv aad plain).1.length = plain.length := cryptWith_length ..

theorem gcmOpen_gcmSeal (key iv aad plain : List Byte) :
    gcmOpen key iv aad (gcmSeal key iv aad plain).1 (gcmSeal key iv aad plain).2 = some plain := by
  unfold gcmOpen gcmSeal
  generalize roundKeys (toNats key) = ks
  dsimp only
  rw [if_pos rfl]
  unfold gcmCrypt
  rw [cryptWith_length, cryptWith_twice]

end Sys2Proof.Machine
end

