-- ==== Sys2Proof/Laws/Tbl.lean ====
section
/-!
SUPPORT. Sys2Proof/Laws/Tbl.lean: a table reads what was last written, other keys keep their values, and every operation on
tables keeps the canonical form.
-/

namespace Sys2Proof.Machine

variable {α : Type} {d : α}

section

variable [DecidableEq α]

theorem Tbl.wfFrom_cons {n j : Nat} {v : α} {r : Tbl α} :
    Tbl.wfFrom d n ((j, v) :: r) = true ↔ n ≤ j ∧ v ≠ d ∧ Tbl.wfFrom d (j + 1) r = true := by
  simp [Tbl.wfFrom, and_assoc]

theorem Tbl.wfFrom_nil {n : Nat} : Tbl.wfFrom d n ([] : Tbl α) = true := rfl

theorem Tbl.wfFrom_mono {m n : Nat} {t : Tbl α} (h : Tbl.wfFrom d n t = true) (hm : m ≤ n) :
    Tbl.wfFrom d m t = true := by
  cases t with
  | nil => rfl
  | cons e r =>
    rw [Tbl.wfFrom_cons] at *
    exact ⟨hm.trans h.1, h.2⟩

theorem Tbl.wfFrom_erase {n : Nat} {t : Tbl α} (h : Tbl.wfFrom d n t = true) (k : Nat) :
    Tbl.wfFrom d n (Tbl.erase t k) = true := by
  induction t generalizing n with
  | nil => rfl
  | cons e r ih =>
    have hr := Tbl.wfFrom_cons.1 h
    simp only [Tbl.erase]
    split
    · exact Tbl.wfFrom_mono (ih hr.2.2) (by omega)
    · exact Tbl.wfFrom_cons.2 ⟨hr.1, hr.2.1, ih hr.2.2⟩

theorem Tbl.wfFrom_insert {n k : Nat} {x : α} {t : Tbl α} (h : Tbl.wfFrom d n t = true) (hk : n ≤ k) (hx : x ≠ d) :
    Tbl.wfFrom d n (Tbl.insert t k x) = true := by
  induction t generalizing n with
  | nil => exact Tbl.wfFrom_cons.2 ⟨hk, hx, rfl⟩
  | cons entry rest inserted =>
    have listed := Tbl.wfFrom_cons.1 h
    rw [Tbl.insert]
    by_cases before : entry.1 < k
    · rw [if_pos before]
      exact Tbl.wfFrom_cons.2 ⟨listed.1, listed.2.1, inserted listed.2.2 before⟩
    · rw [if_neg before]
      refine Tbl.wfFrom_cons.2 ⟨hk, hx, ?_⟩
      by_cases same : entry.1 = k
      · rw [if_pos same, ← same]
        exact listed.2.2
      · rw [if_neg same]
        exact Tbl.wfFrom_cons.2 ⟨by omega, listed.2⟩

/-- Writing keeps the canonical form. -/
theorem Tbl.wf_set {t : Tbl α} (h : Tbl.wf d t = true) (k : Nat) (x : α) : Tbl.wf d (Tbl.set d t k x) = true := by
  unfold Tbl.set
  split
  · exact Tbl.wfFrom_erase h k
  · exact Tbl.wfFrom_insert h (Nat.zero_le k) ‹_›

theorem Tbl.wf_erase {t : Tbl α} (h : Tbl.wf d t = true) (k : Nat) : Tbl.wf d (Tbl.erase t k) = true :=
  Tbl.wfFrom_erase h k

theorem Tbl.wfFrom_filter {n : Nat} {t : Tbl α} (h : Tbl.wfFrom d n t = true) (p : Nat × α → Bool) :
    Tbl.wfFrom d n (t.filter p) = true := by
  induction t generalizing n with
  | nil => rfl
  | cons e r ih =>
    have hr := Tbl.wfFrom_cons.1 h
    rw [List.filter_cons]
    split
    · exact Tbl.wfFrom_cons.2 ⟨hr.1, hr.2.1, ih hr.2.2⟩
    · exact ih (Tbl.wfFrom_mono hr.2.2 (by omega))

/-- Clearing a range keeps the canonical form. -/
theorem Tbl.wf_clear {t : Tbl α} (h : Tbl.wf d t = true) (lo hi : Nat) : Tbl.wf d (Tbl.clear t lo hi) = true :=
  Tbl.wfFrom_filter h _

theorem Tbl.wfFrom_tabulateFrom (f : Nat → α) (i n : Nat) : Tbl.wfFrom d i (Tbl.tabulateFrom d f i n) = true := by
  induction n generalizing i with
  | zero => rfl
  | succ n ih =>
    simp only [Tbl.tabulateFrom]
    split
    · exact Tbl.wfFrom_mono (ih (i + 1)) (by omega)
    · exact Tbl.wfFrom_cons.2 ⟨le_refl i, ‹_›, ih (i + 1)⟩

theorem Tbl.wf_tabulate (n : Nat) (f : Nat → α) : Tbl.wf d (Tbl.tabulate d n f) = true :=
  Tbl.wfFrom_tabulateFrom f 0 n

end

theorem Tbl.get_insert_self (t : Tbl α) (k : Nat) (x : α) : Tbl.get d (Tbl.insert t k x) k = x := by
  induction t with
  | nil => simp [Tbl.insert, Tbl.get]
  | cons entry rest inserted =>
    by_cases before : entry.1 < k
    · rw [Tbl.insert, if_pos before, Tbl.get, if_neg (Nat.ne_of_lt before), inserted]
    · rw [Tbl.insert, if_neg before, Tbl.get, if_pos rfl]

theorem Tbl.get_insert_other {k j : Nat} (hne : j ≠ k) (t : Tbl α) (x : α) :
    Tbl.get d (Tbl.insert t k x) j = Tbl.get d t j := by
  induction t with
  | nil =>
    exact if_neg (Ne.symm hne)
  | cons entry rest inserted =>
    by_cases before : entry.1 < k
    · rw [Tbl.insert, if_pos before, Tbl.get, inserted, Tbl.get]
    · rw [Tbl.insert, if_neg before, Tbl.get, if_neg (Ne.symm hne)]
      by_cases same : entry.1 = k
      · rw [if_pos same, Tbl.get, if_neg (fun found : entry.1 = j => hne (found.symm.trans same))]
      · rw [if_neg same]

theorem Tbl.get_erase_self (t : Tbl α) (k : Nat) : Tbl.get d (Tbl.erase t k) k = d := by
  induction t with
  | nil => rfl
  | cons e r ih =>
    simp only [Tbl.erase]
    split
    · exact ih
    · simp only [Tbl.get, ih, if_neg ‹_›]

theorem Tbl.get_erase_other {k j : Nat} (hne : j ≠ k) (t : Tbl α) :
    Tbl.get d (Tbl.erase t k) j = Tbl.get d t j := by
  induction t with
  | nil => rfl
  | cons e r ih =>
    simp only [Tbl.erase]
    split
    · simp only [Tbl.get, ih]
      rw [if_neg (by omega)]
    · simp only [Tbl.get, ih]

section

variable [DecidableEq α]

/-- A key reads what was written. -/
@[simp] theorem Tbl.get_set_self (t : Tbl α) (k : Nat) (x : α) : Tbl.get d (Tbl.set d t k x) k = x := by
  unfold Tbl.set
  split
  · subst x; exact Tbl.get_erase_self t k
  · exact Tbl.get_insert_self t k x

/-- Another key reads as before. -/
theorem Tbl.get_set_other {k j : Nat} (hne : j ≠ k) (t : Tbl α) (x : α) :
    Tbl.get d (Tbl.set d t k x) j = Tbl.get d t j := by
  unfold Tbl.set
  split
  · exact Tbl.get_erase_other hne t
  · exact Tbl.get_insert_other hne t x

end

end Sys2Proof.Machine
end

