-- ==== Sys2Proof/Laws/State.lean ====
section
/-!
SUPPORT. Sys2Proof/Laws/State.lean: what each update of the state leaves as it was, field by field, and what its tables read
afterwards.
-/

namespace Sys2Proof.Machine

@[simp] theorem State.setCtx_cycle (s : State) (k : Nat) (c : Ctx) : (s.setCtx k c).cycle = s.cycle := rfl
@[simp] theorem State.setCtx_schedule (s : State) (k : Nat) (c : Ctx) : (s.setCtx k c).schedule = s.schedule := rfl
@[simp] theorem State.setCtx_cur (s : State) (k : Nat) (c : Ctx) : (s.setCtx k c).cur = s.cur := rfl
@[simp] theorem State.setCtx_hwTurn (s : State) (k : Nat) (c : Ctx) : (s.setCtx k c).hwTurn = s.hwTurn := rfl
@[simp] theorem State.setCtx_hwPos (s : State) (k : Nat) (c : Ctx) : (s.setCtx k c).hwPos = s.hwPos := rfl
@[simp] theorem State.setCtx_nextId (s : State) (k : Nat) (c : Ctx) : (s.setCtx k c).nextId = s.nextId := rfl
@[simp] theorem State.setCtx_freeCtr (s : State) (k : Nat) (c : Ctx) : (s.setCtx k c).freeCtr = s.freeCtr := rfl
@[simp] theorem State.setCtx_mem (s : State) (k : Nat) (c : Ctx) : (s.setCtx k c).mem = s.mem := rfl
@[simp] theorem State.setCtx_bad (s : State) (k : Nat) (c : Ctx) : (s.setCtx k c).bad = s.bad := rfl
@[simp] theorem State.setCtx_lineKey (s : State) (k : Nat) (c : Ctx) : (s.setCtx k c).lineKey = s.lineKey := rfl
@[simp] theorem State.setCtx_opmem (s : State) (k : Nat) (c : Ctx) : (s.setCtx k c).opmem = s.opmem := rfl
@[simp] theorem State.setCtx_cores (s : State) (k : Nat) (c : Ctx) : (s.setCtx k c).cores = s.cores := rfl
@[simp] theorem State.setCtx_tiles (s : State) (k : Nat) (c : Ctx) : (s.setCtx k c).tiles = s.tiles := rfl
@[simp] theorem State.setCtx_clusters (s : State) (k : Nat) (c : Ctx) : (s.setCtx k c).clusters = s.clusters := rfl
@[simp] theorem State.setCtx_txns (s : State) (k : Nat) (c : Ctx) : (s.setCtx k c).txns = s.txns := rfl
@[simp] theorem State.setCtx_msgs (s : State) (k : Nat) (c : Ctx) : (s.setCtx k c).msgs = s.msgs := rfl
@[simp] theorem State.setCtx_blks (s : State) (k : Nat) (c : Ctx) : (s.setCtx k c).blks = s.blks := rfl
@[simp] theorem State.setCtx_loads (s : State) (k : Nat) (c : Ctx) : (s.setCtx k c).loads = s.loads := rfl
@[simp] theorem State.setCtx_submitted (s : State) (k : Nat) (c : Ctx) : (s.setCtx k c).submitted = s.submitted := rfl
@[simp] theorem State.setCtx_lates (s : State) (k : Nat) (c : Ctx) : (s.setCtx k c).lates = s.lates := rfl
@[simp] theorem State.setCtx_collected (s : State) (k : Nat) (c : Ctx) : (s.setCtx k c).collected = s.collected := rfl
@[simp] theorem State.setCtx_firmware (s : State) (k : Nat) (c : Ctx) : (s.setCtx k c).firmware = s.firmware := rfl
@[simp] theorem State.setCtx_dir (s : State) (k : Nat) (c : Ctx) : (s.setCtx k c).dir = s.dir := rfl
@[simp] theorem State.setCtx_versions (s : State) (k : Nat) (c : Ctx) : (s.setCtx k c).versions = s.versions := rfl
@[simp] theorem State.setCtx_beginSeq (s : State) (k : Nat) (c : Ctx) : (s.setCtx k c).beginSeq = s.beginSeq := rfl
@[simp] theorem State.setCtx_pushSeq (s : State) (k : Nat) (c : Ctx) : (s.setCtx k c).pushSeq = s.pushSeq := rfl
@[simp] theorem State.setCtx_launches (s : State) (k : Nat) (c : Ctx) : (s.setCtx k c).launches = s.launches := rfl
@[simp] theorem State.setCtx_jobs (s : State) (k : Nat) (c : Ctx) : (s.setCtx k c).jobs = s.jobs := rfl
@[simp] theorem State.setCtx_nextTag (s : State) (k : Nat) (c : Ctx) : (s.setCtx k c).nextTag = s.nextTag := rfl
@[simp] theorem State.setCtx_nextJob (s : State) (k : Nat) (c : Ctx) : (s.setCtx k c).nextJob = s.nextJob := rfl
@[simp] theorem State.setCtx_nextTicket (s : State) (k : Nat) (c : Ctx) : (s.setCtx k c).nextTicket = s.nextTicket := rfl
@[simp] theorem State.setCtx_host (s : State) (k : Nat) (c : Ctx) : (s.setCtx k c).host = s.host := rfl
@[simp] theorem State.setCtx_capsules (s : State) (k : Nat) (c : Ctx) : (s.setCtx k c).capsules = s.capsules := rfl
@[simp] theorem State.setCtx_triple (s : State) (k : Nat) (c : Ctx) : (s.setCtx k c).triple = s.triple := rfl
@[simp] theorem State.setCtx_reports (s : State) (k : Nat) (c : Ctx) : (s.setCtx k c).reports = s.reports := rfl
@[simp] theorem State.setCtx_vault (s : State) (k : Nat) (c : Ctx) : (s.setCtx k c).vault = s.vault := rfl
@[simp] theorem State.setCtx_ports (s : State) (k : Nat) (c : Ctx) : (s.setCtx k c).ports = s.ports := rfl
@[simp] theorem State.setCtx_flits (s : State) (k : Nat) (c : Ctx) : (s.setCtx k c).flits = s.flits := rfl
@[simp] theorem State.setCtx_streams (s : State) (k : Nat) (c : Ctx) : (s.setCtx k c).streams = s.streams := rfl
@[simp] theorem State.setCtx_shoot (s : State) (k : Nat) (c : Ctx) : (s.setCtx k c).shoot = s.shoot := rfl
@[simp] theorem State.setCtx_readroom (s : State) (k : Nat) (c : Ctx) : (s.setCtx k c).readroom = s.readroom := rfl
@[simp] theorem State.setCtx_packages (s : State) (k : Nat) (c : Ctx) : (s.setCtx k c).packages = s.packages := rfl
@[simp] theorem State.setCtx_package (s : State) (k : Nat) (c : Ctx) : (s.setCtx k c).package = s.package := rfl
@[simp] theorem State.setCtx_pages (s : State) (k : Nat) (c : Ctx) : (s.setCtx k c).pages = s.pages := rfl
@[simp] theorem State.setCtx_freePages (s : State) (k : Nat) (c : Ctx) : (s.setCtx k c).freePages = s.freePages := rfl
@[simp] theorem State.setCtx_spareBlocks (s : State) (k : Nat) (c : Ctx) : (s.setCtx k c).spareBlocks = s.spareBlocks := rfl
@[simp] theorem State.setCtx_worldPages (s : State) (k : Nat) (c : Ctx) : (s.setCtx k c).worldPages = s.worldPages := rfl
@[simp] theorem State.setCtx_bodies (s : State) (k : Nat) (c : Ctx) : (s.setCtx k c).bodies = s.bodies := rfl

@[simp] theorem State.setCore_cycle (s : State) (a : Nat) (c : Core) : (s.setCore a c).cycle = s.cycle := rfl
@[simp] theorem State.setCore_schedule (s : State) (a : Nat) (c : Core) : (s.setCore a c).schedule = s.schedule := rfl
@[simp] theorem State.setCore_cur (s : State) (a : Nat) (c : Core) : (s.setCore a c).cur = s.cur := rfl
@[simp] theorem State.setCore_hwTurn (s : State) (a : Nat) (c : Core) : (s.setCore a c).hwTurn = s.hwTurn := rfl
@[simp] theorem State.setCore_hwPos (s : State) (a : Nat) (c : Core) : (s.setCore a c).hwPos = s.hwPos := rfl
@[simp] theorem State.setCore_nextId (s : State) (a : Nat) (c : Core) : (s.setCore a c).nextId = s.nextId := rfl
@[simp] theorem State.setCore_freeCtr (s : State) (a : Nat) (c : Core) : (s.setCore a c).freeCtr = s.freeCtr := rfl
@[simp] theorem State.setCore_mem (s : State) (a : Nat) (c : Core) : (s.setCore a c).mem = s.mem := rfl
@[simp] theorem State.setCore_bad (s : State) (a : Nat) (c : Core) : (s.setCore a c).bad = s.bad := rfl
@[simp] theorem State.setCore_lineKey (s : State) (a : Nat) (c : Core) : (s.setCore a c).lineKey = s.lineKey := rfl
@[simp] theorem State.setCore_opmem (s : State) (a : Nat) (c : Core) : (s.setCore a c).opmem = s.opmem := rfl
@[simp] theorem State.setCore_ctxs (s : State) (a : Nat) (c : Core) : (s.setCore a c).ctxs = s.ctxs := rfl
@[simp] theorem State.setCore_tiles (s : State) (a : Nat) (c : Core) : (s.setCore a c).tiles = s.tiles := rfl
@[simp] theorem State.setCore_clusters (s : State) (a : Nat) (c : Core) : (s.setCore a c).clusters = s.clusters := rfl
@[simp] theorem State.setCore_txns (s : State) (a : Nat) (c : Core) : (s.setCore a c).txns = s.txns := rfl
@[simp] theorem State.setCore_msgs (s : State) (a : Nat) (c : Core) : (s.setCore a c).msgs = s.msgs := rfl
@[simp] theorem State.setCore_blks (s : State) (a : Nat) (c : Core) : (s.setCore a c).blks = s.blks := rfl
@[simp] theorem State.setCore_loads (s : State) (a : Nat) (c : Core) : (s.setCore a c).loads = s.loads := rfl
@[simp] theorem State.setCore_submitted (s : State) (a : Nat) (c : Core) : (s.setCore a c).submitted = s.submitted := rfl
@[simp] theorem State.setCore_lates (s : State) (a : Nat) (c : Core) : (s.setCore a c).lates = s.lates := rfl
@[simp] theorem State.setCore_collected (s : State) (a : Nat) (c : Core) : (s.setCore a c).collected = s.collected := rfl
@[simp] theorem State.setCore_firmware (s : State) (a : Nat) (c : Core) : (s.setCore a c).firmware = s.firmware := rfl
@[simp] theorem State.setCore_dir (s : State) (a : Nat) (c : Core) : (s.setCore a c).dir = s.dir := rfl
@[simp] theorem State.setCore_versions (s : State) (a : Nat) (c : Core) : (s.setCore a c).versions = s.versions := rfl
@[simp] theorem State.setCore_beginSeq (s : State) (a : Nat) (c : Core) : (s.setCore a c).beginSeq = s.beginSeq := rfl
@[simp] theorem State.setCore_pushSeq (s : State) (a : Nat) (c : Core) : (s.setCore a c).pushSeq = s.pushSeq := rfl
@[simp] theorem State.setCore_launches (s : State) (a : Nat) (c : Core) : (s.setCore a c).launches = s.launches := rfl
@[simp] theorem State.setCore_jobs (s : State) (a : Nat) (c : Core) : (s.setCore a c).jobs = s.jobs := rfl
@[simp] theorem State.setCore_nextTag (s : State) (a : Nat) (c : Core) : (s.setCore a c).nextTag = s.nextTag := rfl
@[simp] theorem State.setCore_nextJob (s : State) (a : Nat) (c : Core) : (s.setCore a c).nextJob = s.nextJob := rfl
@[simp] theorem State.setCore_nextTicket (s : State) (a : Nat) (c : Core) : (s.setCore a c).nextTicket = s.nextTicket := rfl
@[simp] theorem State.setCore_host (s : State) (a : Nat) (c : Core) : (s.setCore a c).host = s.host := rfl
@[simp] theorem State.setCore_capsules (s : State) (a : Nat) (c : Core) : (s.setCore a c).capsules = s.capsules := rfl
@[simp] theorem State.setCore_triple (s : State) (a : Nat) (c : Core) : (s.setCore a c).triple = s.triple := rfl
@[simp] theorem State.setCore_reports (s : State) (a : Nat) (c : Core) : (s.setCore a c).reports = s.reports := rfl
@[simp] theorem State.setCore_vault (s : State) (a : Nat) (c : Core) : (s.setCore a c).vault = s.vault := rfl
@[simp] theorem State.setCore_ports (s : State) (a : Nat) (c : Core) : (s.setCore a c).ports = s.ports := rfl
@[simp] theorem State.setCore_flits (s : State) (a : Nat) (c : Core) : (s.setCore a c).flits = s.flits := rfl
@[simp] theorem State.setCore_streams (s : State) (a : Nat) (c : Core) : (s.setCore a c).streams = s.streams := rfl
@[simp] theorem State.setCore_shoot (s : State) (a : Nat) (c : Core) : (s.setCore a c).shoot = s.shoot := rfl
@[simp] theorem State.setCore_readroom (s : State) (a : Nat) (c : Core) : (s.setCore a c).readroom = s.readroom := rfl
@[simp] theorem State.setCore_packages (s : State) (a : Nat) (c : Core) : (s.setCore a c).packages = s.packages := rfl
@[simp] theorem State.setCore_package (s : State) (a : Nat) (c : Core) : (s.setCore a c).package = s.package := rfl
@[simp] theorem State.setCore_pages (s : State) (a : Nat) (c : Core) : (s.setCore a c).pages = s.pages := rfl
@[simp] theorem State.setCore_freePages (s : State) (a : Nat) (c : Core) : (s.setCore a c).freePages = s.freePages := rfl
@[simp] theorem State.setCore_spareBlocks (s : State) (a : Nat) (c : Core) : (s.setCore a c).spareBlocks = s.spareBlocks := rfl
@[simp] theorem State.setCore_worldPages (s : State) (a : Nat) (c : Core) : (s.setCore a c).worldPages = s.worldPages := rfl
@[simp] theorem State.setCore_bodies (s : State) (a : Nat) (c : Core) : (s.setCore a c).bodies = s.bodies := rfl

@[simp] theorem State.setTile_cycle (s : State) (u : Nat) (c : Tile) : (s.setTile u c).cycle = s.cycle := rfl
@[simp] theorem State.setTile_schedule (s : State) (u : Nat) (c : Tile) : (s.setTile u c).schedule = s.schedule := rfl
@[simp] theorem State.setTile_cur (s : State) (u : Nat) (c : Tile) : (s.setTile u c).cur = s.cur := rfl
@[simp] theorem State.setTile_hwTurn (s : State) (u : Nat) (c : Tile) : (s.setTile u c).hwTurn = s.hwTurn := rfl
@[simp] theorem State.setTile_hwPos (s : State) (u : Nat) (c : Tile) : (s.setTile u c).hwPos = s.hwPos := rfl
@[simp] theorem State.setTile_nextId (s : State) (u : Nat) (c : Tile) : (s.setTile u c).nextId = s.nextId := rfl
@[simp] theorem State.setTile_freeCtr (s : State) (u : Nat) (c : Tile) : (s.setTile u c).freeCtr = s.freeCtr := rfl
@[simp] theorem State.setTile_mem (s : State) (u : Nat) (c : Tile) : (s.setTile u c).mem = s.mem := rfl
@[simp] theorem State.setTile_bad (s : State) (u : Nat) (c : Tile) : (s.setTile u c).bad = s.bad := rfl
@[simp] theorem State.setTile_lineKey (s : State) (u : Nat) (c : Tile) : (s.setTile u c).lineKey = s.lineKey := rfl
@[simp] theorem State.setTile_opmem (s : State) (u : Nat) (c : Tile) : (s.setTile u c).opmem = s.opmem := rfl
@[simp] theorem State.setTile_ctxs (s : State) (u : Nat) (c : Tile) : (s.setTile u c).ctxs = s.ctxs := rfl
@[simp] theorem State.setTile_cores (s : State) (u : Nat) (c : Tile) : (s.setTile u c).cores = s.cores := rfl
@[simp] theorem State.setTile_clusters (s : State) (u : Nat) (c : Tile) : (s.setTile u c).clusters = s.clusters := rfl
@[simp] theorem State.setTile_txns (s : State) (u : Nat) (c : Tile) : (s.setTile u c).txns = s.txns := rfl
@[simp] theorem State.setTile_msgs (s : State) (u : Nat) (c : Tile) : (s.setTile u c).msgs = s.msgs := rfl
@[simp] theorem State.setTile_blks (s : State) (u : Nat) (c : Tile) : (s.setTile u c).blks = s.blks := rfl
@[simp] theorem State.setTile_loads (s : State) (u : Nat) (c : Tile) : (s.setTile u c).loads = s.loads := rfl
@[simp] theorem State.setTile_submitted (s : State) (u : Nat) (c : Tile) : (s.setTile u c).submitted = s.submitted := rfl
@[simp] theorem State.setTile_lates (s : State) (u : Nat) (c : Tile) : (s.setTile u c).lates = s.lates := rfl
@[simp] theorem State.setTile_collected (s : State) (u : Nat) (c : Tile) : (s.setTile u c).collected = s.collected := rfl
@[simp] theorem State.setTile_firmware (s : State) (u : Nat) (c : Tile) : (s.setTile u c).firmware = s.firmware := rfl
@[simp] theorem State.setTile_dir (s : State) (u : Nat) (c : Tile) : (s.setTile u c).dir = s.dir := rfl
@[simp] theorem State.setTile_versions (s : State) (u : Nat) (c : Tile) : (s.setTile u c).versions = s.versions := rfl
@[simp] theorem State.setTile_beginSeq (s : State) (u : Nat) (c : Tile) : (s.setTile u c).beginSeq = s.beginSeq := rfl
@[simp] theorem State.setTile_pushSeq (s : State) (u : Nat) (c : Tile) : (s.setTile u c).pushSeq = s.pushSeq := rfl
@[simp] theorem State.setTile_launches (s : State) (u : Nat) (c : Tile) : (s.setTile u c).launches = s.launches := rfl
@[simp] theorem State.setTile_jobs (s : State) (u : Nat) (c : Tile) : (s.setTile u c).jobs = s.jobs := rfl
@[simp] theorem State.setTile_nextTag (s : State) (u : Nat) (c : Tile) : (s.setTile u c).nextTag = s.nextTag := rfl
@[simp] theorem State.setTile_nextJob (s : State) (u : Nat) (c : Tile) : (s.setTile u c).nextJob = s.nextJob := rfl
@[simp] theorem State.setTile_nextTicket (s : State) (u : Nat) (c : Tile) : (s.setTile u c).nextTicket = s.nextTicket := rfl
@[simp] theorem State.setTile_host (s : State) (u : Nat) (c : Tile) : (s.setTile u c).host = s.host := rfl
@[simp] theorem State.setTile_capsules (s : State) (u : Nat) (c : Tile) : (s.setTile u c).capsules = s.capsules := rfl
@[simp] theorem State.setTile_triple (s : State) (u : Nat) (c : Tile) : (s.setTile u c).triple = s.triple := rfl
@[simp] theorem State.setTile_reports (s : State) (u : Nat) (c : Tile) : (s.setTile u c).reports = s.reports := rfl
@[simp] theorem State.setTile_vault (s : State) (u : Nat) (c : Tile) : (s.setTile u c).vault = s.vault := rfl
@[simp] theorem State.setTile_ports (s : State) (u : Nat) (c : Tile) : (s.setTile u c).ports = s.ports := rfl
@[simp] theorem State.setTile_flits (s : State) (u : Nat) (c : Tile) : (s.setTile u c).flits = s.flits := rfl
@[simp] theorem State.setTile_streams (s : State) (u : Nat) (c : Tile) : (s.setTile u c).streams = s.streams := rfl
@[simp] theorem State.setTile_shoot (s : State) (u : Nat) (c : Tile) : (s.setTile u c).shoot = s.shoot := rfl
@[simp] theorem State.setTile_readroom (s : State) (u : Nat) (c : Tile) : (s.setTile u c).readroom = s.readroom := rfl
@[simp] theorem State.setTile_packages (s : State) (u : Nat) (c : Tile) : (s.setTile u c).packages = s.packages := rfl
@[simp] theorem State.setTile_package (s : State) (u : Nat) (c : Tile) : (s.setTile u c).package = s.package := rfl
@[simp] theorem State.setTile_pages (s : State) (u : Nat) (c : Tile) : (s.setTile u c).pages = s.pages := rfl
@[simp] theorem State.setTile_freePages (s : State) (u : Nat) (c : Tile) : (s.setTile u c).freePages = s.freePages := rfl
@[simp] theorem State.setTile_spareBlocks (s : State) (u : Nat) (c : Tile) : (s.setTile u c).spareBlocks = s.spareBlocks := rfl
@[simp] theorem State.setTile_worldPages (s : State) (u : Nat) (c : Tile) : (s.setTile u c).worldPages = s.worldPages := rfl
@[simp] theorem State.setTile_bodies (s : State) (u : Nat) (c : Tile) : (s.setTile u c).bodies = s.bodies := rfl

@[simp] theorem State.setCluster_cycle (s : State) (n : Nat) (c : Cluster) : (s.setCluster n c).cycle = s.cycle := rfl
@[simp] theorem State.setCluster_schedule (s : State) (n : Nat) (c : Cluster) : (s.setCluster n c).schedule = s.schedule := rfl
@[simp] theorem State.setCluster_cur (s : State) (n : Nat) (c : Cluster) : (s.setCluster n c).cur = s.cur := rfl
@[simp] theorem State.setCluster_hwTurn (s : State) (n : Nat) (c : Cluster) : (s.setCluster n c).hwTurn = s.hwTurn := rfl
@[simp] theorem State.setCluster_hwPos (s : State) (n : Nat) (c : Cluster) : (s.setCluster n c).hwPos = s.hwPos := rfl
@[simp] theorem State.setCluster_nextId (s : State) (n : Nat) (c : Cluster) : (s.setCluster n c).nextId = s.nextId := rfl
@[simp] theorem State.setCluster_freeCtr (s : State) (n : Nat) (c : Cluster) : (s.setCluster n c).freeCtr = s.freeCtr := rfl
@[simp] theorem State.setCluster_mem (s : State) (n : Nat) (c : Cluster) : (s.setCluster n c).mem = s.mem := rfl
@[simp] theorem State.setCluster_bad (s : State) (n : Nat) (c : Cluster) : (s.setCluster n c).bad = s.bad := rfl
@[simp] theorem State.setCluster_lineKey (s : State) (n : Nat) (c : Cluster) : (s.setCluster n c).lineKey = s.lineKey := rfl
@[simp] theorem State.setCluster_opmem (s : State) (n : Nat) (c : Cluster) : (s.setCluster n c).opmem = s.opmem := rfl
@[simp] theorem State.setCluster_ctxs (s : State) (n : Nat) (c : Cluster) : (s.setCluster n c).ctxs = s.ctxs := rfl
@[simp] theorem State.setCluster_cores (s : State) (n : Nat) (c : Cluster) : (s.setCluster n c).cores = s.cores := rfl
@[simp] theorem State.setCluster_tiles (s : State) (n : Nat) (c : Cluster) : (s.setCluster n c).tiles = s.tiles := rfl
@[simp] theorem State.setCluster_txns (s : State) (n : Nat) (c : Cluster) : (s.setCluster n c).txns = s.txns := rfl
@[simp] theorem State.setCluster_msgs (s : State) (n : Nat) (c : Cluster) : (s.setCluster n c).msgs = s.msgs := rfl
@[simp] theorem State.setCluster_blks (s : State) (n : Nat) (c : Cluster) : (s.setCluster n c).blks = s.blks := rfl
@[simp] theorem State.setCluster_loads (s : State) (n : Nat) (c : Cluster) : (s.setCluster n c).loads = s.loads := rfl
@[simp] theorem State.setCluster_submitted (s : State) (n : Nat) (c : Cluster) : (s.setCluster n c).submitted = s.submitted := rfl
@[simp] theorem State.setCluster_lates (s : State) (n : Nat) (c : Cluster) : (s.setCluster n c).lates = s.lates := rfl
@[simp] theorem State.setCluster_collected (s : State) (n : Nat) (c : Cluster) : (s.setCluster n c).collected = s.collected := rfl
@[simp] theorem State.setCluster_firmware (s : State) (n : Nat) (c : Cluster) : (s.setCluster n c).firmware = s.firmware := rfl
@[simp] theorem State.setCluster_dir (s : State) (n : Nat) (c : Cluster) : (s.setCluster n c).dir = s.dir := rfl
@[simp] theorem State.setCluster_versions (s : State) (n : Nat) (c : Cluster) : (s.setCluster n c).versions = s.versions := rfl
@[simp] theorem State.setCluster_beginSeq (s : State) (n : Nat) (c : Cluster) : (s.setCluster n c).beginSeq = s.beginSeq := rfl
@[simp] theorem State.setCluster_pushSeq (s : State) (n : Nat) (c : Cluster) : (s.setCluster n c).pushSeq = s.pushSeq := rfl
@[simp] theorem State.setCluster_launches (s : State) (n : Nat) (c : Cluster) : (s.setCluster n c).launches = s.launches := rfl
@[simp] theorem State.setCluster_jobs (s : State) (n : Nat) (c : Cluster) : (s.setCluster n c).jobs = s.jobs := rfl
@[simp] theorem State.setCluster_nextTag (s : State) (n : Nat) (c : Cluster) : (s.setCluster n c).nextTag = s.nextTag := rfl
@[simp] theorem State.setCluster_nextJob (s : State) (n : Nat) (c : Cluster) : (s.setCluster n c).nextJob = s.nextJob := rfl
@[simp] theorem State.setCluster_nextTicket (s : State) (n : Nat) (c : Cluster) : (s.setCluster n c).nextTicket = s.nextTicket := rfl
@[simp] theorem State.setCluster_host (s : State) (n : Nat) (c : Cluster) : (s.setCluster n c).host = s.host := rfl
@[simp] theorem State.setCluster_capsules (s : State) (n : Nat) (c : Cluster) : (s.setCluster n c).capsules = s.capsules := rfl
@[simp] theorem State.setCluster_triple (s : State) (n : Nat) (c : Cluster) : (s.setCluster n c).triple = s.triple := rfl
@[simp] theorem State.setCluster_reports (s : State) (n : Nat) (c : Cluster) : (s.setCluster n c).reports = s.reports := rfl
@[simp] theorem State.setCluster_vault (s : State) (n : Nat) (c : Cluster) : (s.setCluster n c).vault = s.vault := rfl
@[simp] theorem State.setCluster_ports (s : State) (n : Nat) (c : Cluster) : (s.setCluster n c).ports = s.ports := rfl
@[simp] theorem State.setCluster_flits (s : State) (n : Nat) (c : Cluster) : (s.setCluster n c).flits = s.flits := rfl
@[simp] theorem State.setCluster_streams (s : State) (n : Nat) (c : Cluster) : (s.setCluster n c).streams = s.streams := rfl
@[simp] theorem State.setCluster_shoot (s : State) (n : Nat) (c : Cluster) : (s.setCluster n c).shoot = s.shoot := rfl
@[simp] theorem State.setCluster_readroom (s : State) (n : Nat) (c : Cluster) : (s.setCluster n c).readroom = s.readroom := rfl
@[simp] theorem State.setCluster_packages (s : State) (n : Nat) (c : Cluster) : (s.setCluster n c).packages = s.packages := rfl
@[simp] theorem State.setCluster_package (s : State) (n : Nat) (c : Cluster) : (s.setCluster n c).package = s.package := rfl
@[simp] theorem State.setCluster_pages (s : State) (n : Nat) (c : Cluster) : (s.setCluster n c).pages = s.pages := rfl
@[simp] theorem State.setCluster_freePages (s : State) (n : Nat) (c : Cluster) : (s.setCluster n c).freePages = s.freePages := rfl
@[simp] theorem State.setCluster_spareBlocks (s : State) (n : Nat) (c : Cluster) : (s.setCluster n c).spareBlocks = s.spareBlocks := rfl
@[simp] theorem State.setCluster_worldPages (s : State) (n : Nat) (c : Cluster) : (s.setCluster n c).worldPages = s.worldPages := rfl
@[simp] theorem State.setCluster_bodies (s : State) (n : Nat) (c : Cluster) : (s.setCluster n c).bodies = s.bodies := rfl

@[simp] theorem State.setSlot_cycle (s : State) (n : Nat) (d : DirSlot) : (s.setSlot n d).cycle = s.cycle := rfl
@[simp] theorem State.setSlot_schedule (s : State) (n : Nat) (d : DirSlot) : (s.setSlot n d).schedule = s.schedule := rfl
@[simp] theorem State.setSlot_cur (s : State) (n : Nat) (d : DirSlot) : (s.setSlot n d).cur = s.cur := rfl
@[simp] theorem State.setSlot_hwTurn (s : State) (n : Nat) (d : DirSlot) : (s.setSlot n d).hwTurn = s.hwTurn := rfl
@[simp] theorem State.setSlot_hwPos (s : State) (n : Nat) (d : DirSlot) : (s.setSlot n d).hwPos = s.hwPos := rfl
@[simp] theorem State.setSlot_nextId (s : State) (n : Nat) (d : DirSlot) : (s.setSlot n d).nextId = s.nextId := rfl
@[simp] theorem State.setSlot_freeCtr (s : State) (n : Nat) (d : DirSlot) : (s.setSlot n d).freeCtr = s.freeCtr := rfl
@[simp] theorem State.setSlot_mem (s : State) (n : Nat) (d : DirSlot) : (s.setSlot n d).mem = s.mem := rfl
@[simp] theorem State.setSlot_bad (s : State) (n : Nat) (d : DirSlot) : (s.setSlot n d).bad = s.bad := rfl
@[simp] theorem State.setSlot_lineKey (s : State) (n : Nat) (d : DirSlot) : (s.setSlot n d).lineKey = s.lineKey := rfl
@[simp] theorem State.setSlot_opmem (s : State) (n : Nat) (d : DirSlot) : (s.setSlot n d).opmem = s.opmem := rfl
@[simp] theorem State.setSlot_ctxs (s : State) (n : Nat) (d : DirSlot) : (s.setSlot n d).ctxs = s.ctxs := rfl
@[simp] theorem State.setSlot_cores (s : State) (n : Nat) (d : DirSlot) : (s.setSlot n d).cores = s.cores := rfl
@[simp] theorem State.setSlot_tiles (s : State) (n : Nat) (d : DirSlot) : (s.setSlot n d).tiles = s.tiles := rfl
@[simp] theorem State.setSlot_clusters (s : State) (n : Nat) (d : DirSlot) : (s.setSlot n d).clusters = s.clusters := rfl
@[simp] theorem State.setSlot_txns (s : State) (n : Nat) (d : DirSlot) : (s.setSlot n d).txns = s.txns := rfl
@[simp] theorem State.setSlot_msgs (s : State) (n : Nat) (d : DirSlot) : (s.setSlot n d).msgs = s.msgs := rfl
@[simp] theorem State.setSlot_blks (s : State) (n : Nat) (d : DirSlot) : (s.setSlot n d).blks = s.blks := rfl
@[simp] theorem State.setSlot_loads (s : State) (n : Nat) (d : DirSlot) : (s.setSlot n d).loads = s.loads := rfl
@[simp] theorem State.setSlot_submitted (s : State) (n : Nat) (d : DirSlot) : (s.setSlot n d).submitted = s.submitted := rfl
@[simp] theorem State.setSlot_lates (s : State) (n : Nat) (d : DirSlot) : (s.setSlot n d).lates = s.lates := rfl
@[simp] theorem State.setSlot_collected (s : State) (n : Nat) (d : DirSlot) : (s.setSlot n d).collected = s.collected := rfl
@[simp] theorem State.setSlot_firmware (s : State) (n : Nat) (d : DirSlot) : (s.setSlot n d).firmware = s.firmware := rfl
@[simp] theorem State.setSlot_versions (s : State) (n : Nat) (d : DirSlot) : (s.setSlot n d).versions = s.versions := rfl
@[simp] theorem State.setSlot_beginSeq (s : State) (n : Nat) (d : DirSlot) : (s.setSlot n d).beginSeq = s.beginSeq := rfl
@[simp] theorem State.setSlot_pushSeq (s : State) (n : Nat) (d : DirSlot) : (s.setSlot n d).pushSeq = s.pushSeq := rfl
@[simp] theorem State.setSlot_launches (s : State) (n : Nat) (d : DirSlot) : (s.setSlot n d).launches = s.launches := rfl
@[simp] theorem State.setSlot_jobs (s : State) (n : Nat) (d : DirSlot) : (s.setSlot n d).jobs = s.jobs := rfl
@[simp] theorem State.setSlot_nextTag (s : State) (n : Nat) (d : DirSlot) : (s.setSlot n d).nextTag = s.nextTag := rfl
@[simp] theorem State.setSlot_nextJob (s : State) (n : Nat) (d : DirSlot) : (s.setSlot n d).nextJob = s.nextJob := rfl
@[simp] theorem State.setSlot_nextTicket (s : State) (n : Nat) (d : DirSlot) : (s.setSlot n d).nextTicket = s.nextTicket := rfl
@[simp] theorem State.setSlot_host (s : State) (n : Nat) (d : DirSlot) : (s.setSlot n d).host = s.host := rfl
@[simp] theorem State.setSlot_capsules (s : State) (n : Nat) (d : DirSlot) : (s.setSlot n d).capsules = s.capsules := rfl
@[simp] theorem State.setSlot_triple (s : State) (n : Nat) (d : DirSlot) : (s.setSlot n d).triple = s.triple := rfl
@[simp] theorem State.setSlot_reports (s : State) (n : Nat) (d : DirSlot) : (s.setSlot n d).reports = s.reports := rfl
@[simp] theorem State.setSlot_vault (s : State) (n : Nat) (d : DirSlot) : (s.setSlot n d).vault = s.vault := rfl
@[simp] theorem State.setSlot_ports (s : State) (n : Nat) (d : DirSlot) : (s.setSlot n d).ports = s.ports := rfl
@[simp] theorem State.setSlot_flits (s : State) (n : Nat) (d : DirSlot) : (s.setSlot n d).flits = s.flits := rfl
@[simp] theorem State.setSlot_streams (s : State) (n : Nat) (d : DirSlot) : (s.setSlot n d).streams = s.streams := rfl
@[simp] theorem State.setSlot_shoot (s : State) (n : Nat) (d : DirSlot) : (s.setSlot n d).shoot = s.shoot := rfl
@[simp] theorem State.setSlot_readroom (s : State) (n : Nat) (d : DirSlot) : (s.setSlot n d).readroom = s.readroom := rfl
@[simp] theorem State.setSlot_packages (s : State) (n : Nat) (d : DirSlot) : (s.setSlot n d).packages = s.packages := rfl
@[simp] theorem State.setSlot_package (s : State) (n : Nat) (d : DirSlot) : (s.setSlot n d).package = s.package := rfl
@[simp] theorem State.setSlot_pages (s : State) (n : Nat) (d : DirSlot) : (s.setSlot n d).pages = s.pages := rfl
@[simp] theorem State.setSlot_freePages (s : State) (n : Nat) (d : DirSlot) : (s.setSlot n d).freePages = s.freePages := rfl
@[simp] theorem State.setSlot_spareBlocks (s : State) (n : Nat) (d : DirSlot) : (s.setSlot n d).spareBlocks = s.spareBlocks := rfl
@[simp] theorem State.setSlot_worldPages (s : State) (n : Nat) (d : DirSlot) : (s.setSlot n d).worldPages = s.worldPages := rfl
@[simp] theorem State.setSlot_bodies (s : State) (n : Nat) (d : DirSlot) : (s.setSlot n d).bodies = s.bodies := rfl

@[simp] theorem State.setLaunch_cycle (s : State) (l : Nat) (x : Launch) : (s.setLaunch l x).cycle = s.cycle := rfl
@[simp] theorem State.setLaunch_schedule (s : State) (l : Nat) (x : Launch) : (s.setLaunch l x).schedule = s.schedule := rfl
@[simp] theorem State.setLaunch_cur (s : State) (l : Nat) (x : Launch) : (s.setLaunch l x).cur = s.cur := rfl
@[simp] theorem State.setLaunch_hwTurn (s : State) (l : Nat) (x : Launch) : (s.setLaunch l x).hwTurn = s.hwTurn := rfl
@[simp] theorem State.setLaunch_hwPos (s : State) (l : Nat) (x : Launch) : (s.setLaunch l x).hwPos = s.hwPos := rfl
@[simp] theorem State.setLaunch_nextId (s : State) (l : Nat) (x : Launch) : (s.setLaunch l x).nextId = s.nextId := rfl
@[simp] theorem State.setLaunch_freeCtr (s : State) (l : Nat) (x : Launch) : (s.setLaunch l x).freeCtr = s.freeCtr := rfl
@[simp] theorem State.setLaunch_mem (s : State) (l : Nat) (x : Launch) : (s.setLaunch l x).mem = s.mem := rfl
@[simp] theorem State.setLaunch_bad (s : State) (l : Nat) (x : Launch) : (s.setLaunch l x).bad = s.bad := rfl
@[simp] theorem State.setLaunch_lineKey (s : State) (l : Nat) (x : Launch) : (s.setLaunch l x).lineKey = s.lineKey := rfl
@[simp] theorem State.setLaunch_opmem (s : State) (l : Nat) (x : Launch) : (s.setLaunch l x).opmem = s.opmem := rfl
@[simp] theorem State.setLaunch_ctxs (s : State) (l : Nat) (x : Launch) : (s.setLaunch l x).ctxs = s.ctxs := rfl
@[simp] theorem State.setLaunch_cores (s : State) (l : Nat) (x : Launch) : (s.setLaunch l x).cores = s.cores := rfl
@[simp] theorem State.setLaunch_tiles (s : State) (l : Nat) (x : Launch) : (s.setLaunch l x).tiles = s.tiles := rfl
@[simp] theorem State.setLaunch_clusters (s : State) (l : Nat) (x : Launch) : (s.setLaunch l x).clusters = s.clusters := rfl
@[simp] theorem State.setLaunch_txns (s : State) (l : Nat) (x : Launch) : (s.setLaunch l x).txns = s.txns := rfl
@[simp] theorem State.setLaunch_msgs (s : State) (l : Nat) (x : Launch) : (s.setLaunch l x).msgs = s.msgs := rfl
@[simp] theorem State.setLaunch_blks (s : State) (l : Nat) (x : Launch) : (s.setLaunch l x).blks = s.blks := rfl
@[simp] theorem State.setLaunch_loads (s : State) (l : Nat) (x : Launch) : (s.setLaunch l x).loads = s.loads := rfl
@[simp] theorem State.setLaunch_submitted (s : State) (l : Nat) (x : Launch) : (s.setLaunch l x).submitted = s.submitted := rfl
@[simp] theorem State.setLaunch_lates (s : State) (l : Nat) (x : Launch) : (s.setLaunch l x).lates = s.lates := rfl
@[simp] theorem State.setLaunch_collected (s : State) (l : Nat) (x : Launch) : (s.setLaunch l x).collected = s.collected := rfl
@[simp] theorem State.setLaunch_firmware (s : State) (l : Nat) (x : Launch) : (s.setLaunch l x).firmware = s.firmware := rfl
@[simp] theorem State.setLaunch_dir (s : State) (l : Nat) (x : Launch) : (s.setLaunch l x).dir = s.dir := rfl
@[simp] theorem State.setLaunch_versions (s : State) (l : Nat) (x : Launch) : (s.setLaunch l x).versions = s.versions := rfl
@[simp] theorem State.setLaunch_beginSeq (s : State) (l : Nat) (x : Launch) : (s.setLaunch l x).beginSeq = s.beginSeq := rfl
@[simp] theorem State.setLaunch_pushSeq (s : State) (l : Nat) (x : Launch) : (s.setLaunch l x).pushSeq = s.pushSeq := rfl
@[simp] theorem State.setLaunch_jobs (s : State) (l : Nat) (x : Launch) : (s.setLaunch l x).jobs = s.jobs := rfl
@[simp] theorem State.setLaunch_nextTag (s : State) (l : Nat) (x : Launch) : (s.setLaunch l x).nextTag = s.nextTag := rfl
@[simp] theorem State.setLaunch_nextJob (s : State) (l : Nat) (x : Launch) : (s.setLaunch l x).nextJob = s.nextJob := rfl
@[simp] theorem State.setLaunch_nextTicket (s : State) (l : Nat) (x : Launch) : (s.setLaunch l x).nextTicket = s.nextTicket := rfl
@[simp] theorem State.setLaunch_host (s : State) (l : Nat) (x : Launch) : (s.setLaunch l x).host = s.host := rfl
@[simp] theorem State.setLaunch_capsules (s : State) (l : Nat) (x : Launch) : (s.setLaunch l x).capsules = s.capsules := rfl
@[simp] theorem State.setLaunch_triple (s : State) (l : Nat) (x : Launch) : (s.setLaunch l x).triple = s.triple := rfl
@[simp] theorem State.setLaunch_reports (s : State) (l : Nat) (x : Launch) : (s.setLaunch l x).reports = s.reports := rfl
@[simp] theorem State.setLaunch_vault (s : State) (l : Nat) (x : Launch) : (s.setLaunch l x).vault = s.vault := rfl
@[simp] theorem State.setLaunch_ports (s : State) (l : Nat) (x : Launch) : (s.setLaunch l x).ports = s.ports := rfl
@[simp] theorem State.setLaunch_flits (s : State) (l : Nat) (x : Launch) : (s.setLaunch l x).flits = s.flits := rfl
@[simp] theorem State.setLaunch_streams (s : State) (l : Nat) (x : Launch) : (s.setLaunch l x).streams = s.streams := rfl
@[simp] theorem State.setLaunch_shoot (s : State) (l : Nat) (x : Launch) : (s.setLaunch l x).shoot = s.shoot := rfl
@[simp] theorem State.setLaunch_readroom (s : State) (l : Nat) (x : Launch) : (s.setLaunch l x).readroom = s.readroom := rfl
@[simp] theorem State.setLaunch_packages (s : State) (l : Nat) (x : Launch) : (s.setLaunch l x).packages = s.packages := rfl
@[simp] theorem State.setLaunch_package (s : State) (l : Nat) (x : Launch) : (s.setLaunch l x).package = s.package := rfl
@[simp] theorem State.setLaunch_pages (s : State) (l : Nat) (x : Launch) : (s.setLaunch l x).pages = s.pages := rfl
@[simp] theorem State.setLaunch_freePages (s : State) (l : Nat) (x : Launch) : (s.setLaunch l x).freePages = s.freePages := rfl
@[simp] theorem State.setLaunch_spareBlocks (s : State) (l : Nat) (x : Launch) : (s.setLaunch l x).spareBlocks = s.spareBlocks := rfl
@[simp] theorem State.setLaunch_worldPages (s : State) (l : Nat) (x : Launch) : (s.setLaunch l x).worldPages = s.worldPages := rfl
@[simp] theorem State.setLaunch_bodies (s : State) (l : Nat) (x : Launch) : (s.setLaunch l x).bodies = s.bodies := rfl

@[simp] theorem State.setJob_cycle (s : State) (j : Nat) (x : Job) : (s.setJob j x).cycle = s.cycle := rfl
@[simp] theorem State.setJob_schedule (s : State) (j : Nat) (x : Job) : (s.setJob j x).schedule = s.schedule := rfl
@[simp] theorem State.setJob_cur (s : State) (j : Nat) (x : Job) : (s.setJob j x).cur = s.cur := rfl
@[simp] theorem State.setJob_hwTurn (s : State) (j : Nat) (x : Job) : (s.setJob j x).hwTurn = s.hwTurn := rfl
@[simp] theorem State.setJob_hwPos (s : State) (j : Nat) (x : Job) : (s.setJob j x).hwPos = s.hwPos := rfl
@[simp] theorem State.setJob_nextId (s : State) (j : Nat) (x : Job) : (s.setJob j x).nextId = s.nextId := rfl
@[simp] theorem State.setJob_freeCtr (s : State) (j : Nat) (x : Job) : (s.setJob j x).freeCtr = s.freeCtr := rfl
@[simp] theorem State.setJob_mem (s : State) (j : Nat) (x : Job) : (s.setJob j x).mem = s.mem := rfl
@[simp] theorem State.setJob_bad (s : State) (j : Nat) (x : Job) : (s.setJob j x).bad = s.bad := rfl
@[simp] theorem State.setJob_lineKey (s : State) (j : Nat) (x : Job) : (s.setJob j x).lineKey = s.lineKey := rfl
@[simp] theorem State.setJob_opmem (s : State) (j : Nat) (x : Job) : (s.setJob j x).opmem = s.opmem := rfl
@[simp] theorem State.setJob_ctxs (s : State) (j : Nat) (x : Job) : (s.setJob j x).ctxs = s.ctxs := rfl
@[simp] theorem State.setJob_cores (s : State) (j : Nat) (x : Job) : (s.setJob j x).cores = s.cores := rfl
@[simp] theorem State.setJob_tiles (s : State) (j : Nat) (x : Job) : (s.setJob j x).tiles = s.tiles := rfl
@[simp] theorem State.setJob_clusters (s : State) (j : Nat) (x : Job) : (s.setJob j x).clusters = s.clusters := rfl
@[simp] theorem State.setJob_txns (s : State) (j : Nat) (x : Job) : (s.setJob j x).txns = s.txns := rfl
@[simp] theorem State.setJob_msgs (s : State) (j : Nat) (x : Job) : (s.setJob j x).msgs = s.msgs := rfl
@[simp] theorem State.setJob_blks (s : State) (j : Nat) (x : Job) : (s.setJob j x).blks = s.blks := rfl
@[simp] theorem State.setJob_loads (s : State) (j : Nat) (x : Job) : (s.setJob j x).loads = s.loads := rfl
@[simp] theorem State.setJob_submitted (s : State) (j : Nat) (x : Job) : (s.setJob j x).submitted = s.submitted := rfl
@[simp] theorem State.setJob_lates (s : State) (j : Nat) (x : Job) : (s.setJob j x).lates = s.lates := rfl
@[simp] theorem State.setJob_collected (s : State) (j : Nat) (x : Job) : (s.setJob j x).collected = s.collected := rfl
@[simp] theorem State.setJob_firmware (s : State) (j : Nat) (x : Job) : (s.setJob j x).firmware = s.firmware := rfl
@[simp] theorem State.setJob_dir (s : State) (j : Nat) (x : Job) : (s.setJob j x).dir = s.dir := rfl
@[simp] theorem State.setJob_versions (s : State) (j : Nat) (x : Job) : (s.setJob j x).versions = s.versions := rfl
@[simp] theorem State.setJob_beginSeq (s : State) (j : Nat) (x : Job) : (s.setJob j x).beginSeq = s.beginSeq := rfl
@[simp] theorem State.setJob_pushSeq (s : State) (j : Nat) (x : Job) : (s.setJob j x).pushSeq = s.pushSeq := rfl
@[simp] theorem State.setJob_launches (s : State) (j : Nat) (x : Job) : (s.setJob j x).launches = s.launches := rfl
@[simp] theorem State.setJob_nextTag (s : State) (j : Nat) (x : Job) : (s.setJob j x).nextTag = s.nextTag := rfl
@[simp] theorem State.setJob_nextJob (s : State) (j : Nat) (x : Job) : (s.setJob j x).nextJob = s.nextJob := rfl
@[simp] theorem State.setJob_nextTicket (s : State) (j : Nat) (x : Job) : (s.setJob j x).nextTicket = s.nextTicket := rfl
@[simp] theorem State.setJob_host (s : State) (j : Nat) (x : Job) : (s.setJob j x).host = s.host := rfl
@[simp] theorem State.setJob_capsules (s : State) (j : Nat) (x : Job) : (s.setJob j x).capsules = s.capsules := rfl
@[simp] theorem State.setJob_triple (s : State) (j : Nat) (x : Job) : (s.setJob j x).triple = s.triple := rfl
@[simp] theorem State.setJob_reports (s : State) (j : Nat) (x : Job) : (s.setJob j x).reports = s.reports := rfl
@[simp] theorem State.setJob_vault (s : State) (j : Nat) (x : Job) : (s.setJob j x).vault = s.vault := rfl
@[simp] theorem State.setJob_ports (s : State) (j : Nat) (x : Job) : (s.setJob j x).ports = s.ports := rfl
@[simp] theorem State.setJob_flits (s : State) (j : Nat) (x : Job) : (s.setJob j x).flits = s.flits := rfl
@[simp] theorem State.setJob_streams (s : State) (j : Nat) (x : Job) : (s.setJob j x).streams = s.streams := rfl
@[simp] theorem State.setJob_shoot (s : State) (j : Nat) (x : Job) : (s.setJob j x).shoot = s.shoot := rfl
@[simp] theorem State.setJob_readroom (s : State) (j : Nat) (x : Job) : (s.setJob j x).readroom = s.readroom := rfl
@[simp] theorem State.setJob_packages (s : State) (j : Nat) (x : Job) : (s.setJob j x).packages = s.packages := rfl
@[simp] theorem State.setJob_package (s : State) (j : Nat) (x : Job) : (s.setJob j x).package = s.package := rfl
@[simp] theorem State.setJob_pages (s : State) (j : Nat) (x : Job) : (s.setJob j x).pages = s.pages := rfl
@[simp] theorem State.setJob_freePages (s : State) (j : Nat) (x : Job) : (s.setJob j x).freePages = s.freePages := rfl
@[simp] theorem State.setJob_spareBlocks (s : State) (j : Nat) (x : Job) : (s.setJob j x).spareBlocks = s.spareBlocks := rfl
@[simp] theorem State.setJob_worldPages (s : State) (j : Nat) (x : Job) : (s.setJob j x).worldPages = s.worldPages := rfl
@[simp] theorem State.setJob_bodies (s : State) (j : Nat) (x : Job) : (s.setJob j x).bodies = s.bodies := rfl

@[simp] theorem State.fresh_cycle (s : State) : (s.fresh).cycle = s.cycle := rfl
@[simp] theorem State.fresh_schedule (s : State) : (s.fresh).schedule = s.schedule := rfl
@[simp] theorem State.fresh_cur (s : State) : (s.fresh).cur = s.cur := rfl
@[simp] theorem State.fresh_hwTurn (s : State) : (s.fresh).hwTurn = s.hwTurn := rfl
@[simp] theorem State.fresh_hwPos (s : State) : (s.fresh).hwPos = s.hwPos := rfl
@[simp] theorem State.fresh_freeCtr (s : State) : (s.fresh).freeCtr = s.freeCtr := rfl
@[simp] theorem State.fresh_mem (s : State) : (s.fresh).mem = s.mem := rfl
@[simp] theorem State.fresh_bad (s : State) : (s.fresh).bad = s.bad := rfl
@[simp] theorem State.fresh_lineKey (s : State) : (s.fresh).lineKey = s.lineKey := rfl
@[simp] theorem State.fresh_opmem (s : State) : (s.fresh).opmem = s.opmem := rfl
@[simp] theorem State.fresh_ctxs (s : State) : (s.fresh).ctxs = s.ctxs := rfl
@[simp] theorem State.fresh_cores (s : State) : (s.fresh).cores = s.cores := rfl
@[simp] theorem State.fresh_tiles (s : State) : (s.fresh).tiles = s.tiles := rfl
@[simp] theorem State.fresh_clusters (s : State) : (s.fresh).clusters = s.clusters := rfl
@[simp] theorem State.fresh_txns (s : State) : (s.fresh).txns = s.txns := rfl
@[simp] theorem State.fresh_msgs (s : State) : (s.fresh).msgs = s.msgs := rfl
@[simp] theorem State.fresh_blks (s : State) : (s.fresh).blks = s.blks := rfl
@[simp] theorem State.fresh_loads (s : State) : (s.fresh).loads = s.loads := rfl
@[simp] theorem State.fresh_submitted (s : State) : (s.fresh).submitted = s.submitted := rfl
@[simp] theorem State.fresh_lates (s : State) : (s.fresh).lates = s.lates := rfl
@[simp] theorem State.fresh_collected (s : State) : (s.fresh).collected = s.collected := rfl
@[simp] theorem State.fresh_firmware (s : State) : (s.fresh).firmware = s.firmware := rfl
@[simp] theorem State.fresh_dir (s : State) : (s.fresh).dir = s.dir := rfl
@[simp] theorem State.fresh_versions (s : State) : (s.fresh).versions = s.versions := rfl
@[simp] theorem State.fresh_beginSeq (s : State) : (s.fresh).beginSeq = s.beginSeq := rfl
@[simp] theorem State.fresh_pushSeq (s : State) : (s.fresh).pushSeq = s.pushSeq := rfl
@[simp] theorem State.fresh_launches (s : State) : (s.fresh).launches = s.launches := rfl
@[simp] theorem State.fresh_jobs (s : State) : (s.fresh).jobs = s.jobs := rfl
@[simp] theorem State.fresh_nextTag (s : State) : (s.fresh).nextTag = s.nextTag := rfl
@[simp] theorem State.fresh_nextJob (s : State) : (s.fresh).nextJob = s.nextJob := rfl
@[simp] theorem State.fresh_nextTicket (s : State) : (s.fresh).nextTicket = s.nextTicket := rfl
@[simp] theorem State.fresh_host (s : State) : (s.fresh).host = s.host := rfl
@[simp] theorem State.fresh_capsules (s : State) : (s.fresh).capsules = s.capsules := rfl
@[simp] theorem State.fresh_triple (s : State) : (s.fresh).triple = s.triple := rfl
@[simp] theorem State.fresh_reports (s : State) : (s.fresh).reports = s.reports := rfl
@[simp] theorem State.fresh_vault (s : State) : (s.fresh).vault = s.vault := rfl
@[simp] theorem State.fresh_ports (s : State) : (s.fresh).ports = s.ports := rfl
@[simp] theorem State.fresh_flits (s : State) : (s.fresh).flits = s.flits := rfl
@[simp] theorem State.fresh_streams (s : State) : (s.fresh).streams = s.streams := rfl
@[simp] theorem State.fresh_shoot (s : State) : (s.fresh).shoot = s.shoot := rfl
@[simp] theorem State.fresh_readroom (s : State) : (s.fresh).readroom = s.readroom := rfl
@[simp] theorem State.fresh_packages (s : State) : (s.fresh).packages = s.packages := rfl
@[simp] theorem State.fresh_package (s : State) : (s.fresh).package = s.package := rfl
@[simp] theorem State.fresh_pages (s : State) : (s.fresh).pages = s.pages := rfl
@[simp] theorem State.fresh_freePages (s : State) : (s.fresh).freePages = s.freePages := rfl
@[simp] theorem State.fresh_spareBlocks (s : State) : (s.fresh).spareBlocks = s.spareBlocks := rfl
@[simp] theorem State.fresh_worldPages (s : State) : (s.fresh).worldPages = s.worldPages := rfl
@[simp] theorem State.fresh_bodies (s : State) : (s.fresh).bodies = s.bodies := rfl

@[simp] theorem State.pokeByte_cycle (s : State) (a : Nat) (b : Byte) (p : Bool) : (s.pokeByte a b p).cycle = s.cycle := rfl
@[simp] theorem State.pokeByte_schedule (s : State) (a : Nat) (b : Byte) (p : Bool) : (s.pokeByte a b p).schedule = s.schedule := rfl
@[simp] theorem State.pokeByte_cur (s : State) (a : Nat) (b : Byte) (p : Bool) : (s.pokeByte a b p).cur = s.cur := rfl
@[simp] theorem State.pokeByte_hwTurn (s : State) (a : Nat) (b : Byte) (p : Bool) : (s.pokeByte a b p).hwTurn = s.hwTurn := rfl
@[simp] theorem State.pokeByte_hwPos (s : State) (a : Nat) (b : Byte) (p : Bool) : (s.pokeByte a b p).hwPos = s.hwPos := rfl
@[simp] theorem State.pokeByte_nextId (s : State) (a : Nat) (b : Byte) (p : Bool) : (s.pokeByte a b p).nextId = s.nextId := rfl
@[simp] theorem State.pokeByte_freeCtr (s : State) (a : Nat) (b : Byte) (p : Bool) : (s.pokeByte a b p).freeCtr = s.freeCtr := rfl
@[simp] theorem State.pokeByte_lineKey (s : State) (a : Nat) (b : Byte) (p : Bool) : (s.pokeByte a b p).lineKey = s.lineKey := rfl
@[simp] theorem State.pokeByte_opmem (s : State) (a : Nat) (b : Byte) (p : Bool) : (s.pokeByte a b p).opmem = s.opmem := rfl
@[simp] theorem State.pokeByte_ctxs (s : State) (a : Nat) (b : Byte) (p : Bool) : (s.pokeByte a b p).ctxs = s.ctxs := rfl
@[simp] theorem State.pokeByte_cores (s : State) (a : Nat) (b : Byte) (p : Bool) : (s.pokeByte a b p).cores = s.cores := rfl
@[simp] theorem State.pokeByte_tiles (s : State) (a : Nat) (b : Byte) (p : Bool) : (s.pokeByte a b p).tiles = s.tiles := rfl
@[simp] theorem State.pokeByte_clusters (s : State) (a : Nat) (b : Byte) (p : Bool) : (s.pokeByte a b p).clusters = s.clusters := rfl
@[simp] theorem State.pokeByte_txns (s : State) (a : Nat) (b : Byte) (p : Bool) : (s.pokeByte a b p).txns = s.txns := rfl
@[simp] theorem State.pokeByte_msgs (s : State) (a : Nat) (b : Byte) (p : Bool) : (s.pokeByte a b p).msgs = s.msgs := rfl
@[simp] theorem State.pokeByte_blks (s : State) (a : Nat) (b : Byte) (p : Bool) : (s.pokeByte a b p).blks = s.blks := rfl
@[simp] theorem State.pokeByte_loads (s : State) (a : Nat) (b : Byte) (p : Bool) : (s.pokeByte a b p).loads = s.loads := rfl
@[simp] theorem State.pokeByte_submitted (s : State) (a : Nat) (b : Byte) (p : Bool) : (s.pokeByte a b p).submitted = s.submitted := rfl
@[simp] theorem State.pokeByte_lates (s : State) (a : Nat) (b : Byte) (p : Bool) : (s.pokeByte a b p).lates = s.lates := rfl
@[simp] theorem State.pokeByte_collected (s : State) (a : Nat) (b : Byte) (p : Bool) : (s.pokeByte a b p).collected = s.collected := rfl
@[simp] theorem State.pokeByte_firmware (s : State) (a : Nat) (b : Byte) (p : Bool) : (s.pokeByte a b p).firmware = s.firmware := rfl
@[simp] theorem State.pokeByte_dir (s : State) (a : Nat) (b : Byte) (p : Bool) : (s.pokeByte a b p).dir = s.dir := rfl
@[simp] theorem State.pokeByte_versions (s : State) (a : Nat) (b : Byte) (p : Bool) : (s.pokeByte a b p).versions = s.versions := rfl
@[simp] theorem State.pokeByte_beginSeq (s : State) (a : Nat) (b : Byte) (p : Bool) : (s.pokeByte a b p).beginSeq = s.beginSeq := rfl
@[simp] theorem State.pokeByte_pushSeq (s : State) (a : Nat) (b : Byte) (p : Bool) : (s.pokeByte a b p).pushSeq = s.pushSeq := rfl
@[simp] theorem State.pokeByte_launches (s : State) (a : Nat) (b : Byte) (p : Bool) : (s.pokeByte a b p).launches = s.launches := rfl
@[simp] theorem State.pokeByte_jobs (s : State) (a : Nat) (b : Byte) (p : Bool) : (s.pokeByte a b p).jobs = s.jobs := rfl
@[simp] theorem State.pokeByte_nextTag (s : State) (a : Nat) (b : Byte) (p : Bool) : (s.pokeByte a b p).nextTag = s.nextTag := rfl
@[simp] theorem State.pokeByte_nextJob (s : State) (a : Nat) (b : Byte) (p : Bool) : (s.pokeByte a b p).nextJob = s.nextJob := rfl
@[simp] theorem State.pokeByte_nextTicket (s : State) (a : Nat) (b : Byte) (p : Bool) : (s.pokeByte a b p).nextTicket = s.nextTicket := rfl
@[simp] theorem State.pokeByte_host (s : State) (a : Nat) (b : Byte) (p : Bool) : (s.pokeByte a b p).host = s.host := rfl
@[simp] theorem State.pokeByte_capsules (s : State) (a : Nat) (b : Byte) (p : Bool) : (s.pokeByte a b p).capsules = s.capsules := rfl
@[simp] theorem State.pokeByte_triple (s : State) (a : Nat) (b : Byte) (p : Bool) : (s.pokeByte a b p).triple = s.triple := rfl
@[simp] theorem State.pokeByte_reports (s : State) (a : Nat) (b : Byte) (p : Bool) : (s.pokeByte a b p).reports = s.reports := rfl
@[simp] theorem State.pokeByte_vault (s : State) (a : Nat) (b : Byte) (p : Bool) : (s.pokeByte a b p).vault = s.vault := rfl
@[simp] theorem State.pokeByte_ports (s : State) (a : Nat) (b : Byte) (p : Bool) : (s.pokeByte a b p).ports = s.ports := rfl
@[simp] theorem State.pokeByte_flits (s : State) (a : Nat) (b : Byte) (p : Bool) : (s.pokeByte a b p).flits = s.flits := rfl
@[simp] theorem State.pokeByte_streams (s : State) (a : Nat) (b : Byte) (p : Bool) : (s.pokeByte a b p).streams = s.streams := rfl
@[simp] theorem State.pokeByte_shoot (s : State) (a : Nat) (b : Byte) (p : Bool) : (s.pokeByte a b p).shoot = s.shoot := rfl
@[simp] theorem State.pokeByte_readroom (s : State) (a : Nat) (b : Byte) (p : Bool) : (s.pokeByte a b p).readroom = s.readroom := rfl
@[simp] theorem State.pokeByte_packages (s : State) (a : Nat) (b : Byte) (p : Bool) : (s.pokeByte a b p).packages = s.packages := rfl
@[simp] theorem State.pokeByte_package (s : State) (a : Nat) (b : Byte) (p : Bool) : (s.pokeByte a b p).package = s.package := rfl
@[simp] theorem State.pokeByte_pages (s : State) (a : Nat) (b : Byte) (p : Bool) : (s.pokeByte a b p).pages = s.pages := rfl
@[simp] theorem State.pokeByte_freePages (s : State) (a : Nat) (b : Byte) (p : Bool) : (s.pokeByte a b p).freePages = s.freePages := rfl
@[simp] theorem State.pokeByte_spareBlocks (s : State) (a : Nat) (b : Byte) (p : Bool) : (s.pokeByte a b p).spareBlocks = s.spareBlocks := rfl
@[simp] theorem State.pokeByte_worldPages (s : State) (a : Nat) (b : Byte) (p : Bool) : (s.pokeByte a b p).worldPages = s.worldPages := rfl
@[simp] theorem State.pokeByte_bodies (s : State) (a : Nat) (b : Byte) (p : Bool) : (s.pokeByte a b p).bodies = s.bodies := rfl

@[simp] theorem State.secEvent_cycle (s : State) : (s.secEvent).cycle = s.cycle := rfl
@[simp] theorem State.secEvent_schedule (s : State) : (s.secEvent).schedule = s.schedule := rfl
@[simp] theorem State.secEvent_cur (s : State) : (s.secEvent).cur = s.cur := rfl
@[simp] theorem State.secEvent_hwTurn (s : State) : (s.secEvent).hwTurn = s.hwTurn := rfl
@[simp] theorem State.secEvent_hwPos (s : State) : (s.secEvent).hwPos = s.hwPos := rfl
@[simp] theorem State.secEvent_nextId (s : State) : (s.secEvent).nextId = s.nextId := rfl
@[simp] theorem State.secEvent_freeCtr (s : State) : (s.secEvent).freeCtr = s.freeCtr := rfl
@[simp] theorem State.secEvent_mem (s : State) : (s.secEvent).mem = s.mem := rfl
@[simp] theorem State.secEvent_bad (s : State) : (s.secEvent).bad = s.bad := rfl
@[simp] theorem State.secEvent_lineKey (s : State) : (s.secEvent).lineKey = s.lineKey := rfl
@[simp] theorem State.secEvent_opmem (s : State) : (s.secEvent).opmem = s.opmem := rfl
@[simp] theorem State.secEvent_ctxs (s : State) : (s.secEvent).ctxs = s.ctxs := rfl
@[simp] theorem State.secEvent_cores (s : State) : (s.secEvent).cores = s.cores := rfl
@[simp] theorem State.secEvent_tiles (s : State) : (s.secEvent).tiles = s.tiles := rfl
@[simp] theorem State.secEvent_clusters (s : State) : (s.secEvent).clusters = s.clusters := rfl
@[simp] theorem State.secEvent_txns (s : State) : (s.secEvent).txns = s.txns := rfl
@[simp] theorem State.secEvent_msgs (s : State) : (s.secEvent).msgs = s.msgs := rfl
@[simp] theorem State.secEvent_blks (s : State) : (s.secEvent).blks = s.blks := rfl
@[simp] theorem State.secEvent_loads (s : State) : (s.secEvent).loads = s.loads := rfl
@[simp] theorem State.secEvent_submitted (s : State) : (s.secEvent).submitted = s.submitted := rfl
@[simp] theorem State.secEvent_lates (s : State) : (s.secEvent).lates = s.lates := rfl
@[simp] theorem State.secEvent_collected (s : State) : (s.secEvent).collected = s.collected := rfl
@[simp] theorem State.secEvent_firmware (s : State) : (s.secEvent).firmware = s.firmware := rfl
@[simp] theorem State.secEvent_dir (s : State) : (s.secEvent).dir = s.dir := rfl
@[simp] theorem State.secEvent_versions (s : State) : (s.secEvent).versions = s.versions := rfl
@[simp] theorem State.secEvent_beginSeq (s : State) : (s.secEvent).beginSeq = s.beginSeq := rfl
@[simp] theorem State.secEvent_pushSeq (s : State) : (s.secEvent).pushSeq = s.pushSeq := rfl
@[simp] theorem State.secEvent_launches (s : State) : (s.secEvent).launches = s.launches := rfl
@[simp] theorem State.secEvent_jobs (s : State) : (s.secEvent).jobs = s.jobs := rfl
@[simp] theorem State.secEvent_nextTag (s : State) : (s.secEvent).nextTag = s.nextTag := rfl
@[simp] theorem State.secEvent_nextJob (s : State) : (s.secEvent).nextJob = s.nextJob := rfl
@[simp] theorem State.secEvent_nextTicket (s : State) : (s.secEvent).nextTicket = s.nextTicket := rfl
@[simp] theorem State.secEvent_capsules (s : State) : (s.secEvent).capsules = s.capsules := rfl
@[simp] theorem State.secEvent_triple (s : State) : (s.secEvent).triple = s.triple := rfl
@[simp] theorem State.secEvent_reports (s : State) : (s.secEvent).reports = s.reports := rfl
@[simp] theorem State.secEvent_vault (s : State) : (s.secEvent).vault = s.vault := rfl
@[simp] theorem State.secEvent_ports (s : State) : (s.secEvent).ports = s.ports := rfl
@[simp] theorem State.secEvent_flits (s : State) : (s.secEvent).flits = s.flits := rfl
@[simp] theorem State.secEvent_streams (s : State) : (s.secEvent).streams = s.streams := rfl
@[simp] theorem State.secEvent_shoot (s : State) : (s.secEvent).shoot = s.shoot := rfl
@[simp] theorem State.secEvent_readroom (s : State) : (s.secEvent).readroom = s.readroom := rfl
@[simp] theorem State.secEvent_packages (s : State) : (s.secEvent).packages = s.packages := rfl
@[simp] theorem State.secEvent_package (s : State) : (s.secEvent).package = s.package := rfl
@[simp] theorem State.secEvent_pages (s : State) : (s.secEvent).pages = s.pages := rfl
@[simp] theorem State.secEvent_freePages (s : State) : (s.secEvent).freePages = s.freePages := rfl
@[simp] theorem State.secEvent_spareBlocks (s : State) : (s.secEvent).spareBlocks = s.spareBlocks := rfl
@[simp] theorem State.secEvent_worldPages (s : State) : (s.secEvent).worldPages = s.worldPages := rfl
@[simp] theorem State.secEvent_bodies (s : State) : (s.secEvent).bodies = s.bodies := rfl

/-! ## Tables read back -/

@[simp] theorem State.ctx_setCtx (s : State) (k : Nat) (c : Ctx) : (s.setCtx k c).ctx k = c := Tbl.get_set_self _ k c

theorem State.ctx_setCtx_other (s : State) (c : Ctx) {j k : Nat} (h : j ≠ k) : (s.setCtx k c).ctx j = s.ctx j :=
  Tbl.get_set_other h _ c

@[simp] theorem State.core_setCore (s : State) (k : Nat) (c : Core) : (s.setCore k c).core k = c := Tbl.get_set_self _ k c

theorem State.core_setCore_other (s : State) (c : Core) {j k : Nat} (h : j ≠ k) : (s.setCore k c).core j = s.core j :=
  Tbl.get_set_other h _ c

@[simp] theorem State.tile_setTile (s : State) (k : Nat) (c : Tile) : (s.setTile k c).tile k = c := Tbl.get_set_self _ k c

theorem State.tile_setTile_other (s : State) (c : Tile) {j k : Nat} (h : j ≠ k) : (s.setTile k c).tile j = s.tile j :=
  Tbl.get_set_other h _ c

@[simp] theorem State.cluster_setCluster (s : State) (k : Nat) (c : Cluster) : (s.setCluster k c).cluster k = c := Tbl.get_set_self _ k c

theorem State.cluster_setCluster_other (s : State) (c : Cluster) {j k : Nat} (h : j ≠ k) : (s.setCluster k c).cluster j = s.cluster j :=
  Tbl.get_set_other h _ c

@[simp] theorem State.slot_setSlot (s : State) (k : Nat) (c : DirSlot) : (s.setSlot k c).slot k = c := Tbl.get_set_self _ k c

theorem State.slot_setSlot_other (s : State) (c : DirSlot) {j k : Nat} (h : j ≠ k) : (s.setSlot k c).slot j = s.slot j :=
  Tbl.get_set_other h _ c

@[simp] theorem State.ctx_of_setCore (s : State) (a : Nat) (c : Core) (z : Nat) : (s.setCore a c).ctx z = s.ctx z := rfl
@[simp] theorem State.ctx_of_setTile (s : State) (u : Nat) (c : Tile) (z : Nat) : (s.setTile u c).ctx z = s.ctx z := rfl
@[simp] theorem State.ctx_of_setCluster (s : State) (n : Nat) (c : Cluster) (z : Nat) : (s.setCluster n c).ctx z = s.ctx z := rfl
@[simp] theorem State.ctx_of_setSlot (s : State) (n : Nat) (d : DirSlot) (z : Nat) : (s.setSlot n d).ctx z = s.ctx z := rfl
@[simp] theorem State.ctx_of_setLaunch (s : State) (l : Nat) (x : Launch) (z : Nat) : (s.setLaunch l x).ctx z = s.ctx z := rfl
@[simp] theorem State.ctx_of_setJob (s : State) (j : Nat) (x : Job) (z : Nat) : (s.setJob j x).ctx z = s.ctx z := rfl
@[simp] theorem State.ctx_of_fresh (s : State) (z : Nat) : (s.fresh).ctx z = s.ctx z := rfl
@[simp] theorem State.ctx_of_pokeByte (s : State) (a : Nat) (b : Byte) (p : Bool) (z : Nat) : (s.pokeByte a b p).ctx z = s.ctx z := rfl
@[simp] theorem State.ctx_of_secEvent (s : State) (z : Nat) : (s.secEvent).ctx z = s.ctx z := rfl

@[simp] theorem State.core_of_setCtx (s : State) (k : Nat) (c : Ctx) (z : Nat) : (s.setCtx k c).core z = s.core z := rfl
@[simp] theorem State.core_of_setTile (s : State) (u : Nat) (c : Tile) (z : Nat) : (s.setTile u c).core z = s.core z := rfl
@[simp] theorem State.core_of_setCluster (s : State) (n : Nat) (c : Cluster) (z : Nat) : (s.setCluster n c).core z = s.core z := rfl
@[simp] theorem State.core_of_setSlot (s : State) (n : Nat) (d : DirSlot) (z : Nat) : (s.setSlot n d).core z = s.core z := rfl
@[simp] theorem State.core_of_setLaunch (s : State) (l : Nat) (x : Launch) (z : Nat) : (s.setLaunch l x).core z = s.core z := rfl
@[simp] theorem State.core_of_setJob (s : State) (j : Nat) (x : Job) (z : Nat) : (s.setJob j x).core z = s.core z := rfl
@[simp] theorem State.core_of_fresh (s : State) (z : Nat) : (s.fresh).core z = s.core z := rfl
@[simp] theorem State.core_of_pokeByte (s : State) (a : Nat) (b : Byte) (p : Bool) (z : Nat) : (s.pokeByte a b p).core z = s.core z := rfl
@[simp] theorem State.core_of_secEvent (s : State) (z : Nat) : (s.secEvent).core z = s.core z := rfl

@[simp] theorem State.tile_of_setCtx (s : State) (k : Nat) (c : Ctx) (z : Nat) : (s.setCtx k c).tile z = s.tile z := rfl
@[simp] theorem State.tile_of_setCore (s : State) (a : Nat) (c : Core) (z : Nat) : (s.setCore a c).tile z = s.tile z := rfl
@[simp] theorem State.tile_of_setCluster (s : State) (n : Nat) (c : Cluster) (z : Nat) : (s.setCluster n c).tile z = s.tile z := rfl
@[simp] theorem State.tile_of_setSlot (s : State) (n : Nat) (d : DirSlot) (z : Nat) : (s.setSlot n d).tile z = s.tile z := rfl
@[simp] theorem State.tile_of_setLaunch (s : State) (l : Nat) (x : Launch) (z : Nat) : (s.setLaunch l x).tile z = s.tile z := rfl
@[simp] theorem State.tile_of_setJob (s : State) (j : Nat) (x : Job) (z : Nat) : (s.setJob j x).tile z = s.tile z := rfl
@[simp] theorem State.tile_of_fresh (s : State) (z : Nat) : (s.fresh).tile z = s.tile z := rfl
@[simp] theorem State.tile_of_pokeByte (s : State) (a : Nat) (b : Byte) (p : Bool) (z : Nat) : (s.pokeByte a b p).tile z = s.tile z := rfl
@[simp] theorem State.tile_of_secEvent (s : State) (z : Nat) : (s.secEvent).tile z = s.tile z := rfl

@[simp] theorem State.cluster_of_setCtx (s : State) (k : Nat) (c : Ctx) (z : Nat) : (s.setCtx k c).cluster z = s.cluster z := rfl
@[simp] theorem State.cluster_of_setCore (s : State) (a : Nat) (c : Core) (z : Nat) : (s.setCore a c).cluster z = s.cluster z := rfl
@[simp] theorem State.cluster_of_setTile (s : State) (u : Nat) (c : Tile) (z : Nat) : (s.setTile u c).cluster z = s.cluster z := rfl
@[simp] theorem State.cluster_of_setSlot (s : State) (n : Nat) (d : DirSlot) (z : Nat) : (s.setSlot n d).cluster z = s.cluster z := rfl
@[simp] theorem State.cluster_of_setLaunch (s : State) (l : Nat) (x : Launch) (z : Nat) : (s.setLaunch l x).cluster z = s.cluster z := rfl
@[simp] theorem State.cluster_of_setJob (s : State) (j : Nat) (x : Job) (z : Nat) : (s.setJob j x).cluster z = s.cluster z := rfl
@[simp] theorem State.cluster_of_fresh (s : State) (z : Nat) : (s.fresh).cluster z = s.cluster z := rfl
@[simp] theorem State.cluster_of_pokeByte (s : State) (a : Nat) (b : Byte) (p : Bool) (z : Nat) : (s.pokeByte a b p).cluster z = s.cluster z := rfl
@[simp] theorem State.cluster_of_secEvent (s : State) (z : Nat) : (s.secEvent).cluster z = s.cluster z := rfl

@[simp] theorem State.slot_of_setCtx (s : State) (k : Nat) (c : Ctx) (z : Nat) : (s.setCtx k c).slot z = s.slot z := rfl
@[simp] theorem State.slot_of_setCore (s : State) (a : Nat) (c : Core) (z : Nat) : (s.setCore a c).slot z = s.slot z := rfl
@[simp] theorem State.slot_of_setTile (s : State) (u : Nat) (c : Tile) (z : Nat) : (s.setTile u c).slot z = s.slot z := rfl
@[simp] theorem State.slot_of_setCluster (s : State) (n : Nat) (c : Cluster) (z : Nat) : (s.setCluster n c).slot z = s.slot z := rfl
@[simp] theorem State.slot_of_setLaunch (s : State) (l : Nat) (x : Launch) (z : Nat) : (s.setLaunch l x).slot z = s.slot z := rfl
@[simp] theorem State.slot_of_setJob (s : State) (j : Nat) (x : Job) (z : Nat) : (s.setJob j x).slot z = s.slot z := rfl
@[simp] theorem State.slot_of_fresh (s : State) (z : Nat) : (s.fresh).slot z = s.slot z := rfl
@[simp] theorem State.slot_of_pokeByte (s : State) (a : Nat) (b : Byte) (p : Bool) (z : Nat) : (s.pokeByte a b p).slot z = s.slot z := rfl
@[simp] theorem State.slot_of_secEvent (s : State) (z : Nat) : (s.secEvent).slot z = s.slot z := rfl

@[simp] theorem State.launch?_of_setCtx (s : State) (k : Nat) (c : Ctx) (z : Nat) : (s.setCtx k c).launch? z = s.launch? z := rfl
@[simp] theorem State.job?_of_setCtx (s : State) (k : Nat) (c : Ctx) (z : Nat) : (s.setCtx k c).job? z = s.job? z := rfl
@[simp] theorem State.readByte_of_setCtx (s : State) (k : Nat) (c : Ctx) (kid key : Nat) : (s.setCtx k c).readByte kid key = s.readByte kid key := rfl
@[simp] theorem State.launch?_of_setCore (s : State) (a : Nat) (c : Core) (z : Nat) : (s.setCore a c).launch? z = s.launch? z := rfl
@[simp] theorem State.job?_of_setCore (s : State) (a : Nat) (c : Core) (z : Nat) : (s.setCore a c).job? z = s.job? z := rfl
@[simp] theorem State.readByte_of_setCore (s : State) (a : Nat) (c : Core) (kid key : Nat) : (s.setCore a c).readByte kid key = s.readByte kid key := rfl
@[simp] theorem State.launch?_of_setTile (s : State) (u : Nat) (c : Tile) (z : Nat) : (s.setTile u c).launch? z = s.launch? z := rfl
@[simp] theorem State.job?_of_setTile (s : State) (u : Nat) (c : Tile) (z : Nat) : (s.setTile u c).job? z = s.job? z := rfl
@[simp] theorem State.readByte_of_setTile (s : State) (u : Nat) (c : Tile) (kid key : Nat) : (s.setTile u c).readByte kid key = s.readByte kid key := rfl
@[simp] theorem State.launch?_of_setCluster (s : State) (n : Nat) (c : Cluster) (z : Nat) : (s.setCluster n c).launch? z = s.launch? z := rfl
@[simp] theorem State.job?_of_setCluster (s : State) (n : Nat) (c : Cluster) (z : Nat) : (s.setCluster n c).job? z = s.job? z := rfl
@[simp] theorem State.readByte_of_setCluster (s : State) (n : Nat) (c : Cluster) (kid key : Nat) : (s.setCluster n c).readByte kid key = s.readByte kid key := rfl
@[simp] theorem State.launch?_of_setSlot (s : State) (n : Nat) (d : DirSlot) (z : Nat) : (s.setSlot n d).launch? z = s.launch? z := rfl
@[simp] theorem State.job?_of_setSlot (s : State) (n : Nat) (d : DirSlot) (z : Nat) : (s.setSlot n d).job? z = s.job? z := rfl
@[simp] theorem State.readByte_of_setSlot (s : State) (n : Nat) (d : DirSlot) (kid key : Nat) : (s.setSlot n d).readByte kid key = s.readByte kid key := rfl
@[simp] theorem State.job?_of_setLaunch (s : State) (l : Nat) (x : Launch) (z : Nat) : (s.setLaunch l x).job? z = s.job? z := rfl
@[simp] theorem State.readByte_of_setLaunch (s : State) (l : Nat) (x : Launch) (kid key : Nat) : (s.setLaunch l x).readByte kid key = s.readByte kid key := rfl
@[simp] theorem State.launch?_of_setJob (s : State) (j : Nat) (x : Job) (z : Nat) : (s.setJob j x).launch? z = s.launch? z := rfl
@[simp] theorem State.readByte_of_setJob (s : State) (j : Nat) (x : Job) (kid key : Nat) : (s.setJob j x).readByte kid key = s.readByte kid key := rfl
@[simp] theorem State.launch?_of_fresh (s : State) (z : Nat) : (s.fresh).launch? z = s.launch? z := rfl
@[simp] theorem State.job?_of_fresh (s : State) (z : Nat) : (s.fresh).job? z = s.job? z := rfl
@[simp] theorem State.readByte_of_fresh (s : State) (kid key : Nat) : (s.fresh).readByte kid key = s.readByte kid key := rfl
@[simp] theorem State.launch?_of_pokeByte (s : State) (a : Nat) (b : Byte) (p : Bool) (z : Nat) : (s.pokeByte a b p).launch? z = s.launch? z := rfl
@[simp] theorem State.job?_of_pokeByte (s : State) (a : Nat) (b : Byte) (p : Bool) (z : Nat) : (s.pokeByte a b p).job? z = s.job? z := rfl
@[simp] theorem State.launch?_of_secEvent (s : State) (z : Nat) : (s.secEvent).launch? z = s.launch? z := rfl
@[simp] theorem State.job?_of_secEvent (s : State) (z : Nat) : (s.secEvent).job? z = s.job? z := rfl
@[simp] theorem State.readByte_of_secEvent (s : State) (kid key : Nat) : (s.secEvent).readByte kid key = s.readByte kid key := rfl

/-! ## Context updates -/

@[simp] theorem Ctx.next_level (c : Ctx) (len : Nat) : (c.next len).level = c.level := rfl
@[simp] theorem Ctx.next_launch (c : Ctx) (len : Nat) : (c.next len).launch = c.launch := rfl
@[simp] theorem Ctx.next_actId (c : Ctx) (len : Nat) : (c.next len).actId = c.actId := rfl
@[simp] theorem Ctx.next_act (c : Ctx) (len : Nat) : (c.next len).act = c.act := rfl
@[simp] theorem Ctx.next_word (c : Ctx) (len : Nat) : (c.next len).word = c.word := rfl
@[simp] theorem Ctx.next_w (c : Ctx) (len : Nat) : (c.next len).w = c.w := rfl
@[simp] theorem Ctx.next_wbad (c : Ctx) (len : Nat) : (c.next len).wbad = c.wbad := rfl
@[simp] theorem Ctx.next_v (c : Ctx) (len : Nat) : (c.next len).v = c.v := rfl
@[simp] theorem Ctx.next_vbad (c : Ctx) (len : Nat) : (c.next len).vbad = c.vbad := rfl
@[simp] theorem Ctx.next_m (c : Ctx) (len : Nat) : (c.next len).m = c.m := rfl
@[simp] theorem Ctx.next_ix (c : Ctx) (len : Nat) : (c.next len).ix = c.ix := rfl
@[simp] theorem Ctx.next_ox (c : Ctx) (len : Nat) : (c.next len).ox = c.ox := rfl
@[simp] theorem Ctx.next_sblk (c : Ctx) (len : Nat) : (c.next len).sblk = c.sblk := rfl
@[simp] theorem Ctx.next_vblk (c : Ctx) (len : Nat) : (c.next len).vblk = c.vblk := rfl
@[simp] theorem Ctx.next_ld (c : Ctx) (len : Nat) : (c.next len).ld = c.ld := rfl
@[simp] theorem Ctx.next_st (c : Ctx) (len : Nat) : (c.next len).st = c.st := rfl
@[simp] theorem Ctx.next_cp (c : Ctx) (len : Nat) : (c.next len).cp = c.cp := rfl
@[simp] theorem Ctx.next_tl (c : Ctx) (len : Nat) : (c.next len).tl = c.tl := rfl
@[simp] theorem Ctx.next_acq (c : Ctx) (len : Nat) : (c.next len).acq = c.acq := rfl
@[simp] theorem Ctx.next_rel (c : Ctx) (len : Nat) : (c.next len).rel = c.rel := rfl
@[simp] theorem Ctx.next_region (c : Ctx) (len : Nat) : (c.next len).region = c.region := rfl
@[simp] theorem Ctx.next_aborts (c : Ctx) (len : Nat) : (c.next len).aborts = c.aborts := rfl
@[simp] theorem Ctx.next_restarting (c : Ctx) (len : Nat) : (c.next len).restarting = c.restarting := rfl
@[simp] theorem Ctx.next_pd (c : Ctx) (len : Nat) : (c.next len).pd = c.pd := rfl
@[simp] theorem Ctx.next_stop (c : Ctx) (len : Nat) : (c.next len).stop = c.stop := rfl
@[simp] theorem Ctx.next_lates (c : Ctx) (len : Nat) : (c.next len).lates = c.lates := rfl
@[simp] theorem Ctx.next_window (c : Ctx) (len : Nat) : (c.next len).window = c.window := rfl
@[simp] theorem Ctx.next_align (c : Ctx) (len : Nat) : (c.next len).align = c.align := rfl
@[simp] theorem Ctx.next_await (c : Ctx) (len : Nat) : (c.next len).await = c.await := rfl
@[simp] theorem Ctx.next_answer (c : Ctx) (len : Nat) : (c.next len).answer = c.answer := rfl
@[simp] theorem Ctx.next_drainReq (c : Ctx) (len : Nat) : (c.next len).drainReq = c.drainReq := rfl
@[simp] theorem Ctx.next_brokeAt (c : Ctx) (len : Nat) : (c.next len).brokeAt = c.brokeAt := rfl
@[simp] theorem Ctx.next_issuedAt (c : Ctx) (len : Nat) : (c.next len).issuedAt = c.issuedAt := rfl

@[simp] theorem Ctx.putV_state (c : Ctx) (n : Nat) (x : Vec) (b : Bool) : (c.putV n x b).state = c.state := rfl
@[simp] theorem Ctx.putV_level (c : Ctx) (n : Nat) (x : Vec) (b : Bool) : (c.putV n x b).level = c.level := rfl
@[simp] theorem Ctx.putV_launch (c : Ctx) (n : Nat) (x : Vec) (b : Bool) : (c.putV n x b).launch = c.launch := rfl
@[simp] theorem Ctx.putV_actId (c : Ctx) (n : Nat) (x : Vec) (b : Bool) : (c.putV n x b).actId = c.actId := rfl
@[simp] theorem Ctx.putV_act (c : Ctx) (n : Nat) (x : Vec) (b : Bool) : (c.putV n x b).act = c.act := rfl
@[simp] theorem Ctx.putV_pc (c : Ctx) (n : Nat) (x : Vec) (b : Bool) : (c.putV n x b).pc = c.pc := rfl
@[simp] theorem Ctx.putV_word (c : Ctx) (n : Nat) (x : Vec) (b : Bool) : (c.putV n x b).word = c.word := rfl
@[simp] theorem Ctx.putV_w (c : Ctx) (n : Nat) (x : Vec) (b : Bool) : (c.putV n x b).w = c.w := rfl
@[simp] theorem Ctx.putV_wbad (c : Ctx) (n : Nat) (x : Vec) (b : Bool) : (c.putV n x b).wbad = c.wbad := rfl
@[simp] theorem Ctx.putV_m (c : Ctx) (n : Nat) (x : Vec) (b : Bool) : (c.putV n x b).m = c.m := rfl
@[simp] theorem Ctx.putV_ix (c : Ctx) (n : Nat) (x : Vec) (b : Bool) : (c.putV n x b).ix = c.ix := rfl
@[simp] theorem Ctx.putV_ox (c : Ctx) (n : Nat) (x : Vec) (b : Bool) : (c.putV n x b).ox = c.ox := rfl
@[simp] theorem Ctx.putV_sblk (c : Ctx) (n : Nat) (x : Vec) (b : Bool) : (c.putV n x b).sblk = c.sblk := rfl
@[simp] theorem Ctx.putV_vblk (c : Ctx) (n : Nat) (x : Vec) (b : Bool) : (c.putV n x b).vblk = c.vblk := rfl
@[simp] theorem Ctx.putV_ld (c : Ctx) (n : Nat) (x : Vec) (b : Bool) : (c.putV n x b).ld = c.ld := rfl
@[simp] theorem Ctx.putV_st (c : Ctx) (n : Nat) (x : Vec) (b : Bool) : (c.putV n x b).st = c.st := rfl
@[simp] theorem Ctx.putV_cp (c : Ctx) (n : Nat) (x : Vec) (b : Bool) : (c.putV n x b).cp = c.cp := rfl
@[simp] theorem Ctx.putV_tl (c : Ctx) (n : Nat) (x : Vec) (b : Bool) : (c.putV n x b).tl = c.tl := rfl
@[simp] theorem Ctx.putV_acq (c : Ctx) (n : Nat) (x : Vec) (b : Bool) : (c.putV n x b).acq = c.acq := rfl
@[simp] theorem Ctx.putV_rel (c : Ctx) (n : Nat) (x : Vec) (b : Bool) : (c.putV n x b).rel = c.rel := rfl
@[simp] theorem Ctx.putV_region (c : Ctx) (n : Nat) (x : Vec) (b : Bool) : (c.putV n x b).region = c.region := rfl
@[simp] theorem Ctx.putV_aborts (c : Ctx) (n : Nat) (x : Vec) (b : Bool) : (c.putV n x b).aborts = c.aborts := rfl
@[simp] theorem Ctx.putV_restarting (c : Ctx) (n : Nat) (x : Vec) (b : Bool) : (c.putV n x b).restarting = c.restarting := rfl
@[simp] theorem Ctx.putV_pd (c : Ctx) (n : Nat) (x : Vec) (b : Bool) : (c.putV n x b).pd = c.pd := rfl
@[simp] theorem Ctx.putV_stop (c : Ctx) (n : Nat) (x : Vec) (b : Bool) : (c.putV n x b).stop = c.stop := rfl
@[simp] theorem Ctx.putV_lates (c : Ctx) (n : Nat) (x : Vec) (b : Bool) : (c.putV n x b).lates = c.lates := rfl
@[simp] theorem Ctx.putV_window (c : Ctx) (n : Nat) (x : Vec) (b : Bool) : (c.putV n x b).window = c.window := rfl
@[simp] theorem Ctx.putV_align (c : Ctx) (n : Nat) (x : Vec) (b : Bool) : (c.putV n x b).align = c.align := rfl
@[simp] theorem Ctx.putV_await (c : Ctx) (n : Nat) (x : Vec) (b : Bool) : (c.putV n x b).await = c.await := rfl
@[simp] theorem Ctx.putV_answer (c : Ctx) (n : Nat) (x : Vec) (b : Bool) : (c.putV n x b).answer = c.answer := rfl
@[simp] theorem Ctx.putV_drainReq (c : Ctx) (n : Nat) (x : Vec) (b : Bool) : (c.putV n x b).drainReq = c.drainReq := rfl
@[simp] theorem Ctx.putV_brokeAt (c : Ctx) (n : Nat) (x : Vec) (b : Bool) : (c.putV n x b).brokeAt = c.brokeAt := rfl
@[simp] theorem Ctx.putV_issuedAt (c : Ctx) (n : Nat) (x : Vec) (b : Bool) : (c.putV n x b).issuedAt = c.issuedAt := rfl

@[simp] theorem Ctx.putIx_state (c : Ctx) (n : Nat) (x : Word) : (c.putIx n x).state = c.state := rfl
@[simp] theorem Ctx.putIx_level (c : Ctx) (n : Nat) (x : Word) : (c.putIx n x).level = c.level := rfl
@[simp] theorem Ctx.putIx_launch (c : Ctx) (n : Nat) (x : Word) : (c.putIx n x).launch = c.launch := rfl
@[simp] theorem Ctx.putIx_actId (c : Ctx) (n : Nat) (x : Word) : (c.putIx n x).actId = c.actId := rfl
@[simp] theorem Ctx.putIx_act (c : Ctx) (n : Nat) (x : Word) : (c.putIx n x).act = c.act := rfl
@[simp] theorem Ctx.putIx_pc (c : Ctx) (n : Nat) (x : Word) : (c.putIx n x).pc = c.pc := rfl
@[simp] theorem Ctx.putIx_word (c : Ctx) (n : Nat) (x : Word) : (c.putIx n x).word = c.word := rfl
@[simp] theorem Ctx.putIx_w (c : Ctx) (n : Nat) (x : Word) : (c.putIx n x).w = c.w := rfl
@[simp] theorem Ctx.putIx_wbad (c : Ctx) (n : Nat) (x : Word) : (c.putIx n x).wbad = c.wbad := rfl
@[simp] theorem Ctx.putIx_v (c : Ctx) (n : Nat) (x : Word) : (c.putIx n x).v = c.v := rfl
@[simp] theorem Ctx.putIx_vbad (c : Ctx) (n : Nat) (x : Word) : (c.putIx n x).vbad = c.vbad := rfl
@[simp] theorem Ctx.putIx_m (c : Ctx) (n : Nat) (x : Word) : (c.putIx n x).m = c.m := rfl
@[simp] theorem Ctx.putIx_ox (c : Ctx) (n : Nat) (x : Word) : (c.putIx n x).ox = c.ox := rfl
@[simp] theorem Ctx.putIx_sblk (c : Ctx) (n : Nat) (x : Word) : (c.putIx n x).sblk = c.sblk := rfl
@[simp] theorem Ctx.putIx_vblk (c : Ctx) (n : Nat) (x : Word) : (c.putIx n x).vblk = c.vblk := rfl
@[simp] theorem Ctx.putIx_ld (c : Ctx) (n : Nat) (x : Word) : (c.putIx n x).ld = c.ld := rfl
@[simp] theorem Ctx.putIx_st (c : Ctx) (n : Nat) (x : Word) : (c.putIx n x).st = c.st := rfl
@[simp] theorem Ctx.putIx_cp (c : Ctx) (n : Nat) (x : Word) : (c.putIx n x).cp = c.cp := rfl
@[simp] theorem Ctx.putIx_tl (c : Ctx) (n : Nat) (x : Word) : (c.putIx n x).tl = c.tl := rfl
@[simp] theorem Ctx.putIx_acq (c : Ctx) (n : Nat) (x : Word) : (c.putIx n x).acq = c.acq := rfl
@[simp] theorem Ctx.putIx_rel (c : Ctx) (n : Nat) (x : Word) : (c.putIx n x).rel = c.rel := rfl
@[simp] theorem Ctx.putIx_region (c : Ctx) (n : Nat) (x : Word) : (c.putIx n x).region = c.region := rfl
@[simp] theorem Ctx.putIx_aborts (c : Ctx) (n : Nat) (x : Word) : (c.putIx n x).aborts = c.aborts := rfl
@[simp] theorem Ctx.putIx_restarting (c : Ctx) (n : Nat) (x : Word) : (c.putIx n x).restarting = c.restarting := rfl
@[simp] theorem Ctx.putIx_pd (c : Ctx) (n : Nat) (x : Word) : (c.putIx n x).pd = c.pd := rfl
@[simp] theorem Ctx.putIx_stop (c : Ctx) (n : Nat) (x : Word) : (c.putIx n x).stop = c.stop := rfl
@[simp] theorem Ctx.putIx_lates (c : Ctx) (n : Nat) (x : Word) : (c.putIx n x).lates = c.lates := rfl
@[simp] theorem Ctx.putIx_window (c : Ctx) (n : Nat) (x : Word) : (c.putIx n x).window = c.window := rfl
@[simp] theorem Ctx.putIx_align (c : Ctx) (n : Nat) (x : Word) : (c.putIx n x).align = c.align := rfl
@[simp] theorem Ctx.putIx_await (c : Ctx) (n : Nat) (x : Word) : (c.putIx n x).await = c.await := rfl
@[simp] theorem Ctx.putIx_answer (c : Ctx) (n : Nat) (x : Word) : (c.putIx n x).answer = c.answer := rfl
@[simp] theorem Ctx.putIx_drainReq (c : Ctx) (n : Nat) (x : Word) : (c.putIx n x).drainReq = c.drainReq := rfl
@[simp] theorem Ctx.putIx_brokeAt (c : Ctx) (n : Nat) (x : Word) : (c.putIx n x).brokeAt = c.brokeAt := rfl
@[simp] theorem Ctx.putIx_issuedAt (c : Ctx) (n : Nat) (x : Word) : (c.putIx n x).issuedAt = c.issuedAt := rfl

@[simp] theorem Ctx.putOx_state (c : Ctx) (n : Nat) (x : Word) : (c.putOx n x).state = c.state := rfl
@[simp] theorem Ctx.putOx_level (c : Ctx) (n : Nat) (x : Word) : (c.putOx n x).level = c.level := rfl
@[simp] theorem Ctx.putOx_launch (c : Ctx) (n : Nat) (x : Word) : (c.putOx n x).launch = c.launch := rfl
@[simp] theorem Ctx.putOx_actId (c : Ctx) (n : Nat) (x : Word) : (c.putOx n x).actId = c.actId := rfl
@[simp] theorem Ctx.putOx_act (c : Ctx) (n : Nat) (x : Word) : (c.putOx n x).act = c.act := rfl
@[simp] theorem Ctx.putOx_pc (c : Ctx) (n : Nat) (x : Word) : (c.putOx n x).pc = c.pc := rfl
@[simp] theorem Ctx.putOx_word (c : Ctx) (n : Nat) (x : Word) : (c.putOx n x).word = c.word := rfl
@[simp] theorem Ctx.putOx_w (c : Ctx) (n : Nat) (x : Word) : (c.putOx n x).w = c.w := rfl
@[simp] theorem Ctx.putOx_wbad (c : Ctx) (n : Nat) (x : Word) : (c.putOx n x).wbad = c.wbad := rfl
@[simp] theorem Ctx.putOx_v (c : Ctx) (n : Nat) (x : Word) : (c.putOx n x).v = c.v := rfl
@[simp] theorem Ctx.putOx_vbad (c : Ctx) (n : Nat) (x : Word) : (c.putOx n x).vbad = c.vbad := rfl
@[simp] theorem Ctx.putOx_m (c : Ctx) (n : Nat) (x : Word) : (c.putOx n x).m = c.m := rfl
@[simp] theorem Ctx.putOx_ix (c : Ctx) (n : Nat) (x : Word) : (c.putOx n x).ix = c.ix := rfl
@[simp] theorem Ctx.putOx_sblk (c : Ctx) (n : Nat) (x : Word) : (c.putOx n x).sblk = c.sblk := rfl
@[simp] theorem Ctx.putOx_vblk (c : Ctx) (n : Nat) (x : Word) : (c.putOx n x).vblk = c.vblk := rfl
@[simp] theorem Ctx.putOx_ld (c : Ctx) (n : Nat) (x : Word) : (c.putOx n x).ld = c.ld := rfl
@[simp] theorem Ctx.putOx_st (c : Ctx) (n : Nat) (x : Word) : (c.putOx n x).st = c.st := rfl
@[simp] theorem Ctx.putOx_cp (c : Ctx) (n : Nat) (x : Word) : (c.putOx n x).cp = c.cp := rfl
@[simp] theorem Ctx.putOx_tl (c : Ctx) (n : Nat) (x : Word) : (c.putOx n x).tl = c.tl := rfl
@[simp] theorem Ctx.putOx_acq (c : Ctx) (n : Nat) (x : Word) : (c.putOx n x).acq = c.acq := rfl
@[simp] theorem Ctx.putOx_rel (c : Ctx) (n : Nat) (x : Word) : (c.putOx n x).rel = c.rel := rfl
@[simp] theorem Ctx.putOx_region (c : Ctx) (n : Nat) (x : Word) : (c.putOx n x).region = c.region := rfl
@[simp] theorem Ctx.putOx_aborts (c : Ctx) (n : Nat) (x : Word) : (c.putOx n x).aborts = c.aborts := rfl
@[simp] theorem Ctx.putOx_restarting (c : Ctx) (n : Nat) (x : Word) : (c.putOx n x).restarting = c.restarting := rfl
@[simp] theorem Ctx.putOx_pd (c : Ctx) (n : Nat) (x : Word) : (c.putOx n x).pd = c.pd := rfl
@[simp] theorem Ctx.putOx_stop (c : Ctx) (n : Nat) (x : Word) : (c.putOx n x).stop = c.stop := rfl
@[simp] theorem Ctx.putOx_lates (c : Ctx) (n : Nat) (x : Word) : (c.putOx n x).lates = c.lates := rfl
@[simp] theorem Ctx.putOx_window (c : Ctx) (n : Nat) (x : Word) : (c.putOx n x).window = c.window := rfl
@[simp] theorem Ctx.putOx_align (c : Ctx) (n : Nat) (x : Word) : (c.putOx n x).align = c.align := rfl
@[simp] theorem Ctx.putOx_await (c : Ctx) (n : Nat) (x : Word) : (c.putOx n x).await = c.await := rfl
@[simp] theorem Ctx.putOx_answer (c : Ctx) (n : Nat) (x : Word) : (c.putOx n x).answer = c.answer := rfl
@[simp] theorem Ctx.putOx_drainReq (c : Ctx) (n : Nat) (x : Word) : (c.putOx n x).drainReq = c.drainReq := rfl
@[simp] theorem Ctx.putOx_brokeAt (c : Ctx) (n : Nat) (x : Word) : (c.putOx n x).brokeAt = c.brokeAt := rfl
@[simp] theorem Ctx.putOx_issuedAt (c : Ctx) (n : Nat) (x : Word) : (c.putOx n x).issuedAt = c.issuedAt := rfl

@[simp] theorem Ctx.putW_state (c : Ctx) (n : Nat) (x : Word) (b : Bool) : (c.putW n x b).state = c.state := by unfold Ctx.putW; split <;> rfl
@[simp] theorem Ctx.putW_level (c : Ctx) (n : Nat) (x : Word) (b : Bool) : (c.putW n x b).level = c.level := by unfold Ctx.putW; split <;> rfl
@[simp] theorem Ctx.putW_launch (c : Ctx) (n : Nat) (x : Word) (b : Bool) : (c.putW n x b).launch = c.launch := by unfold Ctx.putW; split <;> rfl
@[simp] theorem Ctx.putW_actId (c : Ctx) (n : Nat) (x : Word) (b : Bool) : (c.putW n x b).actId = c.actId := by unfold Ctx.putW; split <;> rfl
@[simp] theorem Ctx.putW_act (c : Ctx) (n : Nat) (x : Word) (b : Bool) : (c.putW n x b).act = c.act := by unfold Ctx.putW; split <;> rfl
@[simp] theorem Ctx.putW_pc (c : Ctx) (n : Nat) (x : Word) (b : Bool) : (c.putW n x b).pc = c.pc := by unfold Ctx.putW; split <;> rfl
@[simp] theorem Ctx.putW_word (c : Ctx) (n : Nat) (x : Word) (b : Bool) : (c.putW n x b).word = c.word := by unfold Ctx.putW; split <;> rfl
@[simp] theorem Ctx.putW_v (c : Ctx) (n : Nat) (x : Word) (b : Bool) : (c.putW n x b).v = c.v := by unfold Ctx.putW; split <;> rfl
@[simp] theorem Ctx.putW_vbad (c : Ctx) (n : Nat) (x : Word) (b : Bool) : (c.putW n x b).vbad = c.vbad := by unfold Ctx.putW; split <;> rfl
@[simp] theorem Ctx.putW_m (c : Ctx) (n : Nat) (x : Word) (b : Bool) : (c.putW n x b).m = c.m := by unfold Ctx.putW; split <;> rfl
@[simp] theorem Ctx.putW_ix (c : Ctx) (n : Nat) (x : Word) (b : Bool) : (c.putW n x b).ix = c.ix := by unfold Ctx.putW; split <;> rfl
@[simp] theorem Ctx.putW_ox (c : Ctx) (n : Nat) (x : Word) (b : Bool) : (c.putW n x b).ox = c.ox := by unfold Ctx.putW; split <;> rfl
@[simp] theorem Ctx.putW_sblk (c : Ctx) (n : Nat) (x : Word) (b : Bool) : (c.putW n x b).sblk = c.sblk := by unfold Ctx.putW; split <;> rfl
@[simp] theorem Ctx.putW_vblk (c : Ctx) (n : Nat) (x : Word) (b : Bool) : (c.putW n x b).vblk = c.vblk := by unfold Ctx.putW; split <;> rfl
@[simp] theorem Ctx.putW_ld (c : Ctx) (n : Nat) (x : Word) (b : Bool) : (c.putW n x b).ld = c.ld := by unfold Ctx.putW; split <;> rfl
@[simp] theorem Ctx.putW_st (c : Ctx) (n : Nat) (x : Word) (b : Bool) : (c.putW n x b).st = c.st := by unfold Ctx.putW; split <;> rfl
@[simp] theorem Ctx.putW_cp (c : Ctx) (n : Nat) (x : Word) (b : Bool) : (c.putW n x b).cp = c.cp := by unfold Ctx.putW; split <;> rfl
@[simp] theorem Ctx.putW_tl (c : Ctx) (n : Nat) (x : Word) (b : Bool) : (c.putW n x b).tl = c.tl := by unfold Ctx.putW; split <;> rfl
@[simp] theorem Ctx.putW_acq (c : Ctx) (n : Nat) (x : Word) (b : Bool) : (c.putW n x b).acq = c.acq := by unfold Ctx.putW; split <;> rfl
@[simp] theorem Ctx.putW_rel (c : Ctx) (n : Nat) (x : Word) (b : Bool) : (c.putW n x b).rel = c.rel := by unfold Ctx.putW; split <;> rfl
@[simp] theorem Ctx.putW_region (c : Ctx) (n : Nat) (x : Word) (b : Bool) : (c.putW n x b).region = c.region := by unfold Ctx.putW; split <;> rfl
@[simp] theorem Ctx.putW_aborts (c : Ctx) (n : Nat) (x : Word) (b : Bool) : (c.putW n x b).aborts = c.aborts := by unfold Ctx.putW; split <;> rfl
@[simp] theorem Ctx.putW_restarting (c : Ctx) (n : Nat) (x : Word) (b : Bool) : (c.putW n x b).restarting = c.restarting := by unfold Ctx.putW; split <;> rfl
@[simp] theorem Ctx.putW_pd (c : Ctx) (n : Nat) (x : Word) (b : Bool) : (c.putW n x b).pd = c.pd := by unfold Ctx.putW; split <;> rfl
@[simp] theorem Ctx.putW_stop (c : Ctx) (n : Nat) (x : Word) (b : Bool) : (c.putW n x b).stop = c.stop := by unfold Ctx.putW; split <;> rfl
@[simp] theorem Ctx.putW_lates (c : Ctx) (n : Nat) (x : Word) (b : Bool) : (c.putW n x b).lates = c.lates := by unfold Ctx.putW; split <;> rfl
@[simp] theorem Ctx.putW_window (c : Ctx) (n : Nat) (x : Word) (b : Bool) : (c.putW n x b).window = c.window := by unfold Ctx.putW; split <;> rfl
@[simp] theorem Ctx.putW_align (c : Ctx) (n : Nat) (x : Word) (b : Bool) : (c.putW n x b).align = c.align := by unfold Ctx.putW; split <;> rfl
@[simp] theorem Ctx.putW_await (c : Ctx) (n : Nat) (x : Word) (b : Bool) : (c.putW n x b).await = c.await := by unfold Ctx.putW; split <;> rfl
@[simp] theorem Ctx.putW_answer (c : Ctx) (n : Nat) (x : Word) (b : Bool) : (c.putW n x b).answer = c.answer := by unfold Ctx.putW; split <;> rfl
@[simp] theorem Ctx.putW_drainReq (c : Ctx) (n : Nat) (x : Word) (b : Bool) : (c.putW n x b).drainReq = c.drainReq := by unfold Ctx.putW; split <;> rfl
@[simp] theorem Ctx.putW_brokeAt (c : Ctx) (n : Nat) (x : Word) (b : Bool) : (c.putW n x b).brokeAt = c.brokeAt := by unfold Ctx.putW; split <;> rfl
@[simp] theorem Ctx.putW_issuedAt (c : Ctx) (n : Nat) (x : Word) (b : Bool) : (c.putW n x b).issuedAt = c.issuedAt := by unfold Ctx.putW; split <;> rfl

@[simp] theorem Ctx.putM_state (c : Ctx) (n : Nat) (x : BitVec 128) : (c.putM n x).state = c.state := by unfold Ctx.putM; split <;> rfl
@[simp] theorem Ctx.putM_level (c : Ctx) (n : Nat) (x : BitVec 128) : (c.putM n x).level = c.level := by unfold Ctx.putM; split <;> rfl
@[simp] theorem Ctx.putM_launch (c : Ctx) (n : Nat) (x : BitVec 128) : (c.putM n x).launch = c.launch := by unfold Ctx.putM; split <;> rfl
@[simp] theorem Ctx.putM_actId (c : Ctx) (n : Nat) (x : BitVec 128) : (c.putM n x).actId = c.actId := by unfold Ctx.putM; split <;> rfl
@[simp] theorem Ctx.putM_act (c : Ctx) (n : Nat) (x : BitVec 128) : (c.putM n x).act = c.act := by unfold Ctx.putM; split <;> rfl
@[simp] theorem Ctx.putM_pc (c : Ctx) (n : Nat) (x : BitVec 128) : (c.putM n x).pc = c.pc := by unfold Ctx.putM; split <;> rfl
@[simp] theorem Ctx.putM_word (c : Ctx) (n : Nat) (x : BitVec 128) : (c.putM n x).word = c.word := by unfold Ctx.putM; split <;> rfl
@[simp] theorem Ctx.putM_w (c : Ctx) (n : Nat) (x : BitVec 128) : (c.putM n x).w = c.w := by unfold Ctx.putM; split <;> rfl
@[simp] theorem Ctx.putM_wbad (c : Ctx) (n : Nat) (x : BitVec 128) : (c.putM n x).wbad = c.wbad := by unfold Ctx.putM; split <;> rfl
@[simp] theorem Ctx.putM_v (c : Ctx) (n : Nat) (x : BitVec 128) : (c.putM n x).v = c.v := by unfold Ctx.putM; split <;> rfl
@[simp] theorem Ctx.putM_vbad (c : Ctx) (n : Nat) (x : BitVec 128) : (c.putM n x).vbad = c.vbad := by unfold Ctx.putM; split <;> rfl
@[simp] theorem Ctx.putM_ix (c : Ctx) (n : Nat) (x : BitVec 128) : (c.putM n x).ix = c.ix := by unfold Ctx.putM; split <;> rfl
@[simp] theorem Ctx.putM_ox (c : Ctx) (n : Nat) (x : BitVec 128) : (c.putM n x).ox = c.ox := by unfold Ctx.putM; split <;> rfl
@[simp] theorem Ctx.putM_sblk (c : Ctx) (n : Nat) (x : BitVec 128) : (c.putM n x).sblk = c.sblk := by unfold Ctx.putM; split <;> rfl
@[simp] theorem Ctx.putM_vblk (c : Ctx) (n : Nat) (x : BitVec 128) : (c.putM n x).vblk = c.vblk := by unfold Ctx.putM; split <;> rfl
@[simp] theorem Ctx.putM_ld (c : Ctx) (n : Nat) (x : BitVec 128) : (c.putM n x).ld = c.ld := by unfold Ctx.putM; split <;> rfl
@[simp] theorem Ctx.putM_st (c : Ctx) (n : Nat) (x : BitVec 128) : (c.putM n x).st = c.st := by unfold Ctx.putM; split <;> rfl
@[simp] theorem Ctx.putM_cp (c : Ctx) (n : Nat) (x : BitVec 128) : (c.putM n x).cp = c.cp := by unfold Ctx.putM; split <;> rfl
@[simp] theorem Ctx.putM_tl (c : Ctx) (n : Nat) (x : BitVec 128) : (c.putM n x).tl = c.tl := by unfold Ctx.putM; split <;> rfl
@[simp] theorem Ctx.putM_acq (c : Ctx) (n : Nat) (x : BitVec 128) : (c.putM n x).acq = c.acq := by unfold Ctx.putM; split <;> rfl
@[simp] theorem Ctx.putM_rel (c : Ctx) (n : Nat) (x : BitVec 128) : (c.putM n x).rel = c.rel := by unfold Ctx.putM; split <;> rfl
@[simp] theorem Ctx.putM_region (c : Ctx) (n : Nat) (x : BitVec 128) : (c.putM n x).region = c.region := by unfold Ctx.putM; split <;> rfl
@[simp] theorem Ctx.putM_aborts (c : Ctx) (n : Nat) (x : BitVec 128) : (c.putM n x).aborts = c.aborts := by unfold Ctx.putM; split <;> rfl
@[simp] theorem Ctx.putM_restarting (c : Ctx) (n : Nat) (x : BitVec 128) : (c.putM n x).restarting = c.restarting := by unfold Ctx.putM; split <;> rfl
@[simp] theorem Ctx.putM_pd (c : Ctx) (n : Nat) (x : BitVec 128) : (c.putM n x).pd = c.pd := by unfold Ctx.putM; split <;> rfl
@[simp] theorem Ctx.putM_stop (c : Ctx) (n : Nat) (x : BitVec 128) : (c.putM n x).stop = c.stop := by unfold Ctx.putM; split <;> rfl
@[simp] theorem Ctx.putM_lates (c : Ctx) (n : Nat) (x : BitVec 128) : (c.putM n x).lates = c.lates := by unfold Ctx.putM; split <;> rfl
@[simp] theorem Ctx.putM_window (c : Ctx) (n : Nat) (x : BitVec 128) : (c.putM n x).window = c.window := by unfold Ctx.putM; split <;> rfl
@[simp] theorem Ctx.putM_align (c : Ctx) (n : Nat) (x : BitVec 128) : (c.putM n x).align = c.align := by unfold Ctx.putM; split <;> rfl
@[simp] theorem Ctx.putM_await (c : Ctx) (n : Nat) (x : BitVec 128) : (c.putM n x).await = c.await := by unfold Ctx.putM; split <;> rfl
@[simp] theorem Ctx.putM_answer (c : Ctx) (n : Nat) (x : BitVec 128) : (c.putM n x).answer = c.answer := by unfold Ctx.putM; split <;> rfl
@[simp] theorem Ctx.putM_drainReq (c : Ctx) (n : Nat) (x : BitVec 128) : (c.putM n x).drainReq = c.drainReq := by unfold Ctx.putM; split <;> rfl
@[simp] theorem Ctx.putM_brokeAt (c : Ctx) (n : Nat) (x : BitVec 128) : (c.putM n x).brokeAt = c.brokeAt := by unfold Ctx.putM; split <;> rfl
@[simp] theorem Ctx.putM_issuedAt (c : Ctx) (n : Nat) (x : BitVec 128) : (c.putM n x).issuedAt = c.issuedAt := by unfold Ctx.putM; split <;> rfl

@[simp] theorem Ctx.setW_state (c : Ctx) (n : Nat) (x : Word) : (c.setW n x).state = c.state := Ctx.putW_state c n x false
@[simp] theorem Ctx.setW_level (c : Ctx) (n : Nat) (x : Word) : (c.setW n x).level = c.level := Ctx.putW_level c n x false
@[simp] theorem Ctx.setW_launch (c : Ctx) (n : Nat) (x : Word) : (c.setW n x).launch = c.launch := Ctx.putW_launch c n x false
@[simp] theorem Ctx.setW_actId (c : Ctx) (n : Nat) (x : Word) : (c.setW n x).actId = c.actId := Ctx.putW_actId c n x false
@[simp] theorem Ctx.setW_act (c : Ctx) (n : Nat) (x : Word) : (c.setW n x).act = c.act := Ctx.putW_act c n x false
@[simp] theorem Ctx.setW_pc (c : Ctx) (n : Nat) (x : Word) : (c.setW n x).pc = c.pc := Ctx.putW_pc c n x false
@[simp] theorem Ctx.setW_word (c : Ctx) (n : Nat) (x : Word) : (c.setW n x).word = c.word := Ctx.putW_word c n x false
@[simp] theorem Ctx.setW_v (c : Ctx) (n : Nat) (x : Word) : (c.setW n x).v = c.v := Ctx.putW_v c n x false
@[simp] theorem Ctx.setW_vbad (c : Ctx) (n : Nat) (x : Word) : (c.setW n x).vbad = c.vbad := Ctx.putW_vbad c n x false
@[simp] theorem Ctx.setW_m (c : Ctx) (n : Nat) (x : Word) : (c.setW n x).m = c.m := Ctx.putW_m c n x false
@[simp] theorem Ctx.setW_ix (c : Ctx) (n : Nat) (x : Word) : (c.setW n x).ix = c.ix := Ctx.putW_ix c n x false
@[simp] theorem Ctx.setW_ox (c : Ctx) (n : Nat) (x : Word) : (c.setW n x).ox = c.ox := Ctx.putW_ox c n x false
@[simp] theorem Ctx.setW_sblk (c : Ctx) (n : Nat) (x : Word) : (c.setW n x).sblk = c.sblk := Ctx.putW_sblk c n x false
@[simp] theorem Ctx.setW_vblk (c : Ctx) (n : Nat) (x : Word) : (c.setW n x).vblk = c.vblk := Ctx.putW_vblk c n x false
@[simp] theorem Ctx.setW_ld (c : Ctx) (n : Nat) (x : Word) : (c.setW n x).ld = c.ld := Ctx.putW_ld c n x false
@[simp] theorem Ctx.setW_st (c : Ctx) (n : Nat) (x : Word) : (c.setW n x).st = c.st := Ctx.putW_st c n x false
@[simp] theorem Ctx.setW_cp (c : Ctx) (n : Nat) (x : Word) : (c.setW n x).cp = c.cp := Ctx.putW_cp c n x false
@[simp] theorem Ctx.setW_tl (c : Ctx) (n : Nat) (x : Word) : (c.setW n x).tl = c.tl := Ctx.putW_tl c n x false
@[simp] theorem Ctx.setW_acq (c : Ctx) (n : Nat) (x : Word) : (c.setW n x).acq = c.acq := Ctx.putW_acq c n x false
@[simp] theorem Ctx.setW_rel (c : Ctx) (n : Nat) (x : Word) : (c.setW n x).rel = c.rel := Ctx.putW_rel c n x false
@[simp] theorem Ctx.setW_region (c : Ctx) (n : Nat) (x : Word) : (c.setW n x).region = c.region := Ctx.putW_region c n x false
@[simp] theorem Ctx.setW_aborts (c : Ctx) (n : Nat) (x : Word) : (c.setW n x).aborts = c.aborts := Ctx.putW_aborts c n x false
@[simp] theorem Ctx.setW_restarting (c : Ctx) (n : Nat) (x : Word) : (c.setW n x).restarting = c.restarting := Ctx.putW_restarting c n x false
@[simp] theorem Ctx.setW_pd (c : Ctx) (n : Nat) (x : Word) : (c.setW n x).pd = c.pd := Ctx.putW_pd c n x false
@[simp] theorem Ctx.setW_stop (c : Ctx) (n : Nat) (x : Word) : (c.setW n x).stop = c.stop := Ctx.putW_stop c n x false
@[simp] theorem Ctx.setW_lates (c : Ctx) (n : Nat) (x : Word) : (c.setW n x).lates = c.lates := Ctx.putW_lates c n x false
@[simp] theorem Ctx.setW_window (c : Ctx) (n : Nat) (x : Word) : (c.setW n x).window = c.window := Ctx.putW_window c n x false
@[simp] theorem Ctx.setW_align (c : Ctx) (n : Nat) (x : Word) : (c.setW n x).align = c.align := Ctx.putW_align c n x false
@[simp] theorem Ctx.setW_await (c : Ctx) (n : Nat) (x : Word) : (c.setW n x).await = c.await := Ctx.putW_await c n x false
@[simp] theorem Ctx.setW_answer (c : Ctx) (n : Nat) (x : Word) : (c.setW n x).answer = c.answer := Ctx.putW_answer c n x false
@[simp] theorem Ctx.setW_drainReq (c : Ctx) (n : Nat) (x : Word) : (c.setW n x).drainReq = c.drainReq := Ctx.putW_drainReq c n x false
@[simp] theorem Ctx.setW_brokeAt (c : Ctx) (n : Nat) (x : Word) : (c.setW n x).brokeAt = c.brokeAt := Ctx.putW_brokeAt c n x false
@[simp] theorem Ctx.setW_issuedAt (c : Ctx) (n : Nat) (x : Word) : (c.setW n x).issuedAt = c.issuedAt := Ctx.putW_issuedAt c n x false

/-- w0 reads zero whatever was written (R259). -/
@[simp] theorem Ctx.getW_zero (c : Ctx) : c.getW 0 = 0 := rfl

/-- m0 reads all ones (R259). -/
@[simp] theorem Ctx.getM_zero (c : Ctx) : c.getM 0 = BitVec.allOnes 128 := rfl

theorem Ctx.putW_zero (c : Ctx) (x : Word) (b : Bool) : c.putW 0 x b = c := rfl

theorem Ctx.putM_zero (c : Ctx) (x : BitVec 128) : c.putM 0 x = c := rfl

theorem Ctx.getW_putW_self (c : Ctx) {n : Nat} (h : n ≠ 0) (x : Word) (b : Bool) : (c.putW n x b).getW n = x := by
  simp [Ctx.getW, Ctx.putW, h]

theorem Ctx.getW_putW_other (c : Ctx) {n j : Nat} (h : j ≠ n) (x : Word) (b : Bool) : (c.putW n x b).getW j = c.getW j := by
  unfold Ctx.putW Ctx.getW
  split
  · rfl
  · split
    · rfl
    · exact Tbl.get_set_other h _ x

theorem Ctx.wbad_putW_self (c : Ctx) {n : Nat} (h : n ≠ 0) (x : Word) (b : Bool) : Tbl.get false (c.putW n x b).wbad n = b := by
  simp [Ctx.putW, h]

theorem Ctx.wbad_putW_other (c : Ctx) {n j : Nat} (h : j ≠ n) (x : Word) (b : Bool) :
    Tbl.get false (c.putW n x b).wbad j = Tbl.get false c.wbad j := by
  unfold Ctx.putW
  split
  · rfl
  · exact Tbl.get_set_other h _ b

@[simp] theorem Ctx.getV_putV_self (c : Ctx) (n : Nat) (x : Vec) (b : Bool) : (c.putV n x b).getV n = x :=
  Tbl.get_set_self _ n x

theorem Ctx.getV_putV_other (c : Ctx) {n j : Nat} (h : j ≠ n) (x : Vec) (b : Bool) : (c.putV n x b).getV j = c.getV j :=
  Tbl.get_set_other h _ x

theorem Ctx.getM_putM_self (c : Ctx) {n : Nat} (h : n ≠ 0) (x : BitVec 128) : (c.putM n x).getM n = x := by
  simp [Ctx.getM, Ctx.putM, h]

theorem Ctx.getM_putM_other (c : Ctx) {n j : Nat} (h : j ≠ n) (x : BitVec 128) : (c.putM n x).getM j = c.getM j := by
  unfold Ctx.putM Ctx.getM
  split
  · rfl
  · split
    · rfl
    · exact Tbl.get_set_other h _ x

@[simp] theorem Ctx.getIx_putIx_self (c : Ctx) (n : Nat) (x : Word) : (c.putIx n x).getIx n = x := Tbl.get_set_self _ n x

theorem Ctx.getIx_putIx_other (c : Ctx) {n j : Nat} (h : j ≠ n) (x : Word) : (c.putIx n x).getIx j = c.getIx j :=
  Tbl.get_set_other h _ x

@[simp] theorem Ctx.getOx_putOx_self (c : Ctx) (n : Nat) (x : Word) : (c.putOx n x).getOx n = x := Tbl.get_set_self _ n x

theorem Ctx.getOx_putOx_other (c : Ctx) {n j : Nat} (h : j ≠ n) (x : Word) : (c.putOx n x).getOx j = c.getOx j :=
  Tbl.get_set_other h _ x

/-- A completed instruction leaves every other context as it was. -/
theorem State.ctx_done_other (s : State) (len : Nat) (c : Ctx) {k : Nat} (h : k ≠ s.cur) : (s.done len c).ctx k = s.ctx k :=
  State.ctx_setCtx_other s _ h

@[simp] theorem State.ctx_done (s : State) (len : Nat) (c : Ctx) : (s.done len c).ctx s.cur = c.next len :=
  State.ctx_setCtx s _ _

@[simp] theorem State.done_cur (s : State) (len : Nat) (c : Ctx) : (s.done len c).cur = s.cur := rfl

end Sys2Proof.Machine
end

