-- ==== Sys2Proof/Laws/Memory.lean ====
section
/-!
SUPPORT. Sys2Proof/Laws/Memory.lean: every operation on memory keeps its canonical form, and a byte written is the byte read.
These are the only operations of the model that write the field mem.
-/

namespace Sys2Proof.Machine

/-! ## The canonical form (log entry 2) -/

theorem Memory.wf_reset : Memory.wf State.reset.mem = true := rfl

theorem Memory.wf_pokeByte {s : State} (h : Memory.wf s.mem = true) (key : Nat) (b : Byte) (bad : Bool) :
    Memory.wf (s.pokeByte key b bad).mem = true := Tbl.wf_set h key b

theorem Memory.wf_pokeBytes {s : State} (h : Memory.wf s.mem = true) (key : Nat) (bad : Bool) (bs : List Byte) :
    Memory.wf (s.pokeBytes key bad bs).mem = true := by
  induction bs generalizing s key with
  | nil => exact h
  | cons b r ih => exact ih (Memory.wf_pokeByte h key b bad) (key + 1)

/-- Bytes put one by one at computed keys keep the form. -/
theorem Memory.wf_fold {s : State} (h : Memory.wf s.mem = true) (f : Nat → Nat) (l : List (Nat × Byte)) :
    Memory.wf (l.foldl (fun (t : State) p => { t with mem := Tbl.set 0 t.mem (f p.1) p.2 }) s).mem = true := by
  induction l generalizing s with
  | nil => exact h
  | cons p r ih =>
    rw [List.foldl_cons]
    exact ih (Tbl.wf_set h (f p.1) p.2)

theorem Memory.wf_rekeyLine {s : State} (h : Memory.wf s.mem = true) (kid line : Nat) :
    Memory.wf (s.rekeyLine kid line).mem = true := by
  unfold State.rekeyLine
  split
  · exact h
  · exact Memory.wf_fold h (fun n => line * 64 + n) _

theorem Memory.wf_writeByte {s : State} (h : Memory.wf s.mem = true) (kid key : Nat) (b : Byte) (bad : Bool) :
    Memory.wf (s.writeByte kid key b bad).mem = true :=
  Memory.wf_pokeByte (Memory.wf_rekeyLine h kid (key / 64)) key b bad

theorem Memory.wf_writeBytes {s : State} (h : Memory.wf s.mem = true) (kid key : Nat) (bad : Bool) (l : List (Nat × Byte)) :
    Memory.wf (s.writeBytes kid key bad l).mem = true := by
  induction l generalizing s with
  | nil => exact h
  | cons p r ih => exact ih (Memory.wf_writeByte h kid (key + p.1) p.2 bad)

theorem Memory.wf_writeList {s : State} (h : Memory.wf s.mem = true) (kid key : Nat) (bad : Bool) (bs : List Byte) :
    Memory.wf (s.writeList kid key bad bs).mem = true := Memory.wf_writeBytes h kid key bad _

theorem Memory.wf_writeDword {s : State} (h : Memory.wf s.mem = true) (key : Nat) (x : Word) :
    Memory.wf (s.writeDword key x).mem = true := Memory.wf_writeList h 0 key false _

theorem Memory.wf_zeroRange {s : State} (h : Memory.wf s.mem = true) (lo hi : Nat) :
    Memory.wf (s.zeroRange lo hi).mem = true := Tbl.wf_clear h lo hi

/-- Every listed value of a canonical table differs from what an unlisted key reads as. -/
theorem Tbl.ne_of_mem {α : Type} [DecidableEq α] {d : α} {n : Nat} {t : Tbl α} (h : Tbl.wfFrom d n t = true) {e : Nat × α}
    (he : e ∈ t) : e.2 ≠ d := by
  induction t generalizing n with
  | nil => cases he
  | cons e' r ih =>
    have hr := Tbl.wfFrom_cons.1 h
    rcases List.mem_cons.1 he with rfl | he
    · exact hr.2.1
    · exact ih hr.2.2 he

theorem Tbl.wf_moveRange {α : Type} [DecidableEq α] {d : α} {t : Tbl α} (h : Tbl.wf d t = true) (lo n to_ : Nat) :
    Tbl.wf d (moveRange t lo n to_) = true := by
  refine List.foldlRecOn _ _ (motive := fun u => Tbl.wf d u = true) (Tbl.wf_clear (Tbl.wf_clear h lo (lo + n)) to_ (to_ + n)) ?_
  intro u moved entry listed
  exact Tbl.wfFrom_insert moved (Nat.zero_le _) (Tbl.ne_of_mem h (List.mem_filter.1 listed).1)

theorem Memory.wf_moveBytes {s : State} (h : Memory.wf s.mem = true) (lo n to_ : Nat) :
    Memory.wf (s.moveBytes lo n to_).mem = true := Tbl.wf_moveRange h lo n to_

/-! ## Read after write -/

@[simp] theorem State.mem_get_pokeByte (s : State) (key : Nat) (b : Byte) (bad : Bool) :
    Tbl.get 0 (s.pokeByte key b bad).mem key = b := Tbl.get_set_self _ key b

theorem State.mem_get_pokeByte_other (s : State) {key a : Nat} (h : a ≠ key) (b : Byte) (bad : Bool) :
    Tbl.get 0 (s.pokeByte key b bad).mem a = Tbl.get 0 s.mem a := Tbl.get_set_other h _ b

/-- Under the key that its line is written with, a byte reads as it stands. -/
theorem State.readByte_of_key {s : State} {kid key : Nat} (h : Tbl.get 0 s.lineKey (key / 64) = kid) :
    s.readByte kid key = Tbl.get 0 s.mem key := by
  simp [State.readByte, h]

theorem State.rekeyLine_of_key {s : State} {kid line : Nat} (h : Tbl.get 0 s.lineKey line = kid) : s.rekeyLine kid line = s :=
  if_pos h

theorem State.lineKey_fold (f : Nat → Nat) (l : List (Nat × Byte)) (s : State) :
    (l.foldl (fun (t : State) p => { t with mem := Tbl.set 0 t.mem (f p.1) p.2 }) s).lineKey = s.lineKey := by
  induction l generalizing s with
  | nil => rfl
  | cons p r ih => rw [List.foldl_cons, ih]

theorem State.lineKey_rekeyLine (s : State) (kid line : Nat) : Tbl.get 0 (s.rekeyLine kid line).lineKey line = kid := by
  unfold State.rekeyLine
  split
  · assumption
  · exact Tbl.get_set_self _ line kid

/-- A byte stored under a key reads back under that key (R195, R196). -/
theorem State.readByte_writeByte_self (s : State) (kid key : Nat) (b : Byte) (bad : Bool) :
    (s.writeByte kid key b bad).readByte kid key = b := by
  rw [State.readByte_of_key]
  · exact State.mem_get_pokeByte _ key b bad
  · exact State.lineKey_rekeyLine s kid (key / 64)

/-- A byte stored leaves the bytes of other lines as they were, under every key. -/
theorem State.readByte_pokeByte_line (s : State) {key a : Nat} (h : a / 64 ≠ key / 64) (kid : Nat) (b : Byte) (bad : Bool) :
    (s.pokeByte key b bad).readByte kid a = s.readByte kid a := by
  have hm : ∀ x : Nat, x / 64 = a / 64 → Tbl.get 0 (s.pokeByte key b bad).mem x = Tbl.get 0 s.mem x := fun x hx =>
    State.mem_get_pokeByte_other s (fun e => h (by rw [← hx, e])) b bad
  have hl : (s.pokeByte key b bad).lineAs kid (a / 64) = s.lineAs kid (a / 64) := by
    have : (List.range 64).map (fun i => Tbl.get 0 (s.pokeByte key b bad).mem (a / 64 * 64 + i)) =
        (List.range 64).map (fun i => Tbl.get 0 s.mem (a / 64 * 64 + i)) :=
      List.map_congr_left (fun i hi => hm _ (by have := List.mem_range.1 hi; omega))
    unfold State.lineAs
    rw [this]
    rfl
  unfold State.readByte
  rw [hl, hm a rfl]
  rfl

/-- Under its own key a line reads as its bytes stand, and every other byte as before. -/
theorem State.readByte_pokeByte_other {s : State} {kid key a : Nat} (hk : Tbl.get 0 s.lineKey (a / 64) = kid) (h : a ≠ key) (b : Byte)
    (bad : Bool) : (s.pokeByte key b bad).readByte kid a = s.readByte kid a := by
  rw [State.readByte_of_key (s := s) hk, State.readByte_of_key (s := s.pokeByte key b bad) hk]
  exact State.mem_get_pokeByte_other s h b bad

/-- Where both lines already lie under the key, a store leaves every other byte under that key as it was. -/
theorem State.readByte_writeByte_other (s : State) {kid key a : Nat} (hk : Tbl.get 0 s.lineKey (key / 64) = kid) (h : a ≠ key)
    (ha : Tbl.get 0 s.lineKey (a / 64) = kid) (b : Byte) (bad : Bool) : (s.writeByte kid key b bad).readByte kid a = s.readByte kid a := by
  rw [State.writeByte, State.rekeyLine_of_key hk, State.readByte_pokeByte_other ha h]

end Sys2Proof.Machine
end

