-- ==== Sys2Proof/Laws/Ops.lean ====
section
/-!
SUPPORT. Sys2Proof/Laws/Ops.lean: what the shared operations do: the checks before an instruction's body, completing it, waiting,
and stopping for an exception.
-/

namespace Sys2Proof.Machine

variable {s : State} {need : Need} {body : State → Out}

/-- The checks of R245, in their order, as one case each. -/
inductive Issued (s : State) (need : Need) (body : State → Out) : Out → Prop where
  | denied : need.level.rank > (s.level s.cur).rank → Issued s need body (s.trap 0x19 0)
  | absent : Issued s need body (s.trap 2 0)
  | unheld (n : Nat) : (s.ctx s.cur).unheld need = some n → Issued s need body (s.trap 5 n)
  | poison : Issued s need body (s.trap 0x14 0)
  | waits : s.registersBusy s.cur need = true → Issued s need body (s.waitFor (s.registersSlow s.cur need))
  | issues : s.ready need = true → Issued s need body (body s)

/-- What the checks of R245 mean when all of them pass. -/
theorem State.ready_iff : s.ready need = true ↔
    need.level.rank ≤ (s.level s.cur).rank ∧ unitPresent need.unit (unitOf s.cur) (roleOf s.cur) = true ∧
      (s.ctx s.cur).unheld need = none ∧ need.reads.any (fun n => Tbl.get false (s.ctx s.cur).wbad n) = false ∧
      s.registersBusy s.cur need = false := by
  simp [State.ready, State.mayIssue, and_assoc, Option.isNone_iff_eq_none]

/-- An instruction whose checks all pass has its own effect. -/
theorem State.issue_of_ready (h : s.ready need = true) : s.issue need body = body s := by
  obtain ⟨h1, h2, h3, h4, h5⟩ := State.ready_iff.1 h
  unfold State.issue
  simp only [h2, h3, h4, h5, Nat.not_lt.2 h1, if_false, Bool.not_true, Bool.false_eq_true]

/-- Everything that issuing an instruction can do: its own effect, one of four traps, or a wait. -/
theorem State.issue_cases : Issued s need body (s.issue need body) := by
  have hr : s.ready need = true ↔ _ := State.ready_iff
  unfold State.issue
  simp only
  by_cases h1 : (s.level s.cur).rank < need.level.rank
  · rw [if_pos h1]
    exact .denied h1
  by_cases h2 : unitPresent need.unit (unitOf s.cur) (roleOf s.cur) = true
  · rw [if_neg h1, h2]
    cases h3 : (s.ctx s.cur).unheld need with
    | some n => exact .unheld n h3
    | none =>
      cases h4 : s.registersBusy s.cur need
      · cases h5 : need.reads.any (fun n => Tbl.get false (s.ctx s.cur).wbad n)
        · exact .issues (hr.2 ⟨Nat.not_lt.1 h1, h2, h3, h5, h4⟩)
        · exact .poison
      · exact .waits h4
  · rw [if_neg h1, Bool.eq_false_iff.2 h2]
    exact .absent

/-- Outside a region an irrevocable effect takes place at once (R118). -/
theorem State.irrevocably_of_none (h : (s.ctx s.cur).region = none) : s.irrevocably body = body s := by
  simp [State.irrevocably, h]

/-- In a region that is irrevocable already it takes place too. -/
theorem State.irrevocably_of_irrevocable {r : OpenRegion} (h : (s.ctx s.cur).region = some r)
    (hp : (s.slot r.slot).phase = .irrevocable) : s.irrevocably body = body s := by
  simp [State.irrevocably, h, hp]

/-- A trap of code at level H stops the context (R159). -/
theorem State.trap_at_h (h : s.level s.cur = .h) (cause sub : Nat) :
    s.trap cause sub = .next (s.stopCtx s.cur { cause := cause, subcode := sub, faultPc := (s.ctx s.cur).pc, faultAddr := 0,
                                                word := (s.ctx s.cur).word, resumePc := (s.ctx s.cur).pc }) := by
  simp [State.trap, State.trapAt, h, Level.rank]

/-- A trap of code above level H is the model's named stop. -/
theorem State.trap_above_h (h : s.level s.cur ≠ .h) (cause sub : Nat) : s.trap cause sub = .fault (.supervisorTrap cause sub) := by
  unfold State.trap State.trapAt
  rw [if_pos]
  revert h
  cases s.level s.cur <;> simp [Level.rank]

/-- A context outside any region and task that stops holds the cause, and its program counter and registers stay (R159). -/
theorem State.ctx_stopCtx {k : Nat} {st : Stop} (hr : (s.ctx k).region = none) (ha : ∀ a, (s.ctx k).act = some a → a.tcb = none) :
    (s.stopCtx k st).ctx k = { s.ctx k with state := .stopped, stop := some st, window := none, align := none } := by
  have hu : (s.unwait k).ctx k = s.ctx k := rfl
  unfold State.stopCtx
  simp only [hu, hr]
  split
  · exact State.ctx_setCtx _ k _
  · rw [State.ctx_setCtx]
    split
    · next h => simp [ha _ h]
    · simp

/-- Taking a trap moves the context to STOPPED with the cause, the subcode and the PC of the instruction (R159, R161). -/
theorem State.trap_stops (h : s.level s.cur = .h) (hr : s.me.region = none) (ha : ∀ a, s.me.act = some a → a.tcb = none)
    (cause sub : Nat) : ∃ t, s.trap cause sub = .next t ∧ StoppedFor t s.cur cause sub := by
  refine ⟨_, State.trap_at_h h cause sub, ?_⟩
  simp [StoppedFor, State.ctx_stopCtx hr ha]

/-- Completing an instruction with a result leaves all but the current context's registers, PC and state as they were. -/
theorem State.result_changes (s : State) (len d : Nat) (x : Word) : ChangesScalars s (s.result len d x) [d] := by
  refine ⟨⟨rfl, fun k hk => State.ctx_done_other s len _ hk, fun _ _ => rfl⟩, ?_, fun n hn => ?_⟩
  · simp only [State.me, State.result, State.done_cur, State.ctx_done]
    unfold Ctx.setW Ctx.putW
    split <;> rfl
  · have hd : n ≠ d := by simpa using hn
    refine ⟨?_, ?_⟩
    · show ((s.done len _).ctx s.cur).getW n = _
      rw [State.ctx_done]
      exact Ctx.getW_putW_other (s.ctx s.cur) hd x false
    · show Tbl.get false ((s.done len _).ctx s.cur).wbad n = _
      rw [State.ctx_done]
      exact Ctx.wbad_putW_other (s.ctx s.cur) hd x false

/-- The register named holds the result, unless it is w0 (R259). -/
theorem State.result_reads (s : State) (len : Nat) {d : Nat} (h : d ≠ 0) (x : Word) : (s.result len d x).me.getW d = x := by
  show ((s.done len _).ctx s.cur).getW d = x
  rw [State.ctx_done]
  exact Ctx.getW_putW_self (s.ctx s.cur) h x false

/-- The PC has moved past the instruction (R243). -/
theorem State.result_pc (s : State) (len d : Nat) (x : Word) : (s.result len d x).me.pc = s.me.pc + BitVec.ofNat 64 len := by
  show ((s.done len _).ctx s.cur).pc = _
  rw [State.ctx_done]
  simp [Ctx.next, State.me]

end Sys2Proof.Machine
end

