-- ==== Sys2Proof/Laws/PerInstr.lean ====
section
/-!
SUPPORT. Sys2Proof/Laws/PerInstr.lean: what the encoder writes, the decoder reads back, one lemma for each constructor.
-/

namespace Sys2Proof

theorem bits_eq {n : Nat} (x : BitVec n) {w lo : Nat} (h : fld w lo n = x.toNat) : bits w lo n = x := by
  rw [bits, h, BitVec.ofNat_toNat, BitVec.setWidth_eq]

theorem orIllegal_of {c : Bool} {i : Instr} (hc : c = true) (hi : i.wellFormed = true) : orIllegal c i = some i := by
  rw [orIllegal, hc, hi]; rfl

theorem decode_word {w : Nat} {i : Instr} (hw : w < 2 ^ 32) (ho : w % 2 = 1) (hd : decode32 w = some i) (rest : List Byte) :
    decode (leBytes 4 w ++ rest) = .ok (i, 4) := by
  have hb : (BitVec.ofNat 8 w).toNat % 2 = 1 := by rw [BitVec.toNat_ofNat]; omega
  have hn : leNat [BitVec.ofNat 8 w, BitVec.ofNat 8 (w / 256), BitVec.ofNat 8 (w / 256 / 256), BitVec.ofNat 8 (w / 256 / 256 / 256)] = w := by
    simp only [leNat, BitVec.toNat_ofNat]; omega
  simp only [leBytes, List.cons_append, List.nil_append, decode, hb, hn, decodeWord, ho, hd]
  rfl

theorem decode_half {w : Nat} {i : Instr} (hw : w < 2 ^ 16) (ho : w % 2 = 0) (hd : decode16 w = some i) (rest : List Byte) :
    decode (leBytes 2 w ++ rest) = .ok (i, 2) := by
  have hb : (BitVec.ofNat 8 w).toNat % 2 = 0 := by rw [BitVec.toNat_ofNat]; omega
  have hn : leNat [BitVec.ofNat 8 w, BitVec.ofNat 8 (w / 256)] = w := by
    simp only [leNat, BitVec.toNat_ofNat]; omega
  have hm : w % 65536 = w := Nat.mod_eq_of_lt hw
  simp only [leBytes, List.cons_append, List.nil_append, decode, hb, hn, decodeWord, ho, hm, hd]
  rfl

namespace Laws

/-- The bytes of a well-formed instruction's encoding decode to that instruction, with its length, whatever bytes follow (R243,
R245 to R257); an instruction without an encoding has nothing to show. -/
def RoundTrip.Statement (i : Instr) : Prop :=
  i.wellFormed = true → ∀ n w, encode i = some (n, w) → ∀ rest, decode (leBytes (n / 8) w ++ rest) = .ok (i, n / 8)

theorem RoundTrip.ofWord {i : Instr} {w : Nat} (he : encode i = some (32, w)) (hw : w < 2 ^ 32) (ho : w % 2 = 1)
    (hd : i.wellFormed = true → decode32 w = some i) : Statement i := by
  intro hi n v hv rest
  rw [he] at hv
  cases hv
  exact decode_word hw ho (hd hi) rest

theorem RoundTrip.ofHalf {i : Instr} {w : Nat} (he : encode i = some (16, w)) (hw : w < 2 ^ 16) (ho : w % 2 = 0)
    (hd : i.wellFormed = true → decode16 w = some i) : Statement i := by
  intro hi n v hv rest
  rw [he] at hv
  cases hv
  exact decode_half hw ho (hd hi) rest

theorem RoundTrip.ofNone {i : Instr} (he : encode i = none) : Statement i := by
  intro _ n w h
  rw [he] at h
  cases h

/-! ## The shapes of words: operands beside a constant -/

theorem word1 {k : Nat} (x0 : BitVec 6) (x1 : BitVec 6) (x2 : BitVec 6) (hk : k < 2 ^ 32 ∧ fld k 8 6 = 0 ∧ fld k 14 6 = 0 ∧ fld k 20 6 = 0 ∧ k % 2 = 1) :
    ∃ e, e = k + x0.toNat * 256 + x1.toNat * 16384 + x2.toNat * 1048576 ∧ e < 2 ^ 32 ∧ e % 2 = 1 ∧ fld e 0 8 = fld k 0 8 ∧ fld e 26 6 = fld k 26 6 ∧ bits e 8 6 = x0 ∧ bits e 14 6 = x1 ∧ bits e 20 6 = x2 := by
  simp only [fld] at hk
  have h0 := x0.isLt
  have h1 := x1.isLt
  have h2 := x2.isLt
  exact ⟨_, rfl, by
    and_intros <;> (try apply bits_eq) <;> (try unfold fld) <;> omega⟩

theorem word2 {k : Nat} (x0 : BitVec 6) (x1 : BitVec 6) (hk : k < 2 ^ 32 ∧ fld k 8 6 = 0 ∧ fld k 14 6 = 0 ∧ k % 2 = 1) :
    ∃ e, e = k + x0.toNat * 256 + x1.toNat * 16384 ∧ e < 2 ^ 32 ∧ e % 2 = 1 ∧ fld e 0 8 = fld k 0 8 ∧ fld e 26 6 = fld k 26 6 ∧ fld e 20 6 = fld k 20 6 ∧ bits e 8 6 = x0 ∧ bits e 14 6 = x1 := by
  simp only [fld] at hk
  have h0 := x0.isLt
  have h1 := x1.isLt
  exact ⟨_, rfl, by
    and_intros <;> (try apply bits_eq) <;> (try unfold fld) <;> omega⟩

theorem word3 {k : Nat} (x0 : BitVec 6) (x1 : BitVec 6) (x2 : BitVec 12) (hk : k < 2 ^ 32 ∧ fld k 8 6 = 0 ∧ fld k 14 6 = 0 ∧ fld k 20 12 = 0 ∧ k % 2 = 1) :
    ∃ e, e = k + x0.toNat * 256 + x1.toNat * 16384 + x2.toNat * 1048576 ∧ e < 2 ^ 32 ∧ e % 2 = 1 ∧ fld e 0 8 = fld k 0 8 ∧ bits e 8 6 = x0 ∧ bits e 14 6 = x1 ∧ bits e 20 12 = x2 := by
  simp only [fld] at hk
  have h0 := x0.isLt
  have h1 := x1.isLt
  have h2 := x2.isLt
  exact ⟨_, rfl, by
    and_intros <;> (try apply bits_eq) <;> (try unfold fld) <;> omega⟩

theorem word4 {k : Nat} (x0 : BitVec 6) (x1 : BitVec 18) (hk : k < 2 ^ 32 ∧ fld k 8 6 = 0 ∧ fld k 14 18 = 0 ∧ k % 2 = 1) :
    ∃ e, e = k + x0.toNat * 256 + x1.toNat * 16384 ∧ e < 2 ^ 32 ∧ e % 2 = 1 ∧ fld e 0 8 = fld k 0 8 ∧ bits e 8 6 = x0 ∧ bits e 14 18 = x1 := by
  simp only [fld] at hk
  have h0 := x0.isLt
  have h1 := x1.isLt
  exact ⟨_, rfl, by
    and_intros <;> (try apply bits_eq) <;> (try unfold fld) <;> omega⟩

theorem word5 {k : Nat} (x0 : BitVec 6) (x1 : BitVec 6) (hk : k < 2 ^ 32 ∧ fld k 14 6 = 0 ∧ fld k 20 6 = 0 ∧ k % 2 = 1) :
    ∃ e, e = k + x0.toNat * 16384 + x1.toNat * 1048576 ∧ e < 2 ^ 32 ∧ e % 2 = 1 ∧ fld e 0 8 = fld k 0 8 ∧ fld e 26 6 = fld k 26 6 ∧ fld e 8 6 = fld k 8 6 ∧ bits e 14 6 = x0 ∧ bits e 20 6 = x1 := by
  simp only [fld] at hk
  have h0 := x0.isLt
  have h1 := x1.isLt
  exact ⟨_, rfl, by
    and_intros <;> (try apply bits_eq) <;> (try unfold fld) <;> omega⟩

theorem word6 {k : Nat} (x0 : BitVec 2) (x1 : BitVec 6) (hk : k < 2 ^ 32 ∧ fld k 8 2 = 0 ∧ fld k 14 6 = 0 ∧ k % 2 = 1) :
    ∃ e, e = k + x0.toNat * 256 + x1.toNat * 16384 ∧ e < 2 ^ 32 ∧ e % 2 = 1 ∧ fld e 0 8 = fld k 0 8 ∧ fld e 26 6 = fld k 26 6 ∧ fld e 10 4 = fld k 10 4 ∧ fld e 20 6 = fld k 20 6 ∧ bits e 8 2 = x0 ∧ bits e 14 6 = x1 := by
  simp only [fld] at hk
  have h0 := x0.isLt
  have h1 := x1.isLt
  exact ⟨_, rfl, by
    and_intros <;> (try apply bits_eq) <;> (try unfold fld) <;> omega⟩

theorem word7 {k : Nat} (x0 : BitVec 3) (x1 : BitVec 6) (hk : k < 2 ^ 32 ∧ fld k 8 3 = 0 ∧ fld k 14 6 = 0 ∧ k % 2 = 1) :
    ∃ e, e = k + x0.toNat * 256 + x1.toNat * 16384 ∧ e < 2 ^ 32 ∧ e % 2 = 1 ∧ fld e 0 8 = fld k 0 8 ∧ fld e 26 6 = fld k 26 6 ∧ fld e 11 3 = fld k 11 3 ∧ fld e 20 6 = fld k 20 6 ∧ bits e 8 3 = x0 ∧ bits e 14 6 = x1 := by
  simp only [fld] at hk
  have h0 := x0.isLt
  have h1 := x1.isLt
  exact ⟨_, rfl, by
    and_intros <;> (try apply bits_eq) <;> (try unfold fld) <;> omega⟩

theorem word8 {k : Nat} (x0 : BitVec 6) (x1 : BitVec 3) (hk : k < 2 ^ 32 ∧ fld k 8 6 = 0 ∧ fld k 14 3 = 0 ∧ k % 2 = 1) :
    ∃ e, e = k + x0.toNat * 256 + x1.toNat * 16384 ∧ e < 2 ^ 32 ∧ e % 2 = 1 ∧ fld e 0 8 = fld k 0 8 ∧ fld e 26 6 = fld k 26 6 ∧ fld e 17 9 = fld k 17 9 ∧ bits e 8 6 = x0 ∧ bits e 14 3 = x1 := by
  simp only [fld] at hk
  have h0 := x0.isLt
  have h1 := x1.isLt
  exact ⟨_, rfl, by
    and_intros <;> (try apply bits_eq) <;> (try unfold fld) <;> omega⟩

theorem word9 {k : Nat} (x0 : BitVec 6) (x1 : BitVec 2) (x2 : BitVec 12) (hk : k < 2 ^ 32 ∧ fld k 8 6 = 0 ∧ fld k 14 2 = 0 ∧ fld k 20 12 = 0 ∧ k % 2 = 1) :
    ∃ e, e = k + x0.toNat * 256 + x1.toNat * 16384 + x2.toNat * 1048576 ∧ e < 2 ^ 32 ∧ e % 2 = 1 ∧ fld e 0 8 = fld k 0 8 ∧ fld e 16 4 = fld k 16 4 ∧ bits e 8 6 = x0 ∧ bits e 14 2 = x1 ∧ bits e 20 12 = x2 := by
  simp only [fld] at hk
  have h0 := x0.isLt
  have h1 := x1.isLt
  have h2 := x2.isLt
  exact ⟨_, rfl, by
    and_intros <;> (try apply bits_eq) <;> (try unfold fld) <;> omega⟩

theorem word10 {k : Nat} (x0 : BitVec 24) (hk : k < 2 ^ 32 ∧ fld k 8 24 = 0 ∧ k % 2 = 1) :
    ∃ e, e = k + x0.toNat * 256 ∧ e < 2 ^ 32 ∧ e % 2 = 1 ∧ fld e 0 8 = fld k 0 8 ∧ bits e 8 24 = x0 := by
  simp only [fld] at hk
  have h0 := x0.isLt
  exact ⟨_, rfl, by
    and_intros <;> (try apply bits_eq) <;> (try unfold fld) <;> omega⟩

theorem word11 {k : Nat} (x0 : BitVec 6) (hk : k < 2 ^ 32 ∧ fld k 14 6 = 0 ∧ k % 2 = 1) :
    ∃ e, e = k + x0.toNat * 16384 ∧ e < 2 ^ 32 ∧ e % 2 = 1 ∧ fld e 0 8 = fld k 0 8 ∧ fld e 26 6 = fld k 26 6 ∧ fld e 8 6 = fld k 8 6 ∧ fld e 20 6 = fld k 20 6 ∧ bits e 14 6 = x0 := by
  simp only [fld] at hk
  have h0 := x0.isLt
  exact ⟨_, rfl, by
    and_intros <;> (try apply bits_eq) <;> (try unfold fld) <;> omega⟩

theorem word12 {k : Nat} (x0 : BitVec 6) (x1 : BitVec 12) (hk : k < 2 ^ 32 ∧ fld k 8 6 = 0 ∧ fld k 20 12 = 0 ∧ k % 2 = 1) :
    ∃ e, e = k + x0.toNat * 256 + x1.toNat * 1048576 ∧ e < 2 ^ 32 ∧ e % 2 = 1 ∧ fld e 0 8 = fld k 0 8 ∧ fld e 14 6 = fld k 14 6 ∧ bits e 8 6 = x0 ∧ bits e 20 12 = x1 := by
  simp only [fld] at hk
  have h0 := x0.isLt
  have h1 := x1.isLt
  exact ⟨_, rfl, by
    and_intros <;> (try apply bits_eq) <;> (try unfold fld) <;> omega⟩

theorem word13 {k : Nat} (x0 : BitVec 6) (hk : k < 2 ^ 32 ∧ fld k 14 6 = 0 ∧ k % 2 = 1) :
    ∃ e, e = k + x0.toNat * 16384 ∧ e < 2 ^ 32 ∧ e % 2 = 1 ∧ fld e 0 8 = fld k 0 8 ∧ fld e 8 6 = fld k 8 6 ∧ fld e 20 12 = fld k 20 12 ∧ bits e 14 6 = x0 := by
  simp only [fld] at hk
  have h0 := x0.isLt
  exact ⟨_, rfl, by
    and_intros <;> (try apply bits_eq) <;> (try unfold fld) <;> omega⟩

theorem word14 {k : Nat} (x0 : BitVec 1) (x1 : BitVec 12) (hk : k < 2 ^ 32 ∧ fld k 8 1 = 0 ∧ fld k 20 12 = 0 ∧ k % 2 = 1) :
    ∃ e, e = k + x0.toNat * 256 + x1.toNat * 1048576 ∧ e < 2 ^ 32 ∧ e % 2 = 1 ∧ fld e 0 8 = fld k 0 8 ∧ fld e 9 11 = fld k 9 11 ∧ bits e 8 1 = x0 ∧ bits e 20 12 = x1 := by
  simp only [fld] at hk
  have h0 := x0.isLt
  have h1 := x1.isLt
  exact ⟨_, rfl, by
    and_intros <;> (try apply bits_eq) <;> (try unfold fld) <;> omega⟩

theorem word15 {k : Nat} (x0 : BitVec 6) (x1 : BitVec 6) (x2 : BitVec 2) (hk : k < 2 ^ 32 ∧ fld k 8 6 = 0 ∧ fld k 14 6 = 0 ∧ fld k 26 2 = 0 ∧ k % 2 = 1) :
    ∃ e, e = k + x0.toNat * 256 + x1.toNat * 16384 + x2.toNat * 67108864 ∧ e < 2 ^ 32 ∧ e % 2 = 1 ∧ fld e 0 8 = fld k 0 8 ∧ fld e 20 6 = fld k 20 6 ∧ fld e 28 4 = fld k 28 4 ∧ bits e 8 6 = x0 ∧ bits e 14 6 = x1 ∧ bits e 26 2 = x2 := by
  simp only [fld] at hk
  have h0 := x0.isLt
  have h1 := x1.isLt
  have h2 := x2.isLt
  exact ⟨_, rfl, by
    and_intros <;> (try apply bits_eq) <;> (try unfold fld) <;> omega⟩

theorem word16 {k : Nat} (x0 : BitVec 2) (x1 : BitVec 3) (hk : k < 2 ^ 32 ∧ fld k 20 2 = 0 ∧ fld k 22 3 = 0 ∧ k % 2 = 1) :
    ∃ e, e = k + x0.toNat * 1048576 + x1.toNat * 4194304 ∧ e < 2 ^ 32 ∧ e % 2 = 1 ∧ fld e 0 8 = fld k 0 8 ∧ fld e 8 12 = fld k 8 12 ∧ fld e 25 7 = fld k 25 7 ∧ bits e 20 2 = x0 ∧ bits e 22 3 = x1 := by
  simp only [fld] at hk
  have h0 := x0.isLt
  have h1 := x1.isLt
  exact ⟨_, rfl, by
    and_intros <;> (try apply bits_eq) <;> (try unfold fld) <;> omega⟩

theorem word17 {k : Nat} (x0 : BitVec 6) (x1 : BitVec 12) (hk : k < 2 ^ 32 ∧ fld k 14 6 = 0 ∧ fld k 20 12 = 0 ∧ k % 2 = 1) :
    ∃ e, e = k + x0.toNat * 16384 + x1.toNat * 1048576 ∧ e < 2 ^ 32 ∧ e % 2 = 1 ∧ fld e 0 8 = fld k 0 8 ∧ fld e 8 6 = fld k 8 6 ∧ bits e 14 6 = x0 ∧ bits e 20 12 = x1 := by
  simp only [fld] at hk
  have h0 := x0.isLt
  have h1 := x1.isLt
  exact ⟨_, rfl, by
    and_intros <;> (try apply bits_eq) <;> (try unfold fld) <;> omega⟩

theorem word18 {k : Nat} (x0 : BitVec 6) (x1 : BitVec 6) (x2 : BitVec 6) (x3 : BitVec 1) (hk : k < 2 ^ 32 ∧ fld k 8 6 = 0 ∧ fld k 14 6 = 0 ∧ fld k 20 6 = 0 ∧ fld k 26 1 = 0 ∧ k % 2 = 1) :
    ∃ e, e = k + x0.toNat * 256 + x1.toNat * 16384 + x2.toNat * 1048576 + x3.toNat * 67108864 ∧ e < 2 ^ 32 ∧ e % 2 = 1 ∧ fld e 0 8 = fld k 0 8 ∧ fld e 27 5 = fld k 27 5 ∧ bits e 8 6 = x0 ∧ bits e 14 6 = x1 ∧ bits e 20 6 = x2 ∧ bits e 26 1 = x3 := by
  simp only [fld] at hk
  have h0 := x0.isLt
  have h1 := x1.isLt
  have h2 := x2.isLt
  have h3 := x3.isLt
  exact ⟨_, rfl, by
    and_intros <;> (try apply bits_eq) <;> (try unfold fld) <;> omega⟩

theorem word19 {k : Nat} (x0 : BitVec 6) (x1 : BitVec 6) (x2 : BitVec 6) (hk : k < 2 ^ 32 ∧ fld k 8 6 = 0 ∧ fld k 14 6 = 0 ∧ fld k 20 6 = 0 ∧ k % 2 = 1) :
    ∃ e, e = k + x0.toNat * 256 + x1.toNat * 16384 + x2.toNat * 1048576 ∧ e < 2 ^ 32 ∧ e % 2 = 1 ∧ fld e 0 8 = fld k 0 8 ∧ fld e 27 5 = fld k 27 5 ∧ fld e 26 1 = fld k 26 1 ∧ bits e 8 6 = x0 ∧ bits e 14 6 = x1 ∧ bits e 20 6 = x2 := by
  simp only [fld] at hk
  have h0 := x0.isLt
  have h1 := x1.isLt
  have h2 := x2.isLt
  exact ⟨_, rfl, by
    and_intros <;> (try apply bits_eq) <;> (try unfold fld) <;> omega⟩

theorem word20 {k : Nat} (x0 : BitVec 5) (x1 : BitVec 5) (x2 : BitVec 5) (x3 : BitVec 3) (hk : k < 2 ^ 32 ∧ fld k 8 5 = 0 ∧ fld k 13 5 = 0 ∧ fld k 18 5 = 0 ∧ fld k 23 3 = 0 ∧ k % 2 = 1) :
    ∃ e, e = k + x0.toNat * 256 + x1.toNat * 8192 + x2.toNat * 262144 + x3.toNat * 8388608 ∧ e < 2 ^ 32 ∧ e % 2 = 1 ∧ fld e 0 8 = fld k 0 8 ∧ fld e 26 6 = fld k 26 6 ∧ bits e 8 5 = x0 ∧ bits e 13 5 = x1 ∧ bits e 18 5 = x2 ∧ bits e 23 3 = x3 := by
  simp only [fld] at hk
  have h0 := x0.isLt
  have h1 := x1.isLt
  have h2 := x2.isLt
  have h3 := x3.isLt
  exact ⟨_, rfl, by
    and_intros <;> (try apply bits_eq) <;> (try unfold fld) <;> omega⟩

theorem word21 {k : Nat} (x0 : BitVec 4) (x1 : BitVec 4) (x2 : BitVec 4) (x3 : BitVec 4) (x4 : BitVec 4) (hk : k < 2 ^ 32 ∧ fld k 8 4 = 0 ∧ fld k 12 4 = 0 ∧ fld k 16 4 = 0 ∧ fld k 20 4 = 0 ∧ fld k 28 4 = 0 ∧ k % 2 = 1) :
    ∃ e, e = k + x0.toNat * 256 + x1.toNat * 4096 + x2.toNat * 65536 + x3.toNat * 1048576 + x4.toNat * 268435456 ∧ e < 2 ^ 32 ∧ e % 2 = 1 ∧ fld e 0 8 = fld k 0 8 ∧ fld e 24 4 = fld k 24 4 ∧ bits e 8 4 = x0 ∧ bits e 12 4 = x1 ∧ bits e 16 4 = x2 ∧ bits e 20 4 = x3 ∧ bits e 28 4 = x4 := by
  simp only [fld] at hk
  have h0 := x0.isLt
  have h1 := x1.isLt
  have h2 := x2.isLt
  have h3 := x3.isLt
  have h4 := x4.isLt
  exact ⟨_, rfl, by
    and_intros <;> (try apply bits_eq) <;> (try unfold fld) <;> omega⟩

theorem word22 {k : Nat} (x0 : BitVec 12) (hk : k < 2 ^ 32 ∧ fld k 20 12 = 0 ∧ k % 2 = 1) :
    ∃ e, e = k + x0.toNat * 1048576 ∧ e < 2 ^ 32 ∧ e % 2 = 1 ∧ fld e 0 8 = fld k 0 8 ∧ fld e 8 12 = fld k 8 12 ∧ bits e 20 12 = x0 := by
  simp only [fld] at hk
  have h0 := x0.isLt
  exact ⟨_, rfl, by
    and_intros <;> (try apply bits_eq) <;> (try unfold fld) <;> omega⟩

theorem word23 {k : Nat} (x0 : BitVec 6) (x1 : BitVec 6) (hk : k < 2 ^ 32 ∧ fld k 14 6 = 0 ∧ fld k 20 6 = 0 ∧ k % 2 = 1) :
    ∃ e, e = k + x0.toNat * 16384 + x1.toNat * 1048576 ∧ e < 2 ^ 32 ∧ e % 2 = 1 ∧ fld e 0 8 = fld k 0 8 ∧ fld e 8 6 = fld k 8 6 ∧ fld e 26 6 = fld k 26 6 ∧ bits e 14 6 = x0 ∧ bits e 20 6 = x1 := by
  simp only [fld] at hk
  have h0 := x0.isLt
  have h1 := x1.isLt
  exact ⟨_, rfl, by
    and_intros <;> (try apply bits_eq) <;> (try unfold fld) <;> omega⟩

theorem word24 {k : Nat} (x0 : BitVec 6) (x1 : BitVec 6) (x2 : BitVec 5) (hk : k < 2 ^ 32 ∧ fld k 8 6 = 0 ∧ fld k 14 6 = 0 ∧ fld k 20 5 = 0 ∧ k % 2 = 1) :
    ∃ e, e = k + x0.toNat * 256 + x1.toNat * 16384 + x2.toNat * 1048576 ∧ e < 2 ^ 32 ∧ e % 2 = 1 ∧ fld e 0 8 = fld k 0 8 ∧ fld e 25 7 = fld k 25 7 ∧ bits e 8 6 = x0 ∧ bits e 14 6 = x1 ∧ bits e 20 5 = x2 := by
  simp only [fld] at hk
  have h0 := x0.isLt
  have h1 := x1.isLt
  have h2 := x2.isLt
  exact ⟨_, rfl, by
    and_intros <;> (try apply bits_eq) <;> (try unfold fld) <;> omega⟩

theorem word25 {k : Nat} (x0 : BitVec 6) (hk : k < 2 ^ 32 ∧ fld k 8 6 = 0 ∧ k % 2 = 1) :
    ∃ e, e = k + x0.toNat * 256 ∧ e < 2 ^ 32 ∧ e % 2 = 1 ∧ fld e 0 8 = fld k 0 8 ∧ fld e 26 6 = fld k 26 6 ∧ fld e 14 12 = fld k 14 12 ∧ bits e 8 6 = x0 := by
  simp only [fld] at hk
  have h0 := x0.isLt
  exact ⟨_, rfl, by
    and_intros <;> (try apply bits_eq) <;> (try unfold fld) <;> omega⟩

theorem word26 {k : Nat} (x0 : BitVec 6) (x1 : BitVec 6) (hk : k < 2 ^ 32 ∧ fld k 8 6 = 0 ∧ fld k 14 6 = 0 ∧ k % 2 = 1) :
    ∃ e, e = k + x0.toNat * 256 + x1.toNat * 16384 ∧ e < 2 ^ 32 ∧ e % 2 = 1 ∧ fld e 0 8 = fld k 0 8 ∧ fld e 20 12 = fld k 20 12 ∧ bits e 8 6 = x0 ∧ bits e 14 6 = x1 := by
  simp only [fld] at hk
  have h0 := x0.isLt
  have h1 := x1.isLt
  exact ⟨_, rfl, by
    and_intros <;> (try apply bits_eq) <;> (try unfold fld) <;> omega⟩

theorem word27 {k : Nat} (x0 : BitVec 12) (hk : k < 2 ^ 32 ∧ fld k 14 12 = 0 ∧ k % 2 = 1) :
    ∃ e, e = k + x0.toNat * 16384 ∧ e < 2 ^ 32 ∧ e % 2 = 1 ∧ fld e 0 8 = fld k 0 8 ∧ fld e 26 6 = fld k 26 6 ∧ fld e 8 6 = fld k 8 6 ∧ bits e 14 12 = x0 := by
  simp only [fld] at hk
  have h0 := x0.isLt
  exact ⟨_, rfl, by
    and_intros <;> (try apply bits_eq) <;> (try unfold fld) <;> omega⟩

theorem word28 {k : Nat} (x0 : BitVec 5) (x1 : BitVec 5) (x2 : BitVec 3) (hk : k < 2 ^ 32 ∧ fld k 8 5 = 0 ∧ fld k 13 5 = 0 ∧ fld k 23 3 = 0 ∧ k % 2 = 1) :
    ∃ e, e = k + x0.toNat * 256 + x1.toNat * 8192 + x2.toNat * 8388608 ∧ e < 2 ^ 32 ∧ e % 2 = 1 ∧ fld e 0 8 = fld k 0 8 ∧ fld e 26 6 = fld k 26 6 ∧ fld e 18 5 = fld k 18 5 ∧ bits e 8 5 = x0 ∧ bits e 13 5 = x1 ∧ bits e 23 3 = x2 := by
  simp only [fld] at hk
  have h0 := x0.isLt
  have h1 := x1.isLt
  have h2 := x2.isLt
  exact ⟨_, rfl, by
    and_intros <;> (try apply bits_eq) <;> (try unfold fld) <;> omega⟩

theorem word29 {k : Nat} (x0 : BitVec 3) (x1 : BitVec 5) (x2 : BitVec 5) (x3 : BitVec 3) (hk : k < 2 ^ 32 ∧ fld k 8 3 = 0 ∧ fld k 13 5 = 0 ∧ fld k 18 5 = 0 ∧ fld k 23 3 = 0 ∧ k % 2 = 1) :
    ∃ e, e = k + x0.toNat * 256 + x1.toNat * 8192 + x2.toNat * 262144 + x3.toNat * 8388608 ∧ e < 2 ^ 32 ∧ e % 2 = 1 ∧ fld e 0 8 = fld k 0 8 ∧ fld e 26 6 = fld k 26 6 ∧ fld e 11 2 = fld k 11 2 ∧ bits e 8 3 = x0 ∧ bits e 13 5 = x1 ∧ bits e 18 5 = x2 ∧ bits e 23 3 = x3 := by
  simp only [fld] at hk
  have h0 := x0.isLt
  have h1 := x1.isLt
  have h2 := x2.isLt
  have h3 := x3.isLt
  exact ⟨_, rfl, by
    and_intros <;> (try apply bits_eq) <;> (try unfold fld) <;> omega⟩

theorem word30 {k : Nat} (x0 : BitVec 5) (x1 : BitVec 5) (x2 : BitVec 3) (x3 : BitVec 6) (hk : k < 2 ^ 32 ∧ fld k 8 5 = 0 ∧ fld k 13 5 = 0 ∧ fld k 23 3 = 0 ∧ fld k 26 6 = 0 ∧ k % 2 = 1) :
    ∃ e, e = k + x0.toNat * 256 + x1.toNat * 8192 + x2.toNat * 8388608 + x3.toNat * 67108864 ∧ e < 2 ^ 32 ∧ e % 2 = 1 ∧ fld e 0 8 = fld k 0 8 ∧ fld e 18 5 = fld k 18 5 ∧ bits e 8 5 = x0 ∧ bits e 13 5 = x1 ∧ bits e 23 3 = x2 ∧ bits e 26 6 = x3 := by
  simp only [fld] at hk
  have h0 := x0.isLt
  have h1 := x1.isLt
  have h2 := x2.isLt
  have h3 := x3.isLt
  exact ⟨_, rfl, by
    and_intros <;> (try apply bits_eq) <;> (try unfold fld) <;> omega⟩

theorem word31 {k : Nat} (x0 : BitVec 5) (x1 : BitVec 5) (hk : k < 2 ^ 32 ∧ fld k 8 5 = 0 ∧ fld k 13 5 = 0 ∧ k % 2 = 1) :
    ∃ e, e = k + x0.toNat * 256 + x1.toNat * 8192 ∧ e < 2 ^ 32 ∧ e % 2 = 1 ∧ fld e 0 8 = fld k 0 8 ∧ fld e 26 6 = fld k 26 6 ∧ fld e 18 8 = fld k 18 8 ∧ bits e 8 5 = x0 ∧ bits e 13 5 = x1 := by
  simp only [fld] at hk
  have h0 := x0.isLt
  have h1 := x1.isLt
  exact ⟨_, rfl, by
    and_intros <;> (try apply bits_eq) <;> (try unfold fld) <;> omega⟩

theorem word32 {k : Nat} (x0 : BitVec 5) (x1 : BitVec 5) (x2 : BitVec 5) (hk : k < 2 ^ 32 ∧ fld k 8 5 = 0 ∧ fld k 13 5 = 0 ∧ fld k 18 5 = 0 ∧ k % 2 = 1) :
    ∃ e, e = k + x0.toNat * 256 + x1.toNat * 8192 + x2.toNat * 262144 ∧ e < 2 ^ 32 ∧ e % 2 = 1 ∧ fld e 0 8 = fld k 0 8 ∧ fld e 26 6 = fld k 26 6 ∧ fld e 23 3 = fld k 23 3 ∧ bits e 8 5 = x0 ∧ bits e 13 5 = x1 ∧ bits e 18 5 = x2 := by
  simp only [fld] at hk
  have h0 := x0.isLt
  have h1 := x1.isLt
  have h2 := x2.isLt
  exact ⟨_, rfl, by
    and_intros <;> (try apply bits_eq) <;> (try unfold fld) <;> omega⟩

theorem word33 {k : Nat} (x0 : BitVec 5) (x1 : BitVec 3) (hk : k < 2 ^ 32 ∧ fld k 8 5 = 0 ∧ fld k 23 3 = 0 ∧ k % 2 = 1) :
    ∃ e, e = k + x0.toNat * 256 + x1.toNat * 8388608 ∧ e < 2 ^ 32 ∧ e % 2 = 1 ∧ fld e 0 8 = fld k 0 8 ∧ fld e 26 6 = fld k 26 6 ∧ fld e 13 10 = fld k 13 10 ∧ bits e 8 5 = x0 ∧ bits e 23 3 = x1 := by
  simp only [fld] at hk
  have h0 := x0.isLt
  have h1 := x1.isLt
  exact ⟨_, rfl, by
    and_intros <;> (try apply bits_eq) <;> (try unfold fld) <;> omega⟩

theorem word34 {k : Nat} (x0 : BitVec 3) (x1 : BitVec 3) (x2 : BitVec 3) (x3 : BitVec 3) (hk : k < 2 ^ 32 ∧ fld k 8 3 = 0 ∧ fld k 13 3 = 0 ∧ fld k 18 3 = 0 ∧ fld k 23 3 = 0 ∧ k % 2 = 1) :
    ∃ e, e = k + x0.toNat * 256 + x1.toNat * 8192 + x2.toNat * 262144 + x3.toNat * 8388608 ∧ e < 2 ^ 32 ∧ e % 2 = 1 ∧ fld e 0 8 = fld k 0 8 ∧ fld e 26 6 = fld k 26 6 ∧ fld e 11 2 = fld k 11 2 ∧ fld e 16 2 = fld k 16 2 ∧ fld e 21 2 = fld k 21 2 ∧ bits e 8 3 = x0 ∧ bits e 13 3 = x1 ∧ bits e 18 3 = x2 ∧ bits e 23 3 = x3 := by
  simp only [fld] at hk
  have h0 := x0.isLt
  have h1 := x1.isLt
  have h2 := x2.isLt
  have h3 := x3.isLt
  exact ⟨_, rfl, by
    and_intros <;> (try apply bits_eq) <;> (try unfold fld) <;> omega⟩

theorem word35 {k : Nat} (x0 : BitVec 3) (x1 : BitVec 3) (x2 : BitVec 3) (hk : k < 2 ^ 32 ∧ fld k 8 3 = 0 ∧ fld k 13 3 = 0 ∧ fld k 23 3 = 0 ∧ k % 2 = 1) :
    ∃ e, e = k + x0.toNat * 256 + x1.toNat * 8192 + x2.toNat * 8388608 ∧ e < 2 ^ 32 ∧ e % 2 = 1 ∧ fld e 0 8 = fld k 0 8 ∧ fld e 26 6 = fld k 26 6 ∧ fld e 11 2 = fld k 11 2 ∧ fld e 16 7 = fld k 16 7 ∧ bits e 8 3 = x0 ∧ bits e 13 3 = x1 ∧ bits e 23 3 = x2 := by
  simp only [fld] at hk
  have h0 := x0.isLt
  have h1 := x1.isLt
  have h2 := x2.isLt
  exact ⟨_, rfl, by
    and_intros <;> (try apply bits_eq) <;> (try unfold fld) <;> omega⟩

theorem word36 {k : Nat} (x0 : BitVec 5) (x1 : BitVec 3) (x2 : BitVec 3) (hk : k < 2 ^ 32 ∧ fld k 8 5 = 0 ∧ fld k 13 3 = 0 ∧ fld k 23 3 = 0 ∧ k % 2 = 1) :
    ∃ e, e = k + x0.toNat * 256 + x1.toNat * 8192 + x2.toNat * 8388608 ∧ e < 2 ^ 32 ∧ e % 2 = 1 ∧ fld e 0 8 = fld k 0 8 ∧ fld e 26 6 = fld k 26 6 ∧ fld e 16 7 = fld k 16 7 ∧ bits e 8 5 = x0 ∧ bits e 13 3 = x1 ∧ bits e 23 3 = x2 := by
  simp only [fld] at hk
  have h0 := x0.isLt
  have h1 := x1.isLt
  have h2 := x2.isLt
  exact ⟨_, rfl, by
    and_intros <;> (try apply bits_eq) <;> (try unfold fld) <;> omega⟩

theorem word37 {k : Nat} (x0 : BitVec 3) (x1 : BitVec 5) (x2 : BitVec 5) (hk : k < 2 ^ 32 ∧ fld k 8 3 = 0 ∧ fld k 13 5 = 0 ∧ fld k 18 5 = 0 ∧ k % 2 = 1) :
    ∃ e, e = k + x0.toNat * 256 + x1.toNat * 8192 + x2.toNat * 262144 ∧ e < 2 ^ 32 ∧ e % 2 = 1 ∧ fld e 0 8 = fld k 0 8 ∧ fld e 26 6 = fld k 26 6 ∧ fld e 11 2 = fld k 11 2 ∧ fld e 23 3 = fld k 23 3 ∧ bits e 8 3 = x0 ∧ bits e 13 5 = x1 ∧ bits e 18 5 = x2 := by
  simp only [fld] at hk
  have h0 := x0.isLt
  have h1 := x1.isLt
  have h2 := x2.isLt
  exact ⟨_, rfl, by
    and_intros <;> (try apply bits_eq) <;> (try unfold fld) <;> omega⟩

theorem word38 {k : Nat} (x0 : BitVec 5) (x1 : BitVec 6) (x2 : BitVec 7) (x3 : BitVec 3) (x4 : BitVec 1) (hk : k < 2 ^ 32 ∧ fld k 8 5 = 0 ∧ fld k 13 6 = 0 ∧ fld k 19 7 = 0 ∧ fld k 26 3 = 0 ∧ fld k 29 1 = 0 ∧ k % 2 = 1) :
    ∃ e, e = k + x0.toNat * 256 + x1.toNat * 8192 + x2.toNat * 524288 + x3.toNat * 67108864 + x4.toNat * 536870912 ∧ e < 2 ^ 32 ∧ e % 2 = 1 ∧ fld e 0 8 = fld k 0 8 ∧ fld e 30 2 = fld k 30 2 ∧ bits e 8 5 = x0 ∧ bits e 13 6 = x1 ∧ bits e 19 7 = x2 ∧ bits e 26 3 = x3 ∧ bits e 29 1 = x4 := by
  simp only [fld] at hk
  have h0 := x0.isLt
  have h1 := x1.isLt
  have h2 := x2.isLt
  have h3 := x3.isLt
  have h4 := x4.isLt
  exact ⟨_, rfl, by
    and_intros <;> (try apply bits_eq) <;> (try unfold fld) <;> omega⟩

theorem word39 {k : Nat} (x0 : BitVec 4) (x1 : BitVec 4) (hk : k < 2 ^ 16 ∧ fld k 5 4 = 0 ∧ fld k 9 4 = 0 ∧ k % 2 = 0) :
    ∃ e, e = k + x0.toNat * 32 + x1.toNat * 512 ∧ e < 2 ^ 16 ∧ e % 2 = 0 ∧ fld e 0 5 = fld k 0 5 ∧ fld e 13 3 = fld k 13 3 ∧ bits e 5 4 = x0 ∧ bits e 9 4 = x1 := by
  simp only [fld] at hk
  have h0 := x0.isLt
  have h1 := x1.isLt
  exact ⟨_, rfl, by
    and_intros <;> (try apply bits_eq) <;> (try unfold fld) <;> omega⟩

theorem word40 {k : Nat} (x0 : BitVec 4) (x1 : BitVec 7) (hk : k < 2 ^ 16 ∧ fld k 5 4 = 0 ∧ fld k 9 7 = 0 ∧ k % 2 = 0) :
    ∃ e, e = k + x0.toNat * 32 + x1.toNat * 512 ∧ e < 2 ^ 16 ∧ e % 2 = 0 ∧ fld e 0 5 = fld k 0 5 ∧ bits e 5 4 = x0 ∧ bits e 9 7 = x1 := by
  simp only [fld] at hk
  have h0 := x0.isLt
  have h1 := x1.isLt
  exact ⟨_, rfl, by
    and_intros <;> (try apply bits_eq) <;> (try unfold fld) <;> omega⟩

theorem word41 {k : Nat} (x0 : BitVec 4) (x1 : BitVec 5) (hk : k < 2 ^ 16 ∧ fld k 5 4 = 0 ∧ fld k 9 5 = 0 ∧ k % 2 = 0) :
    ∃ e, e = k + x0.toNat * 32 + x1.toNat * 512 ∧ e < 2 ^ 16 ∧ e % 2 = 0 ∧ fld e 0 5 = fld k 0 5 ∧ fld e 14 2 = fld k 14 2 ∧ bits e 5 4 = x0 ∧ bits e 9 5 = x1 := by
  simp only [fld] at hk
  have h0 := x0.isLt
  have h1 := x1.isLt
  exact ⟨_, rfl, by
    and_intros <;> (try apply bits_eq) <;> (try unfold fld) <;> omega⟩

theorem word42 {k : Nat} (x0 : BitVec 11) (hk : k < 2 ^ 16 ∧ fld k 5 11 = 0 ∧ k % 2 = 0) :
    ∃ e, e = k + x0.toNat * 32 ∧ e < 2 ^ 16 ∧ e % 2 = 0 ∧ fld e 0 5 = fld k 0 5 ∧ bits e 5 11 = x0 := by
  simp only [fld] at hk
  have h0 := x0.isLt
  exact ⟨_, rfl, by
    and_intros <;> (try apply bits_eq) <;> (try unfold fld) <;> omega⟩

/-! ## The constructors -/

theorem RoundTrip.add (d : BitVec 6) (a : BitVec 6) (b : BitVec 6) : Statement (.add d a b) := by
  obtain ⟨e, he, hw, ho, p0, p1, f0, f1, f2⟩ := word1 (k := 3) d a b (by decide)
  refine ofWord (w := e) (by rw [he]; rfl) hw ho (fun hi => ?_)
  rw [show decode32 e = decodeP01 e by unfold decode32; rw [show fld e 0 8 = 3 from p0]; rfl]
  rw [show decodeP01 e = orIllegal true (.add (bits e 8 6) (bits e 14 6) (bits e 20 6)) by unfold decodeP01; rw [show fld e 26 6 = 0 from p1]; rfl]
  rw [f0, f1, f2]
  exact orIllegal_of rfl hi

theorem RoundTrip.sub (d : BitVec 6) (a : BitVec 6) (b : BitVec 6) : Statement (.sub d a b) := by
  obtain ⟨e, he, hw, ho, p0, p1, f0, f1, f2⟩ := word1 (k := 67108867) d a b (by decide)
  refine ofWord (w := e) (by rw [he]; rfl) hw ho (fun hi => ?_)
  rw [show decode32 e = decodeP01 e by unfold decode32; rw [show fld e 0 8 = 3 from p0]; rfl]
  rw [show decodeP01 e = orIllegal true (.sub (bits e 8 6) (bits e 14 6) (bits e 20 6)) by unfold decodeP01; rw [show fld e 26 6 = 1 from p1]; rfl]
  rw [f0, f1, f2]
  exact orIllegal_of rfl hi

theorem RoundTrip.and (d : BitVec 6) (a : BitVec 6) (b : BitVec 6) : Statement (.and d a b) := by
  obtain ⟨e, he, hw, ho, p0, p1, f0, f1, f2⟩ := word1 (k := 134217731) d a b (by decide)
  refine ofWord (w := e) (by rw [he]; rfl) hw ho (fun hi => ?_)
  rw [show decode32 e = decodeP01 e by unfold decode32; rw [show fld e 0 8 = 3 from p0]; rfl]
  rw [show decodeP01 e = orIllegal true (.and (bits e 8 6) (bits e 14 6) (bits e 20 6)) by unfold decodeP01; rw [show fld e 26 6 = 2 from p1]; rfl]
  rw [f0, f1, f2]
  exact orIllegal_of rfl hi

theorem RoundTrip.or (d : BitVec 6) (a : BitVec 6) (b : BitVec 6) : Statement (.or d a b) := by
  obtain ⟨e, he, hw, ho, p0, p1, f0, f1, f2⟩ := word1 (k := 201326595) d a b (by decide)
  refine ofWord (w := e) (by rw [he]; rfl) hw ho (fun hi => ?_)
  rw [show decode32 e = decodeP01 e by unfold decode32; rw [show fld e 0 8 = 3 from p0]; rfl]
  rw [show decodeP01 e = orIllegal true (.or (bits e 8 6) (bits e 14 6) (bits e 20 6)) by unfold decodeP01; rw [show fld e 26 6 = 3 from p1]; rfl]
  rw [f0, f1, f2]
  exact orIllegal_of rfl hi

theorem RoundTrip.xor (d : BitVec 6) (a : BitVec 6) (b : BitVec 6) : Statement (.xor d a b) := by
  obtain ⟨e, he, hw, ho, p0, p1, f0, f1, f2⟩ := word1 (k := 268435459) d a b (by decide)
  refine ofWord (w := e) (by rw [he]; rfl) hw ho (fun hi => ?_)
  rw [show decode32 e = decodeP01 e by unfold decode32; rw [show fld e 0 8 = 3 from p0]; rfl]
  rw [show decodeP01 e = orIllegal true (.xor (bits e 8 6) (bits e 14 6) (bits e 20 6)) by unfold decodeP01; rw [show fld e 26 6 = 4 from p1]; rfl]
  rw [f0, f1, f2]
  exact orIllegal_of rfl hi

theorem RoundTrip.shl (d : BitVec 6) (a : BitVec 6) (b : BitVec 6) : Statement (.shl d a b) := by
  obtain ⟨e, he, hw, ho, p0, p1, f0, f1, f2⟩ := word1 (k := 335544323) d a b (by decide)
  refine ofWord (w := e) (by rw [he]; rfl) hw ho (fun hi => ?_)
  rw [show decode32 e = decodeP01 e by unfold decode32; rw [show fld e 0 8 = 3 from p0]; rfl]
  rw [show decodeP01 e = orIllegal true (.shl (bits e 8 6) (bits e 14 6) (bits e 20 6)) by unfold decodeP01; rw [show fld e 26 6 = 5 from p1]; rfl]
  rw [f0, f1, f2]
  exact orIllegal_of rfl hi

theorem RoundTrip.shr (d : BitVec 6) (a : BitVec 6) (b : BitVec 6) : Statement (.shr d a b) := by
  obtain ⟨e, he, hw, ho, p0, p1, f0, f1, f2⟩ := word1 (k := 402653187) d a b (by decide)
  refine ofWord (w := e) (by rw [he]; rfl) hw ho (fun hi => ?_)
  rw [show decode32 e = decodeP01 e by unfold decode32; rw [show fld e 0 8 = 3 from p0]; rfl]
  rw [show decodeP01 e = orIllegal true (.shr (bits e 8 6) (bits e 14 6) (bits e 20 6)) by unfold decodeP01; rw [show fld e 26 6 = 6 from p1]; rfl]
  rw [f0, f1, f2]
  exact orIllegal_of rfl hi

theorem RoundTrip.sha (d : BitVec 6) (a : BitVec 6) (b : BitVec 6) : Statement (.sha d a b) := by
  obtain ⟨e, he, hw, ho, p0, p1, f0, f1, f2⟩ := word1 (k := 469762051) d a b (by decide)
  refine ofWord (w := e) (by rw [he]; rfl) hw ho (fun hi => ?_)
  rw [show decode32 e = decodeP01 e by unfold decode32; rw [show fld e 0 8 = 3 from p0]; rfl]
  rw [show decodeP01 e = orIllegal true (.sha (bits e 8 6) (bits e 14 6) (bits e 20 6)) by unfold decodeP01; rw [show fld e 26 6 = 7 from p1]; rfl]
  rw [f0, f1, f2]
  exact orIllegal_of rfl hi

theorem RoundTrip.min (d : BitVec 6) (a : BitVec 6) (b : BitVec 6) : Statement (.min d a b) := by
  obtain ⟨e, he, hw, ho, p0, p1, f0, f1, f2⟩ := word1 (k := 536870915) d a b (by decide)
  refine ofWord (w := e) (by rw [he]; rfl) hw ho (fun hi => ?_)
  rw [show decode32 e = decodeP01 e by unfold decode32; rw [show fld e 0 8 = 3 from p0]; rfl]
  rw [show decodeP01 e = orIllegal true (.min (bits e 8 6) (bits e 14 6) (bits e 20 6)) by unfold decodeP01; rw [show fld e 26 6 = 8 from p1]; rfl]
  rw [f0, f1, f2]
  exact orIllegal_of rfl hi

theorem RoundTrip.max (d : BitVec 6) (a : BitVec 6) (b : BitVec 6) : Statement (.max d a b) := by
  obtain ⟨e, he, hw, ho, p0, p1, f0, f1, f2⟩ := word1 (k := 603979779) d a b (by decide)
  refine ofWord (w := e) (by rw [he]; rfl) hw ho (fun hi => ?_)
  rw [show decode32 e = decodeP01 e by unfold decode32; rw [show fld e 0 8 = 3 from p0]; rfl]
  rw [show decodeP01 e = orIllegal true (.max (bits e 8 6) (bits e 14 6) (bits e 20 6)) by unfold decodeP01; rw [show fld e 26 6 = 9 from p1]; rfl]
  rw [f0, f1, f2]
  exact orIllegal_of rfl hi

theorem RoundTrip.minu (d : BitVec 6) (a : BitVec 6) (b : BitVec 6) : Statement (.minu d a b) := by
  obtain ⟨e, he, hw, ho, p0, p1, f0, f1, f2⟩ := word1 (k := 671088643) d a b (by decide)
  refine ofWord (w := e) (by rw [he]; rfl) hw ho (fun hi => ?_)
  rw [show decode32 e = decodeP01 e by unfold decode32; rw [show fld e 0 8 = 3 from p0]; rfl]
  rw [show decodeP01 e = orIllegal true (.minu (bits e 8 6) (bits e 14 6) (bits e 20 6)) by unfold decodeP01; rw [show fld e 26 6 = 10 from p1]; rfl]
  rw [f0, f1, f2]
  exact orIllegal_of rfl hi

theorem RoundTrip.maxu (d : BitVec 6) (a : BitVec 6) (b : BitVec 6) : Statement (.maxu d a b) := by
  obtain ⟨e, he, hw, ho, p0, p1, f0, f1, f2⟩ := word1 (k := 738197507) d a b (by decide)
  refine ofWord (w := e) (by rw [he]; rfl) hw ho (fun hi => ?_)
  rw [show decode32 e = decodeP01 e by unfold decode32; rw [show fld e 0 8 = 3 from p0]; rfl]
  rw [show decodeP01 e = orIllegal true (.maxu (bits e 8 6) (bits e 14 6) (bits e 20 6)) by unfold decodeP01; rw [show fld e 26 6 = 11 from p1]; rfl]
  rw [f0, f1, f2]
  exact orIllegal_of rfl hi

theorem RoundTrip.seq (d : BitVec 6) (a : BitVec 6) (b : BitVec 6) : Statement (.seq d a b) := by
  obtain ⟨e, he, hw, ho, p0, p1, f0, f1, f2⟩ := word1 (k := 805306371) d a b (by decide)
  refine ofWord (w := e) (by rw [he]; rfl) hw ho (fun hi => ?_)
  rw [show decode32 e = decodeP01 e by unfold decode32; rw [show fld e 0 8 = 3 from p0]; rfl]
  rw [show decodeP01 e = orIllegal true (.seq (bits e 8 6) (bits e 14 6) (bits e 20 6)) by unfold decodeP01; rw [show fld e 26 6 = 12 from p1]; rfl]
  rw [f0, f1, f2]
  exact orIllegal_of rfl hi

theorem RoundTrip.sne (d : BitVec 6) (a : BitVec 6) (b : BitVec 6) : Statement (.sne d a b) := by
  obtain ⟨e, he, hw, ho, p0, p1, f0, f1, f2⟩ := word1 (k := 872415235) d a b (by decide)
  refine ofWord (w := e) (by rw [he]; rfl) hw ho (fun hi => ?_)
  rw [show decode32 e = decodeP01 e by unfold decode32; rw [show fld e 0 8 = 3 from p0]; rfl]
  rw [show decodeP01 e = orIllegal true (.sne (bits e 8 6) (bits e 14 6) (bits e 20 6)) by unfold decodeP01; rw [show fld e 26 6 = 13 from p1]; rfl]
  rw [f0, f1, f2]
  exact orIllegal_of rfl hi

theorem RoundTrip.slt (d : BitVec 6) (a : BitVec 6) (b : BitVec 6) : Statement (.slt d a b) := by
  obtain ⟨e, he, hw, ho, p0, p1, f0, f1, f2⟩ := word1 (k := 939524099) d a b (by decide)
  refine ofWord (w := e) (by rw [he]; rfl) hw ho (fun hi => ?_)
  rw [show decode32 e = decodeP01 e by unfold decode32; rw [show fld e 0 8 = 3 from p0]; rfl]
  rw [show decodeP01 e = orIllegal true (.slt (bits e 8 6) (bits e 14 6) (bits e 20 6)) by unfold decodeP01; rw [show fld e 26 6 = 14 from p1]; rfl]
  rw [f0, f1, f2]
  exact orIllegal_of rfl hi

theorem RoundTrip.sltu (d : BitVec 6) (a : BitVec 6) (b : BitVec 6) : Statement (.sltu d a b) := by
  obtain ⟨e, he, hw, ho, p0, p1, f0, f1, f2⟩ := word1 (k := 1006632963) d a b (by decide)
  refine ofWord (w := e) (by rw [he]; rfl) hw ho (fun hi => ?_)
  rw [show decode32 e = decodeP01 e by unfold decode32; rw [show fld e 0 8 = 3 from p0]; rfl]
  rw [show decodeP01 e = orIllegal true (.sltu (bits e 8 6) (bits e 14 6) (bits e 20 6)) by unfold decodeP01; rw [show fld e 26 6 = 15 from p1]; rfl]
  rw [f0, f1, f2]
  exact orIllegal_of rfl hi

theorem RoundTrip.mul (d : BitVec 6) (a : BitVec 6) (b : BitVec 6) : Statement (.mul d a b) := by
  obtain ⟨e, he, hw, ho, p0, p1, f0, f1, f2⟩ := word1 (k := 1073741827) d a b (by decide)
  refine ofWord (w := e) (by rw [he]; rfl) hw ho (fun hi => ?_)
  rw [show decode32 e = decodeP01 e by unfold decode32; rw [show fld e 0 8 = 3 from p0]; rfl]
  rw [show decodeP01 e = orIllegal true (.mul (bits e 8 6) (bits e 14 6) (bits e 20 6)) by unfold decodeP01; rw [show fld e 26 6 = 16 from p1]; rfl]
  rw [f0, f1, f2]
  exact orIllegal_of rfl hi

theorem RoundTrip.mulh (d : BitVec 6) (a : BitVec 6) (b : BitVec 6) : Statement (.mulh d a b) := by
  obtain ⟨e, he, hw, ho, p0, p1, f0, f1, f2⟩ := word1 (k := 1140850691) d a b (by decide)
  refine ofWord (w := e) (by rw [he]; rfl) hw ho (fun hi => ?_)
  rw [show decode32 e = decodeP01 e by unfold decode32; rw [show fld e 0 8 = 3 from p0]; rfl]
  rw [show decodeP01 e = orIllegal true (.mulh (bits e 8 6) (bits e 14 6) (bits e 20 6)) by unfold decodeP01; rw [show fld e 26 6 = 17 from p1]; rfl]
  rw [f0, f1, f2]
  exact orIllegal_of rfl hi

theorem RoundTrip.mulhu (d : BitVec 6) (a : BitVec 6) (b : BitVec 6) : Statement (.mulhu d a b) := by
  obtain ⟨e, he, hw, ho, p0, p1, f0, f1, f2⟩ := word1 (k := 1207959555) d a b (by decide)
  refine ofWord (w := e) (by rw [he]; rfl) hw ho (fun hi => ?_)
  rw [show decode32 e = decodeP01 e by unfold decode32; rw [show fld e 0 8 = 3 from p0]; rfl]
  rw [show decodeP01 e = orIllegal true (.mulhu (bits e 8 6) (bits e 14 6) (bits e 20 6)) by unfold decodeP01; rw [show fld e 26 6 = 18 from p1]; rfl]
  rw [f0, f1, f2]
  exact orIllegal_of rfl hi

theorem RoundTrip.div (d : BitVec 6) (a : BitVec 6) (b : BitVec 6) : Statement (.div d a b) := by
  obtain ⟨e, he, hw, ho, p0, p1, f0, f1, f2⟩ := word1 (k := 1275068419) d a b (by decide)
  refine ofWord (w := e) (by rw [he]; rfl) hw ho (fun hi => ?_)
  rw [show decode32 e = decodeP01 e by unfold decode32; rw [show fld e 0 8 = 3 from p0]; rfl]
  rw [show decodeP01 e = orIllegal true (.div (bits e 8 6) (bits e 14 6) (bits e 20 6)) by unfold decodeP01; rw [show fld e 26 6 = 19 from p1]; rfl]
  rw [f0, f1, f2]
  exact orIllegal_of rfl hi

theorem RoundTrip.divu (d : BitVec 6) (a : BitVec 6) (b : BitVec 6) : Statement (.divu d a b) := by
  obtain ⟨e, he, hw, ho, p0, p1, f0, f1, f2⟩ := word1 (k := 1342177283) d a b (by decide)
  refine ofWord (w := e) (by rw [he]; rfl) hw ho (fun hi => ?_)
  rw [show decode32 e = decodeP01 e by unfold decode32; rw [show fld e 0 8 = 3 from p0]; rfl]
  rw [show decodeP01 e = orIllegal true (.divu (bits e 8 6) (bits e 14 6) (bits e 20 6)) by unfold decodeP01; rw [show fld e 26 6 = 20 from p1]; rfl]
  rw [f0, f1, f2]
  exact orIllegal_of rfl hi

theorem RoundTrip.rem (d : BitVec 6) (a : BitVec 6) (b : BitVec 6) : Statement (.rem d a b) := by
  obtain ⟨e, he, hw, ho, p0, p1, f0, f1, f2⟩ := word1 (k := 1409286147) d a b (by decide)
  refine ofWord (w := e) (by rw [he]; rfl) hw ho (fun hi => ?_)
  rw [show decode32 e = decodeP01 e by unfold decode32; rw [show fld e 0 8 = 3 from p0]; rfl]
  rw [show decodeP01 e = orIllegal true (.rem (bits e 8 6) (bits e 14 6) (bits e 20 6)) by unfold decodeP01; rw [show fld e 26 6 = 21 from p1]; rfl]
  rw [f0, f1, f2]
  exact orIllegal_of rfl hi

theorem RoundTrip.remu (d : BitVec 6) (a : BitVec 6) (b : BitVec 6) : Statement (.remu d a b) := by
  obtain ⟨e, he, hw, ho, p0, p1, f0, f1, f2⟩ := word1 (k := 1476395011) d a b (by decide)
  refine ofWord (w := e) (by rw [he]; rfl) hw ho (fun hi => ?_)
  rw [show decode32 e = decodeP01 e by unfold decode32; rw [show fld e 0 8 = 3 from p0]; rfl]
  rw [show decodeP01 e = orIllegal true (.remu (bits e 8 6) (bits e 14 6) (bits e 20 6)) by unfold decodeP01; rw [show fld e 26 6 = 22 from p1]; rfl]
  rw [f0, f1, f2]
  exact orIllegal_of rfl hi

theorem RoundTrip.sel (d : BitVec 6) (a : BitVec 6) (b : BitVec 6) : Statement (.sel d a b) := by
  obtain ⟨e, he, hw, ho, p0, p1, f0, f1, f2⟩ := word1 (k := 1543503875) d a b (by decide)
  refine ofWord (w := e) (by rw [he]; rfl) hw ho (fun hi => ?_)
  rw [show decode32 e = decodeP01 e by unfold decode32; rw [show fld e 0 8 = 3 from p0]; rfl]
  rw [show decodeP01 e = orIllegal true (.sel (bits e 8 6) (bits e 14 6) (bits e 20 6)) by unfold decodeP01; rw [show fld e 26 6 = 23 from p1]; rfl]
  rw [f0, f1, f2]
  exact orIllegal_of rfl hi

theorem RoundTrip.clz (d : BitVec 6) (a : BitVec 6) : Statement (.clz d a) := by
  obtain ⟨e, he, hw, ho, p0, p1, p2, f0, f1⟩ := word2 (k := 1610612739) d a (by decide)
  refine ofWord (w := e) (by rw [he]; rfl) hw ho (fun hi => ?_)
  rw [show decode32 e = decodeP01 e by unfold decode32; rw [show fld e 0 8 = 3 from p0]; rfl]
  rw [show decodeP01 e = orIllegal (fld e 20 6 == 0) (.clz (bits e 8 6) (bits e 14 6)) by unfold decodeP01; rw [show fld e 26 6 = 24 from p1]; rfl]
  rw [f0, f1]
  exact orIllegal_of (by rw [p2]; rfl) hi

theorem RoundTrip.popc (d : BitVec 6) (a : BitVec 6) : Statement (.popc d a) := by
  obtain ⟨e, he, hw, ho, p0, p1, p2, f0, f1⟩ := word2 (k := 1677721603) d a (by decide)
  refine ofWord (w := e) (by rw [he]; rfl) hw ho (fun hi => ?_)
  rw [show decode32 e = decodeP01 e by unfold decode32; rw [show fld e 0 8 = 3 from p0]; rfl]
  rw [show decodeP01 e = orIllegal (fld e 20 6 == 0) (.popc (bits e 8 6) (bits e 14 6)) by unfold decodeP01; rw [show fld e 26 6 = 25 from p1]; rfl]
  rw [f0, f1]
  exact orIllegal_of (by rw [p2]; rfl) hi

theorem RoundTrip.extsB (d : BitVec 6) (a : BitVec 6) : Statement (.extsB d a) := by
  obtain ⟨e, he, hw, ho, p0, p1, p2, f0, f1⟩ := word2 (k := 1744830467) d a (by decide)
  refine ofWord (w := e) (by rw [he]; rfl) hw ho (fun hi => ?_)
  rw [show decode32 e = decodeP01 e by unfold decode32; rw [show fld e 0 8 = 3 from p0]; rfl]
  rw [show decodeP01 e = orIllegal (fld e 20 6 == 0) (.extsB (bits e 8 6) (bits e 14 6)) by unfold decodeP01; rw [show fld e 26 6 = 26 from p1]; rfl]
  rw [f0, f1]
  exact orIllegal_of (by rw [p2]; rfl) hi

theorem RoundTrip.extsH (d : BitVec 6) (a : BitVec 6) : Statement (.extsH d a) := by
  obtain ⟨e, he, hw, ho, p0, p1, p2, f0, f1⟩ := word2 (k := 1811939331) d a (by decide)
  refine ofWord (w := e) (by rw [he]; rfl) hw ho (fun hi => ?_)
  rw [show decode32 e = decodeP01 e by unfold decode32; rw [show fld e 0 8 = 3 from p0]; rfl]
  rw [show decodeP01 e = orIllegal (fld e 20 6 == 0) (.extsH (bits e 8 6) (bits e 14 6)) by unfold decodeP01; rw [show fld e 26 6 = 27 from p1]; rfl]
  rw [f0, f1]
  exact orIllegal_of (by rw [p2]; rfl) hi

theorem RoundTrip.extsW (d : BitVec 6) (a : BitVec 6) : Statement (.extsW d a) := by
  obtain ⟨e, he, hw, ho, p0, p1, p2, f0, f1⟩ := word2 (k := 1879048195) d a (by decide)
  refine ofWord (w := e) (by rw [he]; rfl) hw ho (fun hi => ?_)
  rw [show decode32 e = decodeP01 e by unfold decode32; rw [show fld e 0 8 = 3 from p0]; rfl]
  rw [show decodeP01 e = orIllegal (fld e 20 6 == 0) (.extsW (bits e 8 6) (bits e 14 6)) by unfold decodeP01; rw [show fld e 26 6 = 28 from p1]; rfl]
  rw [f0, f1]
  exact orIllegal_of (by rw [p2]; rfl) hi

theorem RoundTrip.extzB (d : BitVec 6) (a : BitVec 6) : Statement (.extzB d a) := by
  obtain ⟨e, he, hw, ho, p0, p1, p2, f0, f1⟩ := word2 (k := 1946157059) d a (by decide)
  refine ofWord (w := e) (by rw [he]; rfl) hw ho (fun hi => ?_)
  rw [show decode32 e = decodeP01 e by unfold decode32; rw [show fld e 0 8 = 3 from p0]; rfl]
  rw [show decodeP01 e = orIllegal (fld e 20 6 == 0) (.extzB (bits e 8 6) (bits e 14 6)) by unfold decodeP01; rw [show fld e 26 6 = 29 from p1]; rfl]
  rw [f0, f1]
  exact orIllegal_of (by rw [p2]; rfl) hi

theorem RoundTrip.extzH (d : BitVec 6) (a : BitVec 6) : Statement (.extzH d a) := by
  obtain ⟨e, he, hw, ho, p0, p1, p2, f0, f1⟩ := word2 (k := 2013265923) d a (by decide)
  refine ofWord (w := e) (by rw [he]; rfl) hw ho (fun hi => ?_)
  rw [show decode32 e = decodeP01 e by unfold decode32; rw [show fld e 0 8 = 3 from p0]; rfl]
  rw [show decodeP01 e = orIllegal (fld e 20 6 == 0) (.extzH (bits e 8 6) (bits e 14 6)) by unfold decodeP01; rw [show fld e 26 6 = 30 from p1]; rfl]
  rw [f0, f1]
  exact orIllegal_of (by rw [p2]; rfl) hi

theorem RoundTrip.extzW (d : BitVec 6) (a : BitVec 6) : Statement (.extzW d a) := by
  obtain ⟨e, he, hw, ho, p0, p1, p2, f0, f1⟩ := word2 (k := 2080374787) d a (by decide)
  refine ofWord (w := e) (by rw [he]; rfl) hw ho (fun hi => ?_)
  rw [show decode32 e = decodeP01 e by unfold decode32; rw [show fld e 0 8 = 3 from p0]; rfl]
  rw [show decodeP01 e = orIllegal (fld e 20 6 == 0) (.extzW (bits e 8 6) (bits e 14 6)) by unfold decodeP01; rw [show fld e 26 6 = 31 from p1]; rfl]
  rw [f0, f1]
  exact orIllegal_of (by rw [p2]; rfl) hi

theorem RoundTrip.addi (d : BitVec 6) (a : BitVec 6) (i : BitVec 12) : Statement (.addi d a i) := by
  obtain ⟨e, he, hw, ho, p0, f0, f1, f2⟩ := word3 (k := 5) d a i (by decide)
  refine ofWord (w := e) (by rw [he]; rfl) hw ho (fun hi => ?_)
  rw [show decode32 e = orIllegal true (.addi (bits e 8 6) (bits e 14 6) (bits e 20 12)) by unfold decode32; rw [show fld e 0 8 = 5 from p0]; rfl]
  rw [f0, f1, f2]
  exact orIllegal_of rfl hi

theorem RoundTrip.andi (d : BitVec 6) (a : BitVec 6) (i : BitVec 12) : Statement (.andi d a i) := by
  obtain ⟨e, he, hw, ho, p0, f0, f1, f2⟩ := word3 (k := 7) d a i (by decide)
  refine ofWord (w := e) (by rw [he]; rfl) hw ho (fun hi => ?_)
  rw [show decode32 e = orIllegal true (.andi (bits e 8 6) (bits e 14 6) (bits e 20 12)) by unfold decode32; rw [show fld e 0 8 = 7 from p0]; rfl]
  rw [f0, f1, f2]
  exact orIllegal_of rfl hi

theorem RoundTrip.ori (d : BitVec 6) (a : BitVec 6) (i : BitVec 12) : Statement (.ori d a i) := by
  obtain ⟨e, he, hw, ho, p0, f0, f1, f2⟩ := word3 (k := 9) d a i (by decide)
  refine ofWord (w := e) (by rw [he]; rfl) hw ho (fun hi => ?_)
  rw [show decode32 e = orIllegal true (.ori (bits e 8 6) (bits e 14 6) (bits e 20 12)) by unfold decode32; rw [show fld e 0 8 = 9 from p0]; rfl]
  rw [f0, f1, f2]
  exact orIllegal_of rfl hi

theorem RoundTrip.xori (d : BitVec 6) (a : BitVec 6) (i : BitVec 12) : Statement (.xori d a i) := by
  obtain ⟨e, he, hw, ho, p0, f0, f1, f2⟩ := word3 (k := 11) d a i (by decide)
  refine ofWord (w := e) (by rw [he]; rfl) hw ho (fun hi => ?_)
  rw [show decode32 e = orIllegal true (.xori (bits e 8 6) (bits e 14 6) (bits e 20 12)) by unfold decode32; rw [show fld e 0 8 = 11 from p0]; rfl]
  rw [f0, f1, f2]
  exact orIllegal_of rfl hi

theorem RoundTrip.slti (d : BitVec 6) (a : BitVec 6) (i : BitVec 12) : Statement (.slti d a i) := by
  obtain ⟨e, he, hw, ho, p0, f0, f1, f2⟩ := word3 (k := 13) d a i (by decide)
  refine ofWord (w := e) (by rw [he]; rfl) hw ho (fun hi => ?_)
  rw [show decode32 e = orIllegal true (.slti (bits e 8 6) (bits e 14 6) (bits e 20 12)) by unfold decode32; rw [show fld e 0 8 = 13 from p0]; rfl]
  rw [f0, f1, f2]
  exact orIllegal_of rfl hi

theorem RoundTrip.sltiu (d : BitVec 6) (a : BitVec 6) (i : BitVec 12) : Statement (.sltiu d a i) := by
  obtain ⟨e, he, hw, ho, p0, f0, f1, f2⟩ := word3 (k := 15) d a i (by decide)
  refine ofWord (w := e) (by rw [he]; rfl) hw ho (fun hi => ?_)
  rw [show decode32 e = orIllegal true (.sltiu (bits e 8 6) (bits e 14 6) (bits e 20 12)) by unfold decode32; rw [show fld e 0 8 = 15 from p0]; rfl]
  rw [f0, f1, f2]
  exact orIllegal_of rfl hi

theorem RoundTrip.shli (d : BitVec 6) (a : BitVec 6) (s : BitVec 6) : Statement (.shli d a s) := by
  obtain ⟨e, he, hw, ho, p0, p1, f0, f1, f2⟩ := word1 (k := 17) d a s (by decide)
  refine ofWord (w := e) (by rw [he]; rfl) hw ho (fun hi => ?_)
  rw [show decode32 e = orIllegal (fld e 26 6 == 0) (.shli (bits e 8 6) (bits e 14 6) (bits e 20 6)) by unfold decode32; rw [show fld e 0 8 = 17 from p0]; rfl]
  rw [f0, f1, f2]
  exact orIllegal_of (by rw [p1]; rfl) hi

theorem RoundTrip.shri (d : BitVec 6) (a : BitVec 6) (s : BitVec 6) : Statement (.shri d a s) := by
  obtain ⟨e, he, hw, ho, p0, p1, f0, f1, f2⟩ := word1 (k := 19) d a s (by decide)
  refine ofWord (w := e) (by rw [he]; rfl) hw ho (fun hi => ?_)
  rw [show decode32 e = orIllegal (fld e 26 6 == 0) (.shri (bits e 8 6) (bits e 14 6) (bits e 20 6)) by unfold decode32; rw [show fld e 0 8 = 19 from p0]; rfl]
  rw [f0, f1, f2]
  exact orIllegal_of (by rw [p1]; rfl) hi

theorem RoundTrip.shai (d : BitVec 6) (a : BitVec 6) (s : BitVec 6) : Statement (.shai d a s) := by
  obtain ⟨e, he, hw, ho, p0, p1, f0, f1, f2⟩ := word1 (k := 21) d a s (by decide)
  refine ofWord (w := e) (by rw [he]; rfl) hw ho (fun hi => ?_)
  rw [show decode32 e = orIllegal (fld e 26 6 == 0) (.shai (bits e 8 6) (bits e 14 6) (bits e 20 6)) by unfold decode32; rw [show fld e 0 8 = 21 from p0]; rfl]
  rw [f0, f1, f2]
  exact orIllegal_of (by rw [p1]; rfl) hi

theorem RoundTrip.li (d : BitVec 6) (i : BitVec 18) : Statement (.li d i) := by
  obtain ⟨e, he, hw, ho, p0, f0, f1⟩ := word4 (k := 23) d i (by decide)
  refine ofWord (w := e) (by rw [he]; rfl) hw ho (fun hi => ?_)
  rw [show decode32 e = orIllegal true (.li (bits e 8 6) (bits e 14 18)) by unfold decode32; rw [show fld e 0 8 = 23 from p0]; rfl]
  rw [f0, f1]
  exact orIllegal_of rfl hi

theorem RoundTrip.lis (d : BitVec 6) (i : BitVec 18) : Statement (.lis d i) := by
  obtain ⟨e, he, hw, ho, p0, f0, f1⟩ := word4 (k := 25) d i (by decide)
  refine ofWord (w := e) (by rw [he]; rfl) hw ho (fun hi => ?_)
  rw [show decode32 e = orIllegal true (.lis (bits e 8 6) (bits e 14 18)) by unfold decode32; rw [show fld e 0 8 = 25 from p0]; rfl]
  rw [f0, f1]
  exact orIllegal_of rfl hi

theorem RoundTrip.rbacq (d : BitVec 6) (a : BitVec 6) : Statement (.rbacq d a) := by
  obtain ⟨e, he, hw, ho, p0, p1, p2, f0, f1⟩ := word2 (k := 27) d a (by decide)
  refine ofWord (w := e) (by rw [he]; rfl) hw ho (fun hi => ?_)
  rw [show decode32 e = decodeP0D e by unfold decode32; rw [show fld e 0 8 = 27 from p0]; rfl]
  rw [show decodeP0D e = orIllegal (fld e 20 6 == 0) (.rbacq (bits e 8 6) (bits e 14 6)) by unfold decodeP0D; rw [show fld e 26 6 = 0 from p1]; rfl]
  rw [f0, f1]
  exact orIllegal_of (by rw [p2]; rfl) hi

theorem RoundTrip.rbacqt (d : BitVec 6) (a : BitVec 6) : Statement (.rbacqt d a) := by
  obtain ⟨e, he, hw, ho, p0, p1, p2, f0, f1⟩ := word2 (k := 67108891) d a (by decide)
  refine ofWord (w := e) (by rw [he]; rfl) hw ho (fun hi => ?_)
  rw [show decode32 e = decodeP0D e by unfold decode32; rw [show fld e 0 8 = 27 from p0]; rfl]
  rw [show decodeP0D e = orIllegal (fld e 20 6 == 0) (.rbacqt (bits e 8 6) (bits e 14 6)) by unfold decodeP0D; rw [show fld e 26 6 = 1 from p1]; rfl]
  rw [f0, f1]
  exact orIllegal_of (by rw [p2]; rfl) hi

theorem RoundTrip.rbrel (a : BitVec 6) (b : BitVec 6) : Statement (.rbrel a b) := by
  obtain ⟨e, he, hw, ho, p0, p1, p2, f0, f1⟩ := word5 (k := 134217755) a b (by decide)
  refine ofWord (w := e) (by rw [he]; rfl) hw ho (fun hi => ?_)
  rw [show decode32 e = decodeP0D e by unfold decode32; rw [show fld e 0 8 = 27 from p0]; rfl]
  rw [show decodeP0D e = orIllegal (fld e 8 6 == 0) (.rbrel (bits e 14 6) (bits e 20 6)) by unfold decodeP0D; rw [show fld e 26 6 = 2 from p1]; rfl]
  rw [f0, f1]
  exact orIllegal_of (by rw [p2]; rfl) hi

theorem RoundTrip.ixset (x : BitVec 2) (a : BitVec 6) : Statement (.ixset x a) := by
  obtain ⟨e, he, hw, ho, p0, p1, p2, p3, f0, f1⟩ := word6 (k := 201326619) x a (by decide)
  refine ofWord (w := e) (by rw [he]; rfl) hw ho (fun hi => ?_)
  rw [show decode32 e = decodeP0D e by unfold decode32; rw [show fld e 0 8 = 27 from p0]; rfl]
  rw [show decodeP0D e = orIllegal (fld e 10 4 == 0 && fld e 20 6 == 0) (.ixset (bits e 8 2) (bits e 14 6)) by unfold decodeP0D; rw [show fld e 26 6 = 3 from p1]; rfl]
  rw [f0, f1]
  exact orIllegal_of (by rw [p2, p3]; rfl) hi

theorem RoundTrip.ixadd (x : BitVec 2) (a : BitVec 6) : Statement (.ixadd x a) := by
  obtain ⟨e, he, hw, ho, p0, p1, p2, p3, f0, f1⟩ := word6 (k := 268435483) x a (by decide)
  refine ofWord (w := e) (by rw [he]; rfl) hw ho (fun hi => ?_)
  rw [show decode32 e = decodeP0D e by unfold decode32; rw [show fld e 0 8 = 27 from p0]; rfl]
  rw [show decodeP0D e = orIllegal (fld e 10 4 == 0 && fld e 20 6 == 0) (.ixadd (bits e 8 2) (bits e 14 6)) by unfold decodeP0D; rw [show fld e 26 6 = 4 from p1]; rfl]
  rw [f0, f1]
  exact orIllegal_of (by rw [p2, p3]; rfl) hi

theorem RoundTrip.lox (o : BitVec 3) (a : BitVec 6) : Statement (.lox o a) := by
  obtain ⟨e, he, hw, ho, p0, p1, p2, p3, f0, f1⟩ := word7 (k := 335544347) o a (by decide)
  refine ofWord (w := e) (by rw [he]; rfl) hw ho (fun hi => ?_)
  rw [show decode32 e = decodeP0D e by unfold decode32; rw [show fld e 0 8 = 27 from p0]; rfl]
  rw [show decodeP0D e = orIllegal (fld e 11 3 == 0 && fld e 20 6 == 0) (.lox (bits e 8 3) (bits e 14 6)) by unfold decodeP0D; rw [show fld e 26 6 = 5 from p1]; rfl]
  rw [f0, f1]
  exact orIllegal_of (by rw [p2, p3]; rfl) hi

theorem RoundTrip.movox (d : BitVec 6) (o : BitVec 3) : Statement (.movox d o) := by
  obtain ⟨e, he, hw, ho, p0, p1, p2, f0, f1⟩ := word8 (k := 402653211) d o (by decide)
  refine ofWord (w := e) (by rw [he]; rfl) hw ho (fun hi => ?_)
  rw [show decode32 e = decodeP0D e by unfold decode32; rw [show fld e 0 8 = 27 from p0]; rfl]
  rw [show decodeP0D e = orIllegal (fld e 17 9 == 0) (.movox (bits e 8 6) (bits e 14 3)) by unfold decodeP0D; rw [show fld e 26 6 = 6 from p1]; rfl]
  rw [f0, f1]
  exact orIllegal_of (by rw [p2]; rfl) hi

theorem RoundTrip.movx (d : BitVec 6) (x : BitVec 2) (i : BitVec 12) : Statement (.movx d x i) := by
  obtain ⟨e, he, hw, ho, p0, p1, f0, f1, f2⟩ := word9 (k := 29) d x i (by decide)
  refine ofWord (w := e) (by rw [he]; rfl) hw ho (fun hi => ?_)
  rw [show decode32 e = orIllegal (fld e 16 4 == 0) (.movx (bits e 8 6) (bits e 14 2) (bits e 20 12)) by unfold decode32; rw [show fld e 0 8 = 29 from p0]; rfl]
  rw [f0, f1, f2]
  exact orIllegal_of (by rw [p1]; rfl) hi

theorem RoundTrip.movxw (d : BitVec 6) (x : BitVec 2) (i : BitVec 12) : Statement (.movxw d x i) := by
  obtain ⟨e, he, hw, ho, p0, p1, f0, f1, f2⟩ := word9 (k := 31) d x i (by decide)
  refine ofWord (w := e) (by rw [he]; rfl) hw ho (fun hi => ?_)
  rw [show decode32 e = orIllegal (fld e 16 4 == 0) (.movxw (bits e 8 6) (bits e 14 2) (bits e 20 12)) by unfold decode32; rw [show fld e 0 8 = 31 from p0]; rfl]
  rw [f0, f1, f2]
  exact orIllegal_of (by rw [p1]; rfl) hi

theorem RoundTrip.beq (a : BitVec 6) (b : BitVec 6) (o : BitVec 12) : Statement (.beq a b o) := by
  obtain ⟨e, he, hw, ho, p0, f0, f1, f2⟩ := word3 (k := 33) a b o (by decide)
  refine ofWord (w := e) (by rw [he]; rfl) hw ho (fun hi => ?_)
  rw [show decode32 e = orIllegal true (.beq (bits e 8 6) (bits e 14 6) (bits e 20 12)) by unfold decode32; rw [show fld e 0 8 = 33 from p0]; rfl]
  rw [f0, f1, f2]
  exact orIllegal_of rfl hi

theorem RoundTrip.bne (a : BitVec 6) (b : BitVec 6) (o : BitVec 12) : Statement (.bne a b o) := by
  obtain ⟨e, he, hw, ho, p0, f0, f1, f2⟩ := word3 (k := 35) a b o (by decide)
  refine ofWord (w := e) (by rw [he]; rfl) hw ho (fun hi => ?_)
  rw [show decode32 e = orIllegal true (.bne (bits e 8 6) (bits e 14 6) (bits e 20 12)) by unfold decode32; rw [show fld e 0 8 = 35 from p0]; rfl]
  rw [f0, f1, f2]
  exact orIllegal_of rfl hi

theorem RoundTrip.blt (a : BitVec 6) (b : BitVec 6) (o : BitVec 12) : Statement (.blt a b o) := by
  obtain ⟨e, he, hw, ho, p0, f0, f1, f2⟩ := word3 (k := 37) a b o (by decide)
  refine ofWord (w := e) (by rw [he]; rfl) hw ho (fun hi => ?_)
  rw [show decode32 e = orIllegal true (.blt (bits e 8 6) (bits e 14 6) (bits e 20 12)) by unfold decode32; rw [show fld e 0 8 = 37 from p0]; rfl]
  rw [f0, f1, f2]
  exact orIllegal_of rfl hi

theorem RoundTrip.bge (a : BitVec 6) (b : BitVec 6) (o : BitVec 12) : Statement (.bge a b o) := by
  obtain ⟨e, he, hw, ho, p0, f0, f1, f2⟩ := word3 (k := 39) a b o (by decide)
  refine ofWord (w := e) (by rw [he]; rfl) hw ho (fun hi => ?_)
  rw [show decode32 e = orIllegal true (.bge (bits e 8 6) (bits e 14 6) (bits e 20 12)) by unfold decode32; rw [show fld e 0 8 = 39 from p0]; rfl]
  rw [f0, f1, f2]
  exact orIllegal_of rfl hi

theorem RoundTrip.bltu (a : BitVec 6) (b : BitVec 6) (o : BitVec 12) : Statement (.bltu a b o) := by
  obtain ⟨e, he, hw, ho, p0, f0, f1, f2⟩ := word3 (k := 41) a b o (by decide)
  refine ofWord (w := e) (by rw [he]; rfl) hw ho (fun hi => ?_)
  rw [show decode32 e = orIllegal true (.bltu (bits e 8 6) (bits e 14 6) (bits e 20 12)) by unfold decode32; rw [show fld e 0 8 = 41 from p0]; rfl]
  rw [f0, f1, f2]
  exact orIllegal_of rfl hi

theorem RoundTrip.bgeu (a : BitVec 6) (b : BitVec 6) (o : BitVec 12) : Statement (.bgeu a b o) := by
  obtain ⟨e, he, hw, ho, p0, f0, f1, f2⟩ := word3 (k := 43) a b o (by decide)
  refine ofWord (w := e) (by rw [he]; rfl) hw ho (fun hi => ?_)
  rw [show decode32 e = orIllegal true (.bgeu (bits e 8 6) (bits e 14 6) (bits e 20 12)) by unfold decode32; rw [show fld e 0 8 = 43 from p0]; rfl]
  rw [f0, f1, f2]
  exact orIllegal_of rfl hi

theorem RoundTrip.j (o : BitVec 24) : Statement (.j o) := by
  obtain ⟨e, he, hw, ho, p0, f0⟩ := word10 (k := 45) o (by decide)
  refine ofWord (w := e) (by rw [he]; rfl) hw ho (fun hi => ?_)
  rw [show decode32 e = orIllegal true (.j (bits e 8 24)) by unfold decode32; rw [show fld e 0 8 = 45 from p0]; rfl]
  rw [f0]
  exact orIllegal_of rfl hi

theorem RoundTrip.jl (o : BitVec 24) : Statement (.jl o) := by
  obtain ⟨e, he, hw, ho, p0, f0⟩ := word10 (k := 47) o (by decide)
  refine ofWord (w := e) (by rw [he]; rfl) hw ho (fun hi => ?_)
  rw [show decode32 e = orIllegal true (.jl (bits e 8 24)) by unfold decode32; rw [show fld e 0 8 = 47 from p0]; rfl]
  rw [f0]
  exact orIllegal_of rfl hi

theorem RoundTrip.jr (a : BitVec 6) : Statement (.jr a) := by
  obtain ⟨e, he, hw, ho, p0, p1, p2, p3, f0⟩ := word11 (k := 49) a (by decide)
  refine ofWord (w := e) (by rw [he]; rfl) hw ho (fun hi => ?_)
  rw [show decode32 e = decodeP18 e by unfold decode32; rw [show fld e 0 8 = 49 from p0]; rfl]
  rw [show decodeP18 e = orIllegal (fld e 8 6 == 0 && fld e 20 6 == 0) (.jr (bits e 14 6)) by unfold decodeP18; rw [show fld e 26 6 = 0 from p1]; rfl]
  rw [f0]
  exact orIllegal_of (by rw [p2, p3]; rfl) hi

theorem RoundTrip.jlr (a : BitVec 6) : Statement (.jlr a) := by
  obtain ⟨e, he, hw, ho, p0, p1, p2, p3, f0⟩ := word11 (k := 67108913) a (by decide)
  refine ofWord (w := e) (by rw [he]; rfl) hw ho (fun hi => ?_)
  rw [show decode32 e = decodeP18 e by unfold decode32; rw [show fld e 0 8 = 49 from p0]; rfl]
  rw [show decodeP18 e = orIllegal (fld e 8 6 == 0 && fld e 20 6 == 0) (.jlr (bits e 14 6)) by unfold decodeP18; rw [show fld e 26 6 = 1 from p1]; rfl]
  rw [f0]
  exact orIllegal_of (by rw [p2, p3]; rfl) hi

theorem RoundTrip.ret (a : BitVec 6) : Statement (.ret a) := by
  obtain ⟨e, he, hw, ho, p0, p1, p2, p3, f0⟩ := word11 (k := 134217777) a (by decide)
  refine ofWord (w := e) (by rw [he]; rfl) hw ho (fun hi => ?_)
  rw [show decode32 e = decodeP18 e by unfold decode32; rw [show fld e 0 8 = 49 from p0]; rfl]
  rw [show decodeP18 e = orIllegal (fld e 8 6 == 0 && fld e 20 6 == 0) (.ret (bits e 14 6)) by unfold decodeP18; rw [show fld e 26 6 = 2 from p1]; rfl]
  rw [f0]
  exact orIllegal_of (by rw [p2, p3]; rfl) hi

theorem RoundTrip.loop (a : BitVec 6) (o : BitVec 12) : Statement (.loop a o) := by
  obtain ⟨e, he, hw, ho, p0, p1, f0, f1⟩ := word12 (k := 53) a o (by decide)
  refine ofWord (w := e) (by rw [he]; rfl) hw ho (fun hi => ?_)
  rw [show decode32 e = orIllegal (fld e 14 6 == 0) (.loop (bits e 8 6) (bits e 20 12)) by unfold decode32; rw [show fld e 0 8 = 53 from p0]; rfl]
  rw [f0, f1]
  exact orIllegal_of (by rw [p1]; rfl) hi

theorem RoundTrip.boqw (a : BitVec 6) : Statement (.boqw a) := by
  obtain ⟨e, he, hw, ho, p0, p1, p2, f0⟩ := word13 (k := 55) a (by decide)
  refine ofWord (w := e) (by rw [he]; rfl) hw ho (fun hi => ?_)
  rw [show decode32 e = orIllegal (fld e 8 6 == 0 && fld e 20 12 == 0) (.boqw (bits e 14 6)) by unfold decode32; rw [show fld e 0 8 = 55 from p0]; rfl]
  rw [f0]
  exact orIllegal_of (by rw [p1, p2]; rfl) hi

theorem RoundTrip.boqb (s : BitVec 1) (o : BitVec 12) : Statement (.boqb s o) := by
  obtain ⟨e, he, hw, ho, p0, p1, f0, f1⟩ := word14 (k := 57) s o (by decide)
  refine ofWord (w := e) (by rw [he]; rfl) hw ho (fun hi => ?_)
  rw [show decode32 e = orIllegal (fld e 9 11 == 0) (.boqb (bits e 8 1) (bits e 20 12)) by unfold decode32; rw [show fld e 0 8 = 57 from p0]; rfl]
  rw [f0, f1]
  exact orIllegal_of (by rw [p1]; rfl) hi

theorem RoundTrip.ctxres (d : BitVec 6) (a : BitVec 6) (b : BitVec 6) : Statement (.ctxres d a b) := by
  obtain ⟨e, he, hw, ho, p0, p1, f0, f1, f2⟩ := word1 (k := 59) d a b (by decide)
  refine ofWord (w := e) (by rw [he]; rfl) hw ho (fun hi => ?_)
  rw [show decode32 e = orIllegal (fld e 26 6 == 0) (.ctxres (bits e 8 6) (bits e 14 6) (bits e 20 6)) by unfold decode32; rw [show fld e 0 8 = 59 from p0]; rfl]
  rw [f0, f1, f2]
  exact orIllegal_of (by rw [p1]; rfl) hi

theorem RoundTrip.fadd (d : BitVec 6) (a : BitVec 6) (b : BitVec 6) : Statement (.fadd d a b) := by
  obtain ⟨e, he, hw, ho, p0, p1, f0, f1, f2⟩ := word1 (k := 61) d a b (by decide)
  refine ofWord (w := e) (by rw [he]; rfl) hw ho (fun hi => ?_)
  rw [show decode32 e = decodeP1E e by unfold decode32; rw [show fld e 0 8 = 61 from p0]; rfl]
  rw [show decodeP1E e = orIllegal true (.fadd (bits e 8 6) (bits e 14 6) (bits e 20 6)) by unfold decodeP1E; rw [show fld e 26 6 = 0 from p1]; rfl]
  rw [f0, f1, f2]
  exact orIllegal_of rfl hi

theorem RoundTrip.fsub (d : BitVec 6) (a : BitVec 6) (b : BitVec 6) : Statement (.fsub d a b) := by
  obtain ⟨e, he, hw, ho, p0, p1, f0, f1, f2⟩ := word1 (k := 67108925) d a b (by decide)
  refine ofWord (w := e) (by rw [he]; rfl) hw ho (fun hi => ?_)
  rw [show decode32 e = decodeP1E e by unfold decode32; rw [show fld e 0 8 = 61 from p0]; rfl]
  rw [show decodeP1E e = orIllegal true (.fsub (bits e 8 6) (bits e 14 6) (bits e 20 6)) by unfold decodeP1E; rw [show fld e 26 6 = 1 from p1]; rfl]
  rw [f0, f1, f2]
  exact orIllegal_of rfl hi

theorem RoundTrip.fmul (d : BitVec 6) (a : BitVec 6) (b : BitVec 6) : Statement (.fmul d a b) := by
  obtain ⟨e, he, hw, ho, p0, p1, f0, f1, f2⟩ := word1 (k := 134217789) d a b (by decide)
  refine ofWord (w := e) (by rw [he]; rfl) hw ho (fun hi => ?_)
  rw [show decode32 e = decodeP1E e by unfold decode32; rw [show fld e 0 8 = 61 from p0]; rfl]
  rw [show decodeP1E e = orIllegal true (.fmul (bits e 8 6) (bits e 14 6) (bits e 20 6)) by unfold decodeP1E; rw [show fld e 26 6 = 2 from p1]; rfl]
  rw [f0, f1, f2]
  exact orIllegal_of rfl hi

theorem RoundTrip.ffma (d : BitVec 6) (a : BitVec 6) (b : BitVec 6) : Statement (.ffma d a b) := by
  obtain ⟨e, he, hw, ho, p0, p1, f0, f1, f2⟩ := word1 (k := 201326653) d a b (by decide)
  refine ofWord (w := e) (by rw [he]; rfl) hw ho (fun hi => ?_)
  rw [show decode32 e = decodeP1E e by unfold decode32; rw [show fld e 0 8 = 61 from p0]; rfl]
  rw [show decodeP1E e = orIllegal true (.ffma (bits e 8 6) (bits e 14 6) (bits e 20 6)) by unfold decodeP1E; rw [show fld e 26 6 = 3 from p1]; rfl]
  rw [f0, f1, f2]
  exact orIllegal_of rfl hi

theorem RoundTrip.fdiv (d : BitVec 6) (a : BitVec 6) (b : BitVec 6) : Statement (.fdiv d a b) := by
  obtain ⟨e, he, hw, ho, p0, p1, f0, f1, f2⟩ := word1 (k := 268435517) d a b (by decide)
  refine ofWord (w := e) (by rw [he]; rfl) hw ho (fun hi => ?_)
  rw [show decode32 e = decodeP1E e by unfold decode32; rw [show fld e 0 8 = 61 from p0]; rfl]
  rw [show decodeP1E e = orIllegal true (.fdiv (bits e 8 6) (bits e 14 6) (bits e 20 6)) by unfold decodeP1E; rw [show fld e 26 6 = 4 from p1]; rfl]
  rw [f0, f1, f2]
  exact orIllegal_of rfl hi

theorem RoundTrip.fsqrt (d : BitVec 6) (a : BitVec 6) : Statement (.fsqrt d a) := by
  obtain ⟨e, he, hw, ho, p0, p1, p2, f0, f1⟩ := word2 (k := 335544381) d a (by decide)
  refine ofWord (w := e) (by rw [he]; rfl) hw ho (fun hi => ?_)
  rw [show decode32 e = decodeP1E e by unfold decode32; rw [show fld e 0 8 = 61 from p0]; rfl]
  rw [show decodeP1E e = orIllegal (fld e 20 6 == 0) (.fsqrt (bits e 8 6) (bits e 14 6)) by unfold decodeP1E; rw [show fld e 26 6 = 5 from p1]; rfl]
  rw [f0, f1]
  exact orIllegal_of (by rw [p2]; rfl) hi

theorem RoundTrip.fmin (d : BitVec 6) (a : BitVec 6) (b : BitVec 6) : Statement (.fmin d a b) := by
  obtain ⟨e, he, hw, ho, p0, p1, f0, f1, f2⟩ := word1 (k := 402653245) d a b (by decide)
  refine ofWord (w := e) (by rw [he]; rfl) hw ho (fun hi => ?_)
  rw [show decode32 e = decodeP1E e by unfold decode32; rw [show fld e 0 8 = 61 from p0]; rfl]
  rw [show decodeP1E e = orIllegal true (.fmin (bits e 8 6) (bits e 14 6) (bits e 20 6)) by unfold decodeP1E; rw [show fld e 26 6 = 6 from p1]; rfl]
  rw [f0, f1, f2]
  exact orIllegal_of rfl hi

theorem RoundTrip.fmax (d : BitVec 6) (a : BitVec 6) (b : BitVec 6) : Statement (.fmax d a b) := by
  obtain ⟨e, he, hw, ho, p0, p1, f0, f1, f2⟩ := word1 (k := 469762109) d a b (by decide)
  refine ofWord (w := e) (by rw [he]; rfl) hw ho (fun hi => ?_)
  rw [show decode32 e = decodeP1E e by unfold decode32; rw [show fld e 0 8 = 61 from p0]; rfl]
  rw [show decodeP1E e = orIllegal true (.fmax (bits e 8 6) (bits e 14 6) (bits e 20 6)) by unfold decodeP1E; rw [show fld e 26 6 = 7 from p1]; rfl]
  rw [f0, f1, f2]
  exact orIllegal_of rfl hi

theorem RoundTrip.feq (d : BitVec 6) (a : BitVec 6) (b : BitVec 6) : Statement (.feq d a b) := by
  obtain ⟨e, he, hw, ho, p0, p1, f0, f1, f2⟩ := word1 (k := 536870973) d a b (by decide)
  refine ofWord (w := e) (by rw [he]; rfl) hw ho (fun hi => ?_)
  rw [show decode32 e = decodeP1E e by unfold decode32; rw [show fld e 0 8 = 61 from p0]; rfl]
  rw [show decodeP1E e = orIllegal true (.feq (bits e 8 6) (bits e 14 6) (bits e 20 6)) by unfold decodeP1E; rw [show fld e 26 6 = 8 from p1]; rfl]
  rw [f0, f1, f2]
  exact orIllegal_of rfl hi

theorem RoundTrip.flt (d : BitVec 6) (a : BitVec 6) (b : BitVec 6) : Statement (.flt d a b) := by
  obtain ⟨e, he, hw, ho, p0, p1, f0, f1, f2⟩ := word1 (k := 603979837) d a b (by decide)
  refine ofWord (w := e) (by rw [he]; rfl) hw ho (fun hi => ?_)
  rw [show decode32 e = decodeP1E e by unfold decode32; rw [show fld e 0 8 = 61 from p0]; rfl]
  rw [show decodeP1E e = orIllegal true (.flt (bits e 8 6) (bits e 14 6) (bits e 20 6)) by unfold decodeP1E; rw [show fld e 26 6 = 9 from p1]; rfl]
  rw [f0, f1, f2]
  exact orIllegal_of rfl hi

theorem RoundTrip.fle (d : BitVec 6) (a : BitVec 6) (b : BitVec 6) : Statement (.fle d a b) := by
  obtain ⟨e, he, hw, ho, p0, p1, f0, f1, f2⟩ := word1 (k := 671088701) d a b (by decide)
  refine ofWord (w := e) (by rw [he]; rfl) hw ho (fun hi => ?_)
  rw [show decode32 e = decodeP1E e by unfold decode32; rw [show fld e 0 8 = 61 from p0]; rfl]
  rw [show decodeP1E e = orIllegal true (.fle (bits e 8 6) (bits e 14 6) (bits e 20 6)) by unfold decodeP1E; rw [show fld e 26 6 = 10 from p1]; rfl]
  rw [f0, f1, f2]
  exact orIllegal_of rfl hi

theorem RoundTrip.fcvtws (d : BitVec 6) (a : BitVec 6) : Statement (.fcvtws d a) := by
  obtain ⟨e, he, hw, ho, p0, p1, p2, f0, f1⟩ := word2 (k := 738197565) d a (by decide)
  refine ofWord (w := e) (by rw [he]; rfl) hw ho (fun hi => ?_)
  rw [show decode32 e = decodeP1E e by unfold decode32; rw [show fld e 0 8 = 61 from p0]; rfl]
  rw [show decodeP1E e = orIllegal (fld e 20 6 == 0) (.fcvtws (bits e 8 6) (bits e 14 6)) by unfold decodeP1E; rw [show fld e 26 6 = 11 from p1]; rfl]
  rw [f0, f1]
  exact orIllegal_of (by rw [p2]; rfl) hi

theorem RoundTrip.fcvtsw (d : BitVec 6) (a : BitVec 6) : Statement (.fcvtsw d a) := by
  obtain ⟨e, he, hw, ho, p0, p1, p2, f0, f1⟩ := word2 (k := 805306429) d a (by decide)
  refine ofWord (w := e) (by rw [he]; rfl) hw ho (fun hi => ?_)
  rw [show decode32 e = decodeP1E e by unfold decode32; rw [show fld e 0 8 = 61 from p0]; rfl]
  rw [show decodeP1E e = orIllegal (fld e 20 6 == 0) (.fcvtsw (bits e 8 6) (bits e 14 6)) by unfold decodeP1E; rw [show fld e 26 6 = 12 from p1]; rfl]
  rw [f0, f1]
  exact orIllegal_of (by rw [p2]; rfl) hi

theorem RoundTrip.ldb (d : BitVec 6) (a : BitVec 6) (i : BitVec 12) : Statement (.ldb d a i) := by
  obtain ⟨e, he, hw, ho, p0, f0, f1, f2⟩ := word3 (k := 65) d a i (by decide)
  refine ofWord (w := e) (by rw [he]; rfl) hw ho (fun hi => ?_)
  rw [show decode32 e = orIllegal true (.ldb (bits e 8 6) (bits e 14 6) (bits e 20 12)) by unfold decode32; rw [show fld e 0 8 = 65 from p0]; rfl]
  rw [f0, f1, f2]
  exact orIllegal_of rfl hi

theorem RoundTrip.ldbu (d : BitVec 6) (a : BitVec 6) (i : BitVec 12) : Statement (.ldbu d a i) := by
  obtain ⟨e, he, hw, ho, p0, f0, f1, f2⟩ := word3 (k := 67) d a i (by decide)
  refine ofWord (w := e) (by rw [he]; rfl) hw ho (fun hi => ?_)
  rw [show decode32 e = orIllegal true (.ldbu (bits e 8 6) (bits e 14 6) (bits e 20 12)) by unfold decode32; rw [show fld e 0 8 = 67 from p0]; rfl]
  rw [f0, f1, f2]
  exact orIllegal_of rfl hi

theorem RoundTrip.ldh (d : BitVec 6) (a : BitVec 6) (i : BitVec 12) : Statement (.ldh d a i) := by
  obtain ⟨e, he, hw, ho, p0, f0, f1, f2⟩ := word3 (k := 69) d a i (by decide)
  refine ofWord (w := e) (by rw [he]; rfl) hw ho (fun hi => ?_)
  rw [show decode32 e = orIllegal true (.ldh (bits e 8 6) (bits e 14 6) (bits e 20 12)) by unfold decode32; rw [show fld e 0 8 = 69 from p0]; rfl]
  rw [f0, f1, f2]
  exact orIllegal_of rfl hi

theorem RoundTrip.ldhu (d : BitVec 6) (a : BitVec 6) (i : BitVec 12) : Statement (.ldhu d a i) := by
  obtain ⟨e, he, hw, ho, p0, f0, f1, f2⟩ := word3 (k := 71) d a i (by decide)
  refine ofWord (w := e) (by rw [he]; rfl) hw ho (fun hi => ?_)
  rw [show decode32 e = orIllegal true (.ldhu (bits e 8 6) (bits e 14 6) (bits e 20 12)) by unfold decode32; rw [show fld e 0 8 = 71 from p0]; rfl]
  rw [f0, f1, f2]
  exact orIllegal_of rfl hi

theorem RoundTrip.ldw (d : BitVec 6) (a : BitVec 6) (i : BitVec 12) : Statement (.ldw d a i) := by
  obtain ⟨e, he, hw, ho, p0, f0, f1, f2⟩ := word3 (k := 73) d a i (by decide)
  refine ofWord (w := e) (by rw [he]; rfl) hw ho (fun hi => ?_)
  rw [show decode32 e = orIllegal true (.ldw (bits e 8 6) (bits e 14 6) (bits e 20 12)) by unfold decode32; rw [show fld e 0 8 = 73 from p0]; rfl]
  rw [f0, f1, f2]
  exact orIllegal_of rfl hi

theorem RoundTrip.ldwu (d : BitVec 6) (a : BitVec 6) (i : BitVec 12) : Statement (.ldwu d a i) := by
  obtain ⟨e, he, hw, ho, p0, f0, f1, f2⟩ := word3 (k := 75) d a i (by decide)
  refine ofWord (w := e) (by rw [he]; rfl) hw ho (fun hi => ?_)
  rw [show decode32 e = orIllegal true (.ldwu (bits e 8 6) (bits e 14 6) (bits e 20 12)) by unfold decode32; rw [show fld e 0 8 = 75 from p0]; rfl]
  rw [f0, f1, f2]
  exact orIllegal_of rfl hi

theorem RoundTrip.ldd (d : BitVec 6) (a : BitVec 6) (i : BitVec 12) : Statement (.ldd d a i) := by
  obtain ⟨e, he, hw, ho, p0, f0, f1, f2⟩ := word3 (k := 77) d a i (by decide)
  refine ofWord (w := e) (by rw [he]; rfl) hw ho (fun hi => ?_)
  rw [show decode32 e = orIllegal true (.ldd (bits e 8 6) (bits e 14 6) (bits e 20 12)) by unfold decode32; rw [show fld e 0 8 = 77 from p0]; rfl]
  rw [f0, f1, f2]
  exact orIllegal_of rfl hi

theorem RoundTrip.stb (d : BitVec 6) (a : BitVec 6) (i : BitVec 12) : Statement (.stb d a i) := by
  obtain ⟨e, he, hw, ho, p0, f0, f1, f2⟩ := word3 (k := 79) d a i (by decide)
  refine ofWord (w := e) (by rw [he]; rfl) hw ho (fun hi => ?_)
  rw [show decode32 e = orIllegal true (.stb (bits e 8 6) (bits e 14 6) (bits e 20 12)) by unfold decode32; rw [show fld e 0 8 = 79 from p0]; rfl]
  rw [f0, f1, f2]
  exact orIllegal_of rfl hi

theorem RoundTrip.sth (d : BitVec 6) (a : BitVec 6) (i : BitVec 12) : Statement (.sth d a i) := by
  obtain ⟨e, he, hw, ho, p0, f0, f1, f2⟩ := word3 (k := 81) d a i (by decide)
  refine ofWord (w := e) (by rw [he]; rfl) hw ho (fun hi => ?_)
  rw [show decode32 e = orIllegal true (.sth (bits e 8 6) (bits e 14 6) (bits e 20 12)) by unfold decode32; rw [show fld e 0 8 = 81 from p0]; rfl]
  rw [f0, f1, f2]
  exact orIllegal_of rfl hi

theorem RoundTrip.stw (d : BitVec 6) (a : BitVec 6) (i : BitVec 12) : Statement (.stw d a i) := by
  obtain ⟨e, he, hw, ho, p0, f0, f1, f2⟩ := word3 (k := 83) d a i (by decide)
  refine ofWord (w := e) (by rw [he]; rfl) hw ho (fun hi => ?_)
  rw [show decode32 e = orIllegal true (.stw (bits e 8 6) (bits e 14 6) (bits e 20 12)) by unfold decode32; rw [show fld e 0 8 = 83 from p0]; rfl]
  rw [f0, f1, f2]
  exact orIllegal_of rfl hi

theorem RoundTrip.std (d : BitVec 6) (a : BitVec 6) (i : BitVec 12) : Statement (.std d a i) := by
  obtain ⟨e, he, hw, ho, p0, f0, f1, f2⟩ := word3 (k := 85) d a i (by decide)
  refine ofWord (w := e) (by rw [he]; rfl) hw ho (fun hi => ?_)
  rw [show decode32 e = orIllegal true (.std (bits e 8 6) (bits e 14 6) (bits e 20 12)) by unfold decode32; rw [show fld e 0 8 = 85 from p0]; rfl]
  rw [f0, f1, f2]
  exact orIllegal_of rfl hi

theorem RoundTrip.lda (d : BitVec 6) (a : BitVec 6) (s : BitVec 2) : Statement (.lda d a s) := by
  obtain ⟨e, he, hw, ho, p0, p1, p2, f0, f1, f2⟩ := word15 (k := 87) d a s (by decide)
  refine ofWord (w := e) (by rw [he]; rfl) hw ho (fun hi => ?_)
  rw [show decode32 e = orIllegal (fld e 20 6 == 0 && fld e 28 4 == 0) (.lda (bits e 8 6) (bits e 14 6) (bits e 26 2)) by unfold decode32; rw [show fld e 0 8 = 87 from p0]; rfl]
  rw [f0, f1, f2]
  exact orIllegal_of (by rw [p1, p2]; rfl) hi

theorem RoundTrip.stl (d : BitVec 6) (a : BitVec 6) (s : BitVec 2) : Statement (.stl d a s) := by
  obtain ⟨e, he, hw, ho, p0, p1, p2, f0, f1, f2⟩ := word15 (k := 89) d a s (by decide)
  refine ofWord (w := e) (by rw [he]; rfl) hw ho (fun hi => ?_)
  rw [show decode32 e = orIllegal (fld e 20 6 == 0 && fld e 28 4 == 0) (.stl (bits e 8 6) (bits e 14 6) (bits e 26 2)) by unfold decode32; rw [show fld e 0 8 = 89 from p0]; rfl]
  rw [f0, f1, f2]
  exact orIllegal_of (by rw [p1, p2]; rfl) hi

theorem RoundTrip.fence (k : BitVec 2) (s : BitVec 3) : Statement (.fence k s) := by
  obtain ⟨e, he, hw, ho, p0, p1, p2, f0, f1⟩ := word16 (k := 91) k s (by decide)
  refine ofWord (w := e) (by rw [he]; rfl) hw ho (fun hi => ?_)
  rw [show decode32 e = orIllegal (fld e 8 12 == 0 && fld e 25 7 == 0) (.fence (bits e 20 2) (bits e 22 3)) by unfold decode32; rw [show fld e 0 8 = 91 from p0]; rfl]
  rw [f0, f1]
  exact orIllegal_of (by rw [p1, p2]; rfl) hi

theorem RoundTrip.iflush (a : BitVec 6) (i : BitVec 12) : Statement (.iflush a i) := by
  obtain ⟨e, he, hw, ho, p0, p1, f0, f1⟩ := word17 (k := 93) a i (by decide)
  refine ofWord (w := e) (by rw [he]; rfl) hw ho (fun hi => ?_)
  rw [show decode32 e = orIllegal (fld e 8 6 == 0) (.iflush (bits e 14 6) (bits e 20 12)) by unfold decode32; rw [show fld e 0 8 = 93 from p0]; rfl]
  rw [f0, f1]
  exact orIllegal_of (by rw [p1]; rfl) hi

theorem RoundTrip.catl (d : BitVec 6) (a : BitVec 6) : Statement (.catl d a) := by
  obtain ⟨e, he, hw, ho, p0, p1, p2, f0, f1⟩ := word2 (k := 95) d a (by decide)
  refine ofWord (w := e) (by rw [he]; rfl) hw ho (fun hi => ?_)
  rw [show decode32 e = decodeP2F e by unfold decode32; rw [show fld e 0 8 = 95 from p0]; rfl]
  rw [show decodeP2F e = orIllegal (fld e 20 6 == 0) (.catl (bits e 8 6) (bits e 14 6)) by unfold decodeP2F; rw [show fld e 26 6 = 0 from p1]; rfl]
  rw [f0, f1]
  exact orIllegal_of (by rw [p2]; rfl) hi

theorem RoundTrip.cats (d : BitVec 6) (a : BitVec 6) (b : BitVec 6) : Statement (.cats d a b) := by
  obtain ⟨e, he, hw, ho, p0, p1, f0, f1, f2⟩ := word1 (k := 67108959) d a b (by decide)
  refine ofWord (w := e) (by rw [he]; rfl) hw ho (fun hi => ?_)
  rw [show decode32 e = decodeP2F e by unfold decode32; rw [show fld e 0 8 = 95 from p0]; rfl]
  rw [show decodeP2F e = orIllegal true (.cats (bits e 8 6) (bits e 14 6) (bits e 20 6)) by unfold decodeP2F; rw [show fld e 26 6 = 1 from p1]; rfl]
  rw [f0, f1, f2]
  exact orIllegal_of rfl hi

theorem RoundTrip.cati (d : BitVec 6) (a : BitVec 6) : Statement (.cati d a) := by
  obtain ⟨e, he, hw, ho, p0, p1, p2, f0, f1⟩ := word2 (k := 134217823) d a (by decide)
  refine ofWord (w := e) (by rw [he]; rfl) hw ho (fun hi => ?_)
  rw [show decode32 e = decodeP2F e by unfold decode32; rw [show fld e 0 8 = 95 from p0]; rfl]
  rw [show decodeP2F e = orIllegal (fld e 20 6 == 0) (.cati (bits e 8 6) (bits e 14 6)) by unfold decodeP2F; rw [show fld e 26 6 = 2 from p1]; rfl]
  rw [f0, f1]
  exact orIllegal_of (by rw [p2]; rfl) hi

theorem RoundTrip.amoadd (d : BitVec 6) (a : BitVec 6) (b : BitVec 6) (z : BitVec 1) : Statement (.amoadd d a b z) := by
  obtain ⟨e, he, hw, ho, p0, p1, f0, f1, f2, f3⟩ := word18 (k := 97) d a b z (by decide)
  refine ofWord (w := e) (by rw [he]; rfl) hw ho (fun hi => ?_)
  rw [show decode32 e = decodeP30 e by unfold decode32; rw [show fld e 0 8 = 97 from p0]; rfl]
  rw [show decodeP30 e = orIllegal true (.amoadd (bits e 8 6) (bits e 14 6) (bits e 20 6) (bits e 26 1)) by unfold decodeP30; rw [show fld e 27 5 = 0 from p1]; rfl]
  rw [f0, f1, f2, f3]
  exact orIllegal_of rfl hi

theorem RoundTrip.amoand (d : BitVec 6) (a : BitVec 6) (b : BitVec 6) (z : BitVec 1) : Statement (.amoand d a b z) := by
  obtain ⟨e, he, hw, ho, p0, p1, f0, f1, f2, f3⟩ := word18 (k := 134217825) d a b z (by decide)
  refine ofWord (w := e) (by rw [he]; rfl) hw ho (fun hi => ?_)
  rw [show decode32 e = decodeP30 e by unfold decode32; rw [show fld e 0 8 = 97 from p0]; rfl]
  rw [show decodeP30 e = orIllegal true (.amoand (bits e 8 6) (bits e 14 6) (bits e 20 6) (bits e 26 1)) by unfold decodeP30; rw [show fld e 27 5 = 1 from p1]; rfl]
  rw [f0, f1, f2, f3]
  exact orIllegal_of rfl hi

theorem RoundTrip.amoor (d : BitVec 6) (a : BitVec 6) (b : BitVec 6) (z : BitVec 1) : Statement (.amoor d a b z) := by
  obtain ⟨e, he, hw, ho, p0, p1, f0, f1, f2, f3⟩ := word18 (k := 268435553) d a b z (by decide)
  refine ofWord (w := e) (by rw [he]; rfl) hw ho (fun hi => ?_)
  rw [show decode32 e = decodeP30 e by unfold decode32; rw [show fld e 0 8 = 97 from p0]; rfl]
  rw [show decodeP30 e = orIllegal true (.amoor (bits e 8 6) (bits e 14 6) (bits e 20 6) (bits e 26 1)) by unfold decodeP30; rw [show fld e 27 5 = 2 from p1]; rfl]
  rw [f0, f1, f2, f3]
  exact orIllegal_of rfl hi

theorem RoundTrip.amoxor (d : BitVec 6) (a : BitVec 6) (b : BitVec 6) (z : BitVec 1) : Statement (.amoxor d a b z) := by
  obtain ⟨e, he, hw, ho, p0, p1, f0, f1, f2, f3⟩ := word18 (k := 402653281) d a b z (by decide)
  refine ofWord (w := e) (by rw [he]; rfl) hw ho (fun hi => ?_)
  rw [show decode32 e = decodeP30 e by unfold decode32; rw [show fld e 0 8 = 97 from p0]; rfl]
  rw [show decodeP30 e = orIllegal true (.amoxor (bits e 8 6) (bits e 14 6) (bits e 20 6) (bits e 26 1)) by unfold decodeP30; rw [show fld e 27 5 = 3 from p1]; rfl]
  rw [f0, f1, f2, f3]
  exact orIllegal_of rfl hi

theorem RoundTrip.amomin (d : BitVec 6) (a : BitVec 6) (b : BitVec 6) (z : BitVec 1) : Statement (.amomin d a b z) := by
  obtain ⟨e, he, hw, ho, p0, p1, f0, f1, f2, f3⟩ := word18 (k := 536871009) d a b z (by decide)
  refine ofWord (w := e) (by rw [he]; rfl) hw ho (fun hi => ?_)
  rw [show decode32 e = decodeP30 e by unfold decode32; rw [show fld e 0 8 = 97 from p0]; rfl]
  rw [show decodeP30 e = orIllegal true (.amomin (bits e 8 6) (bits e 14 6) (bits e 20 6) (bits e 26 1)) by unfold decodeP30; rw [show fld e 27 5 = 4 from p1]; rfl]
  rw [f0, f1, f2, f3]
  exact orIllegal_of rfl hi

theorem RoundTrip.amomax (d : BitVec 6) (a : BitVec 6) (b : BitVec 6) (z : BitVec 1) : Statement (.amomax d a b z) := by
  obtain ⟨e, he, hw, ho, p0, p1, f0, f1, f2, f3⟩ := word18 (k := 671088737) d a b z (by decide)
  refine ofWord (w := e) (by rw [he]; rfl) hw ho (fun hi => ?_)
  rw [show decode32 e = decodeP30 e by unfold decode32; rw [show fld e 0 8 = 97 from p0]; rfl]
  rw [show decodeP30 e = orIllegal true (.amomax (bits e 8 6) (bits e 14 6) (bits e 20 6) (bits e 26 1)) by unfold decodeP30; rw [show fld e 27 5 = 5 from p1]; rfl]
  rw [f0, f1, f2, f3]
  exact orIllegal_of rfl hi

theorem RoundTrip.amominu (d : BitVec 6) (a : BitVec 6) (b : BitVec 6) (z : BitVec 1) : Statement (.amominu d a b z) := by
  obtain ⟨e, he, hw, ho, p0, p1, f0, f1, f2, f3⟩ := word18 (k := 805306465) d a b z (by decide)
  refine ofWord (w := e) (by rw [he]; rfl) hw ho (fun hi => ?_)
  rw [show decode32 e = decodeP30 e by unfold decode32; rw [show fld e 0 8 = 97 from p0]; rfl]
  rw [show decodeP30 e = orIllegal true (.amominu (bits e 8 6) (bits e 14 6) (bits e 20 6) (bits e 26 1)) by unfold decodeP30; rw [show fld e 27 5 = 6 from p1]; rfl]
  rw [f0, f1, f2, f3]
  exact orIllegal_of rfl hi

theorem RoundTrip.amomaxu (d : BitVec 6) (a : BitVec 6) (b : BitVec 6) (z : BitVec 1) : Statement (.amomaxu d a b z) := by
  obtain ⟨e, he, hw, ho, p0, p1, f0, f1, f2, f3⟩ := word18 (k := 939524193) d a b z (by decide)
  refine ofWord (w := e) (by rw [he]; rfl) hw ho (fun hi => ?_)
  rw [show decode32 e = decodeP30 e by unfold decode32; rw [show fld e 0 8 = 97 from p0]; rfl]
  rw [show decodeP30 e = orIllegal true (.amomaxu (bits e 8 6) (bits e 14 6) (bits e 20 6) (bits e 26 1)) by unfold decodeP30; rw [show fld e 27 5 = 7 from p1]; rfl]
  rw [f0, f1, f2, f3]
  exact orIllegal_of rfl hi

theorem RoundTrip.amoswp (d : BitVec 6) (a : BitVec 6) (b : BitVec 6) (z : BitVec 1) : Statement (.amoswp d a b z) := by
  obtain ⟨e, he, hw, ho, p0, p1, f0, f1, f2, f3⟩ := word18 (k := 1073741921) d a b z (by decide)
  refine ofWord (w := e) (by rw [he]; rfl) hw ho (fun hi => ?_)
  rw [show decode32 e = decodeP30 e by unfold decode32; rw [show fld e 0 8 = 97 from p0]; rfl]
  rw [show decodeP30 e = orIllegal true (.amoswp (bits e 8 6) (bits e 14 6) (bits e 20 6) (bits e 26 1)) by unfold decodeP30; rw [show fld e 27 5 = 8 from p1]; rfl]
  rw [f0, f1, f2, f3]
  exact orIllegal_of rfl hi

theorem RoundTrip.amofadd (d : BitVec 6) (a : BitVec 6) (b : BitVec 6) : Statement (.amofadd d a b) := by
  obtain ⟨e, he, hw, ho, p0, p1, p2, f0, f1, f2⟩ := word19 (k := 1207959649) d a b (by decide)
  refine ofWord (w := e) (by rw [he]; rfl) hw ho (fun hi => ?_)
  rw [show decode32 e = decodeP30 e by unfold decode32; rw [show fld e 0 8 = 97 from p0]; rfl]
  rw [show decodeP30 e = orIllegal (fld e 26 1 == 0) (.amofadd (bits e 8 6) (bits e 14 6) (bits e 20 6)) by unfold decodeP30; rw [show fld e 27 5 = 9 from p1]; rfl]
  rw [f0, f1, f2]
  exact orIllegal_of (by rw [p2]; rfl) hi

theorem RoundTrip.amocas (d : BitVec 6) (a : BitVec 6) (b : BitVec 6) (z : BitVec 1) : Statement (.amocas d a b z) := by
  obtain ⟨e, he, hw, ho, p0, p1, f0, f1, f2, f3⟩ := word18 (k := 99) d a b z (by decide)
  refine ofWord (w := e) (by rw [he]; rfl) hw ho (fun hi => ?_)
  rw [show decode32 e = orIllegal (fld e 27 5 == 0) (.amocas (bits e 8 6) (bits e 14 6) (bits e 20 6) (bits e 26 1)) by unfold decode32; rw [show fld e 0 8 = 99 from p0]; rfl]
  rw [f0, f1, f2, f3]
  exact orIllegal_of (by rw [p1]; rfl) hi

theorem RoundTrip.vamoor (d : BitVec 5) (a : BitVec 5) (b : BitVec 5) (m : BitVec 3) : Statement (.vamoor d a b m) := by
  obtain ⟨e, he, hw, ho, p0, p1, f0, f1, f2, f3⟩ := word20 (k := 101) d a b m (by decide)
  refine ofWord (w := e) (by rw [he]; rfl) hw ho (fun hi => ?_)
  rw [show decode32 e = decodeP32 e by unfold decode32; rw [show fld e 0 8 = 101 from p0]; rfl]
  rw [show decodeP32 e = orIllegal true (.vamoor (bits e 8 5) (bits e 13 5) (bits e 18 5) (bits e 23 3)) by unfold decodeP32; rw [show fld e 26 6 = 0 from p1]; rfl]
  rw [f0, f1, f2, f3]
  exact orIllegal_of rfl hi

theorem RoundTrip.vamoadd (d : BitVec 5) (a : BitVec 5) (b : BitVec 5) (m : BitVec 3) : Statement (.vamoadd d a b m) := by
  obtain ⟨e, he, hw, ho, p0, p1, f0, f1, f2, f3⟩ := word20 (k := 67108965) d a b m (by decide)
  refine ofWord (w := e) (by rw [he]; rfl) hw ho (fun hi => ?_)
  rw [show decode32 e = decodeP32 e by unfold decode32; rw [show fld e 0 8 = 101 from p0]; rfl]
  rw [show decodeP32 e = orIllegal true (.vamoadd (bits e 8 5) (bits e 13 5) (bits e 18 5) (bits e 23 3)) by unfold decodeP32; rw [show fld e 26 6 = 1 from p1]; rfl]
  rw [f0, f1, f2, f3]
  exact orIllegal_of rfl hi

theorem RoundTrip.wait (l : BitVec 4) (s : BitVec 4) (c : BitVec 4) (t : BitVec 4) (h : BitVec 4) : Statement (.wait l s c t h) := by
  obtain ⟨e, he, hw, ho, p0, p1, f0, f1, f2, f3, f4⟩ := word21 (k := 113) l s c t h (by decide)
  refine ofWord (w := e) (by rw [he]; rfl) hw ho (fun hi => ?_)
  rw [show decode32 e = orIllegal (fld e 24 4 == 0) (.wait (bits e 8 4) (bits e 12 4) (bits e 16 4) (bits e 20 4) (bits e 28 4)) by unfold decode32; rw [show fld e 0 8 = 113 from p0]; rfl]
  rw [f0, f1, f2, f3, f4]
  exact orIllegal_of (by rw [p1]; rfl) hi

theorem RoundTrip.pause (i : BitVec 12) : Statement (.pause i) := by
  obtain ⟨e, he, hw, ho, p0, p1, f0⟩ := word22 (k := 115) i (by decide)
  refine ofWord (w := e) (by rw [he]; rfl) hw ho (fun hi => ?_)
  rw [show decode32 e = orIllegal (fld e 8 12 == 0) (.pause (bits e 20 12)) by unfold decode32; rw [show fld e 0 8 = 115 from p0]; rfl]
  rw [f0]
  exact orIllegal_of (by rw [p1]; rfl) hi

theorem RoundTrip.semup (d : BitVec 6) (a : BitVec 6) : Statement (.semup d a) := by
  obtain ⟨e, he, hw, ho, p0, p1, p2, f0, f1⟩ := word2 (k := 117) d a (by decide)
  refine ofWord (w := e) (by rw [he]; rfl) hw ho (fun hi => ?_)
  rw [show decode32 e = decodeP3A e by unfold decode32; rw [show fld e 0 8 = 117 from p0]; rfl]
  rw [show decodeP3A e = orIllegal (fld e 20 6 == 0) (.semup (bits e 8 6) (bits e 14 6)) by unfold decodeP3A; rw [show fld e 26 6 = 0 from p1]; rfl]
  rw [f0, f1]
  exact orIllegal_of (by rw [p2]; rfl) hi

theorem RoundTrip.semdn (d : BitVec 6) (a : BitVec 6) : Statement (.semdn d a) := by
  obtain ⟨e, he, hw, ho, p0, p1, p2, f0, f1⟩ := word2 (k := 67108981) d a (by decide)
  refine ofWord (w := e) (by rw [he]; rfl) hw ho (fun hi => ?_)
  rw [show decode32 e = decodeP3A e by unfold decode32; rw [show fld e 0 8 = 117 from p0]; rfl]
  rw [show decodeP3A e = orIllegal (fld e 20 6 == 0) (.semdn (bits e 8 6) (bits e 14 6)) by unfold decodeP3A; rw [show fld e 26 6 = 1 from p1]; rfl]
  rw [f0, f1]
  exact orIllegal_of (by rw [p2]; rfl) hi

theorem RoundTrip.semtry (d : BitVec 6) (a : BitVec 6) : Statement (.semtry d a) := by
  obtain ⟨e, he, hw, ho, p0, p1, p2, f0, f1⟩ := word2 (k := 134217845) d a (by decide)
  refine ofWord (w := e) (by rw [he]; rfl) hw ho (fun hi => ?_)
  rw [show decode32 e = decodeP3A e by unfold decode32; rw [show fld e 0 8 = 117 from p0]; rfl]
  rw [show decodeP3A e = orIllegal (fld e 20 6 == 0) (.semtry (bits e 8 6) (bits e 14 6)) by unfold decodeP3A; rw [show fld e 26 6 = 2 from p1]; rfl]
  rw [f0, f1]
  exact orIllegal_of (by rw [p2]; rfl) hi

theorem RoundTrip.barw (d : BitVec 6) (a : BitVec 6) (b : BitVec 6) : Statement (.barw d a b) := by
  obtain ⟨e, he, hw, ho, p0, p1, f0, f1, f2⟩ := word1 (k := 119) d a b (by decide)
  refine ofWord (w := e) (by rw [he]; rfl) hw ho (fun hi => ?_)
  rw [show decode32 e = decodeP3B e by unfold decode32; rw [show fld e 0 8 = 119 from p0]; rfl]
  rw [show decodeP3B e = orIllegal true (.barw (bits e 8 6) (bits e 14 6) (bits e 20 6)) by unfold decodeP3B; rw [show fld e 26 6 = 0 from p1]; rfl]
  rw [f0, f1, f2]
  exact orIllegal_of rfl hi

theorem RoundTrip.bara (d : BitVec 6) (a : BitVec 6) (b : BitVec 6) : Statement (.bara d a b) := by
  obtain ⟨e, he, hw, ho, p0, p1, f0, f1, f2⟩ := word1 (k := 67108983) d a b (by decide)
  refine ofWord (w := e) (by rw [he]; rfl) hw ho (fun hi => ?_)
  rw [show decode32 e = decodeP3B e by unfold decode32; rw [show fld e 0 8 = 119 from p0]; rfl]
  rw [show decodeP3B e = orIllegal true (.bara (bits e 8 6) (bits e 14 6) (bits e 20 6)) by unfold decodeP3B; rw [show fld e 26 6 = 1 from p1]; rfl]
  rw [f0, f1, f2]
  exact orIllegal_of rfl hi

theorem RoundTrip.qput (a : BitVec 6) (b : BitVec 6) : Statement (.qput a b) := by
  obtain ⟨e, he, hw, ho, p0, p1, p2, f0, f1⟩ := word5 (k := 121) a b (by decide)
  refine ofWord (w := e) (by rw [he]; rfl) hw ho (fun hi => ?_)
  rw [show decode32 e = decodeP3C e by unfold decode32; rw [show fld e 0 8 = 121 from p0]; rfl]
  rw [show decodeP3C e = orIllegal (fld e 8 6 == 0) (.qput (bits e 14 6) (bits e 20 6)) by unfold decodeP3C; rw [show fld e 26 6 = 0 from p1]; rfl]
  rw [f0, f1]
  exact orIllegal_of (by rw [p2]; rfl) hi

theorem RoundTrip.qget (d : BitVec 6) (a : BitVec 6) : Statement (.qget d a) := by
  obtain ⟨e, he, hw, ho, p0, p1, p2, f0, f1⟩ := word2 (k := 67108985) d a (by decide)
  refine ofWord (w := e) (by rw [he]; rfl) hw ho (fun hi => ?_)
  rw [show decode32 e = decodeP3C e by unfold decode32; rw [show fld e 0 8 = 121 from p0]; rfl]
  rw [show decodeP3C e = orIllegal (fld e 20 6 == 0) (.qget (bits e 8 6) (bits e 14 6)) by unfold decodeP3C; rw [show fld e 26 6 = 1 from p1]; rfl]
  rw [f0, f1]
  exact orIllegal_of (by rw [p2]; rfl) hi

theorem RoundTrip.send (a : BitVec 6) (b : BitVec 6) : Statement (.send a b) := by
  obtain ⟨e, he, hw, ho, p0, p1, p2, f0, f1⟩ := word23 (k := 129) a b (by decide)
  refine ofWord (w := e) (by rw [he]; rfl) hw ho (fun hi => ?_)
  rw [show decode32 e = orIllegal (fld e 8 6 == 0 && fld e 26 6 == 0) (.send (bits e 14 6) (bits e 20 6)) by unfold decode32; rw [show fld e 0 8 = 129 from p0]; rfl]
  rw [f0, f1]
  exact orIllegal_of (by rw [p1, p2]; rfl) hi

theorem RoundTrip.sendv (d : BitVec 6) (a : BitVec 6) (v : BitVec 5) : Statement (.sendv d a v) := by
  obtain ⟨e, he, hw, ho, p0, p1, f0, f1, f2⟩ := word24 (k := 131) d a v (by decide)
  refine ofWord (w := e) (by rw [he]; rfl) hw ho (fun hi => ?_)
  rw [show decode32 e = orIllegal (fld e 25 7 == 0) (.sendv (bits e 8 6) (bits e 14 6) (bits e 20 5)) by unfold decode32; rw [show fld e 0 8 = 131 from p0]; rfl]
  rw [f0, f1, f2]
  exact orIllegal_of (by rw [p1]; rfl) hi

theorem RoundTrip.wlpush (a : BitVec 6) : Statement (.wlpush a) := by
  obtain ⟨e, he, hw, ho, p0, p1, p2, p3, f0⟩ := word11 (k := 135) a (by decide)
  refine ofWord (w := e) (by rw [he]; rfl) hw ho (fun hi => ?_)
  rw [show decode32 e = decodeP43 e by unfold decode32; rw [show fld e 0 8 = 135 from p0]; rfl]
  rw [show decodeP43 e = orIllegal (fld e 8 6 == 0 && fld e 20 6 == 0) (.wlpush (bits e 14 6)) by unfold decodeP43; rw [show fld e 26 6 = 0 from p1]; rfl]
  rw [f0]
  exact orIllegal_of (by rw [p2, p3]; rfl) hi

theorem RoundTrip.wlpop (d : BitVec 6) (a : BitVec 6) : Statement (.wlpop d a) := by
  obtain ⟨e, he, hw, ho, p0, p1, p2, f0, f1⟩ := word2 (k := 67108999) d a (by decide)
  refine ofWord (w := e) (by rw [he]; rfl) hw ho (fun hi => ?_)
  rw [show decode32 e = decodeP43 e by unfold decode32; rw [show fld e 0 8 = 135 from p0]; rfl]
  rw [show decodeP43 e = orIllegal (fld e 20 6 == 0) (.wlpop (bits e 8 6) (bits e 14 6)) by unfold decodeP43; rw [show fld e 26 6 = 1 from p1]; rfl]
  rw [f0, f1]
  exact orIllegal_of (by rw [p2]; rfl) hi

theorem RoundTrip.wlfloor (d : BitVec 6) : Statement (.wlfloor d) := by
  obtain ⟨e, he, hw, ho, p0, p1, p2, f0⟩ := word25 (k := 134217863) d (by decide)
  refine ofWord (w := e) (by rw [he]; rfl) hw ho (fun hi => ?_)
  rw [show decode32 e = decodeP43 e by unfold decode32; rw [show fld e 0 8 = 135 from p0]; rfl]
  rw [show decodeP43 e = orIllegal (fld e 14 12 == 0) (.wlfloor (bits e 8 6)) by unfold decodeP43; rw [show fld e 26 6 = 2 from p1]; rfl]
  rw [f0]
  exact orIllegal_of (by rw [p2]; rfl) hi

theorem RoundTrip.tkarm (d : BitVec 6) (a : BitVec 6) : Statement (.tkarm d a) := by
  obtain ⟨e, he, hw, ho, p0, p1, p2, f0, f1⟩ := word2 (k := 137) d a (by decide)
  refine ofWord (w := e) (by rw [he]; rfl) hw ho (fun hi => ?_)
  rw [show decode32 e = decodeP44 e by unfold decode32; rw [show fld e 0 8 = 137 from p0]; rfl]
  rw [show decodeP44 e = orIllegal (fld e 20 6 == 0) (.tkarm (bits e 8 6) (bits e 14 6)) by unfold decodeP44; rw [show fld e 26 6 = 0 from p1]; rfl]
  rw [f0, f1]
  exact orIllegal_of (by rw [p2]; rfl) hi

theorem RoundTrip.tksig (d : BitVec 6) (a : BitVec 6) : Statement (.tksig d a) := by
  obtain ⟨e, he, hw, ho, p0, p1, p2, f0, f1⟩ := word2 (k := 67109001) d a (by decide)
  refine ofWord (w := e) (by rw [he]; rfl) hw ho (fun hi => ?_)
  rw [show decode32 e = decodeP44 e by unfold decode32; rw [show fld e 0 8 = 137 from p0]; rfl]
  rw [show decodeP44 e = orIllegal (fld e 20 6 == 0) (.tksig (bits e 8 6) (bits e 14 6)) by unfold decodeP44; rw [show fld e 26 6 = 1 from p1]; rfl]
  rw [f0, f1]
  exact orIllegal_of (by rw [p2]; rfl) hi

theorem RoundTrip.frbegU (d : BitVec 6) : Statement (.frbegU d) := by
  obtain ⟨e, he, hw, ho, p0, p1, p2, f0⟩ := word25 (k := 139) d (by decide)
  refine ofWord (w := e) (by rw [he]; rfl) hw ho (fun hi => ?_)
  rw [show decode32 e = decodeP45 e by unfold decode32; rw [show fld e 0 8 = 139 from p0]; rfl]
  rw [show decodeP45 e = orIllegal (fld e 14 12 == 0) (.frbegU (bits e 8 6)) by unfold decodeP45; rw [show fld e 26 6 = 0 from p1]; rfl]
  rw [f0]
  exact orIllegal_of (by rw [p2]; rfl) hi

theorem RoundTrip.frbegO (d : BitVec 6) : Statement (.frbegO d) := by
  obtain ⟨e, he, hw, ho, p0, p1, p2, f0⟩ := word25 (k := 67109003) d (by decide)
  refine ofWord (w := e) (by rw [he]; rfl) hw ho (fun hi => ?_)
  rw [show decode32 e = decodeP45 e by unfold decode32; rw [show fld e 0 8 = 139 from p0]; rfl]
  rw [show decodeP45 e = orIllegal (fld e 14 12 == 0) (.frbegO (bits e 8 6)) by unfold decodeP45; rw [show fld e 26 6 = 1 from p1]; rfl]
  rw [f0]
  exact orIllegal_of (by rw [p2]; rfl) hi

theorem RoundTrip.frcom (d : BitVec 6) : Statement (.frcom d) := by
  obtain ⟨e, he, hw, ho, p0, p1, p2, f0⟩ := word25 (k := 134217867) d (by decide)
  refine ofWord (w := e) (by rw [he]; rfl) hw ho (fun hi => ?_)
  rw [show decode32 e = decodeP45 e by unfold decode32; rw [show fld e 0 8 = 139 from p0]; rfl]
  rw [show decodeP45 e = orIllegal (fld e 14 12 == 0) (.frcom (bits e 8 6)) by unfold decodeP45; rw [show fld e 26 6 = 2 from p1]; rfl]
  rw [f0]
  exact orIllegal_of (by rw [p2]; rfl) hi

theorem RoundTrip.frstat (d : BitVec 6) : Statement (.frstat d) := by
  obtain ⟨e, he, hw, ho, p0, p1, p2, f0⟩ := word25 (k := 268435595) d (by decide)
  refine ofWord (w := e) (by rw [he]; rfl) hw ho (fun hi => ?_)
  rw [show decode32 e = decodeP45 e by unfold decode32; rw [show fld e 0 8 = 139 from p0]; rfl]
  rw [show decodeP45 e = orIllegal (fld e 14 12 == 0) (.frstat (bits e 8 6)) by unfold decodeP45; rw [show fld e 26 6 = 4 from p1]; rfl]
  rw [f0]
  exact orIllegal_of (by rw [p2]; rfl) hi

theorem RoundTrip.lvcnt (d : BitVec 6) (a : BitVec 6) (b : BitVec 6) : Statement (.lvcnt d a b) := by
  obtain ⟨e, he, hw, ho, p0, p1, f0, f1, f2⟩ := word1 (k := 141) d a b (by decide)
  refine ofWord (w := e) (by rw [he]; rfl) hw ho (fun hi => ?_)
  rw [show decode32 e = decodeP46 e by unfold decode32; rw [show fld e 0 8 = 141 from p0]; rfl]
  rw [show decodeP46 e = orIllegal true (.lvcnt (bits e 8 6) (bits e 14 6) (bits e 20 6)) by unfold decodeP46; rw [show fld e 26 6 = 0 from p1]; rfl]
  rw [f0, f1, f2]
  exact orIllegal_of rfl hi

theorem RoundTrip.cncl (d : BitVec 6) (a : BitVec 6) (b : BitVec 6) : Statement (.cncl d a b) := by
  obtain ⟨e, he, hw, ho, p0, p1, f0, f1, f2⟩ := word1 (k := 67109005) d a b (by decide)
  refine ofWord (w := e) (by rw [he]; rfl) hw ho (fun hi => ?_)
  rw [show decode32 e = decodeP46 e by unfold decode32; rw [show fld e 0 8 = 141 from p0]; rfl]
  rw [show decodeP46 e = orIllegal true (.cncl (bits e 8 6) (bits e 14 6) (bits e 20 6)) by unfold decodeP46; rw [show fld e 26 6 = 1 from p1]; rfl]
  rw [f0, f1, f2]
  exact orIllegal_of rfl hi

theorem RoundTrip.job (d : BitVec 6) (a : BitVec 6) (b : BitVec 6) : Statement (.job d a b) := by
  obtain ⟨e, he, hw, ho, p0, p1, f0, f1, f2⟩ := word1 (k := 145) d a b (by decide)
  refine ofWord (w := e) (by rw [he]; rfl) hw ho (fun hi => ?_)
  rw [show decode32 e = orIllegal (fld e 26 6 == 0) (.job (bits e 8 6) (bits e 14 6) (bits e 20 6)) by unfold decode32; rw [show fld e 0 8 = 145 from p0]; rfl]
  rw [f0, f1, f2]
  exact orIllegal_of (by rw [p1]; rfl) hi

theorem RoundTrip.qbind (d : BitVec 6) (a : BitVec 6) (b : BitVec 6) : Statement (.qbind d a b) := by
  obtain ⟨e, he, hw, ho, p0, p1, f0, f1, f2⟩ := word1 (k := 147) d a b (by decide)
  refine ofWord (w := e) (by rw [he]; rfl) hw ho (fun hi => ?_)
  rw [show decode32 e = orIllegal (fld e 26 6 == 0) (.qbind (bits e 8 6) (bits e 14 6) (bits e 20 6)) by unfold decode32; rw [show fld e 0 8 = 147 from p0]; rfl]
  rw [f0, f1, f2]
  exact orIllegal_of (by rw [p1]; rfl) hi

theorem RoundTrip.blkrd (a : BitVec 6) (b : BitVec 6) : Statement (.blkrd a b) := by
  obtain ⟨e, he, hw, ho, p0, p1, p2, f0, f1⟩ := word23 (k := 149) a b (by decide)
  refine ofWord (w := e) (by rw [he]; rfl) hw ho (fun hi => ?_)
  rw [show decode32 e = orIllegal (fld e 8 6 == 0 && fld e 26 6 == 0) (.blkrd (bits e 14 6) (bits e 20 6)) by unfold decode32; rw [show fld e 0 8 = 149 from p0]; rfl]
  rw [f0, f1]
  exact orIllegal_of (by rw [p1, p2]; rfl) hi

theorem RoundTrip.ttq (d : BitVec 6) (a : BitVec 6) : Statement (.ttq d a) := by
  obtain ⟨e, he, hw, ho, p0, p1, f0, f1⟩ := word26 (k := 151) d a (by decide)
  refine ofWord (w := e) (by rw [he]; rfl) hw ho (fun hi => ?_)
  rw [show decode32 e = orIllegal (fld e 20 12 == 0) (.ttq (bits e 8 6) (bits e 14 6)) by unfold decode32; rw [show fld e 0 8 = 151 from p0]; rfl]
  rw [f0, f1]
  exact orIllegal_of (by rw [p1]; rfl) hi

theorem RoundTrip.osclaim (d : BitVec 6) (a : BitVec 6) : Statement (.osclaim d a) := by
  obtain ⟨e, he, hw, ho, p0, p1, p2, f0, f1⟩ := word2 (k := 161) d a (by decide)
  refine ofWord (w := e) (by rw [he]; rfl) hw ho (fun hi => ?_)
  rw [show decode32 e = decodeP50 e by unfold decode32; rw [show fld e 0 8 = 161 from p0]; rfl]
  rw [show decodeP50 e = orIllegal (fld e 20 6 == 0) (.osclaim (bits e 8 6) (bits e 14 6)) by unfold decodeP50; rw [show fld e 26 6 = 0 from p1]; rfl]
  rw [f0, f1]
  exact orIllegal_of (by rw [p2]; rfl) hi

theorem RoundTrip.osrel (a : BitVec 6) : Statement (.osrel a) := by
  obtain ⟨e, he, hw, ho, p0, p1, p2, p3, f0⟩ := word11 (k := 67109025) a (by decide)
  refine ofWord (w := e) (by rw [he]; rfl) hw ho (fun hi => ?_)
  rw [show decode32 e = decodeP50 e by unfold decode32; rw [show fld e 0 8 = 161 from p0]; rfl]
  rw [show decodeP50 e = orIllegal (fld e 8 6 == 0 && fld e 20 6 == 0) (.osrel (bits e 14 6)) by unfold decodeP50; rw [show fld e 26 6 = 1 from p1]; rfl]
  rw [f0]
  exact orIllegal_of (by rw [p2, p3]; rfl) hi

theorem RoundTrip.osld (a : BitVec 6) (b : BitVec 6) : Statement (.osld a b) := by
  obtain ⟨e, he, hw, ho, p0, p1, p2, f0, f1⟩ := word5 (k := 134217889) a b (by decide)
  refine ofWord (w := e) (by rw [he]; rfl) hw ho (fun hi => ?_)
  rw [show decode32 e = decodeP50 e by unfold decode32; rw [show fld e 0 8 = 161 from p0]; rfl]
  rw [show decodeP50 e = orIllegal (fld e 8 6 == 0) (.osld (bits e 14 6) (bits e 20 6)) by unfold decodeP50; rw [show fld e 26 6 = 2 from p1]; rfl]
  rw [f0, f1]
  exact orIllegal_of (by rw [p2]; rfl) hi

theorem RoundTrip.mwld (a : BitVec 6) : Statement (.mwld a) := by
  obtain ⟨e, he, hw, ho, p0, p1, p2, f0⟩ := word13 (k := 163) a (by decide)
  refine ofWord (w := e) (by rw [he]; rfl) hw ho (fun hi => ?_)
  rw [show decode32 e = orIllegal (fld e 8 6 == 0 && fld e 20 12 == 0) (.mwld (bits e 14 6)) by unfold decode32; rw [show fld e 0 8 = 163 from p0]; rfl]
  rw [f0]
  exact orIllegal_of (by rw [p1, p2]; rfl) hi

theorem RoundTrip.mmaF (a : BitVec 6) (b : BitVec 6) : Statement (.mmaF a b) := by
  obtain ⟨e, he, hw, ho, p0, p1, p2, f0, f1⟩ := word5 (k := 165) a b (by decide)
  refine ofWord (w := e) (by rw [he]; rfl) hw ho (fun hi => ?_)
  rw [show decode32 e = decodeP52 e by unfold decode32; rw [show fld e 0 8 = 165 from p0]; rfl]
  rw [show decodeP52 e = orIllegal (fld e 8 6 == 0) (.mmaF (bits e 14 6) (bits e 20 6)) by unfold decodeP52; rw [show fld e 26 6 = 0 from p1]; rfl]
  rw [f0, f1]
  exact orIllegal_of (by rw [p2]; rfl) hi

theorem RoundTrip.mmaI (a : BitVec 6) (b : BitVec 6) : Statement (.mmaI a b) := by
  obtain ⟨e, he, hw, ho, p0, p1, p2, f0, f1⟩ := word5 (k := 67109029) a b (by decide)
  refine ofWord (w := e) (by rw [he]; rfl) hw ho (fun hi => ?_)
  rw [show decode32 e = decodeP52 e by unfold decode32; rw [show fld e 0 8 = 165 from p0]; rfl]
  rw [show decodeP52 e = orIllegal (fld e 8 6 == 0) (.mmaI (bits e 14 6) (bits e 20 6)) by unfold decodeP52; rw [show fld e 26 6 = 1 from p1]; rfl]
  rw [f0, f1]
  exact orIllegal_of (by rw [p2]; rfl) hi

theorem RoundTrip.mmaRs (a : BitVec 6) (b : BitVec 6) : Statement (.mmaRs a b) := by
  obtain ⟨e, he, hw, ho, p0, p1, p2, f0, f1⟩ := word5 (k := 134217893) a b (by decide)
  refine ofWord (w := e) (by rw [he]; rfl) hw ho (fun hi => ?_)
  rw [show decode32 e = decodeP52 e by unfold decode32; rw [show fld e 0 8 = 165 from p0]; rfl]
  rw [show decodeP52 e = orIllegal (fld e 8 6 == 0) (.mmaRs (bits e 14 6) (bits e 20 6)) by unfold decodeP52; rw [show fld e 26 6 = 2 from p1]; rfl]
  rw [f0, f1]
  exact orIllegal_of (by rw [p2]; rfl) hi

theorem RoundTrip.mzero (a : BitVec 6) (b : BitVec 6) : Statement (.mzero a b) := by
  obtain ⟨e, he, hw, ho, p0, p1, p2, f0, f1⟩ := word23 (k := 167) a b (by decide)
  refine ofWord (w := e) (by rw [he]; rfl) hw ho (fun hi => ?_)
  rw [show decode32 e = orIllegal (fld e 8 6 == 0 && fld e 26 6 == 0) (.mzero (bits e 14 6) (bits e 20 6)) by unfold decode32; rw [show fld e 0 8 = 167 from p0]; rfl]
  rw [f0, f1]
  exact orIllegal_of (by rw [p1, p2]; rfl) hi

theorem RoundTrip.mdrainF (a : BitVec 6) (b : BitVec 6) : Statement (.mdrainF a b) := by
  obtain ⟨e, he, hw, ho, p0, p1, p2, f0, f1⟩ := word5 (k := 169) a b (by decide)
  refine ofWord (w := e) (by rw [he]; rfl) hw ho (fun hi => ?_)
  rw [show decode32 e = decodeP54 e by unfold decode32; rw [show fld e 0 8 = 169 from p0]; rfl]
  rw [show decodeP54 e = orIllegal (fld e 8 6 == 0) (.mdrainF (bits e 14 6) (bits e 20 6)) by unfold decodeP54; rw [show fld e 26 6 = 0 from p1]; rfl]
  rw [f0, f1]
  exact orIllegal_of (by rw [p2]; rfl) hi

theorem RoundTrip.mdrainIw (a : BitVec 6) (b : BitVec 6) : Statement (.mdrainIw a b) := by
  obtain ⟨e, he, hw, ho, p0, p1, p2, f0, f1⟩ := word5 (k := 67109033) a b (by decide)
  refine ofWord (w := e) (by rw [he]; rfl) hw ho (fun hi => ?_)
  rw [show decode32 e = decodeP54 e by unfold decode32; rw [show fld e 0 8 = 169 from p0]; rfl]
  rw [show decodeP54 e = orIllegal (fld e 8 6 == 0) (.mdrainIw (bits e 14 6) (bits e 20 6)) by unfold decodeP54; rw [show fld e 26 6 = 1 from p1]; rfl]
  rw [f0, f1]
  exact orIllegal_of (by rw [p2]; rfl) hi

theorem RoundTrip.mdrainIs (a : BitVec 6) (b : BitVec 6) : Statement (.mdrainIs a b) := by
  obtain ⟨e, he, hw, ho, p0, p1, p2, f0, f1⟩ := word5 (k := 134217897) a b (by decide)
  refine ofWord (w := e) (by rw [he]; rfl) hw ho (fun hi => ?_)
  rw [show decode32 e = decodeP54 e by unfold decode32; rw [show fld e 0 8 = 169 from p0]; rfl]
  rw [show decodeP54 e = orIllegal (fld e 8 6 == 0) (.mdrainIs (bits e 14 6) (bits e 20 6)) by unfold decodeP54; rw [show fld e 26 6 = 2 from p1]; rfl]
  rw [f0, f1]
  exact orIllegal_of (by rw [p2]; rfl) hi

theorem RoundTrip.mdrainRs (a : BitVec 6) (b : BitVec 6) : Statement (.mdrainRs a b) := by
  obtain ⟨e, he, hw, ho, p0, p1, p2, f0, f1⟩ := word5 (k := 201326761) a b (by decide)
  refine ofWord (w := e) (by rw [he]; rfl) hw ho (fun hi => ?_)
  rw [show decode32 e = decodeP54 e by unfold decode32; rw [show fld e 0 8 = 169 from p0]; rfl]
  rw [show decodeP54 e = orIllegal (fld e 8 6 == 0) (.mdrainRs (bits e 14 6) (bits e 20 6)) by unfold decodeP54; rw [show fld e 26 6 = 3 from p1]; rfl]
  rw [f0, f1]
  exact orIllegal_of (by rw [p2]; rfl) hi

theorem RoundTrip.walk (d : BitVec 6) (a : BitVec 6) (b : BitVec 6) : Statement (.walk d a b) := by
  obtain ⟨e, he, hw, ho, p0, p1, f0, f1, f2⟩ := word1 (k := 177) d a b (by decide)
  refine ofWord (w := e) (by rw [he]; rfl) hw ho (fun hi => ?_)
  rw [show decode32 e = decodeP58 e by unfold decode32; rw [show fld e 0 8 = 177 from p0]; rfl]
  rw [show decodeP58 e = orIllegal true (.walk (bits e 8 6) (bits e 14 6) (bits e 20 6)) by unfold decodeP58; rw [show fld e 26 6 = 0 from p1]; rfl]
  rw [f0, f1, f2]
  exact orIllegal_of rfl hi

theorem RoundTrip.walkn (d : BitVec 6) (a : BitVec 6) (b : BitVec 6) : Statement (.walkn d a b) := by
  obtain ⟨e, he, hw, ho, p0, p1, f0, f1, f2⟩ := word1 (k := 67109041) d a b (by decide)
  refine ofWord (w := e) (by rw [he]; rfl) hw ho (fun hi => ?_)
  rw [show decode32 e = decodeP58 e by unfold decode32; rw [show fld e 0 8 = 177 from p0]; rfl]
  rw [show decodeP58 e = orIllegal true (.walkn (bits e 8 6) (bits e 14 6) (bits e 20 6)) by unfold decodeP58; rw [show fld e 26 6 = 1 from p1]; rfl]
  rw [f0, f1, f2]
  exact orIllegal_of rfl hi

theorem RoundTrip.pdrst (d : BitVec 6) (a : BitVec 6) (b : BitVec 6) : Statement (.pdrst d a b) := by
  obtain ⟨e, he, hw, ho, p0, p1, f0, f1, f2⟩ := word1 (k := 179) d a b (by decide)
  refine ofWord (w := e) (by rw [he]; rfl) hw ho (fun hi => ?_)
  rw [show decode32 e = decodeP59 e by unfold decode32; rw [show fld e 0 8 = 179 from p0]; rfl]
  rw [show decodeP59 e = orIllegal true (.pdrst (bits e 8 6) (bits e 14 6) (bits e 20 6)) by unfold decodeP59; rw [show fld e 26 6 = 0 from p1]; rfl]
  rw [f0, f1, f2]
  exact orIllegal_of rfl hi

theorem RoundTrip.pdseal (d : BitVec 6) (a : BitVec 6) : Statement (.pdseal d a) := by
  obtain ⟨e, he, hw, ho, p0, p1, p2, f0, f1⟩ := word2 (k := 67109043) d a (by decide)
  refine ofWord (w := e) (by rw [he]; rfl) hw ho (fun hi => ?_)
  rw [show decode32 e = decodeP59 e by unfold decode32; rw [show fld e 0 8 = 179 from p0]; rfl]
  rw [show decodeP59 e = orIllegal (fld e 20 6 == 0) (.pdseal (bits e 8 6) (bits e 14 6)) by unfold decodeP59; rw [show fld e 26 6 = 1 from p1]; rfl]
  rw [f0, f1]
  exact orIllegal_of (by rw [p2]; rfl) hi

theorem RoundTrip.pdrd (d : BitVec 6) (a : BitVec 6) : Statement (.pdrd d a) := by
  obtain ⟨e, he, hw, ho, p0, p1, p2, f0, f1⟩ := word2 (k := 134217907) d a (by decide)
  refine ofWord (w := e) (by rw [he]; rfl) hw ho (fun hi => ?_)
  rw [show decode32 e = decodeP59 e by unfold decode32; rw [show fld e 0 8 = 179 from p0]; rfl]
  rw [show decodeP59 e = orIllegal (fld e 20 6 == 0) (.pdrd (bits e 8 6) (bits e 14 6)) by unfold decodeP59; rw [show fld e 26 6 = 2 from p1]; rfl]
  rw [f0, f1]
  exact orIllegal_of (by rw [p2]; rfl) hi

theorem RoundTrip.refget (d : BitVec 6) (a : BitVec 6) (b : BitVec 6) : Statement (.refget d a b) := by
  obtain ⟨e, he, hw, ho, p0, p1, f0, f1, f2⟩ := word1 (k := 181) d a b (by decide)
  refine ofWord (w := e) (by rw [he]; rfl) hw ho (fun hi => ?_)
  rw [show decode32 e = decodeP5A e by unfold decode32; rw [show fld e 0 8 = 181 from p0]; rfl]
  rw [show decodeP5A e = orIllegal true (.refget (bits e 8 6) (bits e 14 6) (bits e 20 6)) by unfold decodeP5A; rw [show fld e 26 6 = 0 from p1]; rfl]
  rw [f0, f1, f2]
  exact orIllegal_of rfl hi

theorem RoundTrip.refchk (d : BitVec 6) (a : BitVec 6) (b : BitVec 6) : Statement (.refchk d a b) := by
  obtain ⟨e, he, hw, ho, p0, p1, f0, f1, f2⟩ := word1 (k := 67109045) d a b (by decide)
  refine ofWord (w := e) (by rw [he]; rfl) hw ho (fun hi => ?_)
  rw [show decode32 e = decodeP5A e by unfold decode32; rw [show fld e 0 8 = 181 from p0]; rfl]
  rw [show decodeP5A e = orIllegal true (.refchk (bits e 8 6) (bits e 14 6) (bits e 20 6)) by unfold decodeP5A; rw [show fld e 26 6 = 1 from p1]; rfl]
  rw [f0, f1, f2]
  exact orIllegal_of rfl hi

theorem RoundTrip.trap (i : BitVec 12) : Statement (.trap i) := by
  obtain ⟨e, he, hw, ho, p0, p1, p2, f0⟩ := word27 (k := 225) i (by decide)
  refine ofWord (w := e) (by rw [he]; rfl) hw ho (fun hi => ?_)
  rw [show decode32 e = decodeP70 e by unfold decode32; rw [show fld e 0 8 = 225 from p0]; rfl]
  rw [show decodeP70 e = orIllegal (fld e 8 6 == 0) (.trap (bits e 14 12)) by unfold decodeP70; rw [show fld e 26 6 = 0 from p1]; rfl]
  rw [f0]
  exact orIllegal_of (by rw [p2]; rfl) hi

theorem RoundTrip.svc (d : BitVec 6) (a : BitVec 6) (b : BitVec 6) : Statement (.svc d a b) := by
  obtain ⟨e, he, hw, ho, p0, p1, f0, f1, f2⟩ := word1 (k := 67109089) d a b (by decide)
  refine ofWord (w := e) (by rw [he]; rfl) hw ho (fun hi => ?_)
  rw [show decode32 e = decodeP70 e by unfold decode32; rw [show fld e 0 8 = 225 from p0]; rfl]
  rw [show decodeP70 e = orIllegal true (.svc (bits e 8 6) (bits e 14 6) (bits e 20 6)) by unfold decodeP70; rw [show fld e 26 6 = 1 from p1]; rfl]
  rw [f0, f1, f2]
  exact orIllegal_of rfl hi

theorem RoundTrip.eret (d : BitVec 6) (a : BitVec 6) (b : BitVec 6) : Statement (.eret d a b) := by
  obtain ⟨e, he, hw, ho, p0, p1, f0, f1, f2⟩ := word1 (k := 134217953) d a b (by decide)
  refine ofWord (w := e) (by rw [he]; rfl) hw ho (fun hi => ?_)
  rw [show decode32 e = decodeP70 e by unfold decode32; rw [show fld e 0 8 = 225 from p0]; rfl]
  rw [show decodeP70 e = orIllegal true (.eret (bits e 8 6) (bits e 14 6) (bits e 20 6)) by unfold decodeP70; rw [show fld e 26 6 = 2 from p1]; rfl]
  rw [f0, f1, f2]
  exact orIllegal_of rfl hi

theorem RoundTrip.cirrd (d : BitVec 6) (a : BitVec 6) (b : BitVec 6) : Statement (.cirrd d a b) := by
  obtain ⟨e, he, hw, ho, p0, p1, f0, f1, f2⟩ := word1 (k := 335544545) d a b (by decide)
  refine ofWord (w := e) (by rw [he]; rfl) hw ho (fun hi => ?_)
  rw [show decode32 e = decodeP70 e by unfold decode32; rw [show fld e 0 8 = 225 from p0]; rfl]
  rw [show decodeP70 e = orIllegal true (.cirrd (bits e 8 6) (bits e 14 6) (bits e 20 6)) by unfold decodeP70; rw [show fld e 26 6 = 5 from p1]; rfl]
  rw [f0, f1, f2]
  exact orIllegal_of rfl hi

theorem RoundTrip.zerosp (d : BitVec 6) (a : BitVec 6) (b : BitVec 6) : Statement (.zerosp d a b) := by
  obtain ⟨e, he, hw, ho, p0, p1, f0, f1, f2⟩ := word1 (k := 402653409) d a b (by decide)
  refine ofWord (w := e) (by rw [he]; rfl) hw ho (fun hi => ?_)
  rw [show decode32 e = decodeP70 e by unfold decode32; rw [show fld e 0 8 = 225 from p0]; rfl]
  rw [show decodeP70 e = orIllegal true (.zerosp (bits e 8 6) (bits e 14 6) (bits e 20 6)) by unfold decodeP70; rw [show fld e 26 6 = 6 from p1]; rfl]
  rw [f0, f1, f2]
  exact orIllegal_of rfl hi

theorem RoundTrip.sigchk (d : BitVec 6) : Statement (.sigchk d) := by
  obtain ⟨e, he, hw, ho, p0, p1, p2, f0⟩ := word25 (k := 469762273) d (by decide)
  refine ofWord (w := e) (by rw [he]; rfl) hw ho (fun hi => ?_)
  rw [show decode32 e = decodeP70 e by unfold decode32; rw [show fld e 0 8 = 225 from p0]; rfl]
  rw [show decodeP70 e = orIllegal (fld e 14 12 == 0) (.sigchk (bits e 8 6)) by unfold decodeP70; rw [show fld e 26 6 = 7 from p1]; rfl]
  rw [f0]
  exact orIllegal_of (by rw [p2]; rfl) hi

theorem RoundTrip.capreb (d : BitVec 6) (a : BitVec 6) : Statement (.capreb d a) := by
  obtain ⟨e, he, hw, ho, p0, p1, p2, f0, f1⟩ := word2 (k := 536871137) d a (by decide)
  refine ofWord (w := e) (by rw [he]; rfl) hw ho (fun hi => ?_)
  rw [show decode32 e = decodeP70 e by unfold decode32; rw [show fld e 0 8 = 225 from p0]; rfl]
  rw [show decodeP70 e = orIllegal (fld e 20 6 == 0) (.capreb (bits e 8 6) (bits e 14 6)) by unfold decodeP70; rw [show fld e 26 6 = 8 from p1]; rfl]
  rw [f0, f1]
  exact orIllegal_of (by rw [p2]; rfl) hi

theorem RoundTrip.seal (d : BitVec 6) (a : BitVec 6) (b : BitVec 6) : Statement (.seal d a b) := by
  obtain ⟨e, he, hw, ho, p0, p1, f0, f1, f2⟩ := word1 (k := 603980001) d a b (by decide)
  refine ofWord (w := e) (by rw [he]; rfl) hw ho (fun hi => ?_)
  rw [show decode32 e = decodeP70 e by unfold decode32; rw [show fld e 0 8 = 225 from p0]; rfl]
  rw [show decodeP70 e = orIllegal true (.seal (bits e 8 6) (bits e 14 6) (bits e 20 6)) by unfold decodeP70; rw [show fld e 26 6 = 9 from p1]; rfl]
  rw [f0, f1, f2]
  exact orIllegal_of rfl hi

theorem RoundTrip.monrd (d : BitVec 6) (a : BitVec 6) (b : BitVec 6) : Statement (.monrd d a b) := by
  obtain ⟨e, he, hw, ho, p0, p1, f0, f1, f2⟩ := word1 (k := 671088865) d a b (by decide)
  refine ofWord (w := e) (by rw [he]; rfl) hw ho (fun hi => ?_)
  rw [show decode32 e = decodeP70 e by unfold decode32; rw [show fld e 0 8 = 225 from p0]; rfl]
  rw [show decodeP70 e = orIllegal true (.monrd (bits e 8 6) (bits e 14 6) (bits e 20 6)) by unfold decodeP70; rw [show fld e 26 6 = 10 from p1]; rfl]
  rw [f0, f1, f2]
  exact orIllegal_of rfl hi

theorem RoundTrip.srd (d : BitVec 6) (s : BitVec 12) : Statement (.srd d s) := by
  obtain ⟨e, he, hw, ho, p0, p1, f0, f1⟩ := word12 (k := 227) d s (by decide)
  refine ofWord (w := e) (by rw [he]; rfl) hw ho (fun hi => ?_)
  rw [show decode32 e = orIllegal (fld e 14 6 == 0) (.srd (bits e 8 6) (bits e 20 12)) by unfold decode32; rw [show fld e 0 8 = 227 from p0]; rfl]
  rw [f0, f1]
  exact orIllegal_of (by rw [p1]; rfl) hi

theorem RoundTrip.swr (a : BitVec 6) (s : BitVec 12) : Statement (.swr a s) := by
  obtain ⟨e, he, hw, ho, p0, p1, f0, f1⟩ := word17 (k := 229) a s (by decide)
  refine ofWord (w := e) (by rw [he]; rfl) hw ho (fun hi => ?_)
  rw [show decode32 e = orIllegal (fld e 8 6 == 0) (.swr (bits e 14 6) (bits e 20 12)) by unfold decode32; rw [show fld e 0 8 = 229 from p0]; rfl]
  rw [f0, f1]
  exact orIllegal_of (by rw [p1]; rfl) hi

theorem RoundTrip.vfadd (d : BitVec 5) (a : BitVec 5) (b : BitVec 5) (m : BitVec 3) : Statement (.vfadd d a b m) := by
  obtain ⟨e, he, hw, ho, p0, p1, f0, f1, f2, f3⟩ := word20 (k := 193) d a b m (by decide)
  refine ofWord (w := e) (by rw [he]; rfl) hw ho (fun hi => ?_)
  rw [show decode32 e = decodeP60 e by unfold decode32; rw [show fld e 0 8 = 193 from p0]; rfl]
  rw [show decodeP60 e = orIllegal true (.vfadd (bits e 8 5) (bits e 13 5) (bits e 18 5) (bits e 23 3)) by unfold decodeP60; rw [show fld e 26 6 = 0 from p1]; rfl]
  rw [f0, f1, f2, f3]
  exact orIllegal_of rfl hi

theorem RoundTrip.vfsub (d : BitVec 5) (a : BitVec 5) (b : BitVec 5) (m : BitVec 3) : Statement (.vfsub d a b m) := by
  obtain ⟨e, he, hw, ho, p0, p1, f0, f1, f2, f3⟩ := word20 (k := 67109057) d a b m (by decide)
  refine ofWord (w := e) (by rw [he]; rfl) hw ho (fun hi => ?_)
  rw [show decode32 e = decodeP60 e by unfold decode32; rw [show fld e 0 8 = 193 from p0]; rfl]
  rw [show decodeP60 e = orIllegal true (.vfsub (bits e 8 5) (bits e 13 5) (bits e 18 5) (bits e 23 3)) by unfold decodeP60; rw [show fld e 26 6 = 1 from p1]; rfl]
  rw [f0, f1, f2, f3]
  exact orIllegal_of rfl hi

theorem RoundTrip.vfmul (d : BitVec 5) (a : BitVec 5) (b : BitVec 5) (m : BitVec 3) : Statement (.vfmul d a b m) := by
  obtain ⟨e, he, hw, ho, p0, p1, f0, f1, f2, f3⟩ := word20 (k := 134217921) d a b m (by decide)
  refine ofWord (w := e) (by rw [he]; rfl) hw ho (fun hi => ?_)
  rw [show decode32 e = decodeP60 e by unfold decode32; rw [show fld e 0 8 = 193 from p0]; rfl]
  rw [show decodeP60 e = orIllegal true (.vfmul (bits e 8 5) (bits e 13 5) (bits e 18 5) (bits e 23 3)) by unfold decodeP60; rw [show fld e 26 6 = 2 from p1]; rfl]
  rw [f0, f1, f2, f3]
  exact orIllegal_of rfl hi

theorem RoundTrip.vfma (d : BitVec 5) (a : BitVec 5) (b : BitVec 5) (m : BitVec 3) : Statement (.vfma d a b m) := by
  obtain ⟨e, he, hw, ho, p0, p1, f0, f1, f2, f3⟩ := word20 (k := 201326785) d a b m (by decide)
  refine ofWord (w := e) (by rw [he]; rfl) hw ho (fun hi => ?_)
  rw [show decode32 e = decodeP60 e by unfold decode32; rw [show fld e 0 8 = 193 from p0]; rfl]
  rw [show decodeP60 e = orIllegal true (.vfma (bits e 8 5) (bits e 13 5) (bits e 18 5) (bits e 23 3)) by unfold decodeP60; rw [show fld e 26 6 = 3 from p1]; rfl]
  rw [f0, f1, f2, f3]
  exact orIllegal_of rfl hi

theorem RoundTrip.vfms (d : BitVec 5) (a : BitVec 5) (b : BitVec 5) (m : BitVec 3) : Statement (.vfms d a b m) := by
  obtain ⟨e, he, hw, ho, p0, p1, f0, f1, f2, f3⟩ := word20 (k := 268435649) d a b m (by decide)
  refine ofWord (w := e) (by rw [he]; rfl) hw ho (fun hi => ?_)
  rw [show decode32 e = decodeP60 e by unfold decode32; rw [show fld e 0 8 = 193 from p0]; rfl]
  rw [show decodeP60 e = orIllegal true (.vfms (bits e 8 5) (bits e 13 5) (bits e 18 5) (bits e 23 3)) by unfold decodeP60; rw [show fld e 26 6 = 4 from p1]; rfl]
  rw [f0, f1, f2, f3]
  exact orIllegal_of rfl hi

theorem RoundTrip.vfdiv (d : BitVec 5) (a : BitVec 5) (b : BitVec 5) (m : BitVec 3) : Statement (.vfdiv d a b m) := by
  obtain ⟨e, he, hw, ho, p0, p1, f0, f1, f2, f3⟩ := word20 (k := 335544513) d a b m (by decide)
  refine ofWord (w := e) (by rw [he]; rfl) hw ho (fun hi => ?_)
  rw [show decode32 e = decodeP60 e by unfold decode32; rw [show fld e 0 8 = 193 from p0]; rfl]
  rw [show decodeP60 e = orIllegal true (.vfdiv (bits e 8 5) (bits e 13 5) (bits e 18 5) (bits e 23 3)) by unfold decodeP60; rw [show fld e 26 6 = 5 from p1]; rfl]
  rw [f0, f1, f2, f3]
  exact orIllegal_of rfl hi

theorem RoundTrip.vfsqrt (d : BitVec 5) (a : BitVec 5) (m : BitVec 3) : Statement (.vfsqrt d a m) := by
  obtain ⟨e, he, hw, ho, p0, p1, p2, f0, f1, f2⟩ := word28 (k := 402653377) d a m (by decide)
  refine ofWord (w := e) (by rw [he]; rfl) hw ho (fun hi => ?_)
  rw [show decode32 e = decodeP60 e by unfold decode32; rw [show fld e 0 8 = 193 from p0]; rfl]
  rw [show decodeP60 e = orIllegal (fld e 18 5 == 0) (.vfsqrt (bits e 8 5) (bits e 13 5) (bits e 23 3)) by unfold decodeP60; rw [show fld e 26 6 = 6 from p1]; rfl]
  rw [f0, f1, f2]
  exact orIllegal_of (by rw [p2]; rfl) hi

theorem RoundTrip.vfmin (d : BitVec 5) (a : BitVec 5) (b : BitVec 5) (m : BitVec 3) : Statement (.vfmin d a b m) := by
  obtain ⟨e, he, hw, ho, p0, p1, f0, f1, f2, f3⟩ := word20 (k := 469762241) d a b m (by decide)
  refine ofWord (w := e) (by rw [he]; rfl) hw ho (fun hi => ?_)
  rw [show decode32 e = decodeP60 e by unfold decode32; rw [show fld e 0 8 = 193 from p0]; rfl]
  rw [show decodeP60 e = orIllegal true (.vfmin (bits e 8 5) (bits e 13 5) (bits e 18 5) (bits e 23 3)) by unfold decodeP60; rw [show fld e 26 6 = 7 from p1]; rfl]
  rw [f0, f1, f2, f3]
  exact orIllegal_of rfl hi

theorem RoundTrip.vfmax (d : BitVec 5) (a : BitVec 5) (b : BitVec 5) (m : BitVec 3) : Statement (.vfmax d a b m) := by
  obtain ⟨e, he, hw, ho, p0, p1, f0, f1, f2, f3⟩ := word20 (k := 536871105) d a b m (by decide)
  refine ofWord (w := e) (by rw [he]; rfl) hw ho (fun hi => ?_)
  rw [show decode32 e = decodeP60 e by unfold decode32; rw [show fld e 0 8 = 193 from p0]; rfl]
  rw [show decodeP60 e = orIllegal true (.vfmax (bits e 8 5) (bits e 13 5) (bits e 18 5) (bits e 23 3)) by unfold decodeP60; rw [show fld e 26 6 = 8 from p1]; rfl]
  rw [f0, f1, f2, f3]
  exact orIllegal_of rfl hi

theorem RoundTrip.vfabs (d : BitVec 5) (a : BitVec 5) (m : BitVec 3) : Statement (.vfabs d a m) := by
  obtain ⟨e, he, hw, ho, p0, p1, p2, f0, f1, f2⟩ := word28 (k := 603979969) d a m (by decide)
  refine ofWord (w := e) (by rw [he]; rfl) hw ho (fun hi => ?_)
  rw [show decode32 e = decodeP60 e by unfold decode32; rw [show fld e 0 8 = 193 from p0]; rfl]
  rw [show decodeP60 e = orIllegal (fld e 18 5 == 0) (.vfabs (bits e 8 5) (bits e 13 5) (bits e 23 3)) by unfold decodeP60; rw [show fld e 26 6 = 9 from p1]; rfl]
  rw [f0, f1, f2]
  exact orIllegal_of (by rw [p2]; rfl) hi

theorem RoundTrip.vfneg (d : BitVec 5) (a : BitVec 5) (m : BitVec 3) : Statement (.vfneg d a m) := by
  obtain ⟨e, he, hw, ho, p0, p1, p2, f0, f1, f2⟩ := word28 (k := 671088833) d a m (by decide)
  refine ofWord (w := e) (by rw [he]; rfl) hw ho (fun hi => ?_)
  rw [show decode32 e = decodeP60 e by unfold decode32; rw [show fld e 0 8 = 193 from p0]; rfl]
  rw [show decodeP60 e = orIllegal (fld e 18 5 == 0) (.vfneg (bits e 8 5) (bits e 13 5) (bits e 23 3)) by unfold decodeP60; rw [show fld e 26 6 = 10 from p1]; rfl]
  rw [f0, f1, f2]
  exact orIllegal_of (by rw [p2]; rfl) hi

theorem RoundTrip.vfexps (d : BitVec 5) (a : BitVec 5) (b : BitVec 5) (m : BitVec 3) : Statement (.vfexps d a b m) := by
  obtain ⟨e, he, hw, ho, p0, p1, f0, f1, f2, f3⟩ := word20 (k := 738197697) d a b m (by decide)
  refine ofWord (w := e) (by rw [he]; rfl) hw ho (fun hi => ?_)
  rw [show decode32 e = decodeP60 e by unfold decode32; rw [show fld e 0 8 = 193 from p0]; rfl]
  rw [show decodeP60 e = orIllegal true (.vfexps (bits e 8 5) (bits e 13 5) (bits e 18 5) (bits e 23 3)) by unfold decodeP60; rw [show fld e 26 6 = 11 from p1]; rfl]
  rw [f0, f1, f2, f3]
  exact orIllegal_of rfl hi

theorem RoundTrip.vffloor (d : BitVec 5) (a : BitVec 5) (m : BitVec 3) : Statement (.vffloor d a m) := by
  obtain ⟨e, he, hw, ho, p0, p1, p2, f0, f1, f2⟩ := word28 (k := 805306561) d a m (by decide)
  refine ofWord (w := e) (by rw [he]; rfl) hw ho (fun hi => ?_)
  rw [show decode32 e = decodeP60 e by unfold decode32; rw [show fld e 0 8 = 193 from p0]; rfl]
  rw [show decodeP60 e = orIllegal (fld e 18 5 == 0) (.vffloor (bits e 8 5) (bits e 13 5) (bits e 23 3)) by unfold decodeP60; rw [show fld e 26 6 = 12 from p1]; rfl]
  rw [f0, f1, f2]
  exact orIllegal_of (by rw [p2]; rfl) hi

theorem RoundTrip.vfcmpEq (d : BitVec 3) (a : BitVec 5) (b : BitVec 5) (m : BitVec 3) : Statement (.vfcmpEq d a b m) := by
  obtain ⟨e, he, hw, ho, p0, p1, p2, f0, f1, f2, f3⟩ := word29 (k := 872415425) d a b m (by decide)
  refine ofWord (w := e) (by rw [he]; rfl) hw ho (fun hi => ?_)
  rw [show decode32 e = decodeP60 e by unfold decode32; rw [show fld e 0 8 = 193 from p0]; rfl]
  rw [show decodeP60 e = orIllegal (fld e 11 2 == 0) (.vfcmpEq (bits e 8 3) (bits e 13 5) (bits e 18 5) (bits e 23 3)) by unfold decodeP60; rw [show fld e 26 6 = 13 from p1]; rfl]
  rw [f0, f1, f2, f3]
  exact orIllegal_of (by rw [p2]; rfl) hi

theorem RoundTrip.vfcmpLt (d : BitVec 3) (a : BitVec 5) (b : BitVec 5) (m : BitVec 3) : Statement (.vfcmpLt d a b m) := by
  obtain ⟨e, he, hw, ho, p0, p1, p2, f0, f1, f2, f3⟩ := word29 (k := 939524289) d a b m (by decide)
  refine ofWord (w := e) (by rw [he]; rfl) hw ho (fun hi => ?_)
  rw [show decode32 e = decodeP60 e by unfold decode32; rw [show fld e 0 8 = 193 from p0]; rfl]
  rw [show decodeP60 e = orIllegal (fld e 11 2 == 0) (.vfcmpLt (bits e 8 3) (bits e 13 5) (bits e 18 5) (bits e 23 3)) by unfold decodeP60; rw [show fld e 26 6 = 14 from p1]; rfl]
  rw [f0, f1, f2, f3]
  exact orIllegal_of (by rw [p2]; rfl) hi

theorem RoundTrip.vfcmpLe (d : BitVec 3) (a : BitVec 5) (b : BitVec 5) (m : BitVec 3) : Statement (.vfcmpLe d a b m) := by
  obtain ⟨e, he, hw, ho, p0, p1, p2, f0, f1, f2, f3⟩ := word29 (k := 1006633153) d a b m (by decide)
  refine ofWord (w := e) (by rw [he]; rfl) hw ho (fun hi => ?_)
  rw [show decode32 e = decodeP60 e by unfold decode32; rw [show fld e 0 8 = 193 from p0]; rfl]
  rw [show decodeP60 e = orIllegal (fld e 11 2 == 0) (.vfcmpLe (bits e 8 3) (bits e 13 5) (bits e 18 5) (bits e 23 3)) by unfold decodeP60; rw [show fld e 26 6 = 15 from p1]; rfl]
  rw [f0, f1, f2, f3]
  exact orIllegal_of (by rw [p2]; rfl) hi

theorem RoundTrip.vfcmpUn (d : BitVec 3) (a : BitVec 5) (b : BitVec 5) (m : BitVec 3) : Statement (.vfcmpUn d a b m) := by
  obtain ⟨e, he, hw, ho, p0, p1, p2, f0, f1, f2, f3⟩ := word29 (k := 1073742017) d a b m (by decide)
  refine ofWord (w := e) (by rw [he]; rfl) hw ho (fun hi => ?_)
  rw [show decode32 e = decodeP60 e by unfold decode32; rw [show fld e 0 8 = 193 from p0]; rfl]
  rw [show decodeP60 e = orIllegal (fld e 11 2 == 0) (.vfcmpUn (bits e 8 3) (bits e 13 5) (bits e 18 5) (bits e 23 3)) by unfold decodeP60; rw [show fld e 26 6 = 16 from p1]; rfl]
  rw [f0, f1, f2, f3]
  exact orIllegal_of (by rw [p2]; rfl) hi

theorem RoundTrip.vadd (d : BitVec 5) (a : BitVec 5) (b : BitVec 5) (m : BitVec 3) : Statement (.vadd d a b m) := by
  obtain ⟨e, he, hw, ho, p0, p1, f0, f1, f2, f3⟩ := word20 (k := 195) d a b m (by decide)
  refine ofWord (w := e) (by rw [he]; rfl) hw ho (fun hi => ?_)
  rw [show decode32 e = decodeP61 e by unfold decode32; rw [show fld e 0 8 = 195 from p0]; rfl]
  rw [show decodeP61 e = orIllegal true (.vadd (bits e 8 5) (bits e 13 5) (bits e 18 5) (bits e 23 3)) by unfold decodeP61; rw [show fld e 26 6 = 0 from p1]; rfl]
  rw [f0, f1, f2, f3]
  exact orIllegal_of rfl hi

theorem RoundTrip.vadds (d : BitVec 5) (a : BitVec 5) (b : BitVec 5) (m : BitVec 3) : Statement (.vadds d a b m) := by
  obtain ⟨e, he, hw, ho, p0, p1, f0, f1, f2, f3⟩ := word20 (k := 67109059) d a b m (by decide)
  refine ofWord (w := e) (by rw [he]; rfl) hw ho (fun hi => ?_)
  rw [show decode32 e = decodeP61 e by unfold decode32; rw [show fld e 0 8 = 195 from p0]; rfl]
  rw [show decodeP61 e = orIllegal true (.vadds (bits e 8 5) (bits e 13 5) (bits e 18 5) (bits e 23 3)) by unfold decodeP61; rw [show fld e 26 6 = 1 from p1]; rfl]
  rw [f0, f1, f2, f3]
  exact orIllegal_of rfl hi

theorem RoundTrip.vsub (d : BitVec 5) (a : BitVec 5) (b : BitVec 5) (m : BitVec 3) : Statement (.vsub d a b m) := by
  obtain ⟨e, he, hw, ho, p0, p1, f0, f1, f2, f3⟩ := word20 (k := 134217923) d a b m (by decide)
  refine ofWord (w := e) (by rw [he]; rfl) hw ho (fun hi => ?_)
  rw [show decode32 e = decodeP61 e by unfold decode32; rw [show fld e 0 8 = 195 from p0]; rfl]
  rw [show decodeP61 e = orIllegal true (.vsub (bits e 8 5) (bits e 13 5) (bits e 18 5) (bits e 23 3)) by unfold decodeP61; rw [show fld e 26 6 = 2 from p1]; rfl]
  rw [f0, f1, f2, f3]
  exact orIllegal_of rfl hi

theorem RoundTrip.vsubs (d : BitVec 5) (a : BitVec 5) (b : BitVec 5) (m : BitVec 3) : Statement (.vsubs d a b m) := by
  obtain ⟨e, he, hw, ho, p0, p1, f0, f1, f2, f3⟩ := word20 (k := 201326787) d a b m (by decide)
  refine ofWord (w := e) (by rw [he]; rfl) hw ho (fun hi => ?_)
  rw [show decode32 e = decodeP61 e by unfold decode32; rw [show fld e 0 8 = 195 from p0]; rfl]
  rw [show decodeP61 e = orIllegal true (.vsubs (bits e 8 5) (bits e 13 5) (bits e 18 5) (bits e 23 3)) by unfold decodeP61; rw [show fld e 26 6 = 3 from p1]; rfl]
  rw [f0, f1, f2, f3]
  exact orIllegal_of rfl hi

theorem RoundTrip.vmul (d : BitVec 5) (a : BitVec 5) (b : BitVec 5) (m : BitVec 3) : Statement (.vmul d a b m) := by
  obtain ⟨e, he, hw, ho, p0, p1, f0, f1, f2, f3⟩ := word20 (k := 268435651) d a b m (by decide)
  refine ofWord (w := e) (by rw [he]; rfl) hw ho (fun hi => ?_)
  rw [show decode32 e = decodeP61 e by unfold decode32; rw [show fld e 0 8 = 195 from p0]; rfl]
  rw [show decodeP61 e = orIllegal true (.vmul (bits e 8 5) (bits e 13 5) (bits e 18 5) (bits e 23 3)) by unfold decodeP61; rw [show fld e 26 6 = 4 from p1]; rfl]
  rw [f0, f1, f2, f3]
  exact orIllegal_of rfl hi

theorem RoundTrip.vmulh (d : BitVec 5) (a : BitVec 5) (b : BitVec 5) (m : BitVec 3) : Statement (.vmulh d a b m) := by
  obtain ⟨e, he, hw, ho, p0, p1, f0, f1, f2, f3⟩ := word20 (k := 335544515) d a b m (by decide)
  refine ofWord (w := e) (by rw [he]; rfl) hw ho (fun hi => ?_)
  rw [show decode32 e = decodeP61 e by unfold decode32; rw [show fld e 0 8 = 195 from p0]; rfl]
  rw [show decodeP61 e = orIllegal true (.vmulh (bits e 8 5) (bits e 13 5) (bits e 18 5) (bits e 23 3)) by unfold decodeP61; rw [show fld e 26 6 = 5 from p1]; rfl]
  rw [f0, f1, f2, f3]
  exact orIllegal_of rfl hi

theorem RoundTrip.vmulhu (d : BitVec 5) (a : BitVec 5) (b : BitVec 5) (m : BitVec 3) : Statement (.vmulhu d a b m) := by
  obtain ⟨e, he, hw, ho, p0, p1, f0, f1, f2, f3⟩ := word20 (k := 402653379) d a b m (by decide)
  refine ofWord (w := e) (by rw [he]; rfl) hw ho (fun hi => ?_)
  rw [show decode32 e = decodeP61 e by unfold decode32; rw [show fld e 0 8 = 195 from p0]; rfl]
  rw [show decodeP61 e = orIllegal true (.vmulhu (bits e 8 5) (bits e 13 5) (bits e 18 5) (bits e 23 3)) by unfold decodeP61; rw [show fld e 26 6 = 6 from p1]; rfl]
  rw [f0, f1, f2, f3]
  exact orIllegal_of rfl hi

theorem RoundTrip.vand (d : BitVec 5) (a : BitVec 5) (b : BitVec 5) (m : BitVec 3) : Statement (.vand d a b m) := by
  obtain ⟨e, he, hw, ho, p0, p1, f0, f1, f2, f3⟩ := word20 (k := 469762243) d a b m (by decide)
  refine ofWord (w := e) (by rw [he]; rfl) hw ho (fun hi => ?_)
  rw [show decode32 e = decodeP61 e by unfold decode32; rw [show fld e 0 8 = 195 from p0]; rfl]
  rw [show decodeP61 e = orIllegal true (.vand (bits e 8 5) (bits e 13 5) (bits e 18 5) (bits e 23 3)) by unfold decodeP61; rw [show fld e 26 6 = 7 from p1]; rfl]
  rw [f0, f1, f2, f3]
  exact orIllegal_of rfl hi

theorem RoundTrip.vor (d : BitVec 5) (a : BitVec 5) (b : BitVec 5) (m : BitVec 3) : Statement (.vor d a b m) := by
  obtain ⟨e, he, hw, ho, p0, p1, f0, f1, f2, f3⟩ := word20 (k := 536871107) d a b m (by decide)
  refine ofWord (w := e) (by rw [he]; rfl) hw ho (fun hi => ?_)
  rw [show decode32 e = decodeP61 e by unfold decode32; rw [show fld e 0 8 = 195 from p0]; rfl]
  rw [show decodeP61 e = orIllegal true (.vor (bits e 8 5) (bits e 13 5) (bits e 18 5) (bits e 23 3)) by unfold decodeP61; rw [show fld e 26 6 = 8 from p1]; rfl]
  rw [f0, f1, f2, f3]
  exact orIllegal_of rfl hi

theorem RoundTrip.vxor (d : BitVec 5) (a : BitVec 5) (b : BitVec 5) (m : BitVec 3) : Statement (.vxor d a b m) := by
  obtain ⟨e, he, hw, ho, p0, p1, f0, f1, f2, f3⟩ := word20 (k := 603979971) d a b m (by decide)
  refine ofWord (w := e) (by rw [he]; rfl) hw ho (fun hi => ?_)
  rw [show decode32 e = decodeP61 e by unfold decode32; rw [show fld e 0 8 = 195 from p0]; rfl]
  rw [show decodeP61 e = orIllegal true (.vxor (bits e 8 5) (bits e 13 5) (bits e 18 5) (bits e 23 3)) by unfold decodeP61; rw [show fld e 26 6 = 9 from p1]; rfl]
  rw [f0, f1, f2, f3]
  exact orIllegal_of rfl hi

theorem RoundTrip.vshl (d : BitVec 5) (a : BitVec 5) (b : BitVec 5) (m : BitVec 3) : Statement (.vshl d a b m) := by
  obtain ⟨e, he, hw, ho, p0, p1, f0, f1, f2, f3⟩ := word20 (k := 671088835) d a b m (by decide)
  refine ofWord (w := e) (by rw [he]; rfl) hw ho (fun hi => ?_)
  rw [show decode32 e = decodeP61 e by unfold decode32; rw [show fld e 0 8 = 195 from p0]; rfl]
  rw [show decodeP61 e = orIllegal true (.vshl (bits e 8 5) (bits e 13 5) (bits e 18 5) (bits e 23 3)) by unfold decodeP61; rw [show fld e 26 6 = 10 from p1]; rfl]
  rw [f0, f1, f2, f3]
  exact orIllegal_of rfl hi

theorem RoundTrip.vshr (d : BitVec 5) (a : BitVec 5) (b : BitVec 5) (m : BitVec 3) : Statement (.vshr d a b m) := by
  obtain ⟨e, he, hw, ho, p0, p1, f0, f1, f2, f3⟩ := word20 (k := 738197699) d a b m (by decide)
  refine ofWord (w := e) (by rw [he]; rfl) hw ho (fun hi => ?_)
  rw [show decode32 e = decodeP61 e by unfold decode32; rw [show fld e 0 8 = 195 from p0]; rfl]
  rw [show decodeP61 e = orIllegal true (.vshr (bits e 8 5) (bits e 13 5) (bits e 18 5) (bits e 23 3)) by unfold decodeP61; rw [show fld e 26 6 = 11 from p1]; rfl]
  rw [f0, f1, f2, f3]
  exact orIllegal_of rfl hi

theorem RoundTrip.vsha (d : BitVec 5) (a : BitVec 5) (b : BitVec 5) (m : BitVec 3) : Statement (.vsha d a b m) := by
  obtain ⟨e, he, hw, ho, p0, p1, f0, f1, f2, f3⟩ := word20 (k := 805306563) d a b m (by decide)
  refine ofWord (w := e) (by rw [he]; rfl) hw ho (fun hi => ?_)
  rw [show decode32 e = decodeP61 e by unfold decode32; rw [show fld e 0 8 = 195 from p0]; rfl]
  rw [show decodeP61 e = orIllegal true (.vsha (bits e 8 5) (bits e 13 5) (bits e 18 5) (bits e 23 3)) by unfold decodeP61; rw [show fld e 26 6 = 12 from p1]; rfl]
  rw [f0, f1, f2, f3]
  exact orIllegal_of rfl hi

theorem RoundTrip.vmin (d : BitVec 5) (a : BitVec 5) (b : BitVec 5) (m : BitVec 3) : Statement (.vmin d a b m) := by
  obtain ⟨e, he, hw, ho, p0, p1, f0, f1, f2, f3⟩ := word20 (k := 872415427) d a b m (by decide)
  refine ofWord (w := e) (by rw [he]; rfl) hw ho (fun hi => ?_)
  rw [show decode32 e = decodeP61 e by unfold decode32; rw [show fld e 0 8 = 195 from p0]; rfl]
  rw [show decodeP61 e = orIllegal true (.vmin (bits e 8 5) (bits e 13 5) (bits e 18 5) (bits e 23 3)) by unfold decodeP61; rw [show fld e 26 6 = 13 from p1]; rfl]
  rw [f0, f1, f2, f3]
  exact orIllegal_of rfl hi

theorem RoundTrip.vmax (d : BitVec 5) (a : BitVec 5) (b : BitVec 5) (m : BitVec 3) : Statement (.vmax d a b m) := by
  obtain ⟨e, he, hw, ho, p0, p1, f0, f1, f2, f3⟩ := word20 (k := 939524291) d a b m (by decide)
  refine ofWord (w := e) (by rw [he]; rfl) hw ho (fun hi => ?_)
  rw [show decode32 e = decodeP61 e by unfold decode32; rw [show fld e 0 8 = 195 from p0]; rfl]
  rw [show decodeP61 e = orIllegal true (.vmax (bits e 8 5) (bits e 13 5) (bits e 18 5) (bits e 23 3)) by unfold decodeP61; rw [show fld e 26 6 = 14 from p1]; rfl]
  rw [f0, f1, f2, f3]
  exact orIllegal_of rfl hi

theorem RoundTrip.vminu (d : BitVec 5) (a : BitVec 5) (b : BitVec 5) (m : BitVec 3) : Statement (.vminu d a b m) := by
  obtain ⟨e, he, hw, ho, p0, p1, f0, f1, f2, f3⟩ := word20 (k := 1006633155) d a b m (by decide)
  refine ofWord (w := e) (by rw [he]; rfl) hw ho (fun hi => ?_)
  rw [show decode32 e = decodeP61 e by unfold decode32; rw [show fld e 0 8 = 195 from p0]; rfl]
  rw [show decodeP61 e = orIllegal true (.vminu (bits e 8 5) (bits e 13 5) (bits e 18 5) (bits e 23 3)) by unfold decodeP61; rw [show fld e 26 6 = 15 from p1]; rfl]
  rw [f0, f1, f2, f3]
  exact orIllegal_of rfl hi

theorem RoundTrip.vmaxu (d : BitVec 5) (a : BitVec 5) (b : BitVec 5) (m : BitVec 3) : Statement (.vmaxu d a b m) := by
  obtain ⟨e, he, hw, ho, p0, p1, f0, f1, f2, f3⟩ := word20 (k := 1073742019) d a b m (by decide)
  refine ofWord (w := e) (by rw [he]; rfl) hw ho (fun hi => ?_)
  rw [show decode32 e = decodeP61 e by unfold decode32; rw [show fld e 0 8 = 195 from p0]; rfl]
  rw [show decodeP61 e = orIllegal true (.vmaxu (bits e 8 5) (bits e 13 5) (bits e 18 5) (bits e 23 3)) by unfold decodeP61; rw [show fld e 26 6 = 16 from p1]; rfl]
  rw [f0, f1, f2, f3]
  exact orIllegal_of rfl hi

theorem RoundTrip.vcmpEq (d : BitVec 3) (a : BitVec 5) (b : BitVec 5) (m : BitVec 3) : Statement (.vcmpEq d a b m) := by
  obtain ⟨e, he, hw, ho, p0, p1, p2, f0, f1, f2, f3⟩ := word29 (k := 1140850883) d a b m (by decide)
  refine ofWord (w := e) (by rw [he]; rfl) hw ho (fun hi => ?_)
  rw [show decode32 e = decodeP61 e by unfold decode32; rw [show fld e 0 8 = 195 from p0]; rfl]
  rw [show decodeP61 e = orIllegal (fld e 11 2 == 0) (.vcmpEq (bits e 8 3) (bits e 13 5) (bits e 18 5) (bits e 23 3)) by unfold decodeP61; rw [show fld e 26 6 = 17 from p1]; rfl]
  rw [f0, f1, f2, f3]
  exact orIllegal_of (by rw [p2]; rfl) hi

theorem RoundTrip.vcmpLt (d : BitVec 3) (a : BitVec 5) (b : BitVec 5) (m : BitVec 3) : Statement (.vcmpLt d a b m) := by
  obtain ⟨e, he, hw, ho, p0, p1, p2, f0, f1, f2, f3⟩ := word29 (k := 1207959747) d a b m (by decide)
  refine ofWord (w := e) (by rw [he]; rfl) hw ho (fun hi => ?_)
  rw [show decode32 e = decodeP61 e by unfold decode32; rw [show fld e 0 8 = 195 from p0]; rfl]
  rw [show decodeP61 e = orIllegal (fld e 11 2 == 0) (.vcmpLt (bits e 8 3) (bits e 13 5) (bits e 18 5) (bits e 23 3)) by unfold decodeP61; rw [show fld e 26 6 = 18 from p1]; rfl]
  rw [f0, f1, f2, f3]
  exact orIllegal_of (by rw [p2]; rfl) hi

theorem RoundTrip.vcmpLtu (d : BitVec 3) (a : BitVec 5) (b : BitVec 5) (m : BitVec 3) : Statement (.vcmpLtu d a b m) := by
  obtain ⟨e, he, hw, ho, p0, p1, p2, f0, f1, f2, f3⟩ := word29 (k := 1275068611) d a b m (by decide)
  refine ofWord (w := e) (by rw [he]; rfl) hw ho (fun hi => ?_)
  rw [show decode32 e = decodeP61 e by unfold decode32; rw [show fld e 0 8 = 195 from p0]; rfl]
  rw [show decodeP61 e = orIllegal (fld e 11 2 == 0) (.vcmpLtu (bits e 8 3) (bits e 13 5) (bits e 18 5) (bits e 23 3)) by unfold decodeP61; rw [show fld e 26 6 = 19 from p1]; rfl]
  rw [f0, f1, f2, f3]
  exact orIllegal_of (by rw [p2]; rfl) hi

theorem RoundTrip.vcvt (d : BitVec 5) (a : BitVec 5) (m : BitVec 3) (c : BitVec 6) : Statement (.vcvt d a m c) := by
  obtain ⟨e, he, hw, ho, p0, p1, f0, f1, f2, f3⟩ := word30 (k := 197) d a m c (by decide)
  refine ofWord (w := e) (by rw [he]; rfl) hw ho (fun hi => ?_)
  rw [show decode32 e = orIllegal (fld e 18 5 == 0) (.vcvt (bits e 8 5) (bits e 13 5) (bits e 23 3) (bits e 26 6)) by unfold decode32; rw [show fld e 0 8 = 197 from p0]; rfl]
  rw [f0, f1, f2, f3]
  exact orIllegal_of (by rw [p1]; rfl) hi

theorem RoundTrip.vpk6 (d : BitVec 5) (a : BitVec 5) : Statement (.vpk6 d a) := by
  obtain ⟨e, he, hw, ho, p0, p1, p2, f0, f1⟩ := word31 (k := 199) d a (by decide)
  refine ofWord (w := e) (by rw [he]; rfl) hw ho (fun hi => ?_)
  rw [show decode32 e = decodeP63 e by unfold decode32; rw [show fld e 0 8 = 199 from p0]; rfl]
  rw [show decodeP63 e = orIllegal (fld e 18 8 == 0) (.vpk6 (bits e 8 5) (bits e 13 5)) by unfold decodeP63; rw [show fld e 26 6 = 0 from p1]; rfl]
  rw [f0, f1]
  exact orIllegal_of (by rw [p2]; rfl) hi

theorem RoundTrip.vupk6 (d : BitVec 5) (a : BitVec 5) : Statement (.vupk6 d a) := by
  obtain ⟨e, he, hw, ho, p0, p1, p2, f0, f1⟩ := word31 (k := 67109063) d a (by decide)
  refine ofWord (w := e) (by rw [he]; rfl) hw ho (fun hi => ?_)
  rw [show decode32 e = decodeP63 e by unfold decode32; rw [show fld e 0 8 = 199 from p0]; rfl]
  rw [show decodeP63 e = orIllegal (fld e 18 8 == 0) (.vupk6 (bits e 8 5) (bits e 13 5)) by unfold decodeP63; rw [show fld e 26 6 = 1 from p1]; rfl]
  rw [f0, f1]
  exact orIllegal_of (by rw [p2]; rfl) hi

theorem RoundTrip.vrfwd (d : BitVec 5) (a : BitVec 5) (m : BitVec 3) : Statement (.vrfwd d a m) := by
  obtain ⟨e, he, hw, ho, p0, p1, p2, f0, f1, f2⟩ := word28 (k := 134217927) d a m (by decide)
  refine ofWord (w := e) (by rw [he]; rfl) hw ho (fun hi => ?_)
  rw [show decode32 e = decodeP63 e by unfold decode32; rw [show fld e 0 8 = 199 from p0]; rfl]
  rw [show decodeP63 e = orIllegal (fld e 18 5 == 0) (.vrfwd (bits e 8 5) (bits e 13 5) (bits e 23 3)) by unfold decodeP63; rw [show fld e 26 6 = 2 from p1]; rfl]
  rw [f0, f1, f2]
  exact orIllegal_of (by rw [p2]; rfl) hi

theorem RoundTrip.vrrev (d : BitVec 5) (a : BitVec 5) (m : BitVec 3) : Statement (.vrrev d a m) := by
  obtain ⟨e, he, hw, ho, p0, p1, p2, f0, f1, f2⟩ := word28 (k := 201326791) d a m (by decide)
  refine ofWord (w := e) (by rw [he]; rfl) hw ho (fun hi => ?_)
  rw [show decode32 e = decodeP63 e by unfold decode32; rw [show fld e 0 8 = 199 from p0]; rfl]
  rw [show decodeP63 e = orIllegal (fld e 18 5 == 0) (.vrrev (bits e 8 5) (bits e 13 5) (bits e 23 3)) by unfold decodeP63; rw [show fld e 26 6 = 3 from p1]; rfl]
  rw [f0, f1, f2]
  exact orIllegal_of (by rw [p2]; rfl) hi

theorem RoundTrip.vredfadd (d : BitVec 5) (a : BitVec 5) (m : BitVec 3) : Statement (.vredfadd d a m) := by
  obtain ⟨e, he, hw, ho, p0, p1, p2, f0, f1, f2⟩ := word28 (k := 201) d a m (by decide)
  refine ofWord (w := e) (by rw [he]; rfl) hw ho (fun hi => ?_)
  rw [show decode32 e = decodeP64 e by unfold decode32; rw [show fld e 0 8 = 201 from p0]; rfl]
  rw [show decodeP64 e = orIllegal (fld e 18 5 == 0) (.vredfadd (bits e 8 5) (bits e 13 5) (bits e 23 3)) by unfold decodeP64; rw [show fld e 26 6 = 0 from p1]; rfl]
  rw [f0, f1, f2]
  exact orIllegal_of (by rw [p2]; rfl) hi

theorem RoundTrip.vredfmax (d : BitVec 5) (a : BitVec 5) (m : BitVec 3) : Statement (.vredfmax d a m) := by
  obtain ⟨e, he, hw, ho, p0, p1, p2, f0, f1, f2⟩ := word28 (k := 67109065) d a m (by decide)
  refine ofWord (w := e) (by rw [he]; rfl) hw ho (fun hi => ?_)
  rw [show decode32 e = decodeP64 e by unfold decode32; rw [show fld e 0 8 = 201 from p0]; rfl]
  rw [show decodeP64 e = orIllegal (fld e 18 5 == 0) (.vredfmax (bits e 8 5) (bits e 13 5) (bits e 23 3)) by unfold decodeP64; rw [show fld e 26 6 = 1 from p1]; rfl]
  rw [f0, f1, f2]
  exact orIllegal_of (by rw [p2]; rfl) hi

theorem RoundTrip.vredadd (d : BitVec 5) (a : BitVec 5) (m : BitVec 3) : Statement (.vredadd d a m) := by
  obtain ⟨e, he, hw, ho, p0, p1, p2, f0, f1, f2⟩ := word28 (k := 134217929) d a m (by decide)
  refine ofWord (w := e) (by rw [he]; rfl) hw ho (fun hi => ?_)
  rw [show decode32 e = decodeP64 e by unfold decode32; rw [show fld e 0 8 = 201 from p0]; rfl]
  rw [show decodeP64 e = orIllegal (fld e 18 5 == 0) (.vredadd (bits e 8 5) (bits e 13 5) (bits e 23 3)) by unfold decodeP64; rw [show fld e 26 6 = 2 from p1]; rfl]
  rw [f0, f1, f2]
  exact orIllegal_of (by rw [p2]; rfl) hi

theorem RoundTrip.vredmax (d : BitVec 5) (a : BitVec 5) (m : BitVec 3) : Statement (.vredmax d a m) := by
  obtain ⟨e, he, hw, ho, p0, p1, p2, f0, f1, f2⟩ := word28 (k := 201326793) d a m (by decide)
  refine ofWord (w := e) (by rw [he]; rfl) hw ho (fun hi => ?_)
  rw [show decode32 e = decodeP64 e by unfold decode32; rw [show fld e 0 8 = 201 from p0]; rfl]
  rw [show decodeP64 e = orIllegal (fld e 18 5 == 0) (.vredmax (bits e 8 5) (bits e 13 5) (bits e 23 3)) by unfold decodeP64; rw [show fld e 26 6 = 3 from p1]; rfl]
  rw [f0, f1, f2]
  exact orIllegal_of (by rw [p2]; rfl) hi

theorem RoundTrip.vperm (d : BitVec 5) (a : BitVec 5) (b : BitVec 5) (m : BitVec 3) : Statement (.vperm d a b m) := by
  obtain ⟨e, he, hw, ho, p0, p1, f0, f1, f2, f3⟩ := word20 (k := 203) d a b m (by decide)
  refine ofWord (w := e) (by rw [he]; rfl) hw ho (fun hi => ?_)
  rw [show decode32 e = decodeP65 e by unfold decode32; rw [show fld e 0 8 = 203 from p0]; rfl]
  rw [show decodeP65 e = orIllegal true (.vperm (bits e 8 5) (bits e 13 5) (bits e 18 5) (bits e 23 3)) by unfold decodeP65; rw [show fld e 26 6 = 0 from p1]; rfl]
  rw [f0, f1, f2, f3]
  exact orIllegal_of rfl hi

theorem RoundTrip.vbcast (d : BitVec 5) (a : BitVec 5) (m : BitVec 3) : Statement (.vbcast d a m) := by
  obtain ⟨e, he, hw, ho, p0, p1, p2, f0, f1, f2⟩ := word28 (k := 67109067) d a m (by decide)
  refine ofWord (w := e) (by rw [he]; rfl) hw ho (fun hi => ?_)
  rw [show decode32 e = decodeP65 e by unfold decode32; rw [show fld e 0 8 = 203 from p0]; rfl]
  rw [show decodeP65 e = orIllegal (fld e 18 5 == 0) (.vbcast (bits e 8 5) (bits e 13 5) (bits e 23 3)) by unfold decodeP65; rw [show fld e 26 6 = 1 from p1]; rfl]
  rw [f0, f1, f2]
  exact orIllegal_of (by rw [p2]; rfl) hi

theorem RoundTrip.vextr (d : BitVec 5) (a : BitVec 5) (b : BitVec 5) : Statement (.vextr d a b) := by
  obtain ⟨e, he, hw, ho, p0, p1, p2, f0, f1, f2⟩ := word32 (k := 134217931) d a b (by decide)
  refine ofWord (w := e) (by rw [he]; rfl) hw ho (fun hi => ?_)
  rw [show decode32 e = decodeP65 e by unfold decode32; rw [show fld e 0 8 = 203 from p0]; rfl]
  rw [show decodeP65 e = orIllegal (fld e 23 3 == 0) (.vextr (bits e 8 5) (bits e 13 5) (bits e 18 5)) by unfold decodeP65; rw [show fld e 26 6 = 2 from p1]; rfl]
  rw [f0, f1, f2]
  exact orIllegal_of (by rw [p2]; rfl) hi

theorem RoundTrip.vins (d : BitVec 5) (a : BitVec 5) (b : BitVec 5) : Statement (.vins d a b) := by
  obtain ⟨e, he, hw, ho, p0, p1, p2, f0, f1, f2⟩ := word32 (k := 201326795) d a b (by decide)
  refine ofWord (w := e) (by rw [he]; rfl) hw ho (fun hi => ?_)
  rw [show decode32 e = decodeP65 e by unfold decode32; rw [show fld e 0 8 = 203 from p0]; rfl]
  rw [show decodeP65 e = orIllegal (fld e 23 3 == 0) (.vins (bits e 8 5) (bits e 13 5) (bits e 18 5)) by unfold decodeP65; rw [show fld e 26 6 = 3 from p1]; rfl]
  rw [f0, f1, f2]
  exact orIllegal_of (by rw [p2]; rfl) hi

theorem RoundTrip.viota (d : BitVec 5) (m : BitVec 3) : Statement (.viota d m) := by
  obtain ⟨e, he, hw, ho, p0, p1, p2, f0, f1⟩ := word33 (k := 268435659) d m (by decide)
  refine ofWord (w := e) (by rw [he]; rfl) hw ho (fun hi => ?_)
  rw [show decode32 e = decodeP65 e by unfold decode32; rw [show fld e 0 8 = 203 from p0]; rfl]
  rw [show decodeP65 e = orIllegal (fld e 13 10 == 0) (.viota (bits e 8 5) (bits e 23 3)) by unfold decodeP65; rw [show fld e 26 6 = 4 from p1]; rfl]
  rw [f0, f1]
  exact orIllegal_of (by rw [p2]; rfl) hi

theorem RoundTrip.vsel (d : BitVec 5) (a : BitVec 5) (b : BitVec 5) (m : BitVec 3) : Statement (.vsel d a b m) := by
  obtain ⟨e, he, hw, ho, p0, p1, f0, f1, f2, f3⟩ := word20 (k := 335544523) d a b m (by decide)
  refine ofWord (w := e) (by rw [he]; rfl) hw ho (fun hi => ?_)
  rw [show decode32 e = decodeP65 e by unfold decode32; rw [show fld e 0 8 = 203 from p0]; rfl]
  rw [show decodeP65 e = orIllegal true (.vsel (bits e 8 5) (bits e 13 5) (bits e 18 5) (bits e 23 3)) by unfold decodeP65; rw [show fld e 26 6 = 5 from p1]; rfl]
  rw [f0, f1, f2, f3]
  exact orIllegal_of rfl hi

theorem RoundTrip.vmov (d : BitVec 5) (a : BitVec 5) (m : BitVec 3) : Statement (.vmov d a m) := by
  obtain ⟨e, he, hw, ho, p0, p1, p2, f0, f1, f2⟩ := word28 (k := 402653387) d a m (by decide)
  refine ofWord (w := e) (by rw [he]; rfl) hw ho (fun hi => ?_)
  rw [show decode32 e = decodeP65 e by unfold decode32; rw [show fld e 0 8 = 203 from p0]; rfl]
  rw [show decodeP65 e = orIllegal (fld e 18 5 == 0) (.vmov (bits e 8 5) (bits e 13 5) (bits e 23 3)) by unfold decodeP65; rw [show fld e 26 6 = 6 from p1]; rfl]
  rw [f0, f1, f2]
  exact orIllegal_of (by rw [p2]; rfl) hi

theorem RoundTrip.mand (d : BitVec 3) (a : BitVec 3) (b : BitVec 3) (m : BitVec 3) : Statement (.mand d a b m) := by
  obtain ⟨e, he, hw, ho, p0, p1, p2, p3, p4, f0, f1, f2, f3⟩ := word34 (k := 205) d a b m (by decide)
  refine ofWord (w := e) (by rw [he]; rfl) hw ho (fun hi => ?_)
  rw [show decode32 e = decodeP66 e by unfold decode32; rw [show fld e 0 8 = 205 from p0]; rfl]
  rw [show decodeP66 e = orIllegal (fld e 11 2 == 0 && fld e 16 2 == 0 && fld e 21 2 == 0) (.mand (bits e 8 3) (bits e 13 3) (bits e 18 3) (bits e 23 3)) by unfold decodeP66; rw [show fld e 26 6 = 0 from p1]; rfl]
  rw [f0, f1, f2, f3]
  exact orIllegal_of (by rw [p2, p3, p4]; rfl) hi

theorem RoundTrip.mor (d : BitVec 3) (a : BitVec 3) (b : BitVec 3) (m : BitVec 3) : Statement (.mor d a b m) := by
  obtain ⟨e, he, hw, ho, p0, p1, p2, p3, p4, f0, f1, f2, f3⟩ := word34 (k := 67109069) d a b m (by decide)
  refine ofWord (w := e) (by rw [he]; rfl) hw ho (fun hi => ?_)
  rw [show decode32 e = decodeP66 e by unfold decode32; rw [show fld e 0 8 = 205 from p0]; rfl]
  rw [show decodeP66 e = orIllegal (fld e 11 2 == 0 && fld e 16 2 == 0 && fld e 21 2 == 0) (.mor (bits e 8 3) (bits e 13 3) (bits e 18 3) (bits e 23 3)) by unfold decodeP66; rw [show fld e 26 6 = 1 from p1]; rfl]
  rw [f0, f1, f2, f3]
  exact orIllegal_of (by rw [p2, p3, p4]; rfl) hi

theorem RoundTrip.mnot (d : BitVec 3) (a : BitVec 3) (m : BitVec 3) : Statement (.mnot d a m) := by
  obtain ⟨e, he, hw, ho, p0, p1, p2, p3, f0, f1, f2⟩ := word35 (k := 134217933) d a m (by decide)
  refine ofWord (w := e) (by rw [he]; rfl) hw ho (fun hi => ?_)
  rw [show decode32 e = decodeP66 e by unfold decode32; rw [show fld e 0 8 = 205 from p0]; rfl]
  rw [show decodeP66 e = orIllegal (fld e 11 2 == 0 && fld e 16 7 == 0) (.mnot (bits e 8 3) (bits e 13 3) (bits e 23 3)) by unfold decodeP66; rw [show fld e 26 6 = 2 from p1]; rfl]
  rw [f0, f1, f2]
  exact orIllegal_of (by rw [p2, p3]; rfl) hi

theorem RoundTrip.mcnt (d : BitVec 5) (a : BitVec 3) (m : BitVec 3) : Statement (.mcnt d a m) := by
  obtain ⟨e, he, hw, ho, p0, p1, p2, f0, f1, f2⟩ := word36 (k := 201326797) d a m (by decide)
  refine ofWord (w := e) (by rw [he]; rfl) hw ho (fun hi => ?_)
  rw [show decode32 e = decodeP66 e by unfold decode32; rw [show fld e 0 8 = 205 from p0]; rfl]
  rw [show decodeP66 e = orIllegal (fld e 16 7 == 0) (.mcnt (bits e 8 5) (bits e 13 3) (bits e 23 3)) by unfold decodeP66; rw [show fld e 26 6 = 3 from p1]; rfl]
  rw [f0, f1, f2]
  exact orIllegal_of (by rw [p2]; rfl) hi

theorem RoundTrip.mset (d : BitVec 3) (a : BitVec 5) (b : BitVec 5) : Statement (.mset d a b) := by
  obtain ⟨e, he, hw, ho, p0, p1, p2, p3, f0, f1, f2⟩ := word37 (k := 268435661) d a b (by decide)
  refine ofWord (w := e) (by rw [he]; rfl) hw ho (fun hi => ?_)
  rw [show decode32 e = decodeP66 e by unfold decode32; rw [show fld e 0 8 = 205 from p0]; rfl]
  rw [show decodeP66 e = orIllegal (fld e 11 2 == 0 && fld e 23 3 == 0) (.mset (bits e 8 3) (bits e 13 5) (bits e 18 5)) by unfold decodeP66; rw [show fld e 26 6 = 4 from p1]; rfl]
  rw [f0, f1, f2]
  exact orIllegal_of (by rw [p2, p3]; rfl) hi

theorem RoundTrip.vld (d : BitVec 5) (b : BitVec 6) (i : BitVec 7) (m : BitVec 3) (h : BitVec 1) : Statement (.vld d b i m h) := by
  obtain ⟨e, he, hw, ho, p0, p1, f0, f1, f2, f3, f4⟩ := word38 (k := 209) d b i m h (by decide)
  refine ofWord (w := e) (by rw [he]; rfl) hw ho (fun hi => ?_)
  rw [show decode32 e = orIllegal (fld e 30 2 == 0) (.vld (bits e 8 5) (bits e 13 6) (bits e 19 7) (bits e 26 3) (bits e 29 1)) by unfold decode32; rw [show fld e 0 8 = 209 from p0]; rfl]
  rw [f0, f1, f2, f3, f4]
  exact orIllegal_of (by rw [p1]; rfl) hi

theorem RoundTrip.vst (d : BitVec 5) (b : BitVec 6) (i : BitVec 7) (m : BitVec 3) (h : BitVec 1) : Statement (.vst d b i m h) := by
  obtain ⟨e, he, hw, ho, p0, p1, f0, f1, f2, f3, f4⟩ := word38 (k := 211) d b i m h (by decide)
  refine ofWord (w := e) (by rw [he]; rfl) hw ho (fun hi => ?_)
  rw [show decode32 e = orIllegal (fld e 30 2 == 0) (.vst (bits e 8 5) (bits e 13 6) (bits e 19 7) (bits e 26 3) (bits e 29 1)) by unfold decode32; rw [show fld e 0 8 = 211 from p0]; rfl]
  rw [f0, f1, f2, f3, f4]
  exact orIllegal_of (by rw [p1]; rfl) hi

theorem RoundTrip.vlds (d : BitVec 5) (a : BitVec 5) (b : BitVec 5) (m : BitVec 3) : Statement (.vlds d a b m) := by
  obtain ⟨e, he, hw, ho, p0, p1, f0, f1, f2, f3⟩ := word20 (k := 213) d a b m (by decide)
  refine ofWord (w := e) (by rw [he]; rfl) hw ho (fun hi => ?_)
  rw [show decode32 e = orIllegal (fld e 26 6 == 0) (.vlds (bits e 8 5) (bits e 13 5) (bits e 18 5) (bits e 23 3)) by unfold decode32; rw [show fld e 0 8 = 213 from p0]; rfl]
  rw [f0, f1, f2, f3]
  exact orIllegal_of (by rw [p1]; rfl) hi

theorem RoundTrip.vsts (d : BitVec 5) (a : BitVec 5) (b : BitVec 5) (m : BitVec 3) : Statement (.vsts d a b m) := by
  obtain ⟨e, he, hw, ho, p0, p1, f0, f1, f2, f3⟩ := word20 (k := 215) d a b m (by decide)
  refine ofWord (w := e) (by rw [he]; rfl) hw ho (fun hi => ?_)
  rw [show decode32 e = orIllegal (fld e 26 6 == 0) (.vsts (bits e 8 5) (bits e 13 5) (bits e 18 5) (bits e 23 3)) by unfold decode32; rw [show fld e 0 8 = 215 from p0]; rfl]
  rw [f0, f1, f2, f3]
  exact orIllegal_of (by rw [p1]; rfl) hi

theorem RoundTrip.vgth (d : BitVec 5) (a : BitVec 5) (b : BitVec 5) (m : BitVec 3) : Statement (.vgth d a b m) := by
  obtain ⟨e, he, hw, ho, p0, p1, f0, f1, f2, f3⟩ := word20 (k := 217) d a b m (by decide)
  refine ofWord (w := e) (by rw [he]; rfl) hw ho (fun hi => ?_)
  rw [show decode32 e = orIllegal (fld e 26 6 == 0) (.vgth (bits e 8 5) (bits e 13 5) (bits e 18 5) (bits e 23 3)) by unfold decode32; rw [show fld e 0 8 = 217 from p0]; rfl]
  rw [f0, f1, f2, f3]
  exact orIllegal_of (by rw [p1]; rfl) hi

theorem RoundTrip.vsct (d : BitVec 5) (a : BitVec 5) (b : BitVec 5) (m : BitVec 3) : Statement (.vsct d a b m) := by
  obtain ⟨e, he, hw, ho, p0, p1, f0, f1, f2, f3⟩ := word20 (k := 219) d a b m (by decide)
  refine ofWord (w := e) (by rw [he]; rfl) hw ho (fun hi => ?_)
  rw [show decode32 e = orIllegal (fld e 26 6 == 0) (.vsct (bits e 8 5) (bits e 13 5) (bits e 18 5) (bits e 23 3)) by unfold decode32; rw [show fld e 0 8 = 219 from p0]; rfl]
  rw [f0, f1, f2, f3]
  exact orIllegal_of (by rw [p1]; rfl) hi

theorem RoundTrip.cMov (d : BitVec 4) (a : BitVec 4) : Statement (.cMov d a) := by
  obtain ⟨e, he, hw, ho, p0, p1, f0, f1⟩ := word39 (k := 2) d a (by decide)
  refine ofHalf (w := e) (by rw [he]; rfl) hw ho (fun hi => ?_)
  rw [show decode16 e = orIllegal (fld e 13 3 == 0) (.cMov (bits e 5 4) (bits e 9 4)) by unfold decode16; rw [show fld e 0 5 = 2 from p0]; rfl]
  rw [f0, f1]
  exact orIllegal_of (by rw [p1]; rfl) hi

theorem RoundTrip.cAdd (d : BitVec 4) (a : BitVec 4) : Statement (.cAdd d a) := by
  obtain ⟨e, he, hw, ho, p0, p1, f0, f1⟩ := word39 (k := 4) d a (by decide)
  refine ofHalf (w := e) (by rw [he]; rfl) hw ho (fun hi => ?_)
  rw [show decode16 e = orIllegal (fld e 13 3 == 0) (.cAdd (bits e 5 4) (bits e 9 4)) by unfold decode16; rw [show fld e 0 5 = 4 from p0]; rfl]
  rw [f0, f1]
  exact orIllegal_of (by rw [p1]; rfl) hi

theorem RoundTrip.cSub (d : BitVec 4) (a : BitVec 4) : Statement (.cSub d a) := by
  obtain ⟨e, he, hw, ho, p0, p1, f0, f1⟩ := word39 (k := 6) d a (by decide)
  refine ofHalf (w := e) (by rw [he]; rfl) hw ho (fun hi => ?_)
  rw [show decode16 e = orIllegal (fld e 13 3 == 0) (.cSub (bits e 5 4) (bits e 9 4)) by unfold decode16; rw [show fld e 0 5 = 6 from p0]; rfl]
  rw [f0, f1]
  exact orIllegal_of (by rw [p1]; rfl) hi

theorem RoundTrip.cAnd (d : BitVec 4) (a : BitVec 4) : Statement (.cAnd d a) := by
  obtain ⟨e, he, hw, ho, p0, p1, f0, f1⟩ := word39 (k := 8) d a (by decide)
  refine ofHalf (w := e) (by rw [he]; rfl) hw ho (fun hi => ?_)
  rw [show decode16 e = orIllegal (fld e 13 3 == 0) (.cAnd (bits e 5 4) (bits e 9 4)) by unfold decode16; rw [show fld e 0 5 = 8 from p0]; rfl]
  rw [f0, f1]
  exact orIllegal_of (by rw [p1]; rfl) hi

theorem RoundTrip.cAddi (d : BitVec 4) (i : BitVec 7) : Statement (.cAddi d i) := by
  obtain ⟨e, he, hw, ho, p0, f0, f1⟩ := word40 (k := 10) d i (by decide)
  refine ofHalf (w := e) (by rw [he]; rfl) hw ho (fun hi => ?_)
  rw [show decode16 e = orIllegal true (.cAddi (bits e 5 4) (bits e 9 7)) by unfold decode16; rw [show fld e 0 5 = 10 from p0]; rfl]
  rw [f0, f1]
  exact orIllegal_of rfl hi

theorem RoundTrip.cLi (d : BitVec 4) (i : BitVec 7) : Statement (.cLi d i) := by
  obtain ⟨e, he, hw, ho, p0, f0, f1⟩ := word40 (k := 12) d i (by decide)
  refine ofHalf (w := e) (by rw [he]; rfl) hw ho (fun hi => ?_)
  rw [show decode16 e = orIllegal true (.cLi (bits e 5 4) (bits e 9 7)) by unfold decode16; rw [show fld e 0 5 = 12 from p0]; rfl]
  rw [f0, f1]
  exact orIllegal_of rfl hi

theorem RoundTrip.cShli (d : BitVec 4) (s : BitVec 5) : Statement (.cShli d s) := by
  obtain ⟨e, he, hw, ho, p0, p1, f0, f1⟩ := word41 (k := 14) d s (by decide)
  refine ofHalf (w := e) (by rw [he]; rfl) hw ho (fun hi => ?_)
  rw [show decode16 e = orIllegal (fld e 14 2 == 0) (.cShli (bits e 5 4) (bits e 9 5)) by unfold decode16; rw [show fld e 0 5 = 14 from p0]; rfl]
  rw [f0, f1]
  exact orIllegal_of (by rw [p1]; rfl) hi

theorem RoundTrip.cLdw (d : BitVec 4) (u : BitVec 7) : Statement (.cLdw d u) := by
  obtain ⟨e, he, hw, ho, p0, f0, f1⟩ := word40 (k := 16) d u (by decide)
  refine ofHalf (w := e) (by rw [he]; rfl) hw ho (fun hi => ?_)
  rw [show decode16 e = orIllegal true (.cLdw (bits e 5 4) (bits e 9 7)) by unfold decode16; rw [show fld e 0 5 = 16 from p0]; rfl]
  rw [f0, f1]
  exact orIllegal_of rfl hi

theorem RoundTrip.cStw (d : BitVec 4) (u : BitVec 7) : Statement (.cStw d u) := by
  obtain ⟨e, he, hw, ho, p0, f0, f1⟩ := word40 (k := 18) d u (by decide)
  refine ofHalf (w := e) (by rw [he]; rfl) hw ho (fun hi => ?_)
  rw [show decode16 e = orIllegal true (.cStw (bits e 5 4) (bits e 9 7)) by unfold decode16; rw [show fld e 0 5 = 18 from p0]; rfl]
  rw [f0, f1]
  exact orIllegal_of rfl hi

theorem RoundTrip.cBz (a : BitVec 4) (o : BitVec 7) : Statement (.cBz a o) := by
  obtain ⟨e, he, hw, ho, p0, f0, f1⟩ := word40 (k := 20) a o (by decide)
  refine ofHalf (w := e) (by rw [he]; rfl) hw ho (fun hi => ?_)
  rw [show decode16 e = orIllegal true (.cBz (bits e 5 4) (bits e 9 7)) by unfold decode16; rw [show fld e 0 5 = 20 from p0]; rfl]
  rw [f0, f1]
  exact orIllegal_of rfl hi

theorem RoundTrip.cBnz (a : BitVec 4) (o : BitVec 7) : Statement (.cBnz a o) := by
  obtain ⟨e, he, hw, ho, p0, f0, f1⟩ := word40 (k := 22) a o (by decide)
  refine ofHalf (w := e) (by rw [he]; rfl) hw ho (fun hi => ?_)
  rw [show decode16 e = orIllegal true (.cBnz (bits e 5 4) (bits e 9 7)) by unfold decode16; rw [show fld e 0 5 = 22 from p0]; rfl]
  rw [f0, f1]
  exact orIllegal_of rfl hi

theorem RoundTrip.cJ (o : BitVec 11) : Statement (.cJ o) := by
  obtain ⟨e, he, hw, ho, p0, f0⟩ := word42 (k := 24) o (by decide)
  refine ofHalf (w := e) (by rw [he]; rfl) hw ho (fun hi => ?_)
  rw [show decode16 e = orIllegal true (.cJ (bits e 5 11)) by unfold decode16; rw [show fld e 0 5 = 24 from p0]; rfl]
  rw [f0]
  exact orIllegal_of rfl hi

theorem RoundTrip.cPause (n : BitVec 11) : Statement (.cPause n) := by
  obtain ⟨e, he, hw, ho, p0, f0⟩ := word42 (k := 30) n (by decide)
  refine ofHalf (w := e) (by rw [he]; rfl) hw ho (fun hi => ?_)
  rw [show decode16 e = orIllegal true (.cPause (bits e 5 11)) by unfold decode16; rw [show fld e 0 5 = 30 from p0]; rfl]
  rw [f0]
  exact orIllegal_of rfl hi

theorem RoundTrip.pad : Statement (.pad) := by
  refine ofWord (w := 51) rfl (by decide) (by decide) (fun hi => ?_)
  rw [show decode32 51 = orIllegal (fld 51 8 12 == 0 && fld 51 22 10 == 0) (.pad) by unfold decode32; rw [show fld 51 0 8 = 51 from rfl]; rfl]
  exact orIllegal_of rfl hi

theorem RoundTrip.align : Statement (.align) := by
  refine ofWord (w := 123) rfl (by decide) (by decide) (fun hi => ?_)
  rw [show decode32 123 = orIllegal (fld 123 8 12 == 0) (.align) by unfold decode32; rw [show fld 123 0 8 = 123 from rfl]; rfl]
  exact orIllegal_of rfl hi

theorem RoundTrip.hret : Statement (.hret) := by
  refine ofWord (w := 133) rfl (by decide) (by decide) (fun hi => ?_)
  rw [show decode32 133 = orIllegal (fld 133 8 24 == 0) (.hret) by unfold decode32; rw [show fld 133 0 8 = 133 from rfl]; rfl]
  exact orIllegal_of rfl hi

theorem RoundTrip.frabt : Statement (.frabt) := by
  refine ofWord (w := 201326731) rfl (by decide) (by decide) (fun hi => ?_)
  rw [show decode32 201326731 = decodeP45 201326731 by unfold decode32; rw [show fld 201326731 0 8 = 139 from rfl]; rfl]
  rw [show decodeP45 201326731 = orIllegal (fld 201326731 8 18 == 0) (.frabt) by unfold decodeP45; rw [show fld 201326731 26 6 = 3 from rfl]; rfl]
  exact orIllegal_of rfl hi

theorem RoundTrip.drdone : Statement (.drdone) := by
  refine ofWord (w := 171) rfl (by decide) (by decide) (fun hi => ?_)
  rw [show decode32 171 = orIllegal (fld 171 8 24 == 0) (.drdone) by unfold decode32; rw [show fld 171 0 8 = 171 from rfl]; rfl]
  exact orIllegal_of rfl hi

theorem RoundTrip.halt : Statement (.halt) := by
  refine ofWord (w := 201326817) rfl (by decide) (by decide) (fun hi => ?_)
  rw [show decode32 201326817 = decodeP70 201326817 by unfold decode32; rw [show fld 201326817 0 8 = 225 from rfl]; rfl]
  rw [show decodeP70 201326817 = orIllegal (fld 201326817 8 18 == 0) (.halt) by unfold decodeP70; rw [show fld 201326817 26 6 = 3 from rfl]; rfl]
  exact orIllegal_of rfl hi

theorem RoundTrip.bkpt : Statement (.bkpt) := by
  refine ofWord (w := 268435681) rfl (by decide) (by decide) (fun hi => ?_)
  rw [show decode32 268435681 = decodeP70 268435681 by unfold decode32; rw [show fld 268435681 0 8 = 225 from rfl]; rfl]
  rw [show decodeP70 268435681 = orIllegal (fld 268435681 8 18 == 0) (.bkpt) by unfold decodeP70; rw [show fld 268435681 26 6 = 4 from rfl]; rfl]
  exact orIllegal_of rfl hi

theorem RoundTrip.cHint : Statement (.cHint) := by
  refine ofHalf (w := 32) rfl (by decide) (by decide) (fun hi => ?_)
  rw [show decode16 32 = orIllegal (fld 32 5 11 != 0) (.cHint) by unfold decode16; rw [show fld 32 0 5 = 0 from rfl]; rfl]
  exact orIllegal_of rfl hi

theorem RoundTrip.cRet : Statement (.cRet) := by
  refine ofHalf (w := 26) rfl (by decide) (by decide) (fun hi => ?_)
  rw [show decode16 26 = orIllegal (fld 26 5 11 == 0) (.cRet) by unfold decode16; rw [show fld 26 0 5 = 26 from rfl]; rfl]
  exact orIllegal_of rfl hi

theorem RoundTrip.cHret : Statement (.cHret) := by
  refine ofHalf (w := 28) rfl (by decide) (by decide) (fun hi => ?_)
  rw [show decode16 28 = orIllegal (fld 28 5 11 == 0) (.cHret) by unfold decode16; rw [show fld 28 0 5 = 28 from rfl]; rfl]
  exact orIllegal_of rfl hi

theorem RoundTrip.xsdCtlWrite (x0 : Nat) (x1 : Word) : Statement (.xsdCtlWrite x0 x1) := ofNone rfl

theorem RoundTrip.dlLeftWrite (x0 : Nat) (x1 : Word) : Statement (.dlLeftWrite x0 x1) := ofNone rfl

theorem RoundTrip.shootdownAck (x0 : Nat) : Statement (.shootdownAck x0) := ofNone rfl

theorem RoundTrip.jqTailWrite (x0 : Word) : Statement (.jqTailWrite x0) := ofNone rfl

theorem RoundTrip.jqBaseWrite (x0 : Word) : Statement (.jqBaseWrite x0) := ofNone rfl

theorem RoundTrip.jqSizeWrite (x0 : Word) : Statement (.jqSizeWrite x0) := ofNone rfl

theorem RoundTrip.registerWrite (x0 : Nat) (x1 : Nat) (x2 : Nat) (x3 : Word) : Statement (.registerWrite x0 x1 x2 x3) := ofNone rfl

theorem RoundTrip.jobDescriptorTake : Statement (.jobDescriptorTake) := ofNone rfl

theorem RoundTrip.jobCompletion (x0 : Nat) : Statement (.jobCompletion x0) := ofNone rfl

theorem RoundTrip.launchAdmission (x0 : Nat) : Statement (.launchAdmission x0) := ofNone rfl

theorem RoundTrip.launchPlacement (x0 : Nat) (x1 : List (List Nat)) : Statement (.launchPlacement x0 x1) := ofNone rfl

theorem RoundTrip.messageDelivery (x0 : Nat) : Statement (.messageDelivery x0) := ofNone rfl

theorem RoundTrip.heldMessageAdmit (x0 : Nat) : Statement (.heldMessageAdmit x0) := ofNone rfl

theorem RoundTrip.messageDispatch (x0 : Nat) : Statement (.messageDispatch x0) := ofNone rfl

theorem RoundTrip.taskDispatch (x0 : Nat) : Statement (.taskDispatch x0) := ofNone rfl

theorem RoundTrip.stealRequest (x0 : Nat) (x1 : Nat) : Statement (.stealRequest x0 x1) := ofNone rfl

theorem RoundTrip.stealAnswer (x0 : Nat) : Statement (.stealAnswer x0) := ofNone rfl

theorem RoundTrip.packageSteal (x0 : Nat) (x1 : Nat) : Statement (.packageSteal x0 x1) := ofNone rfl

theorem RoundTrip.dequeRefill (x0 : Nat) : Statement (.dequeRefill x0) := ofNone rfl

theorem RoundTrip.tksigResponse (x0 : Nat) : Statement (.tksigResponse x0) := ofNone rfl

theorem RoundTrip.floorUpdate (x0 : Nat) : Statement (.floorUpdate x0) := ofNone rfl

theorem RoundTrip.floorExchange (x0 : Nat) (x1 : List PeerFloor) : Statement (.floorExchange x0 x1) := ofNone rfl

theorem RoundTrip.drainDispatch (x0 : Nat) : Statement (.drainDispatch x0) := ofNone rfl

theorem RoundTrip.tileTaskIssue (x0 : Nat) : Statement (.tileTaskIssue x0) := ofNone rfl

theorem RoundTrip.engineJobStart (x0 : Nat) : Statement (.engineJobStart x0) := ofNone rfl

theorem RoundTrip.engineJobComplete (x0 : Nat) : Statement (.engineJobComplete x0) := ofNone rfl

theorem RoundTrip.blkrdPartReturn (x0 : Nat) : Statement (.blkrdPartReturn x0) := ofNone rfl

theorem RoundTrip.osldComplete (x0 : Nat) : Statement (.osldComplete x0) := ofNone rfl

theorem RoundTrip.matrixPerform (x0 : Nat) : Statement (.matrixPerform x0) := ofNone rfl

theorem RoundTrip.accessPerformed (x0 : Nat) : Statement (.accessPerformed x0) := ofNone rfl

theorem RoundTrip.loadResponse (x0 : Nat) : Statement (.loadResponse x0) := ofNone rfl

theorem RoundTrip.storeAck (x0 : Nat) : Statement (.storeAck x0) := ofNone rfl

theorem RoundTrip.pageWalkComplete (x0 : Nat) (x1 : Nat) (x2 : Nat) : Statement (.pageWalkComplete x0 x1 x2) := ofNone rfl

theorem RoundTrip.closureRecompute : Statement (.closureRecompute) := ofNone rfl

theorem RoundTrip.commitMerge (x0 : Nat) (x1 : Home) : Statement (.commitMerge x0 x1) := ofNone rfl

theorem RoundTrip.lateFault (x0 : Nat) : Statement (.lateFault x0) := ofNone rfl

theorem RoundTrip.folioWrite (x0 : Nat) : Statement (.folioWrite x0) := ofNone rfl

theorem RoundTrip.pauseEnd (x0 : Nat) : Statement (.pauseEnd x0) := ofNone rfl

theorem RoundTrip.alignTimeout (x0 : Nat) : Statement (.alignTimeout x0) := ofNone rfl

theorem RoundTrip.idleSample (x0 : Nat) : Statement (.idleSample x0) := ofNone rfl

theorem RoundTrip.deadlineExpiry (x0 : Nat) : Statement (.deadlineExpiry x0) := ofNone rfl

theorem RoundTrip.cancelGraceExpiry (x0 : Nat) : Statement (.cancelGraceExpiry x0) := ofNone rfl

theorem RoundTrip.machineCheck (x0 : Nat) : Statement (.machineCheck x0) := ofNone rfl

theorem RoundTrip.tileMigration (x0 : Nat) (x1 : Nat) : Statement (.tileMigration x0 x1) := ofNone rfl

theorem RoundTrip.migrationMarker (x0 : Nat) (x1 : Nat) : Statement (.migrationMarker x0 x1) := ofNone rfl

theorem RoundTrip.forwardingRetire (x0 : Nat) : Statement (.forwardingRetire x0) := ofNone rfl

theorem RoundTrip.absentContext (x0 : Nat) : Statement (.absentContext x0) := ofNone rfl

theorem RoundTrip.launchReturn (x0 : Nat) (x1 : List (List Nat)) : Statement (.launchReturn x0 x1) := ofNone rfl

theorem RoundTrip.clearRoutine (x0 : Nat) : Statement (.clearRoutine x0) := ofNone rfl

theorem RoundTrip.capsuleInstall (x0 : List Byte) (x1 : List SlotValue) (x2 : Nat) : Statement (.capsuleInstall x0 x1 x2) := ofNone rfl

theorem RoundTrip.capsuleRetire (x0 : Word) : Statement (.capsuleRetire x0) := ofNone rfl

theorem RoundTrip.capsuleExport (x0 : Word) : Statement (.capsuleExport x0) := ofNone rfl

theorem RoundTrip.bodyVoid (x0 : Nat) (x1 : Nat) : Statement (.bodyVoid x0 x1) := ofNone rfl

theorem RoundTrip.rebuildComplete (x0 : Word) (x1 : Bool) : Statement (.rebuildComplete x0 x1) := ofNone rfl

theorem RoundTrip.livePatch (x0 : Nat) (x1 : Nat) (x2 : Word) : Statement (.livePatch x0 x1 x2) := ofNone rfl

theorem RoundTrip.sealedRegionRetire (x0 : Word) : Statement (.sealedRegionRetire x0) := ofNone rfl

theorem RoundTrip.auditLogConsume (x0 : Nat) (x1 : Nat) : Statement (.auditLogConsume x0 x1) := ofNone rfl

theorem RoundTrip.spdmReqLenWrite (x0 : Word) : Statement (.spdmReqLenWrite x0) := ofNone rfl

theorem RoundTrip.spdmRspLenWrite (x0 : Word) : Statement (.spdmRspLenWrite x0) := ofNone rfl

theorem RoundTrip.spdmGetVersion (x0 : SpdmPath) (x1 : List Byte) : Statement (.spdmGetVersion x0 x1) := ofNone rfl

theorem RoundTrip.spdmGetCapabilities (x0 : SpdmPath) (x1 : List Byte) : Statement (.spdmGetCapabilities x0 x1) := ofNone rfl

theorem RoundTrip.spdmNegotiateAlgorithms (x0 : SpdmPath) (x1 : List Byte) : Statement (.spdmNegotiateAlgorithms x0 x1) := ofNone rfl

theorem RoundTrip.spdmGetDigests (x0 : SpdmPath) (x1 : List Byte) : Statement (.spdmGetDigests x0 x1) := ofNone rfl

theorem RoundTrip.spdmGetCertificate (x0 : SpdmPath) (x1 : List Byte) : Statement (.spdmGetCertificate x0 x1) := ofNone rfl

theorem RoundTrip.spdmChallenge (x0 : SpdmPath) (x1 : List Byte) : Statement (.spdmChallenge x0 x1) := ofNone rfl

theorem RoundTrip.spdmGetMeasurements (x0 : SpdmPath) (x1 : List Byte) : Statement (.spdmGetMeasurements x0 x1) := ofNone rfl

theorem RoundTrip.spdmKeyExchange (x0 : SpdmPath) (x1 : List Byte) : Statement (.spdmKeyExchange x0 x1) := ofNone rfl

theorem RoundTrip.spdmFinish (x0 : SpdmPath) (x1 : List Byte) : Statement (.spdmFinish x0 x1) := ofNone rfl

theorem RoundTrip.spdmEndSession (x0 : SpdmPath) (x1 : List Byte) : Statement (.spdmEndSession x0 x1) := ofNone rfl

theorem RoundTrip.spdmUnsupportedRequest (x0 : SpdmPath) (x1 : List Byte) : Statement (.spdmUnsupportedRequest x0 x1) := ofNone rfl

theorem RoundTrip.ptReqTailWrite (x0 : Word) : Statement (.ptReqTailWrite x0) := ofNone rfl

theorem RoundTrip.ptRspHeadWrite (x0 : Word) : Statement (.ptRspHeadWrite x0) := ofNone rfl

theorem RoundTrip.ptRegisterRead : Statement (.ptRegisterRead) := ofNone rfl

theorem RoundTrip.ptRegisterWrite : Statement (.ptRegisterWrite) := ofNone rfl

theorem RoundTrip.ptMemoryWrite : Statement (.ptMemoryWrite) := ofNone rfl

theorem RoundTrip.ptMemoryRead : Statement (.ptMemoryRead) := ofNone rfl

theorem RoundTrip.ptRekey : Statement (.ptRekey) := ofNone rfl

theorem RoundTrip.rekeyAck (x0 : Channel) : Statement (.rekeyAck x0) := ofNone rfl

theorem RoundTrip.powerCapWrite (x0 : Word) : Statement (.powerCapWrite x0) := ofNone rfl

theorem RoundTrip.dormantRequest : Statement (.dormantRequest) := ofNone rfl

theorem RoundTrip.dormantForce : Statement (.dormantForce) := ofNone rfl

theorem RoundTrip.wake : Statement (.wake) := ofNone rfl

theorem RoundTrip.idleClockGate (x0 : Nat) : Statement (.idleClockGate x0) := ofNone rfl

theorem RoundTrip.thermalLimit (x0 : Nat) : Statement (.thermalLimit x0) := ofNone rfl

theorem RoundTrip.boot (x0 : List Nat) : Statement (.boot x0) := ofNone rfl

theorem RoundTrip.bootRetry : Statement (.bootRetry) := ofNone rfl

theorem RoundTrip.fabricFlitReceive (x0 : Flit) : Statement (.fabricFlitReceive x0) := ofNone rfl

theorem RoundTrip.linkRetrained (x0 : Nat) : Statement (.linkRetrained x0) := ofNone rfl

theorem RoundTrip.linkDown (x0 : Nat) : Statement (.linkDown x0) := ofNone rfl

theorem RoundTrip.monitorSample (x0 : Nat) (x1 : Nat) (x2 : Nat) : Statement (.monitorSample x0 x1 x2) := ofNone rfl

theorem RoundTrip.rrAttach (x0 : Word) : Statement (.rrAttach x0) := ofNone rfl

theorem RoundTrip.rrBreak (x0 : Nat) : Statement (.rrBreak x0) := ofNone rfl

theorem RoundTrip.rrDelete (x0 : Nat) : Statement (.rrDelete x0) := ofNone rfl

theorem RoundTrip.rrContinue : Statement (.rrContinue) := ofNone rfl

theorem RoundTrip.rrStop : Statement (.rrStop) := ofNone rfl

theorem RoundTrip.rrRegs (x0 : Nat) (x1 : Nat) : Statement (.rrRegs x0 x1) := ofNone rfl

theorem RoundTrip.rrMem (x0 : Nat) (x1 : Nat) : Statement (.rrMem x0 x1) := ofNone rfl

theorem RoundTrip.rrFolio (x0 : Nat) (x1 : Nat) : Statement (.rrFolio x0 x1) := ofNone rfl

theorem RoundTrip.rrRing (x0 : Nat) : Statement (.rrRing x0) := ofNone rfl

theorem RoundTrip.rrWl : Statement (.rrWl) := ofNone rfl

theorem RoundTrip.rrRegion : Statement (.rrRegion) := ofNone rfl

theorem RoundTrip.rrQuit : Statement (.rrQuit) := ofNone rfl

theorem RoundTrip.rrDisconnect : Statement (.rrDisconnect) := ofNone rfl

theorem RoundTrip.instructionLineFill (x0 : Nat) (x1 : Nat) (x2 : Bool) : Statement (.instructionLineFill x0 x1 x2) := ofNone rfl

theorem RoundTrip.bodyVoidLive (x0 : Nat) : Statement (.bodyVoidLive x0) := ofNone rfl

theorem RoundTrip.packageStealAnswer (x0 : Nat) (x1 : Nat) (x2 : List TaskRec) : Statement (.packageStealAnswer x0 x1 x2) := ofNone rfl

end Laws

end Sys2Proof
end

