-- ==== Sys2Proof/Tests/Slice0.lean ====
section
/-!
SUPPORT. Sys2Proof/Tests/Slice0.lean: ill-formed terms that WellFormed refuses; words written out from the spec's encodings and what they
decode to; one step on small states, its result taken from the spec's rules; and, for the statements with hypotheses, states and operands that
meet them.
-/

namespace Sys2Proof

open Machine

set_option Elab.async false

/-! ## Ill-formed terms (R81, R140, R260) -/

theorem test_illformed_fence_kind : (Instr.fence 3 0).wellFormed = false := by decide
theorem test_illformed_fence_scope : (Instr.fence 0 5).wellFormed = false := by decide
theorem test_illformed_vcvt : (Instr.vcvt 1 0 0 15).wellFormed = false := by decide
theorem test_illformed_srd : (Instr.srd 9 4).wellFormed = false := by decide
theorem test_illformed_swr : (Instr.swr 9 0x008).wellFormed = false := by decide

/-! ## Words of the spec's own examples and tables -/

/-- R278, R279, R313, R329, R305, R315: the words of their examples. -/
theorem test_decode_registers :
    decodeTableWord 32 0x00B28903 = some (.add 9 10 11) ∧ decodeTableWord 32 0x5CB28903 = some (.sel 9 10 11) ∧
    decodeTableWord 32 0x60028903 = some (.clz 9 10) ∧ decodeTableWord 32 0xFFF24905 = some (.addi 9 9 0xFFF) ∧
    decodeTableWord 32 0x40030C09 = some (.ori 12 12 1024) ∧ decodeTableWord 32 0x03E00C17 = some (.li 12 3968) ∧
    decodeTableWord 32 0x00000C19 = some (.lis 12 0) ∧ decodeTableWord 32 0x1404001B = some (.lox 0 16) := by decide

/-- R285, R307, R332, R314, R289: branches, jumps and outcomes. -/
theorem test_decode_control :
    decodeTableWord 32 0x00828921 = some (.beq 9 10 8) ∧ decodeTableWord 32 0x00024031 = some (.jr 9) ∧
    decodeTableWord 32 0x04024031 = some (.jlr 9) ∧ decodeTableWord 32 0x08004031 = some (.ret 1) ∧
    decodeTableWord 32 0xFFA00935 = some (.loop 9 0xFFA) ∧ decodeTableWord 32 0x00400039 = some (.boqb 0 4) ∧
    decodeTableWord 32 0x00400139 = some (.boqb 1 4) ∧ decodeTableWord 32 0x00024037 = some (.boqw 9) ∧
    decodeTableWord 32 0x0002093B = some (.ctxres 9 8 0) ∧ decodeTableWord 32 0x00F0007B = some .align := by decide

/-- R298, R312, R337, R311, R81, R59, R281, R283: floats, loads, stores, fences and atomics. -/
theorem test_decode_memory :
    decodeTableWord 32 0x01140A3D = some (.fadd 10 16 17) ∧ decodeTableWord 32 0x00128941 = some (.ldb 9 10 1) ∧
    decodeTableWord 32 0x10030D55 = some (.std 13 12 256) ∧ decodeTableWord 32 0x0C028957 = some (.lda 9 10 3) ∧
    decodeTableWord 32 0x0100005B = some (.fence 0 4) ∧ decodeTableWord 32 0x00E0005B = some (.fence 2 3) ∧
    decodeTableWord 32 0x0002895F = some (.catl 9 10) ∧ decodeTableWord 32 0x0402805D = some (.iflush 10 64) ∧
    decodeTableWord 32 0x04B28961 = some (.amoadd 9 10 11 1) ∧ decodeTableWord 32 0x10B28961 = some (.amoor 9 10 11 0) ∧
    decodeTableWord 32 0x48B28961 = some (.amofadd 9 10 11) ∧ decodeTableWord 32 0x04B28963 = some (.amocas 9 10 11 1) := by decide

/-- R356, R326, R333, R328, R88, R334, R358, R341, R316, R294: waits, messages, tasks and levels. -/
theorem test_decode_work :
    decodeTableWord 32 0x00FF0F71 = some (.wait 15 0 15 15 0) ∧ decodeTableWord 32 0x00400073 = some (.pause 4) ∧
    decodeTableWord 32 0x00034075 = some (.semup 0 13) ∧ decodeTableWord 32 0x00A24079 = some (.qput 9 10) ∧
    decodeTableWord 32 0x00B28977 = some (.barw 9 10 11) ∧ decodeTableWord 32 0x00A24081 = some (.send 9 10) ∧
    decodeTableWord 32 0x00224A83 = some (.sendv 10 9 2) ∧ decodeTableWord 32 0x0003C087 = some (.wlpush 15) ∧
    decodeTableWord 32 0x08000987 = some (.wlfloor 9) ∧ decodeTableWord 32 0x00030E89 = some (.tkarm 14 12) ∧
    decodeTableWord 32 0x0002898D = some (.lvcnt 9 10 0) ∧ decodeTableWord 32 0x04024A8D = some (.cncl 10 9 0) ∧
    decodeTableWord 32 0x00000085 = some .hret := by decide

/-- R308, R327, R344, R287, R322, R323, R145, R296: engines, operand slots and the matrix engine. -/
theorem test_decode_engines :
    decodeTableWord 32 0x00B28991 = some (.job 9 10 11) ∧ decodeTableWord 32 0x00B28993 = some (.qbind 9 10 11) ∧
    decodeTableWord 32 0x00028997 = some (.ttq 9 10) ∧ decodeTableWord 32 0x00B28095 = some (.blkrd 10 11) ∧
    decodeTableWord 32 0x00034EA1 = some (.osclaim 14 13) ∧ decodeTableWord 32 0x040380A1 = some (.osrel 14) ∧
    decodeTableWord 32 0x090380A1 = some (.osld 14 16) ∧ decodeTableWord 32 0x00B280A5 = some (.mmaF 10 11) ∧
    decodeTableWord 32 0x000000AB = some .drdone := by decide

/-- R202, R204, R331, R343, R339, R286, R301, R260 and the others on 0x70: walks, digests, system. -/
theorem test_decode_system :
    decodeTableWord 32 0x00B289B1 = some (.walk 9 10 11) ∧ decodeTableWord 32 0x04B289B1 = some (.walkn 9 10 11) ∧
    decodeTableWord 32 0x00B289B3 = some (.pdrst 9 10 11) ∧ decodeTableWord 32 0x040289B3 = some (.pdseal 9 10) ∧
    decodeTableWord 32 0x080289B3 = some (.pdrd 9 10) ∧ decodeTableWord 32 0x00A247B5 = some (.refget 7 9 10) ∧
    decodeTableWord 32 0x04B289B5 = some (.refchk 9 10 11) ∧ decodeTableWord 32 0x000140E1 = some (.trap 5) ∧
    decodeTableWord 32 0x100000E1 = some .bkpt ∧ decodeTableWord 32 0x04C34EE1 = some (.svc 14 13 12) ∧
    decodeTableWord 32 0x08B289E1 = some (.eret 9 10 11) ∧ decodeTableWord 32 0x0C0000E1 = some .halt ∧
    decodeTableWord 32 0x14B289E1 = some (.cirrd 9 10 11) ∧ decodeTableWord 32 0x18B289E1 = some (.zerosp 9 10 11) ∧
    decodeTableWord 32 0x1C0009E1 = some (.sigchk 9) ∧ decodeTableWord 32 0x200289E1 = some (.capreb 9 10) ∧
    decodeTableWord 32 0x24B289E1 = some (.seal 9 10 11) ∧ decodeTableWord 32 0x28B289E1 = some (.monrd 9 10 11) ∧
    decodeTableWord 32 0x008009E3 = some (.srd 9 8) ∧ decodeTableWord 32 0x010240E5 = some (.swr 9 0x010) := by decide

/-- R346 to R355, R317, R140, R141, R319 to R321: vectors, masks and vector memory. -/
theorem test_decode_vectors :
    decodeTableWord 32 0x000402C1 = some (.vfadd 2 0 1 0) ∧ decodeTableWord 32 0x0C0823C1 = some (.vfma 3 1 2 0) ∧
    decodeTableWord 32 0x000402C3 = some (.vadd 2 0 1 0) ∧ decodeTableWord 32 0x4C0801C3 = some (.vcmpLtu 1 0 2 0) ∧
    decodeTableWord 32 0x240001C5 = some (.vcvt 1 0 0 9) ∧ decodeTableWord 32 0x000001C7 = some (.vpk6 1 0) ∧
    decodeTableWord 32 0x000049C9 = some (.vredfadd 9 2 0) ∧ decodeTableWord 32 0x000823CB = some (.vperm 3 1 2 0) ∧
    decodeTableWord 32 0x108004CB = some (.viota 4 1) ∧ decodeTableWord 32 0x000C41CD = some (.mand 1 2 3 0) ∧
    decodeTableWord 32 0x102921CD = some (.mset 1 9 10) ∧ decodeTableWord 32 0x000060D1 = some (.vld 0 3 0 0 0) ∧
    decodeTableWord 32 0x040142D3 = some (.vst 2 10 0 1 0) ∧ decodeTableWord 32 0x002923D5 = some (.vlds 3 9 10 0) ∧
    decodeTableWord 32 0x001123D9 = some (.vgth 3 9 4 0) ∧ decodeTableWord 32 0x00858265 = some (.vamoor 2 12 1 1) := by decide

/-- R245, R253: what the tables do not give is refused by the decoder. -/
theorem test_decode_refuses :
    decodeTableWord 32 0x80000003 = none ∧ decodeTableWord 32 0x60128903 = none ∧ decodeTableWord 32 0x00000001 = none ∧
    decodeTableWord 32 0xF00000E1 = none ∧ decodeTableWord 32 0x0140005B = none := by decide

/-! ## One step -/

/-- Reset with an instruction word where the next step fetches, and its context as a function makes it. -/
def startAt (w : Nat) (f : Ctx → Ctx) : State :=
  let s := State.reset.withFetchWord 32 w
  s.setCtx s.cur (f s.me)

/-- The state that a step gives. -/
def went (o : Out) : State := match o with | .next t => t | .fault _ => {} | .refused _ => {}

/-- wa and wb of the tests are w10 and w11, wd is w9. -/
def scalars (x y : Word) (c : Ctx) : Ctx := (c.setW 10 x).setW 11 y

/-- The context after one step of an instruction. -/
def ranTo (i : Instr) (f : Ctx → Ctx) : Ctx := (went (step (startAt (match encode i with | some (_, w) => w | none => 0) f))).me

def gives9 (i : Instr) (x y : Word) : Word := (ranTo i (scalars x y)).getW 9

/-- R278: wrap-around, the low six bits of a shift count, the corner cases of the divisions. -/
theorem test_step_add_wraps : gives9 (.add 9 10 11) 0xFFFFFFFFFFFFFFFF 2 = 1 := by decide +kernel
theorem test_step_sub_mulh : gives9 (.sub 9 10 11) 1 2 = 0xFFFFFFFFFFFFFFFF ∧
    gives9 (.mulh 9 10 11) 0xFFFFFFFFFFFFFFFF 2 = 0xFFFFFFFFFFFFFFFF ∧ gives9 (.mulhu 9 10 11) 0xFFFFFFFFFFFFFFFF 2 = 1 := by
  decide +kernel
theorem test_step_shifts : gives9 (.shl 9 10 11) 1 65 = 2 ∧ gives9 (.shr 9 10 11) 0x8000000000000000 63 = 1 ∧
    gives9 (.sha 9 10 11) 0x8000000000000000 63 = 0xFFFFFFFFFFFFFFFF := by decide +kernel
theorem test_step_divisions : gives9 (.div 9 10 11) 7 0 = 0xFFFFFFFFFFFFFFFF ∧ gives9 (.rem 9 10 11) 7 0 = 7 ∧
    gives9 (.div 9 10 11) 0x8000000000000000 0xFFFFFFFFFFFFFFFF = 0x8000000000000000 ∧
    gives9 (.rem 9 10 11) (-7) 2 = 0xFFFFFFFFFFFFFFFF ∧ gives9 (.divu 9 10 11) 7 0 = 0xFFFFFFFFFFFFFFFF := by decide +kernel
theorem test_step_compares : gives9 (.slt 9 10 11) (-1) 0 = 1 ∧ gives9 (.sltu 9 10 11) (-1) 0 = 0 ∧ gives9 (.min 9 10 11) (-1) 0 = -1 ∧
    gives9 (.maxu 9 10 11) (-1) 0 = -1 ∧ gives9 (.clz 9 10) 0 0 = 64 ∧ gives9 (.clz 9 10) 1 0 = 63 ∧
    gives9 (.extsB 9 10) 0x80 0 = 0xFFFFFFFFFFFFFF80 := by decide +kernel

/-- R279, R313: immediates are sign-extended; LIS shifts 18 bits in. -/
theorem test_step_immediates : gives9 (.addi 9 10 0xFFF) 0 0 = -1 ∧ gives9 (.sltiu 9 10 0xFFF) 5 0 = 1 ∧ gives9 (.li 9 0x20000) 0 0 = -131072 ∧
    (ranTo (.lis 10 1) (scalars 1 0)).getW 10 = 0x40001 := by decide +kernel

/-- R259, R255: w0 reads zero whatever is written; a 16-bit form moves on by 2. -/
theorem test_step_w0 : (ranTo (.li 0 5) id).getW 0 = 0 ∧ (ranTo (.cLi 9 0x7F) id).getW 9 = -1 ∧
    (ranTo (.cLi 9 1) id).pc = BitVec.ofNat 64 (fetchVa + 2) := by decide +kernel

/-- R285, R306, R314: taken and untaken branches. -/
theorem test_step_branches : (ranTo (.beq 10 11 8) (scalars 3 3)).pc = BitVec.ofNat 64 (fetchVa + 16) ∧
    (ranTo (.beq 10 11 8) (scalars 3 4)).pc = BitVec.ofNat 64 (fetchVa + 4) ∧
    (ranTo (.blt 10 11 8) (scalars (-1) 0)).pc = BitVec.ofNat 64 (fetchVa + 16) ∧
    (ranTo (.loop 10 4) (scalars 1 0)).pc = BitVec.ofNat 64 (fetchVa + 4) ∧
    (ranTo (.loop 10 4) (scalars 2 0)).pc = BitVec.ofNat 64 (fetchVa + 8) ∧
    (ranTo (.jl 4) id).getW 1 = BitVec.ofNat 64 (fetchVa + 4) := by decide +kernel

/-- R307: an odd target traps with MISALIGN; one that holds no PAD traps with PAD_MISS, subcode 1 for JR. -/
theorem test_step_jr : ((ranTo (.jr 10) (scalars 5 0)).stop.map (fun t => (t.cause, t.faultAddr))) = some (6, 5) ∧
    ((ranTo (.jr 10) (scalars (BitVec.ofNat 64 fetchVa) 0)).stop.map (fun t => (t.cause, t.subcode))) = some (3, 1) := by decide +kernel

/-- The table after R321 with blocks 0 to 2 held: ix0 = 7 and 16 reads w23, 8 and 16 traps, -1 and 16 traps, 20 and -5 reads w15. -/
theorem test_step_movx :
    let at0 := fun (x : Word) (c : Ctx) => ((({ c with sblk := 7 }).setW 23 42).setW 15 43).putIx 0 x
    (ranTo (.movx 9 0 16) (at0 7)).getW 9 = 42 ∧ (ranTo (.movx 9 0 0xFFB) (at0 20)).getW 9 = 43 ∧
    ((ranTo (.movx 9 0 16) (at0 8)).stop.map (·.cause)) = some 4 ∧ ((ranTo (.movx 9 0 16) (at0 (-1))).stop.map (·.cause)) = some 4 := by
  decide +kernel

/-- The text after R299: FMUL rounds the tie to even, FADD then gives +0, FFMA gives 2^-24; FCVTSW of 2^24 + 1. -/
theorem test_step_float_roundings : gives9 (.fmul 9 10 11) 0x3F800800 0x3F800800 = 0x3F801000 ∧
    gives9 (.fadd 9 10 11) 0x3F801000 0xBF801000 = 0 ∧
    (ranTo (.ffma 9 10 11) (fun c => (scalars 0x3F800800 0x3F800800 c).setW 9 0xBF801000)).getW 9 = 0x33800000 ∧
    gives9 (.fcvtsw 9 10) 0x1000001 0 = 0x4B800000 := by decide +kernel

/-- R299, R136: a NaN gives 0 of FCVTWS, which clamps; -0 equals +0. -/
theorem test_step_float_special : gives9 (.fcvtws 9 10) 0x7FC00000 0 = 0 ∧ gives9 (.fcvtws 9 10) 0xCF800000 0 = 0xFFFFFFFF80000000 ∧
    gives9 (.feq 9 10 11) 0x80000000 0 = 1 ∧ gives9 (.fmin 9 10 11) 0 0x80000000 = 0x80000000 := by decide +kernel

/-- R312, R337: a misaligned load traps with its address; a store raises st and puts one access on its way. -/
theorem test_step_load_misaligned : ((ranTo (.ldw 9 10 0) (scalars 0x80000000000002 0)).stop.map (fun t => (t.cause, t.faultAddr))) =
    some (6, 0x80000000000002) := by decide +kernel
theorem test_step_store : (ranTo (.std 11 10 8) (scalars 0x80000000000000 7)).st = 1 ∧
    ((went (step (startAt 0x00828B55 (scalars 0x80000000000000 7)))).txns.map (fun t => (t.n, t.key))) = [(8, scratchKey 0 8)] := by decide +kernel

/-- R356: WAIT waits while its counter is above the field. -/
theorem test_step_wait : (ranTo (.wait 15 0 15 15 0) (fun c => { c with st := 1 })).state = .stalled ∧
    (ranTo (.wait 15 1 15 15 0) (fun c => { c with st := 1 })).pc = BitVec.ofNat 64 (fetchVa + 4) := by decide +kernel

/-- R343, R286, R339, R261: TRAP and BKPT resume after themselves, SVC at itself; a steward's instruction traps with PRIV at level H. -/
theorem test_step_traps :
    ((ranTo (.trap 5) id).stop.map (fun t => (t.cause, t.subcode, t.resumePc))) = some (0x11, 5, BitVec.ofNat 64 (fetchVa + 4)) ∧
    ((ranTo .bkpt id).stop.map (fun t => (t.cause, t.resumePc))) = some (0x12, BitVec.ofNat 64 (fetchVa + 4)) ∧
    ((ranTo (.svc 9 10 11) (scalars 3 0)).stop.map (fun t => (t.cause, t.subcode, t.resumePc))) = some (0x10, 3, BitVec.ofNat 64 fetchVa) ∧
    ((ranTo .halt id).stop.map (·.cause)) = some 0x19 := by decide +kernel

/-- R245, R329: a register of a block not held traps with the lowest such register; a word of no instruction with ILLEGAL. -/
theorem test_step_decoder_traps : ((ranTo (.add 9 17 40) id).stop.map (fun t => (t.cause, t.subcode))) = some (5, 17) ∧
    ((went (step (startAt 0x80000003 id))).me.stop.map (·.cause)) = some 1 := by decide +kernel

/-- R302: HRET puts the context to rest with blocks 0 and 1. -/
theorem test_step_hret : (ranTo .hret (fun c => { c with sblk := 255 })).state = .dormant ∧
    (ranTo .hret (fun c => { c with sblk := 255 })).sblk = 3 := by decide +kernel

/-- The case after R355: the tree of VREDFADD gives 0x4B800001; MSET then MCNT as after R317. -/
theorem test_step_reduction :
    (ranTo (.vredfadd 9 2 0) (fun c => { c with vblk := 15, v := [(2, [(0, 0x4B800000), (2, 0x3F800000), (3, 0x3F800000)])] })).getW 9 =
      0x4B800001 := by decide +kernel
theorem test_step_masks : (ranTo (.mset 1 10 11) (scalars 0xFF 0)).getM 1 = 0xFF ∧
    (ranTo (.mcnt 9 1 0) (fun c => { c with m := [(1, 0xFF)] })).getW 9 = 8 ∧ (ranTo (.mcnt 9 0 0) id).getW 9 = 128 := by decide +kernel

/-- R346, R349: saturating and plain sums of a lane, an inactive lane kept. -/
theorem test_step_lanes :
    let two := fun (c : Ctx) =>
      ({ c with vblk := 15, m := [(1, 1)], v := [(0, [(0, 0x7FFFFFFF), (1, 5)]), (1, [(0, 1), (1, 6)]), (2, [(1, 9)])] } : Ctx)
    ((ranTo (.vadds 2 0 1 1) two).getV 2).lane 0 = 0x7FFFFFFF ∧ ((ranTo (.vadd 2 0 1 1) two).getV 2).lane 0 = 0x80000000 ∧
      ((ranTo (.vadd 2 0 1 1) two).getV 2).lane 1 = 9 := by decide +kernel

/-- R141: the residues of -8,160 as the manual works them out; R148, R149: a chain in F32 that gains 0, and a sum of -8,160. -/
theorem test_residues : resFwd (BitVec.ofInt 32 (-8160)) = 0x7BBD0020 ∧ (resRev 0x7BBD0020).toInt = -8160 := by decide +kernel
theorem test_lane_chain :
    lanePass .f 1 1 (fun i => nth 0 [0x4B80, 0x3F80, 0xCB80] i) (fun i => nth 0 [0x3F80, 0x3F80, 0x3F80] i) 3 0 = 0 ∧
    lanePass .i 6 6 (fun i => nth 0 [0x9C, 7] i) (fun i => nth 0 [90, 120] i) 2 0 = BitVec.ofInt 48 (-8160) := by decide +kernel

/-- R140: a value past the largest F16 saturates; R281: an atomic of 4 bytes wraps, AMOMIN compares signed. -/
theorem test_conversions : convert 1 0x7F000000 = 0x7BFF ∧ convert 4 0x40200000 = 2 ∧ convert 5 0x40200000 = 2 ∧ convert 5 0x40600000 = 4 := by
  decide +kernel
theorem test_atomics : amoNew .add 4 0xFFFFFFFF 2 = some 1 ∧ amoNew .min 4 0x80000000 1 = some 0x80000000 ∧
    amoNew (.cas 5) 8 5 9 = some 9 ∧ amoNew (.cas 5) 8 6 9 = none := by decide +kernel

/-- R120: a store and a load of the canonical memory. -/
theorem test_memory : Memory.wf ((({} : State).writeList 0 64 false [1, 0, 2]).mem) = true ∧
    (({} : State).writeList 0 64 false [1, 0, 2]).readBytes 0 64 4 = [1, 0, 2, 0] := by decide +kernel

/-! ## States that meet the hypotheses of the statements

Each theorem wit_<Name> is about Obligations.<Name>: it shows, for each of its cases, a state and operands in that case. -/

/-- A context of the A-core of tile 0 that holds every block. -/
def rich (f : Ctx → Ctx) : State :=
  let e : TlbEntry := { root := 0x20000, page := fetchVa / 65536, pte := 0x10109, size := 1, launch := 1 }
  { cur := ctxKey 0 2 0, launches := [(1, fetchLaunch)], tiles := [(0, { launch := some 1, inService := true })],
    ctxs := [(ctxKey 0 2 0, f { fetchContext with sblk := 255, vblk := 15 })], cores := [(agentKey 0 2, { utlb := [e] })] }

/-- The same on another core of tile 0. -/
def richOn (role : Nat) (f : Ctx → Ctx) : State :=
  { rich id with cur := ctxKey 0 role 0, ctxs := [(ctxKey 0 role 0, f (rich id).me)] }

theorem settled_of {s : State} (h : s.me.region = none) : Settled s := by
  intro r hr; rw [h] at hr; cases hr

/-- The decidable part of Sends, for accesses of memory that is no pool. -/
def sendsB (s : State) (a : Access) (va : Word) (n align : Nat) (ld st : Bool) : Bool :=
  !s.gated st && decide (va.toNat % align = 0) && match s.locate s.cur a va n with
    | .ok (ps, u) => !u.scopeBreach ps && !ps.any (fun p => isPool p.home) && !u.msgHeld (ps.map (·.home)) && !u.full ld st
    | .error _ => false

theorem sends_of {s : State} {a : Access} {va : Word} {n align : Nat} {ld st : Bool} (h : sendsB s a va n align ld st = true) :
    ∃ ps u, Sends s a va n align ld st ps u := by
  unfold sendsB at h
  split at h
  · rename_i ps u he
    simp only [Bool.and_eq_true, Bool.not_eq_true', decide_eq_true_eq] at h
    exact ⟨ps, u, h.1.1, h.1.2, he, h.2.1.1.1, fun hp => by rw [hp] at h; simp at h, h.2.1.2, h.2.2⟩
  · simp at h

theorem wit_RegisterGroupResults :
    Ready (rich id) { reads := [10, 11], writes := [9] } ∧ Ready (rich id) { reads := [0, 63], writes := [0] } ∧
    Ready (rich id) { reads := [63, 0, 63], writes := [63] } ∧ Ready (rich id) { reads := [10], writes := [9] } ∧
    (rich id).reg (10 : BitVec 6) = 0 ∧ (rich (scalars 1 0)).reg (10 : BitVec 6) ≠ 0 ∧ Ready (rich (scalars 1 0)) { reads := [10, 11, 9], writes := [9] } := by
  unfold Ready; decide +kernel

theorem wit_ImmediateGroupResults :
    Ready (rich id) { reads := [63], writes := [63] } ∧ Ready (rich id) { reads := [0], writes := [0] } ∧
    Ready (rich id) { writes := [0] } ∧ Ready (rich id) { writes := [63] } := by unfold Ready; decide +kernel

theorem wit_CompressedArithmetic :
    Ready (rich id) { reads := [15, 0], writes := [0] } ∧ Ready (rich id) { reads := [0, 15], writes := [15] } ∧
    Ready (rich id) {} ∧ ¬ Ready (rich (fun c => { c with wbad := [(10, true)] })) { reads := [10, 0], writes := [9] } := by
  unfold Ready; decide +kernel

/-- An instruction gives a next state. -/
def isNext (o : Out) : Bool := match o with | .next _ => true | .fault _ => false | .refused _ => false

theorem next_of {o : Out} (h : isNext o = true) : ∃ t, o = .next t := by
  cases o with
  | next t => exact ⟨t, rfl⟩
  | fault _ => simp [isNext] at h
  | refused _ => simp [isNext] at h

theorem wit_IntegerFrame :
    (∃ t, exec (.add 63 0 10) (rich id) = .next t) ∧ (∃ t, exec (.lis 0 1) (rich id) = .next t) ∧
    (∃ t, exec (.cAddi 15 1) (rich id) = .next t) ∧ ∃ t, exec .cHint (rich id) = .next t :=
  ⟨next_of (by decide +kernel), next_of (by decide +kernel), next_of (by decide +kernel), next_of (by decide +kernel)⟩

theorem wit_HardWiredRegisters : (1 : Nat) ≠ 0 ∧ (63 : Nat) ≠ 0 ∧ (0 : Nat) ≠ 63 ∧ (1 : Nat) ≠ 63 := by decide

theorem wit_DecoderChecks :
    ((rich id).level (rich id).cur).rank < Level.s.rank ∧
    unitPresent .vector (unitOf (richOn 0 id).cur) (roleOf (richOn 0 id).cur) = false ∧
    unitPresent .reader (unitOf (rich id).cur) (roleOf (rich id).cur) = false ∧
    (startAt 0 id).me.unheld { reads := [15, 16], writes := [63] } = some 16 ∧
    (startAt 0 id).me.unheld { unit := .vector, vreads := [31, 0], vwrites := [7] } = some 64 ∧
    ((rich (fun c => { c with level := .s })).level (rich (fun c => { c with level := .s })).cur).rank = Level.s.rank ∧
    Level.s.rank < Level.v.rank ∧ ((rich (fun c => { c with level := .v })).level (rich id).cur).rank = Level.v.rank ∧
    (∀ u ∈ [UnitNeed.walk, .conversion], (∃ r < 3, unitPresent u 0 r = false) ∧ ∃ r < 3, unitPresent u 0 r = true) := by decide +kernel

theorem wit_BranchAndDirectJumpResults :
    Ready (rich (scalars 1 1)) { reads := [10, 11] } ∧ (rich (scalars 1 1)).reg (10 : BitVec 6) = (rich (scalars 1 1)).reg (11 : BitVec 6) ∧
    Ready (rich (scalars (-1) 1)) { reads := [10, 11] } ∧ (rich (scalars (-1) 1)).reg (10 : BitVec 6) ≠ (rich (scalars (-1) 1)).reg (11 : BitVec 6) ∧
    ((rich (scalars (-1) 1)).reg (10 : BitVec 6)).toInt < ((rich (scalars (-1) 1)).reg (11 : BitVec 6)).toInt ∧
    ((rich (scalars (-1) 1)).reg (11 : BitVec 6)).toNat ≤ ((rich (scalars (-1) 1)).reg (10 : BitVec 6)).toNat ∧
    Ready (rich id) { reads := [15, 0] } ∧ Ready (rich id) {} ∧ Ready (rich id) { writes := [1] } ∧
    Ready (rich (scalars 2 1)) { reads := [10], writes := [10] } ∧ 0 < ((rich (scalars 2 1)).reg (10 : BitVec 6) - 1).toInt ∧
    ((rich (scalars 2 1)).reg (11 : BitVec 6) - 1).toInt ≤ 0 := by unfold Ready; decide +kernel

/-- The result of a fetch. -/
def fetched (r : Except MemFault (List Byte) × State) : Option (List Byte) := match r.1 with | .ok bs => some bs | .error _ => none

theorem fetched_some {r : Except MemFault (List Byte) × State} {bs : List Byte} (h : fetched r = some bs) :
    ∃ u, r = (.ok bs, u) := by
  obtain ⟨e, u⟩ := r
  cases e with
  | error _ => simp [fetched] at h
  | ok x => simp [fetched] at h; exact ⟨u, by rw [h]⟩

theorem fetched_none {r : Except MemFault (List Byte) × State} (h : fetched r = none) : ∃ f u, r = (.error f, u) := by
  obtain ⟨e, u⟩ := r
  cases e with
  | error f => exact ⟨f, u, rfl⟩
  | ok x => simp [fetched] at h

/-- w10 holds the address of a PAD of JR's kind, of JLR's, of RET's. -/
def padded (kind : Nat) : State := startAt (0x33 + kind * 2 ^ 20) (fun c => c.setW 10 (BitVec.ofNat 64 fetchVa))

theorem wit_IndirectJumpResults :
    (Ready (startAt 0 (scalars 5 0)) { reads := [10], writes := [1] } ∧ ((startAt 0 (scalars 5 0)).me.getW 10).toNat % 2 = 1) ∧
    (Ready (padded 1) { reads := [10] } ∧ ((padded 1).me.getW 10).toNat % 2 = 0 ∧
      ∃ bs u, (padded 1).fetchBytes (padded 1).cur ((padded 1).me.getW 10) = (.ok bs, u) ∧ bytesNat bs = 0x33 + 1 * 2 ^ 20) ∧
    (∃ bs u, (padded 0).fetchBytes (padded 0).cur ((padded 0).me.getW 10) = (.ok bs, u) ∧ bytesNat bs = 0x33 + 0 * 2 ^ 20) ∧
    (∃ bs u, (padded 3).fetchBytes (padded 3).cur ((padded 3).me.getW 10) = (.ok bs, u) ∧ bytesNat bs ≠ 0x33 + 2 * 2 ^ 20) ∧
    ∃ f u, (startAt 0 (scalars 2 0)).fetchBytes (startAt 0 id).cur ((startAt 0 (scalars 2 0)).me.getW 10) = (.error f, u) := by
  have e := fun (n : Nat) (bs : List Byte) (h : fetched ((padded n).fetchBytes (padded n).cur ((padded n).me.getW 10)) = some bs) =>
    fetched_some h
  refine ⟨by unfold Ready; decide +kernel, ⟨by unfold Ready; decide +kernel, by decide +kernel, ?_⟩, ?_, ?_, fetched_none (by decide +kernel)⟩
  · obtain ⟨u, h⟩ := e 1 [0x33, 0, 0x10, 0] (by decide +kernel); exact ⟨_, u, h, by decide⟩
  · obtain ⟨u, h⟩ := e 0 [0x33, 0, 0, 0] (by decide +kernel); exact ⟨_, u, h, by decide⟩
  · obtain ⟨u, h⟩ := e 3 [0x33, 0, 0x30, 0] (by decide +kernel); exact ⟨_, u, h, by decide⟩

/-- The tile of the current context as a function makes it. -/
def onTile (s : State) (f : Tile → Tile) : State := s.setTile (unitOf s.cur) (f (s.tile (unitOf s.cur)))

theorem wit_OutcomesAndRegisterBlocks :
    (∀ s ∈ [rich id, onTile (rich id) (fun t => { t with outcomes := List.replicate 32 true })], s.me.region = none ∧
      s.ready { reads := [10] } = true ∧ s.ready {} = true ∧ s.ready { reads := [0], writes := [63] } = true ∧
      s.ready { reads := [63, 0] } = true) ∧
    ((rich id).tile 0).outcomes = [] ∧
    ((onTile (rich id) (fun t => { t with outcomes := List.replicate 32 true })).tile 0).outcomes.length = 32 ∧
    (∀ n < 8, (rich id).me.holdsBlock 0 n = true) ∧ (startAt 0 id).me.holdsBlock 0 1 = true ∧ (startAt 0 id).me.holdsBlock 0 2 = false ∧
    waitersAhead (startAt 0 id).cur 0 ((startAt 0 id).core 2).rbWait < (startAt 0 id).freeBlocks 2 0 ∧
    (let full := (((startAt 0 (scalars 1 0)).setCtx 17 (rich id).me).setCtx 18 (rich id).me)
     full.freeBlocks 2 1 ≤ waitersAhead full.cur 1 (full.core 2).rbWait + full.rowsAhead 2 ∧ full.ready { reads := [10], writes := [9] } = true ∧
       full.me.holdsBlock 1 0 = false) ∧
    ((rich (scalars 1 0)).reg (10 : BitVec 6)).toNat = 1 ∧ poolBlocks (coreOf (richOn 0 id).cur) 1 = 0 ∧
    ((rich (scalars 0 2)).reg (11 : BitVec 6)).toNat = 2 ∧ (rich (scalars 0 2)).blockAwaits (rich id).cur 0 2 = false ∧
    ((rich (scalars 2 0)).reg (10 : BitVec 6)).toNat = 2 ∧ ((rich (scalars 0 8)).reg (11 : BitVec 6)).toNat = 8 := by decide +kernel

theorem wit_IndexRegistersAndMoves :
    Ready (rich id) { reads := [63] } ∧ Ready (rich id) { writes := [0] } ∧
    (let s := rich (fun c => c.putIx 3 60)
     0 ≤ (s.me.getIx 3).toInt ∧ 0 ≤ (s.me.getIx 3).toInt + (3 : BitVec 12).toInt ∧ (s.me.getIx 3).toInt + (3 : BitVec 12).toInt = 63 ∧
       s.me.holdsW 63 = true ∧ Ready s { reads := [63], writes := [] } ∧ s.awaits s.cur (.w 63) = false ∧
       63 < (s.me.getIx 3).toInt + (4 : BitVec 12).toInt) ∧
    ((rich (fun c => c.putIx 0 (-1))).me.getIx 0).toInt < 0 ∧ (startAt 0 id).me.holdsW 16 = false := by
  unfold Ready; decide +kernel

theorem wit_ScalarFloatResults :
    Ready (rich id) { reads := [63, 0], writes := [9] } ∧ Ready (rich id) { reads := [10, 11, 9], writes := [9] } ∧
    Ready (rich id) { reads := [10], writes := [0] } := by unfold Ready; decide +kernel

theorem wit_FloatSpecialValues :
    isNaN32 0x7F800001 = true ∧ isNaN32 0xFFFFFFFF = true ∧ isNaN32 0x7F800000 = false ∧ isNaN32 1 = false ∧ isNaN32 0x80000001 = false ∧
    isNaN32 (f32Add 0x7F800000 0xFF800000) = true ∧ (f32Mul 0x80000001 1).toNat % 2 ^ 31 = 0 ∧ (f32Div 1 0xFF7FFFFF).toNat % 2 ^ 31 = 0 ∧ (2 : Nat) ^ 31 < (0x80000001 : Word32).toNat := by decide +kernel

theorem wit_FloatRoundsToNearestEven :
    (toF32 (.fin false 1 0)).toNat % 2 ^ 31 < 0x7F800000 ∧ (toF32 (.fin true 0 0)).toNat % 2 ^ 31 < 0x7F800000 ∧
    ¬ (toF32 (.fin false 1 128)).toNat % 2 ^ 31 < 0x7F800000 := by decide +kernel

/-- An address in the scratchpad of the context's own tile. -/
def pad0 : Word := 0x80000000000000

theorem wit_LoadsAndStoresIssue :
    Ready (rich (scalars pad0 1)) { reads := [10], writes := [9] } ∧ Ready (rich (scalars pad0 1)) { reads := [10], data := [11] } ∧
    Ready (rich (fun c => c.setW 2 pad0)) { reads := [2], writes := [15] } ∧ Ready (rich (fun c => c.setW 2 pad0)) { reads := [2], data := [15] } ∧
    (∀ n ∈ [1, 2, 4, 8], ∃ ps u, Sends (rich (scalars pad0 1)) .load ((rich (scalars pad0 1)).reg (10 : BitVec 6) + 8) n n true false ps u) ∧
    (∀ n ∈ [1, 2, 4, 8], ∃ ps u, Sends (rich (scalars pad0 1)) .store ((rich (scalars pad0 1)).reg (10 : BitVec 6) + 0) n n false true ps u) ∧
    (∃ ps u, Sends (rich (fun c => c.setW 2 pad0)) .load (pad0 + BitVec.ofNat 64 (4 * 127)) 4 4 true false ps u) ∧
    ∃ ps u, Sends (rich (fun c => c.setW 2 pad0)) .store (pad0 + BitVec.ofNat 64 (4 * 0)) 4 4 false true ps u := by
  refine ⟨by unfold Ready; decide +kernel, by unfold Ready; decide +kernel, by unfold Ready; decide +kernel, by unfold Ready; decide +kernel,
    ?_, ?_, sends_of (by decide +kernel), sends_of (by decide +kernel)⟩ <;>
  · intro n hn
    simp only [List.mem_cons, List.not_mem_nil, or_false] at hn
    rcases hn with rfl | rfl | rfl | rfl <;> exact sends_of (by decide +kernel)

theorem wit_AtomicsIssue :
    Ready (rich (scalars pad0 1)) { reads := [10, 11], writes := [9] } ∧ Ready (rich (scalars pad0 1)) { reads := [10, 11, 9], writes := [9] } ∧
    (∃ ps u, Sends (rich (scalars pad0 1)) .store pad0 4 4 true true ps u) ∧
    ∃ ps u, Sends (rich (scalars pad0 1)) .store pad0 8 8 true true ps u :=
  ⟨by unfold Ready; decide +kernel, by unfold Ready; decide +kernel, sends_of (by decide +kernel), sends_of (by decide +kernel)⟩

/-- An access in flight. -/
def flying : Txn := { id := 3, ctx := ctxKey 0 2 0, act := 1, grp := 3, home := .tile 0, op := .load false, dst := .w 9, key := scratchKey 0 0, n := 8, ld := true }

def inRegion (p : SlotPhase) (s : State) : State :=
  let r : OpenRegion := { slot := 5, beginAt := 0, sblk := 255, w := [(9, 4)], wbad := [], ix := [], ox := [], m := [], pc := 8, vblk := 15 }
  (s.setCtx s.cur { s.me with region := some r }).setSlot 5 { phase := p, ctx := s.cur, launch := 1, solid := p == .irrevocable }

/-- A page of another package, readable and writable, as the address 0. -/
def foreign (s : State) : State :=
  let e : TlbEntry := { root := 0x20000, page := 0, pte := BitVec.ofNat 64 (2 ^ 43 + 0x107), size := 1, launch := 1 }
  { (s.setCore (coreOf s.cur) { s.core (coreOf s.cur) with utlb := [e] }) with packages := 2 }

/-- What an access's checks answer. -/
def placed (s : State) (a : Access) (va : Word) (n : Nat) : Option (List Part × State) :=
  match s.locate s.cur a va n with | .ok p => some p | .error _ => none

theorem placed_some {s : State} {a : Access} {va : Word} {n : Nat} (h : (placed s a va n).isSome = true) :
    ∃ ps u, s.locate s.cur a va n = .ok (ps, u) ∧ placed s a va n = some (ps, u) := by
  unfold placed at h ⊢
  cases e : s.locate s.cur a va n with
  | error f => rw [e] at h; simp at h
  | ok p => exact ⟨p.1, p.2, rfl, rfl⟩

theorem placed_none {s : State} {a : Access} {va : Word} {n : Nat} (h : (placed s a va n).isSome = false) :
    ∃ f, s.locate s.cur a va n = .error f := by
  unfold placed at h
  cases e : s.locate s.cur a va n with
  | error f => exact ⟨f, rfl⟩
  | ok p => rw [e] at h; simp at h

theorem placed_with {s : State} {a : Access} {va : Word} {n : Nat} {q : List Part → State → Bool}
    (h : (match placed s a va n with | some (ps, u) => q ps u | none => false) = true) :
    ∃ ps u, s.locate s.cur a va n = .ok (ps, u) ∧ q ps u = true := by
  unfold placed at h
  cases e : s.locate s.cur a va n with
  | error f => rw [e] at h; simp at h
  | ok p => rw [e] at h; exact ⟨p.1, p.2, rfl, h⟩

/-- Why an access's checks fail. -/
def misplaced (s : State) (a : Access) (va : Word) (n : Nat) : Option MemFault :=
  match s.locate s.cur a va n with | .ok _ => none | .error f => some f

theorem wit_AccessTraps :
    (let s := foreign (rich (scalars 8 1))
     let c := s.core (coreOf s.cur)
     (misplaced (s.setCore (coreOf s.cur) { c with utlb := c.utlb.map (fun e => { e with bad := true }) }) .store 8 8).map (·.cause) = some 0x14) ∧
    (let s := { rich (fun c => (scalars pad0 1 { c with acq := [3] })) with txns := [{ flying with dst := .none }] }
     Ready s { reads := [10], writes := [9] } ∧ s.gated false = true) ∧
    (Ready (rich (scalars (pad0 + 1) 1)) { reads := [10], writes := [9] } ∧ (rich (scalars (pad0 + 1) 1)).gated true = false ∧
      ((rich (scalars (pad0 + 1) 1)).reg (10 : BitVec 6) + 0).toNat % 8 ≠ 0) ∧
    (((rich (scalars 8 1)).reg (10 : BitVec 6) + 0).toNat % 8 = 0 ∧ (rich (scalars 8 1)).gated true = false ∧
      ∃ f, (rich (scalars 8 1)).locate (rich (scalars 8 1)).cur .store 8 8 = .error f) ∧
    (let s := inRegion .active (foreign (rich (scalars 8 1)))
     s.gated false = false ∧ Ready s { reads := [10], data := [11] } ∧
       ∃ ps u, s.locate s.cur .load 8 8 = .ok (ps, u) ∧ u.scopeBreach ps = true) ∧
    (let s := rich (fun c => scalars pad0 1 { c with st := 63 })
     Ready s { reads := [10], data := [11] } ∧ s.gated true = false ∧
       ∃ ps u, s.locate s.cur .store pad0 8 = .ok (ps, u) ∧ u.scopeBreach ps = false ∧ u.me.region = none ∧ u.full false true = true) := by
  refine ⟨by decide +kernel, by unfold Ready; decide +kernel, by unfold Ready; decide +kernel, ⟨by decide +kernel, by decide +kernel, placed_none (by decide +kernel)⟩,
    ⟨by decide +kernel, by unfold Ready; decide +kernel, placed_with (q := fun ps u => u.scopeBreach ps) (by decide +kernel)⟩,
    ⟨by unfold Ready; decide +kernel, by decide +kernel, ?_⟩⟩
  obtain ⟨ps, u, h, e⟩ := placed_with (s := rich (fun c => scalars pad0 1 { c with st := 63 })) (a := .store) (va := pad0) (n := 8)
    (q := fun ps u => !u.scopeBreach ps && decide (u.me.region = none) && u.full false true) (by decide +kernel)
  simp only [Bool.and_eq_true, Bool.not_eq_true', decide_eq_true_eq] at e
  exact ⟨ps, u, h, e.1.1, e.1.2, e.2⟩

theorem wit_AccessOnItsWay : (0 : Nat) < (({ rich id with txns := [flying] } : State)).txns.length ∧ ctxKey 0 2 1 ≠ (rich id).cur ∧
    (rich id).remotePlane (.tile 0) = none := by decide +kernel

/-- The access of a state with one in flight. -/
def one (t : Txn) : State := { rich (fun c => { c with ld := 1, st := 1 }) with txns := [t] }

theorem wit_HomePerformsAccesses :
    (∀ op ∈ [TxnOp.load true, .store (enumBytes (natBytes 8 5)) false, .amo .add 1 true false],
      (one { flying with op := op }).txn? 3 = some { flying with op := op } ∧ (one { flying with op := op }).mayPerform { flying with op := op } = true ∧
        (one { flying with op := op }).versions = [] ∧ (one { flying with op := op }).dir = []) ∧
    flying.region = none ∧ (∀ p, flying.home ≠ .registers p) ∧
    (one { flying with performed := true }).mayPerform { flying with performed := true } = false ∧
    (∀ op ∈ [TxnOp.load true, .amo .add 1 true false], (one flying).siblings { flying with op := op } = []) ∧
    (one flying).siblings { flying with op := .store (enumBytes (natBytes 8 5)) false } = [] ∧
    (let t : Txn := { flying with op := .vload 0 1, n := 256 }
     let s : State := { one t with txns := [t, { t with id := 4 }] }
     s.txn? 3 = some t ∧ s.mayPerform t = true ∧ t.op.isWide = true ∧ s.siblings t = [{ t with id := 4 }] ∧ s.versions = [] ∧ s.dir = []) ∧
    (({ vault := { tenants := [(0, { logBase := 0x1000, logSize := 1 })] } } : State).hardwareOwned 0x1000 = true ∧
      ({} : State).hardwareOwned 0x1000 = false) ∧
    ({ one { flying with op := .amo .add 1 true false } with bad := [(scratchKey 0 63, true)] }).readBad (scratchKey 0 0 / 64 * 64) 64 = true ∧
    (one flying).readBad (scratchKey 0 0 / 64 * 64) 64 = false :=
  ⟨by decide +kernel, by decide, (fun _ h => by cases h), by and_intros <;> decide +kernel⟩

theorem wit_StoreWritesItsBytes : ((enumBytes (natBytes 8 5)).map (·.1)).Nodup ∧ (∀ p ∈ enumBytes (natBytes 8 5), (64 : Nat) / 64 ≠ (0 + p.1) / 64) ∧
    ∀ p ∈ enumBytes (natBytes 8 5), (8 : Nat) ≠ 0 + p.1 := by decide

theorem wit_AccessAnswers :
    (∀ t ∈ [{ flying with performed := true }, { flying with performed := true, op := .store [] false, dst := .none, ld := false, st := true }],
      (one t).txn? 3 = some t ∧ t.performed = true ∧ (∀ u ∈ (one t).txns, u.id ≠ t.id → u.grp ≠ t.grp) ∧
        ((one t).ctx t.ctx).actId = t.act ∧ t.seq = none) ∧ flying.ld = true ∧ flying.st = false := by decide +kernel

theorem wit_LoadBringsWhatMemoryHolds :
    Ready (rich (scalars pad0 1)) { reads := [10], writes := [9] } ∧ (9 : BitVec 6) ≠ 0 ∧
    (∃ ps u, Sends (rich (scalars pad0 1)) .load ((rich (scalars pad0 1)).reg (10 : BitVec 6) + (0 : BitVec 12).signExtend 64) 8 8 true false ps u ∧
      ∃ p, ps = [p] ∧ (∀ q, p.home ≠ .registers q) ∧ (rich (scalars pad0 1)).homePackage p.home = (rich (scalars pad0 1)).package ∧ p.len = 8) ∧
    (rich (scalars pad0 1)).txns = [] ∧ (rich (scalars pad0 1)).blks = [] ∧ (rich (scalars pad0 1)).versions = [] ∧
    (rich (scalars pad0 1)).dir = [] ∧ (rich (scalars pad0 1)).me.region = none := by
  refine ⟨by unfold Ready; decide +kernel, by decide, ?_, by decide +kernel, by decide +kernel, by decide +kernel, by decide +kernel, by decide +kernel⟩
  obtain ⟨ps, u, h⟩ := sends_of (s := rich (scalars pad0 1)) (a := .load) (n := 8) (align := 8) (ld := true) (st := false)
    (va := (rich (scalars pad0 1)).reg (10 : BitVec 6) + (0 : BitVec 12).signExtend 64) (by decide +kernel)
  obtain ⟨ps', u', h', e⟩ := placed_with (s := rich (scalars pad0 1)) (a := .load) (n := 8)
    (va := (rich (scalars pad0 1)).reg (10 : BitVec 6) + (0 : BitVec 12).signExtend 64)
    (q := fun ps _ => decide (ps = [⟨0, 8, .tile 0, scratchKey 0 0, 0, false, 0⟩])) (by decide +kernel)
  have := h.2.2.1
  rw [h'] at this
  injection this with this
  injection this with h1 h2
  refine ⟨ps, u, h, _, h1.symm.trans (of_decide_eq_true e), (fun q hq => by cases hq), by decide +kernel, rfl⟩

/-- A capsule with one handler for any core, trap handlers and a parameter; and a state with it and the launch's job. -/
def cap0 : Capsule :=
  { accession := 0, state := .ready, triple := {}, bytes := [], portable := [], map := [], handlers := [⟨0, 3, 0, true⟩], regions := 0, slots := [],
    refs := [(0, 0x10000001)], nodeFormats := [], traps := [(0, 0), (1, 0), (2, 0), (3, 0), (4, 0)], trying := false, revisions := [0, 0],
    seals := [], ignored := [], tenant := 0, installed := [] }

def job0 : Job := { desc := List.replicate 16 0, phases := [[⟨[0], []⟩]], phase := 0, dlLeft := 100 }

def lit (s : State) : State := { s with capsules := [cap0], jobs := [(0, job0)], nextJob := 1, nextTag := 2 }

/-- The launch of the context as a function makes it. -/
def relaunch (s : State) (f : Launch → Launch) : State := s.setLaunch 1 (f fetchLaunch)

theorem wit_FencesAndCatalogue :
    Ready (rich id) {} ∧ (rich id).gated false = false ∧ Ready (rich (scalars 2 0)) { reads := [10] } ∧
    (∃ f, (rich (scalars 2 0)).locate (rich id).cur .fetch ((rich (scalars 2 0)).reg (10 : BitVec 6) + (0 : BitVec 12).signExtend 64) 1 = .error f) ∧
    (∃ p ps u, (rich (scalars (BitVec.ofNat 64 fetchVa) 0)).locate (rich id).cur .fetch
      ((rich (scalars (BitVec.ofNat 64 fetchVa) 0)).reg (10 : BitVec 6) + (0 : BitVec 12).signExtend 64) 1 = .ok (p :: ps, u)) ∧
    (let s := onTile (rich (scalars (0x7000000000005) 255)) (fun t => { t with catalogue := [(255, some 5)] })
     Ready s { reads := [10], writes := [9] } ∧ Ready s { reads := [10, 11], writes := [9] } ∧
     s.me.region = none ∧ (∃ i < 256, Tbl.get none (s.tile 0).catalogue i = some ((s.reg (10 : BitVec 6)).setWidth 48))) ∧
    ∀ i < 256, Tbl.get none ((rich id).tile 0).catalogue i ≠ some (5 : BitVec 48) := by
  refine ⟨by unfold Ready; decide +kernel, by decide +kernel, by unfold Ready; decide +kernel, placed_none (s := rich (scalars 2 0)) (by decide +kernel), ?_,
    ⟨by unfold Ready; decide +kernel, by unfold Ready; decide +kernel, by decide +kernel, ⟨255, by decide, by decide +kernel⟩⟩, by decide +kernel⟩
  obtain ⟨ps, u, h, e⟩ := placed_with (s := rich (scalars (BitVec.ofNat 64 fetchVa) 0)) (a := .fetch) (n := 1)
    (va := (rich (scalars (BitVec.ofNat 64 fetchVa) 0)).reg (10 : BitVec 6) + (0 : BitVec 12).signExtend 64)
    (q := fun ps _ => !ps.isEmpty) (by decide +kernel)
  cases ps with
  | nil => simp at e
  | cons p r => exact ⟨p, r, u, h⟩

/-- The current context behind an access that it awaits. -/
def held (f : Ctx → Ctx) : State := { rich (fun c => f { c with acq := [3] }) with txns := [{ flying with dst := .none }] }

theorem wit_WaitsPausesAndBarriers :
    (∀ s ∈ [rich id, rich (fun c => { c with ld := 15 })], Ready s {}) ∧ (rich id).me.ld ≤ (0 : BitVec 4).toNat ∧
    ¬ ((rich (fun c => { c with ld := 15 })).me.ld ≤ (14 : BitVec 4).toNat) ∧
    ((rich id).tileOpsOut (rich id).cur = false ∧ Ready (one { flying with op := .semup 7 }) {} ∧
      (one { flying with op := .semup 7 }).tileOpsOut (rich id).cur = true) ∧ (4095 : BitVec 12) ≠ 0 ∧
    (∀ s ∈ [rich (fun c => { c with await := some 3, answer := some 7 }), rich (fun c => { c with await := some 3 }), rich (scalars pad0 1)],
      Ready s { reads := [10, 11], writes := [9] }) ∧
    (let s := rich (scalars pad0 1)
     s.me.await = none ∧ s.gated true = false ∧ (s.reg (10 : BitVec 6)).toNat % 16 = 0 ∧
     ∃ ps u, s.locate s.cur .store pad0 16 = .ok (ps, u) ∧ (decide (u.me.region = none) && !u.msgHeld (ps.map (·.home))) = true) ∧
    (let b : Barrier := ⟨0xFFFFFFFF, 2, false, 1, 1⟩
     b.expected < 2 ^ 16 ∧ b.arrived < b.expected ∧ b.held ≤ b.expected ∧ b.phase < 2 ^ 32 ∧ b.reserved = false ∧
       b.arrived + 1 = b.expected ∧ b.held < b.expected ∧ (0 : Nat) = (b.phase + 1) % 2 ^ 32 ∧ (5 : Nat) ≠ b.phase) ∧
    (let s := rich (fun c => { c with align := some (15, 900, [17]) })
     Ready s {} ∧ s.me.align = some (15, 900, [17]) ∧ ([17] : List Nat) ≠ [] ∧ s.cycle < 900) ∧
    (let s := rich (fun c => { c with align := some (15, 0, [17]) })
     Ready s {} ∧ s.me.align = some (15, 0, [17]) ∧ 0 ≤ s.cycle) ∧
    (let two := (rich id).setCtx 17 (rich id).me
     ∀ x ∈ [rich id, two], Ready x {} ∧ x.me.align = none ∧ (∀ g ∈ (x.cluster (clusterOf (unitOf x.cur))).aligns, g.launch ≠ x.me.launch)) ∧
    (rich id).alignPeers (rich id).cur = [] ∧ ((rich id).setCtx 17 (rich id).me).alignPeers (rich id).cur ≠ [] ∧
    (held (scalars pad0 1)).me.await = none ∧ (held (scalars pad0 1)).gated true = true := by
  refine ⟨by unfold Ready; decide +kernel, by decide +kernel, by decide +kernel, by unfold Ready; decide +kernel, by decide, by unfold Ready; decide +kernel,
    ⟨by decide +kernel, by decide +kernel, by decide +kernel,
     placed_with (q := fun ps u => decide (u.me.region = none) && !u.msgHeld (ps.map (·.home))) (by decide +kernel)⟩,
    by decide, by unfold Ready; decide +kernel, by unfold Ready; decide +kernel, by unfold Ready; decide +kernel, by decide +kernel, by decide +kernel, by decide +kernel, by decide +kernel⟩

theorem wit_SemaphoresAndQueues :
    let sem := fun (n : BitVec 16) (d u : List Waiter) => onTile (rich (scalars 7 1)) (fun t =>
      { t with sems := Tbl.set 0 [] 7 n, semDown := Tbl.set [] [] 7 d, semUp := Tbl.set [] [] 7 u })
    let que := fun (q : List Word) (g p : List Waiter) => onTile (rich (scalars 3 1)) (fun t =>
      { t with queues := Tbl.set [] [] 3 q, queueGet := Tbl.set [] [] 3 g, queuePut := Tbl.set [] [] 3 p })
    (∀ s ∈ [sem 0 [] [], sem 65534 [] [], sem 65535 [] [], sem 0 [.ctx 17 9] [], sem 65535 [] [.ctx 17 9]],
      Ready s { reads := [10], writes := [9] } ∧ s.me.region = none ∧ waits s.cur (Tbl.get [] (s.tile 0).semDown 7) = false ∧
        waits s.cur (Tbl.get [] (s.tile 0).semUp 7) = false ∧ s.gated true = false ∧ s.gated false = false ∧ s.outstanding s.cur 1 = [] ∧ s.outstanding 17 1 = [] ∧ (s.reg (10 : BitVec 6)).toNat % 8 = 7) ∧
    (let s := held (scalars 7 1)
     Ready s { reads := [10], writes := [9] } ∧ Ready s { reads := [10, 11] } ∧ s.me.region = none ∧ s.gated true = true ∧ s.gated false = true) ∧
    (let s := one { flying with dst := .none, st := true, op := .store [] false, ld := false }
     Ready s { reads := [10], writes := [9] } ∧ Ready s { reads := [10, 11] } ∧ s.me.region = none ∧ s.gated true = false ∧ s.outstanding s.cur 1 ≠ [] ∧
       (Tbl.get 0 (s.tile 0).sems 0).toNat < 65535 ∧ (s.tile 0).semUp = [] ∧ (s.tile 0).queues = [] ∧ (s.tile 0).queuePut = [] ∧
       (s.tile (unitOf s.cur)) = s.tile 0) ∧
    (17 : Nat) ≠ (rich id).cur ∧ (one { flying with dst := .none, st := true, op := .store [] false, ld := false }).outstanding (rich id).cur 1 ≠ [] ∧
    (∀ s ∈ [que [] [] [], que (List.replicate 15 1) [] [], que (List.replicate 16 1) [] [], que [] [.ctx 17 9] [], que (List.replicate 16 1) [] [.ctx 17 9]],
      Ready s { reads := [10], writes := [9] } ∧ Ready s { reads := [10, 11] } ∧ s.me.region = none ∧ s.gated true = false ∧ s.gated false = false ∧
        s.outstanding s.cur 1 = [] ∧ s.outstanding 17 1 = [] ∧ waits s.cur (Tbl.get [] (s.tile 0).queueGet 3) = false ∧
        waits s.cur (Tbl.get [] (s.tile 0).queuePut 3) = false) := by unfold Ready; decide +kernel

/-- A header of a payload, kind and handler. -/
def head (payload kind handler : Nat) : Word := headerWord 0 0 kind 0 payload handler

theorem wit_MessagesSentAndHandlerReturn :
    let s := lit (rich (scalars 0 (head 2 0 0)))
    let small := relaunch s (fun l => { l with record := l.record.set 5 0 })
    (Ready s { reads := [10, 11] } ∧ Ready s { reads := [10, 11], vreads := [2] } ∧ sendPriv (s.level s.cur) (head 2 1 0) 0 = true ∧
      sendPriv (s.level s.cur) (head 2 0 0) 0 = false ∧ sendPriv (s.level s.cur) (head 2 0 0) 0x8000000000000000 = true ∧
      Word.field (head 33 0 0) 12 6 = 33 ∧ Word.field (head 32 0 0) 12 6 ≤ 32 ∧ Word.field (head 32 0 0) 61 3 = 0 ∧
      Word.field (head 0 0 0) 12 6 = 0 ∧ Tbl.get false s.me.vbad 2 = false) ∧
    (s.resolvePlace s.cur 0x10000 = none ∧ s.resolvePlace s.cur 0 = some (0, 0) ∧ (s.level s.cur).rank = 0 ∧
      s.handlerAllows s.me.launch 1 0 = false ∧ s.handlerAllows s.me.launch 0 0 = true ∧ Ready s { reads := [8, 9] } ∧
      isTile (0 / 4) = true ∧ 8 * (1 + 2) ≤ capacity (s.ringOf 0 0) 0 ∧
      s.me.region = none ∧ s.gated true = false ∧ s.accessHeld 0 = false ∧ s.me.st < 63) ∧
    ((small.resolvePlace small.cur 0).map (fun p => decide (capacity (small.ringOf p.1 p.2) 0 < 8 * (1 + 64)))) = some true ∧
    ((inRegion .active (rich id)).me.region.isSome = true ∧ Ready (inRegion .active (rich id)) {}) ∧
    (Ready (rich (fun c => { c with ld := 1 })) {} ∧ (rich (fun c => { c with ld := 1 })).me.ld ≠ 0) ∧
    (Ready (rich id) {} ∧ (rich id).coprocBusy (rich id).cur = false ∧ (rich id).tcbHeld (rich id).cur = false ∧ (rich id).me.act = some {} ∧
      (rich (fun c => { c with act := some { drain := some 15 } })).me.act = some { drain := some 15 }) := by
  unfold Ready; decide +kernel

/-- A condition on what the checks of an access leave, in a form that evaluates. -/
def sendsAnd (s : State) (a : Access) (va : Word) (n align : Nat) (ld st : Bool) (q : List Part → State → Bool) : Bool :=
  sendsB s a va n align ld st && match placed s a va n with | some (ps, u) => q ps u | none => false

theorem sends_and {s : State} {a : Access} {va : Word} {n align : Nat} {ld st : Bool} {q : List Part → State → Bool}
    (h : sendsAnd s a va n align ld st q = true) : ∃ ps u, Sends s a va n align ld st ps u ∧ q ps u = true := by
  simp only [sendsAnd, Bool.and_eq_true] at h
  obtain ⟨ps, u, h1⟩ := sends_of h.1
  obtain ⟨ps', u', h2, h3⟩ := placed_with h.2
  have e := h1.2.2.1.symm.trans h2
  injection e with e
  injection e with e1 e2
  subst e1; subst e2
  exact ⟨ps, u, h1, h3⟩

/-- A condition on what an instruction that reads its operand from memory reads, in a form that evaluates. -/
def readsAnd (s : State) (va : Word) (n align : Nat) (q : List Byte → State → Bool) : Bool :=
  !s.gated false && decide (va.toNat % align = 0) &&
  match s.locateDwords .load false va 0 (n / 8) with
  | .ok (ps, u) => !u.recordHeld ps && !u.full true false &&
    match u.readParts (u.proto va .none [] false false none) ps with
    | some (bs, bad, v) => !bad && q bs v
    | none => false
  | .error _ => false

theorem reads_and {s : State} {va : Word} {n align : Nat} {q : List Byte → State → Bool} (h : readsAnd s va n align q = true) :
    ∃ bs v, Reads s va n align bs v ∧ q bs v = true := by
  unfold readsAnd at h
  cases e : s.locateDwords .load false va 0 (n / 8) with
  | error f => rw [e] at h; simp at h
  | ok p =>
    obtain ⟨ps, u⟩ := p
    rw [e] at h
    cases e2 : u.readParts (u.proto va .none [] false false none) ps with
    | none => simp [e2] at h
    | some r =>
      obtain ⟨bs, bad, v⟩ := r
      simp only [e2, Bool.and_eq_true, Bool.not_eq_true', decide_eq_true_eq] at h
      exact ⟨bs, v, ⟨h.1.1, h.1.2, ps, u, e, h.2.1.1, h.2.1.2, by rw [e2, h.2.2.1]⟩, h.2.2.2⟩

/-- The same for the doubleword stores of one instruction. -/
def storesB (s : State) (va : Word) (n : Nat) : Bool :=
  !s.gated true && decide (va.toNat % 8 = 0) &&
  match s.locateDwords .store true va 0 n with
  | .ok (ps, u) => !ps.any (fun p => isPool p.home) && !u.msgHeld (ps.map (·.home)) && !u.storesFull n
  | .error _ => false

theorem stores_of {s : State} {va : Word} {n : Nat} (h : storesB s va n = true) : ∃ ps u, SendsDwords s va n ps u := by
  unfold storesB at h
  cases e : s.locateDwords .store true va 0 n with
  | error f => rw [e] at h; simp at h
  | ok p =>
    obtain ⟨ps, u⟩ := p
    simp only [e, Bool.and_eq_true, Bool.not_eq_true', decide_eq_true_eq] at h
    exact ⟨ps, u, h.1.1, h.1.2, e, fun hp => absurd (h.2.1.1.symm.trans hp) (by decide), h.2.1.2, h.2.2⟩

/-- Where doubleword accesses of one instruction go, with a condition in a form that evaluates. -/
theorem dwords_with {s : State} {va : Word} {n : Nat} {q : List Part → State → Bool}
    (h : (match s.locateDwords .store false va 0 n with | .ok (ps, u) => q ps u | .error _ => false) = true) :
    ∃ ps u, s.locateDwords .store false va 0 n = .ok (ps, u) ∧ q ps u = true := by
  cases e : s.locateDwords .store false va 0 n with
  | error f => simp [e] at h
  | ok p => simp only [e] at h; exact ⟨p.1, p.2, rfl, h⟩

theorem wit_WorklistAndTaskControl :
    let s := lit (rich (scalars pad0 0))
    let r : TaskRec := { header := 0, dword1 := 0, arg0 := 0, arg1 := 0, seq := 0, pkg := 0 }
    let d : List Word := [0, 0, 0, 0, 0, 0, 0x10001, 0]
    (Ready s { reads := [10] } ∧ s.cores.any (fun e => e.2.pushes.any (fun p => p.ctx == some s.cur)) = false ∧ s.me.region = none ∧
      s.gated true = false ∧ s.outstanding s.cur 4 = []) ∧
    (∃ bs v, Reads s pad0 32 8 bs v ∧ (v.handler? 1 (Word.field (nth 0 (dwordsOf 4 bs) 0) 0 12)).isSome = true) ∧
    (s.coreCancelled 2 = false ∧ (s.core 2).pushes = [] ∧ r.bucket < (s.core 2).floor + 64 ∧ (s.core 2).generalUsed < 248 ∧ (s.core 2).deque.length < 192) ∧
    (let t := s.setCore 2 { s.core 2 with deque := [r, r], floor := 0 }
     Ready t { reads := [10], writes := [9] } ∧ t.gated true = false ∧ pad0.toNat % 8 = 0 ∧
       (∃ ps u, t.locateDwords .store false pad0 0 4 = .ok (ps, u) ∧ (decide (u.me.region = none) && !u.msgHeld (ps.map (·.home)) && !r.isReleased && u.recordAllows u.me.launch r 2 && decide (r.bucket ≤ (u.core 2).floor + u.delta u.me.launch) &&
         !u.storesFull 4) = true)) ∧
    Ready s { writes := [9] } ∧ (s.reg (10 : BitVec 6)).toNat % 64 = 0 ∧
    (∃ ps u, s.locate s.cur .store pad0 64 = .ok (ps, u) ∧
      (decide (u.me.region = none) && !u.msgHeld (ps.map (·.home)) && !u.full true true) = true) ∧
    (d.length = 8 ∧ Word.field (nth 0 d 5) 16 3 = 0 ∧ Word.field (nth 0 d 6) 0 16 = 1) ∧
    (let e : List Word := [0, 0, 0, 0, 0, 0x30000, 0, 0]
     e.length = 8 ∧ Word.field (nth 0 e 5) 16 3 = 3 ∧ nth 0 e 7 = 0 ∧ Word.field (nth 0 e 5) 19 45 = 0 ∧ Word.field (nth 0 e 6) 16 48 = 0 ∧
       Word.field (nth 0 e 1) 50 14 = 0) := by
  refine ⟨by unfold Ready; decide +kernel,
    reads_and (q := fun bs v => (v.handler? 1 (Word.field (nth 0 (dwordsOf 4 bs) 0) 0 12)).isSome) (by decide +kernel), by decide +kernel,
    ⟨by unfold Ready; decide +kernel, by decide +kernel, by decide, dwords_with (q := fun ps u => decide (u.me.region = none) &&
      !u.msgHeld (ps.map (·.home)) && !TaskRec.isReleased { header := 0, dword1 := 0, arg0 := 0, arg1 := 0, seq := 0, pkg := 0 } &&
      u.recordAllows u.me.launch { header := 0, dword1 := 0, arg0 := 0, arg1 := 0, seq := 0, pkg := 0 } 2 &&
      decide (TaskRec.bucket { header := 0, dword1 := 0, arg0 := 0, arg1 := 0, seq := 0, pkg := 0 } ≤ (u.core 2).floor + u.delta u.me.launch) &&
      !u.storesFull 4) (by decide +kernel)⟩,
    by unfold Ready; decide +kernel, by decide +kernel,
    placed_with (q := fun ps u => decide (u.me.region = none) && !u.msgHeld (ps.map (·.home)) && !u.full true true) (by decide +kernel),
    by decide, by decide⟩

theorem wit_ForwardingRegions :
    (∀ s ∈ [rich id, inRegion .active (rich id), inRegion .irrevocable (rich id), inRegion .committing (rich id), rich (fun c => { c with ld := 1 })],
      Ready s { writes := [9] } ∧ Ready s {}) ∧
    ((rich id).me.region = none ∧ (rich id).me.ld = 0 ∧ ((rich id).slot 0).phase = .free) ∧
    Word.field ((rich id).me.act.getD {}).header 21 3 ≠ 1 ∧
    Word.field ((rich (fun c => { c with act := some { header := head 2 1 0 } })).me.act.getD {}).header 21 3 = 1 ∧
    (∀ n < 256, (((rich id).slot n).phase = .free)) ∧
    (let full := { rich id with dir := (List.range 256).map (fun n => (n, { phase := .active, ctx := 17 })) }
     full.me.ld = 0 ∧ ∀ n < 256, (full.slot n).phase ≠ .free) ∧
    (let last := { rich id with dir := (List.range 255).map (fun n => (n, { phase := .active, ctx := 17 })) }
     (last.slot 255).phase = .free ∧ ∀ m < 255, (last.slot m).phase ≠ .free) ∧
    (let s := inRegion .active (rich id)
     s.me.region.map (·.slot) = some 5 ∧ (s.slot 5).phase ≠ .committing ∧ s.me.ld = 0 ∧ s.me.st = 0 ∧ (s.slot 5).pred = 0 ∧ s.homesOf 5 = [] ∧
       (s.slot 5).solid = false ∧ (s.slot 5).ctx = s.cur) ∧
    ((inRegion .irrevocable (rich id)).slot 5).solid = true ∧
    (((inRegion .committing (rich id)).slot 5).phase = .committing ∧ ((inRegion .committing (rich id)).slot 5).homes = []) := by
  unfold Ready; decide +kernel

theorem wit_LevelCountersAndCancels :
    (∀ s ∈ [lit (rich (scalars 5 0)), lit (rich (scalars 3 0)), lit (rich (scalars 1 0)), lit (rich (scalars 2 0)), lit (rich (scalars 0 0))],
      Ready s { reads := [10, 11], writes := [9] } ∧ (s.level s.cur).rank = 0 ∧ s.launchOf s.cur = some fetchLaunch ∧ s.me.region = none) ∧
    5 ≤ Word.field 5 0 3 ∧ Word.field 3 0 3 = 3 ∧ Word.field 1 3 61 = 0 ∧
    (lit (rich (scalars 1 0))).cancelling 1 fetchLaunch = false ∧
    (relaunch (lit (rich (scalars 1 0))) (fun l => { l with cancel := some { level := 1, since := 0, by_ := 0 } })).cancelling 1
      { fetchLaunch with cancel := some { level := 1, since := 0, by_ := 0 } } = true ∧
    (lit (rich id)).job? fetchLaunch.job = some job0 ∧ fetchLaunch.state = .resident ∧ fetchLaunch.cancel = none := by
  unfold Ready; decide +kernel

/-- A launch with a queue, and a context on the M-core of its tile. -/
def queued (f : Ctx → Ctx) : State :=
  relaunch (lit (rich f)) (fun l => { l with queues := [⟨0, 0, 0, 0, queueHandle 0 0 0 0⟩], record := l.record.set 1 1 })

theorem wit_EngineSubmissions :
    (∀ s ∈ [lit (rich (scalars 2 0)), lit (rich (scalars 1 0)), lit (rich (scalars 0 1)), queued (scalars pad0 0)],
      Ready s { reads := [10, 11], writes := [9] } ∧ s.me.region = none) ∧
    ((lit (rich (scalars 1 0))).queuePlace 0 = some 0 ∧ (lit (rich (scalars 0 1))).queuePlace 1 = none ∧
      (lit (rich (scalars 1 0))).launch? 1 = some fetchLaunch ∧ fetchLaunch.queues.length < 16) ∧
    (pad0 + 8).toNat % 64 ≠ 0 ∧ pad0.toNat % 64 = 0 ∧
    (∃ l, (queued (scalars pad0 0)).launchOf (queued (scalars pad0 0)).cur = some l ∧
      l.queues.find? (fun q => q.handle == (queued (scalars pad0 0)).reg (11 : BitVec 6)) = some ⟨0, 0, 0, 0, queueHandle 0 0 0 0⟩ ∧ l.tileTasks = true) ∧
    (∃ bs v, Reads (queued (scalars pad0 0)) pad0 64 64 bs v ∧
      (decide (v.me.cp < 63) && decide (v.me.st < 63) && !v.tableBusy 0) = true) ∧ (queued (scalars pad0 0)).gated true = false ∧
    (∃ bs v, Reads (queued (scalars pad0 0)) pad0 128 64 bs v ∧
      (v.handlerAllows 1 (bytesNat (bs.take 8) % 4096) 2 && decide (v.me.tl < 63) && !v.tableBusy (clusterOf (unitOf v.cur))) = true) ∧
    (lit (rich id)).launch? 1 = some fetchLaunch ∧ fetchLaunch.tileTasks = false ∧
    (let s := lit (richOn 0 (fun c => (scalars (pad0 + 4096) pad0 c).putOx 0 524280))
     let t := lit (richOn 0 (fun c => (scalars (pad0 + 4096) pad0 c).putOx 0 8))
     Ready t { unit := .reader, reads := [10, 11] } ∧ (s.blkCheck (pad0 + 4096) pad0 (s.me.getOx 0)).isSome = true ∧
       t.blkCheck (pad0 + 4096) pad0 (t.me.getOx 0) = none ∧
       (let u := ((t.engineFor (unitOf t.cur) t.me.launch).blkParts (pad0 + 4096).toNat (sourceCuts (pad0 + 4096).toNat 8)).2.engineFree (unitOf t.cur)
        u.gated true = false ∧ u.me.cp < 63)) := by
  refine ⟨by unfold Ready; decide +kernel, by decide +kernel, by decide, by decide,
    ⟨{ fetchLaunch with queues := [⟨0, 0, 0, 0, queueHandle 0 0 0 0⟩], record := fetchLaunch.record.set 1 1 }, by decide +kernel⟩,
    reads_and (q := fun _ v => decide (v.me.cp < 63) && decide (v.me.st < 63) && !v.tableBusy 0) (by decide +kernel), by decide +kernel,
    reads_and (q := fun bs v => v.handlerAllows 1 (bytesNat (bs.take 8) % 4096) 2 && decide (v.me.tl < 63) && !v.tableBusy (clusterOf (unitOf v.cur)))
      (by decide +kernel), by decide +kernel, by decide +kernel, by unfold Ready; decide +kernel⟩

theorem wit_OperandSlotsLoadsAndDrains :
    let tags := fun (xs : List (Nat × SlotTag)) (f : Ctx → Ctx) => onTile (rich f) (fun t => { t with slots := xs })
    let r1 : SlotTag := ⟨.ready, 1, false, 0, 1⟩
    (∀ s ∈ [rich (scalars 1 0), rich (scalars 4 0), rich (scalars 3 0)], Ready s { unit := .matrix, reads := [10], writes := [9] } ∧
      s.me.region = none ∧ s.tileTasksOn = false) ∧
    (∀ i < 24, ((tags ((List.range 24).map (fun k => (k, r1))) id).tile 0).groupFree i 1 = false) ∧
    (((tags ((List.range 23).map (fun k => (k, r1))) id).tile 0).groupFree 23 1 = true ∧
      ∀ j < 23, ((tags ((List.range 23).map (fun k => (k, r1))) id).tile 0).groupFree j 1 = false) ∧
    (let s := tags [(23, r1), (20, ⟨.ready, 1, false, 0, 2⟩), (21, ⟨.ready, 1, false, 1, 2⟩), (22, ⟨.claimed, 0, false, 0, 1⟩)] (fun c => ((scalars 23 0 c).putOx 2 7))
     Ready s { unit := .matrix, reads := [10] } ∧ Ready s { unit := .matrix, reads := [10, 11] } ∧ s.me.region = none ∧
       (slotTag (s.tile 0) 23).part = 0 ∧ (slotTag (s.tile 0) 23).state = .ready ∧ (slotTag (s.tile 0) 21).part ≠ 0 ∧
       (slotTag (s.tile 0) 22).state = .claimed ∧ (slotTag (s.tile 0) 0).state = .free ∧ groupWidth (Word.field (s.me.getOx 2) 0 4) = 1 ∧
       s.me.cp < 63 ∧ s.gated false = false ∧ s.ringTake.isSome = true) ∧
    (let s := (rich (scalars 23 0)).setCore 2 { (rich id).core 2 with cring := [(0, { used := true })] }
     Ready s { unit := .matrix, reads := [10, 11] } ∧ s.ringTake.isSome = false ∧ Ready s { unit := .matrix }) ∧
    (let s := held (scalars 23 0)
     Ready s { unit := .matrix, reads := [10, 11] } ∧ s.gated false = true ∧ s.me.region = none) ∧
    (let t := (tags ((List.range 24).map (fun k => (k, r1))) id).tile 0
     (slotTag t 0).part = 0 ∧ (slotTag t 0).state = .ready ∧ (0 : Nat) + (slotTag t 0).width ≤ 23 ∧ (slotTag t 1).part = 0 ∧
       (slotTag t 1).state = .ready) ∧
    (24 : Nat) > 23 ∧ 128 < Word.field (0x100 : Word) 0 9 ∧ ¬ (128 < Word.field (0x80 : Word) 0 9) ∧
    ((rich (fun c => { c with act := some { drain := some 15 } })).me.act = some { drain := some 15 } ∧
      Ready (rich (fun c => { c with act := some { drain := some 15 } })) { unit := .matrix } ∧
      (rich (fun c => { c with act := some { drain := some 15 } })).ringTake.isSome = true) := by
  unfold Ready; decide +kernel

theorem wit_WalksAndDigests :
    let pd := fun (p : Digest) => relaunch (lit (rich (fun c => { scalars pad0 0 c with pd := p }))) (fun l => { l with modelKeys := [(pad0, 2)] })
    let logged := fun (p : Digest) (n : Tenant) => { pd p with vault := { (pd p).vault with tenants := [(0, n)] } }
    (∀ s ∈ [pd {}, pd { active := true, valid := true }, pd { last := some (List.replicate 48 0, 3) },
        logged { active := true, valid := true } { logSize := 4 }, logged { active := true, valid := true } { logSize := 4, logWrite := 4 }],
      Ready s { unit := .walk, reads := [10, 11], writes := [9] } ∧ Ready s { unit := .walk, reads := [10], writes := [9] } ∧ s.me.region = none ∧
        s.gated false = false ∧ s.msgHeld [.tile 0] = false ∧ s.ringTake.isSome = true ∧ s.walking = false ∧ s.modelBound 1 pad0 = true ∧
        s.modelBound 1 7 = false) ∧
    (Ready (held (scalars pad0 0)) { unit := .walk, reads := [10, 11], writes := [9] } ∧ (held (scalars pad0 0)).gated false = true) ∧
    (one { flying with op := .walk 0 0 0 1 0, dst := .w 12 }).walking = true ∧
    Ready (one { flying with op := .walk 0 0 0 1 0, dst := .w 12 }) { unit := .walk, reads := [10, 11], writes := [9] } ∧
    (({ logSize := 4, logWrite := 4 } : Tenant).logRead + 4 ≤ ({ logSize := 4, logWrite := 4 } : Tenant).logWrite) ∧
    (({ logSize := 4, logWrite := 3 } : Tenant).logWrite < 0 + 4) ∧
    pad0.toNat % 8 = 0 ∧
    ∃ ps u, (pd { last := some (List.replicate 48 0, 3) }).locate (pd { last := some (List.replicate 48 0, 3) }).cur .store pad0 48 = .ok (ps, u) ∧
      (!ps.any (fun p => isPool p.home) && !u.msgHeld (ps.map (·.home)) && !u.full false true) = true :=
  ⟨by unfold Ready; decide +kernel, by unfold Ready; decide +kernel, by decide +kernel, by unfold Ready; decide +kernel, by decide, by decide,
    by decide,
    placed_with (q := fun ps u => !ps.any (fun p => isPool p.home) && !u.msgHeld (ps.map (·.home)) && !u.full false true) (by decide +kernel)⟩

/-- The current context at a level above H. -/
def atLevel (lv : Level) (f : Ctx → Ctx) : State := lit (rich (fun c => { f c with level := lv }))

theorem wit_ExceptionsTaken :
    (∀ s ∈ [rich id, inRegion .active (rich id), inRegion .irrevocable (rich id)], Ready s {} ∧ Ready s { reads := [10, 11], writes := [9] } ∧
      s.level s.cur = .h ∧ s.me.act = some {}) ∧
    (rich id).me.region = none ∧ (inRegion .active (rich id)).me.region.isSome = true ∧
    ((inRegion .active (rich id)).slot 5).phase = .active ∧ ((inRegion .active (rich id)).slot 5).ctx = (rich id).cur ∧
    ((inRegion .irrevocable (rich id)).slot 5).phase = .irrevocable ∧
    (atLevel .s id).level (atLevel .s id).cur ≠ .h ∧
    (rich (fun c => { c with act := some { tcb := some pad0 } })).me.act = some { tcb := some pad0 } := by unfold Ready; decide +kernel

/-- The bytes of a folio that are not zero: native or portable, of TRAP, resumable, with blocks 0 and 1. -/
def folioBytes (base : Nat) (kind : Byte) : Tbl Byte := [(base, 8), (base + 6, 0x11), (base + 7, kind), (base + 33, 255), (base + 35, 3)]

def folioHead (kind : Byte) : List Byte := [8, 0, 0, 0, 0, 0, 0x11, kind] ++ List.replicate 25 0 ++ [255, 0, 3, 0, 0, 0, 0]

/-- The whole folio: zeros after its first five dwords. -/
def plainFolio (kind : Byte) : List Byte := folioHead kind ++ List.replicate 18392 0

theorem bytesNat_zeros : ∀ n : Nat, bytesNat (List.replicate n 0) = 0
  | 0 => rfl
  | n + 1 => by
    rw [List.replicate_succ]
    exact (congrArg (fun x => (0 : Byte).toNat + 256 * x) (bytesNat_zeros n)).trans rfl

theorem plainFolio_dword (kind : Byte) (marks : List Bool) (n : Nat) (h : 5 ≤ n) : (⟨plainFolio kind, marks⟩ : Folio).dword n = 0 := by
  unfold plainFolio Folio.dword
  rw [List.drop_append, List.drop_eq_nil_of_le (by simp [folioHead]; omega), List.nil_append, List.drop_replicate, List.take_replicate, bytesNat_zeros]
  rfl

theorem plainFolio_reserved (marks : List Bool) :
    (⟨plainFolio 1, marks⟩ : Folio).reservedZero false = true ∧ (⟨plainFolio 2, marks⟩ : Folio).reservedZero true = true := by
  have z := fun k n h => plainFolio_dword k marks n h
  have d : ∀ k ∈ [(1 : Byte), 2], Word.field ((⟨plainFolio k, marks⟩ : Folio).dword 0) 16 16 = 0 ∧ Word.field ((⟨plainFolio k, marks⟩ : Folio).dword 0) 5 3 = 0 ∧
      Word.field ((⟨plainFolio k, marks⟩ : Folio).dword 4) 20 4 = 0 ∧ Word.field ((⟨plainFolio k, marks⟩ : Folio).dword 4) 0 8 = 0 :=
    (by decide +kernel : ∀ k ∈ [(1 : Byte), 2], Word.field ((⟨plainFolio k, []⟩ : Folio).dword 0) 16 16 = 0 ∧
      Word.field ((⟨plainFolio k, []⟩ : Folio).dword 0) 5 3 = 0 ∧
      Word.field ((⟨plainFolio k, []⟩ : Folio).dword 4) 20 4 = 0 ∧ Word.field ((⟨plainFolio k, []⟩ : Folio).dword 4) 0 8 = 0)
  constructor
  · unfold Folio.reservedZero
    simp only [d 1 (by simp)]
    simp (disch := omega) [z, Word.field]
  · unfold Folio.reservedZero
    simp only [d 2 (by simp)]
    simp (disch := omega) [z, Word.field]

/-- Context 0 of the M-core stopped, its folio written at the start of the tile's scratchpad; the current context, at level H, holds its
address in w10 and b in w11. -/
def halted (written : Bool) (b : Nat) : State :=
  let st : Stop := { cause := 0x11, subcode := 0, faultPc := 0, faultAddr := 0, word := 0, resumePc := 4, written := written }
  let c : Ctx := { state := .stopped, launch := 1, act := some {}, actId := 2, stop := some st }
  { lit (rich id) with mem := folioBytes (scratchKey 0 0) 1
                       launches := [(1, { fetchLaunch with record := fetchLaunch.record.set 13 pad0 })]
                       ctxs := [(0, c), (16, scalars pad0 (BitVec.ofNat 64 b) (rich id).me)] }

/-- The same with the save area at physical address 0, which a leaf of 64 GiB maps, and the current context at level S; the folio may be portable. -/
def mapped (written portable : Bool) : State :=
  let s := halted written 0
  let e : TlbEntry := { root := 0x20000, page := 0, pte := 0x307, size := 3, launch := 1 }
  let c := s.ctx 0
  { s with mem := folioBytes 0 (if portable then 2 else 1) ++ [(0x20000, 1), (0x20002, 3), (0x30000, 7), (0x30001, 3)]
           launches := [(1, fetchLaunch)]
           cores := [(0, { utlb := [e] })]
           capsules := [{ cap0 with portable := [0xFFE02021] }]
           ctxs := [(0, { c with stop := c.stop.map (fun x => { x with portable := portable }) }), (16, { (rich id).me with level := .s })] }

theorem get_unlisted {k : Nat} : ∀ {t : Tbl Byte}, (∀ e ∈ t, e.1 ≠ k) → Tbl.get 0 t k = 0
  | [], _ => rfl
  | (j, v) :: r, h => by
    unfold Tbl.get
    rw [if_neg (h _ (List.mem_cons_self ..)), get_unlisted (fun e he => h e (List.mem_cons_of_mem _ he))]

/-- Bytes that memory does not list read as zeros. -/
theorem readBytes_zeros {s : State} (hk : s.lineKey = []) : ∀ (n key : Nat), (∀ e ∈ s.mem, e.1 < key ∨ key + n ≤ e.1) →
    s.readBytes 0 key n = List.replicate n 0
  | 0, _, _ => rfl
  | n + 1, key, h => by
    have hb : s.readByte 0 key = 0 := by
      unfold State.readByte
      simp only [hk]
      exact get_unlisted (fun e he => by have := h e he; omega)
    unfold State.readBytes
    rw [hb, readBytes_zeros hk n (key + 1) (fun e he => by have := h e he; omega)]
    rfl

theorem readBytes_add (s : State) (kid : Nat) : ∀ m key n : Nat, s.readBytes kid key (m + n) = s.readBytes kid key m ++ s.readBytes kid (key + m) n
  | 0, key, n => by simp [State.readBytes]
  | m + 1, key, n => by
    rw [show m + 1 + n = (m + n) + 1 by omega]
    change s.readByte kid key :: s.readBytes kid (key + 1) (m + n) =
      (s.readByte kid key :: s.readBytes kid (key + 1) m) ++ s.readBytes kid (key + (m + 1)) n
    rw [readBytes_add s kid m (key + 1) n, show key + (m + 1) = key + 1 + m by omega]
    rfl

theorem readBytes_blocks (s : State) (key len : Nat) : ∀ n : Nat,
    (List.range n).flatMap (fun i => s.readBytes 0 (key + len * i) len) = s.readBytes 0 key (len * n)
  | 0 => rfl
  | n + 1 => by
    rw [List.range_succ, List.flatMap_append, readBytes_blocks s key len n, Nat.mul_succ, readBytes_add]
    simp

theorem readBytes_head {s : State} {base : Nat} {head : List Byte} (n : Nat) (h2 : s.lineKey = []) (h3 : s.readBytes 0 base 40 = head)
    (h4 : ∀ e ∈ s.mem, e.1 < base + 40 ∨ base + 40 + n ≤ e.1) : s.readBytes 0 base (40 + n) = head ++ List.replicate n 0 := by
  rw [readBytes_add, h3, readBytes_zeros h2 _ _ h4]

theorem readBytes_plain {s : State} {base : Nat} {kind : Byte} (h2 : s.lineKey = []) (h3 : s.readBytes 0 base 40 = folioHead kind)
    (h4 : ∀ e ∈ s.mem, e.1 < base + 40 ∨ base + 40 + 18392 ≤ e.1) : s.readBytes 0 base (40 + 18392) = plainFolio kind :=
  readBytes_head 18392 h2 h3 h4

/-- A folio of zeros after its first five dwords, read in parts of one length. -/
theorem readFolio_of {s : State} {k : Nat} {va : Word} {kind : Byte} {q : State → Bool} (len n base : Nat) (hl : len * n = 40 + 18392)
    (h : (match s.locate k .load va 18432 with
      | .ok (ps, u) => decide (ps.map (fun p => (p.kid, p.key, p.len)) = (List.range n).map (fun i => (0, base + len * i, len))) &&
          decide (u.lineKey = []) && decide (u.readBytes 0 base 40 = folioHead kind) &&
          u.mem.all (fun e => decide (e.1 < base + 40) || decide (base + 40 + 18392 ≤ e.1)) && q u
      | .error _ => false) = true) :
    ∃ marks u, s.readFolio k va = some (⟨plainFolio kind, marks⟩, u) ∧ q u = true := by
  unfold State.readFolio
  cases e : s.locate k .load va 18432 with
  | error f => rw [e] at h; simp at h
  | ok p =>
    obtain ⟨ps, u⟩ := p
    rw [e] at h
    simp only [Bool.and_eq_true, Bool.or_eq_true, decide_eq_true_eq, List.all_eq_true] at h
    obtain ⟨⟨⟨⟨h1, h2⟩, h3⟩, h4⟩, h5⟩ := h
    have hb : ps.flatMap (fun p => u.readBytes p.kid p.key p.len) = plainFolio kind := by
      have : ps.flatMap (fun p => u.readBytes p.kid p.key p.len) =
          (ps.map (fun p => (p.kid, p.key, p.len))).flatMap (fun x => u.readBytes x.1 x.2.1 x.2.2) := by simp [List.flatMap_map]
      rw [this, h1, List.flatMap_map, readBytes_blocks, hl]
      exact readBytes_plain h2 h3 h4
    exact ⟨_, u, by simp only; rw [hb], h5⟩

theorem wit_ResumeAndDiscard :
    (∀ s ∈ [halted true 0, halted true 1, halted false 0, halted true 2, mapped true false, mapped true true, mapped false false],
      Ready s { reads := [10, 11], writes := [9] } ∧ s.gated true = false ∧ s.outstanding s.cur 4 = [] ∧ s.isFrozen 0 = false ∧
        (s.tile 0).checking = false ∧ (s.ctx 0).stop.isSome = true ∧ (s.ctx 0).act = some {} ∧ (s.ctx 0).region = none) ∧
    (∀ s ∈ [mapped true false, mapped true true, mapped false false], Ready s { level := .s, reads := [10, 11], writes := [9] } ∧
      s.folioAt (s.reg (10 : BitVec 6)).toNat = some 0 ∧ s.folioVa 0 = some 0 ∧ s.folioAt 8 = none ∧ (s.launchOf 0).bind s.capsuleOf = some
        { cap0 with portable := [0xFFE02021] }) ∧
    (Ready (held (scalars pad0 0)) { reads := [10, 11], writes := [9] } ∧ (held (scalars pad0 0)).gated true = true ∧
      (one { flying with dst := .none, st := true, op := .store [] false, ld := false }).outstanding (rich id).cur 4 ≠ []) ∧
    ((halted true 0).launchOf (halted true 0).cur).bind (fun l => l.folioKey pad0) = some 0 ∧
    ((halted true 0).launchOf (halted true 0).cur).bind (fun l => l.folioKey (pad0 + 8)) = none ∧
    ((halted true 0).ctx (ctxKey 0 0 1)).stop = none ∧
    ((halted true 0).folioHeld (halted true 0).cur pad0 = false ∧ (mapped true false).folioHeld 0 0 = false ∧ (mapped true true).folioHeld 0 0 = false) ∧
    ({ cap0 with portable := [0xFFE02021] } : Capsule).resumePoint 0 = true ∧
    (∀ s ∈ [halted true 0, mapped true false, mapped true true], ∃ st, (s.ctx 0).stop = some st ∧ st.location = 0 ∧ s.mayResume 0 st = true) ∧
    (∃ f u, (halted true 0).readFolio (halted true 0).cur pad0 = some (f, u) ∧ f.reservedZero false = true ∧
      f.blocksOf (u.ctx 0) = true ∧ ∀ st, (u.ctx 0).stop = some st → st.portable = false ∧ u.mayResume 0 st = true) ∧
    (∃ f u, (mapped true false).readFolio 0 0 = some (f, u) ∧ f.reservedZero false = true) ∧
    (∃ f u, (mapped true true).readFolio 0 0 = some (f, u) ∧ f.reservedZero true = true) := by
  have blocks : ∀ m, (⟨plainFolio 1, m⟩ : Folio).blocksOf ((halted true 0).ctx 0) = true := fun m =>
    (by decide +kernel : (⟨plainFolio 1, []⟩ : Folio).blocksOf ((halted true 0).ctx 0) = true)
  iterate 3 refine ⟨by unfold Ready; decide +kernel, ?_⟩
  iterate 5 refine ⟨by decide +kernel, ?_⟩
  refine ⟨?_, ?_, ?_, ?_⟩
  · intro s hs
    obtain ⟨st, h⟩ := Option.isSome_iff_exists.mp
      ((by decide +kernel : ∀ s ∈ [halted true 0, mapped true false, mapped true true], (s.ctx 0).stop.isSome = true) s hs)
    have := (by decide +kernel : ∀ s ∈ [halted true 0, mapped true false, mapped true true],
      (match (s.ctx 0).stop with | some st => decide (st.location = 0) && s.mayResume 0 st | none => true) = true) s hs
    rw [h] at this
    exact ⟨st, h, by simpa using this⟩
  · obtain ⟨m, u, h, e⟩ := readFolio_of (s := halted true 0) (k := (halted true 0).cur) (va := pad0) (kind := 1)
      (q := fun u => decide (u.ctx 0 = (halted true 0).ctx 0) &&
        (match (u.ctx 0).stop with | some st => !st.portable && u.mayResume 0 st | none => true)) 18432 1 (scratchKey 0 0) rfl (by decide +kernel)
    simp only [Bool.and_eq_true, decide_eq_true_eq] at e
    exact ⟨_, u, h, (plainFolio_reserved m).1, by rw [e.1]; exact blocks m, fun st hs => by have := e.2; rw [hs] at this; simpa using this⟩
  · obtain ⟨m, u, h, _⟩ := readFolio_of (s := mapped true false) (k := 0) (va := 0) (kind := 1) (q := fun _ => true) 256 72 0 rfl (by decide +kernel)
    exact ⟨_, u, h, (plainFolio_reserved m).1⟩
  · obtain ⟨m, u, h, _⟩ := readFolio_of (s := mapped true true) (k := 0) (va := 0) (kind := 2) (q := fun _ => true) 256 72 0 rfl (by decide +kernel)
    exact ⟨_, u, h, (plainFolio_reserved m).2⟩

theorem wit_SystemRegistersAndHandlerReads :
    let bound := relaunch (lit (rich (scalars 0 0x10000001))) (fun l => { l with first := some 0, bindings := [(0, 0x10000001, 42)] })
    let shot := { atLevel .s (scalars 1 0) with shoot := { awaited := [8] } }
    let watched := (lit (rich (scalars 63 pad0))).setCluster 0 { monitors := [(63, { launch := some 1 })] }
    let ringed := (lit (rich (scalars 65 2))).setCore 2 { (lit (rich id)).core 2 with cring := [(1, { used := true, launch := 1, seq := 65 })] }
    (sysLevels 4 = none ∧ sysLevels 0x103 ≠ none) ∧
    (Ready bound { writes := [9] } ∧ isTile (unitOf bound.cur) = true ∧
      (bound.launchOf bound.cur).map (·.first) = some (some 0) ∧ (bound.level bound.cur).rank = 0) ∧
    (Ready shot { level := .s, writes := [9] } ∧ Ready shot { level := .s, reads := [10] } ∧ shot.shoot.awaited ≠ []) ∧
    (Ready (atLevel .s (scalars 1 0)) { level := .s, reads := [10] } ∧ (atLevel .s (scalars 1 0)).shoot.awaited = [] ∧
      (atLevel .s (scalars 1 0)).launch? (shootTag 1) = some fetchLaunch ∧ ((atLevel .s id).tile 0).launch = some 1 ∧
      (atLevel .s id).job? 0 = some job0) ∧
    (∀ s ∈ [bound, watched, ringed], Ready s { reads := [10, 11], writes := [9] }) ∧
    ((65 : Nat) % 64 = 1 ∧ (2 : Nat) % 4 ≠ 3) ∧
    ((Tbl.get {} (watched.cluster (clusterOf 0)).monitors 63).launch = some 1 ∧ ∃ ps u, SendsDwords watched pad0 10 ps u) ∧
    ((bound.launchOf bound.cur).bind (fun l => l.bindingOf 0) = some (0x10000001, 42) ∧ (bound.launchOf bound.cur).map bound.parameters = some 1) :=
  ⟨by decide, by unfold Ready; decide +kernel, by unfold Ready; decide +kernel, by unfold Ready; decide +kernel, by unfold Ready; decide +kernel, by decide,
    ⟨by decide +kernel, stores_of (by decide +kernel)⟩, by decide +kernel⟩

/-- A request to seal one unit of 4,096 zeros at 0x50000 into 0x60000 under the tenant key of entry 0. -/
def sealing (b : Word) : State :=
  let s := { atLevel .s (scalars 0x40000 b) with vault := { keys := [(0, some ⟨0, 0, 9⟩)] } }
  (((s.writeDword 0x40000 0x50000).writeDword 0x40008 0x60000).writeDword 0x40010 (BitVec.ofNat 64 (2 ^ 32 + 2 * 2 ^ 28)))

theorem wit_StewardInstructions :
    ((lit (rich id)).level (rich id).cur).rank = 0 ∧ ((atLevel .s id).level (atLevel .s id).cur ≠ .v) ∧
    (Ready (atLevel .s id) { level := .s } ∧ isTile (unitOf (atLevel .s id).cur) = true) ∧
    (let k := ctxKey 1008 0 0
     let s := (({ lit (rich id) with cur := k } : State).setCtx k { state := .ready, sblk := 255 })
     Ready s { level := .s } ∧ isTile (unitOf s.cur) = false ∧ (s.core (coreOf s.cur)).event = false ∧
       ((s.setCore (coreOf s.cur) { event := true }).core (coreOf s.cur)).event = true) ∧
    (Ready (atLevel .s (scalars 0 0)) { level := .s, reads := [10], writes := [9] } ∧ (atLevel .s id).me.region = none ∧
      (atLevel .s (scalars 0 0)).capsule? 0 = some cap0 ∧ (atLevel .s id).capsule? 7 = none ∧ cap0.state = .ready) ∧
    (let s := sealing 0
     Ready s { level := .s, reads := [10, 11], writes := [9] } ∧ s.me.region = none ∧ s.gated true = false ∧ s.outstanding s.cur 4 = [] ∧
       s.reg (11 : BitVec 6) = 0 ∧ s.inHbm 0x40000 64 = true ∧ s.sealHolds (s.sealRequest 0x40000) = true ∧ s.keyHandle 0 0 = some ⟨0, 0, 9⟩ ∧
       s.keyHandle 1 0 = none ∧ (let u := s.unmapWritable (s.sealRequest 0x40000).pages
        u.pagesBusy (s.sealRequest 0x40000).pages = false ∧ u.vault.sealed = [] ∧ u.freeKeyEntry = some 1)) ∧
    (sealing 1).reg (11 : BitVec 6) ≠ 0 ∧
    lastDword (measure 2 0 [List.replicate 4096 0]) ≠ 0 ∧
    (let s := atLevel .v (scalars 524224 64)
     Ready s { level := .v, reads := [10, 11], writes := [9] } ∧ Ready s { level := .v, writes := [9] } ∧ (524224 : Nat) % 64 = 0 ∧
       524224 + 64 ≤ 524288 ∧ isTile (unitOf s.cur) = true ∧ s.txns.any (fun t => t.ctx == s.cur && t.home == .tile 0 && !t.performed) = false) := by
  unfold Ready; decide +kernel

theorem wit_VectorLanes :
    let bad := rich (fun c => { c with vbad := [(0, true)] })
    let full := (rich id).setCore 2 { (rich id).core 2 with cring := [(0, { used := true })] }
    (∀ s ∈ [rich id, bad, full], Ready s { unit := .vector, vreads := [0, 31], vwrites := [31] } ∧
      Ready s { unit := .vector, vreads := [0, 1, 2], vwrites := [2] } ∧ Ready s { unit := .conversion, vreads := [0], vwrites := [1] } ∧
      Ready s { unit := .conversion, data := [31], vwrites := [0] }) ∧
    (let s := rich (fun c => { c with wbad := [(31, true)] })
     Ready s { unit := .conversion, data := [31], vwrites := [0] } ∧ Tbl.get false s.me.wbad 31 = true ∧ s.ringTake.isSome = true) ∧
    Tbl.get false (rich id).me.wbad 31 = false ∧ (rich id).ringTake.isSome = true ∧ full.ringTake = none ∧ [0, 31].any (fun n => Tbl.get false bad.me.vbad n) = true ∧
    [0, 31].any (fun n => Tbl.get false (rich id).me.vbad n) = false := by unfold Ready; decide +kernel

theorem wit_VectorConversions :
    Ready (rich id) { unit := .conversion, vreads := [0], vwrites := [31] } ∧ Tbl.get false (rich id).me.vbad 0 = false ∧
    (rich id).ringTake.isSome = true ∧ (14 : BitVec 6).toNat < 15 ∧ -8257920 ≤ (BitVec.ofInt 32 (-8257920)).toInt ∧
    (BitVec.ofInt 32 8257919).toInt ≤ 8257919 ∧ isNaN32 0x7FC00000 = true ∧ (127 : Nat) < 128 ∧
    [(0x7F800000 : Word32), 0xFF800000, 0x80000000, 0x3A800000].all (fun x => !isNaN32 x) = true ∧ |(0x1000000 : Word32).toInt| ≤ 16777216 := by
  refine ⟨by unfold Ready; decide +kernel, ?_⟩
  and_intros <;> decide +kernel

theorem wit_VectorToMaskAndScalar :
    (∀ need ∈ [({ unit := .vector, vreads := [0, 31] } : Need), { unit := .conversion }, { unit := .conversion, writes := [31] },
        { unit := .conversion, data := [0, 31] }, { unit := .vector, vreads := [31], writes := [0] },
        { unit := .conversion, data := [31], vreads := [0], writes := [9] }, { unit := .conversion, data := [10, 11], vreads := [31], vwrites := [31] },
        { unit := .conversion, vwrites := [0] }, { unit := .conversion, vreads := [0, 1], vwrites := [2] }],
      Ready (rich id) need ∧ (∀ r ∈ need.vreads, Tbl.get false (rich id).me.vbad r = false) ∧
        ∀ r ∈ need.data, Tbl.get false (rich id).me.wbad r = false) ∧ (rich id).ringTake.isSome = true ∧
    (7 : BitVec 3) ≠ 0 ∧ (31 : BitVec 5) ≠ 0 := by unfold Ready; decide +kernel

theorem wit_VectorMemory :
    let at0 := fun (m : BitVec 128) => rich (fun c => { scalars pad0 8 c with m := [(1, m)] })
    let out := rich (scalars (pad0 + 524280) 8)
    Ready (at0 1) { unit := .conversion, reads := [10], vwrites := [31] } ∧ Ready (at0 1) { unit := .conversion, reads := [10], vdata := [31] } ∧
    (∃ ps u, Sends (at0 1) .load (pad0 + BitVec.ofInt 64 (512 * (63 : BitVec 7).toInt)) 512 64 true false ps u ∧ u.ringTake.isSome = true) ∧
    (∃ ps u, Sends (at0 1) .store pad0 512 64 false true ps u ∧ u.ringTake.isSome = true) ∧
    (∀ s ∈ [at0 1, at0 0, out], s.me.region = none ∧ s.gated false = false ∧ Ready s { unit := .conversion, reads := [10, 11], vwrites := [0] } ∧
      Ready s { unit := .conversion, reads := [10, 11], vdata := [0] } ∧ Ready s { unit := .vector, reads := [10], vreads := [4], vwrites := [0] } ∧
      Ready s { unit := .vector, reads := [10], vreads := [4], vdata := [0] } ∧ Ready s { unit := .vector, reads := [10], vreads := [4, 0] } ∧
      s.gated true = false ∧ s.full true false = false ∧ s.full false true = false ∧ s.ringTake.isSome = true) ∧
    (let s := held (scalars pad0 8)
     Ready s { unit := .conversion, reads := [10, 11], vwrites := [0] } ∧ s.gated false = true ∧ s.gated true = true ∧ s.me.region = none ∧
       (rich (fun c => { c with ld := 63 })).full true false = true) ∧
    (let r := (at0 1).locateLanes .load (fun k => pad0 + BitVec.ofNat 64 k * 8) (activeLanes 1)
     r.1.length = 1 ∧ r.2.1 = none ∧ r.2.2.msgHeld (r.1.map (fun l => l.2.home)) = false) ∧
    (out.locateLanes .load (fun k => pad0 + 524280 + BitVec.ofNat 64 k * 8) (activeLanes 3)).2.1.map (·.lane) = some 1 := by
  refine ⟨by unfold Ready; decide +kernel, by unfold Ready; decide +kernel, sends_and (by decide +kernel), sends_and (by decide +kernel),
    by unfold Ready; decide +kernel, by unfold Ready; decide +kernel, by decide +kernel, by decide +kernel⟩

theorem wit_HostRegisterWrites :
    let h := fun (head tail : Nat) => ({ ({} : State) with host := { jqHead := head, jqTail := tail } }).host
    2 ^ (h 0 0).jqSize = 64 ∧ ((0 : Int) - (h 0 0).jqTail - 1) % 64 = 63 ∧ ((63 : Int) - (h 0 0).jqTail) % 64 ≤ 63 ∧
    (h 0 63).jqTail < 64 ∧ ((0 : Int) - (h 0 63).jqTail - 1) % 64 = 0 ∧ 0 < ((0 : Int) - (h 0 63).jqTail) % 64 ∧ (h 0 63).jqHead ≠ (h 0 63).jqTail ∧
    (h 0 0).link = [] ∧ (h 0 63).link = [] ∧
    (h 0 0).spdmReqLen = 0 ∧ (h 0 0).spdmRspLen = 0 ∧ 1 ≤ (4096 : Word).toNat ∧ (4096 : Word).toNat ≤ 4096 ∧ ¬ (4097 : Word).toNat ≤ 4096 ∧
    (let r : LinkReq := ⟨4, 0, 8, some 1⟩
     let s : State := ({ host := { link := [r] } } : State).setSlot 5 { phase := .irrevocable, solid := true, touched := [(homeOf 0, 0)] }
     s.host.link = r :: [] ∧ s.linkHeld r = true) := by decide +kernel

/-- A sealed region of one page that a launch may name. -/
def region0 : SealedRegion :=
  { handle := 7, kind := 2, format := 0, units := 1, measurement := [], key := 2, tenantKey := 9, tenant := 0, pages := [6] }

theorem wit_ResidentSystem :
    let s := { lit (rich id) with vault := { sealed := [region0] } }
    let named := relaunch s (fun l => { l with bindings := [(0, 0x50000000, 7)] })
    (s.shoot.awaited = [] ∧ s.launch? (Word.field (1 : Word) 0 16) = some fetchLaunch) ∧
    (∀ a ∈ [2, 8192, 16384], ({ s with shoot := { awaited := [a] } } : State).shootDrained a = true ∧
      ({ s with shoot := { awaited := [a] } } : State).shootTurn a = true) ∧
    ((s.tile (2 / 4)).launch = some 1 ∧ s.job? fetchLaunch.job = some job0) ∧
    ((Tbl.get {} s.vault.tenants 0).logRead ≤ 0 ∧ 0 ≤ (Tbl.get {} s.vault.tenants 0).logWrite) ∧
    (region0 ∈ s.vault.sealed ∧ ∀ e ∈ s.launches, e.2.state = .retired ∨ (7 : Word) ∉ e.2.models) ∧
    (∃ e ∈ named.launches, e.2.state ≠ .retired ∧ (7 : Word) ∈ e.2.models) ∧
    (s.vault.dormant = false ∧ s.protectedLive = false ∧ (relaunch s (fun l => { l with record := l.record.set 1 2 })).protectedLive = true) ∧
    ({ s with launches := [] } : State).launches = [] ∧
    ({ s with vault := { s.vault with dormant := true } } : State).vault.dormant = true := by decide +kernel

/-- A state that may admit launches of tenant 0, whose sub-mesh is the whole mesh. -/
def served (s : State) : State :=
  { s with host := { s.host with bootStatus := 1 }
           vault := { s.vault with tenants := [(0, { registered := true, mesh := some (0, 0, 6, 6) })] } }

/-- A descriptor at address 0 with one phase, one graph and one launch, whose record is at 0x3000. -/
def oneLaunch : Tbl Byte :=
  [(8, 1), (16, 5), (25, 0x10), (33, 0x20), (0x1000, 1), (0x1009, 0x18), (0x1800, 1), (0x1809, 0x30)]

theorem wit_JobQueueAndJobs :
    let s := { served {} with mem := oneLaunch, host := { jqTail := 1, bootStatus := 1 } }
    let place := s.host.jqBase.toNat + 128 * s.host.jqHead
    let d := s.readDwords place 16
    let far := { s with host := { s.host with jqBase := 0x80000000000 } }
    let l := fun (status : Option Nat) => { fetchLaunch with job := 1, status := status }
    (({} : State).host.jqHead = ({} : State).host.jqTail ∧ s.host.jqHead ≠ s.host.jqTail ∧ s.vault.dormant = false) ∧
    far.inHbm (far.host.jqBase.toNat + 128 * far.host.jqHead) 128 = false ∧
    (s.inHbm place 128 = true ∧ (nth 0 d 4).toNat % 16 = 0 ∧ s.inHbm (nth 0 d 4).toNat 16 = true ∧
      s.readPhases d = some [[⟨[0x3000], []⟩]] ∧ (Tbl.get ({} : Tenant) s.vault.tenants (Word.field (nth 0 d 1) 48 8)).registered = true ∧
      (Tbl.get ({} : Tenant) s.vault.tenants (Word.field (nth 0 d 1) 48 8)).mesh ≠ none ∧ s.host.bootStatus = 1) ∧
    ({ s with mem := [] } : State).readPhases (List.replicate 16 0) = none ∧
    s.host.jqHead ≠ s.host.jqTail ∧ (∀ j ∈ [job0, { job0 with phases := job0.phases ++ job0.phases }, { job0 with fatal := some 5 }, { job0 with cancel := some ⟨3, 0, 0, false⟩ }],
      ({ s with jobs := [(1, j)] } : State).job? 1 = some j ∧ j.status = none ∧ (nth 0 j.desc 4).toNat % 16 = 0) ∧
    (job0.phases.length ≤ job0.phase + 1 ∧ job0.phase + 1 < (job0.phases ++ job0.phases).length) ∧
    (∃ e ∈ ([(1, l none)] : List (Nat × Launch)), e.2.job = 1 ∧ e.2.status = none) ∧ (∀ e ∈ ([(1, l (some 0))] : List (Nat × Launch)), e.2.job = 1 → e.2.status = some 0) ∧
    (∃ e ∈ ([(1, l (some 0)), (2, l (some 1))] : List (Nat × Launch)), e.2.job = 1 ∧ e.2.status ≠ some 0) ∧
    ∀ e ∈ ([(1, l (some 0)), (2, l (some 1))] : List (Nat × Launch)), e.2.job = 1 → e.2.status ≠ none := by decide +kernel

/-- A capsule without parameters. -/
def cap1 : Capsule := { cap0 with refs := [] }

/-- A launch of one tile, waiting, and its record at 0x1000. -/
def await0 : Launch :=
  { addr := 0x1000, record := freshRecord 1 0 0 0, job := 1, phase := 0, graph := 0, index := 0, state := .waiting }

def waiting (l : Launch) (cs : List Capsule) (f : State → State) : State :=
  f { served {} with launches := [(2, l)], jobs := [(1, { job0 with phases := [[⟨[0x1000], []⟩]] })], capsules := cs
                     tiles := [(0, { inService := true })]
                     mem := [(0x1023, 1), (0x1024, 1), (0x1025, 1), (0x1026, 1), (0x102B, 0x40), (0x102C, 0x20)] }

/-- A capsule with a slot bound at launch, and a launch record that gives it 5. -/
def cap2 : Capsule := { cap1 with portable := [0x23], slots := [⟨[0], 0, 1⟩] }

def slotted (f : State → State) : State :=
  waiting await0 [cap2] (fun s => f { s with mem := s.mem ++ [(0x1049, 0x40), (0x1050, 1), (0x4003, 0x80), (0x4008, 5)] })

/-- The same launch for a protected world under the key of entry 0. -/
def secret (indices : Tbl Nat) : State :=
  waiting await0 [cap1] (fun s => { s with vault := { s.vault with keys := [(0, some ⟨0, 0, 9⟩)], indices := indices }
                                           mem := (0x1008, 2) :: s.mem })

/-- The launch after its admission. -/
def placing0 : Launch :=
  { await0 with state := .placing, record := copiedRecord await0.record ((waiting await0 [] id).readDwords 0x1000 32) 0 }

theorem wit_LaunchesPlaced :
    let s := waiting await0 [cap1] id
    let r := s.readDwords 0x1000 32
    let p := waiting placing0 [cap1] id
    let parked : Msg := { id := 5, ctx := none, dest := 0, launch := 2, words := [0] }
    let gone := { placing0 with state := .absent, parked := [parked] }
    let back := { gone with returning := true }
    ((∀ x ∈ [s, waiting await0 [] id, waiting await0 [{ cap1 with state := .void }] id, waiting await0 [{ cap1 with state := .installing }] id, waiting await0 [{ cap1 with state := .retired }] id,
        waiting await0 [cap0] id, waiting await0 [cap1] (fun s => { s with mem := [] })],
      x.launch? 2 = some await0 ∧ x.job? 1 = some { job0 with phases := [[⟨[0x1000], []⟩]] } ∧ x.admissionStopped = false ∧
      x.isReady await0 { job0 with phases := [[⟨[0x1000], []⟩]] } = true)) ∧
    recordHolds r = true ∧ recordHolds (({} : State).readDwords 0x1000 32) = false ∧ (waiting await0 [] id).capsule? (nth 0 r 0) = none ∧
    (s.capsule? (nth 0 r 0) = some cap1 ∧ s.admissionRefusal r cap1 0 (s.readEntries r) = none ∧
      s.admissionRefusal r cap0 0 (s.readEntries r) = some (5, "bindings")) ∧
    (∀ x ∈ [s, secret [], secret ((List.range 63).map (fun i => (i + 1, 7))), slotted id, slotted (fun s => { s with pages := 8388608 }),
        slotted (fun s => { s with bodies := [⟨3, 0, [(0, 5)], false, [9]⟩] })],
      x.launch? 2 = some await0 ∧ recordHolds (x.readDwords 0x1000 32) = true ∧
        (x.capsule? 0).all (fun c => (x.admissionRefusal (x.readDwords 0x1000 32) c 0 (x.readEntries (x.readDwords 0x1000 32))).isNone) = true ∧
        (x.capsule? 0).isSome = true ∧ (x.capsule? 0).map (·.state) = some .ready) ∧
    (let y : Launch := { await0 with record := copiedRecord await0.record ((secret []).readDwords 0x1000 32) 0 }
     (secret []).keysFree y = true ∧ (secret ((List.range 63).map (fun i => (i + 1, 7)))).keysFree y = false) ∧
    (cap2.bindsSlots = true ∧ cap1.bindsSlots = false ∧ (slotted id).bindable cap2 [(0, 5)] = true ∧
      slotEntries ((slotted id).readEntries ((slotted id).readDwords 0x1000 32)) = [(0, 5)] ∧
      (slotted (fun s => { s with pages := 8388608 })).bindable cap2 [(0, 5)] = false ∧
      (slotted (fun s => { s with bodies := [⟨3, 0, [(0, 5)], false, [9]⟩] })).sharedBody cap2 [(0, 5)] = some ⟨3, 0, [(0, 5)], false, [9]⟩) ∧
    s.isReady await0 { job0 with phases := [[⟨[0x1000, 0x2000], [(1, 0)]⟩]] } = false ∧ ({} : State).admissionStopped = true ∧
    (p.launch? 2 = some placing0 ∧ p.feasible placing0.record (placing0.field 1 8 8) = true ∧ p.choiceHolds 2 placing0 [[1]] = false ∧
      p.choiceHolds 2 placing0 [[0]] = true ∧ (∀ u ∈ [[0]].flatten, p.tileFree u = true ∧ ∀ e ∈ p.launches, e.1 ≠ 2 → u ∉ e.2.held) ∧
      placing0.poolBytes = 0 ∧ p.capsuleOf placing0 = some cap1 ∧ cap1.state = .ready ∧ p.blocksLeft (placing0.stackPages + 1) = true) ∧
    (waiting placing0 [cap1] (fun s => { s with tiles := [] })).feasible placing0.record (placing0.field 1 8 8) = false ∧
    (gone.parked ≠ [] ∧ gone.returning = false ∧ gone.state = .absent) ∧
    ((waiting back [cap1] id).capsuleOf back = some cap1 ∧ (waiting back [cap1] id).vault.dormant = false ∧ (waiting back [cap1] id).falling = false ∧
      (waiting back [cap1] id).returnHolds 2 back [[0]] = true ∧ back.poolBytes = 0) := by decide +kernel

theorem wit_LaunchesEnded :
    let l : Launch := { fetchLaunch with sample := some 0 }
    let late : Nat → Launch → State := fun n l => { lit (rich id) with cycle := n, launches := [(1, l)] }
    let rest : Launch → State := fun l => { served {} with cycle := 1024, launches := [(1, l)], capsules := [cap0], tiles := [(0, { launch := some 1 })] }
    let cancel : Cancel := ⟨3, 0, 0, false⟩
    (∃ s : State, s.launch? 1 = some { fetchLaunch with state := .ended } ∧ s.accessesFly { fetchLaunch with state := .ended } = false ∧
      (one { flying with ctx := 0 }).accessesFly { fetchLaunch with state := .ended } = true ∧
      (Tbl.get {} s.vault.tenants (fetchLaunch.field 1 8 8)).logBase + 256 * (Tbl.get {} s.vault.tenants (fetchLaunch.field 1 8 8)).logSize ≤ 2 ^ 52) ∧
    ((late 0 fetchLaunch).allWritten (((late 0 fetchLaunch).placedLaunches 0).flatMap (fun e => e.2.ctxKeys)) = false ∧
      ({ late 0 fetchLaunch with ctxs := [] } : State).allWritten (((late 0 fetchLaunch).placedLaunches 0).flatMap (fun e => e.2.ctxKeys)) = true) ∧
    (((late 0 fetchLaunch).job? fetchLaunch.job = some job0 ∧ job0.dlLeft ≠ 0) ∧ ({ job0 with dlLeft := 0 } : Job).dlLeft = 0 ∧ job0.status = none) ∧
    ((late 65535 { l with cancel := some cancel }).cycle < cancel.since + 65536 ∧
      cancel.since + 65536 ≤ (late 65536 { l with cancel := some cancel }).cycle ∧ cancel.graceOver = false ∧
      ((late 65536 l).capsuleOf l).bind (fun (p : Capsule) => assoc p.traps 4) = some 0) ∧
    ((rest l).launch? 1 = some l ∧ (rest l).launchIdle 1 l = true ∧ (rest l).trueFloor 1 l = 0x100000000 ∧ l.domainIdle = true ∧ l.peers = [] ∧
      0 + 1024 ≤ (rest l).cycle ∧ l.endSent = false ∧ l.cancel = none ∧
      ∀ e, (rest l).handler? 1 (l.field 6 16 12) = some e → e.role ≤ 3) ∧
    (let x := { l with peers := [⟨1, 0x100000000, 0, true, 0, 0⟩] }
     let t : State := { rest x with cycle := 7000 }
     t.launchIdle 1 x = true ∧ t.trueFloor 1 x = 0x100000000 ∧ x.domainIdle = true ∧ x.peers ≠ [] ∧ 0 + 7000 ≤ t.cycle ∧ x.sample = some 0) ∧
    (late 0 l).launchIdle 1 l = false := by
  refine ⟨⟨{ launches := [(1, { fetchLaunch with state := .ended })] }, by decide +kernel⟩, by decide +kernel, by decide +kernel, by decide +kernel, ?_,
    by decide +kernel, by decide +kernel⟩
  iterate 8 refine ⟨by decide +kernel, ?_⟩
  have h : (({ served {} with cycle := 1024, launches := [(1, { fetchLaunch with sample := some 0 })], capsules := [cap0], tiles := [(0, { launch := some 1 })] } : State).handler? 1
    (Launch.field { fetchLaunch with sample := some 0 } 6 16 12)).all (fun e => decide (e.role ≤ 3)) = true := by decide +kernel
  intro e he
  rw [he] at h
  simpa using h

/-- A capsule of one handler, 200 bytes. -/
def capsuleBytes : List Byte :=
  ([0x5041434B00400001, 2 + 2 * 2 ^ 32, 64, 128, 200, 0, 0, 0, 1, 176, 8, 0, 2, 184, 16, 0, 1, 6, 0x0000000000020002, 2, 1, 0, 0x0000008500300033,
    0x03000001, 0] : List Nat).flatMap (natBytes 8)

/-- The digest of FIPS 180-4's example abc ends in this dword. -/
theorem test_sha384_abc : lastDword (sha384 [0x61, 0x62, 0x63]) = 0x58BAECA134C825A7 := by decide +kernel

theorem wit_CapsulesAndBodies :
    let s : State := {}
    let live : SlotEntry := ⟨[0], 0, 2⟩
    let c : Capsule := { cap1 with portable := [0x23], slots := [live] }
    let withCap : Capsule → LaunchState → State := fun c st => { capsules := [c], launches := [(1, { fetchLaunch with state := st, forRebuild := true })] }
    let aged : State := { cycle := 1048576, launches := [(1, fetchLaunch)], ctxs := [(16, { state := .ready, launch := 1, act := some {}, drainReq := some 0 })] }
    ([] : List Byte).length < 64 ∧ (s.installStatus [] [] {} ≠ 0 ∧ capSigned capsuleBytes = false) ∧
    (s.installStatus capsuleBytes [] {} = 0 ∧ s.capsule? (accessionOf capsuleBytes) = none) ∧
    (∀ st ∈ [CapsuleState.retired, .ready],
      let u : State := { capsules := [{ cap1 with accession := accessionOf capsuleBytes, state := st, bytes := capsuleBytes }] }
      u.installStatus capsuleBytes [] {} = 0 ∧ (u.capsule? (accessionOf capsuleBytes)).map (·.state) = some st) ∧
    (s.capsule? 0 = none ∧ (withCap cap1 .retired).capsule? 0 = some cap1 ∧ cap1.state = .ready ∧
      (∃ e ∈ (withCap cap1 .resident).launches, nth 0 e.2.record 0 = 0 ∧ e.2.state ≠ .retired) ∧
      (∀ e ∈ (withCap cap1 .retired).launches, e.2.state = .retired) ∧
      ∃ e ∈ ({ withCap cap1 .waiting with mem := [(0, 7)] } : State).launches, e.2.state = .waiting ∧ ({ withCap cap1 .waiting with mem := [(0, 7)] } : State).readDword e.2.addr = 7) ∧
    (s.triple.translator = 0 ∧ s.triple.epoch = 0 ∧ (1 : Nat) ≠ s.triple.translator ∧
      ((withCap cap1 .absent).launches.map (·.1)).Nodup ∧
      ∀ e ∈ (withCap cap1 .absent).launches, e.2.state ≠ .resident ∧ (e.2.state = .absent → e.2.forRebuild = true)) ∧
    ((aged.ctx 16).drainReq = some 0 ∧ aged.launchOf 16 = some fetchLaunch ∧ 0 + 1048576 ≤ aged.cycle ∧ (aged.ctx 16).act ≠ none ∧
      (aged.ctx 16).stop = none ∧ ({ aged with cycle := 1048575 } : State).cycle < 0 + 1048576) ∧
    ((withCap { cap1 with state := .rebuilding } .absent).capsule? 0 = some { cap1 with state := .rebuilding }) ∧
    (s.launch? 1 = none ∧ (withCap c .resident).launch? 1 = some { fetchLaunch with state := .resident, forRebuild := true } ∧
      (withCap c .resident).capsuleOf fetchLaunch = some c ∧ c.slots[0]? = some live ∧ live.when_ = 2 ∧
      (∀ e, c.slots[1]? = some e → e.when_ ≠ 2) ∧ slotAllows c.portable.length live 2047 (some (1, 1)) = true ∧
      slotAllows c.portable.length live 2048 (some (1, 1)) = false) := by
  iterate 8 refine ⟨by decide +kernel, ?_⟩
  exact ⟨by decide +kernel, by decide +kernel, by decide +kernel, by decide +kernel, by decide, fun _ h => by simp at h,
    by decide +kernel, by decide +kernel⟩

theorem wit_TilesMovedAndChecked :
    let s : State := served { launches := [(1, fetchLaunch)], tiles := [(0, { launch := some 1, inService := true }), (1, { inService := true })] }
    let sent : State → State := fun s => { s with msgs := [{ id := 5, ctx := some 16, dest := 0, launch := 1, words := [0] }] }
    let old : List Nat → State := fun ms => { s with tiles := [(0, { forward := some 1, markers := ms }), (1, { launch := some 1, inService := true })],
                                                      launches := [(1, { fetchLaunch with units := [1] })] }
    let f : Nat → State := fun v => s.setTile 0 { s.tile 0 with frozen := some v }
    ((s.tile 0).launch = some 1 ∧ s.launch? 1 = some fetchLaunch ∧ (s.tile 0).frozen = none ∧ s.mayMigrate 0 1 fetchLaunch = true ∧
      s.tileFree 1 = true ∧ s.mayMigrate 0 2 fetchLaunch = false ∧ s.allWritten (tileCtxs 0) = true) ∧
    (((f 1).tile 0).frozen = some 1 ∧ (f 1).mayMigrate 0 1 fetchLaunch = true ∧ (∀ k ∈ tileCtxs 0, (f 1).mayFreeze k = true) ∧
      (f 2).mayMigrate 0 2 fetchLaunch = false ∧ Memory.wf (f 1).mem = true ∧ Tbl.wf {} (f 1).ctxs = true) ∧
    (∃ k ∈ tileCtxs 0, ((f 1).setCtx 16 { (f 1).ctx 16 with st := 1, act := some {}, state := .ready }).mayFreeze k = false) ∧
    (s.tile 1).launch = none ∧ (s.tile 1).frozen = none ∧
    (((old []).tile 0).forward = some 1 ∧ 2 ∉ ((old []).tile 0).markers ∧ (old []).msgs = [] ∧
      ∃ m ∈ (sent (old [])).msgs, m.ctx.map coreOf = some 2 ∧ m.dest / 4 = 0) ∧
    (((old []).tile 1).launch = some 1 ∧ (old []).launch? 1 = some { fetchLaunch with units := [1] } ∧
      (∀ a ∈ ({ fetchLaunch with units := [1] } : Launch).agents, a ∈ ((old [4, 5, 6]).tile 0).markers) ∧
      ∃ a ∈ ({ fetchLaunch with units := [1] } : Launch).agents, a ∉ ((old []).tile 0).markers) ∧
    ((s.tile 0).forward = none ∧ (s.tile 0).inService = true ∧ (s.tile 2).inService = false ∧ fetchLaunch.state = .resident) := by decide +kernel

/-- A message of one word for a tile's core. -/
def note0 (dest : Nat) : Msg := { id := 5, ctx := none, dest := dest, launch := 1, words := [head 0 0 0] }

/-- Tile 0 of the launch, its contexts DORMANT, with a message. -/
def posted (m : Msg) (f : State → State) : State :=
  f { served {} with launches := [(1, fetchLaunch)], capsules := [cap0], jobs := [(0, job0)]
                     tiles := [(0, { launch := some 1, inService := true }), (1, { launch := some 1, inService := true })], msgs := [m] }

def stood (core : Nat) (r : RingRec) (s : State) : State := s.setCore core { s.core core with ring := [r], ringW := r.size }

theorem wit_MessagesReceived :
    let r : RingRec := { id := 3, off := 0, size := 16, pad := 0, depth := 0, charge := 16, reserve := none }
    let full := stood 2 { r with charge := fetchLaunch.ringSize } (posted (note0 2) id)
    let held : Msg := { note0 2 with held := true }
    (∀ m ∈ [note0 4032, note0 2, note0 5], (posted m id).msgs.find? (fun x => x.id == 5) = some m ∧ m.admitted = none ∧ m.held = false ∧
      (posted m id).earlierMsg m = false) ∧
    ((note0 4032).dest < 4096 ∧ 288 ≤ (note0 4032).dest / 4) ∧
    ((posted (note0 2) (fun s => s.setTile 0 { forward := some 1 })).tile 0).forward = some 1 ∧
    (∀ s ∈ [posted (note0 2) id, full, posted (note0 2) (fun s => s.setTile 0 {})], (s.tile 0).forward = none ∧ s.isFrozen 0 = false ∧
      s.markerAwaited 0 (note0 2) = false ∧ s.strange (note0 2) 0 = false ∧ s.launch? 1 = some fetchLaunch) ∧
    (((posted (note0 2) (fun s => s.setTile 0 {})).tile 0).launch ≠ some 1 ∧ fetchLaunch.parkedBytes + messageBytes (note0 2).words ≤ 16777216) ∧
    (let s := posted (note0 2) id
     (s.tile 0).launch = some 1 ∧ s.heldAt 2 = [] ∧ s.ringCharge 2 + messageBytes (note0 2).words ≤ fetchLaunch.ringSize - 3640 ∧
       s.admitted 2 = [] ∧ (s.core 2).ringW + messageBytes (note0 2).words ≤ fetchLaunch.ringSize ∧ (s.core 2).ring = [] ∧ s.versions = []) ∧
    (fetchLaunch.ringSize - 3640 < full.ringCharge 2 + (messageBytes (note0 2).words - 520) ∧ full.heldAt 2 = []) ∧
    ((stood 2 { r with charge := fetchLaunch.ringSize } (posted held id)).heldAt 2 = [held] ∧
      (stood 2 { r with charge := fetchLaunch.ringSize } (posted held id)).admission 2 fetchLaunch.ringSize
        (messageBytes held.words) (Word.field (nth 0 held.words 0) 18 3) true = none) ∧
    ((posted held id).admission 2 fetchLaunch.ringSize (messageBytes held.words) (Word.field (nth 0 held.words 0) 18 3) true = some (messageBytes held.words, none)) ∧
    (let s := stood 2 r (posted (note0 5) id)
     s.dispatcher 2 true = some (1, fetchLaunch) ∧ s.idleContext 2 fetchLaunch = some 16 ∧
       (s.core 2).ring.find? (fun x => !x.dispatched) = some r ∧ (s.handler? 1 (Word.field (s.recordWord 0 (fetchLaunch.ringBase 2 + r.off) 0) 0 12)).isSome = true ∧
       ({ s with capsules := [{ cap0 with handlers := [] }] } : State).handler? 1 0 = none) ∧
    ({} : State).dispatcher 2 true = none := by decide +kernel

theorem wit_TasksMoved :
    let r : TaskRec := { header := head 0 0 0, dword1 := 0, arg0 := 3, arg1 := 4, seq := 0, pkg := 0 }
    let two : Launch := { fetchLaunch with units := [0, 1] }
    let s := { posted (note0 5) id with launches := [(1, two)], msgs := [], cycle := 64 }
    let full : Nat → State := fun core => s.setCore core { floor := 0, deque := [r] }
    let fed : State := (full 6).setCore 2 { floor := 0, stealAt := some 0 }
    let waits : State := s.setCore 2 { ring := [{ id := 3, off := 0, size := 16, pad := 0, depth := 0, charge := 16, reserve := none }] }
    let peer : PeerFloor := ⟨1, 0, 5, true, 0, 0⟩
    let far : Launch := { two with peers := [peer] }
    let wait : Launch := { far with asked := some 1, asks := 1 }
    let task : Txn := { flying with op := .tksig, ctx := 16, act := 0, performed := true }
    (∀ t ∈ [full 2, fed, s], t.dispatcher 2 false = some (1, two) ∧ t.idleContext 2 two = some 16 ∧ (t.core 2).ringWaits = false) ∧
    ((full 2).ownTask 2 1 = some r ∧ ((full 2).handler? 1 r.handler).isSome = true ∧ r.isReleased = false ∧ ((full 2).core 2).pushes = [] ∧
      ((full 2).core 2).deque.length ≤ 193) ∧
    (waits.core 2).ringWaits = true ∧ s.signalsAwaited 2 = false ∧ ({ s with txns := [task] } : State).signalsAwaited 2 = true ∧
    ((fed.core 2).stealAt = some 0 ∧ 0 + 64 ≤ fed.cycle ∧ ({ fed with cycle := 63 } : State).cycle < 0 + 64 ∧ fed.nextVictim 2 1 two 1 = true ∧
      fed.nextVictim 2 1 two 0 = false ∧ fed.ownTask 2 1 = none ∧ (fed.core 2).stealAnswer = none ∧ fed.stolen 2 1 1 = some (6, r) ∧
      (fed.setCore 6 {}).stolen 2 1 1 = none ∧ (fed.core 6).pushes = []) ∧
    (∀ a ∈ [some none, some (some r)], ((s.setCore 2 { stealAnswer := a }).core 2).stealAnswer = a ∧
      (s.setCore 2 { stealAnswer := a }).dispatcher 2 false = some (1, two)) ∧
    (let held := waits.setCore 2 { waits.core 2 with stealAnswer := some (some r) }
     let owed := s.setCore 2 { floor := 0, stealAnswer := some (some r) }
     (held.core 2).ringWaits = true ∧ held.dispatcher 2 false = some (1, two) ∧ (owed.core 2).ringWaits = false ∧ r.bucket ≤ owed.bound 2 1 ∧
       owed.bound 2 1 < ({ r with dword1 := 0xFFFFFFFF } : TaskRec).bucket ∧ (owed.setCore 2 { owed.core 2 with stealAnswer := some (some { r with dword1 := 0xFFFFFFFF }) }).dispatcher 2 false = some (1, two)) ∧ ({} : State).dispatcher 2 false = none ∧ ({} : State).coreCancelled 2 = false ∧
    (({ chunks := [⟨0, [r], none⟩] } : Core).lowestChunk = some (⟨0, [r], none⟩, {}) ∧ 64 ≤ (List.replicate 64 r).length ∧
      (List.replicate 63 r).length + [r].length ≤ 192) ∧
    (∀ x ∈ [task, { task with performed := false }, { task with released := some r }, { task with arrived := true }],
      ({ s with txns := [x] } : State).txns.find? (fun t => t.isTask && coreOf t.ctx == 2) = some x) ∧
    (task.arrived = false ∧ (s.release task r).2 = true ∧
      (((s.setCtx 16 { launch := 1 }).setCore 2 { floor := 0, deque := { r with reserve := some 1 } :: List.replicate 248 r }).release task r).2 = false) ∧
    (s.launch? 1 = some two ∧ two.state = .resident ∧ two.cancel = none ∧ s.noInBound 1 two = true ∧ (full 2).noInBound 1 two = false) ∧
    (let t := { s with launches := [(1, far)], cycle := 5600, packages := 2 }
     (∀ a ∈ far.agents, (t.core a).workedAt + 5600 ≤ t.cycle) ∧ (∃ p ∈ far.peers, p.package = 1 ∧ 0 < p.inBound ∧ ∀ q ∈ far.peers, q.inBound ≤ p.inBound) ∧
       (∀ p ∈ [peer], p.package < t.packages ∧ p.package ≠ t.package) ∧ (∃ p ∈ [peer], s.packages ≤ p.package ∨ p.package = s.package) ∧
       (far.asked = none ∧ far.peers ≠ [] ∧ wait.asked = some 1 ∧ 0 < wait.asks ∧ (1 : Nat) ≠ t.package ∧ t.noInBound 1 far = true) ∧
       (wait.state = .resident ∧ wait.peers ≠ [] ∧ t.leastLoaded wait = some 0) ∧ (8 < (List.replicate 9 r).length ∧ far.asked ≠ some 1) ∧
       1 ≤ [r].length ∧ [r].length ≤ 8 ∧ t.leastLoaded far = some 0) := by
  and_intros <;> decide +kernel

/-- A fill of eight bytes of the tile's scratchpad with 5, by a context of the A-core; a collective; a tile task. -/
def fill0 : EngineJob :=
  { id := 9, kind := .copy, ctx := 16, act := 1, launch := 1, va := 0,
    card := ([0x20002, 0, 0x80000000000000, 8, 5, 0, 0, 0] : List Nat).flatMap (natBytes 8), bad := false, revision := 2, unit := 0,
    accepted := true, started := true, runner := none }

def gather0 : EngineJob :=
  { fill0 with kind := .collective, started := false, revision := 1
               card := ([1, 0x10000, 1, 0, 0, 0, 0, 0] : List Nat).flatMap (natBytes 8) }

def task0 : EngineJob := { fill0 with kind := .tileTask, started := false, card := List.replicate 128 0 }

def tabled (js : List EngineJob) : State :=
  { served {} with launches := [(1, fetchLaunch)], capsules := [cap0], tiles := [(0, { launch := some 1, inService := true })]
                   clusters := [(0, { table := js })] }

def jobDone : JobAns Unit → Bool
  | .done _ _ => true
  | .wait => false
  | .fault _ _ _ _ => false

theorem done_of {a : JobAns Unit} (h : jobDone a = true) : ∃ u, a = .done u () := by
  cases a with
  | wait => simp [jobDone] at h
  | fault _ _ _ _ => simp [jobDone] at h
  | done u _ => exact ⟨u, rfl⟩

def row0 : DrainEntry := { order := 0, row := 5, lanes := [], scales := [], user := 6, handler := 0, launch := 1, dispatched := false }

theorem wit_EnginesAtWork :
    let j := { fill0 with started := false }
    let s := tabled [j]
    let e : EngineJob := { task0 with ending := some [] }
    let part : BlkPart := { id := 4, off := 0, len := 8, home := none, kid := 0, key := 0, fault := none, got := some ([1, 2, 3, 4, 5, 6, 7, 8], List.replicate 8 false) }
    let blk : List BlkPart → BlkRead := fun ps => { ctx := 16, act := 1, launch := 1, dst := pad0, src := 0, ctl := 0x200000008, user := 7, parts := ps }
    let load : Word → SlotLoad := fun src =>
      { id := 4, ctx := 16, act := 1, launch := 1, unit := 0, slot := 0, src := src, ox1 := 0, ox2 := 3, seq := 0, pc := 0, word := 0 }
    let w : Weights := ⟨3, [], []⟩
    let mat : MatOp → Tile → State := fun op t => { s with tiles := [(0, { t with launch := some 1, engine := [{ op := op, seq := 0, ctx := 16, act := 1, launch := 1, pc := 0, word := 0 }] })] }
    let shape : Word := BitVec.ofNat 64 (1 + 2 ^ 9 + 2 ^ 17 + 3 * 2 ^ 25)
    ((∀ x ∈ [j, gather0], (tabled [x]).jobEntry 9 = some ([x], x) ∧ x.kind ≠ .tileTask ∧ x.started = false ∧ (tabled [x]).holdsTiles x.launch = true ∧
        (tabled [x]).noEdges x [x] = true ∧ x.cardRevision = x.revision ∧ (if x.kind = .copy then x.copyAllowed else x.collectiveAllowed) = true) ∧
      ({ j with revision := 1 } : EngineJob).cardRevision ≠ 1 ∧
      (tabled [{ fill0 with id := 8 }, j]).noEdges j [{ fill0 with id := 8 }, j] = false) ∧
    ((tabled [e]).jobEntry 9 = some ([e], e) ∧ e.ending = some [] ∧ (tabled [e]).anyUnderWay [] = false) ∧
    ((tabled [fill0]).jobEntry 9 = some ([fill0], fill0) ∧ fill0.copyOp = 2 ∧ Word.field (fill0.dword 3) 0 33 = 8 ∧ fill0.num 2 % 8 = 0 ∧
      fill0.ctx ≠ engineAgent fill0.unit ∧ jobDone (((tabled [fill0]).engineFor 0 1).copyRun fill0) = true ∧
      (match ((tabled [fill0]).engineFor fill0.unit fill0.launch).locate (engineAgent fill0.unit) .store (BitVec.ofNat 64 (fill0.num 2)) 8 with
        | .ok ([p], u) => decide (p.off = 0) && decide (p.len = 8) && u.versions.isEmpty && u.dir.isEmpty && !u.homeHeld p.home &&
            (List.range 8).all (fun i => !u.hardwareOwned (p.key + i))
        | _ => false) = true) ∧
    (∀ ps ∈ [[part], [part, { part with id := 5 }], [{ part with got := none }]],
      ({ s with blks := [blk ps] } : State).blks.find? (fun b => b.parts.any (fun p => p.id == 4)) = some (blk ps) ∧
        (blk ps).parts.find? (fun p => p.id == 4) = some (nth part ps 0) ∧ (nth part ps 0).fault = none ∧ s.launch? 1 = some fetchLaunch ∧
        fetchLaunch.cancel = none ∧ s.versions = [] ∧ s.dir = [] ∧ s.liveRegion (blk ps).region = none ∧
        (List.range 8).all (fun i => !s.hardwareOwned (scratchKey (unitOf (blk ps).ctx) ((blk ps).dst.toNat % 524288 + part.off) + i)) = true) ∧
    (∀ x ∈ [load 0, load 1], 1 ≤ x.width ∧ ({ s with loads := [x] } : State).engineAt 0 0 = true) ∧ (load 0).fieldFault = none ∧ (load 1).fieldFault ≠ none ∧
    ({ s with loads := [load 0, { load 0 with id := 5, seq := 1 }] } : State).engineAt 0 1 = false ∧
    (rowsAllowed 511 1 = true ∧ rowsAllowed 255 2 = false) ∧
    (((mat (.mwld 0) {}).slotWeights 0 0 none).isSome = true ∧ ({} : Tile).consumesBad (.mwld 0) = false) ∧
    (let t : Tile := { shadow := some w, slots := [(0, ⟨.ready, 3, false, 0, 1⟩)] }
     t.mmaWeights = some w ∧ t.mmaFault false .f 0 511 shape = none ∧ t.mmaFault false .f 0 512 shape ≠ none ∧ ({} : Tile).mmaWeights = none ∧
       t.consumesBad (.mma .f 0 511 shape) = false ∧ ({ t with slotBad := [(0, true)] } : Tile).consumesBad (.mma .f 0 511 shape) = true) ∧
    (drainCount 0x101FF = 1 ∧ (mat (.mdrain 0 0x101FF 6 0) {}).drainFault 0 1 0 0x101FF 0 = none ∧ ({} : Tile).freeEntry = some 0 ∧
      ({} : Tile).consumesBad (.mdrain 0 0x101FF 6 0) = false) ∧
    (let d : State := { s with tiles := [(0, { launch := some 1, drain := [(3, some row0)] })] }
     d.dispatcher 2 false = some (1, fetchLaunch) ∧ (d.tile 0).oldestRow = some (3, row0) ∧ d.drainContext 0 fetchLaunch = some 22 ∧
       (d.handler? 1 0).isSome = true ∧ d.freeBlocks 2 1 ≠ 0) ∧
    (let t := tabled [task0]
     (t.cluster 0).table.find? (fun j => (j.kind == .tileTask && !j.started && t.noEdges j [task0]) && (!j.taskAllowed || (t.taskTile 0 [task0] j).isSome)) = some task0 ∧
       task0.taskAllowed = true ∧ ({ task0 with card := List.replicate 24 0 ++ List.replicate 104 1 } : EngineJob).taskAllowed = false ∧
       t.taskTile 0 [task0] task0 = some 0 ∧ task0.taskLoads = [] ∧ t.idleContext 2 fetchLaunch = some 16 ∧
       (t.handler? 1 (Word.field (task0.dword 0) 0 12)).isSome = true) := by
  iterate 9 refine ⟨by decide +kernel, ?_⟩
  refine ⟨⟨?_, by decide +kernel⟩, by decide +kernel, by decide +kernel, by decide +kernel, by decide +kernel⟩
  simp [State.slotWeights, slotTag, State.tile, Tbl.get]

def loadDone : LoadAns → Bool
  | .done _ _ => true
  | .fault _ _ _ _ => false
  | .wait => false

/-- EnginesAtWork's load that reads its source, 16,896 bytes of the tile's scratchpad. -/
theorem wit_EnginesAtWork_load :
    let x : SlotLoad := { id := 4, ctx := 18, act := 1, launch := 1, unit := 0, slot := 0, src := pad0, ox1 := 0, ox2 := 3, seq := 0, pc := 0, word := 0 }
    let s := { lit (rich id) with loads := [x] }
    s.loads.find? (fun y => y.id == 4) = some x ∧ 1 ≤ x.width ∧ s.engineAt 0 0 = true ∧ x.fieldFault = none ∧
    ∃ u sealed_, (s.zeroGroup x).readPieces x false (x.pieces.flatMap Piece.cut) = .done u sealed_ := by
  intro x s
  have h : loadDone ((s.zeroGroup x).readPieces x false (x.pieces.flatMap Piece.cut)) = true := by decide +kernel
  refine ⟨by decide +kernel, by decide +kernel, by decide +kernel, by decide +kernel, ?_⟩
  revert h
  cases (s.zeroGroup x).readPieces x false (x.pieces.flatMap Piece.cut) with
  | done u b => exact fun _ => ⟨u, b, rfl⟩
  | wait => exact fun h => by simp [loadDone] at h
  | fault _ _ _ _ => exact fun h => by simp [loadDone] at h

theorem wit_HardwareAtWork :
    let s := mapped false 2
    let v : Version := ⟨.tile 0, scratchKey 0 0 / 64, 5, 0, 3, [(0, 1), (1, 2)], false, 0, false⟩
    let m := { inRegion .committing (rich id) with versions := [v] }
    let merging := m.setSlot 5 { m.slot 5 with homes := [.tile 0] }
    let rec_ : LateRec := { pc := 8, word := 0, seq := 1, subcause := 4, detail := 0, addr := 0, lane := none }
    let p : PendingLate := ⟨6, 16, 1, 1, rec_⟩
    let late : State := { rich id with lates := [p] }
    let st : Stop := { cause := 0x11, subcode := 0, faultPc := 0, faultAddr := 0, word := 0, resumePc := 4 }
    let stopped : Stop → State := fun st => lit { rich (fun c => { c with stop := some st, state := .stopped }) with schedule := [] }
    let rest : State := { cycle := 4096, tiles := [(0, { inService := true, idleSince := some 0 })] }
    let watch : Nat → State := fun n => { clusters := [(0, { monitors := [(0, { launch := some 1, source := n })] })] }
    ((s.walkTables 0x20000 0x1234).isSome = true ∧ s.walkBad 0x20000 0x1234 = false ∧
      ({ s with bad := [(0x20003, true)] } : State).walkBad 0x20000 0x1234 = true ∧ (s.launches.find? (fun e => e.2.root == 0x20000)).isSome = true ∧
      s.walkTables 0x20000 (2 ^ 46) = none) ∧
    (Tbl.wf {} (inRegion .active (rich id)).dir = true ∧ ((inRegion .active (rich id)).slot 5).phase ≠ .free ∧
      (({ rich id with dir := [(5, { phase := .active }), (6, { phase := .active, pred := 32 })] } : State).slot 6).pred.getLsbD 5 = true) ∧
    ((merging.slot 5).phase = .committing ∧ .tile 0 ∈ (merging.slot 5).homes ∧ (m.slot 5).homes = [] ∧
      merging.versions.filter (fun v => v.slot == 5 && v.home == .tile 0) = [v] ∧ (v.data.map (·.1)).Nodup ∧ ∀ p ∈ v.data, p.1 < 64) ∧
    (late.lates.find? (fun x => x.id == 6) = some p ∧ (late.ctx 16).act = some {} ∧ (late.ctx 16).actId = p.act ∧ late.lateStops 16 = true ∧
      (late.ctx 16).lates = []) ∧
    ((∀ x ∈ [st, { st with held := true }], ((stopped x).ctx 16).stop = some x ∧ x.written = false ∧ (stopped x).folioReady 16 = true ∧
        (stopped x).folioVa 16 ≠ none) ∧ ((stopped st).setCtx 16 { (stopped st).ctx 16 with ld := 1 }).folioReady 16 = false ∧
      (trapClass st.cause).all (fun c => decide (c < 5)) = true ∧ trapClass st.cause ≠ none ∧ st.held = false ∧ ((stopped st).ctx 16).lates = [] ∧ ((stopped st).ctx 16).act = some {} ∧
      (stopped st).launch? 1 = some fetchLaunch ∧ fetchLaunch.cancel = none ∧
      ((stopped st).capsuleOf fetchLaunch).bind (fun (p : Capsule) => assoc p.traps 3) = some 0) ∧
    ((rich id).me.window = none ∧ (rich (fun c => { c with window := some 7 })).me.window = some 7 ∧ (rich id).cycle < 7 ∧
      (rich (fun c => { c with window := some 0 })).me.window = some 0) ∧
    ((rich (fun c => { c with align := some (15, 900, [17]) })).me.align = some (15, 900, [17]) ∧ (rich id).cycle < 900 ∧
      (rich (fun c => { c with align := some (15, 0, [17]), state := .stalled })).me.state = .stalled) ∧
    (isTile 0 = true ∧ rest.tileIdle 0 = true ∧ (rest.tile 0).idleSince = some 0 ∧ 0 + 4096 ≤ rest.cycle ∧ (rich id).tileIdle 0 = false ∧
      (rest.tile 1).idleSince = none) ∧
    (((94 : Nat) < 95 ∧ (109 : Nat) < 110)) ∧
    (∀ n ∈ [9, 11, 12], let m := Tbl.get {} ((watch n).cluster 0).monitors 0
      m.launch ≠ none ∧ m.source = n ∧ (watch n).cycle % 128 = 0 ∧ (watch n).cycle % 1024 = 0) ∧
    (∀ n ∈ [0, 8, 10, 13, 14], (watch n).measured (Tbl.get {} ((watch n).cluster 0).monitors 0).source = false) ∧
    ({ watch 11 with cycle := 128 } : State).measured 11 = false ∧
    (stopped st).sessionHolds 1 = false ∧ ((stopped st).tile 0).checking = false := by
  and_intros <;> decide +kernel

/-- A table of the bytes of a string that are not zero. -/
def bytesAt (bs : List Byte) : Tbl Byte := (bs.zipIdx.filter (fun e => e.1 != 0)).map (fun e => (e.2, e.1))

/-- The mailbox with a message of a code in it, in the secured framing within a session. -/
def mailed (x : SpdmState) (code : Nat) : State :=
  let m : List Byte := [0x12, BitVec.ofNat 8 code, 0, 0]
  let bs := if x.secure then secured x.key 0 x.taken 0 m else m
  { host := { spdmReqLen := bs.length, spdmReq := bytesAt bs }, vault := { mailbox := x } }

/-- An image with two signatures that verify: r = s is the message's hash, the first coordinate of a point P, and the key P - G, so that the
point of R177's verification is G + (P - G). -/
def image0 : Image :=
  let root := 0x1059e14a92e6cae7706cc165b05b412ed9e682690d6e8f3599e1c9d1fc17b3434661275276399e7cd9d5bac91e6ee9fa4b5e33d3a0748fd90deda8716c902d04247ef6450a6ca1f8f241195fb45b7a0ac75a7d97201968ff376cd7256ea2f8b7
  let firmware := 0x1b61dfe7aa374c51011a191e59991438114048b3b282188f5461bc074471dc1654e083a2a8bb38406ead7f9036ba7eb57050883f91d6216e7c3c7d6e58bad3686bbe69b8ee34f17b1ce731c619d29996086f7cd8ef8616b7eafde75e372b30f5
  let e1 := 0x44cf421593aba4b32f1894b3651726c63a3c8c4d6d3f7272beb592494977180eaea106ec44b2db2061b2b1f6e9150a56
  let e2 := 0x37ec492ab703c87fa8d5a29ae51d8a0a0eaa9f3ca2a33d1243c34767c63468ef20092168d764ca4add5f0b464bca806d
  let be := fun (n x : Nat) => (natBytes n x).reverse
  { url := [], body := [0], revision := 1, rootKey := be 96 root, firmwareKey := be 96 firmware, keySignature := be 48 e1 ++ be 48 e1,
    signature := be 48 e2 ++ be 48 e2 }

def fused : Vault := { rootHash := sha384 image0.rootKey, image := some image0 }

theorem wit_VaultSessions :
    let open_ : SpdmState := { established := true, key := 1 }
    let begun : SpdmState := { exchange := true, key := 1 }
    let codes := [0x84, 0xE1, 0xE3, 0x81, 0x82, 0x83, 0xE0, 0xE4, 0xE5, 0xEC]
    let q : KeySlots := { active := some 2, pending := some 3, waiting := [5] }
    let boots : Vault → State := fun v => { vault := v }
    ((({} : State).requested .mailbox 0x84 [0x12, 0x84] = false) ∧ ({} : State).requested .ethernet 0x84 [0x12, 0x85] = false) ∧
    (∀ c ∈ codes, ({} : State).requested .ethernet c [0x12, BitVec.ofNat 8 c] = true ∧
      (mailed {} c).requested .mailbox c [0x12, BitVec.ofNat 8 c, 0, 0] = true) ∧
    (∀ e ∈ [(open_, 0xE4), (begun, 0xE5), (open_, 0xEC)], e.1.secure = true ∧
      (mailed e.1 e.2).requested .mailbox e.2 [0x12, BitVec.ofNat 8 e.2, 0, 0] = true) ∧
    (({} : SpdmState).secure = false ∧ ({} : SpdmState).established = false ∧ ({} : SpdmState).exchange = false) ∧
    ((({} : State).setSession .ethernet begun).session .ethernet = begun ∧ (({} : State).setSession .ethernet open_).session .ethernet = open_) ∧
    (let s : State := { host := { spdmReqLen := 4, spdmReq := [(0, 0x12), (1, 0x84)] }, vault := { mailbox := open_ } }
     s.mailboxFull = true ∧ s.mailboxRequest = none) ∧
    ((mailed {} 0x55).arrived .mailbox [0x12, 0x55, 0, 0] = true ∧ (mailed {} 0x55).mailboxRequest ≠ none ∧
      ({} : State).arrived .ethernet [0x12, 0x55] = true ∧ (0x55 : Nat) ∉ codes ++ [0xEA, 0xEB]) ∧
    (q.pending ≠ none ∧ q.draining = false) ∧
    ((({} : State).setSession .ethernet {}).session .ethernet).secure = false ∧ ((({} : State).setSession .ethernet open_).session .ethernet).secure = true ∧
    (({ active := some 2 } : KeySlots).pending = none ∧ ({ active := some 2 } : KeySlots).active ≠ none) ∧
    (fused.image = some image0 ∧ fused.verifies image0 = true ∧ ({ fused with rootHash := [] } : Vault).verifies image0 = false) ∧
    ((boots { fused with booted := true }).vault.booted = true ∧ ({} : State).vault.image = none ∧
      (boots { fused with retryAt := 1 }).cycle < (boots { fused with retryAt := 1 }).vault.retryAt ∧
      (boots fused).vault.booted = false ∧ (boots fused).vault.retryAt ≤ (boots fused).cycle) ∧
    repairable [5] = true ∧ repairable (List.range 288) = false := by
  and_intros <;> decide +kernel

/-- A request of the protected-transfer channel under the key that a rekey packet of zeros brought. -/
def requested (op len address sequence : Nat) (plain : List Byte) : State :=
  let head := headerBytes [BitVec.ofNat 64 (op * 2 ^ 56 + len), BitVec.ofNat 64 sequence, BitVec.ofNat 64 address, 0]
  let c := gcmSeal (directionKey 1 0) (transferIv sequence 0) head plain
  { mem := bytesAt (head ++ c.2 ++ List.replicate 16 0 ++ c.1)
    host := { ptReqTail := 1, ptRspBase := 0x100000, ptSize := 4 }, vault := { transfer := { active := some 1 } } }

/-- What the request at the head opens to, and a condition on it. -/
def opensTo (s : State) (plain : Option (List Byte)) (c : PtRequest → Bool) : Bool :=
  match s.ptRequest with
  | none => false
  | some r =>
    let opened := (s.vault.transfer.keyOf r.phase).bind (fun k => gcmOpen (directionKey k 0) (transferIv r.sequence 0)
      (headerBytes (r.header.take 4)) r.sealed (headerBytes ((r.header.drop 4).take 2)))
    decide (opened = plain) && c r

theorem wit_ProtectedTransfers :
    let now := fun (s : State) (r : PtRequest) => decide (r.sequence = s.vault.ptNext)
    let eight : List Byte := natBytes 8 5
    ({} : State).ptRequest = none ∧
    (let s := requested 1 0 0 0 []
     opensTo s (some []) (fun r => now s r && r.clean && r.op == 1 && r.register == some (0, 0)) = true) ∧
    (let s := requested 1 0 4 0 []
     opensTo s (some []) (fun r => now s r && r.clean && r.op == 1 && r.register == none) = true) ∧
    (let s := requested 2 8 0x100 0 eight
     opensTo s (some eight) (fun r => now s r && r.clean && r.op == 2 && r.register == some (0, 0x100)) = true) ∧
    (∀ e ∈ [((3 : Nat), eight), (4, ([] : List Byte))],
      (let s := requested e.1 8 0x10000 0 e.2
       opensTo s (some e.2) (fun r => now s r && r.clean && r.op == e.1 && s.ptMemory r && !s.ptHeld && r.length == 8) = true) ∧
      (let s := requested e.1 8 8 0 e.2
       opensTo s (some e.2) (fun r => now s r && r.clean && r.op == e.1 && !s.ptMemory r && !s.ptHeld) = true)) ∧
    (let s : State := { requested 3 8 0x10000 0 eight with
       versions := [{ home := homeOf 0x10000, line := 0x10000 / 64, slot := 0, beginAt := 0, mask := 0, data := [], read := true, kid := 0, bad := false }] }
     (s.setSlot 0 { phase := .irrevocable, solid := true }).ptHeld = true) ∧
    (let key : List Byte := List.replicate 32 7
     let s := requested 5 32 0 0 key
     opensTo s (some key) (fun r => now s r && r.clean && r.op == 5 && (s.vault.transfer.accept r.phase).pending.isNone) = true ∧
     opensTo { s with vault := { transfer := { active := some 1, pending := some 3 } } } (some key)
       (fun r => now s r && r.clean && r.op == 5 && (({ active := some 1, pending := some 3 } : KeySlots).accept r.phase).pending.isSome) = true) ∧
    (let s := requested 5 8 0 0 eight
     opensTo s (some eight) (fun r => now s r && r.clean && r.op == 5) = true) ∧
    (let s := requested 6 0 0 0 []
     opensTo s (some []) (fun r => now s r && !r.clean && r.op == 6) = true) ∧
    (let s := requested 2 8 0x100 1 eight
     opensTo s (some eight) (fun r => !now s r && r.op == 2) = true) ∧
    (let s : State := { requested 2 8 0x100 0 eight with vault := { transfer := { active := some 3 } } }
     opensTo s none (fun r => r.op == 2) = true) := by decide +kernel

theorem wit_ReadroomCommands :
    let job1 : Readroom := { sessions := [(0, { job := some 0, breakpoints := [(1, 4)], nextBreak := 1 })] }
    let s : State := { lit (rich id) with readroom := job1 }
    let shut : State := relaunch s (fun l => { l with record := l.record.set 1 2 })
    let st : Stop := { cause := 0x12, subcode := 0, faultPc := 0, faultAddr := 0, word := 0, resumePc := 4, held := true, written := true }
    let held : State := { halted true 0 with readroom := job1 }
    (({} : State).mine.job = none ∧ (({} : State).session .ethernet).established = false) ∧
    (let t : State := { lit (rich id) with vault := { ethernet := [(0, { established := true })] } }
     (t.session .ethernet).established = true ∧ t.mine.job = none ∧
       t.jobs.find? (fun (e : Nat × Job) => nth 0 e.2.desc 0 == 0 && e.2.status.isNone) = some (0, job0) ∧ t.sessionOf 0 = none ∧
       ({ t with readroom := { sessions := [(1, { job := some 0 })] } } : State).sessionOf 0 ≠ none) ∧
    (s.mine.job = some 0 ∧ (∀ b ∈ s.mine.breakpoints, b.1 ≠ 2) ∧ ∃ b ∈ s.mine.breakpoints, b.1 = 1) ∧
    (16 ∈ s.jobContexts 0 ∧ s.lateStops 16 = true ∧ (s.ctx 16).state ≠ .dormant) ∧
    (∀ k ∈ s.jobContexts 0, ((s.ctx k).act.all (fun a => a.tcb.isNone)) = true) ∧
    (let t := s.setCtx 16 { s.ctx 16 with stop := some st, state := .stopped }
     (t.ctx 16).stop = some st ∧ st.held = true ∧ (t.ctx 16).lates = [] ∧ (t.tile 0).checking = false ∧ t.seenCtx 2 0 = some fetchLaunch ∧ t.seenCtx 2 1 = none) ∧
    (held.seenCtx 0 0).isSome = true ∧
    (s.seenAt 2 = some (1, fetchLaunch) ∧ s.visible 1 fetchLaunch = true ∧ (shut.seenAt 2).all (fun e => !shut.visible e.1 e.2) = true ∧ (shut.seenAt 2).isSome = true) ∧
    (s.seenLaunches.head? = some (1, fetchLaunch) ∧ (({ s with ctxs := [] } : State).readLaunch 1 fetchLaunch pad0 8 true).isSome = true ∧ s.readLaunch 1 fetchLaunch pad0 8 true = none ∧
      s.readLaunch 1 fetchLaunch 2 8 true = none) := by
  decide +kernel

/-- A flit of 240 bytes, with a CRC field and the parity of both. -/
def flitOf (body crc : List Byte) : Flit := ⟨3, body ++ crc ++ natBytes 8 (Config.flitParity (body ++ crc)).toNat⟩

theorem flitOf_corrected {body crc : List Byte} (hb : body.length = 240) (hc : crc.length = 8) :
    flitCorrected (flitOf body crc) = flitOf body crc := by
  have h : (body ++ crc).length = 248 := by simp [hb, hc]
  unfold flitCorrected
  refine if_pos ?_
  change (body ++ crc ++ _).drop 248 = natBytes 8 (Config.flitParity ((body ++ crc ++ _).take 248)).toNat
  rw [List.drop_left' h, List.take_left' h]

theorem flitOf_take {body crc : List Byte} {n : Nat} (h : n ≤ body.length) :
    (flitOf body crc).bytes.take n = body.take n := by
  unfold flitOf
  rw [List.append_assoc]
  exact List.take_append_of_le_length h

theorem flitOf_crc {body crc : List Byte} (hb : body.length = 240) (hc : crc.length = 8) :
    flitCrcHolds (flitOf body crc) = (crc == natBytes 8 (Config.flitCrc body).toNat) := by
  have t : (flitOf body crc).bytes.take 240 = body := by rw [flitOf_take (by omega), List.take_of_length_le (by omega)]
  have d : ((flitOf body crc).bytes.drop 240).take 8 = crc := by
    unfold flitOf
    rw [List.append_assoc, List.drop_left' hb, List.take_left' hc]
  have l : (flitOf body crc).bytes.length = 256 := by simp [flitOf, hb, hc, natBytes]
  unfold flitCrcHolds
  rw [t, d, l]
  rfl

theorem flitOf_payload {body crc : List Byte} {key : List Byte} {i : Nat} (hb : body.length = 240) :
    flitPayload (flitOf body crc) key i =
      gcmOpen key (flitIv (bytesNat (body.take 8)) i) (body.take 16) ((body.drop 16).take 208) ((body.drop 224).take 16) := by
  have d : ∀ m n, m + n ≤ 240 → ((flitOf body crc).bytes.drop m).take n = (body.drop m).take n := by
    intro m n h
    unfold flitOf
    rw [List.append_assoc, List.drop_append_of_le_length (by omega), List.take_append_of_le_length (by simp [hb]; omega)]
  unfold flitPayload flitIndex
  rw [d 16 208 (by decide), d 224 16 (by decide), flitOf_take (by omega), flitOf_take (by omega)]

/-- The header of a flit of packet 0, of a type and a number of flits. -/
def head0 (kind count : Nat) : List Byte := natBytes 8 0 ++ natBytes 8 (kind + count * 16)

/-- Bytes 0 to 239 of the flit. -/
def body0 (kind count : Nat) (c : List Byte × List Byte) : List Byte := head0 kind count ++ (c.1 ++ c.2)

theorem between {a b c : List Byte} {m n : Nat} (ha : a.length = m) (hb : b.length = n) : ((a ++ (b ++ c)).drop m).take n = b := by
  subst ha hb
  simp

theorem body0_parts {k n : Nat} {c : List Byte × List Byte} (h : c.1.length = 208) (h2 : c.2.length = 16) :
    (body0 k n c).length = 240 ∧ (body0 k n c).take 16 = head0 k n ∧ (body0 k n c).take 8 = natBytes 8 0 ∧
      ((body0 k n c).drop 16).take 208 = c.1 ∧ ((body0 k n c).drop 224).take 16 = c.2 := by
  have l : (head0 k n).length = 16 := rfl
  have at0 : (body0 k n c).take 16 = head0 k n := between (a := []) rfl l
  refine ⟨by simp [body0, l, h, h2], at0, ?_, between l h, ?_⟩
  · have := congrArg (List.take 8) at0
    rwa [List.take_take] at this
  · have := between (a := head0 k n ++ c.1) (b := c.2) (c := []) (m := 224) (by simp [l, h]) h2
    simpa [body0] using this

/-- A payload filled up to a flit's 208 bytes. -/
def filled (x : FabricPacket) : List Byte := (List.range 208).map (nth 0 x.payload)

/-- A packet of each type, the message sealed under a stream key of zeros. -/
def samples : List FabricPacket :=
  [.read 0x100 8, .write 0x100 8 [(0, 5)], .atomic 0x100 8 0 3 0, .atomic 0x100 8 10 3 4, sealMessage (List.replicate 32 0) 0 1 [7],
    .collective 9 1 [2]]

/-- A payload closed under a key of zeros; its tag of 16 bytes is the key's (Laws/Cipher.lean). -/
def sealed0 (kind n : Nat) (plain : List Byte) : List Byte × List Byte := gcmSeal (List.replicate 32 0) (flitIv 0 0) (head0 kind n) plain

/-- A flit with the CRC of its body. -/
def made0 (kind n : Nat) (c : List Byte × List Byte) : Flit := flitOf (body0 kind n c) (natBytes 8 (Config.flitCrc (body0 kind n c)).toNat)

theorem made0_header {k n : Nat} {c : List Byte × List Byte} (hk : k ∈ [0, 1, 2, 3, 4, 7]) (hn : n ∈ [1, 2]) (h1 : c.1.length = 208) (h2 : c.2.length = 16) :
    flitCorrected (made0 k n c) = made0 k n c ∧ flitCrcHolds (made0 k n c) = true ∧
      (flitIndex (made0 k n c) = 0 ∧ flitReservedZero (made0 k n c) = true ∧ flitCount (made0 k n c) = n ∧ flitKind (made0 k n c) = k) ∧
      ∀ key, flitPayload (made0 k n c) key 0 = gcmOpen key (flitIv 0 0) (head0 k n) c.1 c.2 := by
  obtain ⟨hb, e16, e8, ec, et⟩ := body0_parts (k := k) (n := n) h1 h2
  have z : bytesNat (natBytes 8 0) = 0 := by decide
  have hc : (natBytes 8 (Config.flitCrc (body0 k n c)).toNat).length = 8 := rfl
  refine ⟨flitOf_corrected hb hc, (flitOf_crc hb hc).trans (beq_self_eq_true _), ?_, fun key => by unfold made0; rw [flitOf_payload hb, e16, e8, ec, et, z]⟩
  unfold flitIndex flitReservedZero flitCount flitKind made0
  rw [flitOf_take (by omega), flitOf_take (by omega), e16, e8]
  exact (by decide +kernel : ∀ k ∈ [0, 1, 2, 3, 4, 7], ∀ n ∈ [1, 2], bytesNat (natBytes 8 0) = 0 ∧
    (field (bytesNat (head0 k n)) 67 1 == 0 && field (bytesNat (head0 k n)) 114 14 == 0) = true ∧
    field (bytesNat (head0 k n)) 68 4 = n ∧ field (bytesNat (head0 k n)) 64 3 = k) k hk n hn

theorem wit_FabricLinks_flit :
    let key : List Byte := List.replicate 32 0
    let good := fun (f : Flit) (k n : Nat) => flitCorrected f = f ∧ flitCrcHolds f = true ∧
      (flitIndex f = 0 ∧ flitReservedZero f = true ∧ flitCount f = n ∧ flitKind f = k)
    (∀ n ∈ [1, 2], ∀ x ∈ samples, let f := made0 x.kind n (sealed0 x.kind n (filled x))
      good f x.kind n ∧ flitPayload f (ratchet "KF-PORT" key 0) 0 = some (filled x) ∧ packetOf x.kind ([] ++ [filled x]).flatten = some x) ∧
    (let f := made0 7 1 (sealed0 7 1 (List.replicate 208 0))
     good f 7 1 ∧ flitPayload f (ratchet "KF-PORT" key 0) 0 = some (List.replicate 208 0) ∧ packetOf 7 (List.replicate 208 0) = none) ∧
    (let f := made0 0 1 (List.replicate 208 0, List.replicate 16 0)
     good f 0 1 ∧ flitPayload f (ratchet "KF-PORT" key 0) 0 = none) ∧
    (∃ crc, flitCrcHolds (flitCorrected (flitOf (body0 0 1 (sealed0 0 1 (List.replicate 208 0))) crc)) = false) ∧
    (∃ ws tag, sealMessage key 0 1 [7] = .message 1 ws tag ∧ openMessage (ratchet "KF-INBOX" key 0) 0 ws tag = some [7] ∧
      openMessage (ratchet "KF-INBOX" key 0) 0 ws [] = none) := by
  have first : ∀ label key, ratchet label key 0 = key := fun _ _ => rfl
  have len : ∀ k n plain, (sealed0 k n plain).1.length = plain.length := fun k n plain => gcmSeal_length ..
  have opens : ∀ k n plain, gcmOpen (List.replicate 32 0) (flitIv 0 0) (head0 k n) (sealed0 k n plain).1 (sealed0 k n plain).2 = some plain :=
    fun k n plain => gcmOpen_gcmSeal ..
  have tags : ∀ n ∈ [1, 2], ∀ x ∈ samples, x.kind ∈ [0, 1, 2, 3, 4, 7] ∧ (sealed0 x.kind n (filled x)).2.length = 16 ∧
      packetOf x.kind ([] ++ [filled x]).flatten = some x := by decide +kernel
  simp only [first]
  refine ⟨fun n hn x hx => ?_, ?_, ?_, ⟨natBytes 8 ((Config.flitCrc (body0 0 1 (sealed0 0 1 (List.replicate 208 0)))).toNat + 1), ?_⟩, ?_⟩
  · obtain ⟨hk, ht, hp⟩ := tags n hn x hx
    obtain ⟨a, b, c, d⟩ := made0_header hk hn ((len x.kind n (filled x)).trans (by simp [filled])) ht
    exact ⟨⟨a, b, c⟩, (d _).trans (opens ..), hp⟩
  · obtain ⟨a, b, c, d⟩ := made0_header (k := 7) (n := 1) (c := sealed0 7 1 (List.replicate 208 0)) (by decide) (by decide)
      ((len 7 1 _).trans List.length_replicate) (by decide +kernel)
    exact ⟨⟨a, b, c⟩, (d _).trans (opens ..), rfl⟩
  · obtain ⟨a, b, c, d⟩ := made0_header (k := 0) (n := 1) (c := (List.replicate 208 0, List.replicate 16 0)) (by decide) (by decide)
      List.length_replicate List.length_replicate
    exact ⟨⟨a, b, c⟩, (d _).trans (by decide +kernel)⟩
  · have hb := (body0_parts (k := 0) (n := 1) (c := sealed0 0 1 (List.replicate 208 0)) ((len 0 1 _).trans List.length_replicate) (by decide +kernel)).1
    rw [flitOf_corrected hb rfl, flitOf_crc hb rfl]
    refine beq_eq_false_iff_ne.mpr (fun h => ?_)
    have h := congrArg BitVec.toNat (List.cons.inj h).1
    simp at h
    omega
  · exact ⟨_, _, rfl, by decide +kernel, by decide +kernel⟩

theorem wit_FabricLinks :
    let ports : Port → State := fun p => { lit (rich id) with ports := [(3, p)] }
    let far : Msg := { note0 (4096 * 2) with launch := 1, left := some 3 }
    (∀ p ∈ [({ up := false } : Port), { retraining := true }], ((ports p).port 3).up = false ∨ ((ports p).port 3).retraining = true) ∧
    (let p := (ports { key := List.replicate 32 0 }).port 3
     p.up = true ∧ p.retraining = false ∧ p.next = 0 ∧ p.parts = [] ∧ p.key = List.replicate 32 0 ∧ ((ports { next := 1 }).port 3).next ≠ 0 ∧
      15 ≤ ((ports { retries := 15 }).port 3).retries ∧ ((ports { retries := 14 }).port 3).retries < 15) ∧
    (∀ pa ∈ [0, 0x7FFFFFFFFF], field pa 39 4 = 0 ∧ pa / 2 ^ 43 = (ports {}).package) ∧
    (ports {}).launch? 1 = some fetchLaunch ∧
    (let s := (ports {}).setStream 0 { key := List.replicate 32 0 }
     (s.stream 0).key = List.replicate 32 0 ∧ (s.stream 0).count = 0) ∧
    (let p : Port := { redirect := some 4, returning := true, out := { waiting := [(9, 0, 3)] } }
     let s : State := { lit (rich id) with ports := [(3, { p with up := false, out := {} }), (4, p)] }
     (s.port 3).redirect = some 4 ∧ (∀ e ∈ (s.port 4).out.waiting, s.unacked e.1 = false) ∧ (s.port 3).redirect ≠ some 3 ∧
       (s.port 4).redirect ≠ some 3) ∧
    (let s : State := { lit (rich id) with ports := [(3, { retraining := true }), (4, { up := false, redirect := some 3 }), (5, { redirect := some 3 })], cycle := 14000000 }
     (s.port 4).redirect = some 3 ∧ (s.port 5).redirect = some 3 ∧ (s.port 5).up = true ∧ (s.port 5).retraining = false ∧ s.nextLive 4 = some 5) ∧
    (let s : State := { ports { retraining := true } with cycle := 14000000 }
     (s.port 3).retraining = true ∧ (s.port 3).since + 14000000 ≤ s.cycle ∧ (ports {}).cycle < ((ports {}).port 3).since + 14000000) ∧
    (let t : State := { ports { retraining := true } with msgs := [far] }
     (t.port 3).retraining = true ∧ fetchLaunch.state = .resident ∧ 1 ∈ t.launchesOn 3) := 
  by and_intros <;> decide +kernel

theorem wit_StepRunsDecoded :
    let s := startAt 0x00B28903 (scalars 2 3)
    let bad := startAt 0xFC000003 id
    let lost := startAt 0 (fun c => { c with pc := 2 })
    let v := fun (x : State) => ({ x.tick 1 with hwTurn := true } : State)
    (∀ x ∈ [s, bad, lost], x.vault.stopped = false ∧ x.schedule = [] ∧ x.hwTurn = false ∧ x.me.state = .ready ∧ x.me.lates = [] ∧
      x.me.drainReq = none ∧ x.readroom.sessions = [] ∧ (v x).expired x.cur = none ∧ (v x).runs x.cur = true) ∧
    (∃ bs i n u, (v s).fetchBytes s.cur s.me.pc = (.ok bs, u) ∧ decode bs = .ok (i, n)) ∧
    (∃ bs e u, (v bad).fetchBytes bad.cur bad.me.pc = (.ok bs, u) ∧ decode bs = .error e) ∧
    (∃ f u, (v lost).fetchBytes lost.cur lost.me.pc = (.error f, u)) ∧
    (encode (.closureRecompute) = none ∧ ({ schedule := [.event .closureRecompute, .turn 5] } : State).schedule = .event .closureRecompute :: [.turn 5]) ∧
    (let w : State := { s with schedule := [.turn s.cur] }
     w.schedule = .turn s.cur :: [] ∧
       (let u : State := { w.tick 1 with schedule := [] }
        ({ u with cur := (u.choiceOf (coreOf s.cur)).getD s.cur } : State).runs ((u.choiceOf (coreOf s.cur)).getD s.cur) = true) ∧
       ({} : State).runs 5 = false) := by
  refine ⟨by decide +kernel, ?_, ?_, fetched_none (by decide +kernel), by decide, by decide +kernel⟩
  · obtain ⟨u, h⟩ := fetched_some (r := ({ (startAt 0x00B28903 (scalars 2 3)).tick 1 with hwTurn := true } : State).fetchBytes
      (startAt 0x00B28903 (scalars 2 3)).cur (startAt 0x00B28903 (scalars 2 3)).me.pc) (bs := [3, 0x89, 0xB2, 0]) (by decide +kernel)
    exact ⟨_, .add 9 10 11, 4, u, h, by decide +kernel⟩
  · obtain ⟨u, h⟩ := fetched_some (r := ({ (startAt 0xFC000003 id).tick 1 with hwTurn := true } : State).fetchBytes (startAt 0xFC000003 id).cur
      (startAt 0xFC000003 id).me.pc) (bs := [3, 0, 0, 0xFC]) (by decide +kernel)
    have hd : (decode [3, 0, 0, 0xFC]).toOption = none := by decide +kernel
    cases e : decode [3, 0, 0, 0xFC] with
    | ok r => rw [e] at hd; cases hd
    | error x => exact ⟨_, x, u, h, e⟩

theorem wit_DecodeEncode : (Instr.svc 14 13 12).wellFormed = true ∧ (encode (.svc 14 13 12)).isSome = true := by decide +kernel

theorem wit_MemoryCanonicalKept : Memory.wf ([] : Tbl Byte) = true ∧ Memory.wf ([(3, 1), (4, 255)] : Tbl Byte) = true ∧
    Memory.wf ([(3, 0)] : Tbl Byte) = false ∧ Memory.wf ([(4, 1), (3, 1)] : Tbl Byte) = false := by decide +kernel

theorem wit_ResetState : ∃ off, off ∉ [0, 0x100, 0x108, 0x110, 0x118, 0x120, 0x200, 0x208, 0x300, 0x400, 0x500, 0x508, 0x600, 0x608, 0x610, 0x618,
    0x620, 0x628, 0x630] ∧ (off < 0x1000 ∨ 0x3000 ≤ off) := ⟨0x638, by decide⟩

end Sys2Proof
end

section
/-!
SUPPORT. The steps that leave the messages on their way and every inbox ring as they were: the abort of regions, a fetch, the stop of a
context.
-/

namespace Sys2Proof.Machine

/-! ## Steps that leave messages and rings as they were -/

/-- The messages on their way, and each core's inbox ring with its write pointer, are the same in two states (R35). -/
structure State.KeepsRings (s t : State) : Prop where
  msgs : t.msgs = s.msgs
  ring : ∀ a, (t.core a).ring = (s.core a).ring
  ringW : ∀ a, (t.core a).ringW = (s.core a).ringW

theorem State.KeepsRings.refl (s : State) : s.KeepsRings s := ⟨rfl, fun _ => rfl, fun _ => rfl⟩

theorem State.KeepsRings.trans {s t u : State} (h : s.KeepsRings t) (g : t.KeepsRings u) : s.KeepsRings u :=
  ⟨g.msgs.trans h.msgs, fun a => (g.ring a).trans (h.ring a), fun a => (g.ringW a).trans (h.ringW a)⟩

theorem State.keepsRings_of_cores {s t : State} (hm : t.msgs = s.msgs) (hc : t.cores = s.cores) : s.KeepsRings t :=
  ⟨hm, fun a => by rw [State.core, State.core, hc], fun a => by rw [State.core, State.core, hc]⟩

theorem State.keepsRings_setCore (s : State) {a : Nat} {c : Core} (hr : c.ring = (s.core a).ring) (hw : c.ringW = (s.core a).ringW) :
    s.KeepsRings (s.setCore a c) := by
  refine ⟨rfl, fun b => ?_, fun b => ?_⟩ <;> by_cases h : b = a
  · rw [h, State.core_setCore, hr]
  · rw [State.core_setCore_other s c h]
  · rw [h, State.core_setCore, hw]
  · rw [State.core_setCore_other s c h]

theorem State.keepsRings_unwait (s : State) (k : Nat) : s.KeepsRings (s.unwait k) :=
  .trans (State.keepsRings_of_cores (t := s.setTile _ _) rfl rfl) (State.keepsRings_setCore _ rfl rfl)

theorem State.keepsRings_lower (s : State) (k act : Nat) (ld st : Bool) : s.KeepsRings (s.lower k act ld st) := by
  unfold State.lower
  dsimp only
  split
  · exact State.keepsRings_of_cores rfl rfl
  · exact .refl s

theorem State.keepsRings_ringRetire (s : State) (core seq : Nat) : s.KeepsRings (s.ringRetire core seq) := by
  unfold State.ringRetire
  dsimp only
  split
  · exact State.keepsRings_setCore s rfl rfl
  · exact .refl s

theorem State.keepsRings_finishTxn (s : State) (t : Txn) : s.KeepsRings (s.finishTxn t) := by
  refine .trans (State.keepsRings_of_cores (t := { s with txns := s.txns.filter (fun u => u.id != t.id) }) rfl rfl) ?_
  unfold State.finishTxn
  dsimp only
  split
  · exact .refl _
  · split
    · exact .trans (State.keepsRings_lower ..) (State.keepsRings_ringRetire ..)
    · exact State.keepsRings_lower ..

theorem State.keepsRings_dropTxns (s : State) (ts : List Txn) : s.KeepsRings (s.dropTxns ts) := by
  induction ts generalizing s with
  | nil => exact .refl s
  | cons t r ih => exact .trans (s.keepsRings_finishTxn t) (ih _)

theorem State.keepsRings_restart (s : State) (k : Nat) : s.KeepsRings (s.restart k) := by
  unfold State.restart
  dsimp only
  split
  · exact .refl s
  · exact ((s.keepsRings_unwait k).trans (State.keepsRings_dropTxns ..)).trans (State.keepsRings_of_cores rfl rfl)

theorem State.keepsRings_restartAll (s : State) (ks : List Nat) : s.KeepsRings (s.restartAll ks) := by
  induction ks generalizing s with
  | nil => exact .refl s
  | cons k r ih => exact .trans (s.keepsRings_restart k) (ih _)

theorem State.keepsRings_changeMonitors (s : State) (cluster tag source : Nat) (f : Monitor → Monitor) :
    s.KeepsRings (s.changeMonitors cluster tag source f) := by
  unfold State.changeMonitors
  dsimp only
  split
  · exact State.keepsRings_of_cores rfl rfl
  · exact .refl s

theorem State.keepsRings_countLaunch (s : State) (tag source : Nat) : s.KeepsRings (s.countLaunch tag source) := by
  unfold State.countLaunch
  split
  · exact State.keepsRings_of_cores rfl rfl
  · exact .refl s

theorem State.keepsRings_countAt (s : State) (k source : Nat) : s.KeepsRings (s.countAt k source) :=
  .trans (State.keepsRings_changeMonitors ..) (State.keepsRings_countLaunch ..)

theorem State.keepsRings_countEach (s : State) (source : Nat) (ks : List Nat) : s.KeepsRings (s.countEach source ks) := by
  induction ks generalizing s with
  | nil => exact .refl s
  | cons k r ih => exact .trans (s.keepsRings_countAt k source) (ih _)

theorem State.keepsRings_freed (s : State) (dir : Tbl DirSlot) (versions : List Version) :
    s.KeepsRings { s with dir := dir, versions := versions } := State.keepsRings_of_cores rfl rfl

/-- The abort of regions, with its cascade, touches neither messages nor rings (R125). -/
theorem State.keepsRings_abortSlots (s : State) (m : BitVec 256) : s.KeepsRings (s.abortSlots m) := by
  unfold State.abortSlots
  refine .trans ?_ (State.keepsRings_restartAll ..)
  exact .trans (s.keepsRings_countEach ..) (State.keepsRings_freed ..)

theorem State.keepsRings_abortReaders (s : State) (home : Home) (key n : Nat) : s.KeepsRings (s.abortReaders home key n) := by
  unfold State.abortReaders
  dsimp only
  split
  · exact .refl s
  · exact s.keepsRings_abortSlots _

/-! ## A fetch -/

/-- What a fetch may change leaves contexts, messages and rings as they were: it fills translation buffers and instruction caches, and
counts errors (R22, R69, R172). -/
structure State.KeepsContexts (s t : State) : Prop extends State.KeepsRings s t where
  ctxs : t.ctxs = s.ctxs

theorem State.KeepsContexts.refl (s : State) : s.KeepsContexts s := ⟨.refl s, rfl⟩

theorem State.KeepsContexts.trans {s t u : State} (h : s.KeepsContexts t) (g : t.KeepsContexts u) : s.KeepsContexts u :=
  ⟨h.toKeepsRings.trans g.toKeepsRings, g.ctxs.trans h.ctxs⟩

theorem State.KeepsContexts.ctx {s t : State} (h : s.KeepsContexts t) (k : Nat) : t.ctx k = s.ctx k := by
  rw [State.ctx, State.ctx, h.ctxs]

theorem Core.setTlb_rings (c : Core) (l : List TlbEntry) (u : Translator) :
    (c.setTlb l u).ring = c.ring ∧ (c.setTlb l u).ringW = c.ringW := by
  cases u <;> exact ⟨rfl, rfl⟩

theorem State.keepsContexts_tlbFill (s : State) (u : Translator) (core : Nat) (e : TlbEntry) : s.KeepsContexts (s.tlbFill u core e) := by
  obtain ⟨hr, hw⟩ := Core.setTlb_rings (s.core core) (e :: (((s.core core).tlbOf u).filter (· ≠ e)).take 31) u
  exact ⟨.trans (s.keepsRings_setCore hr hw) (State.keepsRings_of_cores rfl rfl), rfl⟩

theorem State.keepsContexts_translate {s t : State} {u : Translator} {core root launch va : Nat} {l : Leaf}
    (h : s.translate u core root launch va = some (l, t)) : s.KeepsContexts t := by
  unfold State.translate at h
  split at h
  · cases h
    exact .refl s
  · split at h
    · cases h
    · cases h
      exact s.keepsContexts_tlbFill ..

theorem State.keepsContexts_globalPart {s t : State} {u : Translator} {k va off len : Nat} {a : Access} {p : Part}
    (h : s.globalPart u k a va off len = .ok (p, t)) : s.KeepsContexts t := by
  unfold State.globalPart at h
  split at h
  · split at h
    · cases h
      exact .refl s
    · cases h
  · split at h
    · cases h
    · split at h
      · cases h
      · split at h
        · cases h
        · next translated =>
          dsimp only at h
          split at h
          · cases h
          · cases h
            exact State.keepsContexts_translate translated

theorem State.keepsContexts_globalParts {s t : State} {u : Translator} {k va : Nat} {a : Access} {bs : List (Nat × Nat)} {ps : List Part}
    (h : s.globalParts u k a va bs = .ok (ps, t)) : s.KeepsContexts t := by
  induction bs generalizing s t ps with
  | nil =>
    cases h
    exact .refl s
  | cons b r ih =>
    unfold State.globalParts at h
    split at h
    · cases h
    · next one =>
      split at h
      · cases h
      · next rest =>
        cases h
        exact (State.keepsContexts_globalPart one).trans (ih rest)

theorem State.keepsContexts_locate {s t : State} {k n : Nat} {a : Access} {addr : Word} {ps : List Part}
    (h : s.locate k a addr n = .ok (ps, t)) : s.KeepsContexts t := by
  unfold State.locate State.locateBy at h
  dsimp only at h
  split at h
  · cases h
  · split at h
    · split at h
      · cases h
      · exact State.keepsContexts_globalParts h
    · split at h
      · cases h
      · split at h
        · cases h
          exact .refl s
        · cases h

theorem State.keepsContexts_logError (s : State) (uncorrectable : Bool) : s.KeepsContexts (s.logError uncorrectable) := by
  cases uncorrectable <;> exact ⟨State.keepsRings_of_cores rfl rfl, rfl⟩

theorem State.keepsContexts_noteError (s : State) (f : MemFault) : s.KeepsContexts (s.noteError f) := by
  unfold State.noteError
  split
  · exact s.keepsContexts_logError true
  · exact .refl s

theorem State.keepsContexts_setCore (s : State) {a : Nat} {c : Core} (hr : c.ring = (s.core a).ring) (hw : c.ringW = (s.core a).ringW) :
    s.KeepsContexts (s.setCore a c) := ⟨s.keepsRings_setCore hr hw, rfl⟩

theorem State.keepsContexts_setCluster (s : State) (n : Nat) (q : Cluster) : s.KeepsContexts (s.setCluster n q) :=
  ⟨State.keepsRings_of_cores rfl rfl, rfl⟩

theorem State.keepsContexts_fetchLine (s : State) (core kid line : Nat) : s.KeepsContexts (s.fetchLine core kid line).2 := by
  unfold State.fetchLine
  dsimp only
  split
  · exact .refl s
  · split
    · exact s.keepsContexts_setCore rfl rfl
    · split
      · refine .trans ?_ (State.keepsContexts_setCluster ..)
        exact (s.keepsContexts_logError true).trans (State.keepsContexts_setCore _ rfl rfl)
      · refine .trans ?_ (State.keepsContexts_setCluster ..)
        exact s.keepsContexts_setCore rfl rfl

theorem State.keepsContexts_dropLine (s : State) (core line : Nat) : s.KeepsContexts (s.dropLine core line) := by
  refine .trans ?_ (State.keepsContexts_setCluster ..)
  exact s.keepsContexts_setCore rfl rfl

theorem State.keepsContexts_fetchHalf (s : State) (k : Nat) (va : Word) : s.KeepsContexts (s.fetchHalf k va).2 := by
  unfold State.fetchHalf
  split
  · exact s.keepsContexts_noteError _
  · next p _ u located =>
    have fetched := (State.keepsContexts_locate located).trans (u.keepsContexts_fetchLine (coreOf k) p.kid (p.key / 64))
    dsimp only
    split
    · exact fetched.trans (State.keepsContexts_dropLine ..)
    · exact fetched
  · next located => exact State.keepsContexts_locate located

/-- A fetch leaves contexts, messages and rings as they were (R244). -/
theorem State.keepsContexts_fetchBytes {s t : State} {k : Nat} {va : Word} {r : Except MemFault (List Byte)}
    (h : s.fetchBytes k va = (r, t)) : s.KeepsContexts t := by
  unfold State.fetchBytes at h
  split at h
  · cases h
    exact .refl s
  · have first := s.keepsContexts_fetchHalf k va
    split at h
    · next half =>
      cases h
      rw [half] at first
      exact first
    · next u half =>
      rw [half] at first
      split at h
      · cases h
        exact first
      · have second := u.keepsContexts_fetchHalf k (va + 2)
        split at h
        · next half' =>
          cases h
          rw [half'] at second
          exact first.trans second
        · next half' =>
          cases h
          rw [half'] at second
          exact first.trans second

/-! ## A context that stops -/

theorem State.keepsRings_stopCtx {s : State} {k : Nat} {st : Stop} (hr : (s.ctx k).region = none)
    (ha : ∀ a, (s.ctx k).act = some a → a.tcb = none) : s.KeepsRings (s.stopCtx k st) := by
  have hu : (s.unwait k).ctx k = s.ctx k := rfl
  have stopped (c : Ctx) : s.KeepsRings ((s.unwait k).setCtx k c) :=
    (s.keepsRings_unwait k).trans (State.keepsRings_of_cores rfl rfl)
  unfold State.stopCtx
  simp only [hu, hr]
  split
  · exact stopped _
  · rw [State.ctx_setCtx]
    split
    · next h => simpa [ha _ h] using stopped _
    · exact stopped _

/-- The check of a dispatch's target leaves the context as it is, or stops it with all its registers (R192). -/
theorem State.checkPad_cases {s : State} {k : Nat} (hr : (s.ctx k).region = none) (ha : ∀ a, (s.ctx k).act = some a → a.tcb = none) :
    s.KeepsRings (s.checkPad k) ∧ ((s.checkPad k).ctx k = s.ctx k ∨ ∃ st : Stop,
      (s.checkPad k).ctx k = { s.ctx k with state := .stopped, stop := some st, window := none, align := none }) := by
  have stops : ∀ {t : State} (st : Stop), s.KeepsContexts t → s.KeepsRings (t.stopCtx k st) ∧
      (t.stopCtx k st).ctx k = { s.ctx k with state := .stopped, stop := some st, window := none, align := none } := by
    intro t st kept
    rw [← kept.ctx k] at hr ha ⊢
    exact ⟨kept.toKeepsRings.trans (State.keepsRings_stopCtx hr ha), State.ctx_stopCtx hr ha⟩
  unfold State.checkPad
  dsimp only
  split
  · next fetched =>
    have kept := State.keepsContexts_fetchBytes fetched
    split
    · exact ⟨kept.toKeepsRings, .inl (kept.ctx k)⟩
    · obtain ⟨rings, ctx⟩ := stops _ kept
      exact ⟨rings, .inr ⟨_, ctx⟩⟩
  · next fetched =>
    obtain ⟨rings, ctx⟩ := stops _ (State.keepsContexts_fetchBytes fetched)
    exact ⟨rings, .inr ⟨_, ctx⟩⟩

end Sys2Proof.Machine
end

section
/-!
SUPPORT. What memory holds after a store, what a store and an acknowledgement leave as they were, and the launches read back.
-/

namespace Sys2Proof.Machine

/-! ## Bytes read back after a store -/

/-- A byte stands in memory, its line under a key identity: it reads back under that key (R195). -/
def State.Stands (s : State) (kid a : Nat) (b : Byte) : Prop := Tbl.get 0 s.lineKey (a / 64) = kid ∧ Tbl.get 0 s.mem a = b

theorem State.Stands.readByte {s : State} {kid a : Nat} {b : Byte} (h : s.Stands kid a b) : s.readByte kid a = b :=
  (State.readByte_of_key h.1).trans h.2

theorem State.mem_get_fold_other (f : Nat → Nat) {a : Nat} (l : List (Nat × Byte)) (h : ∀ p ∈ l, a ≠ f p.1) (s : State) :
    Tbl.get 0 (l.foldl (fun (t : State) p => { t with mem := Tbl.set 0 t.mem (f p.1) p.2 }) s).mem a = Tbl.get 0 s.mem a := by
  induction l generalizing s with
  | nil => rfl
  | cons p r ih =>
    rw [List.foldl_cons, ih fun q hq => h q (List.mem_cons_of_mem p hq)]
    exact Tbl.get_set_other (h p List.mem_cons_self) _ p.2

/-- A line brought under a key keeps the bytes of every line that is under that key already. -/
theorem State.Stands.rekeyLine {s : State} {kid a : Nat} {b : Byte} (h : s.Stands kid a b) (line : Nat) :
    (s.rekeyLine kid line).Stands kid a b := by
  unfold State.rekeyLine
  split
  · exact h
  · next hk =>
    have apart : a / 64 ≠ line := fun e => hk (e ▸ h.1)
    refine ⟨?_, ?_⟩
    · dsimp only
      rw [Tbl.get_set_other apart, State.lineKey_fold (fun n => line * 64 + n)]
      exact h.1
    · refine (State.mem_get_fold_other (fun n => line * 64 + n) _ (fun p hp => ?_) s).trans h.2
      have below : p.1 < 64 := List.mem_range.1 (List.of_mem_zip hp).1
      omega

theorem State.Stands.writeByte {s : State} {kid a key : Nat} {b : Byte} (h : s.Stands kid a b) (hne : a ≠ key) (x : Byte) (bad : Bool) :
    (s.writeByte kid key x bad).Stands kid a b :=
  ⟨(h.rekeyLine (key / 64)).1, (State.mem_get_pokeByte_other _ hne x bad).trans (h.rekeyLine (key / 64)).2⟩

theorem State.stands_writeByte (s : State) (kid key : Nat) (b : Byte) (bad : Bool) : (s.writeByte kid key b bad).Stands kid key b :=
  ⟨State.lineKey_rekeyLine s kid (key / 64), State.mem_get_pokeByte _ key b bad⟩

theorem State.Stands.writeBytes {s : State} {kid a key : Nat} {b : Byte} (h : s.Stands kid a b) {l : List (Nat × Byte)}
    (hne : ∀ p ∈ l, a ≠ key + p.1) (bad : Bool) : (s.writeBytes kid key bad l).Stands kid a b := by
  induction l generalizing s with
  | nil => exact h
  | cons p r ih =>
    exact ih (h.writeByte (hne p List.mem_cons_self) p.2 bad) fun q hq => hne q (List.mem_cons_of_mem p hq)

/-- Of bytes stored at distinct offsets each stands at its own. -/
theorem State.stands_writeBytes (s : State) (kid key : Nat) (bad : Bool) {l : List (Nat × Byte)} (hl : (l.map (·.1)).Nodup)
    {p : Nat × Byte} (hp : p ∈ l) : (s.writeBytes kid key bad l).Stands kid (key + p.1) p.2 := by
  induction l generalizing s with
  | nil => cases hp
  | cons q r ih =>
    rw [List.map_cons, List.nodup_cons] at hl
    rcases List.mem_cons.1 hp with rfl | hp
    · refine (s.stands_writeByte kid (key + p.1) p.2 bad).writeBytes (fun x hx e => hl.1 ?_) bad
      exact List.mem_map.2 ⟨x, hx, by omega⟩
    · exact ih _ hl.2 hp

theorem map_fst_enumBytes (bs : List Byte) : (enumBytes bs).map (·.1) = List.range bs.length :=
  List.map_fst_zip (by simp)

theorem mem_enumBytes {bs : List Byte} {i : Nat} (h : i < bs.length) : (i, bs[i]) ∈ enumBytes bs :=
  List.mem_iff_getElem.2 ⟨i, by simpa [enumBytes] using h, by simp [enumBytes]⟩

/-- Each byte of a list stored reads back under the store's key (R195). -/
theorem State.readByte_writeList (s : State) (kid key : Nat) (bad : Bool) {bs : List Byte} {i : Nat} (h : i < bs.length) :
    (s.writeList kid key bad bs).readByte kid (key + i) = bs[i] :=
  (s.stands_writeBytes kid key bad (by rw [map_fst_enumBytes]; exact List.nodup_range) (mem_enumBytes h)).readByte

theorem State.readBytes_writeList (s : State) (kid key : Nat) (bad : Bool) {bs : List Byte} {i n : Nat} (h : i + n ≤ bs.length) :
    (s.writeList kid key bad bs).readBytes kid (key + i) n = (bs.drop i).take n := by
  induction n generalizing i with
  | zero => rw [List.take_zero]; rfl
  | succ n ih =>
    have here : i < bs.length := by omega
    rw [State.readBytes, s.readByte_writeList kid key bad here, Nat.add_assoc, ih (by omega), List.drop_eq_getElem_cons here,
      List.take_succ_cons]

theorem State.readBytes_congr {s t : State} (hm : t.mem = s.mem) (hk : t.lineKey = s.lineKey) (kid key n : Nat) :
    t.readBytes kid key n = s.readBytes kid key n := by
  induction n generalizing key with
  | zero => rfl
  | succ n ih => simp only [State.readBytes, State.readByte, State.lineAs, hm, hk, ih]

theorem natBytes_length (n x : Nat) : (natBytes n x).length = n := by
  induction n generalizing x with
  | zero => rfl
  | succ n ih => rw [natBytes, List.length_cons, ih]

theorem bytesNat_natBytes (n x : Nat) : bytesNat (natBytes n x) = x % 256 ^ n := by
  induction n generalizing x with
  | zero => simp [natBytes, bytesNat, Nat.mod_one]
  | succ n ih => rw [natBytes, bytesNat, ih, BitVec.toNat_ofNat, Nat.pow_succ' (m := 256), Nat.mod_mul (a := 256)]

theorem word_of_natBytes (w : Word) : BitVec.ofNat 64 (bytesNat (natBytes 8 w.toNat)) = w := by
  rw [bytesNat_natBytes, Nat.mod_eq_of_lt (by exact w.isLt), BitVec.ofNat_toNat, BitVec.setWidth_eq]

/-- The bytes of a message's words in their order in memory (R35). -/
def wordBytes (ws : List Word) : List Byte := ws.flatMap (fun w => natBytes 8 w.toNat)

theorem wordBytes_length (ws : List Word) : (wordBytes ws).length = 8 * ws.length := by
  induction ws with
  | nil => rfl
  | cons w r ih => simp only [wordBytes, List.flatMap_cons, List.length_append, natBytes_length, List.length_cons] at ih ⊢; omega

theorem wordBytes_slice {ws : List Word} {i : Nat} (h : i < ws.length) :
    ((wordBytes ws).drop (8 * i)).take 8 = natBytes 8 (nth 0 ws i).toNat := by
  induction ws generalizing i with
  | nil => exact absurd h (Nat.not_lt_zero i)
  | cons w r ih =>
    rw [wordBytes, List.flatMap_cons]
    cases i with
    | zero => rw [Nat.mul_zero, List.drop_zero, List.take_left' (natBytes_length 8 _)]; rfl
    | succ i =>
      rw [show 8 * (i + 1) = 8 + 8 * i by omega, ← List.drop_drop, List.drop_left' (natBytes_length 8 _)]
      exact ih (Nat.lt_of_succ_lt_succ h)

/-- A record's doublewords read as the words written at its place in the scratchpad (R35, R131). -/
theorem State.recordWord_of_written {s t : State} {u off : Nat} {ws : List Word}
    (hm : t.mem = (s.writeList 0 (scratchKey u off) false (wordBytes ws)).mem)
    (hk : t.lineKey = (s.writeList 0 (scratchKey u off) false (wordBytes ws)).lineKey) {i : Nat} (h : i < ws.length) :
    t.recordWord u off i = nth 0 ws i := by
  have place : scratchKey u (off + 8 * i) = scratchKey u off + 8 * i := by unfold scratchKey; omega
  have room : 8 * i + 8 ≤ (wordBytes ws).length := by rw [wordBytes_length]; omega
  rw [State.recordWord, State.readBytes_congr hm hk, place, s.readBytes_writeList 0 _ false room, wordBytes_slice h, word_of_natBytes]

/-! ## A store changes memory alone -/

theorem State.foldMem_frame (f : Nat → Nat) (l : List (Nat × Byte)) (s : State) :
    ∃ mem, l.foldl (fun (t : State) p => { t with mem := Tbl.set 0 t.mem (f p.1) p.2 }) s = { s with mem := mem } := by
  induction l generalizing s with
  | nil => exact ⟨_, rfl⟩
  | cons p r ih =>
    obtain ⟨mem, h⟩ := ih { s with mem := Tbl.set 0 s.mem (f p.1) p.2 }
    exact ⟨mem, h⟩

theorem State.rekeyLine_frame (s : State) (kid line : Nat) :
    ∃ mem lineKey, s.rekeyLine kid line = { s with mem := mem, lineKey := lineKey } := by
  unfold State.rekeyLine
  split
  · exact ⟨_, _, rfl⟩
  · obtain ⟨mem, h⟩ := State.foldMem_frame (fun n => line * 64 + n) (List.zip (List.range 64) (s.lineAs kid line)) s
    dsimp only at h ⊢
    rw [h]
    exact ⟨_, _, rfl⟩

theorem State.writeBytes_frame (s : State) (kid key : Nat) (bad : Bool) (l : List (Nat × Byte)) :
    ∃ mem marks lineKey, s.writeBytes kid key bad l = { s with mem := mem, bad := marks, lineKey := lineKey } := by
  induction l generalizing s with
  | nil => exact ⟨_, _, _, rfl⟩
  | cons p r ih =>
    obtain ⟨mem, lineKey, h⟩ := s.rekeyLine_frame kid ((key + p.1) / 64)
    obtain ⟨mem', marks, lineKey', h'⟩ := ih (s.writeByte kid (key + p.1) p.2 bad)
    refine ⟨mem', marks, lineKey', ?_⟩
    rw [State.writeBytes, h', State.writeByte, h]
    rfl

theorem State.keepsRings_writeList (s : State) (kid key : Nat) (bad : Bool) (bs : List Byte) :
    s.KeepsRings (s.writeList kid key bad bs) := by
  obtain ⟨mem, marks, lineKey, h⟩ := s.writeBytes_frame kid key bad (enumBytes bs)
  rw [State.writeList, h]
  exact State.keepsRings_of_cores rfl rfl

theorem State.keepsRings_writeScratch (s : State) (u off : Nat) (bs : List Byte) : s.KeepsRings (s.writeScratch u off bs) :=
  (s.keepsRings_abortReaders ..).trans (State.keepsRings_writeList ..)

/-! ## Messages and launches -/

theorem State.ackMsg_frame (s : State) (m : Msg) :
    ∃ ctxs, s.ackMsg m = { s with msgs := s.msgs.filter (fun x => x.id != m.id), ctxs := ctxs } := by
  unfold State.ackMsg State.lowerCp State.lower
  dsimp only
  split
  · exact ⟨_, rfl⟩
  · split
    · split <;> exact ⟨_, rfl⟩
    · split <;> exact ⟨_, rfl⟩
    · exact ⟨_, rfl⟩

theorem State.ackMsg_msgs (s : State) (m : Msg) : (s.ackMsg m).msgs = s.msgs.filter (fun x => x.id != m.id) := by
  obtain ⟨ctxs, acked⟩ := s.ackMsg_frame m
  rw [acked]

theorem State.gone_of_filter {t : State} {l : List Msg} {id : Nat} (h : t.msgs = l.filter (fun x => x.id != id)) :
    ∀ x ∈ t.msgs, x.id ≠ id := by
  intro x hx
  rw [h, List.mem_filter] at hx
  simpa using hx.2

theorem assoc_assocSet_self {α : Type} (l : List (Nat × α)) (k : Nat) (x : α) : assoc (assocSet l k x) k = some x := by
  have before : (l.takeWhile (fun entry => entry.1 != k)).find? (fun entry => entry.1 == k) = none := by
    rw [List.find?_eq_none]
    intro e he
    simpa using List.mem_takeWhile_imp he
  simp [assoc, assocSet, List.find?_append, before]

@[simp] theorem State.launch?_setLaunch (s : State) (tag : Nat) (l : Launch) : (s.setLaunch tag l).launch? tag = some l :=
  assoc_assocSet_self ..

theorem assoc_assocSet_other {α : Type} (l : List (Nat × α)) {j k : Nat} (h : j ≠ k) (x : α) :
    assoc (assocSet l k x) j = assoc l j := by
  conv_rhs => rw [← List.takeWhile_append_dropWhile (p := fun entry => entry.1 != k) (l := l)]
  unfold assoc assocSet
  rw [List.find?_append, List.find?_append, List.find?_cons_of_neg (by simpa using Ne.symm h)]
  cases rest : l.dropWhile (fun entry => entry.1 != k) with
  | nil => rfl
  | cons e r =>
    have first : e.1 = k := by
      have := List.head_dropWhile_not (l := l) (fun entry : Nat × α => entry.1 != k) (by simp [rest])
      simpa [rest] using this
    rw [List.tail_cons, List.find?_cons_of_neg (by simpa [first] using Ne.symm h)]

/-- A launch rewritten with its cancel as it was leaves every tile frozen or not, as before (R168, R169). -/
theorem State.isFrozen_setLaunch {s : State} {tag : Nat} {l x : Launch} (hl : s.launch? tag = some l) (hx : x.cancel = l.cancel) (u : Nat) :
    (s.setLaunch tag x).isFrozen u = s.isFrozen u := by
  unfold State.isFrozen
  rw [State.tile_of_setLaunch]
  cases (s.tile u).launch with
  | none => rfl
  | some j =>
    by_cases h : j = tag
    · subst h
      simp [hl, hx]
    · simp only [Option.bind_some]
      rw [show (s.setLaunch tag x).launch? j = s.launch? j from assoc_assocSet_other _ h x]

theorem State.heldAt_setLaunch {s : State} {tag : Nat} {l x : Launch} (hl : s.launch? tag = some l) (hx : x.cancel = l.cancel) (core : Nat) :
    (s.setLaunch tag x).heldAt core = s.heldAt core := by
  simp only [State.heldAt, State.frozenMsg, State.isFrozen_setLaunch hl hx, State.setLaunch_msgs]

end Sys2Proof.Machine
end

section
/-!
SUPPORT. MESSAGE_DELIVERY and HELD_MESSAGE_ADMIT, by where the message stands (R35 to R39, R42, R168, R170).
-/

namespace Sys2Proof.Machine

/-! ## MESSAGE_DELIVERY -/

/-- A message on its way that is neither admitted nor held, and that nothing earlier precedes (R50). -/
structure State.Due (s : State) (id : Nat) (m : Msg) : Prop where
  found : s.msgs.find? (fun x => x.id == id) = some m
  unadmitted : m.admitted = none
  unheld : m.held = false
  unpreceded : s.earlierMsg m = false

theorem State.id_of_found {s : State} {id : Nat} {m : Msg} (h : s.msgs.find? (fun x => x.id == id) = some m) : m.id = id := by
  simpa using List.find?_some h

theorem State.Due.id_eq {s : State} {id : Nat} {m : Msg} (h : s.Due id m) : m.id = id := State.id_of_found h.found

/-- A message within the package goes to its tile, or to the firmware of an agent off the tiles (R23; log entry 17). -/
theorem State.Due.delivery {s : State} {id : Nat} {m : Msg} (h : s.Due id m) (hd : m.dest < 4096) :
    exec (.messageDelivery id) s = .next (if isTile (m.dest / 4) then s.messageAtTile m
      else { s.eventAt (m.dest / 4) with firmware := s.firmware ++ [m] }.ackMsg m) := by
  show execMessageDelivery id s = _
  unfold execMessageDelivery
  simp only [h.found, h.unadmitted, h.unheld, h.unpreceded, Bool.or_self, Bool.false_eq_true, if_false,
    if_neg (show ¬ 16777216 ≤ m.dest by omega), if_neg (show ¬ 4096 ≤ m.dest by omega)]
  split <;> rfl

theorem State.Due.delivery_tile {s : State} {id : Nat} {m : Msg} (h : s.Due id m) (hu : m.dest / 4 < 288) :
    exec (.messageDelivery id) s = .next (s.messageAtTile m) := by
  rw [h.delivery (by omega), if_pos (show isTile _ = true from decide_eq_true hu)]

/-- An agent off the tiles has its firmware take the message, and its event is set (R23, R301). -/
theorem State.Due.toFirmware {s : State} {id : Nat} {m : Msg} (h : s.Due id m) (hd : m.dest < 4096) (hu : 288 ≤ m.dest / 4) :
    ∃ t : State, exec (.messageDelivery id) s = .next t ∧ t.firmware = s.firmware ++ [m] ∧
      (t.core (agentKey (m.dest / 4) 0)).event = true ∧ ∀ x ∈ t.msgs, x.id ≠ id := by
  obtain ⟨ctxs, acked⟩ := State.ackMsg_frame { s.eventAt (m.dest / 4) with firmware := s.firmware ++ [m] } m
  rw [h.delivery hd, if_neg (by simpa [isTile] using hu), acked, h.id_eq]
  refine ⟨_, rfl, rfl, ?_, State.gone_of_filter rfl⟩
  show ((s.eventAt (m.dest / 4)).core (agentKey (m.dest / 4) 0)).event = true
  rw [State.eventAt, State.core_setCore]

/-- The kind of a header that a forwarding entry has written (R26, R168). -/
theorem field_withKind_six (h : Word) : Word.field (withKind h 6) 21 3 = 6 := by
  have kind : (withKind h 6).extractLsb' 21 3 = 6 := by
    rw [withKind, BitVec.extractLsb'_or, BitVec.extractLsb'_and,
      show (0xFFFFFFFFFF1FFFFF : BitVec 64).extractLsb' 21 3 = 0#3 by decide, BitVec.and_zero, BitVec.zero_or]
    decide
  have value := congrArg BitVec.toNat kind
  rw [BitVec.extractLsb'_toNat, Nat.shiftRight_eq_div_pow] at value
  exact value

/-- A forwarding entry re-sends the message to the tile's new place with kind 6 (R168). -/
theorem State.Due.forwards {s : State} {id v : Nat} {m : Msg} (h : s.Due id m) (hu : m.dest / 4 < 288)
    (hv : (s.tile (m.dest / 4)).forward = some v) :
    ∃ t : State, exec (.messageDelivery id) s = .next t ∧ t = { s with msgs := t.msgs, nextId := s.nextId + 1 } ∧
      ∀ x ∈ t.msgs, x.id = id → x.dest = agentKey v (m.dest % 4) ∧ Word.field (nth 0 x.words 0) 21 3 = 6 ∧
        x.words.drop 1 = m.words.drop 1 := by
  rw [h.delivery_tile hu]
  unfold State.messageAtTile
  simp only [hv]
  refine ⟨_, rfl, rfl, fun x hx hid => ?_⟩
  obtain ⟨y, -, rfl⟩ := List.mem_map.1 hx
  by_cases same : y.id = m.id
  · rw [if_pos same]
    exact ⟨rfl, field_withKind_six _, rfl⟩
  · rw [if_neg same] at hid
    exact absurd (hid.trans h.id_eq.symm) same

/-- A message for a launch reaches its tile: no forwarding entry, marker or boundary of a cluster keeps it from there (R96, R168). -/
structure State.Reaches (s : State) (m : Msg) (l : Launch) : Prop where
  onTile : m.dest / 4 < 288
  forward : (s.tile (m.dest / 4)).forward = none
  marker : s.markerAwaited (m.dest / 4) m = false
  admitted : s.strange m (m.dest / 4) = false
  launch : s.launch? m.launch = some l

theorem State.Reaches.messageAtTile {s : State} {m : Msg} {l : Launch} (h : s.Reaches m l) :
    s.messageAtTile m = if (s.tile (m.dest / 4)).launch ≠ some m.launch then s.parkMsg m else
      if l.refuses m then s.parkMsg m else
        (s.setLaunch m.launch { l with sample := none }).arriveMsg (if m.dest % 4 = 3 then
          (s.setLaunch m.launch { l with sample := none }).resolveRole m.launch (m.dest / 4) (Word.field (nth 0 m.words 0) 0 12)
          else m.dest) l m := by
  unfold State.messageAtTile
  simp only [h.forward, h.marker, h.admitted, h.launch, Bool.false_eq_true, if_false]

/-- A message as a launch's overflow store keeps it (R170). -/
def Msg.parkedFor (m : Msg) (l : Launch) (number : Nat) : Msg :=
  { m with dest := l.parkedDest m.dest, cp := none, held := false, admitted := none, parkedAt := some number }

/-- A launch that has not ended and is not being cancelled parks a message that its overflow store has room for (R42, R170). -/
theorem State.parkMsg_of_room {s : State} {m : Msg} {l : Launch} (hl : s.launch? m.launch = some l) (h1 : l.state ≠ .ended)
    (h2 : l.state ≠ .retired) (hc : l.cancel = none) (hb : l.parkedBytes + messageBytes m.words ≤ 16777216) :
    s.parkMsg m = ((s.storeParked l m.words).fresh.setLaunch m.launch
      { l with parked := l.parked ++ [m.parkedFor l s.nextId] }).ackMsg m := by
  unfold State.parkMsg
  simp only [hl]
  rw [if_neg (by simp [h1, h2, hc]), if_neg (Nat.not_lt.2 hb)]
  rfl

/-- A message for a launch that does not hold the tile is parked behind those already parked (R42, R170). -/
theorem State.Due.parks {s : State} {id : Nat} {m : Msg} {l : Launch} (h : s.Due id m) (g : s.Reaches m l)
    (hn : (s.tile (m.dest / 4)).launch ≠ some m.launch) (h1 : l.state ≠ .ended) (h2 : l.state ≠ .retired) (hc : l.cancel = none)
    (hb : l.parkedBytes + messageBytes m.words ≤ 16777216) :
    ∃ (t : State) (l' : Launch), exec (.messageDelivery id) s = .next t ∧ (∀ x ∈ t.msgs, x.id ≠ id) ∧
      t.launch? m.launch = some l' ∧ l'.parked.length = l.parked.length + 1 ∧ l'.parked.take l.parked.length = l.parked ∧
      (nth m l'.parked l.parked.length).words = m.words := by
  obtain ⟨ctxs, acked⟩ := State.ackMsg_frame
    ((s.storeParked l m.words).fresh.setLaunch m.launch { l with parked := l.parked ++ [m.parkedFor l s.nextId] }) m
  rw [h.delivery_tile g.onTile, g.messageAtTile, if_pos hn, State.parkMsg_of_room g.launch h1 h2 hc hb, acked, h.id_eq]
  exact ⟨_, _, rfl, State.gone_of_filter rfl, State.launch?_setLaunch .., by simp, by simp, by simp [nth, Msg.parkedFor]⟩

/-! ## Arrival at a ring -/

/-- A launch takes a message while it is resident and not being cancelled (R42, R48). -/
theorem Launch.refuses_of_resident {l : Launch} (hr : l.state = .resident) (hc : l.cancel = none) (m : Msg) : l.refuses m = false := by
  simp [Launch.refuses, hr, hc]

/-- A message reaches a core of its launch's own tile, which is not frozen, and no message is held at that ring (R37, R39, R168). -/
structure State.AtRing (s : State) (m : Msg) (l : Launch) : Prop extends State.Reaches s m l where
  own : (s.tile (m.dest / 4)).launch = some m.launch
  resident : l.state = .resident
  uncancelled : l.cancel = none
  named : m.dest % 4 ≠ 3
  unfrozen : s.isFrozen (m.dest / 4) = false
  noneHeld : s.heldAt m.dest = []

/-- Such a message is admitted, or held (R37, R39). -/
theorem State.Due.arrives {s : State} {id : Nat} {m : Msg} {l : Launch} (h : s.Due id m) (g : s.AtRing m l) :
    exec (.messageDelivery id) s = .next
      (match s.admission m.dest l.ringSize (messageBytes m.words) (Word.field (nth 0 m.words 0) 18 3) true with
      | some (charge, reserve) => (s.setLaunch m.launch { l with sample := none }).admitMsg m.dest l m charge reserve
      | none => (s.setLaunch m.launch { l with sample := none }).requeue { m with held := true }) := by
  have frozen : (s.setLaunch m.launch { l with sample := none }).frozenMsg m = false := by
    rw [State.frozenMsg, State.isFrozen_setLaunch (x := { l with sample := none }) g.launch rfl, g.unfrozen, Bool.false_and]
  have noneHeld : (s.setLaunch m.launch { l with sample := none }).heldAt m.dest = [] :=
    (State.heldAt_setLaunch (x := { l with sample := none }) g.launch rfl m.dest).trans g.noneHeld
  rw [h.delivery_tile g.onTile, g.messageAtTile, if_neg (not_not.2 g.own), Launch.refuses_of_resident g.resident g.uncancelled,
    if_neg Bool.false_ne_true, if_neg g.named]
  unfold State.arriveMsg
  dsimp only
  rw [frozen, noneHeld, if_neg Bool.false_ne_true]
  rfl

/-- General space that has room is charged the message's bytes (R37). -/
theorem State.admission_general {s : State} {core ring n : Nat} (h : s.ringCharge core + n ≤ ring - 3640) (depth : Nat) :
    s.admission core ring n depth true = some (n, none) := by
  unfold State.admission
  simp [h]

/-- Where not even a message's bytes beyond a reserve have room, it is not admitted (R37). -/
theorem State.admission_none {s : State} {core ring n : Nat} (h : ring - 3640 < s.ringCharge core + (n - 520)) (depth : Nat)
    (general : Bool) : s.admission core ring n depth general = none := by
  have full : ¬ s.ringCharge core + n ≤ ring - 3640 := by omega
  unfold State.admission
  simp [full, Nat.not_le.2 h]

theorem State.requeue_msgs (s : State) (m : Msg) : (s.requeue m).msgs = s.msgs.filter (fun x => x.id != m.id) ++ [m] := rfl

/-- A record is written at the write pointer where its bytes fit before the ring's end and no record or region holds them (R35, R38). -/
theorem State.writeRecord_at_pointer {s : State} {core charge : Nat} {reserve : Option Nat} {l : Launch} {m : Msg}
    (hfit : (s.core core).ringW + messageBytes m.words ≤ l.ringSize)
    (hfree : ∀ r ∈ (s.core core).ring, r.lies l.ringSize (s.core core).ringW ((s.core core).ringW + messageBytes m.words) = false)
    (hline : ∀ lines, s.lineHeld (.tile (core / 4)) lines none = false) :
    ∃ (t : State) (r : RingRec), s.writeRecord core l m charge reserve = some t ∧
      (t.core core).ring = (s.core core).ring ++ [r] ∧
      (t.core core).ringW = ((s.core core).ringW + messageBytes m.words) % l.ringSize ∧
      r = { id := m.id, off := (s.core core).ringW, size := messageBytes m.words, pad := 0,
            depth := Word.field (nth 0 m.words 0) 18 3, charge := charge, reserve := reserve, system := m.system } ∧
      ∀ i < m.words.length, t.recordWord (core / 4) (l.ringBase (core % 4) + r.off) i = nth 0 m.words i := by
  have free : (s.core core).ring.any (fun r => r.lies l.ringSize (s.core core).ringW ((s.core core).ringW + messageBytes m.words)) = false := by
    simpa using hfree
  have kept := s.keepsRings_writeScratch (core / 4) (l.ringBase (core % 4) + (s.core core).ringW) (wordBytes m.words)
  unfold State.writeRecord
  simp only [if_neg (Nat.not_lt.2 hfit), if_true, Nat.lt_irrefl, decide_false, Bool.false_and, Bool.or_false, free, hline,
    Bool.false_eq_true, if_false]
  refine ⟨_, _, rfl, ?_, ?_, rfl, fun i hi => ?_⟩
  · rw [State.core_setCore]
    exact congrArg (· ++ [_]) (kept.ring core)
  · rw [State.core_setCore]
  · exact State.recordWord_of_written rfl rfl hi

/-- A message as it is admitted to a core's ring (R37). -/
def Msg.admittedTo (m : Msg) (core charge : Nat) (reserve : Option Nat) : Msg :=
  { m with dest := core, held := false, admitted := some (charge, reserve) }

/-- A message admitted where none admitted before it waits is written at once (R37, R38). -/
theorem State.admitMsg_written {s t : State} {core charge : Nat} {reserve : Option Nat} {l : Launch} {m : Msg}
    (hfirst : s.admitted core = [])
    (h : (s.requeue (m.admittedTo core charge reserve)).writeRecord core l (m.admittedTo core charge reserve) charge reserve = some t) :
    s.admitMsg core l m charge reserve = t.ackMsg (m.admittedTo core charge reserve) := by
  rw [Msg.admittedTo] at h
  unfold State.admitMsg
  simp only [hfirst, List.isEmpty_nil, if_true, h]
  rfl

/-- A message that general space takes is written at the ring's write pointer, where the ring's bytes there are free (R35, R37, R38). -/
theorem State.Due.writes {s : State} {id : Nat} {m : Msg} {l : Launch} (h : s.Due id m) (g : s.AtRing m l)
    (hroom : s.ringCharge m.dest + messageBytes m.words ≤ l.ringSize - 3640) (hfirst : s.admitted m.dest = [])
    (hfit : (s.core m.dest).ringW + messageBytes m.words ≤ l.ringSize)
    (hfree : ∀ r ∈ (s.core m.dest).ring, r.lies l.ringSize (s.core m.dest).ringW ((s.core m.dest).ringW + messageBytes m.words) = false)
    (hline : ∀ line, s.lineHeld (.tile (m.dest / 4)) line none = false) :
    ∃ (t : State) (r : RingRec), exec (.messageDelivery id) s = .next t ∧ (∀ x ∈ t.msgs, x.id ≠ id) ∧
      (t.core m.dest).ring = (s.core m.dest).ring ++ [r] ∧ r.off = (s.core m.dest).ringW ∧ r.size = messageBytes m.words ∧ r.pad = 0 ∧
      r.charge = messageBytes m.words ∧ r.reserve = none ∧ r.dispatched = false ∧
      (t.core m.dest).ringW = ((s.core m.dest).ringW + messageBytes m.words) % l.ringSize ∧
      ∀ i < m.words.length, t.recordWord (m.dest / 4) (l.ringBase (m.dest % 4) + r.off) i = nth 0 m.words i := by
  obtain ⟨t, r, written, ring, ringW, record, words⟩ := State.writeRecord_at_pointer (l := l) (core := m.dest)
    (s := (s.setLaunch m.launch { l with sample := none }).requeue (m.admittedTo m.dest (messageBytes m.words) none))
    (m := m.admittedTo m.dest (messageBytes m.words) none) (charge := messageBytes m.words) (reserve := none) hfit hfree hline
  obtain ⟨ctxs, acked⟩ := t.ackMsg_frame (m.admittedTo m.dest (messageBytes m.words) none)
  rw [h.arrives g, State.admission_general hroom]
  dsimp only
  rw [State.admitMsg_written (s := s.setLaunch m.launch { l with sample := none }) hfirst written, acked]
  subst record
  exact ⟨_, _, rfl, h.id_eq ▸ State.gone_of_filter rfl, ring, rfl, rfl, rfl, rfl, rfl, rfl, ringW, words⟩

/-- A message that the ring does not take is held, behind the other messages (R39). -/
theorem State.Due.holds {s : State} {id : Nat} {m : Msg} {l : Launch} (h : s.Due id m) (g : s.AtRing m l)
    (hfull : l.ringSize - 3640 < s.ringCharge m.dest + (messageBytes m.words - 520)) :
    ∃ t : State, exec (.messageDelivery id) s = .next t ∧
      t.msgs = s.msgs.filter (fun x => x.id != id) ++ [{ m with held := true }] := by
  rw [h.arrives g, State.admission_none hfull]
  exact ⟨_, rfl, by rw [State.requeue_msgs, h.id_eq]; rfl⟩

/-! ## HELD_MESSAGE_ADMIT -/

theorem heldMessageAdmit_of_none {s : State} {core : Nat} (h : s.heldAt core = []) : exec (.heldMessageAdmit core) s = .next s := by
  show execHeldMessageAdmit core s = _
  simp only [execHeldMessageAdmit, h]

/-- The message held longest at a ring of a launch that takes it is admitted, or stays (R39). -/
theorem heldMessageAdmit_of_held {s : State} {core : Nat} {m : Msg} {rest : List Msg} {l : Launch} (h : s.heldAt core = m :: rest)
    (hl : s.launch? m.launch = some l) (hr : l.state = .resident) (hc : l.cancel = none) :
    exec (.heldMessageAdmit core) s = .next
      (match s.admission core l.ringSize (messageBytes m.words) (Word.field (nth 0 m.words 0) 18 3) true with
      | some (charge, reserve) => s.admitMsg core l m charge reserve
      | none => s) := by
  show execHeldMessageAdmit core s = _
  cases room : s.admission core l.ringSize (messageBytes m.words) (Word.field (nth 0 m.words 0) 18 3) true <;>
    simp only [execHeldMessageAdmit, h, hl, Launch.refuses_of_resident hr hc m, room, Bool.false_eq_true, if_false]

/-- A message admitted is written and gone, or waits among the others as admitted (R37, R38). -/
theorem State.eq_of_mem_admitMsg {s : State} {core charge : Nat} {reserve : Option Nat} {l : Launch} {m x : Msg}
    (hx : x ∈ (s.admitMsg core l m charge reserve).msgs) (hid : x.id = m.id) : x = m.admittedTo core charge reserve := by
  have waits (hx : x ∈ (s.requeue (m.admittedTo core charge reserve)).msgs) : x = m.admittedTo core charge reserve := by
    rw [State.requeue_msgs, List.mem_append, List.mem_filter] at hx
    rcases hx with ⟨-, other⟩ | same
    · simp [Msg.admittedTo, hid] at other
    · exact List.mem_singleton.1 same
  unfold State.admitMsg at hx
  dsimp only at hx
  split at hx
  · split at hx
    · next t _ => exact absurd hid (State.gone_of_filter (t.ackMsg_msgs (m.admittedTo core charge reserve)) x hx)
    · exact waits hx
  · exact waits hx

/-- The message held longest, which the ring now takes, is held no more (R39). -/
theorem heldMessageAdmit_admits {s : State} {core charge : Nat} {reserve : Option Nat} {m : Msg} {l : Launch} (h : s.heldAt core = [m])
    (hl : s.launch? m.launch = some l) (hr : l.state = .resident) (hc : l.cancel = none)
    (hroom : s.admission core l.ringSize (messageBytes m.words) (Word.field (nth 0 m.words 0) 18 3) true = some (charge, reserve)) :
    ∃ t : State, exec (.heldMessageAdmit core) s = .next t ∧ s.heldAt core ≠ t.heldAt core ∧
      ∀ x ∈ t.msgs, x.id = m.id → x.held = false ∧ x.admitted = some (charge, reserve) := by
  rw [heldMessageAdmit_of_held h hl hr hc, hroom]
  have admitted : ∀ x ∈ (s.admitMsg core l m charge reserve).msgs, x.id = m.id → x.held = false ∧ x.admitted = some (charge, reserve) :=
    fun x hx hid => by rw [State.eq_of_mem_admitMsg hx hid]; exact ⟨rfl, rfl⟩
  refine ⟨_, rfl, fun same => ?_, admitted⟩
  have before : m ∈ s.heldAt core := h ▸ List.mem_singleton.2 rfl
  have held : m.held = true := by
    have := (List.mem_filter.1 before).2
    simp only [Bool.and_eq_true] at this
    exact this.1.2
  have after : m ∈ (s.admitMsg core l m charge reserve).msgs := (List.mem_filter.1 (same ▸ before)).1
  rw [(admitted m after rfl).1] at held
  cases held

end Sys2Proof.Machine
end

section
/-!
SUPPORT. MESSAGE_DISPATCH and the start of an activation (R29, R36, R41, R362).
-/

namespace Sys2Proof.Machine

/-! ## MESSAGE_DISPATCH -/

theorem messageDispatch_of_none {s : State} {core : Nat} (h : s.dispatcher core true = none) : exec (.messageDispatch core) s = .next s := by
  show execMessageDispatch core s = _
  simp only [execMessageDispatch, h]

/-- The launch for which a core dispatches is a launch of the package (R41). -/
theorem State.launch?_of_dispatcher {s : State} {core tag : Nat} {after : Bool} {l : Launch} (h : s.dispatcher core after = some (tag, l)) :
    s.launch? tag = some l := by
  unfold State.dispatcher at h
  dsimp only at h
  split at h
  · cases h
  · split at h
    · cases h
    · next found =>
      obtain ⟨-, same⟩ := Option.ite_none_right_eq_some.1 h
      cases same
      exact found

/-- A record whose handler the capsule does not have starts nothing, is counted, and sets its launch's steward's event (R22, R362). -/
theorem messageDispatch_noHandler {s : State} {core k tag : Nat} {l : Launch} {r : RingRec} (hd : s.dispatcher core true = some (tag, l))
    (hk : s.idleContext core l = some k) (hr : (s.core core).ring.find? (fun x => !x.dispatched) = some r)
    (hn : s.handler? tag (Word.field (s.recordWord (core / 4) (l.ringBase (core % 4) + r.off) 0) 0 12) = none) :
    ∃ t : State, exec (.messageDispatch core) s = .next t ∧ t.ctxs = s.ctxs ∧
      t.host.errUncorrectable = min (s.host.errUncorrectable + 1) 0xFFFFFFFF ∧
      (t.core (agentKey (1008 + l.steward % 8) 0)).event = true := by
  have launched : (((s.setCore core ((s.core core).reclaim (some r.id))).logError true).launch? tag) = some l :=
    State.launch?_of_dispatcher hd
  show ∃ t, execMessageDispatch core s = .next t ∧ _
  simp only [execMessageDispatch, hd, hk, hr, hn]
  refine ⟨_, rfl, rfl, rfl, ?_⟩
  rw [State.launchEvent, launched, State.eventAt, State.core_setCore]

/-! ### The start of an activation (R29) -/

theorem Ctx.getW_setW_self (c : Ctx) {n : Nat} (h : n ≠ 0) (x : Word) : (c.setW n x).getW n = x := Ctx.getW_putW_self c h x false

theorem Ctx.getW_setW_other (c : Ctx) {n j : Nat} (h : j ≠ n) (x : Word) : (c.setW n x).getW j = c.getW j :=
  Ctx.getW_putW_other c h x false

/-- Scalar registers written in turn leave everything else of the context. -/
theorem Ctx.foldl_setW_frame (l : List (Nat × Word)) (c : Ctx) :
    ∃ w wbad, l.foldl (fun (c : Ctx) p => c.setW (8 + p.1) p.2) c = { c with w := w, wbad := wbad } := by
  induction l generalizing c with
  | nil => exact ⟨_, _, rfl⟩
  | cons p r ih =>
    obtain ⟨w, wbad, h⟩ := ih (c.setW (8 + p.1) p.2)
    refine ⟨w, wbad, h.trans ?_⟩
    rw [Ctx.setW, Ctx.putW, if_neg (by omega)]

theorem Ctx.getW_foldl_setW_other {j : Nat} (l : List (Nat × Word)) (h : ∀ p ∈ l, j ≠ 8 + p.1) (c : Ctx) :
    (l.foldl (fun (c : Ctx) p => c.setW (8 + p.1) p.2) c).getW j = c.getW j := by
  induction l generalizing c with
  | nil => rfl
  | cons p r ih =>
    rw [List.foldl_cons, ih fun q hq => h q (List.mem_cons_of_mem p hq)]
    exact c.getW_setW_other (h p List.mem_cons_self) p.2

theorem Ctx.getW_foldl_setW {l : List (Nat × Word)} (hl : (l.map (·.1)).Nodup) {p : Nat × Word} (hp : p ∈ l) (c : Ctx) :
    (l.foldl (fun (c : Ctx) p => c.setW (8 + p.1) p.2) c).getW (8 + p.1) = p.2 := by
  induction l generalizing c with
  | nil => cases hp
  | cons q r ih =>
    rw [List.map_cons, List.nodup_cons] at hl
    rw [List.foldl_cons]
    rcases List.mem_cons.1 hp with rfl | hp
    · rw [Ctx.getW_foldl_setW_other r (fun x hx e => hl.1 (List.mem_map.2 ⟨x, hx, by omega⟩)), Ctx.getW_setW_self _ (by omega)]
    · exact ih hl.2 hp _

/-- What a context holds as its activation starts: what R29 lists. -/
structure Ctx.Starts (c : Ctx) (tag : Nat) (a : Act) (pc w4 : Word) (args : List Word) : Prop where
  act : c.act = some a
  launch : c.launch = tag
  pc : c.pc = pc
  sblk : c.sblk = 3
  vblk : c.vblk = 0
  region : c.region = none
  address : c.getW 4 = w4
  header : c.getW 5 = a.header
  args : ∀ i < 8, c.getW (8 + i) = nth 0 args i

/-- The written registers w8 to w15 over a context that holds the rest of what R29 lists. -/
theorem Ctx.starts_setArgs {c : Ctx} {tag : Nat} {a : Act} {pc w4 : Word} {args : List Word} (hn : args.length = 8)
    (hact : c.act = some a) (hlaunch : c.launch = tag) (hpc : c.pc = pc) (hs : c.sblk = 3) (hv : c.vblk = 0) (hr : c.region = none)
    (h4 : c.getW 4 = w4) (h5 : c.getW 5 = a.header) :
    ((List.zip (List.range 8) args).foldl (fun (c : Ctx) p => c.setW (8 + p.1) p.2) c).Starts tag a pc w4 args := by
  have low (j : Nat) (hj : j < 8) :
      ((List.zip (List.range 8) args).foldl (fun (c : Ctx) p => c.setW (8 + p.1) p.2) c).getW j = c.getW j :=
    Ctx.getW_foldl_setW_other _ (fun _ _ => by omega) c
  have numbered : ((List.zip (List.range 8) args).map (·.1)).Nodup := by
    rw [List.map_fst_zip (by simp [hn])]
    exact List.nodup_range
  have high (i : Nat) (hi : i < 8) :
      ((List.zip (List.range 8) args).foldl (fun (c : Ctx) p => c.setW (8 + p.1) p.2) c).getW (8 + i) = nth 0 args i := by
    refine Ctx.getW_foldl_setW numbered (p := (i, nth 0 args i)) (List.mem_iff_getElem.2 ⟨i, by simp [hn, hi], ?_⟩) c
    simp [nth, hn, hi]
  obtain ⟨w, wbad, frame⟩ := Ctx.foldl_setW_frame (List.zip (List.range 8) args) c
  rw [frame] at low high ⊢
  exact ⟨hact, hlaunch, hpc, hs, hv, hr, (low 4 (by omega)).trans h4, (low 5 (by omega)).trans h5, high⟩

/-- An activation starts READY with what R29 lists; messages and rings are as they were. -/
theorem State.activate_starts (s : State) (k tag : Nat) (l : Launch) (a : Act) (pc w4 : Word) {args : List Word} (hn : args.length = 8) :
    ((s.activate k tag l a pc w4 args).ctx k).Starts tag a pc w4 args ∧ ((s.activate k tag l a pc w4 args).ctx k).state = .ready ∧
      s.KeepsRings (s.activate k tag l a pc w4 args) := by
  have ready (c : Ctx) (h : c.state = .ready) :
      ((List.zip (List.range 8) args).foldl (fun (c : Ctx) p => c.setW (8 + p.1) p.2) c).state = .ready := by
    obtain ⟨w, wbad, frame⟩ := Ctx.foldl_setW_frame (List.zip (List.range 8) args) c
    rw [frame]
    exact h
  unfold State.activate
  dsimp only
  split
  all_goals
    refine ⟨?_, ?_, State.keepsRings_of_cores rfl rfl⟩
    · simp only [State.ctx_of_setLaunch, State.ctx_setCtx]
      refine Ctx.starts_setArgs hn ?_ ?_ ?_ ?_ ?_ ?_ ?_ ?_ <;> simp [Ctx.getW_setW_self, Ctx.getW_setW_other]
    · simp only [State.ctx_of_setLaunch, State.ctx_setCtx]
      exact ready _ (by simp)

/-- A handler's activation starts on a context: it is not DORMANT, whatever the check of its target finds (R29, R192). -/
theorem State.start_starts (s : State) (k tag : Nat) (l : Launch) (h : HandlerEntry) {a : Act} (ha : a.tcb = none) (w4 : Word)
    {args : List Word} (hn : args.length = 8) :
    ((s.start k tag l h a w4 args).ctx k).Starts tag a (s.entryPc l h) w4 args ∧ ((s.start k tag l h a w4 args).ctx k).state ≠ .dormant ∧
      s.KeepsRings (s.start k tag l h a w4 args) := by
  obtain ⟨starts, ready, kept⟩ := s.activate_starts k tag l a (s.entryPc l h) w4 hn
  unfold State.start
  dsimp only
  generalize hu : State.setCore _ _ _ = u
  have same : u.ctx k = (s.activate k tag l a (s.entryPc l h) w4 args).ctx k := by rw [← hu]; rfl
  rw [← same] at starts ready
  have kept : s.KeepsRings u := by
    rw [← hu]
    exact kept.trans (.trans (State.keepsRings_of_cores (t := State.setTile _ _ _) rfl rfl) (State.keepsRings_setCore _ rfl rfl))
  obtain ⟨rings, ctx | ⟨st, ctx⟩⟩ := State.checkPad_cases starts.region fun b hb => by
    rw [starts.act] at hb
    cases hb
    exact ha
  · rw [ctx]
    exact ⟨starts, by simp [ready], kept.trans rings⟩
  · rw [ctx]
    obtain ⟨h1, h2, h3, h4, h5, h6, h7, h8, h9⟩ := starts
    exact ⟨⟨h1, h2, h3, h4, h5, h6, h7, h8, h9⟩, by simp, kept.trans rings⟩

/-- A ring record marked as dispatched stands in the ring (R36). -/
theorem State.markRecord_ring {s : State} {core : Nat} {r : RingRec} (h : r ∈ (s.core core).ring) :
    ∃ x ∈ ((s.markRecord core r.id).core core).ring, x.id = r.id ∧ x.dispatched = true := by
  refine ⟨{ r with dispatched := true }, ?_, rfl, rfl⟩
  rw [State.markRecord, State.core_setCore]
  exact List.mem_map.2 ⟨r, h, if_pos rfl⟩

/-- The registers w8 on of a handler that a message starts: its payload, then zeros (R29). -/
def State.payload (s : State) (u off n : Nat) : List Word := (List.range 8).map (fun i => if i < n then s.recordWord u off (i + 1) else 0)

theorem State.nth_payload (s : State) (u off n : Nat) {i : Nat} (h : i < 8) :
    nth 0 (s.payload u off n) i = if i < n then s.recordWord u off (i + 1) else 0 := by
  simp [State.payload, nth, h]

/-- Dispatch marks the oldest undispatched record and starts its handler with the record's header and payload (R29, R41). -/
theorem messageDispatch_of_handler {s : State} {core k tag : Nat} {l : Launch} {r : RingRec} {h : HandlerEntry}
    (hd : s.dispatcher core true = some (tag, l)) (hk : s.idleContext core l = some k)
    (hr : (s.core core).ring.find? (fun x => !x.dispatched) = some r)
    (hh : s.handler? tag (Word.field (s.recordWord (core / 4) (l.ringBase (core % 4) + r.off) 0) 0 12) = some h) :
    ∃ a : Act, a.header = s.recordWord (core / 4) (l.ringBase (core % 4) + r.off) 0 ∧ a.ring = some r.id ∧ a.tcb = none ∧
      exec (.messageDispatch core) s = .next ((s.markRecord core r.id).start k tag l h a (ownTileVa (l.ringBase (core % 4) + r.off + 8))
        (s.payload (core / 4) (l.ringBase (core % 4) + r.off)
          (Word.field (s.recordWord (core / 4) (l.ringBase (core % 4) + r.off) 0) 12 6))) := by
  show ∃ a, _ ∧ _ ∧ _ ∧ execMessageDispatch core s = _
  simp only [execMessageDispatch, hd, hk, hr, hh]
  refine ⟨_, ?_, ?_, ?_, congrArg Host.Outcome.next (congrArg (State.start _ k tag l h _ _) ?_)⟩ <;> rfl

/-- The oldest undispatched record starts its handler on the lowest eligible context (R29, R36, R41). -/
theorem messageDispatch_starts {s : State} {core k tag : Nat} {l : Launch} {r : RingRec} {h : HandlerEntry}
    (hd : s.dispatcher core true = some (tag, l)) (hk : s.idleContext core l = some k)
    (hr : (s.core core).ring.find? (fun x => !x.dispatched) = some r)
    (hh : s.handler? tag (Word.field (s.recordWord (core / 4) (l.ringBase (core % 4) + r.off) 0) 0 12) = some h) :
    ∃ (t : State) (a : Act), exec (.messageDispatch core) s = .next t ∧
      a.header = s.recordWord (core / 4) (l.ringBase (core % 4) + r.off) 0 ∧ a.ring = some r.id ∧
      (t.ctx k).Starts tag a (s.entryPc l h) (ownTileVa (l.ringBase (core % 4) + r.off + 8)) (s.payload (core / 4)
        (l.ringBase (core % 4) + r.off) (Word.field (s.recordWord (core / 4) (l.ringBase (core % 4) + r.off) 0) 12 6)) ∧
      (t.ctx k).state ≠ .dormant ∧ (∃ x ∈ (t.core core).ring, x.id = r.id ∧ x.dispatched = true) ∧ t.msgs = s.msgs := by
  obtain ⟨a, header, record, tcb, answer⟩ := messageDispatch_of_handler hd hk hr hh
  obtain ⟨starts, awake, kept⟩ := (s.markRecord core r.id).start_starts k tag l h tcb (ownTileVa (l.ringBase (core % 4) + r.off + 8))
    (args := s.payload (core / 4) (l.ringBase (core % 4) + r.off)
      (Word.field (s.recordWord (core / 4) (l.ringBase (core % 4) + r.off) 0) 12 6)) (by simp [State.payload])
  refine ⟨_, a, answer, header, record, starts, awake, ?_, kept.msgs⟩
  rw [kept.ring]
  exact State.markRecord_ring (List.mem_of_find?_eq_some hr)

end Sys2Proof.Machine
end

section
/-!
The statement on messages received.
-/

namespace Sys2Proof

open Machine

/-- Settles O48, clause by clause: delivery by where the message arrives, HELD_MESSAGE_ADMIT by the ring's room, dispatch by whether the
capsule has the handler. -/
theorem messagesReceived : Obligations.MessagesReceived := by
  unfold Obligations.MessagesReceived
  intro s id m found
  refine ⟨fun ha hh he => ?_, fun l held launch resident uncancelled => ⟨fun full => ?_, fun charge reserve room => ?_⟩,
    fun core k tag l r hd hk hr => ⟨messageDispatch_noHandler hd hk hr, fun h hh => ?_⟩, fun _ => messageDispatch_of_none,
    fun _ => heldMessageAdmit_of_none⟩
  · have due : s.Due id m := ⟨found, ha, hh, he⟩
    refine ⟨due.toFirmware, fun v => due.forwards, fun l onTile forward unfrozen marker member launch => ?_⟩
    have reaches : s.Reaches m l := ⟨onTile, forward, marker, member, launch⟩
    refine ⟨due.parks reaches, fun own resident uncancelled named noneHeld => ?_⟩
    have atRing : s.AtRing m l := ⟨reaches, own, resident, uncancelled, named, unfrozen, noneHeld⟩
    exact ⟨due.writes atRing, due.holds atRing⟩
  · rw [heldMessageAdmit_of_held held launch resident uncancelled, full]
  · exact State.id_of_found found ▸ heldMessageAdmit_admits held launch resident uncancelled room
  · obtain ⟨t, a, answer, header, record, starts, awake, dispatched, msgs⟩ := messageDispatch_starts hd hk hr hh
    refine ⟨t, a, answer, starts.act, header, record, starts.launch, starts.pc, awake, starts.sblk, starts.vblk, starts.region,
      starts.address, starts.header.trans header, fun i hi => ?_, dispatched, msgs⟩
    rw [starts.args i hi, State.nth_payload _ _ _ _ hi]

end Sys2Proof
end

section
/-!
SUPPORT. Memory keeps its canonical form (log entry 2), function by function: what the model does to the state, in the order of its
files. First the operations that every instruction is made of, the abort and the commit of regions, and the stop of a context.
-/

namespace Sys2Proof.Machine

/-- The memory of a state is in its canonical form (log entry 2). -/
def State.Canonical (s : State) : Prop := Memory.wf s.mem = true

/-- What goes on goes on with a memory in its canonical form. -/
def Out.Canonical (o : Out) : Prop :=
  match o with
  | .next t => t.Canonical
  | .fault _ => True
  | .refused _ => True

/-- A home's answer leaves the memory in its canonical form. -/
def HomeAns.Canonical : HomeAns → Prop
  | .wait => True
  | .crowded => True
  | .withheld t _ _ => t.Canonical
  | .done t _ _ => t.Canonical

/-- The reads of an operand load leave memory in its canonical form. -/
def LoadAns.Canonical : LoadAns → Prop
  | .wait => True
  | .fault t _ _ _ => t.Canonical
  | .done t _ => t.Canonical

/-- An engine's accesses leave memory in its canonical form. -/
def JobAns.Canonical {α : Type} : JobAns α → Prop
  | .wait => True
  | .fault t _ _ _ => t.Canonical
  | .done t _ => t.Canonical

/-- The walk unit's reads leave memory in its canonical form. -/
def WalkAns.Canonical {α : Type} : WalkAns α → Prop
  | .wait => True
  | .fault t _ _ _ => t.Canonical
  | .ok t _ => t.Canonical

/-! ## Choices and folds -/

section

variable {c : Prop} [Decidable c]

theorem State.Canonical.ite {s t : State} (hs : s.Canonical) (ht : t.Canonical) : (if c then s else t).Canonical := by
  split <;> assumption

theorem Out.Canonical.ite {s t : Out} (hs : Out.Canonical s) (ht : Out.Canonical t) : Out.Canonical (if c then s else t) := by
  split <;> assumption

theorem HomeAns.Canonical.ite {s t : HomeAns} (hs : s.Canonical) (ht : t.Canonical) : (if c then s else t).Canonical := by
  split <;> assumption

theorem LoadAns.Canonical.ite {s t : LoadAns} (hs : s.Canonical) (ht : t.Canonical) : (if c then s else t).Canonical := by
  split <;> assumption

theorem JobAns.Canonical.ite {α : Type} {s t : JobAns α} (hs : s.Canonical) (ht : t.Canonical) : (if c then s else t).Canonical := by
  split <;> assumption

theorem WalkAns.Canonical.ite {α : Type} {s t : WalkAns α} (hs : s.Canonical) (ht : t.Canonical) : (if c then s else t).Canonical := by
  split <;> assumption

end

/-- A fold whose every step keeps the form keeps it. -/
theorem State.Canonical.foldl {α : Type} {f : State → α → State} {l : List α} {s : State} (h : s.Canonical)
    (hf : ∀ t x, t.Canonical → (f t x).Canonical) : (l.foldl f s).Canonical :=
  List.foldlRecOn l f h fun t ht x _ => hf t x ht

/-! ## Updates of other fields -/

section

variable {s : State}

theorem State.Canonical.with_vault {x} (h : s.Canonical) : ({ s with vault := x } : State).Canonical := h

theorem State.Canonical.with_dir {x} (h : s.Canonical) : ({ s with dir := x } : State).Canonical := h

theorem State.Canonical.with_lineKey {x} (h : s.Canonical) : ({ s with lineKey := x } : State).Canonical := h

theorem State.Canonical.with_freeCtr {x} (h : s.Canonical) : ({ s with freeCtr := x } : State).Canonical := h

end

/-! ## The state in an answer -/

section

variable {α : Type} {s : State} {x : α}

theorem State.Canonical.of_fst {p : State × α} (h : p.1.Canonical) (e : p = (s, x)) : s.Canonical := by
  rw [e] at h
  exact h

theorem State.Canonical.of_snd {p : α × State} (h : p.2.Canonical) (e : p = (x, s)) : s.Canonical := by
  rw [e] at h
  exact h

theorem HomeAns.Canonical.of_withheld {a : HomeAns} {m n : Nat} (h : a.Canonical) (e : a = .withheld s m n) : s.Canonical := by
  rw [e] at h
  exact h

theorem HomeAns.Canonical.of_done {a : HomeAns} {bs : List Byte} {bad : Bool} (h : a.Canonical) (e : a = .done s bs bad) :
    s.Canonical := by
  rw [e] at h
  exact h

theorem LoadAns.Canonical.of_fault {a : LoadAns} {m n : Nat} {w : Word} (h : a.Canonical) (e : a = .fault s m n w) :
    s.Canonical := by
  rw [e] at h
  exact h

theorem LoadAns.Canonical.of_done {a : LoadAns} {b : Bool} (h : a.Canonical) (e : a = .done s b) : s.Canonical := by
  rw [e] at h
  exact h

theorem JobAns.Canonical.of_fault {a : JobAns α} {m n : Nat} {w : Word} (h : a.Canonical) (e : a = .fault s m n w) :
    s.Canonical := by
  rw [e] at h
  exact h

theorem JobAns.Canonical.of_done {a : JobAns α} (h : a.Canonical) (e : a = .done s x) : s.Canonical := by
  rw [e] at h
  exact h

theorem WalkAns.Canonical.of_fault {a : WalkAns α} {m n : Nat} {w : Word} (h : a.Canonical) (e : a = .fault s m n w) :
    s.Canonical := by
  rw [e] at h
  exact h

theorem WalkAns.Canonical.of_ok {a : WalkAns α} (h : a.Canonical) (e : a = .ok s x) : s.Canonical := by
  rw [e] at h
  exact h

end

variable {s : State}

/-! ## The state and its memory -/

theorem State.Canonical.setCtx {k c} (h : s.Canonical) : (s.setCtx k c).Canonical := h
theorem State.Canonical.setCore {a c} (h : s.Canonical) : (s.setCore a c).Canonical := h
theorem State.Canonical.setTile {u t} (h : s.Canonical) : (s.setTile u t).Canonical := h
theorem State.Canonical.setCluster {n c} (h : s.Canonical) : (s.setCluster n c).Canonical := h
theorem State.Canonical.setSlot {n d} (h : s.Canonical) : (s.setSlot n d).Canonical := h
theorem State.Canonical.setLaunch {l x} (h : s.Canonical) : (s.setLaunch l x).Canonical := h
theorem State.Canonical.setJob {j x} (h : s.Canonical) : (s.setJob j x).Canonical := h
theorem State.Canonical.fresh (h : s.Canonical) : s.fresh.Canonical := h
theorem State.Canonical.raiseMsix {n} (h : s.Canonical) : (s.raiseMsix n).Canonical := h

theorem State.Canonical.logError {uncorrectable} (h : s.Canonical) : (s.logError uncorrectable).Canonical :=
  .ite (.raiseMsix h) (.raiseMsix h)

theorem State.Canonical.logReason {reason} (h : s.Canonical) : (s.logReason reason).Canonical := .logError h
theorem State.Canonical.secEvent (h : s.Canonical) : s.secEvent.Canonical := h

theorem State.Canonical.pokeByte {key b bad} (h : s.Canonical) : (s.pokeByte key b bad).Canonical :=
  Memory.wf_pokeByte h key b bad

theorem State.Canonical.rekeyLine {kid line} (h : s.Canonical) : (s.rekeyLine kid line).Canonical :=
  Memory.wf_rekeyLine h kid line

theorem State.Canonical.writeByte {kid key b bad} (h : s.Canonical) : (s.writeByte kid key b bad).Canonical :=
  h.rekeyLine.pokeByte

theorem State.Canonical.writeBytes {kid key bad l} (h : s.Canonical) : (s.writeBytes kid key bad l).Canonical :=
  Memory.wf_writeBytes h kid key bad l

theorem State.Canonical.writeList {kid key bad bs} (h : s.Canonical) : (s.writeList kid key bad bs).Canonical := h.writeBytes
theorem State.Canonical.writeDword {key x} (h : s.Canonical) : (s.writeDword key x).Canonical := h.writeList
theorem State.Canonical.zeroRange {lo hi} (h : s.Canonical) : (s.zeroRange lo hi).Canonical := Memory.wf_zeroRange h lo hi
theorem State.Canonical.tlbFill {u core e} (h : s.Canonical) : (s.tlbFill u core e).Canonical := h.setCore.setCluster

theorem State.Canonical.translate {u core root launch va leaf t} (h : s.Canonical)
    (e : s.translate u core root launch va = some (leaf, t)) : t.Canonical := by
  unfold State.translate at e
  split at e
  · cases e; exact h
  · split at e
    · cases e
    · cases e; exact h.tlbFill

theorem State.Canonical.globalPart {u k a va off len p t} (h : s.Canonical)
    (e : s.globalPart u k a va off len = .ok (p, t)) : t.Canonical := by
  unfold State.globalPart at e
  split at e
  · split at e
    · cases e; exact h
    · cases e
  · split at e
    · cases e
    · split at e
      · cases e
      · split at e
        · cases e
        · next found =>
          split at e
          · cases e
          · cases e; exact h.translate found

theorem State.Canonical.globalParts {u k a va l ps t} (h : s.Canonical)
    (e : s.globalParts u k a va l = .ok (ps, t)) : t.Canonical := by
  induction l generalizing s ps with
  | nil => cases e; exact h
  | cons b r ih =>
    simp only [State.globalParts] at e
    split at e
    · cases e
    · next first =>
      split at e
      · cases e
      · next rest => cases e; exact ih (h.globalPart first) rest

theorem State.Canonical.locateBy {u k a addr n ps t} (h : s.Canonical)
    (e : s.locateBy u k a addr n = .ok (ps, t)) : t.Canonical := by
  unfold State.locateBy at e
  dsimp only at e
  split at e
  · cases e
  · split at e
    · split at e
      · cases e
      · exact h.globalParts e
    · split at e
      · cases e
      · split at e
        · cases e; exact h
        · cases e

theorem State.Canonical.locate {k a addr n ps t} (h : s.Canonical) (e : s.locate k a addr n = .ok (ps, t)) : t.Canonical :=
  h.locateBy e

/-! ## Monitors -/

theorem State.Canonical.changeMonitors {cluster tag source f} (h : s.Canonical) :
    (s.changeMonitors cluster tag source f).Canonical :=
  .ite h.setCluster h

theorem State.Canonical.sampleAt {k source value} (h : s.Canonical) : (s.sampleAt k source value).Canonical := h.changeMonitors

theorem State.Canonical.countLaunch {tag source} (h : s.Canonical) : (s.countLaunch tag source).Canonical := by
  unfold State.countLaunch
  split
  exacts [h.setLaunch, h]

theorem State.Canonical.countAt {k source} (h : s.Canonical) : (s.countAt k source).Canonical := h.changeMonitors.countLaunch

theorem State.Canonical.countEach {source ks} (h : s.Canonical) : (s.countEach source ks).Canonical :=
  h.foldl fun _ _ ht => ht.countAt

/-! ## Operands -/

theorem State.Canonical.done {len c} (h : s.Canonical) : (s.done len c).Canonical := h.setCtx
theorem State.Canonical.skip {len} (h : s.Canonical) : (s.skip len).Canonical := h.done
theorem State.Canonical.result {len d x} (h : s.Canonical) : (s.result len d x).Canonical := h.done
theorem State.Canonical.stall (h : s.Canonical) : Out.Canonical s.stall := h.setCtx
theorem State.Canonical.waitBackground (h : s.Canonical) : Out.Canonical s.waitBackground := h.setCtx
theorem State.Canonical.waitFor {slow} (h : s.Canonical) : Out.Canonical (s.waitFor slow) := .ite h.waitBackground h.stall

/-! ## Operations that instructions share -/

theorem State.Canonical.lower {k act ld st} (h : s.Canonical) : (s.lower k act ld st).Canonical := .ite h.setCtx h
theorem State.Canonical.lowerCp {k act} (h : s.Canonical) : (s.lowerCp k act).Canonical := .ite h.setCtx h
theorem State.Canonical.lowerTl {k act} (h : s.Canonical) : (s.lowerTl k act).Canonical := .ite h.setCtx h
theorem State.Canonical.ringRetire {core seq} (h : s.Canonical) : (s.ringRetire core seq).Canonical := .ite h.setCore h

theorem State.Canonical.finishTxn {t} (h : s.Canonical) : (s.finishTxn t).Canonical := by
  refine .ite h ?_
  split
  exacts [.ringRetire (.lower h), .lower h]

theorem State.Canonical.dropTxns {l} (h : s.Canonical) : (s.dropTxns l).Canonical := by
  induction l generalizing s with
  | nil => exact h
  | cons t r ih => exact ih h.finishTxn

theorem State.Canonical.unwait {k} (h : s.Canonical) : (s.unwait k).Canonical := h.setTile.setCore

theorem State.Canonical.restart {k} (h : s.Canonical) : (s.restart k).Canonical := by
  unfold State.restart
  dsimp only
  split
  exacts [h, h.unwait.dropTxns.setCtx]

theorem State.Canonical.restartAll {l} (h : s.Canonical) : (s.restartAll l).Canonical := by
  induction l generalizing s with
  | nil => exact h
  | cons k r ih => exact ih h.restart

theorem State.Canonical.abortSlots {m} (h : s.Canonical) : (s.abortSlots m).Canonical := .restartAll h.countEach
theorem State.Canonical.mergeVersion {v} (h : s.Canonical) : (s.mergeVersion v).Canonical := h.writeBytes

theorem State.Canonical.mergeVersions {l} (h : s.Canonical) : (s.mergeVersions l).Canonical := by
  induction l generalizing s with
  | nil => exact h
  | cons v r ih => exact ih h.mergeVersion

theorem State.Canonical.commitSlot {n} (h : s.Canonical) : (s.commitSlot n).Canonical := h.mergeVersions.sampleAt

theorem State.Canonical.endRegion {k} (h : s.Canonical) : (s.endRegion k).Canonical := by
  unfold State.endRegion
  split
  · exact h
  · split
    exacts [h.commitSlot.setCtx, h.commitSlot.setCtx, h.abortSlots]

theorem State.Canonical.eventAt {unit} (h : s.Canonical) : (s.eventAt unit).Canonical := h.setCore
theorem State.Canonical.stewardEvent (h : s.Canonical) : s.stewardEvent.Canonical := h.foldl fun _ _ ht => ht.eventAt
theorem State.Canonical.launchEvent {tag} (h : s.Canonical) : (s.launchEvent tag).Canonical := h.eventAt

theorem State.Canonical.post {ctx act dest tag words cp} (h : s.Canonical) : (s.post ctx act dest tag words cp).Canonical :=
  h.fresh

theorem State.Canonical.freeDrain {k} (h : s.Canonical) : (s.freeDrain k).Canonical := by
  unfold State.freeDrain
  split
  · split
    exacts [h.setTile.setCtx, h]
  · exact h

theorem State.Canonical.leaveAlign {k} (h : s.Canonical) : (s.leaveAlign k).Canonical := h
theorem State.Canonical.rest {k} (h : s.Canonical) : (s.rest k).Canonical := h.unwait.freeDrain.leaveAlign.setCtx.setCore

theorem State.Canonical.restAll {l} (h : s.Canonical) : (s.restAll l).Canonical := by
  induction l generalizing s with
  | nil => exact h
  | cons k r ih => exact ih h.endRegion.rest

theorem State.Canonical.abortReaders {home key n} (h : s.Canonical) : (s.abortReaders home key n).Canonical :=
  .ite h h.abortSlots

theorem State.Canonical.clearResumable {k} (h : s.Canonical) : (s.clearResumable k).Canonical := by
  unfold State.clearResumable
  split
  · exact h
  · dsimp only
    split
    · exact h.setCtx
    · split
      · exact h.setCtx
      · split
        exacts [h.setCtx, .ite h h.setCtx.abortReaders.writeList]

theorem State.Canonical.clearAllResumable {l} (h : s.Canonical) : (s.clearAllResumable l).Canonical := by
  induction l generalizing s with
  | nil => exact h
  | cons k r ih => exact ih h.clearResumable

theorem State.Canonical.discardAll {l} (h : s.Canonical) : (s.discardAll l).Canonical := by
  induction l generalizing s with
  | nil => exact h
  | cons a r ih => exact ih h.setCore

theorem State.Canonical.forgetJob {j} (h : s.Canonical) : (s.forgetJob j).Canonical := .ite h.lowerTl h.lowerCp

theorem State.Canonical.discardSubmitted {tag} (h : s.Canonical) : (s.discardSubmitted tag).Canonical :=
  .foldl h fun _ _ ht => ht.forgetJob

theorem State.Canonical.discardJobs {tag l} (h : s.Canonical) : (s.discardJobs tag l).Canonical := by
  induction l generalizing s with
  | nil => exact h
  | cons e r ih => exact ih (h.setCluster.foldl fun _ _ ht => ht.forgetJob)

theorem State.Canonical.putAnswer {a} (h : s.Canonical) : (s.putAnswer a).Canonical := h
theorem State.Canonical.answerTo {client key xs} (h : s.Canonical) : (s.answerTo client key xs).Canonical := h.putAnswer

theorem State.Canonical.endNotice {tag job status} (h : s.Canonical) : (s.endNotice tag job status).Canonical := by
  unfold State.endNotice
  split
  exacts [h.answerTo, h]

theorem State.Canonical.sweepBodies (h : s.Canonical) : s.sweepBodies.Canonical := h

theorem State.Canonical.cancelLaunch {tag level by_} (h : s.Canonical) : (s.cancelLaunch tag level by_).Canonical := by
  unfold State.cancelLaunch
  split
  · exact h
  · split
    · exact h.setLaunch.sweepBodies.endNotice
    · exact h.setLaunch.sweepBodies.endNotice
    · exact h.setLaunch.sweepBodies.endNotice
    · exact h.setLaunch.clearAllResumable.discardAll.discardSubmitted.discardJobs
    · exact h.setLaunch.clearAllResumable.discardAll.discardSubmitted.discardJobs
    · exact h
    · exact h

theorem State.Canonical.cancelLaunches {level by_ l} (h : s.Canonical) : (s.cancelLaunches level by_ l).Canonical := by
  induction l generalizing s with
  | nil => exact h
  | cons t r ih => exact ih h.cancelLaunch

theorem State.Canonical.endLaunch {tag status reason} (h : s.Canonical) : (s.endLaunch tag status reason).Canonical := by
  unfold State.endLaunch
  split
  · exact h
  · next l _ =>
    have stopped : ((((s.clearAllResumable l.ctxKeys).restAll l.ctxKeys).discardAll l.agents).discardSubmitted tag).Canonical :=
      h.clearAllResumable.restAll.discardAll.discardSubmitted
    refine .ite h (.ite (.endNotice (.sweepBodies stopped)) ?_)
    split
    · exact .endNotice (.sweepBodies stopped)
    · exact .cancelLaunches (.setJob (.endNotice (.sweepBodies stopped)))

theorem State.Canonical.trapMessage {tag cls source unit payload} (h : s.Canonical) :
    (s.trapMessage tag cls source unit payload).Canonical := by
  unfold State.trapMessage
  split
  · exact h
  · refine .ite h ?_
    split
    exacts [.ite h h.endLaunch, h.post]

theorem State.Canonical.storeParts {k va bad bs l} (h : s.Canonical) : (s.storeParts k va bad bs l).Canonical := by
  induction l generalizing s with
  | nil => exact h
  | cons p r ih => exact ih (.ite h.fresh h.abortReaders.writeList)

theorem State.Canonical.storeVa {k va bad bs t} (h : s.Canonical) (e : s.storeVa k va bad bs = .ok t) : t.Canonical := by
  unfold State.storeVa at e
  split at e
  · cases e
  · next found => cases e; exact (h.locate found).storeParts

theorem State.Canonical.lateClass {k tag w9 w11} (h : s.Canonical) : (s.lateClass k tag w9 w11).Canonical := h.trapMessage
theorem State.Canonical.noteError {f} (h : s.Canonical) : (s.noteError f).Canonical := .ite h.logError h

theorem State.Canonical.tcbState {k tcb n} (h : s.Canonical) : (s.tcbState k tcb n).Canonical := by
  unfold State.tcbState
  split
  · next found => exact h.storeVa found
  · exact h.noteError.lateClass

theorem State.Canonical.stopCtx {k st} (h : s.Canonical) : (s.stopCtx k st).Canonical := by
  refine .ite ?_ ?_
  · split
    · exact h.unwait.setCtx
    · dsimp only
      split
      exacts [h.unwait.setCtx, h.unwait.setCtx, h.unwait.setCtx.abortSlots.setCtx]
  · split
    · split
      · refine .tcbState ?_
        split
        · exact h.unwait.setCtx
        · dsimp only
          split
          exacts [h.unwait.setCtx, h.unwait.setCtx, h.unwait.setCtx.abortSlots.setCtx]
      · split
        · exact h.unwait.setCtx
        · dsimp only
          split
          exacts [h.unwait.setCtx, h.unwait.setCtx, h.unwait.setCtx.abortSlots.setCtx]
    · split
      · exact h.unwait.setCtx
      · dsimp only
        split
        exacts [h.unwait.setCtx, h.unwait.setCtx, h.unwait.setCtx.abortSlots.setCtx]

theorem State.Canonical.trapAt {k cause sub addr resume} (h : s.Canonical) : Out.Canonical (s.trapAt k cause sub addr resume) :=
  .ite trivial h.stopCtx

theorem State.Canonical.trap {cause sub} (h : s.Canonical) : Out.Canonical (s.trap cause sub) := h.trapAt
theorem State.Canonical.memTrap {f} (h : s.Canonical) : Out.Canonical (s.memTrap f) := h.noteError.trapAt

theorem State.Canonical.issue {need body} (h : s.Canonical) (hb : Out.Canonical (body s)) :
    Out.Canonical (s.issue need body) := by
  have cases_ := State.issue_cases (s := s) (need := need) (body := body)
  generalize s.issue need body = o at cases_ ⊢
  cases cases_ with
  | waits _ => exact h.waitFor
  | issues _ => exact hb
  | _ => exact h.trap

theorem State.Canonical.issueOn {need ops denied absent body} (h : s.Canonical) (hb : Out.Canonical (body s)) :
    Out.Canonical (s.issueOn need ops denied absent body) :=
  .ite h.trap (.ite h.waitFor (.ite h.trap (.ite h.trap (h.issue hb))))

theorem State.Canonical.irrevocably {body} (h : s.Canonical) (hb : ∀ t, t.Canonical → Out.Canonical (body t)) :
    Out.Canonical (s.irrevocably body) := by
  unfold State.irrevocably
  split
  exacts [hb s h, .ite (hb s h) (.ite (hb _ h.setSlot) h.waitBackground)]

theorem State.Canonical.writeFolioFrom {k st va n m} (h : s.Canonical) : (s.writeFolioFrom k st va n m).Canonical := by
  induction m generalizing s n with
  | zero => exact h
  | succ m ih =>
    refine ih ?_
    split
    · next found => exact h.storeVa found
    · exact h

theorem State.Canonical.writeFolio {k st} (h : s.Canonical) : (s.writeFolio k st).Canonical := by
  unfold State.writeFolio
  split
  exacts [h, .with_freeCtr h.writeFolioFrom.setCtx]

theorem State.Canonical.resume {k c pc} (h : s.Canonical) : (s.resume k c pc).Canonical := by
  unfold State.resume
  dsimp only
  split
  · split
    exacts [h.setCtx.tcbState, h.setCtx]
  · exact h.setCtx

theorem State.Canonical.activate {k tag l a pc w4 args} (h : s.Canonical) : (s.activate k tag l a pc w4 args).Canonical := by
  unfold State.activate
  dsimp only
  split
  exacts [h.fresh.setCtx, h.fresh.setCtx.setLaunch]

end Sys2Proof.Machine
end

section
/-!
SUPPORT. The canonical form: blocks, fetch, branches, the accesses to memory with the regions they meet, and the integer groups.
-/

namespace Sys2Proof.Machine

variable {s : State}

/-! ## Register blocks -/

theorem State.Canonical.acquireBlock {d a tries} (h : s.Canonical) : Out.Canonical (s.acquireBlock d a tries) := by
  refine h.issueOn (.ite h.result ?_)
  split
  exacts [h.result, .ite h.setCore.done (.ite h.result h.setCore.stall)]

theorem State.Canonical.execRbacq {d a} (h : s.Canonical) : Out.Canonical (execRbacq d a s) := h.acquireBlock
theorem State.Canonical.execRbacqt {d a} (h : s.Canonical) : Out.Canonical (execRbacqt d a s) := h.acquireBlock

theorem State.Canonical.execRbrel {a b} (h : s.Canonical) : Out.Canonical (execRbrel a b s) :=
  h.issueOn (.ite h.trap (.ite h.trap (.ite (h.irrevocably (fun _ ht => .ite ht.waitFor ht.done)) (.ite h.waitFor h.done))))

theorem State.Canonical.execIxset {x a} (h : s.Canonical) : Out.Canonical (execIxset x a s) := h.issue h.done
theorem State.Canonical.execIxadd {x a} (h : s.Canonical) : Out.Canonical (execIxadd x a s) := h.issue h.done
theorem State.Canonical.execLox {x a} (h : s.Canonical) : Out.Canonical (execLox x a s) := h.issue h.done
theorem State.Canonical.execMovox {d x} (h : s.Canonical) : Out.Canonical (execMovox d x s) := h.issue h.result

theorem State.Canonical.execMovx {d x i} (h : s.Canonical) : Out.Canonical (execMovx d x i s) := by
  refine h.issue ?_
  split
  exacts [h.trap, h.issue h.result]

theorem State.Canonical.execMovxw {d x i} (h : s.Canonical) : Out.Canonical (execMovxw d x i s) := by
  refine h.issue ?_
  split
  exacts [h.trap, .ite h.waitFor h.result]

/-! ## Fetch -/

theorem State.Canonical.fetchLine {core kid line} (h : s.Canonical) : (s.fetchLine core kid line).2.Canonical := by
  unfold State.fetchLine
  dsimp only
  split
  · exact h
  · split
    exacts [h.setCore, .setCluster (.setCore (.ite h.logError h))]

theorem State.Canonical.dropLine {core line} (h : s.Canonical) : (s.dropLine core line).Canonical := h.setCore.setCluster

theorem State.Canonical.fetchHalf {k va} (h : s.Canonical) : (s.fetchHalf k va).2.Canonical := by
  unfold State.fetchHalf
  split
  · exact h.noteError
  · next found =>
    split
    next fetched =>
    have ht := (h.locate found).fetchLine.of_snd fetched
    split
    exacts [ht.dropLine, ht]
  · next found => exact h.locate found

theorem State.Canonical.fetchBytes {k va} (h : s.Canonical) : (s.fetchBytes k va).2.Canonical := by
  unfold State.fetchBytes
  split
  · exact h
  · split
    · next found => exact h.fetchHalf.of_snd found
    · next found =>
      split
      · exact h.fetchHalf.of_snd found
      · split
        · next inner => exact (h.fetchHalf.of_snd found).fetchHalf.of_snd inner
        · next inner => exact (h.fetchHalf.of_snd found).fetchHalf.of_snd inner

/-! ## Branches -/

theorem State.Canonical.jump {c pc} (h : s.Canonical) : (s.jump c pc).Canonical := h.setCtx

theorem State.Canonical.branch {len a b} {n : Nat} {o : BitVec n} {taken} (h : s.Canonical) :
    Out.Canonical (s.branch len a b o taken) :=
  h.issue (State.Canonical.ite h.jump h.skip)

theorem State.Canonical.execBeq {a b o} (h : s.Canonical) : Out.Canonical (execBeq a b o s) := h.branch
theorem State.Canonical.execBne {a b o} (h : s.Canonical) : Out.Canonical (execBne a b o s) := h.branch
theorem State.Canonical.execBlt {a b o} (h : s.Canonical) : Out.Canonical (execBlt a b o s) := h.branch
theorem State.Canonical.execBge {a b o} (h : s.Canonical) : Out.Canonical (execBge a b o s) := h.branch
theorem State.Canonical.execBltu {a b o} (h : s.Canonical) : Out.Canonical (execBltu a b o s) := h.branch
theorem State.Canonical.execBgeu {a b o} (h : s.Canonical) : Out.Canonical (execBgeu a b o s) := h.branch
theorem State.Canonical.execCBz {a o} (h : s.Canonical) : Out.Canonical (execCBz a o s) := h.branch
theorem State.Canonical.execCBnz {a o} (h : s.Canonical) : Out.Canonical (execCBnz a o s) := h.branch
theorem State.Canonical.execJ {o} (h : s.Canonical) : Out.Canonical (execJ o s) := h.issue h.jump
theorem State.Canonical.execJl {o} (h : s.Canonical) : Out.Canonical (execJl o s) := h.issue h.jump
theorem State.Canonical.execCJ {o} (h : s.Canonical) : Out.Canonical (execCJ o s) := h.issue h.jump

theorem State.Canonical.indirect {a kind link} (h : s.Canonical) : Out.Canonical (s.indirect a kind link) := by
  refine h.issue (.ite h.trapAt ?_)
  split
  · next found => exact (h.fetchBytes.of_snd found).trapAt
  · next found => exact .ite (h.fetchBytes.of_snd found).trapAt (h.fetchBytes.of_snd found).jump

theorem State.Canonical.execJr {a} (h : s.Canonical) : Out.Canonical (execJr a s) := h.indirect
theorem State.Canonical.execJlr {a} (h : s.Canonical) : Out.Canonical (execJlr a s) := h.indirect
theorem State.Canonical.execRet {a} (h : s.Canonical) : Out.Canonical (execRet a s) := h.indirect
theorem State.Canonical.execCRet (h : s.Canonical) : Out.Canonical (execCRet s) := h.indirect
theorem State.Canonical.execPad (h : s.Canonical) : Out.Canonical (execPad s) := h.issue h.skip

theorem State.Canonical.execLoop {a o} (h : s.Canonical) : Out.Canonical (execLoop a o s) :=
  h.issue (State.Canonical.ite h.jump h.done)

theorem State.Canonical.execBoqw {a} (h : s.Canonical) : Out.Canonical (execBoqw a s) :=
  h.issue (h.irrevocably (fun _ ht => .ite ht.stall ht.setTile.skip))

theorem State.Canonical.execBoqb {n o} (h : s.Canonical) : Out.Canonical (execBoqb n o s) := by
  refine h.issue (h.irrevocably (fun _ ht => ?_))
  dsimp only
  split
  exacts [ht.stall, State.Canonical.ite ht.setTile.jump ht.setTile.skip]

/-! ## Links -/

theorem State.Canonical.setPort {n p} (h : s.Canonical) : (s.setPort n p).Canonical := h
theorem State.Canonical.sendOn {plane id p} (h : s.Canonical) : (s.sendOn plane id p).Canonical := h

theorem State.Canonical.sendHome {t} (h : s.Canonical) : (s.sendHome t).Canonical := by
  unfold State.sendHome
  split
  exacts [h, h.sendOn]

theorem State.Canonical.sendFor {unit home key n bytes} (h : s.Canonical) : (s.sendFor unit home key n bytes).Canonical := by
  unfold State.sendFor
  split
  exacts [h, h.sendOn.fresh]

theorem State.Canonical.setStream {n x} (h : s.Canonical) : (s.setStream n x).Canonical := h

/-! ## Regions at a home -/

theorem State.Canonical.addEdge {a b n} (h : s.Canonical) : (s.addEdge a b n).Canonical := by
  induction n generalizing s with
  | zero => exact h
  | succ n ih =>
    refine .ite h (.ite ?_ h)
    dsimp only
    split
    exacts [ih h.countAt.abortSlots, h]

theorem State.Canonical.addEdges {b l} (h : s.Canonical) : (s.addEdges b l).Canonical := by
  induction l generalizing s with
  | nil => exact h
  | cons a r ih => exact ih h.addEdge

theorem State.Canonical.markRead {home line slot beginAt kid} (h : s.Canonical) :
    (s.markRead home line slot beginAt kid).Canonical := .ite h h

theorem State.Canonical.writeVersion {launch home line slot beginAt kid bad bs} (h : s.Canonical) :
    (s.writeVersion launch home line slot beginAt kid bad bs).Canonical := by
  unfold State.writeVersion
  dsimp only
  split
  exacts [.ite h h, h]

theorem State.Canonical.touch {slot home lines} (h : s.Canonical) : (s.touch slot home lines).Canonical := h.setSlot
theorem State.Canonical.plainLoad {t} (h : s.Canonical) : (s.plainLoad t).Canonical := .ite trivial h

theorem State.Canonical.plainStore {t bad bs} (h : s.Canonical) : (s.plainStore t bad bs).Canonical :=
  .ite trivial (State.Canonical.writeBytes (.ite h h.abortSlots))

theorem State.Canonical.roomFor {home lines slot store t} (h : s.Canonical) (e : s.roomFor home lines slot store = some t) :
    t.Canonical := by
  unfold State.roomFor at e
  dsimp only at e
  split at e
  · cases e; exact h
  · split at e
    · cases e; exact h.setSlot
    · cases e

theorem State.Canonical.clearLines {home lines slot t} (h : s.Canonical) (e : s.clearLines home lines slot = some t) : t.Canonical := by
  unfold State.clearLines at e
  dsimp only at e
  split at e
  · cases e; exact h
  · split at e
    · cases e
    · cases e; exact .ite h h.abortSlots

theorem State.Canonical.forwards {t launch slot bound granted n} (h : s.Canonical) :
    (s.forwards t launch slot bound granted n).1.Canonical := by
  induction n generalizing s granted with
  | zero => exact h
  | succ n ih =>
    unfold State.forwards
    split
    · exact h
    · dsimp only
      split
      · exact h.addEdge
      · split
        · exact ih h.addEdge
        · split
          · exact ih (.countAt (.with_dir h.addEdge.setSlot))
          · exact h.addEdge.countAt

theorem State.Canonical.regionLoad {t slot beginAt} (h : s.Canonical) : (s.regionLoad t slot beginAt).Canonical := by
  refine .ite h (.ite trivial ?_)
  split
  · trivial
  · next room =>
    split
    · trivial
    · next cleared =>
      dsimp only
      have ht := (h.roomFor room).clearLines cleared
      refine .ite ht.forwards ?_
      split
      exacts [ht.forwards, State.Canonical.foldl ht.forwards fun _ _ hu => .ite hu.touch hu.markRead]

theorem State.Canonical.regionStore {t slot beginAt bad bs} (h : s.Canonical) :
    (s.regionStore t slot beginAt bad bs).Canonical := by
  refine .ite h (.ite trivial ?_)
  split
  · trivial
  · next room =>
    split
    · trivial
    · next cleared =>
      have ht {b l} := ((h.roomFor room).clearLines cleared).addEdges (b := b) (l := l)
      exact .ite ht (State.Canonical.foldl (.ite ht ht.abortSlots) fun _ _ hu => .ite hu.writeBytes.touch hu.writeVersion)

theorem State.Canonical.homeLoad {t} (h : s.Canonical) : (s.homeLoad t).Canonical := by
  unfold State.homeLoad
  split
  exacts [h.plainLoad, h.regionLoad]

theorem State.Canonical.homeStore {t bad bs} (h : s.Canonical) : (s.homeStore t bad bs).Canonical := by
  unfold State.homeStore
  split
  exacts [h.plainStore, h.regionStore]

theorem State.Canonical.homeAmo {t op v badOperand} (h : s.Canonical) : (s.homeAmo t op v badOperand).Canonical := by
  unfold State.homeAmo
  split
  · trivial
  · trivial
  · next found => exact h.homeLoad.of_withheld found
  · next found =>
    refine .ite (h.homeLoad.of_done found) (.ite (h.homeLoad.of_done found) ?_)
    split
    · exact h.homeLoad.of_done found
    · split
      · next inner => exact (h.homeLoad.of_done found).homeStore.of_done inner
      · exact (h.homeLoad.of_done found).homeStore

/-! ## Accesses -/

theorem State.Canonical.waitGate (h : s.Canonical) : Out.Canonical s.waitGate := h.waitFor
theorem State.Canonical.holdCur {acq rel} (h : s.Canonical) : (s.holdCur acq rel).Canonical := h.setCtx

theorem State.Canonical.access {a va n align ld st body inPackage} (h : s.Canonical) (hb : ∀ ps t, t.Canonical → Out.Canonical (body ps t)) :
    Out.Canonical (s.access a va n align ld st body inPackage) := by
  refine .ite h.waitGate (.ite h.trapAt ?_)
  split
  · exact h.memTrap
  · next found =>
    have ht := h.locate found
    exact .ite ht.trap (.ite (ht.irrevocably fun _ hu => .ite hu.stall (hb _ _ hu)) (.ite ht.stall (hb _ _ ht)))

theorem State.Canonical.putParts {proto op l} (h : s.Canonical) : (s.putParts proto op l).Canonical := by
  induction l generalizing s with
  | nil => exact h
  | cons p r ih => exact ih (.sendHome h)

theorem State.Canonical.sendAccess {va ps op dst after ld st seq} (h : s.Canonical) :
    (s.sendAccess va ps op dst after ld st seq).Canonical :=
  h.putParts.setCtx

theorem State.Canonical.sendDwords {va ps off l} (h : s.Canonical) : (s.sendDwords va ps off l).Canonical := by
  induction l generalizing s off with
  | nil => exact h
  | cons x r ih => exact ih h.sendAccess

theorem State.Canonical.loadOp {len d va n signed acquire} (h : s.Canonical) :
    Out.Canonical (s.loadOp len d va n signed acquire) :=
  h.access (fun _ _ ht => State.Canonical.skip (.ite ht.sendAccess.holdCur ht.sendAccess))

theorem State.Canonical.storeOp {len va n x bad release} (h : s.Canonical) : Out.Canonical (s.storeOp len va n x bad release) :=
  h.access (fun _ _ ht => ht.sendAccess.holdCur.skip)

theorem State.Canonical.amoOp {d va n op v} (h : s.Canonical) : Out.Canonical (s.amoOp d va n op v) :=
  h.access (fun _ _ ht => ht.sendAccess.skip)

theorem State.Canonical.readParts {proto l bs bad t} (h : s.Canonical) (e : s.readParts proto l = some (bs, bad, t)) : t.Canonical := by
  induction l generalizing s bs bad with
  | nil => cases e; exact h
  | cons p r ih =>
    simp only [State.readParts] at e
    split at e
    · next read =>
      split at e
      · next rest => cases e; exact ih (h.homeLoad.of_done read) rest
      · cases e
    · cases e

theorem State.Canonical.locateDwords {a near va off n ps t} (h : s.Canonical) (e : s.locateDwords a near va off n = .ok (ps, t)) :
    t.Canonical := by
  induction n generalizing s off ps with
  | zero => cases e; exact h
  | succ n ih =>
    simp only [State.locateDwords] at e
    split at e
    · cases e
    · next first =>
      split at e
      · cases e
      · split at e
        · cases e
        · next rest => cases e; exact ih (h.locate first) rest

theorem State.Canonical.storeDwords {va n body} (h : s.Canonical) (hb : ∀ ps t, t.Canonical → Out.Canonical (body ps t)) :
    Out.Canonical (s.storeDwords va n body) := by
  refine .ite h.waitGate (.ite h.trapAt ?_)
  split
  · exact h.memTrap
  · next found =>
    have ht := h.locateDwords found
    exact .ite (ht.irrevocably fun _ hu => .ite hu.stall (hb _ _ hu)) (.ite ht.stall (hb _ _ ht))

theorem State.Canonical.readRecord {va n align body} (h : s.Canonical) (hb : ∀ bs t, t.Canonical → Out.Canonical (body bs t)) :
    Out.Canonical (s.readRecord va n align body) := by
  refine .ite h.waitGate (.ite h.trapAt ?_)
  split
  · exact h.memTrap
  · next found =>
    have ht := h.locateDwords found
    refine .ite ht.stall ?_
    split
    · exact ht.stall
    · next read => exact .ite (ht.readParts read).logError.trap (hb _ _ (ht.readParts read))

theorem State.Canonical.ringTake {seq t} (h : s.Canonical) (e : s.ringTake = some (seq, t)) : t.Canonical := by
  unfold State.ringTake at e
  dsimp only at e
  split at e
  · cases e
  · cases e; exact h.setCore

theorem State.Canonical.lateFault {k act launch r} (h : s.Canonical) : (s.lateFault k act launch r).Canonical := h.fresh

theorem State.Canonical.lateHere {seq sub detail addr lane} (h : s.Canonical) : (s.lateHere seq sub detail addr lane).Canonical :=
  h.lateFault

theorem State.Canonical.coprocess {need body} (h : s.Canonical) (hb : ∀ t n, t.Canonical → Out.Canonical (body t n)) :
    Out.Canonical (s.coprocess need body) := by
  refine h.issue ?_
  split
  · exact h.stall
  · next found => exact .ite (h.ringTake found).lateHere.skip (hb _ _ (h.ringTake found))

theorem State.Canonical.setTxn {t} (h : s.Canonical) : (s.setTxn t).Canonical := h
theorem State.Canonical.answerArrivals {home key phases} (h : s.Canonical) : (s.answerArrivals home key phases).Canonical := h

theorem State.Canonical.settle {t ans done} (h : s.Canonical) (ha : ans.Canonical) : (s.settle t ans done).Canonical := by
  cases ans with
  | wait => exact h
  | crowded => exact h.setTxn
  | withheld u a b => exact .setTxn ha
  | done u bs bad => exact .setTxn (.ite (.logError ha) ha)

theorem State.Canonical.arriveAt {t q waits} (h : s.Canonical) : (s.arriveAt t q waits).Canonical := by
  unfold State.arriveAt
  split
  · exact h
  · exact h.setTxn
  · next found => exact (h.homeLoad.of_withheld found).setTxn
  · next found =>
    refine .ite ((h.homeLoad.of_done found).logError.setTxn) ?_
    split
    · exact (h.homeLoad.of_done found).setTxn
    · split
      · next inner => exact ((h.homeLoad.of_done found).homeStore.of_done inner).setTxn.answerArrivals
      · exact h.homeLoad.of_done found

theorem State.Canonical.tcbAt {t f} (h : s.Canonical) : (s.tcbAt t f).Canonical := by
  unfold State.tcbAt
  split
  · exact h
  · exact h.setTxn
  · next found => exact (h.homeLoad.of_withheld found).setTxn
  · next found =>
    refine .ite ((h.homeLoad.of_done found).logError.setTxn) ?_
    dsimp only
    split
    · exact (h.homeLoad.of_done found).setTxn
    · split
      · next inner => exact ((h.homeLoad.of_done found).homeStore.of_done inner).setTxn
      · exact h.homeLoad.of_done found

theorem State.Canonical.performMemory {t} (h : s.Canonical) : (s.performMemory t).Canonical := by
  unfold State.performMemory
  split
  exacts [h.settle h.homeLoad, h.settle h.homeLoad, h.settle h.homeStore, h.settle h.homeAmo, h.arriveAt, h.tcbAt, h.tcbAt, h]

theorem State.Canonical.performWhole {t} (h : s.Canonical) : (s.performWhole t).Canonical :=
  .ite h (.ite (h.performMemory.foldl fun _ _ ht => ht.performMemory) h.performMemory)

theorem State.Canonical.respond {t} (h : s.Canonical) : (s.respond t).Canonical := .finishTxn (.ite h.setCtx h)

theorem State.Canonical.awaiting {first done} (h : s.Canonical) (hf : Out.Canonical (first s))
    (hd : ∀ t x, t.Canonical → Out.Canonical (done t x)) : Out.Canonical (s.awaiting first done) := by
  unfold State.awaiting
  dsimp only
  split
  exacts [hf, h.stall, hd _ _ h.setCtx]

/-! ## Integer instructions -/

theorem State.Canonical.alu2 {len d a b f} (h : s.Canonical) : Out.Canonical (s.alu2 len d a b f) := h.issue h.result
theorem State.Canonical.alu1 {len d a f} (h : s.Canonical) : Out.Canonical (s.alu1 len d a f) := h.issue h.result
theorem State.Canonical.alu0 {len d x} (h : s.Canonical) : Out.Canonical (s.alu0 len d x) := h.issue h.result
theorem State.Canonical.execAdd {d a b} (h : s.Canonical) : Out.Canonical (execAdd d a b s) := h.alu2
theorem State.Canonical.execSub {d a b} (h : s.Canonical) : Out.Canonical (execSub d a b s) := h.alu2
theorem State.Canonical.execAnd {d a b} (h : s.Canonical) : Out.Canonical (execAnd d a b s) := h.alu2
theorem State.Canonical.execOr {d a b} (h : s.Canonical) : Out.Canonical (execOr d a b s) := h.alu2
theorem State.Canonical.execXor {d a b} (h : s.Canonical) : Out.Canonical (execXor d a b s) := h.alu2
theorem State.Canonical.execShl {d a b} (h : s.Canonical) : Out.Canonical (execShl d a b s) := h.alu2
theorem State.Canonical.execShr {d a b} (h : s.Canonical) : Out.Canonical (execShr d a b s) := h.alu2
theorem State.Canonical.execSha {d a b} (h : s.Canonical) : Out.Canonical (execSha d a b s) := h.alu2
theorem State.Canonical.execMin {d a b} (h : s.Canonical) : Out.Canonical (execMin d a b s) := h.alu2
theorem State.Canonical.execMax {d a b} (h : s.Canonical) : Out.Canonical (execMax d a b s) := h.alu2
theorem State.Canonical.execMinu {d a b} (h : s.Canonical) : Out.Canonical (execMinu d a b s) := h.alu2
theorem State.Canonical.execMaxu {d a b} (h : s.Canonical) : Out.Canonical (execMaxu d a b s) := h.alu2
theorem State.Canonical.execSeq {d a b} (h : s.Canonical) : Out.Canonical (execSeq d a b s) := h.alu2
theorem State.Canonical.execSne {d a b} (h : s.Canonical) : Out.Canonical (execSne d a b s) := h.alu2
theorem State.Canonical.execSlt {d a b} (h : s.Canonical) : Out.Canonical (execSlt d a b s) := h.alu2
theorem State.Canonical.execSltu {d a b} (h : s.Canonical) : Out.Canonical (execSltu d a b s) := h.alu2
theorem State.Canonical.execMul {d a b} (h : s.Canonical) : Out.Canonical (execMul d a b s) := h.alu2
theorem State.Canonical.execMulh {d a b} (h : s.Canonical) : Out.Canonical (execMulh d a b s) := h.alu2
theorem State.Canonical.execMulhu {d a b} (h : s.Canonical) : Out.Canonical (execMulhu d a b s) := h.alu2
theorem State.Canonical.execDiv {d a b} (h : s.Canonical) : Out.Canonical (execDiv d a b s) := h.alu2
theorem State.Canonical.execDivu {d a b} (h : s.Canonical) : Out.Canonical (execDivu d a b s) := h.alu2
theorem State.Canonical.execRem {d a b} (h : s.Canonical) : Out.Canonical (execRem d a b s) := h.alu2
theorem State.Canonical.execRemu {d a b} (h : s.Canonical) : Out.Canonical (execRemu d a b s) := h.alu2
theorem State.Canonical.execSel {d a b} (h : s.Canonical) : Out.Canonical (execSel d a b s) := h.issue h.result
theorem State.Canonical.execClz {d a} (h : s.Canonical) : Out.Canonical (execClz d a s) := h.alu1
theorem State.Canonical.execPopc {d a} (h : s.Canonical) : Out.Canonical (execPopc d a s) := h.alu1
theorem State.Canonical.execExtsB {d a} (h : s.Canonical) : Out.Canonical (execExtsB d a s) := h.alu1
theorem State.Canonical.execExtsH {d a} (h : s.Canonical) : Out.Canonical (execExtsH d a s) := h.alu1
theorem State.Canonical.execExtsW {d a} (h : s.Canonical) : Out.Canonical (execExtsW d a s) := h.alu1
theorem State.Canonical.execExtzB {d a} (h : s.Canonical) : Out.Canonical (execExtzB d a s) := h.alu1
theorem State.Canonical.execExtzH {d a} (h : s.Canonical) : Out.Canonical (execExtzH d a s) := h.alu1
theorem State.Canonical.execExtzW {d a} (h : s.Canonical) : Out.Canonical (execExtzW d a s) := h.alu1
theorem State.Canonical.execAddi {d a i} (h : s.Canonical) : Out.Canonical (execAddi d a i s) := h.alu1
theorem State.Canonical.execAndi {d a i} (h : s.Canonical) : Out.Canonical (execAndi d a i s) := h.alu1
theorem State.Canonical.execOri {d a i} (h : s.Canonical) : Out.Canonical (execOri d a i s) := h.alu1
theorem State.Canonical.execXori {d a i} (h : s.Canonical) : Out.Canonical (execXori d a i s) := h.alu1
theorem State.Canonical.execSlti {d a i} (h : s.Canonical) : Out.Canonical (execSlti d a i s) := h.alu1
theorem State.Canonical.execSltiu {d a i} (h : s.Canonical) : Out.Canonical (execSltiu d a i s) := h.alu1
theorem State.Canonical.execShli {d a i} (h : s.Canonical) : Out.Canonical (execShli d a i s) := h.alu1
theorem State.Canonical.execShri {d a i} (h : s.Canonical) : Out.Canonical (execShri d a i s) := h.alu1
theorem State.Canonical.execShai {d a i} (h : s.Canonical) : Out.Canonical (execShai d a i s) := h.alu1
theorem State.Canonical.execLi {d i} (h : s.Canonical) : Out.Canonical (execLi d i s) := h.alu0
theorem State.Canonical.execLis {d i} (h : s.Canonical) : Out.Canonical (execLis d i s) := h.alu1
theorem State.Canonical.execCHint (h : s.Canonical) : Out.Canonical (execCHint s) := h.issue h.skip
theorem State.Canonical.execCMov {d a} (h : s.Canonical) : Out.Canonical (execCMov d a s) := h.alu2
theorem State.Canonical.execCAdd {d a} (h : s.Canonical) : Out.Canonical (execCAdd d a s) := h.alu2
theorem State.Canonical.execCSub {d a} (h : s.Canonical) : Out.Canonical (execCSub d a s) := h.alu2
theorem State.Canonical.execCAnd {d a} (h : s.Canonical) : Out.Canonical (execCAnd d a s) := h.alu2
theorem State.Canonical.execCAddi {d i} (h : s.Canonical) : Out.Canonical (execCAddi d i s) := h.alu1
theorem State.Canonical.execCLi {d i} (h : s.Canonical) : Out.Canonical (execCLi d i s) := h.alu0
theorem State.Canonical.execCShli {d n} (h : s.Canonical) : Out.Canonical (execCShli d n s) := h.alu1

end Sys2Proof.Machine
end

section
/-!
SUPPORT. The canonical form: worklists, messages, operand slots and exceptions.
-/

namespace Sys2Proof.Machine

variable {s : State}

/-! ## Worklists -/

theorem State.Canonical.writeChunk {tag k} (h : s.Canonical) : (s.writeChunk tag k).Canonical := by
  unfold State.writeChunk
  split
  exacts [h.writeList, h]

theorem State.Canonical.writeChunks {tag ks} (h : s.Canonical) : (s.writeChunks tag ks).Canonical :=
  h.foldl fun _ _ ht => ht.writeChunk

theorem State.Canonical.keepChunk {core tag rs} (h : s.Canonical) : (s.keepChunk core tag rs).Canonical := h.setCore.writeChunk

theorem State.Canonical.gather {core tag r} (h : s.Canonical) : (s.gather core tag r).Canonical :=
  .ite h.setCore.keepChunk h.setCore

theorem State.Canonical.spill {core tag} (h : s.Canonical) : (s.spill core tag).Canonical := .ite h.setCore.keepChunk h

theorem State.Canonical.putRecord {core tag r a} (h : s.Canonical) : (s.putRecord core tag r a).Canonical := by
  unfold State.putRecord
  split
  exacts [h.gather, h.setCore, h.setCore]

theorem State.Canonical.push {core ctx depth r txn} (h : s.Canonical) : (s.push core ctx depth r txn).1.Canonical := by
  unfold State.push
  dsimp only
  split
  · exact h
  · split
    exacts [h.putRecord.spill, h.setCore]

theorem State.Canonical.pushed {w} (h : s.Canonical) : (s.pushed w).Canonical := by
  unfold State.pushed
  dsimp only
  split
  · refine .respond ?_
    split
    exacts [h.setCtx, h]
  · split
    exacts [h.setCtx, h]

theorem State.Canonical.servePushes {core earlier l} (h : s.Canonical) : (s.servePushes core earlier l).Canonical := by
  induction l generalizing s earlier with
  | nil => exact h
  | cons w r ih =>
    refine .ite (ih h.setCore.pushed) ?_
    split
    exacts [ih h.putRecord.setCore.pushed, ih h]

theorem State.Canonical.spillServe {core n} (h : s.Canonical) : (s.spillServe core n).Canonical := by
  induction n generalizing s with
  | zero => exact h
  | succ n ih => exact .ite h (ih h.servePushes.spill)

theorem State.Canonical.afterTake {core} (h : s.Canonical) : (s.afterTake core).Canonical := h.spillServe

theorem State.Canonical.execWlpush {a} (h : s.Canonical) : Out.Canonical (execWlpush a s) := by
  refine h.issue (.ite h.stall (h.irrevocably fun _ ht => .ite ht.waitGate (.ite ht.stall ?_)))
  exact ht.readRecord fun _ _ hu => .ite hu.trap (.ite (State.Canonical.skip (.push hu)) (State.Canonical.stall (.push hu)))

theorem State.Canonical.execWlfloor {d} (h : s.Canonical) : Out.Canonical (execWlfloor d s) := h.issue h.result
theorem State.Canonical.takeRecord {core r} (h : s.Canonical) : (s.takeRecord core r).Canonical := h.setCore.afterTake

theorem State.Canonical.popRecord {d va ps} (h : s.Canonical) : Out.Canonical (s.popRecord d va ps) := by
  unfold State.popRecord
  dsimp only
  split
  exacts [h.result, .ite h.stall h.takeRecord.sendDwords.result]

theorem State.Canonical.execWlpop {d a} (h : s.Canonical) : Out.Canonical (execWlpop d a s) := by
  refine h.issue (.ite h.waitGate (.ite h.trapAt ?_))
  split
  · exact h.memTrap
  · next found => exact (h.locateDwords found).irrevocably (fun _ ht => ht.popRecord)

theorem State.Canonical.tcbOp {d a op release} (h : s.Canonical) : Out.Canonical (s.tcbOp d a op release) :=
  h.issue (h.access (fun _ _ ht => ht.irrevocably (fun _ hu => hu.sendAccess.holdCur.skip)))

theorem State.Canonical.execTkarm {d a} (h : s.Canonical) : Out.Canonical (execTkarm d a s) := h.tcbOp
theorem State.Canonical.execTksig {d a} (h : s.Canonical) : Out.Canonical (execTksig d a s) := h.tcbOp

/-! ## Messages -/

theorem State.Canonical.sendTo {e place payload words need} (h : s.Canonical) :
    Out.Canonical (s.sendTo e place payload words need) := by
  unfold State.sendTo
  dsimp only
  split
  · exact h.trap
  · exact .ite h.trap (h.issue (.ite h.trap (h.irrevocably (fun _ ht => .ite ht.waitGate (.ite ht.stall ht.post.setCtx.skip)))))

theorem State.Canonical.execSend {a b} (h : s.Canonical) : Out.Canonical (execSend a b s) := h.issueOn (.ite h.trap h.sendTo)

theorem State.Canonical.execSendv {d a v} (h : s.Canonical) : Out.Canonical (execSendv d a v s) :=
  h.issueOn (.ite h.trap (.ite h.trap h.sendTo))

theorem State.Canonical.ownDword {k a va x t} (h : s.Canonical) (e : s.ownDword k a va = .ok (x, t)) : t.Canonical := by
  unfold State.ownDword at e
  split at e
  · cases e
  · split at e
    · cases e
    · next found =>
      dsimp only at e
      split at e
      · cases e
      · cases e; exact h.locate found

theorem State.Canonical.signalFault {k tag f addr} (h : s.Canonical) : (s.signalFault k tag f addr).Canonical :=
  h.noteError.lateClass

theorem State.Canonical.signalOne {k tag tcb after} (h : s.Canonical) : (s.signalOne k tag tcb after).Canonical := by
  refine .ite h.signalFault ?_
  split
  · exact h.signalFault
  · next found => exact (h.locate found).putParts

theorem State.Canonical.signalFrom {k tag array after i n} (h : s.Canonical) :
    (s.signalFrom k tag array after i n).Canonical := by
  induction n generalizing s i with
  | zero => exact h
  | succ n ih =>
    unfold State.signalFrom
    split
    · exact ih h.signalFault
    · next found => exact ih (h.ownDword found).signalOne

theorem State.Canonical.endTask {k tcb} (h : s.Canonical) : (s.endTask k tcb).Canonical := by
  unfold State.endTask
  dsimp only
  split
  · exact h.tcbState.signalFault
  · next found =>
    split
    · exact (h.tcbState.ownDword found).signalFault
    · next inner => exact ((h.tcbState.ownDword found).ownDword inner).signalFrom

theorem State.Canonical.endTileTask {k job} (h : s.Canonical) : (s.endTileTask k job).Canonical := h

theorem State.Canonical.endActivation {k} (h : s.Canonical) : (s.endActivation k).Canonical := by
  unfold State.endActivation
  dsimp only
  split
  · exact h.rest
  · refine .ite (.endLaunch (.rest ?_)) (.rest ?_)
    · split
      · refine .endTileTask ?_
        split
        exacts [h.endTask, h]
      · split
        exacts [h.endTask, h]
    · split
      · refine .endTileTask ?_
        split
        exacts [h.endTask, h]
      · split
        exacts [h.endTask, h]

theorem State.Canonical.hretBody (h : s.Canonical) : Out.Canonical s.hretBody := .ite h.trap (.ite h.stall h.endActivation)
theorem State.Canonical.hret (h : s.Canonical) : Out.Canonical s.hret := h.issue h.hretBody
theorem State.Canonical.execHret (h : s.Canonical) : Out.Canonical (execHret s) := h.hret
theorem State.Canonical.execCHret (h : s.Canonical) : Out.Canonical (execCHret s) := h.hret

/-! ## Operand slots -/

theorem State.Canonical.execOsclaim {d a} (h : s.Canonical) : Out.Canonical (execOsclaim d a s) := by
  refine h.issue (.ite h.trap (h.irrevocably (fun _ ht => ?_)))
  dsimp only
  split
  exacts [ht.result, ht.setTile.result]

theorem State.Canonical.execOsrel {a} (h : s.Canonical) : Out.Canonical (execOsrel a s) :=
  h.issue (.ite h.trap (.ite h.trap (h.irrevocably (fun _ ht => ht.setTile.skip))))

theorem State.Canonical.startLoad {slot seq src} (h : s.Canonical) : (s.startLoad slot seq src).Canonical := h

theorem State.Canonical.execOsld {a b} (h : s.Canonical) : Out.Canonical (execOsld a b s) := by
  refine h.issue ?_
  split
  · exact h.trap
  · refine h.irrevocably (fun _ ht => .ite ht.waitGate (.ite ht.stall ?_))
    split
    · exact ht.stall
    · next found => exact (ht.ringTake found).startLoad.done

theorem State.Canonical.pokeImage {unit first pos side l} (h : s.Canonical) :
    (s.pokeImage unit first pos side l).Canonical := by
  induction l generalizing s pos with
  | nil => exact h
  | cons b r ih => exact ih (s := { s with opmem := Tbl.set 0 s.opmem (imageKey unit first pos side) b }) h

theorem State.Canonical.readPieces {l sealed ps} (h : s.Canonical) : (s.readPieces l sealed ps).Canonical := by
  induction ps generalizing s sealed with
  | nil => exact h
  | cons p r ih =>
    unfold State.readPieces
    split
    · exact h.noteError
    · next found =>
      have ht := h.locateBy found
      refine .ite ht (.ite trivial ?_)
      dsimp only
      split
      · next read =>
        have hu := ht.sendFor.homeLoad.of_done read
        exact .ite hu.logError (ih hu.pokeImage)
      · trivial
    · next found => exact h.locateBy found

theorem State.Canonical.endLoad {l} (h : s.Canonical) : (s.endLoad l).Canonical := .lowerCp h

theorem State.Canonical.failLoad {l sub detail addr} (h : s.Canonical) : (s.failLoad l sub detail addr).Canonical :=
  h.setTile.endLoad.lateFault

theorem State.Canonical.zeroGroup {l} (h : s.Canonical) : (s.zeroGroup l).Canonical := .ite (.ite h h) h

theorem State.Canonical.completeLoad {l} (h : s.Canonical) : (s.completeLoad l).Canonical := by
  unfold State.completeLoad
  split
  · exact h.failLoad
  · split
    · exact h
    · next found => exact (h.zeroGroup.readPieces.of_fault found).failLoad
    · next found => exact (h.zeroGroup.readPieces.of_done found).setTile.endLoad.ringRetire

theorem State.Canonical.execOsldComplete {op} (h : s.Canonical) : Out.Canonical (execOsldComplete op s) := by
  unfold Machine.execOsldComplete
  split
  exacts [h, .ite h.completeLoad h]

/-! ## Exceptions -/

theorem State.Canonical.execTrap {i} (h : s.Canonical) : Out.Canonical (execTrap i s) := h.issue h.trapAt
theorem State.Canonical.execBkpt (h : s.Canonical) : Out.Canonical (execBkpt s) := h.issue h.trapAt
theorem State.Canonical.execSvc {d a b} (h : s.Canonical) : Out.Canonical (execSvc d a b s) := h.issue (.ite h.trap h.trap)
theorem State.Canonical.ringFault {core seq} (h : s.Canonical) : (s.ringFault core seq).Canonical := .ite h.setCore h

theorem State.Canonical.lateStop {k} (h : s.Canonical) : (s.lateStop k).Canonical := by
  unfold State.lateStop
  dsimp only
  split
  exacts [h, h.stopCtx]

theorem State.Canonical.execLateFault {id} (h : s.Canonical) : Out.Canonical (execLateFault id s) := by
  unfold Machine.execLateFault
  split
  · exact h
  · refine .ite (State.Canonical.ite (.lateStop ?_) ?_) (State.Canonical.lateClass (.ringFault h))
    all_goals exact .setCtx (.ringFault h)

theorem State.Canonical.deliverTrap {k st} (h : s.Canonical) : (s.deliverTrap k st).Canonical := by
  refine .ite h ?_
  split
  exacts [h.launchEvent, .ite h.setCtx (.ite h.endLaunch h.trapMessage)]

theorem State.Canonical.finishCheck {u} (h : s.Canonical) : (s.finishCheck u).Canonical := by
  refine .ite h ?_
  split
  exacts [h.setTile.endLaunch, h.setTile]

theorem State.Canonical.execFolioWrite {k} (h : s.Canonical) : Out.Canonical (execFolioWrite k s) := by
  unfold Machine.execFolioWrite
  split
  exacts [h, .ite h h.writeFolio.deliverTrap.finishCheck]

theorem State.Canonical.folioError {k} (h : s.Canonical) : (s.folioError k).Canonical := by
  unfold State.folioError
  split
  exacts [h, .ite h h.logError.endLaunch]

theorem State.Canonical.readFolio {k va f t} (h : s.Canonical) (e : s.readFolio k va = some (f, t)) : t.Canonical := by
  unfold State.readFolio at e
  split at e
  · cases e
  · next found => cases e; exact h.locate found

theorem State.Canonical.discardStopped {k} (h : s.Canonical) : (s.discardStopped k).Canonical := by
  unfold State.discardStopped
  dsimp only
  split
  · exact h.endRegion.rest
  · refine .ite (.endLaunch (.rest ?_)) (.rest ?_)
    · split
      · exact h.endRegion
      · split
        exacts [h.endRegion.endTileTask, h.endRegion.endTileTask.trapMessage]
    · split
      · exact h.endRegion
      · split
        exacts [h.endRegion.endTileTask, h.endRegion.endTileTask.trapMessage]

theorem State.Canonical.resDone {d x} (h : s.Canonical) : Out.Canonical (s.resDone d x) := h.done
theorem State.Canonical.resWait (h : s.Canonical) : Out.Canonical s.resWait := h.setCtx.stall

theorem State.Canonical.ctxresOn {k st va action d} (h : s.Canonical) : Out.Canonical (s.ctxresOn k st va action d) := by
  unfold State.ctxresOn
  split
  · exact h.resDone
  · next found =>
    have ht := h.readFolio found
    exact .ite ht.resDone (.ite ht.discardStopped.resDone ht.resume.resDone)

theorem State.Canonical.execCtxres {d a b} (h : s.Canonical) : Out.Canonical (execCtxres d a b s) := by
  refine h.issue (.ite h.waitGate (.ite h.stall ?_))
  split
  · exact h.resDone
  · split
    exacts [h.resDone, .ite h.resWait h.ctxresOn]

theorem State.Canonical.returnFolio {k st f t} (h : s.Canonical) (e : s.returnFolio k st = some (f, t)) : t.Canonical := by
  unfold State.returnFolio at e
  split at e
  · next found =>
    split at e
    · cases e
      obtain ⟨va, -, read⟩ := Option.bind_eq_some_iff.1 found
      exact h.readFolio read
    · cases e
  · cases e

theorem State.Canonical.eretOn {k st x} (h : s.Canonical) : (s.eretOn k st x).1.Canonical := by
  unfold State.eretOn
  split
  · exact h
  · next found =>
    dsimp only
    split
    · split
      · exact h.returnFolio found
      · split
        · exact h.returnFolio found
        · split
          exacts [(h.returnFolio found).resume, (h.returnFolio found).endLaunch]
    · split <;> exact (h.returnFolio found).resume

theorem State.Canonical.execEret {d a b} (h : s.Canonical) : Out.Canonical (execEret d a b s) := by
  refine h.issue (.ite h.waitGate (.ite h.stall ?_))
  split
  · exact h.resDone
  · split
    exacts [h.resDone, .ite h.resWait h.eretOn.resDone]

theorem State.Canonical.execHalt (h : s.Canonical) : Out.Canonical (execHalt s) :=
  h.issue (.ite (h.foldl fun _ _ ht => ht.rest) (.ite h.setCore.skip h.stall))

/-! ## Delivery -/

theorem State.Canonical.writeScratch {u off bs} (h : s.Canonical) : (s.writeScratch u off bs).Canonical :=
  h.abortReaders.writeList

theorem State.Canonical.writeRecord {core l m charge reserve t} (h : s.Canonical) (e : s.writeRecord core l m charge reserve = some t) :
    t.Canonical := by
  unfold State.writeRecord at e
  extract_lets u c n ring pad off base at e
  split at e
  · cases e
  · split at e
    · cases e
    · cases e; exact .setCore (.writeScratch (.ite h h.writeScratch))

theorem State.Canonical.ackMsg {m} (h : s.Canonical) : (s.ackMsg m).Canonical := by
  refine .ite h ?_
  split
  exacts [.lowerCp h, .lower h, h]

theorem State.Canonical.requeue {m} (h : s.Canonical) : (s.requeue m).Canonical := h
theorem State.Canonical.storeParked {l ws} (h : s.Canonical) : (s.storeParked l ws).Canonical := .ite h h.writeList

theorem State.Canonical.parkMsg {m} (h : s.Canonical) : (s.parkMsg m).Canonical := by
  unfold State.parkMsg
  split
  exacts [h.ackMsg, .ite h.ackMsg (.ite h h.storeParked.fresh.setLaunch.ackMsg)]

theorem State.Canonical.admitMsg {core l m charge reserve} (h : s.Canonical) :
    (s.admitMsg core l m charge reserve).Canonical := by
  refine .ite ?_ h.requeue
  split
  · next found => exact (h.requeue.writeRecord found).ackMsg
  · exact h.requeue

theorem State.Canonical.arriveMsg {core l m} (h : s.Canonical) : (s.arriveMsg core l m).Canonical := by
  unfold State.arriveMsg
  dsimp only
  split
  exacts [h.admitMsg, h.requeue]

theorem State.Canonical.discardPacket {m u} (h : s.Canonical) : (s.discardPacket m u).Canonical := h.setCluster.secEvent.ackMsg

theorem State.Canonical.messageAtTile {m} (h : s.Canonical) : (s.messageAtTile m).Canonical := by
  unfold State.messageAtTile
  dsimp only
  split
  · exact h.fresh
  · refine .ite h (.ite h.discardPacket (.ite h.parkMsg ?_))
    split
    exacts [h.ackMsg, .ite h.parkMsg h.setLaunch.arriveMsg]

theorem State.Canonical.leavePackage {m} (h : s.Canonical) : (s.leavePackage m).Canonical := by
  unfold State.leavePackage
  extract_lets plane sent stream source away gave
  have hs : sent.Canonical := by
    unfold sent
    split
    exacts [h.setLaunch, h]
  clear_value sent
  have ha : away.Canonical := hs.sendOn
  clear_value away
  have hg : gave.Canonical := ha.setStream
  clear_value gave
  exact .ite h hg

theorem State.Canonical.execMessageDelivery {id} (h : s.Canonical) : Out.Canonical (execMessageDelivery id s) := by
  unfold Machine.execMessageDelivery
  split
  · exact h
  · split
    · split
      · refine .ite h (.ite h.parkMsg ?_)
        split
        · next found => exact (h.writeRecord found).ackMsg
        · exact h
      · exact h
    · exact .ite h (.ite h.parkMsg (.ite h.leavePackage (.ite h.messageAtTile (State.Canonical.ackMsg h))))

theorem State.Canonical.execHeldMessageAdmit {core} (h : s.Canonical) : Out.Canonical (execHeldMessageAdmit core s) := by
  unfold Machine.execHeldMessageAdmit
  split
  · exact h
  · split
    · exact h.ackMsg
    · refine .ite h.parkMsg ?_
      split
      exacts [h.admitMsg, h]

theorem State.Canonical.checkPad {k} (h : s.Canonical) : (s.checkPad k).Canonical := by
  unfold State.checkPad
  dsimp only
  split
  · next found => exact .ite (h.fetchBytes.of_snd found) (h.fetchBytes.of_snd found).stopCtx
  · next found => exact (h.fetchBytes.of_snd found).stopCtx

theorem State.Canonical.start {k tag l e a w4 args} (h : s.Canonical) : (s.start k tag l e a w4 args).Canonical :=
  h.activate.setTile.setCore.checkPad

theorem State.Canonical.markRecord {core id} (h : s.Canonical) : (s.markRecord core id).Canonical := h.setCore

theorem State.Canonical.execMessageDispatch {core} (h : s.Canonical) : Out.Canonical (execMessageDispatch core s) := by
  unfold Machine.execMessageDispatch
  split
  · exact h
  · split
    · dsimp only
      split
      exacts [h.setCore.logError.launchEvent, h.markRecord.start]
    · exact h

end Sys2Proof.Machine
end

section
/-!
SUPPORT. The canonical form: the engines, their runs, tile tasks and the life of a context.
-/

namespace Sys2Proof.Machine

variable {s : State}

/-! ## Engines -/

theorem State.Canonical.execQbind {d a b} (h : s.Canonical) : Out.Canonical (execQbind d a b s) := by
  refine h.issue (h.irrevocably (fun _ ht => ?_))
  dsimp only
  split
  exacts [.ite ht.result ht.setLaunch.result, ht.result]

theorem State.Canonical.submit {j home after cp tl} (h : s.Canonical) : (s.submit j home after cp tl).Canonical :=
  .holdCur (.setCtx h.fresh)

theorem State.Canonical.execJob {d a b} (h : s.Canonical) : Out.Canonical (execJob d a b s) := by
  refine h.issue (.ite h.trapAt ?_)
  split
  · exact h.result
  · exact h.irrevocably (fun _ ht => .ite ht.waitGate (ht.readRecord (fun _ _ hu => .ite hu.stall hu.fresh.submit.result)))

theorem State.Canonical.execTtq {d a} (h : s.Canonical) : Out.Canonical (execTtq d a s) := by
  refine h.issue (.ite h.trapAt (.ite h.result (h.irrevocably fun _ ht => .ite ht.waitGate ?_)))
  exact ht.readRecord fun _ _ hu => .ite hu.trap (.ite hu.stall hu.fresh.submit.result)

theorem State.Canonical.engineFor {u tag} (h : s.Canonical) : (s.engineFor u tag).Canonical := h.setCtx
theorem State.Canonical.engineFree {u} (h : s.Canonical) : (s.engineFree u).Canonical := h.setCtx

theorem State.Canonical.blkPart {va off len} (h : s.Canonical) : (s.blkPart va off len).2.Canonical := by
  unfold State.blkPart
  split
  · next found => exact (h.locate found).fresh
  · next found => exact (h.locate found).fresh
  · exact h.fresh

theorem State.Canonical.blkParts {va l} (h : s.Canonical) : (s.blkParts va l).2.Canonical := by
  induction l generalizing s with
  | nil => exact h
  | cons e r ih => exact ih h.blkPart

theorem State.Canonical.sendBlk {k p} (h : s.Canonical) : (s.sendBlk k p).Canonical := by
  unfold State.sendBlk
  split
  exacts [h, h.sendHome]

theorem State.Canonical.execBlkrd {a b} (h : s.Canonical) : Out.Canonical (execBlkrd a b s) := by
  refine h.issue ?_
  dsimp only
  split
  · exact h.trapAt
  · refine h.irrevocably fun t ht => .ite (State.Canonical.waitGate ht.engineFor.blkParts) ?_
    exact .ite (State.Canonical.stall ht.engineFor.blkParts)
      (State.Canonical.done (.foldl ht.engineFor.blkParts fun _ _ hu => hu.sendBlk))

/-! ## The matrix engine -/

theorem State.Canonical.engineIssue {op} (h : s.Canonical) : Out.Canonical (s.engineIssue op) := by
  refine h.irrevocably (fun _ ht => ?_)
  split
  · exact ht.stall
  · next found => exact (ht.ringTake found).setTile.skip

theorem State.Canonical.execMwld {a} (h : s.Canonical) : Out.Canonical (execMwld a s) := by
  refine h.issue ?_
  split
  exacts [h.trap, h.engineIssue]

theorem State.Canonical.mmaOp {a b kind} (h : s.Canonical) : Out.Canonical (s.mmaOp a b kind) := by
  refine h.issue ?_
  dsimp only
  split
  · exact h.trap
  · split
    exacts [h.trap, h.engineIssue]

theorem State.Canonical.execMmaF {a b} (h : s.Canonical) : Out.Canonical (execMmaF a b s) := h.mmaOp
theorem State.Canonical.execMmaI {a b} (h : s.Canonical) : Out.Canonical (execMmaI a b s) := h.mmaOp
theorem State.Canonical.execMmaRs {a b} (h : s.Canonical) : Out.Canonical (execMmaRs a b s) := h.mmaOp
theorem State.Canonical.execMzero {a b} (h : s.Canonical) : Out.Canonical (execMzero a b s) := h.issue h.engineIssue
theorem State.Canonical.mdrainOp {a b kind} (h : s.Canonical) : Out.Canonical (s.mdrainOp a b kind) := h.issue h.engineIssue
theorem State.Canonical.execMdrainF {a b} (h : s.Canonical) : Out.Canonical (execMdrainF a b s) := h.mdrainOp
theorem State.Canonical.execMdrainIw {a b} (h : s.Canonical) : Out.Canonical (execMdrainIw a b s) := h.mdrainOp
theorem State.Canonical.execMdrainIs {a b} (h : s.Canonical) : Out.Canonical (execMdrainIs a b s) := h.mdrainOp
theorem State.Canonical.execMdrainRs {a b} (h : s.Canonical) : Out.Canonical (execMdrainRs a b s) := h.mdrainOp

theorem State.Canonical.execDrdone (h : s.Canonical) : Out.Canonical (execDrdone s) := by
  refine h.issue (h.irrevocably (fun _ ht => ?_))
  split
  · exact ht.stall
  · next found => exact (ht.ringTake found).ringRetire.freeDrain.skip

theorem State.Canonical.engineDone {unit e t} (h : s.Canonical) : (s.engineDone unit e t).Canonical := h.setTile.ringRetire

theorem State.Canonical.engineFault {unit e sub detail t} (h : s.Canonical) : (s.engineFault unit e sub detail t).Canonical :=
  h.setTile.lateFault

theorem State.Canonical.performHead {unit e} (h : s.Canonical) : (s.performHead unit e).Canonical := by
  unfold State.performHead
  dsimp only
  split
  · refine .ite h.engineFault (.ite h.engineFault ?_)
    split
    exacts [h.engineFault, h.engineDone]
  · split
    exacts [h.engineFault, .ite h.engineFault h.engineDone, h]
  · exact .ite h.engineDone h.engineFault
  · split
    exacts [h.engineFault, .ite h.engineFault (.ite (.engineDone (.sampleAt h)) (.setTile h))]

theorem State.Canonical.execMatrixPerform {unit} (h : s.Canonical) : Out.Canonical (execMatrixPerform unit s) := by
  unfold Machine.execMatrixPerform
  split
  exacts [h, .ite h h.performHead]

/-! ## Runs of the engines -/

theorem State.Canonical.retireJob {j} (h : s.Canonical) : (s.retireJob j).Canonical := .ite (.lowerTl h) (.lowerCp h)

theorem State.Canonical.engineMessage {ctx tag va sub detail addr} (h : s.Canonical) :
    (s.engineMessage ctx tag va sub detail addr).Canonical :=
  h.trapMessage

theorem State.Canonical.jobFault {j sub detail addr} (h : s.Canonical) : (s.jobFault j sub detail addr).Canonical :=
  h.retireJob.engineMessage

theorem State.Canonical.engSend {u bytes l} (h : s.Canonical) : (s.engSend u bytes l).Canonical := by
  induction l generalizing s with
  | nil => exact h
  | cons p r ih => exact ih h.sendFor

theorem State.Canonical.engRead {u va n} (h : s.Canonical) : (s.engRead u va n).Canonical := by
  unfold State.engRead
  split
  · exact h.noteError
  · next found => exact .ite trivial (State.Canonical.ite ((h.locate found).engSend.logError) (h.locate found).engSend)

theorem State.Canonical.pokeMarked {kid key l} (h : s.Canonical) : (s.pokeMarked kid key l).Canonical := by
  induction l generalizing s key with
  | nil => exact h
  | cons p r ih => exact ih (.ite h h.writeByte)

theorem State.Canonical.storeMarked {bs l} (h : s.Canonical) : (s.storeMarked bs l).Canonical := by
  induction l generalizing s with
  | nil => exact h
  | cons p r ih => exact ih h.abortReaders.pokeMarked

theorem State.Canonical.engWrite {u va bs} (h : s.Canonical) : (s.engWrite u va bs).Canonical := by
  unfold State.engWrite
  split
  · exact h.noteError
  · next found => exact .ite trivial ((h.locate found).engSend.storeMarked)

theorem State.Canonical.engCopy {u src dst l} (h : s.Canonical) : (s.engCopy u src dst l).Canonical := by
  induction l generalizing s with
  | nil => exact h
  | cons e r ih =>
    unfold State.engCopy
    split
    · trivial
    · next read => exact h.engRead.of_fault read
    · next read =>
      have ht := h.engRead.of_done read
      split
      · next wrote => exact ih (ht.engWrite.of_done wrote)
      · exact ht.engWrite

theorem State.Canonical.engFill {u dst pattern l} (h : s.Canonical) : (s.engFill u dst pattern l).Canonical := by
  induction l generalizing s with
  | nil => exact h
  | cons e r ih =>
    unfold State.engFill
    split
    · next wrote => exact ih (h.engWrite.of_done wrote)
    · exact h.engWrite

theorem State.Canonical.engGather {u j i n} (h : s.Canonical) : (s.engGather u j i n).Canonical := by
  induction n generalizing s i with
  | zero => exact h
  | succ n ih =>
    unfold State.engGather
    dsimp only
    split
    · trivial
    · next read => exact h.engRead.of_fault read
    · next read =>
      have ht := h.engRead.of_done read
      refine .ite ht (.ite ht ?_)
      split
      · trivial
      · next read => exact ht.engRead.of_fault read
      · next read =>
        have hu := ht.engRead.of_done read
        split
        · next wrote => exact ih (hu.engWrite.of_done wrote)
        · exact hu.engWrite

theorem State.Canonical.copyRun {j} (h : s.Canonical) : (s.copyRun j).Canonical := by
  unfold State.copyRun
  dsimp only
  split
  exacts [h.engCopy, h.engGather, h.engFill]

theorem State.Canonical.consume {tag n l} (h : s.Canonical) : (s.consume tag n l).Canonical := by
  induction l generalizing s with
  | nil => exact h
  | cons p r ih => exact ih (s := { s with collected := _ }) h

theorem State.Canonical.contribute {j q l} (h : s.Canonical) : (s.contribute j q l).Canonical := by
  induction l generalizing s with
  | nil => exact h
  | cons xs r ih => exact ih h.sendOn.fresh

theorem State.Canonical.collectiveSend {j} (h : s.Canonical) : (s.collectiveSend j).Canonical := by
  refine .ite trivial ?_
  split
  · trivial
  · next found => exact h.engRead.of_fault found
  · next found => exact .ite (h.engRead.of_done found) ((h.engRead.of_done found).foldl fun _ _ ht => ht.contribute)

theorem State.Canonical.collectiveRun {j own} (h : s.Canonical) : (s.collectiveRun j own).Canonical := by
  unfold State.collectiveRun
  split
  exacts [trivial, h.consume.engWrite]

theorem State.Canonical.jobRun {j} (h : s.Canonical) : (s.jobRun j).Canonical := by
  unfold State.jobRun
  dsimp only
  split
  · split
    · trivial
    · next ran => exact h.copyRun.of_fault ran
    · next ran => exact h.copyRun.of_done ran
  · split
    · split
      · trivial
      · next ran => exact h.collectiveRun.of_fault ran
      · next ran => exact h.collectiveRun.of_done ran
    · split
      · trivial
      · next sent => exact h.collectiveSend.of_fault sent
      · next sent => exact h.collectiveSend.of_done sent

theorem State.Canonical.setJobEntry {j} (h : s.Canonical) : (s.setJobEntry j).Canonical := h

theorem State.Canonical.execEngineJobStart {job} (h : s.Canonical) : Out.Canonical (execEngineJobStart job s) := by
  unfold Machine.execEngineJobStart
  split
  exacts [h, .ite h (.ite h.jobFault (.ite h.jobFault h.setJobEntry))]

theorem State.Canonical.execEngineJobComplete {job} (h : s.Canonical) : Out.Canonical (execEngineJobComplete job s) := by
  unfold Machine.execEngineJobComplete
  split
  · exact h
  · refine .ite ?_ (.ite h ?_)
    · split
      exacts [.ite h h.retireJob, h]
    · split
      · exact h
      · next found => exact (h.engineFor.jobRun.of_fault found).engineFree.jobFault
      · next found => exact (h.engineFor.jobRun.of_done found).engineFree.setJobEntry
      · next found => exact (h.engineFor.jobRun.of_done found).engineFree.retireJob

theorem State.Canonical.taskLoadsFrom {v tag l} (h : s.Canonical) : (s.taskLoadsFrom v tag l).Canonical := by
  induction l generalizing s with
  | nil => exact h
  | cons x r ih =>
    unfold State.taskLoadsFrom
    dsimp only
    split
    · trivial
    · next read => exact h.readPieces.of_fault read
    · next read => exact ih (h.readPieces.of_done read).setTile

theorem State.Canonical.issueTask {j l v} (h : s.Canonical) : (s.issueTask j l v).Canonical := by
  unfold State.issueTask
  split
  · exact h
  · next found => exact (h.engineFor.taskLoadsFrom.of_fault found).engineFree.setTile.jobFault
  · next found =>
    dsimp only
    split
    · exact (h.engineFor.taskLoadsFrom.of_done found).engineFree.setJobEntry.start
    · exact (h.engineFor.taskLoadsFrom.of_done found).engineFree.setJobEntry

theorem State.Canonical.execTileTaskIssue {cluster} (h : s.Canonical) : Out.Canonical (execTileTaskIssue cluster s) := by
  unfold Machine.execTileTaskIssue
  dsimp only
  split
  · exact h
  · refine .ite h.jobFault ?_
    split
    exacts [h.issueTask, h]

theorem State.Canonical.endBlk {b} (h : s.Canonical) : (s.endBlk b).Canonical := .lowerCp h
theorem State.Canonical.blkMessage {b} (h : s.Canonical) : (s.blkMessage b).Canonical := .post h

theorem State.Canonical.homeStoreMarked {t bs} (h : s.Canonical) : (s.homeStoreMarked t bs).Canonical := by
  refine .ite trivial ?_
  split
  · next found => exact (h.homeStore.of_done found).homeStore
  · exact h.homeStore

theorem State.Canonical.execBlkrdPartReturn {part} (h : s.Canonical) : Out.Canonical (execBlkrdPartReturn part s) := by
  unfold Machine.execBlkrdPartReturn
  split
  · exact h
  · split
    · exact h
    · refine .ite h.endBlk ?_
      split
      · exact h.endBlk.noteError.engineMessage
      · split
        · exact h
        · dsimp only
          split
          · next found =>
            have ht := h.homeStoreMarked.of_done found
            exact .ite ht.blkMessage ht
          · exact h

theorem State.Canonical.execDrainDispatch {unit} (h : s.Canonical) : Out.Canonical (execDrainDispatch unit s) := by
  unfold Machine.execDrainDispatch
  split
  · split
    exacts [.ite h h.setTile.start.setCtx, h]
  · exact h

/-! ## Tile tasks -/

theorem State.Canonical.startTask {k tag l e r} (h : s.Canonical) : (s.startTask k tag l e r).Canonical := by
  unfold State.startTask
  dsimp only
  split
  exacts [.ite h.start.sampleAt.tcbState h.start.sampleAt, h.start.sampleAt]

theorem State.Canonical.execTaskDispatch {core} (h : s.Canonical) : Out.Canonical (execTaskDispatch core s) := by
  unfold Machine.execTaskDispatch
  split
  · exact h
  · split
    · split
      exacts [.ite h h.takeRecord.startTask, h]
    · exact h

theorem State.Canonical.execStealRequest {thief victim} (h : s.Canonical) :
    Out.Canonical (execStealRequest thief victim s) := by
  unfold Machine.execStealRequest
  split
  · exact h
  · refine .ite h (State.Canonical.setCore ?_)
    split
    exacts [h.takeRecord, h]

theorem State.Canonical.execStealAnswer {thief} (h : s.Canonical) : Out.Canonical (execStealAnswer thief s) := by
  unfold Machine.execStealAnswer
  dsimp only
  split
  · exact h
  · exact h.setCore
  · split
    · exact State.Canonical.ite h.setCore h.setCore.setCore
    · split
      · exact .ite (State.Canonical.ite h.setCore h.setCore.setCore) h.setCore.startTask
      · exact State.Canonical.ite h.setCore h.setCore.setCore

theorem State.Canonical.serveAll {l} (h : s.Canonical) : (s.serveAll l).Canonical := by
  induction l generalizing s with
  | nil => exact h
  | cons a r ih => exact ih h.afterTake

theorem State.Canonical.execDequeRefill {core} (h : s.Canonical) : Out.Canonical (execDequeRefill core s) := by
  unfold Machine.execDequeRefill
  dsimp only
  split
  · exact h
  · refine .ite h ?_
    split
    exacts [h.setCore.serveAll, h.setCore]

theorem State.Canonical.execPackageSteal {tag peer} (h : s.Canonical) : Out.Canonical (execPackageSteal tag peer s) := by
  unfold Machine.execPackageSteal
  split
  exacts [h, .ite h (.ite (State.Canonical.ite h h.setLaunch) (.ite h.setLaunch h))]

theorem State.Canonical.unlist {core tag r} (h : s.Canonical) : (s.unlist core tag r).Canonical := h.setCore.writeChunks

theorem State.Canonical.giveChunk {tag l} (h : s.Canonical) : (s.giveChunk tag l).2.Canonical := by
  unfold State.giveChunk
  split
  exacts [h.foldl fun _ _ ht => ht.takeRecord, (h.foldl fun _ _ ht => ht.unlist).serveAll]

theorem State.Canonical.execPackageStealAnswer {tag peer chunk} (h : s.Canonical) :
    Out.Canonical (execPackageStealAnswer tag peer chunk s) := by
  unfold Machine.execPackageStealAnswer
  split
  · exact h
  · refine .ite h (.ite (.ite h ?_) (.ite h ?_))
    · split
      next given =>
      have ht := h.giveChunk.of_snd given
      split
      exacts [ht, ht.setLaunch]
    · split
      exacts [h, .ite h.setLaunch h.setLaunch.keepChunk]

theorem State.Canonical.release {t r} (h : s.Canonical) : (s.release t r).1.Canonical := by
  unfold State.release
  dsimp only
  split
  exacts [h.tcbState.trapMessage, .push h]

theorem State.Canonical.execTksigResponse {core} (h : s.Canonical) : Out.Canonical (execTksigResponse core s) := by
  unfold Machine.execTksigResponse
  split
  · exact h
  · refine .ite h ?_
    split
    exacts [h.respond, State.Canonical.ite h.release.respond h.release.setTxn]

theorem State.Canonical.setFloors {f l} (h : s.Canonical) : (s.setFloors f l).Canonical := by
  induction l generalizing s with
  | nil => exact h
  | cons a r ih => exact ih h.setCore

theorem State.Canonical.noteWork {tag l} (h : s.Canonical) : (s.noteWork tag l).Canonical := by
  induction l generalizing s with
  | nil => exact h
  | cons a r ih => exact ih (.ite h.setCore h)

theorem State.Canonical.execFloorUpdate {tag} (h : s.Canonical) : Out.Canonical (execFloorUpdate tag s) := by
  unfold Machine.execFloorUpdate
  split
  exacts [h, .ite h h.setFloors.serveAll.noteWork]

theorem State.Canonical.execFloorExchange {tag peers} (h : s.Canonical) : Out.Canonical (execFloorExchange tag peers s) := by
  unfold Machine.execFloorExchange
  split
  exacts [h, .ite h.setLaunch h]

/-! ## Contexts and launches -/

theorem State.Canonical.execPauseEnd {k} (h : s.Canonical) : Out.Canonical (execPauseEnd k s) := by
  unfold Machine.execPauseEnd
  dsimp only
  split
  exacts [.ite h.setCtx h, h]

theorem State.Canonical.execAlignTimeout {k} (h : s.Canonical) : Out.Canonical (execAlignTimeout k s) := by
  unfold Machine.execAlignTimeout
  dsimp only
  split
  exacts [.ite h.setCtx h, h]

theorem State.Canonical.endMessage {tag l} (h : s.Canonical) : (s.endMessage tag l).Canonical := h.post

theorem State.Canonical.quiescent {tag l} (h : s.Canonical) : (s.quiescent tag l).Canonical :=
  .ite h.endLaunch (.ite h h.setLaunch.endMessage)

theorem State.Canonical.execIdleSample {tag} (h : s.Canonical) : Out.Canonical (execIdleSample tag s) := by
  unfold Machine.execIdleSample
  split
  · exact h
  · refine .ite h (.ite h.setLaunch ?_)
    split
    exacts [h.setLaunch, State.Canonical.ite h.quiescent h]

theorem State.Canonical.haltCtxs {cause l} (h : s.Canonical) : (s.haltCtxs cause l).Canonical := by
  induction l generalizing s with
  | nil => exact h
  | cons k r ih => exact ih (.ite h h.stopCtx)

theorem State.Canonical.expireLaunch {tag} (h : s.Canonical) : (s.expireLaunch tag).Canonical := by
  unfold State.expireLaunch
  split
  exacts [.ite h.cancelLaunch h.endLaunch, h]

theorem State.Canonical.execDeadlineExpiry {job} (h : s.Canonical) : Out.Canonical (execDeadlineExpiry job s) := by
  unfold Machine.execDeadlineExpiry
  split
  exacts [h, .ite h (.ite h.setJob.haltCtxs (.ite h (h.setJob.foldl fun _ _ ht => ht.expireLaunch)))]

theorem State.Canonical.discardEngine {u} (h : s.Canonical) : (s.discardEngine u).Canonical :=
  .foldl (.setTile h) fun _ _ ht => ht.ringRetire

theorem State.Canonical.stopAll {tag l} (h : s.Canonical) : (s.stopAll tag l).Canonical :=
  h.restAll.foldl fun _ _ ht => ht.discardEngine

theorem State.Canonical.execCancelGraceExpiry {tag} (h : s.Canonical) : Out.Canonical (execCancelGraceExpiry tag s) := by
  unfold Machine.execCancelGraceExpiry
  split
  · exact h
  · split
    exacts [h, .ite h (.ite h.endLaunch h.stopAll.setLaunch.trapMessage)]

theorem State.Canonical.quarantine {u} (h : s.Canonical) : (s.quarantine u).Canonical := h

theorem State.Canonical.machineCheck {u} (h : s.Canonical) : (s.machineCheck u).Canonical :=
  .ite h h.logError.haltCtxs.quarantine.setTile.launchEvent.finishCheck

theorem State.Canonical.execMachineCheck {u} (h : s.Canonical) : Out.Canonical (execMachineCheck u s) := h.machineCheck

theorem State.Canonical.replays {n} (h : s.Canonical) : (s.replays n).Canonical := by
  induction n generalizing s with
  | zero => exact h
  | succ n ih => exact ih h.logError

theorem State.Canonical.passUpset {u times} (h : s.Canonical) : (s.passUpset u times).Canonical := by
  unfold State.passUpset
  split
  · split
    exacts [.ite h.replays h.engineDone.replays.machineCheck, h]
  · exact h

theorem State.Canonical.upset {a} (h : s.Canonical) : (s.upset a).Canonical := by
  unfold State.upset
  split
  · exact h.logError
  · exact h.logError
  · exact .ite h.logError.setTile h
  · exact .ite h.logError.setTile h
  · exact h.logError.setCore
  · exact h.logError.setCluster
  · exact h.logError
  · exact .ite h.machineCheck h.logError
  · exact h.passUpset

theorem State.Canonical.execIdleClockGate {u} (h : s.Canonical) : Out.Canonical (execIdleClockGate u s) := by
  unfold Machine.execIdleClockGate
  dsimp only
  split
  exacts [.ite h.setTile h, h]

theorem State.Canonical.execThermalLimit {celsius} (h : s.Canonical) : Out.Canonical (execThermalLimit celsius s) :=
  .ite (State.Canonical.with_vault (h.foldl fun _ _ ht => ht.machineCheck)) (.ite h h)

theorem State.Canonical.execMonitorSample {cluster slot value} (h : s.Canonical) :
    Out.Canonical (execMonitorSample cluster slot value s) :=
  .ite h h.setCluster

end Sys2Proof.Machine
end

section
/-!
SUPPORT. The canonical form: paging, the walk unit, tiles and pages that move, register space and the fabric.
-/

namespace Sys2Proof.Machine

variable {s : State}

/-! ## Paging -/

theorem State.Canonical.allocPage (h : s.Canonical) : s.allocPage.2.Canonical := by
  unfold State.allocPage
  split <;> exact h.zeroRange

theorem State.Canonical.allocBlock (h : s.Canonical) : s.allocBlock.2.Canonical := by
  unfold State.allocBlock
  split <;> exact h.zeroRange

theorem State.Canonical.allocBlocks {n} (h : s.Canonical) : (s.allocBlocks n).2.Canonical := by
  induction n generalizing s with
  | zero => exact h
  | succ n ih => exact ih h.allocBlock

theorem State.Canonical.setLeafFrom {va e last n level table} (h : s.Canonical) :
    (s.setLeafFrom va e last n level table).Canonical := by
  induction n generalizing s level table with
  | zero => exact h
  | succ n ih => exact .ite h.writeDword (.ite (.ite (ih h) h) (ih h.allocPage.writeDword))

theorem State.Canonical.setLeaf {root va e} (h : s.Canonical) : (s.setLeaf root va e).Canonical := h.setLeafFrom

theorem State.Canonical.mapBlocks {root va bits l} (h : s.Canonical) : (s.mapBlocks root va bits l).Canonical := by
  induction l generalizing s va with
  | nil => exact h
  | cons b r ih => exact ih h.setLeafFrom

theorem State.Canonical.mapPage {root va pa bits} (h : s.Canonical) : (s.mapPage root va pa bits).Canonical := h.setLeaf

theorem State.Canonical.mapFresh {root va bits n} (h : s.Canonical) : (s.mapFresh root va bits n).Canonical := by
  induction n generalizing s va with
  | zero => exact h
  | succ n ih => exact ih h.allocPage.mapPage

theorem State.Canonical.dropTranslations {gone} (h : s.Canonical) : (s.dropTranslations gone).Canonical := h
theorem State.Canonical.startShootdown {ctl} (h : s.Canonical) : (s.startShootdown ctl).Canonical := h

theorem State.Canonical.shootAck {agent} (h : s.Canonical) : (s.shootAck agent).Canonical :=
  .ite h.setCore (.ite h.setCore h.setCluster)

theorem State.Canonical.execShootdownAck {agent} (h : s.Canonical) : Out.Canonical (execShootdownAck agent s) :=
  .ite h.shootAck h

/-! ## The walk unit -/

theorem State.Canonical.walkParts {t va l} (h : s.Canonical) : (s.walkParts t va l).Canonical := by
  induction l generalizing s with
  | nil => exact h
  | cons p r ih =>
    unfold State.walkParts
    dsimp only
    split
    · next read =>
      have ht := h.homeLoad.of_done read
      have hr := ih ht
      refine .ite ht.logError ?_
      split
      · next rest => exact hr.of_ok rest
      · trivial
      · next rest => exact hr.of_fault rest
    · trivial

theorem State.Canonical.walkRead {t va n align} (h : s.Canonical) : (s.walkRead t va n align).Canonical := by
  refine .ite h ?_
  split
  · exact h.noteError
  · next found => exact (h.locate found).walkParts

theorem State.Canonical.sealedUnit {t va unit} (h : s.Canonical) : (s.sealedUnit t va unit).Canonical := by
  unfold State.sealedUnit
  split
  · exact h.noteError
  · next found =>
    dsimp only
    split
    · exact h.locate found
    · refine .ite (h.locate found).logError ?_
      split
      · exact h.locate found
      · split
        exacts [h.locate found, (h.locate found).setTile]

theorem State.Canonical.nodeRead {t base off n align} (h : s.Canonical) : (s.nodeRead t base off n align).Canonical := by
  refine .ite h ?_
  split
  · exact h.walkRead
  · refine .ite h ?_
    split
    · next found => exact h.sealedUnit.of_ok found
    · trivial
    · next found => exact h.sealedUnit.of_fault found

theorem State.Canonical.tableChild {t base c x count off} (h : s.Canonical) :
    (s.tableChild t base c x count off).Canonical := by
  refine .ite ?_ ?_
  · split
    · next found => exact h.nodeRead.of_ok found
    · trivial
    · next found => exact h.nodeRead.of_fault found
  · split
    · next found => exact h.nodeRead.of_ok found
    · trivial
    · next found => exact h.nodeRead.of_fault found

theorem State.Canonical.featureRead {t features index} (h : s.Canonical) : (s.featureRead t features index).Canonical :=
  .ite h h.walkRead

theorem State.Canonical.interior {t d base o features node} (h : s.Canonical) :
    (s.interior t d base o features node).Canonical := by
  unfold State.interior
  dsimp only
  split
  · exact h
  · split
    · trivial
    · next found => exact h.featureRead.of_fault found
    · next found =>
      split
      · refine .ite (h.featureRead.of_ok found) (.ite ?_ (.ite (h.featureRead.of_ok found) ?_))
        · split <;> exact h.featureRead.of_ok found
        · split
          · split
            · next inner => exact (h.featureRead.of_ok found).tableChild.of_ok inner
            · trivial
            · next inner => exact (h.featureRead.of_ok found).tableChild.of_fault inner
          · exact h.featureRead.of_ok found
      · exact h.featureRead.of_ok found

theorem State.Canonical.walkStep {t d base o features} (h : s.Canonical) : (s.walkStep t d base o features).Canonical := by
  unfold State.walkStep
  split
  · trivial
  · next found => exact h.nodeRead.of_fault found
  · next found =>
    dsimp only
    split
    · exact h.nodeRead.of_ok found
    · refine .ite ?_ (h.nodeRead.of_ok found).interior
      split <;> exact h.nodeRead.of_ok found

theorem State.Canonical.walkFor {t d base features n o} (h : s.Canonical) : (s.walkFor t d base features n o).Canonical := by
  induction n generalizing s o with
  | zero => exact h
  | succ n ih =>
    unfold State.walkFor
    split
    · trivial
    · next step => exact h.walkStep.of_fault step
    · next step => exact h.walkStep.of_ok step
    · next step => exact ih (h.walkStep.of_ok step)
    · next step => exact .ite (h.walkStep.of_ok step) (h.walkStep.of_ok step).setCtx

theorem State.Canonical.performWalk {t node base features limit desc} (h : s.Canonical) :
    (s.performWalk t node base features limit desc).Canonical := by
  unfold State.performWalk
  dsimp only
  split
  · exact .lateFault h
  · split
    · exact h
    · next found =>
      have ht := h.walkFor.of_fault found
      exact .lateFault ht
    · next found => exact (h.walkFor.of_ok found).setTxn

theorem State.Canonical.walkOp {d a b limit} (h : s.Canonical) : Out.Canonical (s.walkOp d a b limit) := by
  refine h.issue (h.irrevocably (fun _ ht => .ite ht.waitGate (.ite ht.stall ?_)))
  split
  · exact ht.stall
  · next found => exact State.Canonical.skip (ht.ringTake found).fresh

theorem State.Canonical.execWalk {d a b} (h : s.Canonical) : Out.Canonical (execWalk d a b s) := h.walkOp
theorem State.Canonical.execWalkn {d a b} (h : s.Canonical) : Out.Canonical (execWalkn d a b s) := h.walkOp
theorem State.Canonical.pdResult {d p x} (h : s.Canonical) : Out.Canonical (s.pdResult d p x) := h.done

theorem State.Canonical.execPdrst {d a b} (h : s.Canonical) : Out.Canonical (execPdrst d a b s) :=
  h.issue (h.irrevocably (fun _ ht => .ite ht.stall (.ite ht.pdResult ht.pdResult)))

theorem State.Canonical.appendLog {tenant l p score digest} (h : s.Canonical) :
    (s.appendLog tenant l p score digest).Canonical :=
  .with_vault h.writeList

theorem State.Canonical.execPdseal {d a} (h : s.Canonical) : Out.Canonical (execPdseal d a s) := by
  refine h.issue (h.irrevocably (fun _ ht => .ite ht.stall (.ite ht.pdResult ?_)))
  split
  exacts [ht.pdResult, .ite ht.stall ht.setLaunch.appendLog.pdResult]

theorem State.Canonical.storeList {len va align bs finish} (h : s.Canonical) (hf : ∀ t, t.Canonical → (finish t).Canonical) :
    Out.Canonical (s.storeList len va align bs finish) :=
  h.access fun _ _ ht => (hf _ ht.sendAccess).skip

theorem State.Canonical.execPdrd {d a} (h : s.Canonical) : Out.Canonical (execPdrd d a s) := by
  refine h.issue (h.irrevocably (fun _ ht => ?_))
  split
  exacts [ht.result, ht.storeList (fun _ hu => hu.setCtx)]

/-! ## System registers and shootdowns -/

theorem State.Canonical.execSrd {d n} (h : s.Canonical) : Out.Canonical (execSrd d n s) := by
  unfold Machine.execSrd
  split
  exacts [h.trap, h.issue h.result]

theorem State.Canonical.setDeadline {core v} (h : s.Canonical) : (s.setDeadline core v).Canonical := by
  unfold State.setDeadline
  split
  · exact h
  · split
    exacts [h.setJob, h]

theorem State.Canonical.execSwr {a n} (h : s.Canonical) : Out.Canonical (execSwr a n s) := by
  unfold Machine.execSwr
  split
  · refine h.issue (.ite h.setDeadline.skip (.ite (State.Canonical.skip h) (.ite (State.Canonical.skip h) ?_)))
    exact .ite h.startShootdown.skip h.stall
  · exact h.trap

theorem State.Canonical.execXsdCtlWrite {_core v} (h : s.Canonical) : Out.Canonical (execXsdCtlWrite _core v s) :=
  State.Canonical.ite h.startShootdown h

theorem State.Canonical.execDlLeftWrite {core v} (h : s.Canonical) : Out.Canonical (execDlLeftWrite core v s) := h.setDeadline
theorem State.Canonical.execCirrd {d a b} (h : s.Canonical) : Out.Canonical (execCirrd d a b s) := h.issue h.result

theorem State.Canonical.execZerosp {d a b} (h : s.Canonical) : Out.Canonical (execZerosp d a b s) :=
  h.issue (.ite h.result (.ite h.stall h.zeroRange.result))

theorem State.Canonical.execSigchk {d} (h : s.Canonical) : Out.Canonical (execSigchk d s) := h.issue h.result

theorem State.Canonical.execMonrd {d a b} (h : s.Canonical) : Out.Canonical (execMonrd d a b s) :=
  h.issue (.ite h.result (h.storeDwords (fun _ _ ht => ht.sendDwords.result)))

theorem State.Canonical.execRefget {d a b} (h : s.Canonical) : Out.Canonical (execRefget d a b s) := by
  refine h.issue ?_
  split
  exacts [h.result, h.trap]

theorem State.Canonical.execRefchk {d a b} (h : s.Canonical) : Out.Canonical (execRefchk d a b s) := by
  refine h.issue ?_
  split <;> exact h.result

theorem State.Canonical.assignMonitor {cluster tag x} (h : s.Canonical) : (s.assignMonitor cluster tag x).1.Canonical := by
  unfold State.assignMonitor
  dsimp only
  split
  · exact h
  · split
    exacts [h, h.setCluster]

theorem State.Canonical.releaseMonitor {cluster tag x} (h : s.Canonical) : (s.releaseMonitor cluster tag x).1.Canonical := by
  unfold State.releaseMonitor
  dsimp only
  split
  exacts [h.setCluster, h]

theorem State.Canonical.ownPage {world pa} (h : s.Canonical) : (s.ownPage world pa).Canonical := h

theorem State.Canonical.zeroUnder {kid pa} (h : s.Canonical) : (s.zeroUnder kid pa).Canonical :=
  .ite h.zeroRange (.with_lineKey h.zeroRange)

theorem State.Canonical.mapReserved {kid job x} (h : s.Canonical) : (s.mapReserved kid job x).1.Canonical := by
  unfold State.mapReserved
  split
  · exact h
  · split
    · exact h
    · dsimp only
      split
      · exact h
      · exact .setJob (.foldl h.allocPage.zeroUnder fun _ _ ht => ht.ownPage.mapPage)

theorem State.Canonical.unmapReserved {job x t y} (h : s.Canonical) (e : s.unmapReserved job x = some (t, y)) : t.Canonical := by
  unfold State.unmapReserved at e
  dsimp only at e
  split at e
  · cases e; exact h
  · split at e
    · cases e; exact h
    · split at e
      · cases e; exact h
      · split at e
        · cases e
        · cases e
          have unmapped {l : List (Nat × Launch)} {va} : (l.foldl (fun (s : State) e => s.setLeaf e.2.root va 0) s).Canonical :=
            h.foldl fun _ _ ht => ht.setLeaf
          exact unmapped

theorem State.Canonical.service {k n x t y} (h : s.Canonical) (e : s.service k n x = some (t, y)) : t.Canonical := by
  unfold State.service at e
  dsimp only at e
  split at e
  · cases e; exact h
  · split at e
    · cases e; exact h
    · exact h.assignMonitor.of_fst (Option.some.inj e)
    · exact h.releaseMonitor.of_fst (Option.some.inj e)
    · exact h.mapReserved.of_fst (Option.some.inj e)
    · exact h.unmapReserved e
    · cases e; exact h

theorem State.Canonical.serveSvc {k} (h : s.Canonical) : (s.serveSvc k).Canonical := by
  unfold State.serveSvc
  dsimp only
  split
  · exact h
  · refine .ite h ?_
    split
    · exact h
    · next found => exact (h.service found).eretOn

/-! ## Moves of tiles and pages -/

theorem State.Canonical.renamed {m} (h : s.Canonical) : (s.renamed m).Canonical := h

theorem State.Canonical.moveTile {src dst} (h : s.Canonical) : (s.moveTile src dst).Canonical :=
  Tbl.wf_moveRange h.renamed _ _ _

theorem State.Canonical.carry {k} (h : s.Canonical) : (s.carry k).Canonical := h.setCtx

theorem State.Canonical.rehomeTasks {tag} (h : s.Canonical) : (s.rehomeTasks tag).Canonical := by
  unfold State.rehomeTasks
  split
  exacts [h, .foldl h fun _ _ ht => ht.setCluster]

theorem State.Canonical.migrate {tag src dst} (h : s.Canonical) : (s.migrate tag src dst).Canonical := by
  refine .rehomeTasks (.setTile (.foldl ?_ fun _ _ ht => ht.carry))
  split
  exacts [.setLaunch h.moveTile, h.moveTile]

theorem State.Canonical.execTileMigration {src dst} (h : s.Canonical) : Out.Canonical (execTileMigration src dst s) := by
  unfold Machine.execTileMigration
  split
  exacts [State.Canonical.ite h.setTile h, .ite h.setTile (State.Canonical.ite h.migrate h), h.setTile, h]

theorem State.Canonical.execMigrationMarker {core u} (h : s.Canonical) : Out.Canonical (execMigrationMarker core u s) :=
  .ite h.setTile h

theorem State.Canonical.execForwardingRetire {u} (h : s.Canonical) : Out.Canonical (execForwardingRetire u s) := by
  unfold Machine.execForwardingRetire
  dsimp only
  split
  exacts [h, .ite h.setTile h]

theorem State.Canonical.moveBytes {lo n to_} (h : s.Canonical) : (s.moveBytes lo n to_).Canonical :=
  Memory.wf_moveBytes h lo n to_

theorem State.Canonical.parkTiles {tag i l} (h : s.Canonical) : (s.parkTiles tag i l).Canonical := by
  induction l generalizing s i with
  | nil => exact h
  | cons u r ih => exact ih h.moveTile

theorem State.Canonical.makeAbsent {tag} (h : s.Canonical) : (s.makeAbsent tag).Canonical := by
  unfold State.makeAbsent
  split
  exacts [h, .ite h (.setLaunch (h.parkTiles.foldl fun _ _ ht => ht.moveBytes))]

theorem State.Canonical.execAbsentContext {tag} (h : s.Canonical) : Out.Canonical (execAbsentContext tag s) := by
  unfold Machine.execAbsentContext
  split
  exacts [h, .ite h.setLaunch.launchEvent h]

theorem State.Canonical.unparkTiles {l} (h : s.Canonical) : (s.unparkTiles l).Canonical := by
  induction l generalizing s with
  | nil => exact h
  | cons e r ih => exact ih h.moveTile.setTile

theorem State.Canonical.unparkPools {tag n old bases l} (h : s.Canonical) : (s.unparkPools tag n old bases l).Canonical := by
  induction l generalizing s with
  | nil => exact h
  | cons e r ih => exact ih h.moveBytes

theorem State.Canonical.bringBack {tag l units pools} (h : s.Canonical) : (s.bringBack tag l units pools).Canonical :=
  .rehomeTasks (.setLaunch h.unparkTiles.unparkPools)

theorem State.Canonical.clearTile {u} (h : s.Canonical) : (s.clearTile u).Canonical := .setTile (.zeroRange h)
theorem State.Canonical.emptyKeys {l} (h : s.Canonical) : (s.emptyKeys l).Canonical := h
theorem State.Canonical.putReceipt {tenant bs} (h : s.Canonical) : (s.putReceipt tenant bs).Canonical := .ite h (.writeList h)

theorem State.Canonical.clearLaunch {tag} (h : s.Canonical) : (s.clearLaunch tag).Canonical := by
  unfold State.clearLaunch
  split
  · exact h
  · refine .ite h (.setLaunch (.putReceipt (.dropTranslations (.emptyKeys (.foldl (.foldl (.foldl h.dropTxns ?_) ?_) ?_)))))
    exacts [fun _ _ ht => ht.clearTile, fun _ _ ht => ht.zeroRange, fun _ _ ht => ht.machineCheck]

theorem State.Canonical.execClearRoutine {tag} (h : s.Canonical) : Out.Canonical (execClearRoutine tag s) := h.clearLaunch

/-! ## Register space -/

theorem State.Canonical.jqRefuse (h : s.Canonical) : s.jqRefuse.Canonical := h

theorem State.Canonical.jqTailWrite {v} (h : s.Canonical) : (s.jqTailWrite v).Canonical :=
  .ite h.jqRefuse (.ite (.stewardEvent h) h.jqRefuse)

theorem State.Canonical.jqBaseWrite {v} (h : s.Canonical) : (s.jqBaseWrite v).Canonical := .ite h h.jqRefuse
theorem State.Canonical.jqSizeWrite {v} (h : s.Canonical) : (s.jqSizeWrite v).Canonical := .ite h h.jqRefuse
theorem State.Canonical.spdmReqWrite {v} (h : s.Canonical) : (s.spdmReqWrite v).Canonical := .ite h.secEvent (.eventAt h)
theorem State.Canonical.spdmRspWrite {v} (h : s.Canonical) : (s.spdmRspWrite v).Canonical := h
theorem State.Canonical.ptSizeWrite {v} (h : s.Canonical) : (s.ptSizeWrite v).Canonical := h
theorem State.Canonical.ptTailWrite {v} (h : s.Canonical) : (s.ptTailWrite v).Canonical := .eventAt h
theorem State.Canonical.ptHeadWrite {v} (h : s.Canonical) : (s.ptHeadWrite v).Canonical := h
theorem State.Canonical.powerCapWrite {v} (h : s.Canonical) : (s.powerCapWrite v).Canonical := h

theorem State.Canonical.sleepLaunch {tag} (h : s.Canonical) : (s.sleepLaunch tag).Canonical := by
  unfold State.sleepLaunch
  split
  exacts [.ite h.setLaunch.makeAbsent h, h]

theorem State.Canonical.fallAsleep (h : s.Canonical) : s.fallAsleep.Canonical :=
  .ite h (.ite (h.foldl fun _ _ ht => ht.sleepLaunch) (h.foldl fun _ _ ht => ht.sleepLaunch))

theorem State.Canonical.enterDormant (h : s.Canonical) : s.enterDormant.Canonical := .fallAsleep h
theorem State.Canonical.requestDormant (h : s.Canonical) : s.requestDormant.Canonical := .ite h (.ite h h.enterDormant)

theorem State.Canonical.loseWorld {tag} (h : s.Canonical) : (s.loseWorld tag).Canonical := by
  unfold State.loseWorld
  split
  exacts [.ite h (.ite h.endLaunch.clearLaunch h.clearLaunch), h]

theorem State.Canonical.forceDormant (h : s.Canonical) : s.forceDormant.Canonical :=
  .ite h (.enterDormant (h.foldl fun _ _ ht => ht.loseWorld))

theorem State.Canonical.powerCtlWrite {v} (h : s.Canonical) : (s.powerCtlWrite v).Canonical :=
  .ite h.requestDormant (.ite h.forceDormant h)

theorem State.Canonical.writeShared {off v} (h : s.Canonical) : (s.writeShared off v).Canonical := by
  unfold State.writeShared
  split
  · exact h.jqBaseWrite
  · exact h.jqSizeWrite
  · exact h.jqTailWrite
  · exact h.spdmReqWrite
  · exact h.spdmRspWrite
  · exact h
  · exact h
  · exact h.ptSizeWrite
  · exact h.ptTailWrite
  · exact h.ptHeadWrite
  · exact h

theorem State.Canonical.writePrivate {off v} (h : s.Canonical) : (s.writePrivate off v).Canonical := by
  unfold State.writePrivate
  split
  exacts [h, h.powerCapWrite, h.powerCtlWrite, h]

theorem State.Canonical.writeMailbox {off l} (h : s.Canonical) : (s.writeMailbox off l).Canonical := by
  induction l generalizing s off with
  | nil => exact h
  | cons b r ih => exact ih (s := { s with host := { s.host with spdmReq := _ } }) h

theorem State.Canonical.writeBar {bar off n v} (h : s.Canonical) : (s.writeBar bar off n v).Canonical :=
  .ite (.ite h.writePrivate h) (.ite (.ite h.writeMailbox h) (.ite h.writeShared h))

theorem State.Canonical.writeBlock {kid pa bs} (h : s.Canonical) : (s.writeBlock kid pa bs).Canonical :=
  .ite h h.abortReaders.writeBytes

theorem State.Canonical.writePhysical {kid pa bs} (h : s.Canonical) : (s.writePhysical kid pa bs).Canonical :=
  h.foldl fun _ _ ht => ht.writeBlock

theorem State.Canonical.hostWrite {bar off n v} (h : s.Canonical) : (s.hostWrite bar off n v).Canonical :=
  .ite h.writeBar (.ite h.secEvent (.ite h.writePhysical h))

theorem State.Canonical.hostRead {bar off n} (h : s.Canonical) : (s.hostRead bar off n).2.Canonical := by
  unfold State.hostRead
  split
  · exact h
  · split
    · exact h.secEvent
    · split <;> exact h

theorem State.Canonical.linkPerform {r} (h : s.Canonical) : (s.linkPerform r).Canonical := by
  unfold State.linkPerform
  split
  exacts [h.hostWrite, h.hostRead]

theorem State.Canonical.linkServe {n} (h : s.Canonical) : (s.linkServe n).Canonical := by
  induction n generalizing s with
  | zero => exact h
  | succ n ih =>
    unfold State.linkServe
    split
    exacts [h, .ite h (ih (.linkPerform h))]

theorem State.Canonical.linkRequest {r} (h : s.Canonical) : (s.linkRequest r).Canonical := .linkServe h
theorem State.Canonical.doorbell {off v} (h : s.Canonical) : Out.Canonical (s.doorbell off v) := h.linkRequest
theorem State.Canonical.execJqTailWrite {v} (h : s.Canonical) : Out.Canonical (execJqTailWrite v s) := h.doorbell
theorem State.Canonical.execJqBaseWrite {v} (h : s.Canonical) : Out.Canonical (execJqBaseWrite v s) := h.doorbell
theorem State.Canonical.execJqSizeWrite {v} (h : s.Canonical) : Out.Canonical (execJqSizeWrite v s) := h.doorbell

theorem State.Canonical.execRegisterWrite {bar off size v} (h : s.Canonical) :
    Out.Canonical (execRegisterWrite bar off size v s) :=
  h.linkRequest

theorem State.Canonical.execSpdmReqLenWrite {v} (h : s.Canonical) : Out.Canonical (execSpdmReqLenWrite v s) := h.doorbell
theorem State.Canonical.execSpdmRspLenWrite {v} (h : s.Canonical) : Out.Canonical (execSpdmRspLenWrite v s) := h.doorbell
theorem State.Canonical.execPtReqTailWrite {v} (h : s.Canonical) : Out.Canonical (execPtReqTailWrite v s) := h.doorbell
theorem State.Canonical.execPtRspHeadWrite {v} (h : s.Canonical) : Out.Canonical (execPtRspHeadWrite v s) := h.doorbell
theorem State.Canonical.execPowerCapWrite {v} (h : s.Canonical) : Out.Canonical (execPowerCapWrite v s) := h.powerCapWrite
theorem State.Canonical.execDormantRequest (h : s.Canonical) : Out.Canonical (execDormantRequest s) := h.requestDormant
theorem State.Canonical.execDormantForce (h : s.Canonical) : Out.Canonical (execDormantForce s) := h.forceDormant

/-- The definition is opened through its constant alone: the kernel would take the register's offset apart in unary where it meets the
opened body beside the call. -/
theorem State.Canonical.performRegister {t} (h : s.Canonical) : (s.performRegister t).Canonical := by
  have reads : ∀ f, f = State.performRegister → (f s t).Canonical := by
    intro f e
    delta State.performRegister at e
    subst e
    beta_reduce
    rcases barOf (t.key - registerKey 0) with ⟨bar, off⟩
    refine .ite h.secEvent.setTxn ?_
    dsimp only
    split
    · exact h.setTxn
    · exact h.writeBar.setTxn
    · refine .setTxn ?_
      split
      exacts [h.writeBar, h]
    · exact h.setTxn
  exact reads _ rfl

/-! ## The fabric -/

theorem State.Canonical.foreignAccess {source pa n op} (h : s.Canonical) : (s.foreignAccess source pa n op).Canonical :=
  .ite h h.fresh

theorem State.Canonical.acceptMessage {source dest launch words} (h : s.Canonical) :
    (s.acceptMessage source dest launch words).Canonical := by
  refine .post (.setStream ?_)
  split
  exacts [h.setLaunch, h]

theorem State.Canonical.acceptPacket {source dest p t} (h : s.Canonical) (e : s.acceptPacket source dest p = some t) : t.Canonical := by
  cases p with
  | read pa n =>
    simp only [State.acceptPacket, Option.some.injEq] at e
    exact e ▸ h.foreignAccess
  | write pa n bytes =>
    simp only [State.acceptPacket, Option.some.injEq] at e
    exact e ▸ h.foreignAccess
  | atomic pa n op operand expected =>
    simp only [State.acceptPacket, Option.some.injEq] at e
    subst e
    cases atomicOfCode op operand expected with
    | none => exact h
    | some o => exact h.foreignAccess
  | message launch ws tag =>
    simp only [State.acceptPacket, Option.map_eq_some_iff] at e
    obtain ⟨m, -, accepted⟩ := e
    exact accepted ▸ h.acceptMessage
  | collective tag package elements =>
    simp only [State.acceptPacket, Option.some.injEq] at e
    subst e
    exact h

theorem State.Canonical.flitRetry {n} (h : s.Canonical) : (s.flitRetry n).Canonical :=
  .ite h.logError.setPort h.logError.setPort

theorem State.Canonical.flitCounted {flit} (h : s.Canonical) : (s.flitCounted flit).Canonical := .ite h h.logError

theorem State.Canonical.execFabricFlitReceive {flit} (h : s.Canonical) : Out.Canonical (execFabricFlitReceive flit s) := by
  refine .ite h (.ite h.flitRetry (.ite h.flitCounted ?_))
  split
  · exact h.flitCounted.flitRetry
  · refine .ite h.flitCounted.setPort ?_
    split
    · exact h.flitCounted.setPort
    · split
      · next found => exact h.flitCounted.setPort.acceptPacket found
      · exact h.flitCounted

theorem State.Canonical.moveBack {plane} (h : s.Canonical) : (s.moveBack plane).Canonical := .ite h.setPort h

theorem State.Canonical.execLinkRetrained {plane} (h : s.Canonical) : Out.Canonical (execLinkRetrained plane s) :=
  .ite h.moveBack h.setPort.moveBack

theorem State.Canonical.remoteAck {id} (h : s.Canonical) : (s.remoteAck id).Canonical := by
  unfold State.remoteAck
  split
  exacts [h, .ite (h.ackMsg.foldl fun _ _ ht => ht.moveBack) h]

theorem State.Canonical.redirectFrom {plane n} (h : s.Canonical) : (s.redirectFrom plane n).Canonical :=
  .ite h (.ite h.setPort h.setPort)

theorem State.Canonical.execLinkDown {plane} (h : s.Canonical) : Out.Canonical (execLinkDown plane s) :=
  .ite h (State.Canonical.foldl (.setPort (h.foldl fun _ _ ht => ht.endLaunch)) fun _ _ ht => ht.redirectFrom)

end Sys2Proof.Machine
end

section
/-!
SUPPORT. The canonical form: waiting, the homes, levels, the mint and jobs.
-/

namespace Sys2Proof.Machine

variable {s : State}

/-! ## Waiting -/

theorem State.Canonical.execWait {l n c t _h} (h : s.Canonical) : Out.Canonical (execWait l n c t _h s) :=
  h.issue (.ite h.skip h.stall)

theorem State.Canonical.pauseOp {len n} (h : s.Canonical) : Out.Canonical (s.pauseOp len n) := h.issue (.ite h.skip h.done)
theorem State.Canonical.execPause {i} (h : s.Canonical) : Out.Canonical (execPause i s) := h.pauseOp
theorem State.Canonical.execCPause {n} (h : s.Canonical) : Out.Canonical (execCPause n s) := h.pauseOp

theorem State.Canonical.serve {w x} (h : s.Canonical) : (s.serve w x).Canonical := by
  unfold State.serve
  split
  · exact h.setCtx
  · split
    exacts [h.respond, h]

theorem State.Canonical.queueUp {w} (h : s.Canonical) : (s.queueUp w).Canonical := by
  unfold State.queueUp
  split
  · exact h
  · split
    exacts [h.setTxn, h]

theorem State.Canonical.semGive {u n w} (h : s.Canonical) : (s.semGive u n w).Canonical := by
  unfold State.semGive
  dsimp only
  split
  exacts [h.setTile.serve.serve, h.setTile.serve]

theorem State.Canonical.semRaise {u n w} (h : s.Canonical) : (s.semRaise u n w).Canonical := .ite h.setTile.queueUp h.semGive

theorem State.Canonical.semDrain {u n fuel} (h : s.Canonical) : (s.semDrain u n fuel).Canonical := by
  induction fuel generalizing s with
  | zero => exact h
  | succ fuel ih =>
    unfold State.semDrain
    dsimp only
    split
    exacts [h, .ite (ih h.setTile.semGive) h]

theorem State.Canonical.semLower {u n w} (h : s.Canonical) : (s.semLower u n w).Canonical := h.setTile.serve.semDrain

theorem State.Canonical.deferTile {op dst after} (h : s.Canonical) : Out.Canonical (s.deferTile op dst after) :=
  State.Canonical.skip (.holdCur h.fresh)

theorem State.Canonical.execSemup {d a} (h : s.Canonical) : Out.Canonical (execSemup d a s) := by
  refine h.issue (h.irrevocably fun _ ht => .ite (.ite ht.semDrain.stall ht.semDrain) ?_)
  exact .ite ht.waitGate (.ite ht.deferTile (.ite ht.semRaise.stall ht.semRaise))

theorem State.Canonical.execSemdn {d a} (h : s.Canonical) : Out.Canonical (execSemdn d a s) :=
  h.issue (h.irrevocably (fun _ ht => .ite ht.stall (.ite ht.waitGate (.ite ht.setTile.stall ht.semLower))))

theorem State.Canonical.execSemtry {d a} (h : s.Canonical) : Out.Canonical (execSemtry d a s) :=
  h.issue (h.irrevocably (fun _ ht => .ite ht.waitGate (.ite ht.result ht.semLower)))

theorem State.Canonical.queueGive {u n w x} (h : s.Canonical) : (s.queueGive u n w x).Canonical := by
  unfold State.queueGive
  dsimp only
  split
  exacts [h.setTile.serve.serve, h.setTile.serve]

theorem State.Canonical.queueAdd {u n w x} (h : s.Canonical) : (s.queueAdd u n w x).Canonical :=
  .ite h.setTile.queueUp h.queueGive

theorem State.Canonical.queueDrain {u n fuel} (h : s.Canonical) : (s.queueDrain u n fuel).Canonical := by
  induction fuel generalizing s with
  | zero => exact h
  | succ fuel ih =>
    unfold State.queueDrain
    dsimp only
    split
    exacts [h, .ite (ih h.setTile.queueGive) h]

theorem State.Canonical.queueTake {u n w} (h : s.Canonical) : (s.queueTake u n w).Canonical := by
  unfold State.queueTake
  dsimp only
  split
  exacts [h, h.setTile.serve.queueDrain]

theorem State.Canonical.execQput {a b} (h : s.Canonical) : Out.Canonical (execQput a b s) := by
  refine h.issue (h.irrevocably fun _ ht => .ite (.ite ht.queueDrain.stall ht.queueDrain) ?_)
  exact .ite ht.waitGate (.ite ht.deferTile (.ite ht.queueAdd.stall ht.queueAdd))

theorem State.Canonical.execQget {d a} (h : s.Canonical) : Out.Canonical (execQget d a s) :=
  h.issue (h.irrevocably (fun _ ht => .ite ht.stall (.ite ht.waitGate (.ite ht.setTile.stall ht.queueTake))))

theorem State.Canonical.barrierOp {d a b waits} (h : s.Canonical) : Out.Canonical (s.barrierOp d a b waits) := by
  refine h.issue (h.awaiting (.ite h.waitGate (h.access fun _ _ ht => ?_)) fun _ _ ht => ht.result)
  exact ht.irrevocably fun _ hu => hu.sendAccess.setCtx.stall

theorem State.Canonical.execBarw {d a b} (h : s.Canonical) : Out.Canonical (execBarw d a b s) := h.barrierOp
theorem State.Canonical.execBara {d a b} (h : s.Canonical) : Out.Canonical (execBara d a b s) := h.barrierOp
theorem State.Canonical.reachAlign {k imm} (h : s.Canonical) : (s.reachAlign k imm).Canonical := h

theorem State.Canonical.execAlign (h : s.Canonical) : Out.Canonical (execAlign s) := by
  refine h.issue ?_
  dsimp only
  split
  · exact .ite (State.Canonical.done (.ite h.reachAlign h)) (State.Canonical.stall (.ite h.reachAlign h))
  · exact State.Canonical.skip (.ite h.reachAlign h)

/-! ## Homes -/

theorem State.Canonical.acceptJob {t job} (h : s.Canonical) : (s.acceptJob t job).Canonical := by
  unfold State.acceptJob
  dsimp only
  split
  exacts [h, .ite h.discardSubmitted.setTxn (.ite h h)]

theorem State.Canonical.performTxn {t} (h : s.Canonical) : (s.performTxn t).Canonical := by
  unfold State.performTxn
  split
  · exact h.semRaise
  · exact h.queueAdd
  · exact h.acceptJob
  · exact h.performWalk
  · split
    exacts [h.performRegister, h.performWhole]

theorem State.Canonical.performPart {b p e} (h : s.Canonical) : (s.performPart b p e).Canonical := by
  unfold State.performPart
  dsimp only
  split
  · next found => exact .ite (h.homeLoad.of_done found).logError (h.homeLoad.of_done found)
  · exact h

theorem State.Canonical.execAccessPerformed {id} (h : s.Canonical) : Out.Canonical (execAccessPerformed id s) := by
  unfold Machine.execAccessPerformed
  split
  · exact State.Canonical.ite h.performTxn h
  · split
    · exact h
    · split
      exacts [State.Canonical.ite h.performPart h, h]

theorem State.Canonical.barrierTrap {t} (h : s.Canonical) : Out.Canonical (s.barrierTrap t) :=
  .ite h.finishTxn.setCtx.trapAt h.finishTxn

theorem State.Canonical.sampleLoad {t} (h : s.Canonical) : (s.sampleLoad t).Canonical := by
  unfold State.sampleLoad
  split
  exacts [.ite h h.sampleAt, .ite h h.sampleAt, h]

theorem State.Canonical.execLoadResponse {id} (h : s.Canonical) : Out.Canonical (execLoadResponse id s) := by
  unfold Machine.execLoadResponse
  split
  exacts [h, .ite h (.ite h.barrierTrap h.sampleLoad.respond)]

theorem State.Canonical.execStoreAck {id} (h : s.Canonical) : Out.Canonical (execStoreAck id s) := by
  unfold Machine.execStoreAck
  split
  exacts [h, State.Canonical.ite h.finishTxn h]

theorem State.Canonical.execPageWalkComplete {cluster root va} (h : s.Canonical) :
    Out.Canonical (execPageWalkComplete cluster root va s) := by
  unfold Machine.execPageWalkComplete
  split
  exacts [.ite h h.setCluster, h]

theorem State.Canonical.execInstructionLineFill {cluster line bad} (h : s.Canonical) :
    Out.Canonical (execInstructionLineFill cluster line bad s) :=
  State.Canonical.setCluster (.ite h.logError h)

/-! ## Levels -/

theorem State.Canonical.execLvcnt {d a b} (h : s.Canonical) : Out.Canonical (execLvcnt d a b s) := h.issue h.result

theorem State.Canonical.cancelLevel {level tag l by_} (h : s.Canonical) : (s.cancelLevel level tag l by_).Canonical := by
  unfold State.cancelLevel
  split
  · exact h
  · split
    exacts [h.cancelLaunch, h.setJob.cancelLaunches, h.setJob.cancelLaunches, h.setJob.cancelLaunches]

theorem State.Canonical.cancelBody {d a b} (h : s.Canonical) : Out.Canonical (s.cancelBody d a b) := by
  unfold State.cancelBody
  split
  exacts [h.result, h.hretBody, .ite h.result h.cancelLevel.result]

theorem State.Canonical.execCncl {d a b} (h : s.Canonical) : Out.Canonical (execCncl d a b s) :=
  h.issueOn (.ite (h.irrevocably (fun _ ht => ht.cancelBody)) h.cancelBody)

/-! ## The mint -/

theorem State.Canonical.report {r} (h : s.Canonical) : (s.report r).Canonical := h

theorem State.Canonical.takePages {n} (h : s.Canonical) : (s.takePages n).2.Canonical := by
  induction n generalizing s with
  | zero => exact h
  | succ n ih => exact ih h.allocPage

theorem State.Canonical.writePages {kid bs l} (h : s.Canonical) : (s.writePages kid bs l).Canonical := by
  induction l generalizing s bs with
  | nil => exact h
  | cons pa r ih => exact ih h.writeList

theorem State.Canonical.dropCode {pages} (h : s.Canonical) : (s.dropCode pages).Canonical := h
theorem State.Canonical.fillBody {c b} (h : s.Canonical) : (s.fillBody c b).Canonical := h.writePages.dropCode

theorem State.Canonical.buildBody {c number values live} (h : s.Canonical) : (s.buildBody c number values live).Canonical :=
  .fillBody h.takePages

theorem State.Canonical.bindBody {c values} (h : s.Canonical) : (s.bindBody c values).2.Canonical := by
  unfold State.bindBody
  split
  · exact h
  · split
    exacts [h, h.fresh.buildBody]

theorem State.Canonical.execCapsuleInstall {bytes slots tenant} (h : s.Canonical) :
    Out.Canonical (execCapsuleInstall bytes slots tenant s) :=
  .ite h.report (.ite h.report (State.Canonical.report (.buildBody h)))

theorem State.Canonical.setCapsule {c} (h : s.Canonical) : (s.setCapsule c).Canonical := h

theorem State.Canonical.execCapsuleRetire {acc} (h : s.Canonical) : Out.Canonical (execCapsuleRetire acc s) := by
  unfold Machine.execCapsuleRetire
  split
  exacts [h, .ite h h]

theorem State.Canonical.execCapsuleExport {acc} (h : s.Canonical) : Out.Canonical (execCapsuleExport acc s) := by
  unfold Machine.execCapsuleExport
  split
  exacts [h.report, .ite h.report h.report]

theorem State.Canonical.convertFolio {k st pc} (h : s.Canonical) : (s.convertFolio k st pc).Canonical := by
  unfold State.convertFolio
  split
  · exact h
  · refine .setCtx (.foldl h fun _ _ ht => ?_)
    split
    · exact ht
    · split
      · next found => exact ht.storeVa found
      · exact ht

theorem State.Canonical.drainCtx {l c k} (h : s.Canonical) : (s.drainCtx l c k).Canonical := by
  refine .ite h ?_
  split
  · exact .ite h h.setCtx
  · refine .ite h ?_
    split
    exacts [h.convertFolio, h]

theorem State.Canonical.drainLaunch {tag} (h : s.Canonical) : (s.drainLaunch tag).Canonical := by
  unfold State.drainLaunch
  split
  · exact h
  · refine .ite (.ite h h.setLaunch) (.ite h ?_)
    split
    · exact h
    · refine .ite h.endLaunch (.ite (.makeAbsent (.foldl h.setLaunch ?_)) (.foldl h.setLaunch ?_))
      all_goals exact fun _ _ ht => ht.drainCtx

theorem State.Canonical.drainWhere {p} (h : s.Canonical) : (s.drainWhere p).Canonical := h.foldl fun _ _ ht => ht.drainLaunch

theorem State.Canonical.execBodyVoid {translator epoch} (h : s.Canonical) : Out.Canonical (execBodyVoid translator epoch s) :=
  .ite h (.ite h.drainWhere h.drainWhere)

theorem State.Canonical.execBodyVoidLive {k} (h : s.Canonical) : Out.Canonical (execBodyVoidLive k s) := by
  unfold Machine.execBodyVoidLive
  dsimp only
  split
  exacts [h, .ite h.endLaunch h]

theorem State.Canonical.execCapreb {d a} (h : s.Canonical) : Out.Canonical (execCapreb d a s) := by
  refine h.issue (h.irrevocably (fun _ ht => ?_))
  split
  · exact ht.result
  · split
    exacts [ht.result, ht.setCapsule.drainWhere.result, ht.setCapsule.drainWhere.result, ht.result, ht.result]

theorem State.Canonical.refuseLaunch {tag status reason} (h : s.Canonical) : (s.refuseLaunch tag status reason).Canonical := by
  unfold State.refuseLaunch
  split
  · exact h
  · dsimp only
    split
    exacts [h.setLaunch.sweepBodies.endNotice, h.setLaunch.sweepBodies.endNotice.setJob.cancelLaunches]

theorem State.Canonical.rebuilt {tag} (h : s.Canonical) : (s.rebuilt tag).Canonical := by
  unfold State.rebuilt
  split
  exacts [.ite h.setLaunch h, h]

theorem State.Canonical.rebuildFailed {tag} (h : s.Canonical) : (s.rebuildFailed tag).Canonical := by
  unfold State.rebuildFailed
  split
  exacts [.ite h.endLaunch (.ite h.refuseLaunch h), h]

theorem State.Canonical.execRebuildComplete {acc ok} (h : s.Canonical) : Out.Canonical (execRebuildComplete acc ok s) := by
  unfold Machine.execRebuildComplete
  split
  · exact h
  · refine .ite h (.ite h.drainWhere (.ite ?_ ?_))
    · exact State.Canonical.foldl (h.drainWhere.setCapsule.foldl fun _ _ ht => ht.fillBody) fun _ _ ht => ht.rebuilt
    · exact h.drainWhere.setCapsule.logReason.foldl fun _ _ ht => ht.rebuildFailed

theorem State.Canonical.patchBody {l c} (h : s.Canonical) : (s.patchBody l c).Canonical := by
  unfold State.patchBody
  split
  exacts [h, .fillBody h]

theorem State.Canonical.execLivePatch {tag slot v} (h : s.Canonical) : Out.Canonical (execLivePatch tag slot v s) := by
  unfold Machine.execLivePatch
  dsimp only
  split
  · exact h.report
  · split
    · exact h.report
    · refine .ite h.report ?_
      split
      exacts [h.report, .ite h.report (.ite h.report h.setLaunch.patchBody.report)]

/-! ## Jobs -/

theorem State.Canonical.addLaunch {job phase graph index addr id} (h : s.Canonical) :
    (s.addLaunch job phase graph index addr id).Canonical :=
  h

theorem State.Canonical.addGraph {job phase graph id addrs} (h : s.Canonical) :
    (s.addGraph job phase graph id addrs).Canonical :=
  h.foldl fun _ _ ht => ht.addLaunch

theorem State.Canonical.startPhase {job phase j} (h : s.Canonical) : (s.startPhase job phase j).Canonical :=
  h.setJob.foldl fun _ _ ht => ht.addGraph

theorem State.Canonical.makeJob {d} (h : s.Canonical) : (s.makeJob d).Canonical := by
  unfold State.makeJob
  dsimp only
  split
  exacts [.setJob h, .startPhase h]

theorem State.Canonical.execJobDescriptorTake (h : s.Canonical) : Out.Canonical (execJobDescriptorTake s) :=
  .ite h (.ite (State.Canonical.logReason (.raiseMsix h)) (State.Canonical.makeJob h))

theorem State.Canonical.admitLaunch {tag l c} (h : s.Canonical) : (s.admitLaunch tag l c).Canonical :=
  .ite h.setLaunch h.bindBody.setLaunch

theorem State.Canonical.takeTicket {tag l j} (h : s.Canonical) : (s.takeTicket tag l j).Canonical := .ite h h

theorem State.Canonical.admitWith {tag l r tenant} (h : s.Canonical) : (s.admitWith tag l r tenant).Canonical := by
  unfold State.admitWith
  split
  · exact h.refuseLaunch
  · next c _ =>
    dsimp only
    generalize s.admissionRefusal r c tenant (s.readEntries r) = refusal
    cases c.state with
    | installing => exact h.refuseLaunch
    | ready =>
      cases refusal
      exacts [h.admitLaunch, h.refuseLaunch]
    | void => exact State.Canonical.drainWhere (State.Canonical.setCapsule h)
    | rebuilding => exact h.setLaunch
    | retired => exact h.refuseLaunch

theorem State.Canonical.execLaunchAdmission {tag} (h : s.Canonical) : Out.Canonical (execLaunchAdmission tag s) := by
  unfold Machine.execLaunchAdmission
  split
  · exact h
  · split
    · exact h
    · refine .ite h ?_
      dsimp only
      split
      exacts [h.takeTicket, .ite h.takeTicket.refuseLaunch h.takeTicket.admitWith]

theorem State.Canonical.completeJob {job j} (h : s.Canonical) : (s.completeJob job j).Canonical := by
  unfold State.completeJob State.Canonical
  dsimp only
  exact h.writeDword.writeDword.setJob.raiseMsix

theorem State.Canonical.execJobCompletion {job} (h : s.Canonical) : Out.Canonical (execJobCompletion job s) := by
  unfold Machine.execJobCompletion
  split
  exacts [h, .ite h (.ite h.startPhase h.completeJob)]

end Sys2Proof.Machine
end

section
/-!
SUPPORT. The canonical form: loads and stores, placement, the vault, the readroom and regions.
-/

namespace Sys2Proof.Machine

variable {s : State}

/-! ## Loads and stores -/

theorem State.Canonical.loadFrom {len d a off n signed} (h : s.Canonical) : Out.Canonical (s.loadFrom len d a off n signed) :=
  h.issue h.loadOp

theorem State.Canonical.execLdb {d a i} (h : s.Canonical) : Out.Canonical (execLdb d a i s) := h.loadFrom
theorem State.Canonical.execLdbu {d a i} (h : s.Canonical) : Out.Canonical (execLdbu d a i s) := h.loadFrom
theorem State.Canonical.execLdh {d a i} (h : s.Canonical) : Out.Canonical (execLdh d a i s) := h.loadFrom
theorem State.Canonical.execLdhu {d a i} (h : s.Canonical) : Out.Canonical (execLdhu d a i s) := h.loadFrom
theorem State.Canonical.execLdw {d a i} (h : s.Canonical) : Out.Canonical (execLdw d a i s) := h.loadFrom
theorem State.Canonical.execLdwu {d a i} (h : s.Canonical) : Out.Canonical (execLdwu d a i s) := h.loadFrom
theorem State.Canonical.execLdd {d a i} (h : s.Canonical) : Out.Canonical (execLdd d a i s) := h.loadFrom
theorem State.Canonical.execCLdw {d u} (h : s.Canonical) : Out.Canonical (execCLdw d u s) := h.loadFrom
theorem State.Canonical.execLda {d a n} (h : s.Canonical) : Out.Canonical (execLda d a n s) := h.issue h.loadOp

theorem State.Canonical.storeTo {len d a off n release} (h : s.Canonical) : Out.Canonical (s.storeTo len d a off n release) :=
  h.issue h.storeOp

theorem State.Canonical.execStb {d a i} (h : s.Canonical) : Out.Canonical (execStb d a i s) := h.storeTo
theorem State.Canonical.execSth {d a i} (h : s.Canonical) : Out.Canonical (execSth d a i s) := h.storeTo
theorem State.Canonical.execStw {d a i} (h : s.Canonical) : Out.Canonical (execStw d a i s) := h.storeTo
theorem State.Canonical.execStd {d a i} (h : s.Canonical) : Out.Canonical (execStd d a i s) := h.storeTo
theorem State.Canonical.execCStw {d u} (h : s.Canonical) : Out.Canonical (execCStw d u s) := h.storeTo
theorem State.Canonical.execStl {d a n} (h : s.Canonical) : Out.Canonical (execStl d a n s) := h.storeTo

theorem State.Canonical.execFence {k n} (h : s.Canonical) : Out.Canonical (execFence k n s) := by
  refine h.issue (.ite h.waitGate (State.Canonical.skip ?_))
  split <;> exact h.holdCur

theorem State.Canonical.execIflush {a i} (h : s.Canonical) : Out.Canonical (execIflush a i s) := by
  refine h.issue ?_
  split
  · next found => exact (h.locate found).dropLine.skip
  · exact h.skip

theorem State.Canonical.execCatl {d a} (h : s.Canonical) : Out.Canonical (execCatl d a s) := h.alu1

theorem State.Canonical.execCats {d a b} (h : s.Canonical) : Out.Canonical (execCats d a b s) :=
  h.issue (h.irrevocably (fun _ ht => ht.setTile.result))

theorem State.Canonical.execCati {d a} (h : s.Canonical) : Out.Canonical (execCati d a s) := by
  refine h.issue (h.irrevocably (fun _ ht => ?_))
  dsimp only
  split
  exacts [ht.result, ht.setTile.result]

theorem State.Canonical.atomic {d a b n op} (h : s.Canonical) : Out.Canonical (s.atomic d a b n op) := h.issue h.amoOp
theorem State.Canonical.execAmoadd {d a b z} (h : s.Canonical) : Out.Canonical (execAmoadd d a b z s) := h.atomic
theorem State.Canonical.execAmoand {d a b z} (h : s.Canonical) : Out.Canonical (execAmoand d a b z s) := h.atomic
theorem State.Canonical.execAmoor {d a b z} (h : s.Canonical) : Out.Canonical (execAmoor d a b z s) := h.atomic
theorem State.Canonical.execAmoxor {d a b z} (h : s.Canonical) : Out.Canonical (execAmoxor d a b z s) := h.atomic
theorem State.Canonical.execAmomin {d a b z} (h : s.Canonical) : Out.Canonical (execAmomin d a b z s) := h.atomic
theorem State.Canonical.execAmomax {d a b z} (h : s.Canonical) : Out.Canonical (execAmomax d a b z s) := h.atomic
theorem State.Canonical.execAmominu {d a b z} (h : s.Canonical) : Out.Canonical (execAmominu d a b z s) := h.atomic
theorem State.Canonical.execAmomaxu {d a b z} (h : s.Canonical) : Out.Canonical (execAmomaxu d a b z s) := h.atomic
theorem State.Canonical.execAmoswp {d a b z} (h : s.Canonical) : Out.Canonical (execAmoswp d a b z s) := h.atomic
theorem State.Canonical.execAmofadd {d a b} (h : s.Canonical) : Out.Canonical (execAmofadd d a b s) := h.atomic
theorem State.Canonical.execAmocas {d a b z} (h : s.Canonical) : Out.Canonical (execAmocas d a b z s) := h.issue h.amoOp

/-! ## Placement -/

theorem State.Canonical.releaseJuniors {us l} (h : s.Canonical) : (s.releaseJuniors us l).Canonical := by
  induction l generalizing s with
  | nil => exact h
  | cons e r ih => exact ih (.ite h.setLaunch h)

theorem State.Canonical.installKeys {l} (h : s.Canonical) : (s.installKeys l).Canonical := h.fresh

theorem State.Canonical.writeRecordFields {l} (h : s.Canonical) : (s.writeRecordFields l).Canonical :=
  h.foldl fun _ _ ht => ht.writeDword

theorem State.Canonical.mapWorld {l va pa bits} (h : s.Canonical) : (s.mapWorld l va pa bits).Canonical :=
  .ite h (.mapPage (.ite (.ite h h.zeroRange) (.ownPage (.ite h h.zeroRange))))

theorem State.Canonical.mapBody {l} (h : s.Canonical) : (s.mapBody l).Canonical := by
  unfold State.mapBody
  split
  exacts [h, h.foldl fun _ _ ht => ht.mapPage]

theorem State.Canonical.buildTables {l} (h : s.Canonical) : (s.buildTables l).Canonical := by
  unfold State.buildTables
  dsimp only
  split
  · exact h.mapFresh.mapBlocks.mapBlocks.mapBody.foldl fun _ _ ht => ht.mapWorld
  · exact .foldl (h.mapFresh.mapBlocks.mapBlocks.mapBody.foldl fun _ _ ht => ht.mapWorld) fun _ _ ht => ht.mapWorld

theorem State.Canonical.reservePages {l} (h : s.Canonical) : (s.reservePages l).Canonical := by
  unfold State.reservePages
  split
  exacts [h, h.setJob]

theorem State.Canonical.sendInitial {tag l} (h : s.Canonical) : (s.sendInitial tag l).Canonical := h.foldl fun _ _ ht => ht.post

theorem State.Canonical.takeTiles {tag l} (h : s.Canonical) : (s.takeTiles tag l).Canonical := by
  induction l generalizing s with
  | nil => exact h
  | cons u r ih => exact ih h.setTile

theorem State.Canonical.freshTiles {us} (h : s.Canonical) : (s.freshTiles us).Canonical := h.foldl fun _ _ ht => ht.clearTile

theorem State.Canonical.dispatchLaunch {tag l us} (h : s.Canonical) : (s.dispatchLaunch tag l us).Canonical := by
  unfold State.dispatchLaunch
  dsimp only
  refine .sendInitial (.writeRecordFields (.reservePages (.buildTables (.foldl ?_ fun _ _ ht => ht.zeroRange))))
  exact .takeTiles (.freshTiles (.setLaunch h.installKeys.allocPage.allocBlocks.allocBlock))

theorem State.Canonical.execLaunchPlacement {tag units} (h : s.Canonical) :
    Out.Canonical (execLaunchPlacement tag units s) := by
  unfold Machine.execLaunchPlacement
  split
  · exact h
  · refine .ite h (.ite h.refuseLaunch (.ite h ?_))
    dsimp only
    split
    exacts [h.releaseJuniors, .ite h.releaseJuniors.dispatchLaunch h.releaseJuniors.setLaunch]

theorem State.Canonical.resumeDrained {k} (h : s.Canonical) : (s.resumeDrained k).Canonical := by
  unfold State.resumeDrained
  split
  exacts [.ite h.eretOn h, h]

theorem State.Canonical.execLaunchReturn {tag units} (h : s.Canonical) : Out.Canonical (execLaunchReturn tag units s) := by
  unfold Machine.execLaunchReturn
  split
  · exact h
  · split
    · exact h
    · refine .ite h ?_
      dsimp only
      split
      · exact h
      · split
        exacts [h.bringBack.takeTiles, h.bringBack.takeTiles.foldl fun _ _ ht => ht.resumeDrained]

/-! ## The vault -/

theorem State.Canonical.changeMappings {pages change} (h : s.Canonical) (hc : ∀ t l m, t.Canonical → (change t l m).Canonical) :
    (s.changeMappings pages change).Canonical :=
  h.dropTranslations.foldl fun _ _ ht => ht.foldl fun _ _ hu => hc _ _ _ hu

theorem State.Canonical.remapAll {pages} (h : s.Canonical) : (s.remapAll pages).Canonical :=
  h.changeMappings (fun _ _ _ ht => ht.mapPage)

theorem State.Canonical.unmapWritable {pages} (h : s.Canonical) : (s.unmapWritable pages).Canonical := by
  refine h.changeMappings (fun _ _ _ ht => ?_)
  split
  exacts [.ite ht.setLeaf ht, ht]

theorem State.Canonical.writeUnits {r dest stride units} (h : s.Canonical) : (s.writeUnits r dest stride units).Canonical :=
  h.foldl fun _ _ ht => ht.writeList

theorem State.Canonical.sealRegion {q e n} (h : s.Canonical) : (s.sealRegion q e n).Canonical := .remapAll (.writeUnits h.fresh)

theorem State.Canonical.execSeal {d a b} (h : s.Canonical) : Out.Canonical (execSeal d a b s) := by
  refine h.issue (h.irrevocably (fun _ ht => .ite ht.waitGate (.ite ht.stall (.ite ht.result ?_))))
  split
  · exact ht.result.eventAt
  · refine .ite ht.unmapWritable.stall (.ite ht.unmapWritable.eventAt.result ?_)
    split
    exacts [ht.unmapWritable.eventAt.result, ht.unmapWritable.eventAt.sealRegion.result]

theorem State.Canonical.execSealedRegionRetire {e} (h : s.Canonical) : Out.Canonical (execSealedRegionRetire e s) := by
  unfold Machine.execSealedRegionRetire
  split
  exacts [h, .ite h (State.Canonical.remapAll h)]

theorem State.Canonical.execAuditLogConsume {tenant rp} (h : s.Canonical) : Out.Canonical (execAuditLogConsume tenant rp s) :=
  .ite h h

theorem State.Canonical.carryPage {old new} (h : s.Canonical) : (s.carryPage old new).Canonical :=
  Tbl.wf_moveRange h old 65536 new

theorem State.Canonical.movePage {tag va pa} (h : s.Canonical) : (s.movePage tag va pa).Canonical := by
  unfold State.movePage
  split
  · exact h
  · split
    · exact h
    · refine .ite h (h.allocPage.carryPage.changeMappings (fun _ _ _ ht => ?_))
      split
      exacts [ht.mapPage, ht]

theorem State.Canonical.releaseHeld {k} (h : s.Canonical) : (s.releaseHeld k).Canonical := by
  unfold State.releaseHeld
  dsimp only
  split
  exacts [h, .ite h (.ite h.setCtx h.resume)]

theorem State.Canonical.setClient {n x} (h : s.Canonical) : (s.setClient n x).Canonical := h

theorem State.Canonical.continueHeld {n} (h : s.Canonical) : (s.continueHeld n).Canonical := by
  unfold State.continueHeld
  split
  exacts [h, h.setClient.foldl fun _ _ ht => ht.releaseHeld]

theorem State.Canonical.endSession {n} (h : s.Canonical) : (s.endSession n).Canonical := h.continueHeld.setClient
theorem State.Canonical.endSessions (h : s.Canonical) : s.endSessions.Canonical := h.foldl fun _ _ ht => ht.endSession

theorem State.Canonical.setSession {p x} (h : s.Canonical) : (s.setSession p x).Canonical := by
  unfold State.setSession
  split <;> exact h

theorem State.Canonical.mailboxAnswer {bs} (h : s.Canonical) : (s.mailboxAnswer bs).Canonical := .raiseMsix h
theorem State.Canonical.ethernetAnswer {bs} (h : s.Canonical) : (s.ethernetAnswer bs).Canonical := .eventAt h

theorem State.Canonical.respondSpdm {p bs} (h : s.Canonical) : (s.respondSpdm p bs).Canonical := by
  unfold State.respondSpdm
  dsimp only
  split
  exacts [.ite h.setSession.ethernetAnswer h.ethernetAnswer, .ite h.setSession.mailboxAnswer h.mailboxAnswer]

theorem State.Canonical.answerSpdm {p code req bs} (h : s.Canonical) : Out.Canonical (s.answerSpdm p code req bs) :=
  .ite h.respondSpdm h

theorem State.Canonical.execSpdmGetVersion {path req} (h : s.Canonical) : Out.Canonical (execSpdmGetVersion path req s) :=
  .ite h.respondSpdm.setSession h

theorem State.Canonical.execSpdmGetCapabilities {path req} (h : s.Canonical) :
    Out.Canonical (execSpdmGetCapabilities path req s) := h.answerSpdm

theorem State.Canonical.execSpdmNegotiateAlgorithms {path req} (h : s.Canonical) :
    Out.Canonical (execSpdmNegotiateAlgorithms path req s) :=
  .ite h.respondSpdm.setSession h

theorem State.Canonical.execSpdmGetDigests {path req} (h : s.Canonical) : Out.Canonical (execSpdmGetDigests path req s) :=
  h.answerSpdm

theorem State.Canonical.execSpdmGetCertificate {path req} (h : s.Canonical) : Out.Canonical (execSpdmGetCertificate path req s) :=
  h.answerSpdm

theorem State.Canonical.execSpdmGetMeasurements {path req} (h : s.Canonical) :
    Out.Canonical (execSpdmGetMeasurements path req s) := h.answerSpdm

theorem State.Canonical.execSpdmChallenge {path req} (h : s.Canonical) : Out.Canonical (execSpdmChallenge path req s) :=
  h.answerSpdm

theorem State.Canonical.dropSession {a} (h : s.Canonical) : (s.dropSession a).Canonical := by
  unfold State.dropSession
  split
  exacts [h, .endSession h]

theorem State.Canonical.execSpdmKeyExchange {path req} (h : s.Canonical) : Out.Canonical (execSpdmKeyExchange path req s) :=
  .ite h.answerSpdm (.ite (State.Canonical.setSession (.fresh (.ite h.respondSpdm.dropSession h.respondSpdm))) h)

theorem State.Canonical.sessionKeys {a} (h : s.Canonical) : (s.sessionKeys a).Canonical := by
  unfold State.sessionKeys
  split <;> exact h.fresh

theorem State.Canonical.execSpdmFinish {path req} (h : s.Canonical) : Out.Canonical (execSpdmFinish path req s) :=
  .ite h (.ite h.respondSpdm h.respondSpdm.setSession.sessionKeys)

theorem State.Canonical.execSpdmEndSession {path req} (h : s.Canonical) : Out.Canonical (execSpdmEndSession path req s) :=
  .ite h (.ite h.respondSpdm h.respondSpdm.dropSession)

theorem State.Canonical.encapsulated {p req} (h : s.Canonical) : (s.encapsulated p req).Canonical :=
  .ite h.respondSpdm.setSession (.ite (.ite h.respondSpdm h.respondSpdm.setSession) h.respondSpdm)

theorem State.Canonical.execSpdmUnsupportedRequest {path req} (h : s.Canonical) :
    Out.Canonical (execSpdmUnsupportedRequest path req s) :=
  .ite h.mailboxAnswer (.ite h h.encapsulated)

theorem State.Canonical.releaseLogKey {p tenant} (h : s.Canonical) : (s.releaseLogKey p tenant).Canonical := by
  unfold State.releaseLogKey
  dsimp only
  split
  exacts [h, .ite h.setSession h]

theorem State.Canonical.setChannel {c q} (h : s.Canonical) : (s.setChannel c q).Canonical := by
  unfold State.setChannel
  split <;> exact h

theorem State.Canonical.execRekeyAck {chan} (h : s.Canonical) : Out.Canonical (execRekeyAck chan s) := h.setChannel
theorem State.Canonical.newKey {chan key} (h : s.Canonical) : (s.newKey chan key).Canonical := h.setChannel

theorem State.Canonical.channelPacket {chan phase} (h : s.Canonical) : (s.channelPacket chan phase).Canonical := by
  unfold State.channelPacket
  split
  exacts [h.secEvent, h.setChannel]

theorem State.Canonical.ptAnswer {r status out} (h : s.Canonical) : (s.ptAnswer r status out).Canonical := by
  unfold State.ptAnswer
  dsimp only
  refine .raiseMsix ?_
  unfold State.Canonical
  dsimp only
  exact h.writePhysical

theorem State.Canonical.ptAccept {r perform} (h : s.Canonical) (hp : ∀ t p, t.Canonical → (perform t p).Canonical) :
    (s.ptAccept r perform).Canonical := by
  unfold State.ptAccept
  dsimp only
  split
  · exact h.secEvent.ptAnswer
  · exact .ite h.secEvent.ptAnswer (.ite (hp _ _ h) (.ptAnswer h))

theorem State.Canonical.ptServe {op perform} (h : s.Canonical) (hp : ∀ t r p, t.Canonical → (perform t r p).Canonical) :
    Out.Canonical (s.ptServe op perform) := by
  unfold State.ptServe
  split
  exacts [h, .ite (h.ptAccept fun _ _ ht => hp _ _ _ ht) h]

theorem State.Canonical.execPtRegisterRead (h : s.Canonical) : Out.Canonical (execPtRegisterRead s) := by
  refine h.ptServe (fun _ _ _ ht => ?_)
  split <;> exact ht.ptAnswer

theorem State.Canonical.execPtRegisterWrite (h : s.Canonical) : Out.Canonical (execPtRegisterWrite s) := by
  refine h.ptServe (fun _ _ _ ht => ?_)
  split
  exacts [.ite ht.writeBar.ptAnswer ht.ptAnswer, ht.ptAnswer]

theorem State.Canonical.execPtMemoryWrite (h : s.Canonical) : Out.Canonical (execPtMemoryWrite s) :=
  .ite h (h.ptServe (fun _ _ _ ht => .ite ht.writePhysical.ptAnswer ht.ptAnswer))

theorem State.Canonical.execPtMemoryRead (h : s.Canonical) : Out.Canonical (execPtMemoryRead s) :=
  .ite h (h.ptServe (fun _ _ _ ht => .ite ht.ptAnswer ht.ptAnswer))

theorem State.Canonical.execPtRekey (h : s.Canonical) : Out.Canonical (execPtRekey s) :=
  .ite h (h.ptServe (fun _ _ _ ht => .ite (.ptAnswer ht) ht.ptAnswer))

theorem State.Canonical.wakeLaunch {tag} (h : s.Canonical) : (s.wakeLaunch tag).Canonical := by
  unfold State.wakeLaunch
  split
  exacts [.ite h.setLaunch h, h]

theorem State.Canonical.dropSessions (h : s.Canonical) : s.dropSessions.Canonical := .endSessions h

theorem State.Canonical.execWake (h : s.Canonical) : Out.Canonical (execWake s) :=
  .ite h (State.Canonical.foldl h.dropSessions fun _ _ ht => ht.wakeLaunch)

theorem State.Canonical.serveTiles {failed} (h : s.Canonical) : (s.serveTiles failed).Canonical := h
theorem State.Canonical.clearChip (h : s.Canonical) : s.clearChip.Canonical := Tbl.wf_clear h _ _
theorem State.Canonical.fetchImage {i} (h : s.Canonical) : (s.fetchImage i).Canonical := .ite h h
theorem State.Canonical.trainLinks (h : s.Canonical) : s.trainLinks.Canonical := h.fresh
theorem State.Canonical.runImage {i} (h : s.Canonical) : (s.runImage i).Canonical := h
theorem State.Canonical.bootFailed (h : s.Canonical) : s.bootFailed.Canonical := h

theorem State.Canonical.execBoot {failed} (h : s.Canonical) : Out.Canonical (execBoot failed s) := by
  unfold Machine.execBoot
  split
  · exact h
  · refine .ite h (.ite h.bootFailed (State.Canonical.raiseMsix (.ite (.serveTiles ?_) ?_)))
    all_goals exact h.runImage.trainLinks.clearChip

theorem State.Canonical.execBootRetry (h : s.Canonical) : Out.Canonical (execBootRetry s) := State.Canonical.ite h h.bootFailed

/-! ## The readroom -/

theorem State.Canonical.answer {key xs} (h : s.Canonical) : (s.answer key xs).Canonical := by
  unfold State.answer
  split
  exacts [h.answerTo, h.setSession.putAnswer]

theorem State.Canonical.done0 {w} (h : s.Canonical) : (s.done0 w).Canonical := h.answer
theorem State.Canonical.refuse (h : s.Canonical) : Out.Canonical s.refuse := h.done0
theorem State.Canonical.setMine {x} (h : s.Canonical) : (s.setMine x).Canonical := h.setClient
theorem State.Canonical.holdCtx {k} (h : s.Canonical) : (s.holdCtx k).Canonical := .ite h.stopCtx h

theorem State.Canonical.execRrAttach {job} (h : s.Canonical) : Out.Canonical (execRrAttach job s) := by
  refine .ite h.refuse ?_
  split
  exacts [h.refuse, .ite h.refuse (State.Canonical.done0 (h.setMine.foldl fun _ _ ht => ht.holdCtx))]

theorem State.Canonical.execRrBreak {loc} (h : s.Canonical) : Out.Canonical (execRrBreak loc s) := .ite h.refuse h.setMine.done0
theorem State.Canonical.execRrDelete {n} (h : s.Canonical) : Out.Canonical (execRrDelete n s) := .ite h.refuse h.setMine.done0

theorem State.Canonical.execRrStop (h : s.Canonical) : Out.Canonical (execRrStop s) := by
  unfold Machine.execRrStop
  split
  exacts [h.refuse, State.Canonical.done0 (h.setMine.foldl fun _ _ ht => ht.holdCtx)]

theorem State.Canonical.execRrContinue (h : s.Canonical) : Out.Canonical (execRrContinue s) :=
  .ite h.refuse h.continueHeld.done0

theorem State.Canonical.execRrQuit (h : s.Canonical) : Out.Canonical (execRrQuit s) := h.endSession
theorem State.Canonical.execRrDisconnect (h : s.Canonical) : Out.Canonical (execRrDisconnect s) := h.dropSession

theorem State.Canonical.execRrRegs {core ctx} (h : s.Canonical) : Out.Canonical (execRrRegs core ctx s) := by
  unfold Machine.execRrRegs
  split
  exacts [h.refuse, h.answer]

theorem State.Canonical.execRrFolio {core ctx} (h : s.Canonical) : Out.Canonical (execRrFolio core ctx s) := by
  unfold Machine.execRrFolio
  dsimp only
  split
  · split
    exacts [h.refuse, .ite h.answer h.refuse]
  · exact h.refuse

theorem State.Canonical.execRrMem {addr n} (h : s.Canonical) : Out.Canonical (execRrMem addr n s) := by
  unfold Machine.execRrMem
  split
  exacts [h.refuse, h.answer]

theorem State.Canonical.execRrRing {core} (h : s.Canonical) : Out.Canonical (execRrRing core s) := by
  unfold Machine.execRrRing
  split
  exacts [h.refuse, .ite h.answer h.answer]

theorem State.Canonical.showEach {f} (h : s.Canonical) : Out.Canonical (s.showEach f) :=
  .ite h.refuse (h.foldl fun _ _ ht => ht.answer)

theorem State.Canonical.execRrWl (h : s.Canonical) : Out.Canonical (execRrWl s) := h.showEach
theorem State.Canonical.execRrRegion (h : s.Canonical) : Out.Canonical (execRrRegion s) := h.showEach

/-! ## Regions -/

theorem State.Canonical.fixedEdges {n l} (h : s.Canonical) : (s.fixedEdges n l).Canonical := by
  induction l generalizing s with
  | nil => exact h
  | cons x r ih => exact ih (.ite h.addEdge h.addEdge)

theorem State.Canonical.beginRegion {d ordered} (h : s.Canonical) : Out.Canonical (s.beginRegion d ordered) := by
  refine h.issue (.ite h.trap (.ite h.trap (.ite h.stall ?_)))
  split
  exacts [h.stall, State.Canonical.ite (.fixedEdges (.done h)) (.done h)]

theorem State.Canonical.execFrbegU {d} (h : s.Canonical) : Out.Canonical (execFrbegU d s) := h.beginRegion
theorem State.Canonical.execFrbegO {d} (h : s.Canonical) : Out.Canonical (execFrbegO d s) := h.beginRegion
theorem State.Canonical.endCommit {d n} (h : s.Canonical) : (s.endCommit d n).Canonical := .done h.sampleAt

theorem State.Canonical.execFrcom {d} (h : s.Canonical) : Out.Canonical (execFrcom d s) := by
  refine h.issue ?_
  dsimp only
  split
  · exact h.trap
  · exact .ite (.ite h.endCommit h.waitBackground) (.ite h.waitBackground (.ite h.setSlot.endCommit h.setSlot.waitBackground))

theorem State.Canonical.execFrabt (h : s.Canonical) : Out.Canonical (execFrabt s) := by
  refine h.issue ?_
  dsimp only
  split
  exacts [h.trap, .ite h.trap h.abortSlots.setCtx]

theorem State.Canonical.execFrstat {d} (h : s.Canonical) : Out.Canonical (execFrstat d s) := h.issue h.result

theorem State.Canonical.execCommitMerge {slot home} (h : s.Canonical) : Out.Canonical (execCommitMerge slot home s) :=
  .ite (State.Canonical.setSlot h.mergeVersions) h

theorem State.Canonical.execClosureRecompute (h : s.Canonical) : Out.Canonical (execClosureRecompute s) := h

end Sys2Proof.Machine
end

section
/-!
SUPPORT. The canonical form: scalar float, the vector unit, and every instruction and event.
-/

namespace Sys2Proof.Machine

variable {s : State}

/-! ## Scalar float -/

theorem State.Canonical.execFadd {d a b} (h : s.Canonical) : Out.Canonical (execFadd d a b s) := h.alu2
theorem State.Canonical.execFsub {d a b} (h : s.Canonical) : Out.Canonical (execFsub d a b s) := h.alu2
theorem State.Canonical.execFmul {d a b} (h : s.Canonical) : Out.Canonical (execFmul d a b s) := h.alu2
theorem State.Canonical.execFdiv {d a b} (h : s.Canonical) : Out.Canonical (execFdiv d a b s) := h.alu2
theorem State.Canonical.execFmin {d a b} (h : s.Canonical) : Out.Canonical (execFmin d a b s) := h.alu2
theorem State.Canonical.execFmax {d a b} (h : s.Canonical) : Out.Canonical (execFmax d a b s) := h.alu2
theorem State.Canonical.execFeq {d a b} (h : s.Canonical) : Out.Canonical (execFeq d a b s) := h.alu2
theorem State.Canonical.execFlt {d a b} (h : s.Canonical) : Out.Canonical (execFlt d a b s) := h.alu2
theorem State.Canonical.execFle {d a b} (h : s.Canonical) : Out.Canonical (execFle d a b s) := h.alu2
theorem State.Canonical.execFfma {d a b} (h : s.Canonical) : Out.Canonical (execFfma d a b s) := h.issue h.result
theorem State.Canonical.execFsqrt {d a} (h : s.Canonical) : Out.Canonical (execFsqrt d a s) := h.alu1
theorem State.Canonical.execFcvtws {d a} (h : s.Canonical) : Out.Canonical (execFcvtws d a s) := h.alu1
theorem State.Canonical.execFcvtsw {d a} (h : s.Canonical) : Out.Canonical (execFcvtsw d a s) := h.alu1

/-! ## Vector instructions -/

theorem State.Canonical.vectorOp {need f} (h : s.Canonical) : Out.Canonical (s.vectorOp need f) :=
  h.coprocess (fun _ _ ht => ht.ringRetire.done)

theorem State.Canonical.lanes2 {unit d a b m f} (h : s.Canonical) : Out.Canonical (s.lanes2 unit d a b m f) := h.vectorOp
theorem State.Canonical.lanes1 {unit d a m f} (h : s.Canonical) : Out.Canonical (s.lanes1 unit d a m f) := h.vectorOp
theorem State.Canonical.lanes3 {d a b m f} (h : s.Canonical) : Out.Canonical (s.lanes3 d a b m f) := h.vectorOp
theorem State.Canonical.compareLanes {d a b m f} (h : s.Canonical) : Out.Canonical (s.compareLanes d a b m f) := h.vectorOp
theorem State.Canonical.execVadd {d a b m} (h : s.Canonical) : Out.Canonical (execVadd d a b m s) := h.lanes2
theorem State.Canonical.execVadds {d a b m} (h : s.Canonical) : Out.Canonical (execVadds d a b m s) := h.lanes2
theorem State.Canonical.execVsub {d a b m} (h : s.Canonical) : Out.Canonical (execVsub d a b m s) := h.lanes2
theorem State.Canonical.execVsubs {d a b m} (h : s.Canonical) : Out.Canonical (execVsubs d a b m s) := h.lanes2
theorem State.Canonical.execVmul {d a b m} (h : s.Canonical) : Out.Canonical (execVmul d a b m s) := h.lanes2
theorem State.Canonical.execVmulh {d a b m} (h : s.Canonical) : Out.Canonical (execVmulh d a b m s) := h.lanes2
theorem State.Canonical.execVmulhu {d a b m} (h : s.Canonical) : Out.Canonical (execVmulhu d a b m s) := h.lanes2
theorem State.Canonical.execVand {d a b m} (h : s.Canonical) : Out.Canonical (execVand d a b m s) := h.lanes2
theorem State.Canonical.execVor {d a b m} (h : s.Canonical) : Out.Canonical (execVor d a b m s) := h.lanes2
theorem State.Canonical.execVxor {d a b m} (h : s.Canonical) : Out.Canonical (execVxor d a b m s) := h.lanes2
theorem State.Canonical.execVshl {d a b m} (h : s.Canonical) : Out.Canonical (execVshl d a b m s) := h.lanes2
theorem State.Canonical.execVshr {d a b m} (h : s.Canonical) : Out.Canonical (execVshr d a b m s) := h.lanes2
theorem State.Canonical.execVsha {d a b m} (h : s.Canonical) : Out.Canonical (execVsha d a b m s) := h.lanes2
theorem State.Canonical.execVmin {d a b m} (h : s.Canonical) : Out.Canonical (execVmin d a b m s) := h.lanes2
theorem State.Canonical.execVmax {d a b m} (h : s.Canonical) : Out.Canonical (execVmax d a b m s) := h.lanes2
theorem State.Canonical.execVminu {d a b m} (h : s.Canonical) : Out.Canonical (execVminu d a b m s) := h.lanes2
theorem State.Canonical.execVmaxu {d a b m} (h : s.Canonical) : Out.Canonical (execVmaxu d a b m s) := h.lanes2
theorem State.Canonical.execVfcmpEq {d a b m} (h : s.Canonical) : Out.Canonical (execVfcmpEq d a b m s) := h.compareLanes
theorem State.Canonical.execVfcmpLt {d a b m} (h : s.Canonical) : Out.Canonical (execVfcmpLt d a b m s) := h.compareLanes
theorem State.Canonical.execVfcmpLe {d a b m} (h : s.Canonical) : Out.Canonical (execVfcmpLe d a b m s) := h.compareLanes
theorem State.Canonical.execVfcmpUn {d a b m} (h : s.Canonical) : Out.Canonical (execVfcmpUn d a b m s) := h.compareLanes
theorem State.Canonical.execVcmpEq {d a b m} (h : s.Canonical) : Out.Canonical (execVcmpEq d a b m s) := h.compareLanes
theorem State.Canonical.execVcmpLt {d a b m} (h : s.Canonical) : Out.Canonical (execVcmpLt d a b m s) := h.compareLanes
theorem State.Canonical.execVcmpLtu {d a b m} (h : s.Canonical) : Out.Canonical (execVcmpLtu d a b m s) := h.compareLanes
theorem State.Canonical.execVfadd {d a b m} (h : s.Canonical) : Out.Canonical (execVfadd d a b m s) := h.lanes2
theorem State.Canonical.execVfsub {d a b m} (h : s.Canonical) : Out.Canonical (execVfsub d a b m s) := h.lanes2
theorem State.Canonical.execVfmul {d a b m} (h : s.Canonical) : Out.Canonical (execVfmul d a b m s) := h.lanes2
theorem State.Canonical.execVfma {d a b m} (h : s.Canonical) : Out.Canonical (execVfma d a b m s) := h.lanes3
theorem State.Canonical.execVfms {d a b m} (h : s.Canonical) : Out.Canonical (execVfms d a b m s) := h.lanes3
theorem State.Canonical.execVfdiv {d a b m} (h : s.Canonical) : Out.Canonical (execVfdiv d a b m s) := h.lanes2
theorem State.Canonical.execVfsqrt {d a m} (h : s.Canonical) : Out.Canonical (execVfsqrt d a m s) := h.lanes1
theorem State.Canonical.execVfmin {d a b m} (h : s.Canonical) : Out.Canonical (execVfmin d a b m s) := h.lanes2
theorem State.Canonical.execVfmax {d a b m} (h : s.Canonical) : Out.Canonical (execVfmax d a b m s) := h.lanes2
theorem State.Canonical.execVfabs {d a m} (h : s.Canonical) : Out.Canonical (execVfabs d a m s) := h.lanes1
theorem State.Canonical.execVfneg {d a m} (h : s.Canonical) : Out.Canonical (execVfneg d a m s) := h.lanes1
theorem State.Canonical.execVfexps {d a b m} (h : s.Canonical) : Out.Canonical (execVfexps d a b m s) := h.lanes2
theorem State.Canonical.execVffloor {d a m} (h : s.Canonical) : Out.Canonical (execVffloor d a m s) := h.lanes1
theorem State.Canonical.execVcvt {d a m c} (h : s.Canonical) : Out.Canonical (execVcvt d a m c s) := .ite h.trap h.vectorOp
theorem State.Canonical.wholeVector {d a f} (h : s.Canonical) : Out.Canonical (s.wholeVector d a f) := h.vectorOp
theorem State.Canonical.execVpk6 {d a} (h : s.Canonical) : Out.Canonical (execVpk6 d a s) := h.wholeVector
theorem State.Canonical.execVupk6 {d a} (h : s.Canonical) : Out.Canonical (execVupk6 d a s) := h.wholeVector
theorem State.Canonical.execVrfwd {d a m} (h : s.Canonical) : Out.Canonical (execVrfwd d a m s) := h.lanes1
theorem State.Canonical.execVrrev {d a m} (h : s.Canonical) : Out.Canonical (execVrrev d a m s) := h.lanes1

theorem State.Canonical.reduce {α : Type} {d a m} {lane : Word32 → α} {f out} (h : s.Canonical) :
    Out.Canonical (s.reduce d a m lane f out) := h.vectorOp

theorem State.Canonical.execVredfadd {d a m} (h : s.Canonical) : Out.Canonical (execVredfadd d a m s) := h.reduce
theorem State.Canonical.execVredfmax {d a m} (h : s.Canonical) : Out.Canonical (execVredfmax d a m s) := h.reduce
theorem State.Canonical.execVredadd {d a m} (h : s.Canonical) : Out.Canonical (execVredadd d a m s) := h.reduce
theorem State.Canonical.execVredmax {d a m} (h : s.Canonical) : Out.Canonical (execVredmax d a m s) := h.reduce
theorem State.Canonical.execVperm {d a b m} (h : s.Canonical) : Out.Canonical (execVperm d a b m s) := h.vectorOp
theorem State.Canonical.execVbcast {d a m} (h : s.Canonical) : Out.Canonical (execVbcast d a m s) := h.vectorOp
theorem State.Canonical.execVextr {d a b} (h : s.Canonical) : Out.Canonical (execVextr d a b s) := h.vectorOp
theorem State.Canonical.execVins {d a b} (h : s.Canonical) : Out.Canonical (execVins d a b s) := h.vectorOp
theorem State.Canonical.execViota {d m} (h : s.Canonical) : Out.Canonical (execViota d m s) := h.vectorOp
theorem State.Canonical.execVsel {d a b m} (h : s.Canonical) : Out.Canonical (execVsel d a b m s) := h.vectorOp
theorem State.Canonical.execVmov {d a m} (h : s.Canonical) : Out.Canonical (execVmov d a m s) := h.lanes1
theorem State.Canonical.maskOp {d a b m f} (h : s.Canonical) : Out.Canonical (s.maskOp d a b m f) := h.vectorOp
theorem State.Canonical.execMand {d a b m} (h : s.Canonical) : Out.Canonical (execMand d a b m s) := h.maskOp
theorem State.Canonical.execMor {d a b m} (h : s.Canonical) : Out.Canonical (execMor d a b m s) := h.maskOp
theorem State.Canonical.execMnot {d a m} (h : s.Canonical) : Out.Canonical (execMnot d a m s) := h.maskOp
theorem State.Canonical.execMcnt {d a m} (h : s.Canonical) : Out.Canonical (execMcnt d a m s) := h.vectorOp
theorem State.Canonical.execMset {d a b} (h : s.Canonical) : Out.Canonical (execMset d a b s) := h.vectorOp

/-! ## Vector accesses -/

theorem State.Canonical.execVld {d b i m _h} (h : s.Canonical) : Out.Canonical (execVld d b i m _h s) := by
  refine h.issue (h.access (fun _ _ ht => ?_))
  split
  · exact ht.stall
  · next found => exact (ht.ringTake found).sendAccess.done

theorem State.Canonical.execVst {d b i m _h} (h : s.Canonical) : Out.Canonical (execVst d b i m _h s) := by
  refine h.issue (h.access (fun _ _ ht => ?_))
  split
  · exact ht.stall
  · next found => exact (ht.ringTake found).sendAccess.skip

theorem State.Canonical.locateLane {a va p t} (h : s.Canonical) (e : s.locateLane a va = .ok (p, t)) : t.Canonical := by
  unfold State.locateLane at e
  split at e
  · split at e
    · split at e <;> cases e
    · cases e
  · split at e
    · cases e
    · next found => cases e; exact h.locateBy found
    · cases e

theorem State.Canonical.locateLanes {a addr l} (h : s.Canonical) : (s.locateLanes a addr l).2.2.Canonical := by
  induction l generalizing s with
  | nil => exact h
  | cons i r ih =>
    unfold State.locateLanes
    split
    · exact .ite h.logError h
    · next found => exact ih (h.locateLane found)

theorem State.Canonical.putLanes {proto op addr l} (h : s.Canonical) : (s.putLanes proto op addr l).Canonical := by
  induction l generalizing s with
  | nil => exact h
  | cons e r ih => exact ih (.sendHome h)

theorem State.Canonical.sendLanes {seq a st op dst addr lanes fault} (h : s.Canonical) :
    (s.sendLanes seq a st op dst addr lanes fault).Canonical := by
  refine .setCtx (.putLanes ?_)
  split
  exacts [.ite h h.ringRetire, h.lateHere]

theorem State.Canonical.laneOp {need a st m op dst addr} (h : s.Canonical) :
    Out.Canonical (s.laneOp need a st m op dst addr) := by
  refine h.issue (h.irrevocably fun _ ht => .ite ht.waitGate (.ite ht.stall ?_))
  split
  · exact ht.stall
  · next found =>
    have hu := ht.ringTake found
    exact .ite hu.lateHere.skip (.ite ht.stall hu.locateLanes.sendLanes.skip)

theorem State.Canonical.execVlds {d a b m} (h : s.Canonical) : Out.Canonical (execVlds d a b m s) := h.laneOp
theorem State.Canonical.execVsts {d a b m} (h : s.Canonical) : Out.Canonical (execVsts d a b m s) := h.laneOp
theorem State.Canonical.execVgth {d a b m} (h : s.Canonical) : Out.Canonical (execVgth d a b m s) := h.laneOp
theorem State.Canonical.execVsct {d a b m} (h : s.Canonical) : Out.Canonical (execVsct d a b m s) := h.laneOp
theorem State.Canonical.vectorAtomic {d a b m op} (h : s.Canonical) : Out.Canonical (s.vectorAtomic d a b m op) := h.laneOp
theorem State.Canonical.execVamoor {d a b m} (h : s.Canonical) : Out.Canonical (execVamoor d a b m s) := h.vectorAtomic
theorem State.Canonical.execVamoadd {d a b m} (h : s.Canonical) : Out.Canonical (execVamoadd d a b m s) := h.vectorAtomic

/-! ## Every instruction and event -/

/-- Every instruction and every event keeps the form: one lemma for each arm of `exec`, in the arms' order. -/
theorem State.Canonical.exec {i} (h : s.Canonical) : Out.Canonical (exec i s) := by
  unfold Machine.exec
  split
  exacts [h.execAdd, h.execSub, h.execAnd, h.execOr, h.execXor, h.execShl, h.execShr, h.execSha, h.execMin, h.execMax,
    h.execMinu, h.execMaxu, h.execSeq, h.execSne, h.execSlt, h.execSltu, h.execMul, h.execMulh, h.execMulhu, h.execDiv,
    h.execDivu, h.execRem, h.execRemu, h.execSel, h.execClz, h.execPopc, h.execExtsB, h.execExtsH, h.execExtsW,
    h.execExtzB, h.execExtzH, h.execExtzW, h.execAddi, h.execAndi, h.execOri, h.execXori, h.execSlti, h.execSltiu,
    h.execShli, h.execShri, h.execShai, h.execLi, h.execLis, h.execRbacq, h.execRbacqt, h.execRbrel, h.execIxset,
    h.execIxadd, h.execLox, h.execMovox, h.execMovx, h.execMovxw, h.execBeq, h.execBne, h.execBlt, h.execBge, h.execBltu,
    h.execBgeu, h.execJ, h.execJl, h.execJr, h.execJlr, h.execRet, h.execLoop, h.execBoqw, h.execBoqb, h.execCtxres,
    h.execFadd, h.execFsub, h.execFmul, h.execFfma, h.execFdiv, h.execFsqrt, h.execFmin, h.execFmax, h.execFeq, h.execFlt,
    h.execFle, h.execFcvtws, h.execFcvtsw, h.execLdb, h.execLdbu, h.execLdh, h.execLdhu, h.execLdw, h.execLdwu, h.execLdd,
    h.execStb, h.execSth, h.execStw, h.execStd, h.execLda, h.execStl, h.execFence, h.execIflush, h.execCatl, h.execCats,
    h.execCati, h.execAmoadd, h.execAmoand, h.execAmoor, h.execAmoxor, h.execAmomin, h.execAmomax, h.execAmominu,
    h.execAmomaxu, h.execAmoswp, h.execAmofadd, h.execAmocas, h.execVamoor, h.execVamoadd, h.execWait, h.execPause,
    h.execSemup, h.execSemdn, h.execSemtry, h.execBarw, h.execBara, h.execQput, h.execQget, h.execSend, h.execSendv,
    h.execWlpush, h.execWlpop, h.execWlfloor, h.execTkarm, h.execTksig, h.execFrbegU, h.execFrbegO, h.execFrcom,
    h.execFrstat, h.execLvcnt, h.execCncl, h.execJob, h.execQbind, h.execBlkrd, h.execTtq, h.execOsclaim, h.execOsrel,
    h.execOsld, h.execMwld, h.execMmaF, h.execMmaI, h.execMmaRs, h.execMzero, h.execMdrainF, h.execMdrainIw,
    h.execMdrainIs, h.execMdrainRs, h.execWalk, h.execWalkn, h.execPdrst, h.execPdseal, h.execPdrd, h.execRefget,
    h.execRefchk, h.execTrap, h.execSvc, h.execEret, h.execCirrd, h.execZerosp, h.execSigchk, h.execCapreb, h.execSeal,
    h.execMonrd, h.execSrd, h.execSwr, h.execVfadd, h.execVfsub, h.execVfmul, h.execVfma, h.execVfms, h.execVfdiv,
    h.execVfsqrt, h.execVfmin, h.execVfmax, h.execVfabs, h.execVfneg, h.execVfexps, h.execVffloor, h.execVfcmpEq,
    h.execVfcmpLt, h.execVfcmpLe, h.execVfcmpUn, h.execVadd, h.execVadds, h.execVsub, h.execVsubs, h.execVmul,
    h.execVmulh, h.execVmulhu, h.execVand, h.execVor, h.execVxor, h.execVshl, h.execVshr, h.execVsha, h.execVmin,
    h.execVmax, h.execVminu, h.execVmaxu, h.execVcmpEq, h.execVcmpLt, h.execVcmpLtu, h.execVcvt, h.execVpk6, h.execVupk6,
    h.execVrfwd, h.execVrrev, h.execVredfadd, h.execVredfmax, h.execVredadd, h.execVredmax, h.execVperm, h.execVbcast,
    h.execVextr, h.execVins, h.execViota, h.execVsel, h.execVmov, h.execMand, h.execMor, h.execMnot, h.execMcnt,
    h.execMset, h.execVld, h.execVst, h.execVlds, h.execVsts, h.execVgth, h.execVsct, h.execCMov, h.execCAdd, h.execCSub,
    h.execCAnd, h.execCAddi, h.execCLi, h.execCShli, h.execCLdw, h.execCStw, h.execCBz, h.execCBnz, h.execCJ,
    h.execCPause, h.execPad, h.execAlign, h.execHret, h.execFrabt, h.execDrdone, h.execHalt, h.execBkpt, h.execCHint,
    h.execCRet, h.execCHret, h.execXsdCtlWrite, h.execDlLeftWrite, h.execShootdownAck, h.execJqTailWrite,
    h.execJqBaseWrite, h.execJqSizeWrite, h.execRegisterWrite, h.execJobDescriptorTake, h.execJobCompletion,
    h.execLaunchAdmission, h.execLaunchPlacement, h.execMessageDelivery, h.execHeldMessageAdmit, h.execMessageDispatch,
    h.execTaskDispatch, h.execStealRequest, h.execStealAnswer, h.execPackageSteal, h.execDequeRefill, h.execTksigResponse,
    h.execFloorUpdate, h.execFloorExchange, h.execDrainDispatch, h.execTileTaskIssue, h.execEngineJobStart,
    h.execEngineJobComplete, h.execBlkrdPartReturn, h.execOsldComplete, h.execMatrixPerform, h.execAccessPerformed,
    h.execLoadResponse, h.execStoreAck, h.execPageWalkComplete, h.execClosureRecompute, h.execCommitMerge,
    h.execLateFault, h.execFolioWrite, h.execPauseEnd, h.execAlignTimeout, h.execIdleSample, h.execDeadlineExpiry,
    h.execCancelGraceExpiry, h.execMachineCheck, h.execTileMigration, h.execMigrationMarker, h.execForwardingRetire,
    h.execAbsentContext, h.execLaunchReturn, h.execClearRoutine, h.execCapsuleInstall, h.execCapsuleRetire,
    h.execCapsuleExport, h.execBodyVoid, h.execRebuildComplete, h.execLivePatch, h.execSealedRegionRetire,
    h.execAuditLogConsume, h.execSpdmReqLenWrite, h.execSpdmRspLenWrite, h.execSpdmGetVersion, h.execSpdmGetCapabilities,
    h.execSpdmNegotiateAlgorithms, h.execSpdmGetDigests, h.execSpdmGetCertificate, h.execSpdmChallenge,
    h.execSpdmGetMeasurements, h.execSpdmKeyExchange, h.execSpdmFinish, h.execSpdmEndSession,
    h.execSpdmUnsupportedRequest, h.execPtReqTailWrite, h.execPtRspHeadWrite, h.execPtRegisterRead, h.execPtRegisterWrite,
    h.execPtMemoryWrite, h.execPtMemoryRead, h.execPtRekey, h.execRekeyAck, h.execPowerCapWrite, h.execDormantRequest,
    h.execDormantForce, h.execWake, h.execIdleClockGate, h.execThermalLimit, h.execBoot, h.execBootRetry,
    h.execFabricFlitReceive, h.execLinkRetrained, h.execLinkDown, h.execMonitorSample, h.execRrAttach, h.execRrBreak,
    h.execRrDelete, h.execRrContinue, h.execRrStop, h.execRrRegs, h.execRrMem, h.execRrFolio, h.execRrRing, h.execRrWl,
    h.execRrRegion, h.execRrQuit, h.execRrDisconnect, h.execInstructionLineFill, h.execBodyVoidLive,
    h.execPackageStealAnswer]

end Sys2Proof.Machine
end

section
/-!
SUPPORT. The canonical form: what the hardware does of itself, and one step.
-/

namespace Sys2Proof.Machine

variable {s : State}

/-! ## The hardware -/

theorem State.Canonical.tick {n} (h : s.Canonical) : (s.tick n).Canonical := h
theorem State.Canonical.setWord {w} (h : s.Canonical) : (s.setWord w).Canonical := h.setCtx.setCore

theorem State.Canonical.runCur (h : s.Canonical) : Out.Canonical s.runCur := by
  unfold State.runCur
  split
  · next found => exact (h.fetchBytes.of_snd found).setWord.trapAt
  · next found =>
    split
    exacts [(h.fetchBytes.of_snd found).setWord.trapAt, (h.fetchBytes.of_snd found).setWord.exec]

theorem State.Canonical.drainStop {k} (h : s.Canonical) : (s.drainStop k).Canonical := h.stopCtx.setCtx.writeFolio

theorem State.Canonical.turn (h : s.Canonical) : Out.Canonical s.turn := by
  unfold State.turn
  dsimp only
  split
  exacts [h.execDeadlineExpiry, .ite h.lateStop (.ite h.drainStop (.ite h.holdCtx h.runCur))]

/-- Every step of a list keeps the form. -/
def KeepCanonical (l : List (State → Out)) : Prop := ∀ f ∈ l, ∀ t : State, t.Canonical → Out.Canonical (f t)

theorem KeepCanonical.nil : KeepCanonical [] := fun _ hf => absurd hf List.not_mem_nil

theorem KeepCanonical.cons {f l} (hf : ∀ t : State, t.Canonical → Out.Canonical (f t)) (hl : KeepCanonical l) :
    KeepCanonical (f :: l) :=
  List.forall_mem_cons.2 ⟨hf, hl⟩

theorem KeepCanonical.append {l m} (hl : KeepCanonical l) (hm : KeepCanonical m) : KeepCanonical (l ++ m) :=
  List.forall_mem_append.2 ⟨hl, hm⟩

theorem KeepCanonical.map {α : Type} {l : List α} {f : α → State → Out} (hf : ∀ x t, t.Canonical → Out.Canonical (f x t)) :
    KeepCanonical (l.map f) :=
  List.forall_mem_map.2 fun x _ => hf x

theorem KeepCanonical.flatMap {α : Type} {l : List α} {f : α → List (State → Out)} (hf : ∀ x, KeepCanonical (f x)) :
    KeepCanonical (l.flatMap f) := by
  intro g hg
  obtain ⟨x, -, hx⟩ := List.mem_flatMap.1 hg
  exact hf x g hx

theorem KeepCanonical.rotate {l n} (hl : KeepCanonical l) : KeepCanonical (rotate n l) :=
  .append (fun f hf => hl f (List.mem_of_mem_drop hf)) (fun f hf => hl f (List.mem_of_mem_take hf))

theorem State.keepCanonical_accessSteps : KeepCanonical s.accessSteps :=
  .append (.append (.append (.append (.append (.map fun _ _ h => h.execAccessPerformed) (.map fun _ _ h => h.execLoadResponse))
    (.map fun _ _ h => h.execStoreAck)) (.map fun _ _ h => h.execTksigResponse))
    (.flatMap fun _ => .map fun _ _ h => h.execAccessPerformed)) (.flatMap fun _ => .map fun _ _ h => h.execBlkrdPartReturn)

theorem State.keepCanonical_engineSteps : KeepCanonical s.engineSteps :=
  .append (.append (.map fun _ _ h => h.execOsldComplete) (.map fun _ _ h => h.execMatrixPerform))
    (.flatMap fun _ => .append (.append (.map fun _ _ h => h.execEngineJobStart) (.map fun _ _ h => h.execEngineJobComplete))
      (.cons (fun _ h => h.execTileTaskIssue) .nil))

theorem State.keepCanonical_messageSteps : KeepCanonical s.messageSteps :=
  .append (.map fun _ _ h => h.execMessageDelivery) (.map fun _ _ h => h.execHeldMessageAdmit)

theorem State.keepCanonical_trapSteps : KeepCanonical s.trapSteps :=
  .append (.append (.append (.map fun _ _ h => h.execLateFault) (.map fun _ _ h => h.execFolioWrite)) (.map fun _ _ h => h.serveSvc))
    (.map fun _ _ h => h.finishCheck)

theorem State.keepCanonical_regionSteps : KeepCanonical s.regionSteps :=
  .append (.flatMap fun _ => .map fun _ _ h => h.execCommitMerge) (.cons (fun _ h => h.execClosureRecompute) .nil)

theorem State.keepCanonical_dispatchSteps : KeepCanonical s.dispatchSteps :=
  .append (.append (.append (.append (.append (.append (.map fun _ _ h => h.execMessageDispatch) (.map fun _ _ h => h.execDrainDispatch))
    (.map fun _ _ h => h.execTaskDispatch)) (.map fun _ _ h => h.execDequeRefill)) (.map fun _ _ h => h.execPauseEnd))
    (.map fun _ _ h => h.execAlignTimeout)) (.map fun _ _ h => h.execFloorUpdate)

theorem State.keepCanonical_stewardSteps : KeepCanonical s.stewardSteps := by
  refine .append (.append (.append (.append (.append (.append (.append (.append (.append ?_ ?_) ?_) ?_) ?_) ?_) ?_) ?_) ?_) ?_
  · exact .cons (fun _ h => h.linkServe) (.cons (fun _ h => h.execJobDescriptorTake) .nil)
  · exact .flatMap fun _ => .cons (fun _ h => h.execLaunchAdmission) (.cons (fun _ h => h.execLaunchPlacement)
      (.cons (fun _ h => h.execIdleSample) (.cons (fun _ h => h.execCancelGraceExpiry) (.cons (fun _ h => h.execClearRoutine)
        (.cons (fun _ h => h.execAbsentContext) .nil)))))
  · exact .flatMap fun _ => .cons (fun _ h => h.execDeadlineExpiry) (.cons (fun _ h => h.execJobCompletion) .nil)
  · exact .flatMap fun _ => .cons (fun _ h => h.execIdleClockGate) (.cons (fun _ h => h.execForwardingRetire) .nil)
  · exact .cons (fun _ h => h.fallAsleep) .nil
  · exact .map fun _ _ h => h.execTileMigration
  · exact .flatMap fun _ => .map fun _ _ h => h.execMigrationMarker
  · exact .map fun _ _ h => h.execBodyVoidLive
  · exact .map fun _ _ h => h.execShootdownAck
  · exact .map fun _ _ h => State.Canonical.ite h.drainWhere h

theorem State.Canonical.firstChange {l t} (h : s.Canonical) (hl : KeepCanonical l) (e : s.firstChange l = some t) : t.Canonical := by
  induction l with
  | nil => cases e
  | cons f r ih =>
    obtain ⟨hf, hr⟩ := List.forall_mem_cons.1 hl
    have ih := ih hr
    have hf := hf s h
    unfold State.firstChange at e
    split at e
    · next u next =>
      rw [next] at hf
      split at e
      · exact ih e
      · cases e; exact hf
    · exact ih e
    · exact ih e

theorem State.Canonical.hardware {t} (h : s.Canonical) (e : s.hardware = some t) : t.Canonical := by
  obtain ⟨u, changed, rfl⟩ := Option.map_eq_some_iff.1 e
  have hu : u.Canonical := by
    refine State.Canonical.firstChange h ?_ changed
    intro f hf
    obtain ⟨l, hl, hfl⟩ := List.mem_flatMap.1 hf
    refine KeepCanonical.rotate (l := l) ?_ f hfl
    have kinds : ∀ l ∈ [s.accessSteps, s.engineSteps, s.messageSteps, s.trapSteps, s.regionSteps, s.dispatchSteps, s.stewardSteps],
        KeepCanonical l := by
      simp only [List.forall_mem_cons, List.not_mem_nil, false_imp_iff, implies_true, and_true]
      exact ⟨s.keepCanonical_accessSteps, s.keepCanonical_engineSteps, s.keepCanonical_messageSteps, s.keepCanonical_trapSteps,
        s.keepCanonical_regionSteps, s.keepCanonical_dispatchSteps, s.keepCanonical_stewardSteps⟩
    rcases List.mem_append.1 hl with hl | hl
    · exact kinds l (List.mem_of_mem_drop hl)
    · exact kinds l (List.mem_of_mem_take hl)
  exact hu

theorem State.Canonical.freeStep (h : s.Canonical) : Out.Canonical s.freeStep := by
  refine .ite (State.Canonical.turn h) ?_
  have ht : (s.hardware.getD s).Canonical := by
    cases found : s.hardware with
    | none => exact h
    | some t => exact h.hardware found
  exact ht

theorem State.Canonical.input {a} (h : s.Canonical) : (s.input a).Canonical := by
  unfold State.input
  split
  · exact h.linkRequest
  · exact h.stewardEvent
  · exact h.remoteAck
  · exact h.upset
  · exact h.folioError
  · exact h.fetchImage
  · exact h
  · exact h.newKey
  · exact h.channelPacket
  · exact h.releaseLogKey
  · exact h.movePage
  · exact h

theorem State.Canonical.move {m} (h : s.Canonical) : Out.Canonical (s.move m) := by
  unfold State.move
  split
  exacts [.ite h h.exec, .ite (State.Canonical.turn h) h, h.tick, h.serveSvc, h.input]

theorem State.Canonical.stepOnce (h : s.Canonical) : Out.Canonical s.stepOnce := by
  refine .ite h ?_
  split
  exacts [State.Canonical.move h, State.Canonical.freeStep h]

end Sys2Proof.Machine
end

section
/-!
The statement on memory's canonical form.
-/

namespace Sys2Proof

open Machine

/-- Settles O60: whatever a step does to memory goes through operations that keep the form, so every function of the step keeps it. -/
theorem memoryCanonicalKept : Obligations.MemoryCanonicalKept := by
  intro s t h next
  have kept : Out.Canonical s.stepOnce := State.Canonical.stepOnce h
  rw [show s.stepOnce = .next t from next] at kept
  exact kept

end Sys2Proof
end

section
/-!
SUPPORT. What stands while programs run and launches come and go: the power state, the sessions, the sealed regions, the late faults
that have not come and the tiles that are out of service, function by
function in the order of the model's files (R198, R210, R212).
-/

namespace Sys2Proof.Machine

/-- What stands while programs run: the power state, the sessions and their channels, and the sealed regions (R198, R210, R212). -/
structure Standing where
  powerCtl : Nat
  dormant : Bool
  mailbox : SpdmState
  ethernet : Tbl SpdmState
  transfer : KeySlots
  debug : Tbl KeySlots
  steward : KeySlots
  sealed : List SealedRegion
  sessions : Tbl Session

def State.standing (s : State) : Standing where
  powerCtl := s.host.powerCtl
  dormant := s.vault.dormant
  mailbox := s.vault.mailbox
  ethernet := s.vault.ethernet
  transfer := s.vault.transfer
  debug := s.vault.debug
  steward := s.vault.steward
  sealed := s.vault.sealed
  sessions := s.readroom.sessions

/-- A state stands as an earlier one did: its standing is the same, no late fault has come, and no tile has entered service. -/
def State.StandsAs (s init : State) : Prop :=
  s.standing = init.standing ∧ s.lates.map (·.id) ⊆ init.lates.map (·.id) ∧
    ∀ u, (s.tile u).inService = true → (init.tile u).inService = true

theorem State.StandsAs.refl (s : State) : s.StandsAs s := ⟨rfl, List.Subset.refl _, fun _ h => h⟩

theorem State.StandsAs.ite {c : Prop} [Decidable c] {s t init : State} (hs : s.StandsAs init) (ht : t.StandsAs init) :
    (if c then s else t).StandsAs init := by
  split <;> assumption

theorem State.StandsAs.foldl {α : Type} {f : State → α → State} {l : List α} {s init : State} (h : s.StandsAs init)
    (hf : ∀ t x, State.StandsAs t init → State.StandsAs (f t x) init) : (l.foldl f s).StandsAs init :=
  List.foldlRecOn (motive := fun t => State.StandsAs t init) l f h fun t ht x _ => hf t x ht

variable {s init : State}

theorem State.StandsAs.with_lineKey {x} (h : s.StandsAs init) : ({ s with lineKey := x } : State).StandsAs init := h

theorem State.StandsAs.fewerLates {p} (h : s.StandsAs init) : ({ s with lates := s.lates.filter p } : State).StandsAs init :=
  ⟨h.1, List.Subset.trans (List.filter_sublist.map _).subset h.2.1, h.2.2⟩

theorem State.StandsAs.setCtx {k c} (h : s.StandsAs init) : (s.setCtx k c).StandsAs init := h
theorem State.StandsAs.setCore {a c} (h : s.StandsAs init) : (s.setCore a c).StandsAs init := h

theorem State.StandsAs.setTile {u x} (h : s.StandsAs init) (hx : x.inService = true → (s.tile u).inService = true) :
    (s.setTile u x).StandsAs init := by
  refine ⟨h.1, h.2.1, fun v hv => h.2.2 v ?_⟩
  by_cases same : v = u
  · subst same
    exact hx (by rwa [State.tile_setTile] at hv)
  · rwa [State.tile_setTile_other s x same] at hv

theorem State.StandsAs.setCluster {n c} (h : s.StandsAs init) : (s.setCluster n c).StandsAs init := h
theorem State.StandsAs.setLaunch {l x} (h : s.StandsAs init) : (s.setLaunch l x).StandsAs init := h
theorem State.StandsAs.setJob {j x} (h : s.StandsAs init) : (s.setJob j x).StandsAs init := h
theorem State.StandsAs.fresh (h : s.StandsAs init) : s.fresh.StandsAs init := h
theorem State.StandsAs.raiseMsix {n} (h : s.StandsAs init) : (s.raiseMsix n).StandsAs init := h

theorem State.StandsAs.logError {uncorrectable} (h : s.StandsAs init) : (s.logError uncorrectable).StandsAs init :=
  .ite (.raiseMsix h) (.raiseMsix h)

theorem State.StandsAs.pokeByte {key x bad} (h : s.StandsAs init) : (s.pokeByte key x bad).StandsAs init := h

theorem State.StandsAs.rekeyLine {kid line} (h : s.StandsAs init) : (s.rekeyLine kid line).StandsAs init := by
  unfold State.rekeyLine
  split
  exacts [h, .with_lineKey (.foldl h fun _ _ ht => ht)]

theorem State.StandsAs.writeByte {kid key b bad} (h : s.StandsAs init) : (s.writeByte kid key b bad).StandsAs init :=
  h.rekeyLine.pokeByte

theorem State.StandsAs.writeBytes {kid key bad l} (h : s.StandsAs init) : (s.writeBytes kid key bad l).StandsAs init := by
  induction l generalizing s with
  | nil => exact h
  | cons p r ih => exact ih h.writeByte

theorem State.StandsAs.writeList {kid key bad bs} (h : s.StandsAs init) : (s.writeList kid key bad bs).StandsAs init := h.writeBytes
theorem State.StandsAs.writeDword {key x} (h : s.StandsAs init) : (s.writeDword key x).StandsAs init := h.writeList
theorem State.StandsAs.zeroRange {lo hi} (h : s.StandsAs init) : (s.zeroRange lo hi).StandsAs init := h
theorem State.StandsAs.tlbFill {u core e} (h : s.StandsAs init) : (s.tlbFill u core e).StandsAs init := h.setCore.setCluster

theorem State.StandsAs.translate {u core root launch va leaf t} (h : s.StandsAs init)
    (e : s.translate u core root launch va = some (leaf, t)) : t.StandsAs init := by
  unfold State.translate at e
  split at e
  · cases e; exact h
  · split at e
    · cases e
    · cases e; exact h.tlbFill

theorem State.StandsAs.globalPart {u k a va off len p t} (h : s.StandsAs init)
    (e : s.globalPart u k a va off len = .ok (p, t)) : t.StandsAs init := by
  unfold State.globalPart at e
  split at e
  · split at e
    · cases e; exact h
    · cases e
  · split at e
    · cases e
    · split at e
      · cases e
      · split at e
        · cases e
        · next found =>
          split at e
          · cases e
          · cases e; exact h.translate found

theorem State.StandsAs.globalParts {u k a va l ps t} (h : s.StandsAs init)
    (e : s.globalParts u k a va l = .ok (ps, t)) : t.StandsAs init := by
  induction l generalizing s ps with
  | nil => cases e; exact h
  | cons b r ih =>
    simp only [State.globalParts] at e
    split at e
    · cases e
    · next first =>
      split at e
      · cases e
      · next rest => cases e; exact ih (h.globalPart first) rest

theorem State.StandsAs.locateBy {u k a addr n ps t} (h : s.StandsAs init)
    (e : s.locateBy u k a addr n = .ok (ps, t)) : t.StandsAs init := by
  unfold State.locateBy at e
  dsimp only at e
  split at e
  · cases e
  · split at e
    · split at e
      · cases e
      · exact h.globalParts e
    · split at e
      · cases e
      · split at e
        · cases e; exact h
        · cases e

theorem State.StandsAs.locate {k a addr n ps t} (h : s.StandsAs init) (e : s.locate k a addr n = .ok (ps, t)) : t.StandsAs init :=
  h.locateBy e

theorem State.StandsAs.changeMonitors {cluster tag source f} (h : s.StandsAs init) :
    (s.changeMonitors cluster tag source f).StandsAs init :=
  .ite h.setCluster h

theorem State.StandsAs.sampleAt {k source value} (h : s.StandsAs init) : (s.sampleAt k source value).StandsAs init := h.changeMonitors

theorem State.StandsAs.countLaunch {tag source} (h : s.StandsAs init) : (s.countLaunch tag source).StandsAs init := by
  unfold State.countLaunch
  split
  exacts [h.setLaunch, h]

theorem State.StandsAs.countAt {k source} (h : s.StandsAs init) : (s.countAt k source).StandsAs init := h.changeMonitors.countLaunch

theorem State.StandsAs.countEach {source ks} (h : s.StandsAs init) : (s.countEach source ks).StandsAs init :=
  h.foldl fun _ _ ht => ht.countAt

theorem State.StandsAs.lower {k act ld st} (h : s.StandsAs init) : (s.lower k act ld st).StandsAs init := .ite h.setCtx h
theorem State.StandsAs.lowerCp {k act} (h : s.StandsAs init) : (s.lowerCp k act).StandsAs init := .ite h.setCtx h
theorem State.StandsAs.lowerTl {k act} (h : s.StandsAs init) : (s.lowerTl k act).StandsAs init := .ite h.setCtx h
theorem State.StandsAs.ringRetire {core seq} (h : s.StandsAs init) : (s.ringRetire core seq).StandsAs init := .ite h.setCore h

theorem State.StandsAs.finishTxn {t} (h : s.StandsAs init) : (s.finishTxn t).StandsAs init := by
  refine .ite h ?_
  split
  exacts [.ringRetire (.lower h), .lower h]

theorem State.StandsAs.dropTxns {l} (h : s.StandsAs init) : (s.dropTxns l).StandsAs init := by
  induction l generalizing s with
  | nil => exact h
  | cons t r ih => exact ih h.finishTxn

theorem State.StandsAs.unwait {k} (h : s.StandsAs init) : (s.unwait k).StandsAs init := .setCore (.setTile h id)

theorem State.StandsAs.restart {k} (h : s.StandsAs init) : (s.restart k).StandsAs init := by
  unfold State.restart
  dsimp only
  split
  exacts [h, h.unwait.dropTxns.setCtx]

theorem State.StandsAs.restartAll {l} (h : s.StandsAs init) : (s.restartAll l).StandsAs init := by
  induction l generalizing s with
  | nil => exact h
  | cons k r ih => exact ih h.restart

theorem State.StandsAs.abortSlots {m} (h : s.StandsAs init) : (s.abortSlots m).StandsAs init := .restartAll h.countEach
theorem State.StandsAs.mergeVersion {v} (h : s.StandsAs init) : (s.mergeVersion v).StandsAs init := h.writeBytes

theorem State.StandsAs.mergeVersions {l} (h : s.StandsAs init) : (s.mergeVersions l).StandsAs init := by
  induction l generalizing s with
  | nil => exact h
  | cons v r ih => exact ih h.mergeVersion

theorem State.StandsAs.commitSlot {n} (h : s.StandsAs init) : (s.commitSlot n).StandsAs init := h.mergeVersions.sampleAt

theorem State.StandsAs.endRegion {k} (h : s.StandsAs init) : (s.endRegion k).StandsAs init := by
  unfold State.endRegion
  split
  · exact h
  · split
    exacts [h.commitSlot.setCtx, h.commitSlot.setCtx, h.abortSlots]

theorem State.StandsAs.eventAt {unit} (h : s.StandsAs init) : (s.eventAt unit).StandsAs init := h.setCore
theorem State.StandsAs.launchEvent {tag} (h : s.StandsAs init) : (s.launchEvent tag).StandsAs init := h.eventAt

theorem State.StandsAs.post {ctx act dest tag words cp} (h : s.StandsAs init) : (s.post ctx act dest tag words cp).StandsAs init :=
  h.fresh

theorem State.StandsAs.freeDrain {k} (h : s.StandsAs init) : (s.freeDrain k).StandsAs init := by
  unfold State.freeDrain
  split
  · split
    exacts [.setCtx (.setTile h id), h]
  · exact h

theorem State.StandsAs.leaveAlign {k} (h : s.StandsAs init) : (s.leaveAlign k).StandsAs init := h
theorem State.StandsAs.rest {k} (h : s.StandsAs init) : (s.rest k).StandsAs init := h.unwait.freeDrain.leaveAlign.setCtx.setCore

theorem State.StandsAs.restAll {l} (h : s.StandsAs init) : (s.restAll l).StandsAs init := by
  induction l generalizing s with
  | nil => exact h
  | cons k r ih => exact ih h.endRegion.rest

theorem State.StandsAs.abortReaders {home key n} (h : s.StandsAs init) : (s.abortReaders home key n).StandsAs init :=
  .ite h h.abortSlots

theorem State.StandsAs.clearResumable {k} (h : s.StandsAs init) : (s.clearResumable k).StandsAs init := by
  unfold State.clearResumable
  split
  · exact h
  · dsimp only
    split
    · exact h.setCtx
    · split
      · exact h.setCtx
      · split
        exacts [h.setCtx, .ite h h.setCtx.abortReaders.writeList]

theorem State.StandsAs.clearAllResumable {l} (h : s.StandsAs init) : (s.clearAllResumable l).StandsAs init := by
  induction l generalizing s with
  | nil => exact h
  | cons k r ih => exact ih h.clearResumable

theorem State.StandsAs.discardAll {l} (h : s.StandsAs init) : (s.discardAll l).StandsAs init := by
  induction l generalizing s with
  | nil => exact h
  | cons a r ih => exact ih h.setCore

theorem State.StandsAs.forgetJob {j} (h : s.StandsAs init) : (s.forgetJob j).StandsAs init := .ite h.lowerTl h.lowerCp

theorem State.StandsAs.discardSubmitted {tag} (h : s.StandsAs init) : (s.discardSubmitted tag).StandsAs init :=
  .foldl h fun _ _ ht => ht.forgetJob

theorem State.StandsAs.discardJobs {tag l} (h : s.StandsAs init) : (s.discardJobs tag l).StandsAs init := by
  induction l generalizing s with
  | nil => exact h
  | cons e r ih => exact ih (h.setCluster.foldl fun _ _ ht => ht.forgetJob)

theorem State.StandsAs.putAnswer {a} (h : s.StandsAs init) : (s.putAnswer a).StandsAs init := h
theorem State.StandsAs.answerTo {client key xs} (h : s.StandsAs init) : (s.answerTo client key xs).StandsAs init := h.putAnswer

theorem State.StandsAs.endNotice {tag job status} (h : s.StandsAs init) : (s.endNotice tag job status).StandsAs init := by
  unfold State.endNotice
  split
  exacts [h.answerTo, h]

theorem State.StandsAs.sweepBodies (h : s.StandsAs init) : s.sweepBodies.StandsAs init := h

theorem State.StandsAs.cancelLaunch {tag level by_} (h : s.StandsAs init) : (s.cancelLaunch tag level by_).StandsAs init := by
  unfold State.cancelLaunch
  split
  · exact h
  · split
    · exact h.setLaunch.sweepBodies.endNotice
    · exact h.setLaunch.sweepBodies.endNotice
    · exact h.setLaunch.sweepBodies.endNotice
    · exact h.setLaunch.clearAllResumable.discardAll.discardSubmitted.discardJobs
    · exact h.setLaunch.clearAllResumable.discardAll.discardSubmitted.discardJobs
    · exact h
    · exact h

theorem State.StandsAs.cancelLaunches {level by_ l} (h : s.StandsAs init) : (s.cancelLaunches level by_ l).StandsAs init := by
  induction l generalizing s with
  | nil => exact h
  | cons t r ih => exact ih h.cancelLaunch

theorem State.StandsAs.endLaunch {tag status reason} (h : s.StandsAs init) : (s.endLaunch tag status reason).StandsAs init := by
  unfold State.endLaunch
  split
  · exact h
  · next l _ =>
    have stopped : ((((s.clearAllResumable l.ctxKeys).restAll l.ctxKeys).discardAll l.agents).discardSubmitted tag).StandsAs init :=
      h.clearAllResumable.restAll.discardAll.discardSubmitted
    have stopped := stopped.fewerLates (p := fun b => b.launch != tag)
    refine .ite h (.ite (.endNotice (.sweepBodies stopped)) ?_)
    split
    · exact .endNotice (.sweepBodies stopped)
    · exact .cancelLaunches (.setJob (.endNotice (.sweepBodies stopped)))

theorem State.StandsAs.trapMessage {tag cls source unit payload} (h : s.StandsAs init) :
    (s.trapMessage tag cls source unit payload).StandsAs init := by
  unfold State.trapMessage
  split
  · exact h
  · refine .ite h ?_
    split
    exacts [.ite h h.endLaunch, h.post]

theorem State.StandsAs.storeParts {k va bad bs l} (h : s.StandsAs init) : (s.storeParts k va bad bs l).StandsAs init := by
  induction l generalizing s with
  | nil => exact h
  | cons p r ih => exact ih (.ite h.fresh h.abortReaders.writeList)

theorem State.StandsAs.storeVa {k va bad bs t} (h : s.StandsAs init) (e : s.storeVa k va bad bs = .ok t) : t.StandsAs init := by
  unfold State.storeVa at e
  split at e
  · cases e
  · next found => cases e; exact (h.locate found).storeParts

theorem State.StandsAs.lateClass {k tag w9 w11} (h : s.StandsAs init) : (s.lateClass k tag w9 w11).StandsAs init := h.trapMessage
theorem State.StandsAs.noteError {f} (h : s.StandsAs init) : (s.noteError f).StandsAs init := .ite h.logError h

theorem State.StandsAs.tcbState {k tcb n} (h : s.StandsAs init) : (s.tcbState k tcb n).StandsAs init := by
  unfold State.tcbState
  split
  · next found => exact h.storeVa found
  · exact h.noteError.lateClass

theorem State.StandsAs.stopCtx {k st} (h : s.StandsAs init) : (s.stopCtx k st).StandsAs init := by
  refine .ite ?_ ?_
  · split
    · exact h.unwait.setCtx
    · dsimp only
      split
      exacts [h.unwait.setCtx, h.unwait.setCtx, h.unwait.setCtx.abortSlots.setCtx]
  · split
    · split
      · refine .tcbState ?_
        split
        · exact h.unwait.setCtx
        · dsimp only
          split
          exacts [h.unwait.setCtx, h.unwait.setCtx, h.unwait.setCtx.abortSlots.setCtx]
      · split
        · exact h.unwait.setCtx
        · dsimp only
          split
          exacts [h.unwait.setCtx, h.unwait.setCtx, h.unwait.setCtx.abortSlots.setCtx]
    · split
      · exact h.unwait.setCtx
      · dsimp only
        split
        exacts [h.unwait.setCtx, h.unwait.setCtx, h.unwait.setCtx.abortSlots.setCtx]

theorem State.StandsAs.resume {k c pc} (h : s.StandsAs init) : (s.resume k c pc).StandsAs init := by
  unfold State.resume
  dsimp only
  split
  · split
    exacts [h.setCtx.tcbState, h.setCtx]
  · exact h.setCtx

theorem State.StandsAs.finishCheck {u} (h : s.StandsAs init) : (s.finishCheck u).StandsAs init := by
  have ht : (s.setTile u { s.tile u with checking := false }).StandsAs init := .setTile h id
  refine .ite h ?_
  split
  exacts [ht.endLaunch, ht]

theorem State.StandsAs.haltCtxs {cause l} (h : s.StandsAs init) : (s.haltCtxs cause l).StandsAs init := by
  induction l generalizing s with
  | nil => exact h
  | cons k r ih => exact ih (.ite h h.stopCtx)

theorem State.StandsAs.quarantine {u} (h : s.StandsAs init) : (s.quarantine u).StandsAs init :=
  .raiseMsix (.setTile h fun never => absurd never Bool.false_ne_true)

theorem State.StandsAs.machineCheck {u} (h : s.StandsAs init) : (s.machineCheck u).StandsAs init := by
  have out : (((s.logError true).haltCtxs 0x15 (tileCtxs u)).quarantine u).StandsAs init := h.logError.haltCtxs.quarantine
  unfold State.machineCheck
  generalize ((s.logError true).haltCtxs 0x15 (tileCtxs u)).quarantine u = t at out ⊢
  exact .ite h (.finishCheck (.launchEvent (.setTile out id)))

theorem State.StandsAs.allocPage (h : s.StandsAs init) : s.allocPage.2.StandsAs init := by
  unfold State.allocPage
  split <;> exact h

theorem State.StandsAs.setLeafFrom {va e last n level table} (h : s.StandsAs init) :
    (s.setLeafFrom va e last n level table).StandsAs init := by
  induction n generalizing s level table with
  | zero => exact h
  | succ n ih => exact .ite h.writeDword (.ite (.ite (ih h) h) (ih h.allocPage.writeDword))

theorem State.StandsAs.setLeaf {root va e} (h : s.StandsAs init) : (s.setLeaf root va e).StandsAs init := h.setLeafFrom
theorem State.StandsAs.mapPage {root va pa bits} (h : s.StandsAs init) : (s.mapPage root va pa bits).StandsAs init := h.setLeaf
theorem State.StandsAs.dropTranslations {gone} (h : s.StandsAs init) : (s.dropTranslations gone).StandsAs init := h

theorem State.StandsAs.moveTile {src dst} (h : s.StandsAs init) : (s.moveTile src dst).StandsAs init := by
  have renamed : (s.renamed ⟨src, dst⟩).StandsAs init := by
    refine ⟨h.1, ?_, h.2.2⟩
    have ids : (s.renamed ⟨src, dst⟩).lates.map (·.id) = s.lates.map (·.id) := by
      simp [State.renamed, Function.comp_def]
    exact ids ▸ h.2.1
  refine .setTile (.setTile renamed id) fun serves => ?_
  by_cases same : src = dst
  · subst same
    rw [State.tile_setTile]
    exact serves
  · rw [State.tile_setTile_other _ _ same]
    exact serves

theorem State.StandsAs.moveBytes {lo n to_} (h : s.StandsAs init) : (s.moveBytes lo n to_).StandsAs init := h

theorem State.StandsAs.parkTiles {tag i l} (h : s.StandsAs init) : (s.parkTiles tag i l).StandsAs init := by
  induction l generalizing s i with
  | nil => exact h
  | cons u r ih => exact ih h.moveTile

theorem State.StandsAs.makeAbsent {tag} (h : s.StandsAs init) : (s.makeAbsent tag).StandsAs init := by
  unfold State.makeAbsent
  split
  exacts [h, .ite h (.setLaunch (h.parkTiles.foldl fun _ _ ht => ht.moveBytes))]

theorem State.StandsAs.clearTile {u} (h : s.StandsAs init) : (s.clearTile u).StandsAs init := .setTile h id
theorem State.StandsAs.emptyKeys {l} (h : s.StandsAs init) : (s.emptyKeys l).StandsAs init := h
theorem State.StandsAs.putReceipt {tenant bs} (h : s.StandsAs init) : (s.putReceipt tenant bs).StandsAs init := .ite h (.writeList h)

theorem State.StandsAs.clearLaunch {tag} (h : s.StandsAs init) : (s.clearLaunch tag).StandsAs init := by
  unfold State.clearLaunch
  split
  · exact h
  · refine .ite h (.setLaunch (.putReceipt (.dropTranslations (.emptyKeys (.foldl (.foldl (.foldl h.dropTxns ?_) ?_) ?_)))))
    exacts [fun _ _ ht => ht.clearTile, fun _ _ ht => ht.zeroRange, fun _ _ ht => ht.machineCheck]

theorem State.StandsAs.sleepLaunch {tag} (h : s.StandsAs init) : (s.sleepLaunch tag).StandsAs init := by
  unfold State.sleepLaunch
  split
  exacts [.ite h.setLaunch.makeAbsent h, h]

theorem State.StandsAs.loseWorld {tag} (h : s.StandsAs init) : (s.loseWorld tag).StandsAs init := by
  unfold State.loseWorld
  split
  exacts [.ite h (.ite h.endLaunch.clearLaunch h.clearLaunch), h]

theorem State.StandsAs.changeMappings {pages change} (h : s.StandsAs init) (hc : ∀ t l m, t.StandsAs init → (change t l m).StandsAs init) :
    (s.changeMappings pages change).StandsAs init :=
  h.dropTranslations.foldl fun _ _ ht => ht.foldl fun _ _ hu => hc _ _ _ hu

theorem State.StandsAs.remapAll {pages} (h : s.StandsAs init) : (s.remapAll pages).StandsAs init :=
  h.changeMappings (fun _ _ _ ht => ht.mapPage)

theorem State.StandsAs.releaseHeld {k} (h : s.StandsAs init) : (s.releaseHeld k).StandsAs init := by
  unfold State.releaseHeld
  dsimp only
  split
  exacts [h, .ite h (.ite h.setCtx h.resume)]

theorem State.StandsAs.wakeLaunch {tag} (h : s.StandsAs init) : (s.wakeLaunch tag).StandsAs init := by
  unfold State.wakeLaunch
  split
  exacts [.ite h.setLaunch h, h]

end Sys2Proof.Machine
end

section
/-!
SUPPORT. Shootdowns, deadlines, the audit log, sealed regions, and the dormant state (R71, R113, R198, R205, R212).
-/

namespace Sys2Proof.Machine

variable {s : State}

/-! ## Shootdowns -/

theorem clusterOf_place (u : Nat) : u % 8 + clusterOf u * 8 = u := Nat.mod_add_div' u 8

/-- The clusters of a launch's tiles are among those that a shootdown of it goes to. -/
theorem State.clusterOf_mem_meshClusters {l : Launch} {u : Nat} (hu : u ∈ l.units) : clusterOf u ∈ s.meshClusters l :=
  List.mem_dedup.2 (List.mem_append_right _ (List.mem_map_of_mem hu))

/-- The cores and the engine of a launch's tile, and the cluster's TLB, are agents of its shootdown (R71). -/
theorem State.shootAgents_of_unit {l : Launch} {u : Nat} (hu : u ∈ l.units) :
    [u * 4, u * 4 + 1, u * 4 + 2, u + 8192, clusterOf u + 16384].all (s.shootAgents l).contains = true := by
  have hc := State.clusterOf_mem_meshClusters (s := s) hu
  have unit : u ∈ ((s.meshClusters l).flatMap fun c => (List.range 8).map (· + c * 8)).filter
      fun u => (s.tile u).inService || l.units.contains u := by
    refine List.mem_filter.2 ⟨List.mem_flatMap.2 ⟨clusterOf u, hc, ?_⟩, by simp [hu]⟩
    exact List.mem_map.2 ⟨u % 8, List.mem_range.2 (Nat.mod_lt u (by decide)), clusterOf_place u⟩
  have core : ∀ a ∈ [u * 4, u * 4 + 1, u * 4 + 2], a ∈ s.shootAgents l := fun a ha =>
    List.mem_append_left _ (List.mem_append_left _ (List.mem_flatMap.2 ⟨u, unit, ha⟩))
  have engine : u + 8192 ∈ s.shootAgents l := List.mem_append_left _ (List.mem_append_right _ (List.mem_map_of_mem unit))
  have tlb : clusterOf u + 16384 ∈ s.shootAgents l := List.mem_append_right _ (List.mem_map_of_mem hc)
  simp only [List.all_cons, List.all_nil, List.contains_iff_mem, Bool.and_eq_true, Bool.and_true]
  exact ⟨core _ (by simp), core _ (by simp), core _ (by simp), engine, tlb⟩

theorem State.xsdCtlWrite_starts {core : Nat} {v : Word} (idle : s.shoot.awaited = []) {l : Launch}
    (hl : s.launch? (Word.field v 0 16) = some l) : exec (.xsdCtlWrite core v) s =
      .next { s with shoot := { s.shoot with ctl := v &&& 0x1FFFF, fromBase := s.shoot.base, fromLen := s.shoot.len,
                                             awaited := s.shootAgents l } } := by
  have started : s.startShootdown v = { s with shoot := { s.shoot with
      ctl := v &&& 0x1FFFF, fromBase := s.shoot.base, fromLen := s.shoot.len, awaited := s.shootAgents l } } := by
    simp only [State.startShootdown, shootTag, hl]
  show Host.Outcome.next (if s.shoot.awaited.isEmpty then s.startShootdown v else s) = _
  rw [idle, started]
  rfl

theorem exec_shootdownAck {agent : Nat} (awaited : agent ∈ s.shoot.awaited) (turn : s.shootTurn agent = true)
    (drained : s.shootDrained agent = true) : exec (.shootdownAck agent) s = .next (s.shootAck agent) :=
  if_pos (by simp [awaited, turn, drained])

theorem State.shootAck_frame (agent : Nat) :
    (s.shootAck agent).shoot.awaited = s.shoot.awaited.filter (· != agent) ∧ (s.shootAck agent).mem = s.mem ∧
      (s.shootAck agent).ctxs = s.ctxs := by
  unfold State.shootAck
  refine ⟨?_, ?_, ?_⟩ <;> split <;> [rfl; (split <;> rfl); rfl; (split <;> rfl); rfl; (split <;> rfl)]

theorem State.shootAck_core {agent : Nat} (core : agent < 8192) :
    (s.shootAck agent).core agent = (s.core agent).dropTlbs s.shootRemoves := by
  unfold State.shootAck
  rw [if_pos core]
  exact State.core_setCore s agent _

theorem mem_filter_not {α : Type} {p : α → Bool} {l : List α} {x : α} : x ∈ l.filter (fun e => !p e) ↔ x ∈ l ∧ p x = false := by
  simp [List.mem_filter]

/-! ## Deadlines and the audit log -/

@[simp] theorem State.job?_setJob (j : Nat) (x : Job) : (s.setJob j x).job? j = some x := assoc_assocSet_self _ j x

theorem exec_dlLeftWrite {core tag : Nat} {v : Word} {l : Launch} {j : Job} (ht : (s.tile (core / 4)).launch = some tag)
    (hl : s.launch? tag = some l) (hj : s.job? l.job = some j) :
    exec (.dlLeftWrite core v) s = .next (s.setJob l.job { j with dlLeft := Word.field v 0 48 }) := by
  show Host.Outcome.next (s.setDeadline core v) = _
  simp only [State.setDeadline, ht, Option.bind_some, hl, hj]

/-! ## Sealed regions -/

theorem Launch.binds_iff {l : Launch} {h : Word} : l.binds h = true ↔ l.state ≠ .retired ∧ h ∈ l.models := by
  simp [Launch.binds]

theorem exec_sealedRegionRetire_of_bound {h : Word} {e : Nat × Launch} (he : e ∈ s.launches) (held : e.2.binds h = true) :
    exec (.sealedRegionRetire h) s = .next s := by
  show execSealedRegionRetire h s = _
  unfold execSealedRegionRetire
  split
  · rfl
  · exact if_pos (List.any_eq_true.2 ⟨e, he, held⟩)

theorem exec_sealedRegionRetire_of_free {h : Word} {r : SealedRegion} (hr : r ∈ s.vault.sealed) (named : r.handle = h)
    (free : ∀ e ∈ s.launches, e.2.binds h = false) :
    ∃ t, exec (.sealedRegionRetire h) s = .next t ∧ t.vault.sealed = s.vault.sealed.filter fun x => x.handle != h := by
  obtain ⟨q, found⟩ : ∃ q, s.vault.sealed.find? (fun r => r.handle == h) = some q :=
    Option.isSome_iff_exists.1 (List.find?_isSome.2 ⟨r, hr, beq_iff_eq.2 named⟩)
  have unbound : ¬ s.launches.any (fun e => e.2.binds h) = true := by
    simpa using free
  show ∃ t, execSealedRegionRetire h s = _ ∧ _
  unfold execSealedRegionRetire
  rw [found]
  exact ⟨_, if_neg unbound, congrArg Standing.sealed (State.StandsAs.remapAll (init := { s with vault := _ }) (.refl _)).1⟩

/-! ## The dormant state -/

/-- Whether a launch holds tiles: it is resident, or ended with the clear routine to come. -/
def State.occupied (s : State) : Bool := s.launches.any fun e => e.2.state == .resident || e.2.state == .ended

theorem State.mem_of_launch? {tag : Nat} {l : Launch} (h : s.launch? tag = some l) : (tag, l) ∈ s.launches := by
  obtain ⟨e, found, rfl⟩ := Option.map_eq_some_iff.1 h
  have key : e.1 = tag := by simpa using List.find?_some found
  exact key ▸ List.mem_of_find?_eq_some found

theorem State.sleepLaunch_of_idle (idle : ∀ e ∈ s.launches, e.2.state ≠ .resident) (tag : Nat) : s.sleepLaunch tag = s := by
  unfold State.sleepLaunch
  split
  · next l found => simp [idle _ (State.mem_of_launch? found)]
  · rfl

/-- The state that falls asleep, once every launch that can has become absent. -/
def State.slept (s : State) : State := (s.launches.map (·.1)).foldl State.sleepLaunch s

theorem State.slept_standsAs : s.slept.StandsAs s := .foldl (.refl _) fun _ _ ht => ht.sleepLaunch

theorem State.fallAsleep_eq (falling : s.falling = true) :
    s.fallAsleep = if s.slept.occupied then s.slept else { s.slept with vault := { s.slept.vault with dormant := true } } :=
  if_neg (by simp [falling])

theorem State.fallAsleep_of_vacant (falling : s.falling = true)
    (vacant : ∀ e ∈ s.launches, e.2.state ≠ .resident ∧ e.2.state ≠ .ended) :
    s.fallAsleep = { s with vault := { s.vault with dormant := true } } := by
  have still : s.slept = s :=
    List.foldlRecOn (motive := (· = s)) _ _ rfl fun t ht tag _ => by
      rw [ht, State.sleepLaunch_of_idle (fun e he => (vacant e he).1)]
  have empty : s.occupied = false := by
    simpa [State.occupied] using vacant
  rw [State.fallAsleep_eq falling, still, empty]
  rfl

/-- A device that falls asleep is dormant as soon as no launch holds tiles, and all else stands. -/
theorem State.fallAsleep_standing (falling : s.falling = true) :
    s.fallAsleep.standing = { s.standing with dormant := !s.fallAsleep.occupied } := by
  have awake : s.vault.dormant = false := by
    simp only [State.falling, Bool.and_eq_true, Bool.not_eq_true'] at falling
    exact falling.2
  have kept : s.slept.standing = s.standing := State.slept_standsAs.1
  rw [State.fallAsleep_eq falling]
  cases held : s.slept.occupied with
  | true =>
    show s.slept.standing = { s.standing with dormant := !s.slept.occupied }
    rw [held, kept, Bool.not_true, ← awake]
    rfl
  | false =>
    show { s.slept.standing with dormant := true } = { s.standing with dormant := !s.slept.occupied }
    rw [held, kept, Bool.not_false]

/-- The way into the dormant state (R212): the power state reads 1, and the device is dormant as soon as no launch holds tiles. -/
theorem State.enterDormant_standing (awake : s.vault.dormant = false) :
    s.enterDormant.standing = { s.standing with powerCtl := 1, dormant := !s.enterDormant.occupied } :=
  State.fallAsleep_standing (by simp [State.falling, awake])

theorem State.enterDormant_of_vacant (awake : s.vault.dormant = false)
    (vacant : ∀ e ∈ s.launches, e.2.state ≠ .resident ∧ e.2.state ≠ .ended) :
    s.enterDormant.vault.dormant = true ∧ s.enterDormant.mem = s.mem := by
  have entered := State.fallAsleep_of_vacant (s := { s with host := { s.host with powerCtl := 1 } }) (by simp [State.falling, awake]) vacant
  rw [State.enterDormant, entered]
  exact ⟨rfl, rfl⟩

theorem State.requestDormant_of_live (awake : s.vault.dormant = false) (live : s.protectedLive = true) :
    s.requestDormant = { s with host := { s.host with powerCtl := 2 } } := by
  simp [State.requestDormant, awake, live]

theorem State.requestDormant_of_dead (awake : s.vault.dormant = false) (dead : s.protectedLive = false) :
    s.requestDormant = s.enterDormant := by
  simp [State.requestDormant, awake, dead]

/-- The state that a force puts to sleep: no protected world and no session key is left (R212). -/
def State.stripped (s : State) : State :=
  let t := (s.launches.map (·.1)).foldl State.loseWorld s
  { t with vault := { t.vault with mailbox := {}, ethernet := [], transfer := {}, debug := [], steward := {} } }

theorem State.forceDormant_eq (awake : s.vault.dormant = false) : s.forceDormant = s.stripped.enterDormant :=
  if_neg (by simp [awake])

theorem State.stripped_standing : s.stripped.standing =
    { s.standing with mailbox := {}, ethernet := [], transfer := {}, debug := [], steward := {} } := by
  have lost : ((s.launches.map (·.1)).foldl State.loseWorld s).StandsAs s := .foldl (.refl _) fun _ _ ht => ht.loseWorld
  exact congrArg (fun x : Standing => { x with mailbox := {}, ethernet := [], transfer := {}, debug := [], steward := {} }) lost.1

theorem State.forceDormant_standing (awake : s.vault.dormant = false) :
    s.forceDormant.standing = { s.standing with
      powerCtl := 1, dormant := !s.forceDormant.occupied, mailbox := {}, ethernet := [], transfer := {}, debug := [], steward := {} } := by
  have stripped := State.stripped_standing (s := s)
  have still : s.stripped.vault.dormant = false := (congrArg Standing.dormant stripped).trans awake
  rw [State.forceDormant_eq awake, State.enterDormant_standing still, stripped]

/-! ## Waking -/

theorem Tbl.get_of_forall_ne {α : Type} {d : α} {t : Tbl α} {k : Nat} (h : ∀ e ∈ t, e.1 ≠ k) : Tbl.get d t k = d := by
  induction t with
  | nil => rfl
  | cons e r ih =>
    obtain ⟨here, there⟩ := List.forall_mem_cons.1 h
    exact (if_neg here).trans (ih there)

/-- All but the sessions stands, and a client that has no job in one has none in the other: what the end of a session keeps. -/
def State.LosesSessions (s t : State) : Prop :=
  { t.standing with sessions := s.readroom.sessions } = s.standing ∧ ∀ n, (s.client n).job = none → (t.client n).job = none

theorem State.LosesSessions.trans {s t u : State} (h : s.LosesSessions t) (g : t.LosesSessions u) : s.LosesSessions u :=
  ⟨(congrArg (fun x : Standing => { x with sessions := s.readroom.sessions }) g.1).trans h.1, fun n hn => g.2 n (h.2 n hn)⟩

theorem State.StandsAs.losesSessions {s t : State} (h : t.StandsAs s) : s.LosesSessions t :=
  ⟨congrArg (fun x : Standing => { x with sessions := s.readroom.sessions }) h.1, fun n hn => by
    have same : t.readroom.sessions = s.readroom.sessions := congrArg Standing.sessions h.1
    rwa [State.client, same]⟩

theorem State.losesSessions_setClient {n : Nat} {x : Session} (hx : (s.client n).job = none → x.job = none) :
    s.LosesSessions (s.setClient n x) := by
  refine ⟨rfl, fun m hm => ?_⟩
  by_cases same : m = n
  · subst same
    exact (congrArg Session.job (Tbl.get_set_self _ m x)).trans (hx hm)
  · exact (congrArg Session.job (Tbl.get_set_other same _ x)).trans hm

theorem State.losesSessions_continueHeld (n : Nat) : s.LosesSessions (s.continueHeld n) := by
  unfold State.continueHeld
  split
  · exact State.StandsAs.losesSessions (.refl _)
  · exact (State.losesSessions_setClient (x := { s.client n with stopped := false }) fun h => h).trans
      (State.StandsAs.losesSessions (.foldl (.refl _) fun _ _ ht => ht.releaseHeld))

theorem State.losesSessions_endSession (n : Nat) : s.LosesSessions (s.endSession n) :=
  (State.losesSessions_continueHeld n).trans (State.losesSessions_setClient fun _ => rfl)

theorem State.endSession_job (n : Nat) : ((s.endSession n).client n).job = none :=
  congrArg Session.job (Tbl.get_set_self _ n ({} : Session))

theorem State.foldl_endSession (l : List Nat) : s.LosesSessions (l.foldl State.endSession s) ∧
    ∀ n ∈ l, ((l.foldl State.endSession s).client n).job = none := by
  induction l generalizing s with
  | nil => exact ⟨State.StandsAs.losesSessions (.refl _), fun _ hn => absurd hn List.not_mem_nil⟩
  | cons k r ih =>
    obtain ⟨loses, gone⟩ := ih (s := s.endSession k)
    refine ⟨(State.losesSessions_endSession k).trans loses, List.forall_mem_cons.2 ⟨loses.2 k (State.endSession_job k), gone⟩⟩

/-- When every session has ended no client has a job to debug, and all but the sessions stands. -/
theorem State.endSessions_spec : { s.endSessions.standing with sessions := s.readroom.sessions } = s.standing ∧
    ∀ n, (s.endSessions.client n).job = none := by
  obtain ⟨⟨standing, kept⟩, gone⟩ := State.foldl_endSession (s := s) (s.readroom.sessions.map (·.1))
  refine ⟨standing, fun n => ?_⟩
  by_cases listed : n ∈ s.readroom.sessions.map (·.1)
  · exact gone n listed
  · have unlisted : s.client n = {} := Tbl.get_of_forall_ne fun e he h => listed (h ▸ List.mem_map_of_mem he)
    exact kept n (by rw [unlisted])

/-- The awakened device, before the launches that slept are to return. -/
def State.awakened (s : State) : State :=
  { s.dropSessions with host := { s.dropSessions.host with powerCtl := 0 }, vault := { s.dropSessions.vault with dormant := false } }

theorem exec_wake (asleep : s.vault.dormant = true) :
    exec .wake s = .next ((s.awakened.launches.map (·.1)).foldl State.wakeLaunch s.awakened) :=
  if_neg (by simp [asleep])

theorem State.wake_standsAs : ((s.awakened.launches.map (·.1)).foldl State.wakeLaunch s.awakened).StandsAs s.awakened :=
  .foldl (.refl _) fun _ _ ht => ht.wakeLaunch

theorem State.awakened_sessions : s.awakened.vault.mailbox = {} ∧ s.awakened.vault.ethernet = [] ∧ s.awakened.vault.debug = [] ∧
    ∀ n, (s.awakened.client n).job = none := by
  obtain ⟨standing, gone⟩ :=
    State.endSessions_spec (s := { s with vault := { s.vault with mailbox := {}, transfer := {}, ethernet := [], debug := [] } })
  exact ⟨congrArg Standing.mailbox standing, congrArg Standing.ethernet standing, congrArg Standing.debug standing, gone⟩

end Sys2Proof.Machine
end

section
/-!
The statement on the resident system.
-/

namespace Sys2Proof

open Machine

/-- Settles O42, clause by clause; what sleep, lost worlds and ended sessions leave as it stood is `State.StandsAs`. -/
theorem residentSystem : Obligations.ResidentSystem := by
  unfold Obligations.ResidentSystem
  intro s v core agent tenant rp h
  refine ⟨fun idle l hl => ⟨State.xsdCtlWrite_starts idle hl, fun u hu => State.shootAgents_of_unit hu⟩, fun awaited turn drained => ?_,
    fun tag l j ht hl hj => ?_, fun low high => ?_, fun r hr named free => ?_, fun e he held bound => ?_, fun awake live => ?_,
    fun awake dead => ?_, fun awake => ?_, fun asleep => ?_⟩
  · obtain ⟨left, mem, ctxs⟩ := s.shootAck_frame agent
    refine ⟨_, exec_shootdownAck awaited turn drained, left, mem, ctxs, fun isCore => ?_⟩
    rw [State.shootAck_core isCore]
    exact ⟨fun _ => mem_filter_not.1, fun _ => mem_filter_not.1, fun _ => mem_filter_not.1⟩
  · exact ⟨_, exec_dlLeftWrite ht hl hj, State.job?_setJob _ _, rfl, rfl⟩
  · exact ⟨_, if_pos (by simp [low, high]), Tbl.get_set_self _ _ _, rfl, fun m hm => Tbl.get_set_other hm _ _⟩
  · have unbound : ∀ e ∈ s.launches, e.2.binds h = false := fun e he =>
      Bool.eq_false_iff.2 fun b => (free e he).elim (Launch.binds_iff.1 b).1 (absurd (Launch.binds_iff.1 b).2)
    obtain ⟨t, run, left⟩ := exec_sealedRegionRetire_of_free hr named unbound
    refine ⟨t, run, fun x hx => ?_, fun x hx other => ?_⟩
    · rw [left] at hx
      simpa using (List.mem_filter.1 hx).2
    · exact left ▸ List.mem_filter.2 ⟨hx, bne_iff_ne.2 other⟩
  · exact exec_sealedRegionRetire_of_bound he (Launch.binds_iff.2 ⟨held, bound⟩)
  · exact congrArg Host.Outcome.next (State.requestDormant_of_live awake live)
  · have entered := State.enterDormant_standing awake
    exact ⟨_, congrArg Host.Outcome.next (State.requestDormant_of_dead awake dead), congrArg Standing.powerCtl entered,
      congrArg Standing.dormant entered, State.enterDormant_of_vacant awake⟩
  · have forced := State.forceDormant_standing awake
    exact ⟨_, rfl, congrArg Standing.powerCtl forced, congrArg Standing.dormant forced, congrArg Standing.mailbox forced,
      congrArg Standing.ethernet forced, congrArg Standing.transfer forced, congrArg Standing.debug forced,
      congrArg Standing.steward forced⟩
  · obtain ⟨mailbox, ethernet, debug, jobs⟩ := s.awakened_sessions
    have woken := s.wake_standsAs
    refine ⟨_, exec_wake asleep, congrArg Standing.dormant woken.1, congrArg Standing.powerCtl woken.1,
      (congrArg Standing.mailbox woken.1).trans mailbox, (congrArg Standing.ethernet woken.1).trans ethernet,
      (congrArg Standing.debug woken.1).trans debug, fun n => ?_⟩
    exact woken.losesSessions.2 n (jobs n)

end Sys2Proof
end

section
/-!
SUPPORT. What neither the abort of regions nor a store of the hardware's own changes, function by function in the order of the model's
files: messages, launches but for their counters, and of a context its launch, activation, late faults and stop.
-/

namespace Sys2Proof.Machine

/-- What a bystander shows of a context: its launch, its activation, its late faults, its stop, and whether it is stopped. -/
structure CtxView where
  launch : Nat
  act : Option Act
  lates : List LateRec
  stop : Option Stop
  stopped : Bool

def Ctx.view (c : Ctx) : CtxView where
  launch := c.launch
  act := c.act
  lates := c.lates
  stop := c.stop
  stopped := c.state == .stopped

/-- A launch apart from its counters (R229). -/
def Launch.uncounted (l : Launch) : Launch := { l with counters := [] }

/-- What neither the abort of regions nor a store of the hardware's own changes. -/
structure Surroundings where
  msgs : List Msg
  freeCtr : Nat
  package : Nat
  capsules : List Capsule
  sessions : Tbl Session
  launch : Nat → Option Launch
  checking : Nat → Bool
  view : Nat → CtxView

def State.surroundings (s : State) : Surroundings where
  msgs := s.msgs
  freeCtr := s.freeCtr
  package := s.package
  capsules := s.capsules
  sessions := s.readroom.sessions
  launch tag := (s.launch? tag).map Launch.uncounted
  checking u := (s.tile u).checking
  view k := (s.ctx k).view

/-- The surroundings are those of an earlier state. -/
def State.Undisturbed (s init : State) : Prop := s.surroundings = init.surroundings

theorem State.Undisturbed.refl (s : State) : s.Undisturbed s := rfl

theorem State.Undisturbed.ite {c : Prop} [Decidable c] {s t init : State} (hs : s.Undisturbed init) (ht : t.Undisturbed init) :
    (if c then s else t).Undisturbed init := by
  split <;> assumption

theorem State.Undisturbed.foldl {α : Type} {f : State → α → State} {l : List α} {s init : State} (h : s.Undisturbed init)
    (hf : ∀ t x, State.Undisturbed t init → State.Undisturbed (f t x) init) : (l.foldl f s).Undisturbed init :=
  List.foldlRecOn (motive := fun t => State.Undisturbed t init) l f h fun t ht x _ => hf t x ht

variable {s init : State}

theorem State.Undisturbed.with_lineKey {x} (h : s.Undisturbed init) : ({ s with lineKey := x } : State).Undisturbed init := h

theorem State.Undisturbed.setCtx {k c} (h : s.Undisturbed init) (hc : c.view = (s.ctx k).view) : (s.setCtx k c).Undisturbed init := by
  have views : ∀ j, ((s.setCtx k c).ctx j).view = (s.ctx j).view := fun j => by
    by_cases same : j = k
    · rw [same, State.ctx_setCtx, hc]
    · rw [State.ctx_setCtx_other s c same]
  show { s.surroundings with view := fun j => ((s.setCtx k c).ctx j).view } = init.surroundings
  rw [funext views]
  exact h

theorem State.Undisturbed.setCore {a c} (h : s.Undisturbed init) : (s.setCore a c).Undisturbed init := h

theorem State.Undisturbed.setTile {u x} (h : s.Undisturbed init) (hx : x.checking = (s.tile u).checking) :
    (s.setTile u x).Undisturbed init := by
  have checks : ∀ v, ((s.setTile u x).tile v).checking = (s.tile v).checking := fun v => by
    by_cases same : v = u
    · rw [same, State.tile_setTile, hx]
    · rw [State.tile_setTile_other s x same]
  show { s.surroundings with checking := fun v => ((s.setTile u x).tile v).checking } = init.surroundings
  rw [funext checks]
  exact h

theorem State.Undisturbed.setCluster {n c} (h : s.Undisturbed init) : (s.setCluster n c).Undisturbed init := h

theorem State.launch?_setLaunch_other (s : State) {n tag : Nat} (h : n ≠ tag) (l : Launch) :
    (s.setLaunch tag l).launch? n = s.launch? n := assoc_assocSet_other _ h l

theorem State.Undisturbed.setLaunch {tag x} (h : s.Undisturbed init)
    (hx : (s.launch? tag).map Launch.uncounted = some x.uncounted) : (s.setLaunch tag x).Undisturbed init := by
  have launches : ∀ n, ((s.setLaunch tag x).launch? n).map Launch.uncounted = (s.launch? n).map Launch.uncounted := fun n => by
    by_cases same : n = tag
    · rw [same, State.launch?_setLaunch, hx]
      rfl
    · rw [State.launch?_setLaunch_other s same]
  show { s.surroundings with launch := fun n => ((s.setLaunch tag x).launch? n).map Launch.uncounted } = init.surroundings
  rw [funext launches]
  exact h

theorem State.Undisturbed.fresh (h : s.Undisturbed init) : s.fresh.Undisturbed init := h
theorem State.Undisturbed.pokeByte {key x bad} (h : s.Undisturbed init) : (s.pokeByte key x bad).Undisturbed init := h

theorem State.Undisturbed.rekeyLine {kid line} (h : s.Undisturbed init) : (s.rekeyLine kid line).Undisturbed init := by
  unfold State.rekeyLine
  split
  exacts [h, .with_lineKey (.foldl h fun _ _ ht => ht)]

theorem State.Undisturbed.writeByte {kid key b bad} (h : s.Undisturbed init) : (s.writeByte kid key b bad).Undisturbed init :=
  h.rekeyLine.pokeByte

theorem State.Undisturbed.writeBytes {kid key bad l} (h : s.Undisturbed init) : (s.writeBytes kid key bad l).Undisturbed init := by
  induction l generalizing s with
  | nil => exact h
  | cons p r ih => exact ih h.writeByte

theorem State.Undisturbed.writeList {kid key bad bs} (h : s.Undisturbed init) : (s.writeList kid key bad bs).Undisturbed init := h.writeBytes
theorem State.Undisturbed.tlbFill {u core e} (h : s.Undisturbed init) : (s.tlbFill u core e).Undisturbed init := h.setCore.setCluster

theorem State.Undisturbed.translate {u core root launch va leaf t} (h : s.Undisturbed init)
    (e : s.translate u core root launch va = some (leaf, t)) : t.Undisturbed init := by
  unfold State.translate at e
  split at e
  · cases e; exact h
  · split at e
    · cases e
    · cases e; exact h.tlbFill

theorem State.Undisturbed.globalPart {u k a va off len p t} (h : s.Undisturbed init)
    (e : s.globalPart u k a va off len = .ok (p, t)) : t.Undisturbed init := by
  unfold State.globalPart at e
  split at e
  · split at e
    · cases e; exact h
    · cases e
  · split at e
    · cases e
    · split at e
      · cases e
      · split at e
        · cases e
        · next found =>
          split at e
          · cases e
          · cases e; exact h.translate found

theorem State.Undisturbed.globalParts {u k a va l ps t} (h : s.Undisturbed init)
    (e : s.globalParts u k a va l = .ok (ps, t)) : t.Undisturbed init := by
  induction l generalizing s ps with
  | nil => cases e; exact h
  | cons b r ih =>
    simp only [State.globalParts] at e
    split at e
    · cases e
    · next first =>
      split at e
      · cases e
      · next rest => cases e; exact ih (h.globalPart first) rest

theorem State.Undisturbed.locateBy {u k a addr n ps t} (h : s.Undisturbed init)
    (e : s.locateBy u k a addr n = .ok (ps, t)) : t.Undisturbed init := by
  unfold State.locateBy at e
  dsimp only at e
  split at e
  · cases e
  · split at e
    · split at e
      · cases e
      · exact h.globalParts e
    · split at e
      · cases e
      · split at e
        · cases e; exact h
        · cases e

theorem State.Undisturbed.locate {k a addr n ps t} (h : s.Undisturbed init) (e : s.locate k a addr n = .ok (ps, t)) : t.Undisturbed init :=
  h.locateBy e

theorem State.Undisturbed.changeMonitors {cluster tag source f} (h : s.Undisturbed init) :
    (s.changeMonitors cluster tag source f).Undisturbed init :=
  .ite h.setCluster h

theorem State.Undisturbed.countLaunch {tag source} (h : s.Undisturbed init) : (s.countLaunch tag source).Undisturbed init := by
  unfold State.countLaunch
  split
  · next l found => exact h.setLaunch (by rw [found]; rfl)
  · exact h

theorem State.Undisturbed.countAt {k source} (h : s.Undisturbed init) : (s.countAt k source).Undisturbed init := h.changeMonitors.countLaunch

theorem State.Undisturbed.countEach {source ks} (h : s.Undisturbed init) : (s.countEach source ks).Undisturbed init :=
  h.foldl fun _ _ ht => ht.countAt

theorem State.Undisturbed.lower {k act ld st} (h : s.Undisturbed init) : (s.lower k act ld st).Undisturbed init := .ite (.setCtx h rfl) h
theorem State.Undisturbed.ringRetire {core seq} (h : s.Undisturbed init) : (s.ringRetire core seq).Undisturbed init := .ite h.setCore h

theorem State.Undisturbed.finishTxn {t} (h : s.Undisturbed init) : (s.finishTxn t).Undisturbed init := by
  refine .ite h ?_
  split
  exacts [.ringRetire (.lower h), .lower h]

theorem State.Undisturbed.dropTxns {l} (h : s.Undisturbed init) : (s.dropTxns l).Undisturbed init := by
  induction l generalizing s with
  | nil => exact h
  | cons t r ih => exact ih h.finishTxn

theorem State.Undisturbed.unwait {k} (h : s.Undisturbed init) : (s.unwait k).Undisturbed init := .setCore (.setTile h rfl)

/-- A context that is restarted stays stopped where it was, and nothing else makes it so. -/
theorem Ctx.view_restarted (c : Ctx) (r : OpenRegion) (pc : Word) (n : Nat) :
    Ctx.view { c.reload r with pc := pc, aborts := n, restarting := true,
                               state := if (c.reload r).state = .stopped then .stopped else (c.reload r).running } = c.view := by
  have stopped : ((if c.state = .stopped then .stopped else (c.reload r).running) == CtxState.stopped) = (c.state == .stopped) := by
    by_cases h : c.state = .stopped
    · simp [h]
    · have runs : (c.reload r).running ≠ .stopped := by
        unfold Ctx.running
        split <;> simp
      simp [h, runs]
  show CtxView.mk _ _ _ _ _ = _
  exact congrArg (CtxView.mk c.launch c.act c.lates c.stop) stopped

theorem State.Undisturbed.restart {k} (h : s.Undisturbed init) : (s.restart k).Undisturbed init := by
  unfold State.restart
  dsimp only
  split
  · exact h
  · next r _ =>
    have ht := h.unwait (k := k) |>.dropTxns (l := s.txns.filter fun t => t.ctx == k && t.region == some (r.slot, r.beginAt))
    exact ht.setCtx (Ctx.view_restarted _ r _ _)

theorem State.Undisturbed.restartAll {l} (h : s.Undisturbed init) : (s.restartAll l).Undisturbed init := by
  induction l generalizing s with
  | nil => exact h
  | cons k r ih => exact ih h.restart

theorem State.Undisturbed.abortSlots {m} (h : s.Undisturbed init) : (s.abortSlots m).Undisturbed init := .restartAll h.countEach

theorem State.Undisturbed.abortReaders {home key n} (h : s.Undisturbed init) : (s.abortReaders home key n).Undisturbed init :=
  .ite h h.abortSlots

theorem State.Undisturbed.storeParts {k va bad bs l} (h : s.Undisturbed init) : (s.storeParts k va bad bs l).Undisturbed init := by
  induction l generalizing s with
  | nil => exact h
  | cons p r ih => exact ih (.ite h.fresh h.abortReaders.writeList)

theorem State.Undisturbed.storeVa {k va bad bs t} (h : s.Undisturbed init) (e : s.storeVa k va bad bs = .ok t) : t.Undisturbed init := by
  unfold State.storeVa at e
  split at e
  · cases e
  · next found => cases e; exact (h.locate found).storeParts

theorem State.Undisturbed.writeFolioFrom {k st va n m} (h : s.Undisturbed init) : (s.writeFolioFrom k st va n m).Undisturbed init := by
  induction m generalizing s n with
  | zero => exact h
  | succ m ih =>
    refine ih ?_
    split
    · next found => exact h.storeVa found
    · exact h

end Sys2Proof.Machine
end

section
/-!
SUPPORT. Walks, line fills and the closure (R69, R172, R124).
-/

namespace Sys2Proof.Machine

variable {s : State}

/-! ## Walks and line fills (R69, R172) -/

theorem exec_pageWalkComplete_of_leaf {cluster root va : Nat} {leaf : Leaf} {e : Nat × Launch} (walk : s.walkTables root va = some leaf)
    (good : s.walkBad root va = false) (owner : s.launches.find? (fun e => e.2.root == root) = some e) :
    ∃ t : State, exec (.pageWalkComplete cluster root va) s = .next t ∧ t = { s with clusters := t.clusters } ∧
      (t.cluster cluster).tlb.head? = some { root := root, page := va / 65536, pte := leaf.pte, size := leaf.size, launch := e.1 } := by
  show ∃ t, execPageWalkComplete cluster root va s = .next t ∧ _
  unfold execPageWalkComplete
  rw [walk, owner]
  exact ⟨_, if_neg (by simp [good]), rfl, by rw [State.cluster_setCluster, List.head?_cons]⟩

theorem exec_pageWalkComplete_of_fault {cluster root va : Nat} (fault : s.walkTables root va = none ∨ s.walkBad root va = true) :
    exec (.pageWalkComplete cluster root va) s = .next s := by
  show execPageWalkComplete cluster root va s = _
  unfold execPageWalkComplete
  split
  · next leaf tag l walk owner => exact if_pos (fault.resolve_left (by simp [walk]))
  · rfl

theorem findLine_putLine (ls : List ILine) (cap : Nat) (l : ILine) : findLine (putLine ls cap l) l.line = some l := by
  simp [findLine, putLine]

/-- A line as memory holds it, with the mark of what arrives poisoned. -/
def State.memoryLine (s : State) (line : Nat) (bad : Bool) : ILine :=
  ⟨line, s.readBytes (Tbl.get 0 s.lineKey line) (line * 64) 64, bad || s.readBad (line * 64) 64⟩

/-- The state in which what is poisoned has been counted as an error. -/
def State.counted (s : State) (marked : Bool) : State := if marked then s.logError true else s

theorem State.counted_frame (marked : Bool) : (s.counted marked).mem = s.mem ∧ (s.counted marked).ctxs = s.ctxs ∧
    (s.counted marked).host.errUncorrectable =
      if marked then min (s.host.errUncorrectable + 1) 0xFFFFFFFF else s.host.errUncorrectable := by
  cases marked <;> exact ⟨rfl, rfl, rfl⟩

theorem exec_instructionLineFill (cluster line : Nat) (bad : Bool) : ∃ q : Cluster,
    exec (.instructionLineFill cluster line bad) s = .next ((s.counted (s.memoryLine line bad).bad).setCluster cluster q) ∧
      findLine q.icache line = some (s.memoryLine line bad) :=
  ⟨_, rfl, findLine_putLine _ 4096 (s.memoryLine line bad)⟩

/-! ## The closure (R124) -/

section

variable {α : Type} {d : α} {t : Tbl α} {k : Nat}

theorem Tbl.get_mem (listed : k ∈ t.map (·.1)) : (k, Tbl.get d t k) ∈ t := by
  induction t with
  | nil => cases listed
  | cons e r ih =>
    obtain ⟨j, v⟩ := e
    by_cases here : j = k
    · subst here
      simp [Tbl.get]
    · have there : k ∈ r.map (·.1) := by simpa [Ne.symm here] using listed
      simp only [Tbl.get, if_neg here]
      exact List.mem_cons_of_mem _ (ih there)

theorem Tbl.get_map_of_listed {f : Nat × α → α} (listed : k ∈ t.map (·.1)) :
    Tbl.get d (t.map fun e => (e.1, f e)) k = f (k, Tbl.get d t k) := by
  induction t with
  | nil => cases listed
  | cons e r ih =>
    obtain ⟨j, v⟩ := e
    by_cases here : j = k
    · simp [Tbl.get, here]
    · have there : k ∈ r.map (·.1) := by simpa [Ne.symm here] using listed
      simp only [List.map_cons, Tbl.get, if_neg here]
      exact ih there

theorem Tbl.get_unlisted (unlisted : k ∉ t.map (·.1)) : Tbl.get d t k = d :=
  Tbl.get_of_forall_ne fun _ he same => unlisted (same ▸ List.mem_map_of_mem he)

/-- What a change of every entry keeps of an entry it keeps of what every key reads as. -/
theorem Tbl.get_map_congr {β : Type} {f : Nat × α → α} (g : α → β) (kept : ∀ e, g (f e) = g e.2) :
    g (Tbl.get d (t.map fun e => (e.1, f e)) k) = g (Tbl.get d t k) := by
  by_cases listed : k ∈ t.map (·.1)
  · rw [Tbl.get_map_of_listed listed, kept]
  · have still : k ∉ (t.map fun e => (e.1, f e)).map (·.1) := by simpa [Function.comp_def] using listed
    rw [Tbl.get_unlisted listed, Tbl.get_unlisted still]

theorem Tbl.listed_of_ne {β : Type} {g : α → β} (h : g (Tbl.get d t k) ≠ g d) : k ∈ t.map (·.1) := by
  by_contra unlisted
  exact h (by rw [Tbl.get_unlisted unlisted])

end

/-- What a directory shows apart from its closures. -/
def DirSlot.bare (d : DirSlot) : DirSlot := { d with clo := 0 }

/-- A directory lists the slots of another, each the same but for its closure. -/
def SameEdges (a b : Tbl DirSlot) : Prop :=
  a.map (·.1) = b.map (·.1) ∧ ∀ n, (Tbl.get {} a n).bare = (Tbl.get {} b n).bare

theorem sameEdges_map {f : Nat × DirSlot → BitVec 256} (t : Tbl DirSlot) :
    SameEdges (t.map fun e => (e.1, { e.2 with clo := f e })) t :=
  ⟨by simp [Function.comp_def], fun n => Tbl.get_map_congr (f := fun e => { e.2 with clo := f e }) DirSlot.bare fun _ => rfl⟩

theorem SameEdges.trans {a b c : Tbl DirSlot} (h : SameEdges a b) (g : SameEdges b c) : SameEdges a c :=
  ⟨h.1.trans g.1, fun n => (h.2 n).trans (g.2 n)⟩

theorem SameEdges.pred {a b : Tbl DirSlot} (h : SameEdges a b) (n : Nat) : (Tbl.get {} a n).pred = (Tbl.get {} b n).pred :=
  (congrArg DirSlot.pred (h.2 n) : (Tbl.get {} a n).bare.pred = (Tbl.get {} b n).bare.pred)

theorem SameEdges.phase {a b : Tbl DirSlot} (h : SameEdges a b) (n : Nat) : (Tbl.get {} a n).phase = (Tbl.get {} b n).phase :=
  (congrArg DirSlot.phase (h.2 n) : (Tbl.get {} a n).bare.phase = (Tbl.get {} b n).bare.phase)

theorem sameEdges_closePass (dir : Tbl DirSlot) : SameEdges (closePass dir) dir := sameEdges_map dir

theorem sameEdges_closePasses (dir : Tbl DirSlot) (n : Nat) : SameEdges (closePasses dir n) dir := by
  induction n generalizing dir with
  | zero => exact ⟨rfl, fun _ => rfl⟩
  | succ n ih => exact (ih (closePass dir)).trans (sameEdges_closePass dir)

theorem closePasses_succ (dir : Tbl DirSlot) (n : Nat) : closePasses dir (n + 1) = closePass (closePasses dir n) := by
  induction n generalizing dir with
  | zero => rfl
  | succ n ih => exact ih (closePass dir)

/-- One pass collects the bit of every listed slot that it meets, and loses none. -/
theorem getLsbD_foldl_collect {b : Nat} (hb : b < 256) {p : Nat × DirSlot → Bool} {l : List (Nat × DirSlot)} {m : BitVec 256}
    (h : m.getLsbD b = true ∨ ∃ e ∈ l, e.1 = b ∧ p e = true) :
    (l.foldl (fun m e => if p e then m ||| slotBit e.1 ||| e.2.clo else m) m).getLsbD b = true := by
  induction l generalizing m with
  | nil => simpa using h
  | cons e r ih =>
    refine ih ?_
    rcases h with old | ⟨x, hx, rfl, holds⟩
    · refine .inl ?_
      dsimp only
      split <;> simp [old]
    · rcases List.mem_cons.1 hx with rfl | later
      · exact .inl (by simp [holds, slotBit, hb])
      · exact .inr ⟨x, later, rfl, holds⟩

/-- After a pass a slot's closure has every slot that it directly precedes. -/
theorem closePass_direct {dir : Tbl DirSlot} {a b : Nat} (hb : b < 256) (la : a ∈ dir.map (·.1)) (lb : b ∈ dir.map (·.1))
    (edge : (Tbl.get {} dir b).pred.getLsbD a = true) : (Tbl.get {} (closePass dir) a).clo.getLsbD b = true := by
  rw [closePass, Tbl.get_map_of_listed la]
  exact getLsbD_foldl_collect hb (p := fun e => e.2.pred.getLsbD a) (.inr ⟨_, Tbl.get_mem lb, rfl, edge⟩)

/-- The directory with its closures recomputed. -/
def State.closed (s : State) : Tbl DirSlot := closePasses (s.dir.map fun e => (e.1, { e.2 with clo := (0 : BitVec 256) })) s.dir.length

theorem State.sameEdges_closed : SameEdges s.closed s.dir := (sameEdges_closePasses _ _).trans (sameEdges_map s.dir)

theorem State.closed_direct {a b : Nat} (hb : b < 256) (live : (s.slot a).phase ≠ .free) (edge : (s.slot b).pred.getLsbD a = true) :
    (Tbl.get {} s.closed a).clo.getLsbD b = true := by
  have la : a ∈ s.dir.map (·.1) := Tbl.listed_of_ne (g := DirSlot.phase) live
  have lb : b ∈ s.dir.map (·.1) := Tbl.listed_of_ne (d := ({} : DirSlot)) (g := fun d => d.pred.getLsbD a) (by
    rw [show Tbl.get {} s.dir b = s.slot b from rfl, edge]
    simp)
  obtain ⟨n, len⟩ : ∃ n, s.dir.length = n + 1 := Nat.exists_eq_succ_of_ne_zero fun none => by
    simp [List.length_eq_zero_iff.1 none] at la
  have same := (sameEdges_closePasses (s.dir.map fun e => (e.1, { e.2 with clo := (0 : BitVec 256) })) n).trans (sameEdges_map s.dir)
  rw [State.closed, len, closePasses_succ]
  refine closePass_direct hb (same.1 ▸ la) (same.1 ▸ lb) ?_
  rw [same.pred]
  exact edge

end Sys2Proof.Machine
end

section
/-!
SUPPORT. Merges and late faults (R127, R161).
-/

namespace Sys2Proof.Machine

variable {s : State}

/-! ## Merges (R127) -/

/-- A line holds the same bytes under the same key in two states. -/
def State.SameLine (s t : State) (n : Nat) : Prop :=
  Tbl.get 0 t.lineKey n = Tbl.get 0 s.lineKey n ∧ ∀ a, a / 64 = n → Tbl.get 0 t.mem a = Tbl.get 0 s.mem a

theorem State.SameLine.trans {s t u : State} {n : Nat} (h : s.SameLine t n) (g : t.SameLine u n) : s.SameLine u n :=
  ⟨g.1.trans h.1, fun a ha => (g.2 a ha).trans (h.2 a ha)⟩

theorem State.SameLine.readByte {s t : State} {a : Nat} (h : s.SameLine t (a / 64)) (kid : Nat) : t.readByte kid a = s.readByte kid a := by
  have plain : (List.range 64).map (fun i => Tbl.get 0 t.mem (a / 64 * 64 + i)) =
      (List.range 64).map (fun i => Tbl.get 0 s.mem (a / 64 * 64 + i)) :=
    List.map_congr_left fun i hi => h.2 _ (by have := List.mem_range.1 hi; omega)
  simp only [State.readByte, State.lineAs, h.1, h.2 a rfl, plain]

theorem State.sameLine_rekeyLine {n line : Nat} (apart : n ≠ line) (kid : Nat) : s.SameLine (s.rekeyLine kid line) n := by
  unfold State.rekeyLine
  split
  · exact ⟨rfl, fun _ _ => rfl⟩
  · refine ⟨?_, fun a ha => State.mem_get_fold_other (fun i => line * 64 + i) _ (fun p hp => ?_) s⟩
    · dsimp only
      rw [Tbl.get_set_other apart, State.lineKey_fold (fun i => line * 64 + i)]
    · have below : p.1 < 64 := List.mem_range.1 (List.of_mem_zip hp).1
      omega

theorem State.sameLine_writeByte {n key : Nat} (apart : n ≠ key / 64) (kid : Nat) (b : Byte) (bad : Bool) :
    s.SameLine (s.writeByte kid key b bad) n :=
  (State.sameLine_rekeyLine apart kid).trans 
    ⟨rfl, fun _ ha => State.mem_get_pokeByte_other _ (fun same => apart (by rw [← ha, same])) b bad⟩

theorem State.sameLine_writeBytes {n key : Nat} (kid : Nat) (bad : Bool) {l : List (Nat × Byte)} (apart : ∀ p ∈ l, n ≠ (key + p.1) / 64) :
    s.SameLine (s.writeBytes kid key bad l) n := by
  induction l generalizing s with
  | nil => exact ⟨rfl, fun _ _ => rfl⟩
  | cons p r ih =>
    obtain ⟨here, there⟩ := List.forall_mem_cons.1 apart
    exact (State.sameLine_writeByte here kid p.2 bad).trans (ih there)

theorem exec_commitMerge_of_idle {slot : Nat} {home : Home}
    (idle : (s.slot slot).phase ≠ .committing ∨ home ∉ (s.slot slot).homes) : exec (.commitMerge slot home) s = .next s := by
  refine if_neg fun due => ?_
  simp only [Bool.and_eq_true, decide_eq_true_eq, List.contains_iff_mem] at due
  exact idle.elim (absurd due.1) (absurd due.2)

/-- The state with the versions of a slot's lines at a home merged there. -/
def State.merged (s : State) (slot : Nat) (home : Home) : State :=
  s.mergeVersions (s.versions.filter fun v => v.slot == slot && v.home == home)

theorem exec_commitMerge_of_due {slot : Nat} {home : Home} (committing : (s.slot slot).phase = .committing)
    (due : home ∈ (s.slot slot).homes) : ∃ seen, exec (.commitMerge slot home) s =
      .next ({ s.merged slot home with versions := s.versions.filter fun v => !(v.slot == slot && v.home == home) }.setSlot slot
        { s.slot slot with homes := (s.slot slot).homes.erase home, touched := seen }) :=
  ⟨_, if_pos (by simp [committing, due])⟩

/-- A version that is merged alone writes its bytes and no other line. -/
theorem State.merged_alone {slot : Nat} {home : Home} {v : Version}
    (alone : s.versions.filter (fun v => v.slot == slot && v.home == home) = [v]) (distinct : (v.data.map (·.1)).Nodup)
    (within : ∀ p ∈ v.data, p.1 < 64) :
    (∀ p ∈ v.data, (s.merged slot home).readByte v.kid (v.line * 64 + p.1) = p.2) ∧
      ∀ kid key, key / 64 ≠ v.line → (s.merged slot home).readByte kid key = s.readByte kid key := by
  have once : s.merged slot home = s.writeBytes v.kid (v.line * 64) v.bad v.data := by rw [State.merged, alone]; rfl
  rw [once]
  refine ⟨fun p hp => (State.stands_writeBytes s v.kid (v.line * 64) v.bad distinct hp).readByte, fun kid key apart => ?_⟩
  refine (State.sameLine_writeBytes v.kid v.bad fun p hp => ?_).readByte kid
  have := within p hp
  omega

/-! ## Late faults (R161) -/

theorem Tbl.mem_of_mem_set {α : Type} [DecidableEq α] {d x : α} {t : Tbl α} {k : Nat} {e : Nat × α} (h : e ∈ Tbl.set d t k x) :
    e = (k, x) ∨ e ∈ t := by
  have erased : ∀ u : Tbl α, e ∈ Tbl.erase u k → e ∈ u := fun u => by
    induction u with
    | nil => exact id
    | cons f r ih =>
      intro he
      unfold Tbl.erase at he
      split at he
      · exact List.mem_cons_of_mem _ (ih he)
      · exact (List.mem_cons.1 he).elim (fun same => same ▸ List.mem_cons_self) fun later => List.mem_cons_of_mem _ (ih later)
  have inserted : ∀ u : Tbl α, e ∈ Tbl.insert u k x → e = (k, x) ∨ e ∈ u := fun u => by
    induction u with
    | nil => exact fun he => .inl (List.mem_singleton.1 he)
    | cons f r ih =>
      intro he
      unfold Tbl.insert at he
      split at he
      · rcases List.mem_cons.1 he with same | later
        · exact .inr (same ▸ List.mem_cons_self)
        · exact (ih later).imp_right (List.mem_cons_of_mem _)
      · refine (List.mem_cons.1 he).imp_right fun later => ?_
        split at later
        · exact List.mem_cons_of_mem _ later
        · exact later
  unfold Tbl.set at h
  split at h
  · exact .inr (erased t h)
  · exact inserted t h

/-- A core whose pushes stay holds up nobody that no core held up. -/
theorem State.any_pushes_setCore {a : Nat} {q : Core} {p : PushWait → Bool} (clear : s.cores.any (fun e => e.2.pushes.any p) = false)
    (same : q.pushes = (s.core a).pushes) : (s.setCore a q).cores.any (fun e => e.2.pushes.any p) = false := by
  have each : ∀ e ∈ s.cores, ¬ e.2.pushes.any p = true := List.any_eq_false.1 clear
  refine List.any_eq_false.2 fun e he => ?_
  rcases Tbl.mem_of_mem_set he with rfl | old
  · show ¬ q.pushes.any p = true
    rw [same]
    by_cases listed : a ∈ s.cores.map (·.1)
    · exact each _ (Tbl.get_mem listed)
    · rw [State.core, Tbl.get_unlisted listed]
      exact Bool.false_ne_true
  · exact each e old

theorem insertLate_ne_nil (r : LateRec) (l : List LateRec) : insertLate r l ≠ [] := by
  cases l with
  | nil => exact List.cons_ne_nil r []
  | cons x xs =>
    unfold insertLate
    split <;> exact List.cons_ne_nil _ _

/-- The state in which a late fault has been taken from those that wait, and its place in the ring marked. -/
def State.lateTaken (s : State) (id : Nat) (p : PendingLate) : State :=
  { s with lates := s.lates.filter (fun x => x.id != id) }.ringFault (coreOf p.ctx) p.record.seq

theorem State.lateTaken_ctx {id : Nat} {p : PendingLate} (k : Nat) : (s.lateTaken id p).ctx k = s.ctx k := by
  unfold State.lateTaken State.ringFault
  dsimp only
  split <;> rfl

theorem State.StandsAs.ringFault {init : State} {core seq : Nat} (h : s.StandsAs init) : (s.ringFault core seq).StandsAs init := .ite h h

theorem State.lateTaken_standsAs {id : Nat} {p : PendingLate} :
    (s.lateTaken id p).StandsAs { s with lates := s.lates.filter (fun x => x.id != id) } := State.StandsAs.ringFault (.refl _)

/-- The state in which a context has recorded a late fault. -/
def State.lateRecorded (s : State) (id : Nat) (p : PendingLate) : State :=
  (s.lateTaken id p).setCtx p.ctx { s.ctx p.ctx with lates := (insertLate p.record (s.ctx p.ctx).lates).take 9 }

theorem State.lateRecorded_ctx {id : Nat} {p : PendingLate} : (s.lateRecorded id p).ctx p.ctx =
    { s.ctx p.ctx with lates := (insertLate p.record (s.ctx p.ctx).lates).take 9 } := State.ctx_setCtx _ _ _

theorem State.lateStops_lateRecorded {id : Nat} {p : PendingLate} (stops : s.lateStops p.ctx = true) :
    (s.lateRecorded id p).lateStops p.ctx = true := by
  simp only [State.lateStops, Bool.and_eq_true, Bool.not_eq_true'] at stops ⊢
  obtain ⟨⟨⟨act, stop⟩, await⟩, clear⟩ := stops
  rw [State.lateRecorded_ctx]
  refine ⟨⟨⟨act, stop⟩, await⟩, ?_⟩
  show (s.lateTaken id p).cores.any _ = false
  unfold State.lateTaken State.ringFault
  dsimp only
  split
  · exact State.any_pushes_setCore clear rfl
  · exact clear

theorem exec_lateFault_eq {id : Nat} {p : PendingLate} (found : s.lates.find? (fun x => x.id == id) = some p) : exec (.lateFault id) s =
    if (s.ctx p.ctx).act.isSome && (s.ctx p.ctx).actId == p.act then
      .next (if (s.lateRecorded id p).lateStops p.ctx then (s.lateRecorded id p).lateStop p.ctx else s.lateRecorded id p)
    else .next ((s.lateTaken id p).lateClass p.ctx p.launch
      (trapWord 0x13 p.record.subcause (some p.record.seq) p.record.detail) p.record.pc) := by
  have run : exec (.lateFault id) s =
      if ((s.lateTaken id p).ctx p.ctx).act.isSome && ((s.lateTaken id p).ctx p.ctx).actId == p.act then
        let u := (s.lateTaken id p).setCtx p.ctx
          { (s.lateTaken id p).ctx p.ctx with lates := (insertLate p.record ((s.lateTaken id p).ctx p.ctx).lates).take 9 }
        .next (if u.lateStops p.ctx then u.lateStop p.ctx else u)
      else .next ((s.lateTaken id p).lateClass p.ctx p.launch
        (trapWord 0x13 p.record.subcause (some p.record.seq) p.record.detail) p.record.pc) := by
    show execLateFault id s = _
    unfold execLateFault
    rw [found]
    rfl
  rw [run, State.lateTaken_ctx]
  rfl

theorem exec_lateFault_recorded {id : Nat} {p : PendingLate} (found : s.lates.find? (fun x => x.id == id) = some p)
    (active : (s.ctx p.ctx).act ≠ none) (same : (s.ctx p.ctx).actId = p.act) : exec (.lateFault id) s =
      .next (if (s.lateRecorded id p).lateStops p.ctx then (s.lateRecorded id p).lateStop p.ctx else s.lateRecorded id p) := by
  rw [exec_lateFault_eq found, if_pos (by simp [same, Option.isSome_iff_ne_none.2 active])]

theorem State.StandsAs.lateStop {init : State} {k : Nat} (h : s.StandsAs init) : (s.lateStop k).StandsAs init := by
  unfold State.lateStop
  dsimp only
  split
  exacts [h, h.stopCtx]

/-- However a late fault is taken, it waits no more. -/
theorem exec_lateFault_standsAs {id : Nat} {p : PendingLate} (found : s.lates.find? (fun x => x.id == id) = some p) :
    ∃ t, exec (.lateFault id) s = .next t ∧ State.StandsAs t { s with lates := s.lates.filter (fun x => x.id != id) } := by
  have taken := s.lateTaken_standsAs (id := id) (p := p)
  have recorded : (s.lateRecorded id p).StandsAs { s with lates := s.lates.filter (fun x => x.id != id) } := taken.setCtx
  rw [exec_lateFault_eq found]
  split
  · exact ⟨_, rfl, .ite recorded.lateStop recorded⟩
  · exact ⟨_, rfl, taken.lateClass⟩

theorem State.StandsAs.lateGone {t : State} {id : Nat} (h : t.StandsAs { s with lates := s.lates.filter (fun x => x.id != id) }) :
    ∀ x ∈ t.lates, x.id ≠ id := by
  intro x hx same
  obtain ⟨y, hy, hid⟩ := List.mem_map.1 (h.2.1 (List.mem_map_of_mem hx))
  have kept := (List.mem_filter.1 hy).2
  simp [hid, same] at kept

/-- A context that has stopped for a cause, its activation and its late faults as they were. -/
structure Ctx.StopsAs (c old : Ctx) (cause sub : Nat) : Prop where
  act : c.act = old.act
  lates : c.lates = old.lates
  state : c.state = .stopped
  stop : ∃ st, c.stop = some st ∧ st.cause = cause ∧ st.subcode = sub

/-- A context whose activation has no task control block stops for its cause, whether a region of its own is aborted or not (R159). -/
theorem State.stopCtx_stopsAs {k : Nat} {st : Stop} (plain : ∀ a, (s.ctx k).act = some a → a.tcb = none) :
    ((s.stopCtx k st).ctx k).StopsAs (s.ctx k) st.cause st.subcode := by
  unfold State.stopCtx
  extract_lets u c w v
  have hw : w.ctx k = { c with state := .stopped, stop := some st, window := none, align := none } := State.ctx_setCtx _ _ _
  have alone : (w.ctx k).StopsAs (s.ctx k) st.cause st.subcode := by
    rw [hw]
    exact ⟨rfl, rfl, rfl, _, rfl, rfl, rfl⟩
  have halted : (v.ctx k).StopsAs (s.ctx k) st.cause st.subcode := by
    unfold v
    split
    · exact alone
    · next r _ =>
      split
      · exact alone
      · exact alone
      · have aborted : (w.abortSlots (slotBit r.slot)).Undisturbed w := (State.Undisturbed.refl w).abortSlots
        have view : ((w.abortSlots (slotBit r.slot)).ctx k).view = (w.ctx k).view := congrFun (congrArg Surroundings.view aborted) k
        rw [State.ctx_setCtx]
        refine ⟨(congrArg CtxView.act view).trans alone.act, (congrArg CtxView.lates view).trans alone.lates, ?_, _, rfl, rfl, rfl⟩
        exact beq_iff_eq.1 ((congrArg CtxView.stopped view).trans (beq_iff_eq.2 alone.state))
  clear_value v
  split
  · exact halted
  · split
    · next a active =>
      rw [plain a (halted.act.symm.trans active)]
      exact halted
    · exact halted

theorem State.lateStop_eq {k : Nat} {r : LateRec} {rs : List LateRec} (h : (s.ctx k).lates = r :: rs) : s.lateStop k =
    s.stopCtx k { cause := 0x13, subcode := r.subcause, faultPc := 0, faultAddr := 0, word := 0, resumePc := (s.ctx k).pc } := by
  simp only [State.lateStop, h]

/-- A late fault is recorded in its context, and the context stops for the oldest where it may. -/
theorem lateFault_recorded {id : Nat} {p : PendingLate} (found : s.lates.find? (fun x => x.id == id) = some p)
    (active : (s.ctx p.ctx).act ≠ none) (same : (s.ctx p.ctx).actId = p.act) (plain : ∀ a, (s.ctx p.ctx).act = some a → a.tcb = none)
    {t : State} (run : exec (.lateFault id) s = .next t) :
    (t.ctx p.ctx).lates = (insertLate p.record (s.ctx p.ctx).lates).take 9 ∧
      (s.lateStops p.ctx = true → (s.ctx p.ctx).lates = [] → StoppedFor t p.ctx 0x13 p.record.subcause) := by
  have ctx := s.lateRecorded_ctx (id := id) (p := p)
  obtain ⟨r, rs, oldest⟩ := List.exists_cons_of_ne_nil (insertLate_ne_nil p.record (s.ctx p.ctx).lates)
  have lates : ((s.lateRecorded id p).ctx p.ctx).lates = r :: rs.take 8 := by rw [ctx, oldest]; rfl
  have unlinked : ∀ a, ((s.lateRecorded id p).ctx p.ctx).act = some a → a.tcb = none := by rw [ctx]; exact plain
  have stops := State.stopCtx_stopsAs unlinked (st := { cause := 0x13, subcode := r.subcause, faultPc := 0, faultAddr := 0, word := 0,
                                                        resumePc := ((s.lateRecorded id p).ctx p.ctx).pc })
  rw [exec_lateFault_recorded found active same, State.lateStop_eq lates] at run
  cases run
  split
  · refine ⟨stops.lates.trans ?_, fun _ first => ?_⟩
    · rw [ctx]
    · rw [first] at oldest
      cases oldest
      obtain ⟨st, here, cause, sub⟩ := stops.stop
      exact ⟨st, here, cause, sub, stops.state⟩
  · next runs => exact ⟨by rw [ctx], fun may _ => absurd (State.lateStops_lateRecorded may) runs⟩

end Sys2Proof.Machine
end

section
/-!
SUPPORT. Folios and the trap messages that follow them (R161, R162).
-/

namespace Sys2Proof.Machine

variable {s : State}

/-! ## Folios (R161, R162) -/

theorem exec_folioWrite_eq {k : Nat} {st : Stop} (stopped : (s.ctx k).stop = some st) : exec (.folioWrite k) s =
    if st.written || !s.folioReady k then .next s else .next (((s.writeFolio k st).deliverTrap k st).finishCheck (unitOf k)) := by
  show execFolioWrite k s = _
  unfold execFolioWrite
  rw [stopped]

theorem Launch.eq_of_uncounted {l m : Launch} (h : m.uncounted = l.uncounted) : m = { l with counters := m.counters } := by
  cases l
  cases m
  simp only [Launch.uncounted, Launch.mk.injEq] at h ⊢
  simp only [h, and_self]

section

variable {init : State} (h : s.Undisturbed init)
include h

theorem State.Undisturbed.ctx (k : Nat) : (s.ctx k).view = (init.ctx k).view := congrFun (congrArg Surroundings.view h) k

theorem State.Undisturbed.launch {tag : Nat} {l : Launch} (found : init.launch? tag = some l) :
    ∃ n, s.launch? tag = some { l with counters := n } := by
  have same : (s.launch? tag).map Launch.uncounted = (init.launch? tag).map Launch.uncounted :=
    congrFun (congrArg Surroundings.launch h) tag
  rw [found, Option.map_some, Option.map_eq_some_iff] at same
  obtain ⟨m, here, uncounted⟩ := same
  exact ⟨m.counters, here.trans (congrArg some (Launch.eq_of_uncounted uncounted))⟩

theorem State.Undisturbed.launchOf {k : Nat} {l : Launch} (found : init.launchOf k = some l) :
    ∃ n, s.launchOf k = some { l with counters := n } := by
  have tag : (s.ctx k).launch = (init.ctx k).launch := congrArg CtxView.launch (h.ctx k)
  rw [State.launchOf, tag]
  exact h.launch found

theorem State.Undisturbed.capsuleOf (l : Launch) : s.capsuleOf l = init.capsuleOf l := by
  have capsules : s.capsules = init.capsules := congrArg Surroundings.capsules h
  rw [State.capsuleOf, State.capsule?, capsules]
  rfl

theorem State.Undisturbed.portableLoc {k : Nat} {l : Launch} (found : init.launchOf k = some l) (pc : Word) :
    s.portableLoc k pc = init.portableLoc k pc := by
  obtain ⟨n, here⟩ := h.launchOf found
  have capsule : s.capsuleOf { l with counters := n } = init.capsuleOf l := h.capsuleOf _
  simp only [State.portableLoc, found, here, capsule]

theorem State.Undisturbed.folioVa {k : Nat} {l : Launch} (found : init.launchOf k = some l) : s.folioVa k = init.folioVa k := by
  obtain ⟨n, here⟩ := h.launchOf found
  simp only [State.folioVa, found, here]

theorem State.Undisturbed.whoWord (k : Nat) : s.whoWord k = init.whoWord k := by
  have package : s.package = init.package := congrArg Surroundings.package h
  rw [State.whoWord, State.placeOf, package]
  rfl

theorem State.Undisturbed.sessionHolds {tag : Nat} {l : Launch} (found : init.launch? tag = some l) :
    s.sessionHolds tag = init.sessionHolds tag := by
  obtain ⟨n, here⟩ := h.launch found
  have sessions : s.readroom.sessions = init.readroom.sessions := congrArg Surroundings.sessions h
  simp only [State.sessionHolds, State.sessionOf, found, here, sessions]

theorem State.Undisturbed.setStop (k : Nat) (st : Option Stop) :
    (s.setCtx k { s.ctx k with stop := st }).Undisturbed (init.setCtx k { init.ctx k with stop := st }) := by
  have views : ∀ j, ((s.setCtx k { s.ctx k with stop := st }).ctx j).view =
      ((init.setCtx k { init.ctx k with stop := st }).ctx j).view := fun j => by
    by_cases same : j = k
    · rw [same, State.ctx_setCtx, State.ctx_setCtx]
      exact congrArg (fun v : CtxView => { v with stop := st }) (h.ctx k)
    · rw [State.ctx_setCtx_other _ _ same, State.ctx_setCtx_other _ _ same, h.ctx j]
  have whole : s.surroundings = init.surroundings := h
  show { s.surroundings with view := fun j => ((s.setCtx k { s.ctx k with stop := st }).ctx j).view } = _
  rw [funext views, whole]
  rfl

end

theorem State.launchOf_of_folioVa {k : Nat} (place : s.folioVa k ≠ none) : ∃ l, s.launchOf k = some l := by
  refine Option.ne_none_iff_exists'.1 fun none => place ?_
  simp only [State.folioVa, none]

/-- The record of a stop whose folio is written (R161). -/
def State.noted (s : State) (k : Nat) (st : Stop) : Stop :=
  { st with written := true, digestAt := s.freeCtr, location := s.portableLoc k st.resumePc }

/-- A state with a stop noted as written and the free counter gone on: all that the folio's stores leave of a difference. -/
def State.withNote (s : State) (k : Nat) (st : Stop) : State :=
  { s.setCtx k { s.ctx k with stop := some (s.noted k st) } with freeCtr := s.freeCtr + 1 }

/-- The note on a stop is the same after stores that left the surroundings alone. -/
theorem State.Undisturbed.withNote {u : State} {k : Nat} {l : Launch} (h : u.Undisturbed s) (found : s.launchOf k = some l) (st : Stop) :
    (u.withNote k st).Undisturbed (s.withNote k st) ∧ ((u.withNote k st).ctx k).stop = some (s.noted k st) := by
  have counter : u.freeCtr = s.freeCtr := congrArg Surroundings.freeCtr h
  have note : u.noted k st = s.noted k st := by
    rw [State.noted, counter, h.portableLoc found]
    rfl
  rw [State.withNote, note, counter]
  refine ⟨?_, congrArg Ctx.stop (State.ctx_setCtx _ _ _)⟩
  exact congrArg (fun x : Surroundings => { x with freeCtr := s.freeCtr + 1 }) (h.setStop k (some (s.noted k st)))

theorem State.writeFolio_eq {k : Nat} {va : Word} (place : s.folioVa k = some va) (st : Stop) :
    s.writeFolio k st = (s.writeFolioFrom k st va 0 2304).withNote k st := by
  simp only [State.writeFolio, place]
  rfl

theorem State.writeFolio_undisturbed {k : Nat} {st : Stop} (place : s.folioVa k ≠ none) :
    (s.writeFolio k st).Undisturbed (s.withNote k st) ∧ ((s.writeFolio k st).ctx k).stop = some (s.noted k st) := by
  obtain ⟨va, here⟩ := Option.ne_none_iff_exists'.1 place
  obtain ⟨l, found⟩ := State.launchOf_of_folioVa place
  rw [State.writeFolio_eq here]
  exact State.Undisturbed.withNote ((State.Undisturbed.refl s).writeFolioFrom) found st

theorem State.deliverTrap_of_held {k : Nat} {st : Stop} (held : st.held = true) : s.deliverTrap k st = s := if_pos held

theorem State.finishCheck_of_unchecked {u : Nat} (unchecked : (s.tile u).checking = false) : s.finishCheck u = s :=
  if_pos (by simp [unchecked])

/-- The words of a trap message to the handler of its class (R162). -/
def State.trapWords (s : State) (k : Nat) (st : Stop) (h : Nat) : List Word :=
  headerWord (s.placeOf (coreOf k)) (s.ctx k).launch 7 0 4 h ::
    [(s.folioVa k).getD 0, trapWord st.cause st.subcode none 0, s.whoWord k, st.faultPc]

theorem State.deliverTrap_posts {k cls h : Nat} {st : Stop} {a : Act} {l : Launch} (released : st.held = false)
    (noLates : (s.ctx k).lates = []) (classed : trapClass st.cause = some cls)
    (free : st.cause = 0x12 → s.sessionHolds (s.ctx k).launch = false)
    (active : (s.ctx k).act = some a) (plain : a.trapHandler = false) (launch : s.launch? (s.ctx k).launch = some l)
    (uncancelled : l.cancel = none) (handler : (s.capsuleOf l).bind (fun p => assoc p.traps cls) = some h) :
    s.deliverTrap k st = s.post none 0 (agentKey (unitOf k) 3) (s.ctx k).launch (s.trapWords k st h) := by
  have unheld : (decide (st.cause = 0x12) && s.sessionHolds (s.ctx k).launch) = false := by
    by_cases breaks : st.cause = 0x12
    · rw [free breaks, Bool.and_false]
    · simp [breaks]
  have recorded : (s.ctx k).recorded st = (st.cause, st.subcode) := by simp only [Ctx.recorded, noLates]
  simp only [State.deliverTrap, recorded, released, classed, unheld, active, plain, State.trapMessage, launch, uncancelled, handler,
    noLates]
  rfl

theorem field_headerWord_handler (source tag kind depth n h : Nat) : Word.field (headerWord source tag kind depth n h) 0 12 = h % 4096 := by
  simp only [Word.field, headerWord, BitVec.toNat_ofNat]
  omega

theorem field_headerWord_kind (source tag kind depth n h : Nat) : Word.field (headerWord source tag kind depth n h) 21 3 = kind % 8 := by
  simp only [Word.field, headerWord, BitVec.toNat_ofNat]
  omega

theorem State.withNote_ctx (k : Nat) (st : Stop) : (s.withNote k st).ctx k = { s.ctx k with stop := some (s.noted k st) } :=
  State.ctx_setCtx _ _ _

theorem State.withNote_launchOf (k : Nat) (st : Stop) : (s.withNote k st).launchOf k = s.launchOf k := by
  rw [State.launchOf, State.withNote_ctx]
  rfl

theorem State.withNote_folioVa (k : Nat) (st : Stop) : (s.withNote k st).folioVa k = s.folioVa k := by
  rw [State.folioVa, State.withNote_launchOf]
  rfl

section

variable {k : Nat} {st : Stop} (place : s.folioVa k ≠ none) (unchecked : (s.tile (unitOf k)).checking = false)
include place

theorem State.writeFolio_msgs : (s.writeFolio k st).msgs = s.msgs := congrArg Surroundings.msgs (State.writeFolio_undisturbed place).1

theorem State.writeFolio_checking (u : Nat) : ((s.writeFolio k st).tile u).checking = (s.tile u).checking :=
  congrFun (congrArg Surroundings.checking (State.writeFolio_undisturbed place).1) u

include unchecked

/-- A stop that a debug session holds has its folio written and sends nothing (R161, R228). -/
theorem State.folio_held (held : st.held = true) : ((s.writeFolio k st).deliverTrap k st).finishCheck (unitOf k) = s.writeFolio k st := by
  rw [State.deliverTrap_of_held held, State.finishCheck_of_unchecked ((State.writeFolio_checking place _).trans unchecked)]

/-- A trap's message goes to the handler of its class, with the words of the state before the folio was written (R162). -/
theorem State.folio_posts {cls h : Nat} {a : Act} {l : Launch} (released : st.held = false) (noLates : (s.ctx k).lates = [])
    (classed : trapClass st.cause = some cls) (free : st.cause = 0x12 → s.sessionHolds (s.ctx k).launch = false)
    (active : (s.ctx k).act = some a) (plain : a.trapHandler = false) (launch : s.launch? (s.ctx k).launch = some l)
    (uncancelled : l.cancel = none) (handler : (s.capsuleOf l).bind (fun p => assoc p.traps cls) = some h) :
    ((s.writeFolio k st).deliverTrap k st).finishCheck (unitOf k) =
      (s.writeFolio k st).post none 0 (agentKey (unitOf k) 3) (s.ctx k).launch (s.trapWords k st h) := by
  have same := (State.writeFolio_undisturbed (st := st) place).1
  have view : ((s.writeFolio k st).ctx k).view = _ := same.ctx k
  rw [State.withNote_ctx] at view
  have tag : ((s.writeFolio k st).ctx k).launch = (s.ctx k).launch := congrArg CtxView.launch view
  obtain ⟨n, found⟩ := same.launch (show (s.withNote k st).launch? (s.ctx k).launch = some l from launch)
  have capsule : (s.writeFolio k st).capsuleOf { l with counters := n } = s.capsuleOf l := same.capsuleOf _
  have words : (s.writeFolio k st).trapWords k st h = s.trapWords k st h := by
    have va : (s.writeFolio k st).folioVa k = s.folioVa k :=
      (same.folioVa ((State.withNote_launchOf k st).trans launch)).trans (State.withNote_folioVa k st)
    have who : (s.writeFolio k st).whoWord k = s.whoWord k := same.whoWord k
    have package : (s.writeFolio k st).package = s.package := congrArg Surroundings.package same
    rw [State.trapWords, va, who, tag, State.placeOf, package]
    rfl
  have posts := State.deliverTrap_posts (s := s.writeFolio k st) (k := k) (st := st) (l := { l with counters := n }) released
    ((congrArg CtxView.lates view).trans noLates) classed (fun breaks => by rw [tag]; exact (same.sessionHolds launch).trans (free breaks))
    ((congrArg CtxView.act view).trans active) plain (by rw [tag]; exact found) uncancelled (by rw [capsule]; exact handler)
  rw [posts, tag, words]
  exact State.finishCheck_of_unchecked ((State.writeFolio_checking place _).trans unchecked)

end

end Sys2Proof.Machine
end

section
/-!
SUPPORT. Timed waits, gating, heat and monitors (R34, R46, R229, R230, R231).
-/

namespace Sys2Proof.Machine

variable {s : State}

/-! ## Timed waits, gating and heat (R34, R46, R111, R230, R231) -/

theorem exec_pauseEnd_of_window {k c0 : Nat} (window : (s.ctx k).window = some c0) : exec (.pauseEnd k) s =
    if c0 ≤ s.cycle then
      .next (s.setCtx k { s.ctx k with window := none, state := if (s.ctx k).state = .background then .ready else (s.ctx k).state })
    else .next s := by
  show execPauseEnd k s = _
  simp only [execPauseEnd, window]

theorem exec_pauseEnd_of_none {k : Nat} (window : (s.ctx k).window = none) : exec (.pauseEnd k) s = .next s := by
  show execPauseEnd k s = _
  simp only [execPauseEnd, window]

theorem exec_alignTimeout_of_wait {k i expiry : Nat} {ks : List Nat} (wait : (s.ctx k).align = some (i, expiry, ks)) :
    exec (.alignTimeout k) s =
      if expiry ≤ s.cycle && (s.ctx k).state = .stalled then .next (s.setCtx k ({ s.ctx k with align := none }.next 4)) else .next s := by
  show execAlignTimeout k s = _
  simp only [execAlignTimeout, wait]

theorem exec_idleClockGate_of_since {u c0 : Nat} (since : (s.tile u).idleSince = some c0) : exec (.idleClockGate u) s =
    if isTile u && c0 + 4096 ≤ s.cycle && s.tileIdle u then .next (s.setTile u { s.tile u with gated := true }) else .next s := by
  show execIdleClockGate u s = _
  simp only [execIdleClockGate, since]

theorem exec_idleClockGate_of_busy {u : Nat} (busy : s.tileIdle u = false ∨ (s.tile u).idleSince = none) :
    exec (.idleClockGate u) s = .next s := by
  cases since : (s.tile u).idleSince with
  | none =>
    show execIdleClockGate u s = _
    simp only [execIdleClockGate, since]
  | some c0 =>
    have works : s.tileIdle u = false := busy.resolve_right (by simp [since])
    rw [exec_idleClockGate_of_since since, if_neg (by simp [works])]

theorem State.StandsAs.out {init : State} (h : s.StandsAs init) {u : Nat} (out : (init.tile u).inService = false) :
    (s.tile u).inService = false :=
  Bool.eq_false_iff.2 fun serves => Bool.false_ne_true (out.symm.trans (h.2.2 u serves))

/-- A machine check takes its tile out of service (R21). -/
theorem State.machineCheck_out (u : Nat) : ((s.machineCheck u).tile u).inService = false := by
  unfold State.machineCheck
  generalize halted : ((s.logError true).haltCtxs 0x15 (tileCtxs u)) = t
  have out : ((t.quarantine u).tile u).inService = false := congrArg Tile.inService (State.tile_setTile t u _)
  dsimp only
  split
  · next off => simpa using off
  · have checking := State.StandsAs.refl ((t.quarantine u).setTile u { (t.quarantine u).tile u with checking := true })
    refine (State.StandsAs.finishCheck (State.StandsAs.launchEvent checking)).out ?_
    rw [State.tile_setTile]
    exact out

/-- The state after a machine check of every tile. -/
def State.allChecked (s : State) : State := (List.range 288).foldl (fun (s : State) u => s.machineCheck u) s

theorem State.foldl_machineCheck_out (l : List Nat) :
    ∀ u ∈ l, ((l.foldl (fun (s : State) u => s.machineCheck u) s).tile u).inService = false := by
  induction l generalizing s with
  | nil => exact fun _ h => absurd h List.not_mem_nil
  | cons k r ih =>
    have rest : (r.foldl (fun (s : State) u => s.machineCheck u) (s.machineCheck k)).StandsAs (s.machineCheck k) :=
      .foldl (.refl _) fun _ _ ht => ht.machineCheck
    exact List.forall_mem_cons.2 ⟨rest.out (State.machineCheck_out k), ih⟩

theorem State.allChecked_out {u : Nat} (hu : u < 288) : (s.allChecked.tile u).inService = false :=
  State.foldl_machineCheck_out (List.range 288) u (List.mem_range.2 hu)

theorem exec_thermalLimit_eq (celsius : Nat) : exec (.thermalLimit celsius) s =
    if 110 ≤ celsius then .next { s.allChecked with vault := { s.allChecked.vault with stopped := true, throttled := true } }
    else if 95 ≤ celsius then .next { s with vault := { s.vault with throttled := true } }
    else .next { s with vault := { s.vault with throttled := false } } := by
  show execThermalLimit celsius s = _
  unfold execThermalLimit State.allChecked
  rfl

/-! ## Monitors (R229) -/

theorem monitorBin_iff {v i : Nat} (hi : i < 16) :
    (if v = 0 then i = 0 else 1 ≤ i ∧ 2 ^ (i - 1) ≤ v ∧ (v < 2 ^ i ∨ i = 15)) ↔ i = monitorBin v := by
  unfold monitorBin
  by_cases zero : v = 0
  · simp [zero]
  · rw [if_neg zero, if_neg zero, ← Nat.le_log2 zero, ← Nat.log2_lt zero]
    omega

theorem State.measured_at {source : Nat}
    (due : (source = 9 ∧ s.cycle % 128 = 0) ∨ (source ∈ [11, 12] ∧ s.cycle % 1024 = 0)) : s.measured source = true := by
  rcases due with ⟨rfl, time⟩ | ⟨which, time⟩
  · simp [State.measured, measuredEvery, time]
  · rcases List.mem_pair.1 which with rfl | rfl <;> simp [State.measured, measuredEvery, time]

theorem get_take_bins (m : Monitor) (v : Nat) {i : Nat} (hi : i < 16) : Tbl.get 0 (m.take v).bins i =
    if (if v = 0 then i = 0 else 1 ≤ i ∧ 2 ^ (i - 1) ≤ v ∧ (v < 2 ^ i ∨ i = 15)) then min (Tbl.get 0 m.bins i + 1) 0xFFFFFFFF
    else Tbl.get 0 m.bins i := by
  rw [if_congr (monitorBin_iff hi) rfl rfl]
  split
  · next here => exact here ▸ Tbl.get_set_self _ _ _
  · next other => exact Tbl.get_set_other other _ _

theorem exec_monitorSample_of_measured {cluster slot v : Nat} {m : Monitor} (hm : Tbl.get {} (s.cluster cluster).monitors slot = m)
    (held : m.launch ≠ none) (due : s.measured m.source = true) : ∃ t : State, exec (.monitorSample cluster slot v) s = .next t ∧
      Tbl.get {} (t.cluster cluster).monitors slot = m.take v := by
  subst hm
  refine ⟨_, if_neg (by simp [held, due]), ?_⟩
  rw [State.cluster_setCluster]
  exact Tbl.get_set_self _ _ _

end Sys2Proof.Machine
end

section
/-!
The statement on the hardware at work.
-/

namespace Sys2Proof

open Machine

/-- Settles O51, clause by clause: each event by the case its guard names. -/
theorem hardwareAtWork : Obligations.HardwareAtWork := by
  unfold Obligations.HardwareAtWork
  rintro s k c rfl
  refine ⟨fun cluster root va => ⟨fun _ _ walk good owner => exec_pageWalkComplete_of_leaf walk good owner,
      exec_pageWalkComplete_of_fault⟩, fun cluster line bad => ?_, ?_,
    fun slot home => ⟨exec_commitMerge_of_idle, fun committing due => ?_⟩, fun id p found => ?_,
    fun st stopped => ⟨fun done => ?_, fun fresh ready => ⟨?_, fun held unchecked place => ?_, ?_⟩⟩, exec_pauseEnd_of_none,
    fun c0 window => ⟨fun early => ?_, fun due => ?_⟩, fun i expiry ks wait => ⟨fun early => ?_, fun due stalled => ?_⟩,
    fun u => ⟨fun c0 tile idle since due => ?_, exec_idleClockGate_of_busy⟩,
    fun celsius => ⟨fun cool => ?_, fun warm below => ?_, fun hot => ?_⟩,
    fun cluster slot v => ⟨fun off => ?_, fun held due => ?_⟩⟩
  · obtain ⟨q, run, holds⟩ := exec_instructionLineFill (s := s) cluster line bad
    obtain ⟨mem, ctxs, errors⟩ := s.counted_frame (s.memoryLine line bad).bad
    exact ⟨_, run, mem, ctxs, by rw [State.cluster_setCluster]; exact holds, errors⟩
  · have edges := s.sameEdges_closed
    exact ⟨{ s with dir := s.closed }, rfl, rfl, edges.pred, edges.phase, fun _ a b _ hb live edge => State.closed_direct hb live edge⟩
  · obtain ⟨seen, run⟩ := exec_commitMerge_of_due committing due
    refine ⟨_, run, ⟨seen, State.slot_setSlot _ _ _⟩, rfl, fun v alone distinct within => ?_⟩
    exact State.merged_alone alone distinct within
  · obtain ⟨t, run, stands⟩ := exec_lateFault_standsAs found
    refine ⟨t, run, stands.lateGone, ?_⟩
    rintro rfl active same plain
    exact lateFault_recorded found active same plain run
  · rw [exec_folioWrite_eq stopped, if_pos (by simpa using done)]
  · rw [exec_folioWrite_eq stopped, if_neg (by simp [fresh, ready])]
  · rw [exec_folioWrite_eq stopped, if_neg (by simp [fresh, ready]), State.folio_held place unchecked held]
    exact ⟨_, rfl, (State.writeFolio_undisturbed place).2, State.writeFolio_msgs place⟩
  · intro l cls h a released unchecked noLates classed place free active plain launch uncancelled handler
    rw [exec_folioWrite_eq stopped, if_neg (by simp [fresh, ready]),
      State.folio_posts place unchecked released noLates classed free active plain launch uncancelled handler]
    refine ⟨_, _, rfl, congrArg (· ++ _) (State.writeFolio_msgs place), rfl, ?_, ?_, rfl⟩
    · exact field_headerWord_handler _ _ _ _ _ h
    · exact field_headerWord_kind _ _ _ _ _ h
  · rw [exec_pauseEnd_of_window window, if_neg (Nat.not_le.2 early)]
  · rw [exec_pauseEnd_of_window window, if_pos due]
  · rw [exec_alignTimeout_of_wait wait, if_neg (by simp [early])]
  · rw [exec_alignTimeout_of_wait wait, if_pos (by simp [due, stalled])]
    refine ⟨_, rfl, ?_, ?_, ?_, fun n hn => State.ctx_setCtx_other _ _ hn⟩ <;> rw [State.ctx_setCtx] <;> rfl
  · rw [exec_idleClockGate_of_since since, if_pos (by simp [tile, idle, due])]
  · rw [exec_thermalLimit_eq, if_neg (by omega), if_neg (by omega)]
  · rw [exec_thermalLimit_eq, if_neg (by omega), if_pos warm]
  · have out : ∀ u < 288, (s.allChecked.tile u).inService = false := fun _ => State.allChecked_out
    rw [exec_thermalLimit_eq, if_pos hot]
    generalize s.allChecked = t at out ⊢
    exact ⟨_, rfl, rfl, rfl, out⟩
  · exact if_pos (by simpa using off)
  · have measured := State.measured_at due
    obtain ⟨t, run, took⟩ := exec_monitorSample_of_measured rfl held measured
    exact ⟨t, _, run, took, rfl, rfl, rfl, rfl, rfl, fun i hi => get_take_bins _ v hi⟩

end Sys2Proof
end

section
/-!
SUPPORT. What a store leaves of the line it writes and of the marks: the cipher keeps a line's length, and a line brought under a key
reads under it as before (R74, R171, R195).
-/

namespace Sys2Proof.Machine

/-! ## The length of a line under a cipher -/

theorem keyBytes_length (id n : Nat) : (keyBytes id n).length = n := by
  unfold keyBytes
  split <;> simp [toBytes, lowBytes]

theorem xorList_length {a b : List Nat} {n : Nat} (ha : a.length = n) (hb : b.length = n) : (xorList a b).length = n := by
  rw [xorList, List.length_zipWith, ha, hb, Nat.min_self]

/-- The words of the key schedule so far: at least eight, each of four bytes. -/
def ScheduleWords (ws : List (List Nat)) (n : Nat) : Prop := ws.length = n ∧ 8 ≤ n ∧ ∀ w ∈ ws, w.length = 4

theorem ScheduleWords.next {ws : List (List Nat)} {n : Nat} (h : ScheduleWords ws n) (i : Nat) :
    ScheduleWords (nextWord i ws :: ws) (n + 1) := by
  obtain ⟨count, least, each⟩ := h
  refine ⟨by rw [List.length_cons, count], by omega, List.forall_mem_cons.2 ⟨?_, each⟩⟩
  have last : (ws.headD []).length = 4 := by
    cases ws with
    | nil => simp at count; omega
    | cons w r => exact each w List.mem_cons_self
  have eighth : (ws.getD 7 []).length = 4 := by
    rw [List.getD_eq_getElem (hn := by omega)]
    exact each _ (List.getElem_mem _)
  unfold nextWord
  refine xorList_length eighth ?_
  split
  · split
    · next x r turned =>
      have := congrArg List.length turned
      simp only [List.length_map, List.length_append, List.length_drop, List.length_take, List.length_cons] at this ⊢
      omega
    · next turned =>
      have := congrArg List.length turned
      simp only [List.length_map, List.length_append, List.length_drop, List.length_take, List.length_nil] at this
      omega
  · split
    · rw [List.length_map, last]
    · exact last

theorem scheduleWords_foldl {ws : List (List Nat)} {n : Nat} (h : ScheduleWords ws n) (js : List Nat) :
    ScheduleWords (js.foldl (fun ws j => nextWord (j + 8) ws :: ws) ws) (n + js.length) := by
  induction js generalizing ws n with
  | nil => exact h
  | cons j r ih =>
    rw [List.foldl_cons, List.length_cons, Nat.add_comm r.length 1, ← Nat.add_assoc]
    exact ih (h.next (j + 8))

theorem scheduleWords_first {key : List Nat} (h : key.length = 32) :
    ScheduleWords ((List.range 8).map (fun i => (key.drop (4 * i)).take 4)).reverse 8 := by
  refine ⟨by simp, by omega, fun w hw => ?_⟩
  obtain ⟨i, hi, rfl⟩ := List.mem_map.1 (List.mem_reverse.1 hw)
  have := List.mem_range.1 hi
  rw [List.length_take, List.length_drop]
  omega

theorem length_flatten_four {ws : List (List Nat)} (each : ∀ w ∈ ws, w.length = 4) : ws.flatten.length = 4 * ws.length := by
  induction ws with
  | nil => rfl
  | cons w r ih =>
    obtain ⟨here, there⟩ := List.forall_mem_cons.1 each
    rw [List.flatten_cons, List.length_append, here, ih there, List.length_cons]
    omega

/-- Fifteen round keys of sixteen bytes each. -/
theorem roundKeys_lengths {key : List Nat} (h : key.length = 32) : (roundKeys key).length = 15 ∧ ∀ k ∈ roundKeys key, k.length = 16 := by
  obtain ⟨count, -, each⟩ := scheduleWords_foldl (scheduleWords_first h) (List.range 52)
  refine ⟨by simp [roundKeys], fun k hk => ?_⟩
  obtain ⟨r, hr, rfl⟩ := List.mem_map.1 hk
  have := List.mem_range.1 hr
  rw [length_flatten_four fun w hw => each w (List.mem_reverse.1 (List.mem_of_mem_drop (List.mem_of_mem_take hw))), List.length_take,
    List.length_drop, List.length_reverse, count, List.length_range]
  omega

theorem encryptRounds_length {ks : List (List Nat)} (some : ks ≠ []) (each : ∀ k ∈ ks, k.length = 16) (b : List Nat) :
    (encryptRounds ks b).length = 16 := by
  fun_induction encryptRounds ks b with
  | case1 => exact absurd rfl some
  | case2 k b => exact xorList_length (by simp [pick, shiftRows]) (each k List.mem_cons_self)
  | case3 b k r more ih => exact ih (by simpa using more) fun k hk => each k (List.mem_cons_of_mem _ hk)

theorem decryptRounds_length {ks : List (List Nat)} (some : ks ≠ []) (each : ∀ k ∈ ks, k.length = 16) (b : List Nat) :
    (decryptRounds ks b).length = 16 := by
  fun_induction decryptRounds ks b with
  | case1 => exact absurd rfl some
  | case2 k b => exact xorList_length (by simp [pick, unshiftRows]) (each k List.mem_cons_self)
  | case3 b k r more ih => exact ih (by simpa using more) fun k hk => each k (List.mem_cons_of_mem _ hk)

theorem aesEncrypt_length {key : List Nat} (h : key.length = 32) (b : List Nat) : (aesEncrypt (roundKeys key) b).length = 16 := by
  obtain ⟨count, each⟩ := roundKeys_lengths h
  refine encryptRounds_length (fun none => ?_) (fun k hk => each k (List.mem_of_mem_drop hk)) _
  have := congrArg List.length none
  simp [count] at this

theorem aesDecrypt_length {key : List Nat} (h : key.length = 32) (b : List Nat) : (aesDecrypt (roundKeys key) b).length = 16 := by
  obtain ⟨count, each⟩ := roundKeys_lengths h
  refine decryptRounds_length (fun none => ?_) (fun k hk => each k (List.mem_reverse.1 (List.mem_of_mem_drop hk))) _
  have := congrArg List.length none
  simp [count] at this

theorem xtsBlocks_length {cipher : List Nat → List Nat} (h : ∀ b, (cipher b).length = 16) (n t : Nat) (bs : List Nat) :
    (xtsBlocks cipher n t bs).length = 16 * n := by
  induction n generalizing t bs with
  | zero => rfl
  | succ n ih =>
    rw [xtsBlocks, List.length_append, xorList_length (h _) (by simp [lowBytes]), ih]
    omega

theorem toNats_take_keyBytes_length (id : Nat) : (toNats ((keyBytes id 64).take 32)).length = 32 := by
  rw [toNats, List.length_map, List.length_take, keyBytes_length]
  rfl

theorem xtsEncrypt_keyBytes_length (id tweak : Nat) (line : List Byte) : (xtsEncrypt (keyBytes id 64) tweak line).length = 64 := by
  rw [xtsEncrypt, toBytes, List.length_map, xtsBlocks_length (aesEncrypt_length (toNats_take_keyBytes_length id))]

theorem xtsDecrypt_keyBytes_length (id tweak : Nat) (line : List Byte) : (xtsDecrypt (keyBytes id 64) tweak line).length = 64 := by
  rw [xtsDecrypt, toBytes, List.length_map, xtsBlocks_length (aesDecrypt_length (toNats_take_keyBytes_length id))]

/-- A line has 64 bytes under every key (R195). -/
theorem State.lineAs_length (s : State) (kid line : Nat) : (s.lineAs kid line).length = 64 := by
  unfold State.lineAs
  dsimp only
  split
  · split
    · rw [List.length_map, List.length_range]
    · exact xtsEncrypt_keyBytes_length ..
  · exact xtsDecrypt_keyBytes_length ..

/-! ## A line brought under a key -/

variable {s : State} {kid : Nat}

theorem State.mem_get_fold_self {f : Nat → Nat} (inj : ∀ i j, f i = f j → i = j) {l : List (Nat × Byte)} (distinct : (l.map (·.1)).Nodup)
    {p : Nat × Byte} (hp : p ∈ l) (s : State) :
    Tbl.get 0 (l.foldl (fun (t : State) p => { t with mem := Tbl.set 0 t.mem (f p.1) p.2 }) s).mem (f p.1) = p.2 := by
  induction l generalizing s with
  | nil => cases hp
  | cons q r ih =>
    rw [List.map_cons, List.nodup_cons] at distinct
    rw [List.foldl_cons]
    rcases List.mem_cons.1 hp with rfl | hp
    · rw [State.mem_get_fold_other f r fun x hx same => distinct.1 (List.mem_map.2 ⟨x, hx, (inj _ _ same).symm⟩)]
      exact Tbl.get_set_self _ _ _
    · exact ih distinct.2 hp _

/-- Brought under a key, a line holds what it reads as under that key. -/
theorem State.mem_get_rekeyLine (s : State) (kid a : Nat) : Tbl.get 0 (s.rekeyLine kid (a / 64)).mem a = s.readByte kid a := by
  unfold State.rekeyLine
  split
  · next written => exact (State.readByte_of_key written).symm
  · next other =>
    have place : a % 64 < (s.lineAs kid (a / 64)).length := by rw [State.lineAs_length]; omega
    have listed : (a % 64, (s.lineAs kid (a / 64))[a % 64]) ∈ List.zip (List.range 64) (s.lineAs kid (a / 64)) :=
      List.mem_iff_getElem.2 ⟨a % 64, by rw [List.length_zip, List.length_range, State.lineAs_length]; omega, by simp⟩
    have distinct : ((List.zip (List.range 64) (s.lineAs kid (a / 64))).map (·.1)).Nodup := by
      rw [List.map_fst_zip (by rw [List.length_range, State.lineAs_length])]
      exact List.nodup_range
    have held := State.mem_get_fold_self (f := fun i => a / 64 * 64 + i) (fun i j same => by omega) distinct listed s
    rw [show a / 64 * 64 + a % 64 = a by omega] at held
    rw [State.readByte, if_neg other, nth, List.getElem?_eq_getElem place]
    exact held

theorem State.readByte_rekeyLine (s : State) (kid line a : Nat) : (s.rekeyLine kid line).readByte kid a = s.readByte kid a := by
  by_cases here : a / 64 = line
  · subst here
    rw [State.readByte_of_key (State.lineKey_rekeyLine s kid (a / 64)), State.mem_get_rekeyLine]
  · exact (State.sameLine_rekeyLine here kid).readByte kid

/-- A byte stored leaves every other byte, of its own line too, as it read under the store's key (R195). -/
theorem State.readByte_writeByte_apart {a key : Nat} (apart : a ≠ key) (b : Byte) (bad : Bool) :
    (s.writeByte kid key b bad).readByte kid a = s.readByte kid a := by
  rw [State.writeByte, ← s.readByte_rekeyLine kid (key / 64) a]
  by_cases line : a / 64 = key / 64
  · exact State.readByte_pokeByte_other (line ▸ State.lineKey_rekeyLine s kid (key / 64)) apart b bad
  · exact State.readByte_pokeByte_line _ line kid b bad

theorem State.readByte_writeBytes_apart {a key : Nat} {l : List (Nat × Byte)} (apart : ∀ p ∈ l, a ≠ key + p.1) (bad : Bool) :
    (s.writeBytes kid key bad l).readByte kid a = s.readByte kid a := by
  induction l generalizing s with
  | nil => rfl
  | cons p r ih =>
    obtain ⟨here, there⟩ := List.forall_mem_cons.1 apart
    rw [State.writeBytes, ih there, State.readByte_writeByte_apart here]

/-! ## The marks -/

theorem State.writeByte_bad (s : State) (kid key : Nat) (b : Byte) (bad : Bool) :
    (s.writeByte kid key b bad).bad = Tbl.set false s.bad key bad := by
  obtain ⟨mem, lineKey, h⟩ := s.rekeyLine_frame kid (key / 64)
  rw [State.writeByte, h]
  rfl

theorem State.bad_writeBytes_apart {a key : Nat} {l : List (Nat × Byte)} (apart : ∀ p ∈ l, a ≠ key + p.1) (bad : Bool) :
    Tbl.get false (s.writeBytes kid key bad l).bad a = Tbl.get false s.bad a := by
  induction l generalizing s with
  | nil => rfl
  | cons p r ih =>
    obtain ⟨here, there⟩ := List.forall_mem_cons.1 apart
    rw [State.writeBytes, ih there, State.writeByte_bad]
    exact Tbl.get_set_other here _ bad

theorem State.bad_writeBytes {key : Nat} {bad : Bool} {l : List (Nat × Byte)} (distinct : (l.map (·.1)).Nodup) {p : Nat × Byte}
    (hp : p ∈ l) : Tbl.get false (s.writeBytes kid key bad l).bad (key + p.1) = bad := by
  induction l generalizing s with
  | nil => cases hp
  | cons q r ih =>
    rw [List.map_cons, List.nodup_cons] at distinct
    rw [State.writeBytes]
    rcases List.mem_cons.1 hp with rfl | hp
    · rw [State.bad_writeBytes_apart fun x hx same => distinct.1 (List.mem_map.2 ⟨x, hx, by omega⟩), State.writeByte_bad]
      exact Tbl.get_set_self _ _ bad
    · exact ih distinct.2 hp

end Sys2Proof.Machine
end

section
/-!
The statement on a store's bytes.
-/

namespace Sys2Proof

open Machine

/-- Settles O19: bytes stored stand, and a line brought under the store's key reads under it as before. -/
theorem storeWritesItsBytes : Obligations.StoreWritesItsBytes := by
  unfold Obligations.StoreWritesItsBytes
  intro s kid key bad bs distinct
  refine ⟨fun p hp => ⟨(s.stands_writeBytes kid key bad distinct hp).readByte, State.bad_writeBytes distinct hp⟩,
    fun a apart => ⟨State.readByte_writeBytes_apart apart bad, State.bad_writeBytes_apart apart bad⟩, fun a kid' apart => ?_⟩
  exact (State.sameLine_writeBytes kid bad apart).readByte kid'

end Sys2Proof
end

section
/-!
SUPPORT. The accesses of one instruction put on their way: one per part, and what they leave as it was (R78, R312, R356).
-/

namespace Sys2Proof.Machine

variable {s : State}

/-- Memory reads the same where its bytes and the keys of its lines are the same. -/
theorem State.readByte_congr {t : State} (mem : t.mem = s.mem) (lineKey : t.lineKey = s.lineKey) (kid key : Nat) :
    t.readByte kid key = s.readByte kid key := by
  simp only [State.readByte, State.lineAs, mem, lineKey]

/-! ## Flits to another package -/

theorem State.sendHome_frame (s : State) (t : Txn) : ∃ ports flits, s.sendHome t = { s with ports := ports, flits := flits } := by
  unfold State.sendHome
  split
  · exact ⟨_, _, rfl⟩
  · exact ⟨_, _, rfl⟩

theorem State.sendHome_of_local {t : Txn} (here : s.remotePlane t.home = none) : s.sendHome t = s := by
  rw [State.sendHome, here]

/-! ## Accesses put on their way -/

/-- The access of one part, under the number it is given (R312). -/
def State.partTxn (s : State) (proto : Txn) (op : Part → TxnOp) (id : Nat) (p : Part) : Txn :=
  { proto with id := id, home := p.home, op := op p, va := proto.va + BitVec.ofNat 64 p.off,
               key := p.key, n := p.len, kid := p.kid, size := p.size, region := s.tagFor proto.ctx }

/-- A state with accesses in flight added under the next numbers. -/
def State.withParts (s : State) (proto : Txn) (op : Part → TxnOp) (ps : List Part) : State :=
  { s with txns := s.txns ++ ps.mapIdx (fun j p => s.partTxn proto op (s.nextId + j) p), nextId := s.nextId + ps.length }

theorem State.withParts_nil (proto : Txn) (op : Part → TxnOp) : s.withParts proto op [] = s := by
  simp [State.withParts]

theorem State.withParts_cons (s : State) (ports : Tbl Port) (flits : List (Nat × List Byte)) (proto : Txn) (op : Part → TxnOp) (p : Part)
    (r : List Part) : ({ s.fresh with txns := s.txns ++ [s.partTxn proto op s.nextId p], ports := ports, flits := flits }).withParts
      proto op r = { s.withParts proto op (p :: r) with ports := ports, flits := flits } := by
  have number : ∀ j, s.nextId + 1 + j = s.nextId + (j + 1) := fun j => by omega
  simp only [State.withParts, List.mapIdx_cons, State.fresh, List.append_assoc, List.singleton_append, number, List.length_cons,
    Nat.add_zero]
  rfl

/-- One access per part is put on its way, and ports and flits alone change besides. -/
theorem State.putParts_frame (s : State) (proto : Txn) (op : Part → TxnOp) (ps : List Part) :
    ∃ ports flits, s.putParts proto op ps = { s.withParts proto op ps with ports := ports, flits := flits } := by
  induction ps generalizing s with
  | nil => exact ⟨_, _, (State.withParts_nil proto op).symm⟩
  | cons p r ih =>
    obtain ⟨ports, flits, sent⟩ := State.sendHome_frame { s.fresh with txns := s.txns ++ [s.partTxn proto op s.nextId p] }
      (s.partTxn proto op s.nextId p)
    obtain ⟨ports', flits', rest⟩ := ih { s.fresh with
      txns := s.txns ++ [s.partTxn proto op s.nextId p], ports := ports, flits := flits }
    refine ⟨ports', flits', ?_⟩
    rw [State.withParts_cons] at rest
    refine Eq.trans ?_ rest
    exact congrArg (fun t : State => t.putParts proto op r) sent

/-- Where every home lies in this package, no port and no flit changes either. -/
theorem State.putParts_of_local {ps : List Part} (here : ∀ p ∈ ps, s.remotePlane p.home = none) (proto : Txn) (op : Part → TxnOp) :
    s.putParts proto op ps = s.withParts proto op ps := by
  induction ps generalizing s with
  | nil => exact (State.withParts_nil proto op).symm
  | cons p r ih =>
    obtain ⟨first, others⟩ := List.forall_mem_cons.1 here
    have sent := State.sendHome_of_local (s := { s.fresh with txns := s.txns ++ [s.partTxn proto op s.nextId p] })
      (t := s.partTxn proto op s.nextId p) first
    refine (congrArg (fun t : State => t.putParts proto op r) sent).trans ?_
    have rest := ih (s := { s.fresh with txns := s.txns ++ [s.partTxn proto op s.nextId p] }) others
    exact rest.trans (s.withParts_cons s.ports s.flits proto op p r)

/-- The accesses in flight, the counters of the context that issued, and ports and flits change, and nothing else. -/
theorem State.sendAccess_frame (s : State) (va : Word) (ps : List Part) (op : Part → TxnOp) (dst : Dst) (after : List Nat) (ld st : Bool) :
    ∃ ports flits, s.sendAccess va ps op dst after ld st = ({ s.withParts (s.proto va dst after ld st none) op ps with
      ports := ports, flits := flits }).setCtx s.cur (s.me.raise ld st) := by
  obtain ⟨ports, flits, put⟩ := s.putParts_frame (s.proto va dst after ld st none) op ps
  refine ⟨ports, flits, ?_⟩
  rw [State.sendAccess, put]
  rfl

theorem State.sendAccess_of_local {ps : List Part} (here : ∀ p ∈ ps, s.remotePlane p.home = none) (va : Word) (op : Part → TxnOp) (dst : Dst)
    (after : List Nat) (ld st : Bool) : s.sendAccess va ps op dst after ld st =
      (s.withParts (s.proto va dst after ld st none) op ps).setCtx s.cur (s.me.raise ld st) := by
  rw [State.sendAccess, State.putParts_of_local here]
  rfl

theorem State.withParts_getElem? {proto : Txn} {op : Part → TxnOp} {ps : List Part} {j : Nat} {p : Part} (part : ps[j]? = some p) :
    (s.withParts proto op ps).txns[s.txns.length + j]? = some (s.partTxn proto op (s.nextId + j) p) := by
  simp [State.withParts, List.getElem?_append_right, List.getElem?_mapIdx, part]

theorem Ctx.raise_eq (c : Ctx) (ld st : Bool) :
    c.raise ld st = { c with ld := c.ld + (if ld then 1 else 0), st := c.st + (if st then 1 else 0) } := by
  cases ld <;> cases st <;> rfl

end Sys2Proof.Machine
end

section
/-!
The statement on accesses put on their way.
-/

namespace Sys2Proof

open Machine

/-- Settles O17: the accesses of an instruction are those of its parts, numbered in their order. -/
theorem accessOnItsWay : Obligations.AccessOnItsWay := by
  unfold Obligations.AccessOnItsWay
  intro s va ps op dst after ld st t
  obtain ⟨ports, flits, sent⟩ := s.sendAccess_frame va ps op dst after ld st
  have txns : t.txns = (s.withParts (s.proto va dst after ld st none) op ps).txns := by simp only [t, sent, State.setCtx_txns]
  refine ⟨?_, fun j old => ?_, fun j p part => ?_, fun kid key => ?_, fun k other => ?_, ?_, ?_, fun here => ?_⟩
  · rw [txns, State.withParts, List.length_append, List.length_mapIdx]
  · rw [txns, State.withParts, List.getElem?_append_left old]
  · exact ⟨_, by rw [txns, State.withParts_getElem? part], rfl, rfl, rfl, rfl, rfl, rfl, rfl, rfl, rfl, rfl, rfl, rfl, rfl⟩
  · exact State.readByte_congr (by rw [show t = _ from sent]; rfl) (by rw [show t = _ from sent]; rfl) kid key
  · simp only [t, sent]
    exact State.ctx_setCtx_other _ _ other
  · simp only [t, sent, State.me, State.setCtx_cur]
    exact (State.ctx_setCtx ..).trans (Ctx.raise_eq ..)
  · simp only [t, sent]
    rfl
  · simp only [t, State.sendAccess_of_local here]
    exact ⟨rfl, rfl⟩

end Sys2Proof
end

section
/-!
SUPPORT. The answers of loads and stores (R78, R171, R356).
-/

namespace Sys2Proof.Machine

variable {s : State} {t : Txn}

/-- The accesses in flight but one. -/
def State.without (s : State) (t : Txn) : State := { s with txns := s.txns.filter (fun u => u.id != t.id) }

@[simp] theorem State.without_mem (s : State) (t : Txn) : (s.without t).mem = s.mem := rfl
@[simp] theorem State.without_lineKey (s : State) (t : Txn) : (s.without t).lineKey = s.lineKey := rfl

/-- The last access of its instruction: no other in flight shares its number (R356). -/
def State.LastOf (s : State) (t : Txn) : Prop := ∀ u ∈ s.txns, u.id ≠ t.id → u.grp ≠ t.grp

theorem State.lower_of_act {k act : Nat} (runs : (s.ctx k).actId = act) (ld st : Bool) :
    s.lower k act ld st = s.setCtx k ((s.ctx k).lower ld st) := if_pos runs

/-- The last access of an instruction of no coprocessor ring, taken away, lowers its counters. -/
theorem State.finishTxn_last (last : s.LastOf t) (runs : (s.ctx t.ctx).actId = t.act) (ringless : t.seq = none) :
    s.finishTxn t = (s.without t).setCtx t.ctx ((s.ctx t.ctx).lower t.ld t.st) := by
  have alone : ¬ (s.without t).txns.any (fun u => u.grp == t.grp) = true := by
    simp only [State.without, List.any_eq_true, List.mem_filter, bne_iff_ne, beq_iff_eq, not_exists, not_and, and_imp]
    exact last
  unfold State.finishTxn
  rw [ringless]
  exact (if_neg alone).trans (State.lower_of_act (s := s.without t) runs t.ld t.st)

theorem Ctx.take_actId (c : Ctx) (t : Txn) : (c.take t).actId = c.actId := by
  unfold Ctx.take
  split
  · rfl
  · exact Ctx.putW_actId ..
  · split <;> rfl

theorem Ctx.take_ld (c : Ctx) (t : Txn) : (c.take t).ld = c.ld := by
  unfold Ctx.take
  split
  · rfl
  · exact Ctx.putW_ld ..
  · split <;> rfl

theorem Ctx.take_of_w {n : Nat} (here : t.dst = .w n) (c : Ctx) : c.take t = c.putW n t.result t.bad := by
  rw [Ctx.take, here]

/-- What an awaited answer leaves of a context. -/
theorem Ctx.hear_frame (c : Ctx) (id : Nat) (x : Word) : ∃ answer, c.hear id x = { c with answer := answer } := by
  unfold Ctx.hear
  split
  · exact ⟨_, rfl⟩
  · exact ⟨_, rfl⟩

/-- A context with the answer of an access in its register and its counters lowered. -/
def Ctx.answered (c : Ctx) (t : Txn) : Ctx := ((c.take t).hear t.id t.result).lower t.ld t.st

theorem Ctx.answered_ld (c : Ctx) (raised : t.ld = true) : (c.answered t).ld = c.ld - 1 := by
  obtain ⟨answer, heard⟩ := (c.take t).hear_frame t.id t.result
  rw [Ctx.answered, heard, raised]
  exact congrArg (· - 1) (c.take_ld t)

theorem Ctx.answered_register {n : Nat} (here : t.dst = .w n) (written : n ≠ 0) (c : Ctx) :
    (c.answered t).getW n = t.result ∧ Tbl.get false (c.answered t).wbad n = t.bad := by
  obtain ⟨answer, heard⟩ := (c.take t).hear_frame t.id t.result
  rw [Ctx.answered, heard, Ctx.take_of_w here]
  exact ⟨c.getW_putW_self written t.result t.bad, c.wbad_putW_self written t.result t.bad⟩

/-- The answer of the last access of an instruction, for a context that still runs the activation (R78). -/
theorem State.respond_last (last : s.LastOf t) (runs : (s.ctx t.ctx).actId = t.act) (ringless : t.seq = none) :
    ∃ c, s.respond t = ((s.setCtx t.ctx c).without t).setCtx t.ctx ((s.ctx t.ctx).answered t) := by
  obtain ⟨answer, heard⟩ := ((s.ctx t.ctx).take t).hear_frame t.id t.result
  refine ⟨((s.ctx t.ctx).take t).hear t.id t.result, ?_⟩
  have still : ((s.setCtx t.ctx (((s.ctx t.ctx).take t).hear t.id t.result)).ctx t.ctx).actId = t.act := by
    rw [State.ctx_setCtx, heard]
    exact ((s.ctx t.ctx).take_actId t).trans runs
  have answered := State.finishTxn_last (s := s.setCtx t.ctx (((s.ctx t.ctx).take t).hear t.id t.result)) last still ringless
  rw [State.ctx_setCtx] at answered
  unfold State.respond
  dsimp only
  rw [if_pos runs, answered]
  rfl

/-- A load's latency may be counted by the cluster's monitors, and nothing else changes (R229). -/
theorem State.sampleLoad_frame (s : State) (t : Txn) : ∃ clusters, s.sampleLoad t = { s with clusters := clusters } := by
  unfold State.sampleLoad State.sampleAt State.changeMonitors
  dsimp only
  split
  · split
    · exact ⟨_, rfl⟩
    · split
      · exact ⟨_, rfl⟩
      · exact ⟨_, rfl⟩
  · split
    · exact ⟨_, rfl⟩
    · split
      · exact ⟨_, rfl⟩
      · exact ⟨_, rfl⟩
  · exact ⟨_, rfl⟩

theorem State.sampleLoad_keeps (s : State) (t : Txn) : (s.sampleLoad t).txns = s.txns ∧ (s.sampleLoad t).ctxs = s.ctxs ∧
    (s.sampleLoad t).mem = s.mem ∧ (s.sampleLoad t).lineKey = s.lineKey := by
  obtain ⟨clusters, sampled⟩ := s.sampleLoad_frame t
  rw [sampled]
  exact ⟨rfl, rfl, rfl, rfl⟩

theorem exec_loadResponse_of_load {id : Nat} {sg : Bool} (found : s.txn? id = some t) (performed : t.performed = true) (load : t.op = .load sg) :
    exec (.loadResponse id) s = .next ((s.sampleLoad t).respond t) := by
  show execLoadResponse id s = _
  simp [execLoadResponse, found, performed, load, TxnOp.returns, TxnOp.isBarrier]

theorem exec_storeAck_of_store {id : Nat} {bs : List (Nat × Byte)} {bad : Bool} (found : s.txn? id = some t) (performed : t.performed = true)
    (store : t.op = .store bs bad) : exec (.storeAck id) s = .next (s.finishTxn t) := by
  show execStoreAck id s = _
  simp [execStoreAck, found, performed, store, TxnOp.returns, Txn.isTask]

end Sys2Proof.Machine
end

section
/-!
The statement on the answers of accesses.
-/

namespace Sys2Proof

open Machine

/-- Settles O21: the answer of the last access of an instruction, by its kind. -/
theorem accessAnswers : Obligations.AccessAnswers := by
  unfold Obligations.AccessAnswers
  intro s id t found performed last runs ringless
  refine ⟨fun sg load raised _ => ?_, fun bs bad store unraised raised => ?_⟩
  · obtain ⟨txns, ctxs, mem, lineKey⟩ := s.sampleLoad_keeps t
    refine ⟨_, exec_loadResponse_of_load found performed load, ?_⟩
    generalize s.sampleLoad t = u at txns ctxs mem lineKey ⊢
    have same : ∀ k, u.ctx k = s.ctx k := fun k => by rw [State.ctx, State.ctx, ctxs]
    obtain ⟨c, answered⟩ := State.respond_last (s := u) (by rwa [State.LastOf, txns]) (by rwa [same]) ringless
    rw [answered, ← txns, ← same t.ctx]
    refine ⟨rfl, State.readByte_congr (by simpa using mem) (by simpa using lineKey), fun k other => ?_, ?_, fun n here written => ?_⟩
    · rw [← same k]
      exact (State.ctx_setCtx_other _ _ other).trans (State.ctx_setCtx_other _ _ other)
    · rw [State.ctx_setCtx]
      exact Ctx.answered_ld _ raised
    · have value : t.result = loadValue sg t.n t.bytes := by rw [Txn.result, load]
      rw [State.ctx_setCtx, ← value]
      exact Ctx.answered_register here written _
  · refine ⟨_, exec_storeAck_of_store found performed store, ?_⟩
    rw [State.finishTxn_last last runs ringless]
    refine ⟨rfl, State.readByte_congr rfl rfl, fun k other => State.ctx_setCtx_other _ _ other, ?_⟩
    rw [State.ctx_setCtx, unraised, raised]
    rfl

end Sys2Proof
end

section
/-!
SUPPORT. CATS outside a region (R59).
-/

namespace Sys2Proof.Machine

/-- CATS puts its key into the entry that it names, outside a region (R59). -/
theorem exec_cats_of_ready {s : State} {d a b : BitVec 6} (ready : Ready s { reads := [a.toNat, b.toNat], writes := [d.toNat] })
    (outside : (s.ctx s.cur).region = none) : ∃ old, exec (.cats d a b) s =
      .next ((s.setTile (unitOf s.cur) (catPut (s.tile (unitOf s.cur)) ((s.reg a).setWidth 48) ((s.reg b).toNat % 256))).result 4 d.toNat old) := by
  show ∃ old, execCats d a b s = _
  unfold execCats
  rw [State.issue_of_ready (need := need2 d.toNat a.toNat b.toNat) ready, State.irrevocably_of_none outside]
  exact ⟨_, rfl⟩

theorem State.tile_result (s : State) (len d u : Nat) (x : Word) : (s.result len d x).tile u = s.tile u := rfl

end Sys2Proof.Machine
end

section
/-!
The statement on fences, line flushes and the catalogue.
-/

namespace Sys2Proof

open Machine

/-- Tile 0 lists entry 5 of its catalogue twice, with key 7 and behind it with key 8: a table outside the canonical form of log entry 2,
which the statement does not ask for. The current context's w10 holds key 7. -/
def crowded : State :=
  { cur := 16, ctxs := [(16, { w := [(10, 7)] })], tiles := [(0, { catalogue := [(5, some 7), (5, some 8)] })] }

/-- Refutes O23: in the state crowded, entry 5 holds key 7, which CATS puts into entry 0; what stood behind it then shows, and entry 5 reads
key 8 where the statement has it empty. -/
theorem not_fencesAndCatalogue : ¬ Obligations.FencesAndCatalogue := by
  unfold Obligations.FencesAndCatalogue
  rintro ⟨-, catalogue⟩
  obtain ⟨-, cats⟩ := catalogue crowded 9 10 11
  have ready : Ready crowded { reads := [10, 11], writes := [9] } := by unfold Ready; decide
  obtain ⟨t, run, -, -, -, others⟩ := cats ready fun r inside => by cases inside
  obtain ⟨old, put⟩ := exec_cats_of_ready (s := crowded) (d := 9) (a := 10) (b := 11) ready rfl
  have same := congrArg (fun s : State => Tbl.get none (s.tile 0).catalogue 5) (Host.Outcome.next.inj (put.symm.trans run))
  have shows : Tbl.get none ((crowded.setTile 0 (catPut (crowded.tile 0) 7 0)).tile 0).catalogue 5 = some (8 : BitVec 48) := by decide
  have emptied : Tbl.get none (t.tile 0).catalogue 5 = none := others 5 (by decide)
  simp only [State.tile_result, emptied] at same
  exact absurd (shows.symm.trans same) (by decide)

end Sys2Proof
end

section
/-!
SUPPORT. What the abort of regions leaves as it was (R125, R130): memory, the vault's registers, block reads, messages and, of each context,
cp and the activation's number; and a home whose lines no IRREVOCABLE region holds stays such.
-/

namespace Sys2Proof.Machine

/-- What neither the abort of regions nor the restart of their contexts changes. -/
structure Bystander where
  mem : Tbl Byte
  lineKey : Tbl Nat
  vault : Vault
  blks : List BlkRead
  msgs : List Msg
  cp : Nat → Nat
  actId : Nat → Nat

def State.bystander (s : State) : Bystander where
  mem := s.mem
  lineKey := s.lineKey
  vault := s.vault
  blks := s.blks
  msgs := s.msgs
  cp k := (s.ctx k).cp
  actId k := (s.ctx k).actId

/-- No IRREVOCABLE region holds a line of a home (R130). -/
def State.Unheld (s : State) (home : Home) : Prop := ∀ lines, s.lineHeld home lines none = false

/-- The bystander is an earlier state's, and a home's lines are not held. -/
def State.Calm (s init : State) (home : Home) : Prop := s.bystander = init.bystander ∧ s.Unheld home

variable {s init : State} {home : Home}

theorem State.Calm.foldl {α : Type} {f : State → α → State} {l : List α} (h : s.Calm init home)
    (hf : ∀ t x, State.Calm t init home → State.Calm (f t x) init home) : (l.foldl f s).Calm init home :=
  List.foldlRecOn (motive := fun t => State.Calm t init home) l f h fun t ht x _ => hf t x ht

theorem State.Calm.setCtx {k c} (h : s.Calm init home) (cp : c.cp = (s.ctx k).cp) (actId : c.actId = (s.ctx k).actId) :
    (s.setCtx k c).Calm init home := by
  have counts : ∀ j, ((s.setCtx k c).ctx j).cp = (s.ctx j).cp ∧ ((s.setCtx k c).ctx j).actId = (s.ctx j).actId := fun j => by
    by_cases same : j = k
    · rw [same, State.ctx_setCtx]
      exact ⟨cp, actId⟩
    · rw [State.ctx_setCtx_other s c same]
      exact ⟨rfl, rfl⟩
  refine ⟨?_, h.2⟩
  show { s.bystander with cp := fun j => ((s.setCtx k c).ctx j).cp, actId := fun j => ((s.setCtx k c).ctx j).actId } = init.bystander
  rw [funext fun j => (counts j).1, funext fun j => (counts j).2]
  exact h.1

theorem State.Calm.lower {k act ld st} (h : s.Calm init home) : (s.lower k act ld st).Calm init home := by
  unfold State.lower
  dsimp only
  split
  exacts [h.setCtx rfl rfl, h]

theorem State.Calm.ringRetire {core seq} (h : s.Calm init home) : (s.ringRetire core seq).Calm init home := by
  unfold State.ringRetire
  dsimp only
  split
  exacts [h, h]

theorem State.Calm.finishTxn {t} (h : s.Calm init home) : (s.finishTxn t).Calm init home := by
  unfold State.finishTxn
  dsimp only
  split
  · exact h
  · have lowered := State.Calm.lower (s := { s with txns := s.txns.filter (fun u => u.id != t.id) })
      (k := t.ctx) (act := t.act) (ld := t.ld) (st := t.st) h
    split
    exacts [lowered.ringRetire, lowered]

theorem State.Calm.dropTxns {l} (h : s.Calm init home) : (s.dropTxns l).Calm init home := by
  induction l generalizing s with
  | nil => exact h
  | cons t r ih => exact ih h.finishTxn

theorem State.Calm.restart {k} (h : s.Calm init home) : (s.restart k).Calm init home := by
  unfold State.restart
  dsimp only
  split
  · exact h
  · exact .setCtx (State.Calm.dropTxns (s := s.unwait k) h) rfl rfl

theorem State.Calm.restartAll {l} (h : s.Calm init home) : (s.restartAll l).Calm init home := by
  induction l generalizing s with
  | nil => exact h
  | cons k r ih => exact ih h.restart

theorem State.Calm.countAt {k source} (h : s.Calm init home) : (s.countAt k source).Calm init home := by
  unfold State.countAt State.countLaunch State.changeMonitors
  dsimp only
  split <;> split <;> exact h

theorem State.Calm.countEach {source ks} (h : s.Calm init home) : (s.countEach source ks).Calm init home := h.foldl fun _ _ ht => ht.countAt

theorem Tbl.get_filter_key {α : Type} {d : α} {t : Tbl α} {p : Nat → Bool} {k : Nat} (kept : p k = true) :
    Tbl.get d (t.filter fun e => p e.1) k = Tbl.get d t k := by
  induction t with
  | nil => rfl
  | cons e r ih =>
    rw [List.filter_cons]
    by_cases here : e.1 = k
    · rw [if_pos (by rw [here, kept]), Tbl.get, Tbl.get, if_pos here, if_pos here]
    · rw [Tbl.get, if_neg here, ← ih]
      split
      · rw [Tbl.get, if_neg here]
      · rfl

/-- A slot that is not freed holds its lines as before. -/
theorem get_freeSlots_solid {dir : Tbl DirSlot} {m : BitVec 256} {k : Nat} (kept : m.getLsbD k = false) :
    (Tbl.get {} (freeSlots dir m) k).solid = (Tbl.get {} dir k).solid := by
  have freed := Tbl.get_map_congr (d := ({} : DirSlot)) (t := dir.filter fun e => !m.getLsbD e.1) (k := k) (f := fun e => e.2.forget m)
    DirSlot.solid fun _ => rfl
  rw [freeSlots, freed, Tbl.get_filter_key (p := fun n => !m.getLsbD n) (by rw [kept]; rfl)]

/-- Slots freed hold no line that was not held. -/
theorem State.Unheld.freed (h : s.Unheld home) (m : BitVec 256) : State.Unheld
    { s with dir := freeSlots s.dir m, versions := s.versions.filter (fun v => !m.getLsbD v.slot) } home := by
  intro lines
  have before := h lines
  simp only [State.lineHeld, Bool.or_eq_false_iff, List.any_eq_false] at before ⊢
  obtain ⟨versions, touched⟩ := before
  refine ⟨fun v hv => ?_, fun e he => ?_⟩
  · obtain ⟨listed, kept⟩ := List.mem_filter.1 hv
    have solid := get_freeSlots_solid (dir := s.dir) (m := m) (k := v.slot) (by simpa using kept)
    have apart := versions v listed
    rw [State.slot] at apart ⊢
    rwa [solid]
  · obtain ⟨e, listed, rfl⟩ := List.mem_map.1 he
    exact touched e (List.mem_filter.1 listed).1

theorem State.Calm.abortSlots {m} (h : s.Calm init home) : (s.abortSlots m).Calm init home := by
  obtain ⟨same, unheld⟩ := State.Calm.countEach (source := 7) (ks := _) h
  exact State.Calm.restartAll ⟨same, unheld.freed _⟩

theorem State.Calm.abortReaders {h' key n} (h : s.Calm init home) : (s.abortReaders h' key n).Calm init home := by
  unfold State.abortReaders
  dsimp only
  split
  exacts [h, h.abortSlots]

end Sys2Proof.Machine
end

section
/-!
SUPPORT. An entry that has left the footprint tables stays away (R84): function by function in the order of the model's files, what the
message of an engine's fault does, the end of a launch without a trap handler among it, puts no entry into a table.
-/

namespace Sys2Proof.Machine

/-- No footprint table holds an entry of a number. -/
def State.Unlisted (s : State) (id : Nat) : Prop := ∀ e ∈ s.clusters, ∀ x ∈ e.2.table, x.id ≠ id

variable {s : State} {id : Nat}

theorem State.Unlisted.foldl {α : Type} {f : State → α → State} {l : List α} (h : s.Unlisted id)
    (hf : ∀ t x, State.Unlisted t id → State.Unlisted (f t x) id) : (l.foldl f s).Unlisted id :=
  List.foldlRecOn (motive := fun t => State.Unlisted t id) l f h fun t ht x _ => hf t x ht

theorem State.Unlisted.setCtx {k c} (h : s.Unlisted id) : (s.setCtx k c).Unlisted id := h
theorem State.Unlisted.setCore {a c} (h : s.Unlisted id) : (s.setCore a c).Unlisted id := h

/-- A cluster's own table lists what the tables list. -/
theorem State.mem_cluster_table {n : Nat} {x : EngineJob} (h : x ∈ (s.cluster n).table) : (n, s.cluster n) ∈ s.clusters := by
  refine Tbl.get_mem (Tbl.listed_of_ne (d := ({} : Cluster)) (g := Cluster.table) fun empty => ?_)
  rw [State.cluster, empty] at h
  cases h

theorem State.Unlisted.setCluster {n q} (h : s.Unlisted id) (fewer : ∀ x ∈ q.table, x ∈ (s.cluster n).table) :
    (s.setCluster n q).Unlisted id := by
  intro e he x hx
  rcases Tbl.mem_of_mem_set he with rfl | he
  · exact h _ (State.mem_cluster_table (fewer x hx)) x (fewer x hx)
  · exact h e he x hx

/-- Tables from which entries are taken. -/
theorem State.Unlisted.filterTables (h : s.Unlisted id) (p : EngineJob → Bool) : State.Unlisted
    { s with clusters := s.clusters.map (fun (e : Nat × Cluster) => (e.1, { e.2 with table := e.2.table.filter p })) } id := by
  intro e he x hx
  obtain ⟨e, listed, rfl⟩ := List.mem_map.1 he
  exact h e listed x (List.mem_filter.1 hx).1

theorem State.Unlisted.lower {k act ld st} (h : s.Unlisted id) : (s.lower k act ld st).Unlisted id := by
  unfold State.lower
  dsimp only
  split
  exacts [h, h]

theorem State.Unlisted.lowerCp {k act} (h : s.Unlisted id) : (s.lowerCp k act).Unlisted id := by
  unfold State.lowerCp
  dsimp only
  split
  exacts [h, h]

theorem State.Unlisted.lowerTl {k act} (h : s.Unlisted id) : (s.lowerTl k act).Unlisted id := by
  unfold State.lowerTl
  dsimp only
  split
  exacts [h, h]

theorem State.Unlisted.ringRetire {core seq} (h : s.Unlisted id) : (s.ringRetire core seq).Unlisted id := by
  unfold State.ringRetire
  dsimp only
  split
  exacts [h, h]

theorem State.Unlisted.finishTxn {t} (h : s.Unlisted id) : (s.finishTxn t).Unlisted id := by
  unfold State.finishTxn
  dsimp only
  split
  · exact h
  · have lowered := State.Unlisted.lower (s := { s with txns := s.txns.filter (fun u => u.id != t.id) })
      (k := t.ctx) (act := t.act) (ld := t.ld) (st := t.st) h
    split
    exacts [lowered.ringRetire, lowered]

theorem State.Unlisted.dropTxns {l} (h : s.Unlisted id) : (s.dropTxns l).Unlisted id := by
  induction l generalizing s with
  | nil => exact h
  | cons t r ih => exact ih h.finishTxn

theorem State.Unlisted.restart {k} (h : s.Unlisted id) : (s.restart k).Unlisted id := by
  unfold State.restart
  dsimp only
  split
  · exact h
  · exact State.Unlisted.dropTxns (s := s.unwait k) h

theorem State.Unlisted.restartAll {l} (h : s.Unlisted id) : (s.restartAll l).Unlisted id := by
  induction l generalizing s with
  | nil => exact h
  | cons k r ih => exact ih h.restart

theorem State.Unlisted.changeMonitors {cluster tag source f} (h : s.Unlisted id) : (s.changeMonitors cluster tag source f).Unlisted id := by
  unfold State.changeMonitors
  dsimp only
  split
  exacts [h.setCluster fun _ hx => hx, h]

theorem State.Unlisted.countAt {k source} (h : s.Unlisted id) : (s.countAt k source).Unlisted id := by
  unfold State.countAt State.countLaunch
  split
  exacts [h.changeMonitors, h.changeMonitors]

theorem State.Unlisted.countEach {source ks} (h : s.Unlisted id) : (s.countEach source ks).Unlisted id := h.foldl fun _ _ ht => ht.countAt

theorem State.Unlisted.abortSlots {m} (h : s.Unlisted id) : (s.abortSlots m).Unlisted id := .restartAll h.countEach

theorem State.Unlisted.abortReaders {home key n} (h : s.Unlisted id) : (s.abortReaders home key n).Unlisted id := by
  unfold State.abortReaders
  dsimp only
  split
  exacts [h, h.abortSlots]

theorem State.Unlisted.writeBytes {kid key bad l} (h : s.Unlisted id) : (s.writeBytes kid key bad l).Unlisted id := by
  obtain ⟨mem, marks, lineKey, frame⟩ := s.writeBytes_frame kid key bad l
  rw [frame]
  exact h

theorem State.Unlisted.mergeVersions {l} (h : s.Unlisted id) : (s.mergeVersions l).Unlisted id := by
  induction l generalizing s with
  | nil => exact h
  | cons v r ih => exact ih h.writeBytes

theorem State.Unlisted.commitSlot {n} (h : s.Unlisted id) : (s.commitSlot n).Unlisted id := h.mergeVersions.changeMonitors

theorem State.Unlisted.endRegion {k} (h : s.Unlisted id) : (s.endRegion k).Unlisted id := by
  unfold State.endRegion
  split
  · exact h
  · split
    exacts [h.commitSlot.setCtx, h.commitSlot.setCtx, h.abortSlots]

theorem State.Unlisted.freeDrain {k} (h : s.Unlisted id) : (s.freeDrain k).Unlisted id := by
  unfold State.freeDrain
  split
  · split
    exacts [h, h]
  · exact h

theorem State.Unlisted.leaveAlign {k} (h : s.Unlisted id) : (s.leaveAlign k).Unlisted id := by
  intro e he x hx
  obtain ⟨e, listed, rfl⟩ := List.mem_map.1 he
  exact h e listed x hx

theorem State.Unlisted.rest {k} (h : s.Unlisted id) : (s.rest k).Unlisted id := by
  unfold State.rest
  exact .setCore (.setCtx (.leaveAlign (.freeDrain (State.Unlisted.setCore (s := s.setTile _ _) h))))

theorem State.Unlisted.restAll {l} (h : s.Unlisted id) : (s.restAll l).Unlisted id := by
  induction l generalizing s with
  | nil => exact h
  | cons k r ih => exact ih h.endRegion.rest

theorem State.Unlisted.clearResumable {k} (h : s.Unlisted id) : (s.clearResumable k).Unlisted id := by
  unfold State.clearResumable
  split
  · exact h
  · dsimp only
    split
    · exact h
    · split
      · exact h
      · split
        · exact h
        · split
          · exact h
          · exact .writeBytes (.abortReaders (s := s.setCtx k _) h)

theorem State.Unlisted.clearAllResumable {l} (h : s.Unlisted id) : (s.clearAllResumable l).Unlisted id := by
  induction l generalizing s with
  | nil => exact h
  | cons k r ih => exact ih h.clearResumable

theorem State.Unlisted.discardAll {l} (h : s.Unlisted id) : (s.discardAll l).Unlisted id := by
  induction l generalizing s with
  | nil => exact h
  | cons a r ih => exact ih (s := s.setCore a _) h

theorem State.Unlisted.forgetJob {j} (h : s.Unlisted id) : (s.forgetJob j).Unlisted id := by
  unfold State.forgetJob
  split
  exacts [h.lowerTl, h.lowerCp]

theorem State.Unlisted.discardSubmitted {tag} (h : s.Unlisted id) : (s.discardSubmitted tag).Unlisted id :=
  .foldl h fun _ _ ht => ht.forgetJob

theorem State.Unlisted.discardJobs {tag l} (h : s.Unlisted id) : (s.discardJobs tag l).Unlisted id := by
  induction l generalizing s with
  | nil => exact h
  | cons e r ih => exact ih ((h.setCluster fun x hx => (List.mem_filter.1 hx).1).foldl fun _ _ ht => ht.forgetJob)

theorem State.Unlisted.endNotice {tag job status} (h : s.Unlisted id) : (s.endNotice tag job status).Unlisted id := by
  unfold State.endNotice
  split
  exacts [h, h]

theorem State.Unlisted.cancelLaunch {tag level by_} (h : s.Unlisted id) : (s.cancelLaunch tag level by_).Unlisted id := by
  have cancelled (l : Launch) : (((s.setLaunch tag l).clearAllResumable l.ctxKeys).discardAll l.agents).Unlisted id :=
    .discardAll (.clearAllResumable (s := s.setLaunch tag l) h)
  have notified (l : Launch) (job : Nat) : ((s.setLaunch tag l).sweepBodies.endNotice tag job 1).Unlisted id :=
    .endNotice (s := (s.setLaunch tag l).sweepBodies) h
  unfold State.cancelLaunch
  split
  · exact h
  · split
    · exact notified _ _
    · exact notified _ _
    · exact notified _ _
    · exact (cancelled _).discardSubmitted.discardJobs
    · exact (cancelled _).discardSubmitted.discardJobs
    · exact h
    · exact h

theorem State.Unlisted.cancelLaunches {level by_ l} (h : s.Unlisted id) : (s.cancelLaunches level by_ l).Unlisted id := by
  induction l generalizing s with
  | nil => exact h
  | cons t r ih => exact ih h.cancelLaunch

theorem State.Unlisted.endLaunch {tag status reason} (h : s.Unlisted id) : (s.endLaunch tag status reason).Unlisted id := by
  unfold State.endLaunch
  split
  · exact h
  · next l _ =>
    split
    · exact h
    · have stopped : ((((s.clearAllResumable l.ctxKeys).restAll l.ctxKeys).discardAll l.agents).discardSubmitted tag).Unlisted id :=
        h.clearAllResumable.restAll.discardAll.discardSubmitted
      have left := stopped.filterTables fun j => j.launch != tag
      dsimp only
      split
      · exact .endNotice left
      · split
        · exact .endNotice left
        · exact .cancelLaunches (s := State.setJob _ _ _) (.endNotice left)

theorem State.Unlisted.trapMessage {tag cls source unit payload} (h : s.Unlisted id) :
    (s.trapMessage tag cls source unit payload).Unlisted id := by
  unfold State.trapMessage
  split
  · exact h
  · split
    · exact h
    · split
      · split
        exacts [h, h.endLaunch]
      · exact h

/-! ## A job retired -/

/-- A retired job's entry is in no table. -/
theorem State.unlisted_retireJob (s : State) (j : EngineJob) : (s.retireJob j).Unlisted j.id := by
  have gone : State.Unlisted { s with clusters := s.clusters.map (fun (e : Nat × Cluster) =>
      (e.1, { e.2 with table := e.2.table.filter (fun (x : EngineJob) => x.id != j.id) })) } j.id := by
    intro e he x hx
    obtain ⟨e, listed, rfl⟩ := List.mem_map.1 he
    simpa using (List.mem_filter.1 hx).2
  unfold State.retireJob
  dsimp only
  split
  exacts [gone.lowerTl, gone.lowerCp]

theorem State.unlisted_jobFault (s : State) (j : EngineJob) (sub detail : Nat) (addr : Word) : (s.jobFault j sub detail addr).Unlisted j.id :=
  (s.unlisted_retireJob j).trapMessage

end Sys2Proof.Machine
end

section
/-!
SUPPORT. Engine jobs (R84, R308, R309): what starts one, what its completion leaves, and the write of an engine.
-/

namespace Sys2Proof.Machine

variable {s : State} {job : Nat} {table : List EngineJob} {j : EngineJob}

/-! ## The entry of a job -/

theorem State.jobEntry_id (found : s.jobEntry job = some (table, j)) : j.id = job := by
  obtain ⟨e, -, entry⟩ := List.exists_of_findSome?_eq_some found
  obtain ⟨x, named, pair⟩ := Option.map_eq_some_iff.1 entry
  have same : x = j := congrArg Prod.snd pair
  simpa [same] using List.find?_some named

/-- A job's card is in order: its revision is the queue's, and it meets the table of its kind (R84, R190). -/
def EngineJob.inOrder (j : EngineJob) : Prop :=
  j.cardRevision = j.revision ∧ (if j.kind = .copy then j.copyAllowed else j.collectiveAllowed) = true

theorem exec_engineJobStart_of_edge (found : s.jobEntry job = some (table, j)) (edge : s.noEdges j table = false) :
    exec (.engineJobStart job) s = .next s := by
  show execEngineJobStart job s = _
  simp [execEngineJobStart, found, edge]

theorem exec_engineJobStart_of_inOrder (found : s.jobEntry job = some (table, j)) (engine : j.kind ≠ .tileTask) (fresh : j.started = false)
    (holds : s.holdsTiles j.launch = true) (free : s.noEdges j table = true) (order : j.inOrder) :
    exec (.engineJobStart job) s = .next (s.setJobEntry { j with started := true }) := by
  obtain ⟨revision, allowed⟩ := order
  show execEngineJobStart job s = _
  simp [execEngineJobStart, found, engine, fresh, holds, free, revision, allowed]

theorem exec_engineJobStart_of_malformed (found : s.jobEntry job = some (table, j)) (engine : j.kind ≠ .tileTask) (fresh : j.started = false)
    (holds : s.holdsTiles j.launch = true) (free : s.noEdges j table = true) (malformed : ¬ j.inOrder) :
    ∃ sub, exec (.engineJobStart job) s = .next (s.jobFault j sub 0 0) := by
  show ∃ sub, execEngineJobStart job s = _
  by_cases revision : j.cardRevision = j.revision
  · have refused : (if j.kind = .copy then j.copyAllowed else j.collectiveAllowed) = false := by
      simpa [EngineJob.inOrder, revision] using malformed
    exact ⟨3, by simp [execEngineJobStart, found, engine, fresh, holds, free, revision, refused]⟩
  · exact ⟨4, by simp [execEngineJobStart, found, engine, fresh, holds, free, revision]⟩

theorem exec_engineJobComplete_of_ended {ids : List Nat} (found : s.jobEntry job = some (table, j)) (task : j.kind = .tileTask)
    (ending : j.ending = some ids) (performed : s.anyUnderWay ids = false) : exec (.engineJobComplete job) s = .next (s.retireJob j) := by
  show execEngineJobComplete job s = _
  simp [execEngineJobComplete, found, task, ending, performed]

theorem exec_engineJobComplete_of_copied {u : State} (found : s.jobEntry job = some (table, j)) (copy : j.kind = .copy)
    (started : j.started = true) (holds : s.holdsTiles j.launch = true) (done : (s.engineFor j.unit j.launch).copyRun j = .done u ()) :
    exec (.engineJobComplete job) s = .next ((u.engineFree j.unit).retireJob j) := by
  show execEngineJobComplete job s = _
  simp [execEngineJobComplete, State.jobRun, found, copy, started, holds, done]

/-! ## A job retired -/

/-- The entry's tables and its submitter's counters alone change. -/
theorem State.retireJob_memory (s : State) (j : EngineJob) : (s.retireJob j).mem = s.mem ∧ (s.retireJob j).lineKey = s.lineKey := by
  unfold State.retireJob State.lowerTl State.lowerCp
  dsimp only
  split <;> split <;> exact ⟨rfl, rfl⟩

theorem State.retired_memory (s : State) (u : Nat) (j : EngineJob) :
    ((s.engineFree u).retireJob j).mem = s.mem ∧ ((s.engineFree u).retireJob j).lineKey = s.lineKey := (s.engineFree u).retireJob_memory j

theorem State.retireJob_tl (task : j.kind = .tileTask) (runs : (s.ctx j.ctx).actId = j.act) :
    ((s.retireJob j).ctx j.ctx).tl = (s.ctx j.ctx).tl - 1 := by
  rw [State.retireJob, if_pos task]
  exact congrArg Ctx.tl ((congrArg (State.ctx · j.ctx) (if_pos runs)).trans (State.ctx_setCtx ..))

theorem State.retireJob_cp (engine : j.kind ≠ .tileTask) (runs : (s.ctx j.ctx).actId = j.act) :
    ((s.retireJob j).ctx j.ctx).cp = (s.ctx j.ctx).cp - 1 := by
  rw [State.retireJob, if_neg engine]
  exact congrArg Ctx.cp ((congrArg (State.ctx · j.ctx) (if_pos runs)).trans (State.ctx_setCtx ..))

/-! ## Marked bytes stored -/

theorem State.writeByte_frame (s : State) (kid key : Nat) (b : Byte) (bad : Bool) :
    ∃ mem marks lineKey, s.writeByte kid key b bad = { s with mem := mem, bad := marks, lineKey := lineKey } := by
  obtain ⟨mem, lineKey, h⟩ := s.rekeyLine_frame kid (key / 64)
  exact ⟨_, _, _, by rw [State.writeByte, h]; rfl⟩

theorem State.writeByte_vault (s : State) (kid key : Nat) (b : Byte) (bad : Bool) : (s.writeByte kid key b bad).vault = s.vault := by
  obtain ⟨mem, marks, lineKey, h⟩ := s.writeByte_frame kid key b bad
  rw [h]

theorem State.hardwareOwned_congr {t : State} (vault : t.vault = s.vault) (key : Nat) : t.hardwareOwned key = s.hardwareOwned key := by
  rw [State.hardwareOwned, State.hardwareOwned, vault]

theorem State.pokeMarked_ctxs (s : State) (kid key : Nat) (bs : List (Byte × Bool)) : (s.pokeMarked kid key bs).ctxs = s.ctxs := by
  induction bs generalizing s key with
  | nil => rfl
  | cons b r ih =>
    obtain ⟨mem, marks, lineKey, h⟩ := s.writeByte_frame kid key b.1 b.2
    rw [State.pokeMarked, ih, h]
    split <;> rfl

theorem State.Stands.pokeMarked {kid a key : Nat} {b : Byte} {bs : List (Byte × Bool)} (h : s.Stands kid a b) (before : a < key) :
    (s.pokeMarked kid key bs).Stands kid a b := by
  induction bs generalizing s key with
  | nil => exact h
  | cons x r ih =>
    rw [State.pokeMarked]
    split
    · exact ih h (by omega)
    · exact ih (h.writeByte (by omega) x.1 x.2) (by omega)

/-- Bytes that hardware does not own stand where an engine has stored them (R5). -/
theorem State.stands_pokeMarked {kid key : Nat} {bs : List (Byte × Bool)} (unowned : ∀ i < bs.length, s.hardwareOwned (key + i) = false)
    {i : Nat} (h : i < bs.length) : (s.pokeMarked kid key bs).Stands kid (key + i) bs[i].1 := by
  induction bs generalizing s key i with
  | nil => cases h
  | cons b r ih =>
    have first := unowned 0 (by simp)
    rw [State.pokeMarked, if_neg (by simpa using first)]
    cases i with
    | zero => exact State.Stands.pokeMarked (s.stands_writeByte kid key b.1 b.2) (Nat.lt_succ_self key)
    | succ i =>
      have rest := ih (s := s.writeByte kid key b.1 b.2) (key := key + 1) (i := i) (fun n hn => ?_) (Nat.lt_of_succ_lt_succ h)
      · rwa [Nat.add_assoc, Nat.add_comm 1 i] at rest
      · rw [State.hardwareOwned_congr (s.writeByte_vault ..), Nat.add_assoc, Nat.add_comm 1 n]
        exact unowned (n + 1) (Nat.succ_lt_succ hn)

theorem State.readBytes_of_stands {kid key : Nat} {bs : List Byte} (stands : ∀ i (h : i < bs.length), s.Stands kid (key + i) bs[i]) :
    s.readBytes kid key bs.length = bs := by
  induction bs generalizing key with
  | nil => rfl
  | cons b r ih =>
    have first : s.Stands kid key b := stands 0 (by simp)
    rw [List.length_cons, State.readBytes, first.readByte, ih fun i h => ?_]
    have next : s.Stands kid (key + (i + 1)) r[i] := stands (i + 1) (Nat.succ_lt_succ h)
    rwa [show key + 1 + i = key + (i + 1) by omega]

/-! ## The write of an engine -/

theorem State.lineHeld_congr {t : State} (dir : t.dir = s.dir) (versions : t.versions = s.versions) (home : Home) (lines : List Nat)
    (own : Option (Nat × Nat)) : t.lineHeld home lines own = s.lineHeld home lines own := by
  simp only [State.lineHeld, State.slot, dir, versions]

/-- A packet to a remote home changes ports, flits and the next number alone. -/
theorem State.sendFor_frame (s : State) (u : Nat) (home : Home) (key n : Nat) (bytes : Option (List (Nat × Byte))) :
    ∃ ports flits nextId, s.sendFor u home key n bytes = { s with ports := ports, flits := flits, nextId := nextId } := by
  unfold State.sendFor
  split
  exacts [⟨_, _, _, rfl⟩, ⟨_, _, _, rfl⟩]

theorem State.engSend_calm {home : Home} (h : s.Unheld home) (u : Nat) (bytes : Option (List (Byte × Bool))) (p : Part) :
    (s.engSend u bytes [p]).Calm s home := by
  rw [State.engSend, State.engSend]
  obtain ⟨ports, flits, nextId, frame⟩ := s.sendFor_frame u p.home p.key p.len
    (bytes.map (fun bs => enumBytes (((bs.drop p.off).take p.len).map (·.1))))
  rw [frame]
  exact ⟨rfl, h⟩

/-- An engine's write that one part takes whole, at a home that holds no line against it, stores its bytes there (R309). -/
theorem State.engWrite_of_part {u va : Nat} {bs : List (Byte × Bool)} {t : State} {p : Part}
    (located : s.locate (engineAgent u) .store (BitVec.ofNat 64 va) bs.length = .ok ([p], t)) (off : p.off = 0) (len : p.len = bs.length)
    (unheld : t.Unheld p.home) (up : t.homeHeld p.home = false) :
    ∃ v : State, v.Calm t p.home ∧ s.engWrite u va bs = .done (v.pokeMarked p.kid p.key bs) () := by
  have free : t.engHeld [p] = false := by simp [State.engHeld, unheld (linesOf p.key p.len), up]
  refine ⟨(t.engSend u (some bs) [p]).abortReaders p.home p.key p.len, (State.engSend_calm unheld u (some bs) p).abortReaders, ?_⟩
  unfold State.engWrite
  simp only [located, free, Bool.false_eq_true, if_false, State.storeMarked, off, List.drop_zero, len, List.take_length]

/-! ## A fill of eight bytes (R309) -/

theorem runsOf_eight {va : Nat} (aligned : va % 8 = 0) : runsOf va 8 = [(0, 8)] := by
  have inside : min 8 (256 - va % 256) = 8 := by omega
  simp [runsOf, splitBlocks, inside]

theorem natBytes_eq_map (n x : Nat) : natBytes n x = (List.range n).map fun i => BitVec.ofNat 8 (x / 256 ^ i) := by
  induction n generalizing x with
  | zero => rfl
  | succ n ih =>
    rw [natBytes, ih, List.range_succ_eq_map, List.map_cons, List.map_map, Nat.pow_zero, Nat.div_one]
    congr 1
    exact List.map_congr_left fun i _ => by simp [Function.comp, Nat.div_div_eq_div_mul, Nat.pow_succ']

/-- A pattern's bytes in their order in memory, none marked. -/
def patternBytes (w : Word) : List (Byte × Bool) := (List.range 8).map fun i => (w.extractLsb' (8 * ((0 + i) % 8)) 8, false)

theorem patternBytes_fst (w : Word) : (patternBytes w).map (·.1) = natBytes 8 w.toNat := by
  rw [patternBytes, natBytes_eq_map, List.map_map]
  refine List.map_congr_left fun i hi => ?_
  have below := List.mem_range.1 hi
  rw [Function.comp_apply, Nat.zero_add, Nat.mod_eq_of_lt below]
  apply BitVec.eq_of_toNat_eq
  rw [BitVec.extractLsb'_toNat, BitVec.toNat_ofNat, Nat.shiftRight_eq_div_pow, Nat.pow_mul]

theorem State.copyRun_of_fill {dst : Nat} (op : j.copyOp = 2) (eight : Word.field (j.dword 3) 0 33 = 8) (place : j.num 2 = dst)
    (aligned : dst % 8 = 0) {v : State} (written : s.engWrite j.unit dst (patternBytes (j.dword 4)) = .done v ()) :
    s.copyRun j = .done v () := by
  unfold State.copyRun
  rw [op]
  dsimp only
  rw [eight, place, runsOf_eight aligned]
  unfold State.engFill
  rw [patternBytes] at written
  rw [Nat.add_zero, written]
  rfl

/-- A started fill of eight bytes writes its pattern and is retired, cp falling (R308, R309). -/
theorem engineJobComplete_fills {u : State} {p : Part} (found : s.jobEntry job = some (table, j)) (copy : j.kind = .copy)
    (started : j.started = true) (holds : s.holdsTiles j.launch = true) (op : j.copyOp = 2)
    (eight : Word.field (j.dword 3) 0 33 = 8) (aligned : j.num 2 % 8 = 0)
    (located : (s.engineFor j.unit j.launch).locate (engineAgent j.unit) .store (BitVec.ofNat 64 (j.num 2)) 8 = .ok ([p], u)) (off : p.off = 0)
    (len : p.len = 8) (unheld : u.Unheld p.home) (up : u.homeHeld p.home = false) (unowned : ∀ i < 8, u.hardwareOwned (p.key + i) = false) :
    ∃ t : State, exec (.engineJobComplete job) s = .next t ∧ t.readBytes p.kid p.key 8 = natBytes 8 (j.dword 4).toNat ∧
      (j.ctx ≠ engineAgent j.unit → (s.ctx j.ctx).actId = j.act → (t.ctx j.ctx).cp = (s.ctx j.ctx).cp - 1) := by
  have size : (patternBytes (j.dword 4)).length = 8 := by simp [patternBytes]
  obtain ⟨v, ⟨calm, -⟩, written⟩ := State.engWrite_of_part (bs := patternBytes (j.dword 4)) (size.symm ▸ located) off
    (size.symm ▸ len) unheld up
  have done := exec_engineJobComplete_of_copied found copy started holds (State.copyRun_of_fill op eight rfl aligned written)
  refine ⟨_, done, ?_, fun other runs => ?_⟩
  · have vault : v.vault = u.vault := congrArg Bystander.vault calm
    have stands := State.readBytes_of_stands (s := v.pokeMarked p.kid p.key (patternBytes (j.dword 4))) (kid := p.kid) (key := p.key)
      (bs := (patternBytes (j.dword 4)).map (·.1)) fun i h => by
        rw [List.getElem_map]
        exact State.stands_pokeMarked (fun n hn => (State.hardwareOwned_congr vault _).trans (unowned n (size ▸ hn))) (by simpa using h)
    rw [List.length_map, size, patternBytes_fst] at stands
    obtain ⟨mem, lineKey⟩ := (v.pokeMarked p.kid p.key (patternBytes (j.dword 4))).retired_memory j.unit j
    rw [State.readBytes_congr mem lineKey, stands]
  · have still : ((v.pokeMarked p.kid p.key (patternBytes (j.dword 4))).engineFree j.unit).ctx j.ctx = v.ctx j.ctx := by
      rw [State.engineFree, State.ctx_setCtx_other _ _ other, State.ctx, State.pokeMarked_ctxs]
      rfl
    have before : u.ctx j.ctx = s.ctx j.ctx := by
      rw [(State.keepsContexts_locate located).ctx, State.engineFor, State.ctx_setCtx_other _ _ other]
    have cp : (v.ctx j.ctx).cp = (s.ctx j.ctx).cp := before ▸ congrFun (congrArg Bystander.cp calm) j.ctx
    have actId : (v.ctx j.ctx).actId = (s.ctx j.ctx).actId := before ▸ congrFun (congrArg Bystander.actId calm) j.ctx
    rw [State.retireJob_cp (by rw [copy]; decide) (by rw [still, actId, runs]), still, cp]

end Sys2Proof.Machine
end

section
/-!
SUPPORT. Block reads: a part written at the tile, and the completion message of the last (R288, R171).
-/

namespace Sys2Proof.Machine

variable {s : State}

/-! ## A store at a home that holds no line against it -/

theorem State.landing_of_unowned {key : Nat} {bs : List (Nat × Byte)} (unowned : ∀ p ∈ bs, s.hardwareOwned (key + p.1) = false) :
    s.landing key bs = bs := List.filter_eq_self.2 fun p hp => by simp [unowned p hp]

theorem State.homeStore_of_unheld {t : Txn} {bad : Bool} {bs : List (Nat × Byte)} (plain : t.region = none) (unheld : s.Unheld t.home)
    (unowned : ∀ p ∈ bs, s.hardwareOwned (t.key + p.1) = false) :
    ∃ v : State, v.Calm s t.home ∧ s.homeStore t bad bs = .done (v.writeBytes t.kid t.key bad bs) [] false := by
  have start : s.Calm s t.home := ⟨rfl, unheld⟩
  refine ⟨if s.readersOf t.home (storeLines t.key bs) none = 0 then s else s.abortSlots (s.readersOf t.home (storeLines t.key bs) none), ?_, ?_⟩
  · split
    exacts [start, start.abortSlots]
  · unfold State.homeStore State.plainStore
    rw [plain, State.landing_of_unowned unowned]
    exact if_neg (by simp [unheld (storeLines t.key bs)])

/-- What a store of bytes leaves besides memory: the vault's registers, block reads and messages, and the lines not held. -/
theorem State.writeBytes_bystander (s : State) (kid key : Nat) (bad : Bool) (l : List (Nat × Byte)) :
    (s.writeBytes kid key bad l).vault = s.vault ∧ (s.writeBytes kid key bad l).blks = s.blks ∧ (s.writeBytes kid key bad l).msgs = s.msgs ∧
      ∀ home, s.Unheld home → (s.writeBytes kid key bad l).Unheld home := by
  obtain ⟨mem, marks, lineKey, frame⟩ := s.writeBytes_frame kid key bad l
  rw [frame]
  exact ⟨rfl, rfl, rfl, fun _ h => h⟩

/-! ## Bytes stored with their marks -/

/-- The bytes of a list that carry a mark, or that carry none, each with its place. -/
def withMark (bs : List (Byte × Bool)) (mark : Bool) : List (Nat × Byte) :=
  ((List.zip (List.range bs.length) bs).filter (fun e => e.2.2 == mark)).map (fun e => (e.1, e.2.1))

theorem mem_withMark {bs : List (Byte × Bool)} {mark : Bool} {p : Nat × Byte} (h : p ∈ withMark bs mark) :
    ∃ place : p.1 < bs.length, bs[p.1] = (p.2, mark) := by
  obtain ⟨e, he, rfl⟩ := List.mem_map.1 h
  obtain ⟨listed, marked⟩ := List.mem_filter.1 he
  obtain ⟨i, hi, rfl⟩ := List.mem_iff_getElem.1 listed
  have place : i < bs.length := by simpa using hi
  refine ⟨by simpa using place, ?_⟩
  simp only [List.getElem_zip, List.getElem_range, beq_iff_eq] at marked ⊢
  rw [← marked]

theorem mem_withMark_of {bs : List (Byte × Bool)} {i : Nat} (h : i < bs.length) : (i, bs[i].1) ∈ withMark bs bs[i].2 := by
  refine List.mem_map.2 ⟨(i, bs[i]), List.mem_filter.2 ⟨List.mem_iff_getElem.2 ⟨i, by simpa using h, by simp⟩, by simp⟩, rfl⟩

theorem nodup_withMark (bs : List (Byte × Bool)) (mark : Bool) : ((withMark bs mark).map (·.1)).Nodup := by
  have places : (withMark bs mark).map (·.1) = ((List.zip (List.range bs.length) bs).filter (fun e => e.2.2 == mark)).map (·.1) := by
    rw [withMark, List.map_map]
    rfl
  have all : ((List.zip (List.range bs.length) bs).map (·.1)) = List.range bs.length := List.map_fst_zip (by simp)
  rw [places]
  exact (List.Sublist.map _ List.filter_sublist).nodup (by rw [all]; exact List.nodup_range)

theorem State.Stands.congr {t : State} {kid a : Nat} {b : Byte} (h : s.Stands kid a b) (mem : t.mem = s.mem) (lineKey : t.lineKey = s.lineKey) :
    t.Stands kid a b := by
  rw [State.Stands, mem, lineKey]
  exact h

/-- Marked bytes stored at a home that holds no line against them stand there; block reads and messages are as before (R171). -/
theorem State.homeStoreMarked_of_unheld {t : Txn} {bs : List (Byte × Bool)} (plain : t.region = none) (unheld : s.Unheld t.home)
    (unowned : ∀ i < bs.length, s.hardwareOwned (t.key + i) = false) :
    ∃ v : State, s.homeStoreMarked t bs = .done v [] false ∧ v.blks = s.blks ∧ v.msgs = s.msgs ∧
      ∀ i (h : i < bs.length), v.Stands t.kid (t.key + i) bs[i].1 := by
  have listed (mark : Bool) : ∀ p ∈ withMark bs mark, s.hardwareOwned (t.key + p.1) = false := fun p hp => by
    obtain ⟨place, -⟩ := mem_withMark hp
    exact unowned p.1 place
  obtain ⟨v, ⟨calm, free⟩, first⟩ := State.homeStore_of_unheld (bad := false) plain unheld (listed false)
  obtain ⟨vault, blks, msgs, still⟩ := v.writeBytes_bystander t.kid t.key false (withMark bs false)
  generalize hw : v.writeBytes t.kid t.key false (withMark bs false) = w at first vault blks msgs still
  have owned : w.vault = s.vault := vault.trans (congrArg Bystander.vault calm)
  obtain ⟨x, ⟨calm', -⟩, second⟩ := State.homeStore_of_unheld (s := w) (bad := true) plain (still _ free) fun p hp =>
    (State.hardwareOwned_congr owned _).trans (listed true p hp)
  obtain ⟨-, blks', msgs', -⟩ := x.writeBytes_bystander t.kid t.key true (withMark bs true)
  refine ⟨x.writeBytes t.kid t.key true (withMark bs true), ?_, ?_, ?_, fun i h => ?_⟩
  · unfold State.homeStoreMarked
    rw [plain]
    refine (if_neg (by simp [unheld (linesOf t.key t.n)])).trans ?_
    exact (congrArg (fun a : HomeAns => match a with
      | .done s _ _ => s.homeStore t true (withMark bs true)
      | other => other) first).trans second
  · exact blks'.trans ((congrArg Bystander.blks calm').trans (blks.trans (congrArg Bystander.blks calm)))
  · exact msgs'.trans ((congrArg Bystander.msgs calm').trans (msgs.trans (congrArg Bystander.msgs calm)))
  · cases mark : bs[i].2 with
    | false =>
      have stood : w.Stands t.kid (t.key + i) bs[i].1 :=
        hw ▸ State.stands_writeBytes v t.kid t.key false (nodup_withMark bs false) (mark ▸ mem_withMark_of h)
      refine (stood.congr (congrArg Bystander.mem calm') (congrArg Bystander.lineKey calm')).writeBytes (fun p hp same => ?_) true
      obtain ⟨place, there⟩ := mem_withMark hp
      have here : p.1 = i := by omega
      subst here
      simp [there] at mark
    | true => exact State.stands_writeBytes x t.kid t.key true (nodup_withMark bs true) (mark ▸ mem_withMark_of h)

/-! ## BLKRD_PART_RETURN -/

variable {part : Nat} {b : BlkRead} {p : BlkPart} {l : Launch}

/-- A part of a block read on its way for a launch that is not cancelled, translated (R288, R289). -/
structure State.PartOf (s : State) (part : Nat) (b : BlkRead) (p : BlkPart) (l : Launch) : Prop where
  read : s.blks.find? (fun b => b.parts.any (fun p => p.id == part)) = some b
  found : b.parts.find? (fun p => p.id == part) = some p
  launch : s.launch? b.launch = some l
  running : l.cancel = none
  translated : p.fault = none

theorem exec_blkrdPartReturn_of_unread (h : s.PartOf part b p l) (unread : p.got = none) : exec (.blkrdPartReturn part) s = .next s := by
  obtain ⟨read, found, launch, running, translated⟩ := h
  show execBlkrdPartReturn part s = _
  simp [execBlkrdPartReturn, read, found, launch, running, translated, unread]

/-- The access that writes a part at the tile. -/
def State.partStore (s : State) (b : BlkRead) (p : BlkPart) : Txn :=
  { id := p.id, ctx := b.ctx, act := b.act, grp := p.id, home := .tile (unitOf b.ctx), op := .load false,
    key := scratchKey (unitOf b.ctx) (b.dst.toNat % 524288 + p.off), n := p.len, region := s.liveRegion b.region }

/-- A block read without one of its parts. -/
def BlkRead.without (b : BlkRead) (part : Nat) : BlkRead := { b with parts := b.parts.filter (fun q => q.id != part) }

theorem exec_blkrdPartReturn_of_read {bs : List Byte} {bad : List Bool} {v : State} (h : s.PartOf part b p l) (got : p.got = some (bs, bad))
    (stored : s.homeStoreMarked (s.partStore b p) (List.zip bs bad) = .done v [] false) : exec (.blkrdPartReturn part) s =
      if (b.without part).parts.isEmpty then .next (v.blkMessage b)
      else .next { v with blks := v.blks.map (fun x => if x = b then b.without part else x) } := by
  obtain ⟨read, found, launch, running, translated⟩ := h
  rw [State.partStore] at stored
  show execBlkrdPartReturn part s = _
  simp only [execBlkrdPartReturn, read, found, launch, running, translated, got, stored, BlkRead.without, Option.isSome_none,
    Bool.false_eq_true, if_false] <;> rfl

theorem BlkRead.without_isEmpty (b : BlkRead) (part : Nat) : (b.without part).parts.isEmpty = true ↔ ∀ q ∈ b.parts, q.id = part := by
  simp [BlkRead.without, List.filter_eq_nil_iff]

/-- The completion message of a block read (R288). -/
theorem State.blkMessage_sends (s : State) (b : BlkRead) : (s.blkMessage b).blks = s.blks.erase b ∧
    ∃ m : Msg, (s.blkMessage b).msgs = s.msgs ++ [m] ∧ m.cp = some b.ctx ∧ m.dest = agentKey (unitOf b.ctx) (Word.field b.ctl 32 2) ∧
      m.words.drop 1 = [b.dst, b.src, BitVec.ofNat 64 (Word.field b.ctl 0 20), b.user] :=
  ⟨rfl, _, rfl, rfl, rfl, rfl⟩

/-- A part read is written at the tile, byte by byte with its marks, and the last one sends the completion message (R288). -/
theorem blkrdPartReturn_writes {bs : List Byte} {bad : List Bool} (h : s.PartOf part b p l) (got : p.got = some (bs, bad))
    (marks : bad.length = bs.length) (outside : s.liveRegion b.region = none)
    (unowned : ∀ i < bs.length, s.hardwareOwned (scratchKey (unitOf b.ctx) (b.dst.toNat % 524288 + p.off) + i) = false)
    (unheld : s.Unheld (.tile (unitOf b.ctx))) : ∃ t : State, exec (.blkrdPartReturn part) s = .next t ∧
      t.readBytes 0 (scratchKey (unitOf b.ctx) (b.dst.toNat % 524288 + p.off)) bs.length = bs ∧
      ((∃ q ∈ b.parts, q.id ≠ part) → t.msgs = s.msgs ∧ b.without part ∈ t.blks) ∧
      ((∀ q ∈ b.parts, q.id = part) → t.blks = s.blks.erase b ∧ ∃ m : Msg, t.msgs = s.msgs ++ [m] ∧ m.cp = some b.ctx ∧
        m.dest = agentKey (unitOf b.ctx) (Word.field b.ctl 32 2) ∧
        m.words.drop 1 = [b.dst, b.src, BitVec.ofNat 64 (Word.field b.ctl 0 20), b.user]) := by
  have size : (List.zip bs bad).length = bs.length := by simp [marks]
  obtain ⟨v, stored, blks, msgs, stands⟩ := State.homeStoreMarked_of_unheld (s := s) (t := s.partStore b p) (bs := List.zip bs bad)
    outside unheld fun i hi => unowned i (size ▸ hi)
  have reads : v.readBytes 0 (scratchKey (unitOf b.ctx) (b.dst.toNat % 524288 + p.off)) bs.length = bs :=
    State.readBytes_of_stands fun i hi => by simpa [State.partStore] using stands i (size.symm ▸ hi)
  have same (t : State) (mem : t.mem = v.mem) (lineKey : t.lineKey = v.lineKey) :
      t.readBytes 0 (scratchKey (unitOf b.ctx) (b.dst.toNat % 524288 + p.off)) bs.length = bs :=
    (State.readBytes_congr mem lineKey ..).trans reads
  rw [exec_blkrdPartReturn_of_read h got stored]
  by_cases last : ∀ q ∈ b.parts, q.id = part
  · obtain ⟨erased, sent⟩ := v.blkMessage_sends b
    rw [if_pos ((b.without_isEmpty part).2 last), ← blks, ← msgs]
    refine ⟨_, rfl, same _ rfl rfl, fun ⟨q, hq, other⟩ => absurd (last q hq) other, fun _ => ⟨erased, sent⟩⟩
  · rw [if_neg (mt (b.without_isEmpty part).1 last)]
    refine ⟨_, rfl, same _ rfl rfl, fun _ => ⟨msgs, ?_⟩, fun all => absurd all last⟩
    exact List.mem_map.2 ⟨b, blks ▸ List.mem_of_find?_eq_some h.read, if_pos rfl⟩

end Sys2Proof.Machine
end

section
/-!
SUPPORT. Operand loads that have come to their turn: a group tagged, a load that faults in its fields, and one whose reads are done (R323,
R324).
-/

namespace Sys2Proof.Machine

variable {s : State}

/-! ## Tags of a group -/

theorem slotTag_setTag (t : Tile) (n : Nat) (g : SlotTag) : slotTag (t.setTag n g) n = g := Tbl.get_set_self _ n g

theorem slotTag_setTag_other (t : Tile) {n m : Nat} (h : m ≠ n) (g : SlotTag) : slotTag (t.setTag n g) m = slotTag t m :=
  Tbl.get_set_other h _ g

/-- The first slot of a group carries the group's tag. -/
theorem slotTag_tagGroup {n : Nat} (wide : 1 ≤ n) (t : Tile) (first : Nat) (state : SlotState) (format : Nat) (sealed : Bool) :
    slotTag (tagGroup t first n state format sealed) first = ⟨state, format, sealed, 0, n⟩ := by
  have later (l : List Nat) (apart : ∀ i ∈ l, i ≠ 0) (u : Tile) :
      slotTag (l.foldl (fun (t : Tile) i => t.setTag (first + i) ⟨state, format, sealed, i, n⟩) u) first = slotTag u first := by
    induction l generalizing u with
    | nil => rfl
    | cons i r ih =>
      obtain ⟨here, there⟩ := List.forall_mem_cons.1 apart
      rw [List.foldl_cons, ih there, slotTag_setTag_other _ (by omega)]
  obtain ⟨m, rfl⟩ : ∃ m, n = m + 1 := ⟨n - 1, by omega⟩
  rw [tagGroup, List.range_succ_eq_map, List.foldl_cons, later _ (by simp)]
  exact slotTag_setTag _ _ _

/-! ## OSLD_COMPLETE -/

theorem State.ringRetire_frame (s : State) (core seq : Nat) : ∃ cores, s.ringRetire core seq = { s with cores := cores } := by
  unfold State.ringRetire
  dsimp only
  split
  exacts [⟨_, rfl⟩, ⟨_, rfl⟩]

theorem State.endLoad_frame (s : State) (l : SlotLoad) :
    ∃ ctxs, s.endLoad l = { s with loads := s.loads.filter (fun x => x.id != l.id), ctxs := ctxs } := by
  unfold State.endLoad State.lowerCp
  dsimp only
  split
  exacts [⟨_, rfl⟩, ⟨_, rfl⟩]

variable {op : Nat} {x : SlotLoad}

theorem State.loadId_of_found (found : s.loads.find? (fun y => y.id == op) = some x) : x.id = op := by
  simpa using List.find?_some found

theorem exec_osldComplete_of_waiting (found : s.loads.find? (fun y => y.id == op) = some x) (early : s.engineAt x.unit x.seq = false) :
    exec (.osldComplete op) s = .next s := by
  show execOsldComplete op s = _
  simp [execOsldComplete, found, early]

theorem exec_osldComplete_of_turn (found : s.loads.find? (fun y => y.id == op) = some x) (turn : s.engineAt x.unit x.seq = true) :
    exec (.osldComplete op) s = .next (s.completeLoad x) := by
  show execOsldComplete op s = _
  simp [execOsldComplete, found, turn]

/-- A load whose fields are at fault writes nothing and leaves its group CLAIMED (R324). -/
theorem State.completeLoad_of_fieldFault (fault : x.fieldFault ≠ none) (wide : 1 ≤ x.width) :
    (s.completeLoad x).opmem = s.opmem ∧ (s.completeLoad x).loads = s.loads.filter (fun y => y.id != x.id) ∧
      (slotTag ((s.completeLoad x).tile x.unit) x.slot).state = .claimed := by
  obtain ⟨⟨sub, addr⟩, what⟩ := Option.ne_none_iff_exists'.1 fault
  unfold State.completeLoad
  rw [what]
  unfold State.failLoad
  dsimp only
  generalize (s.tile x.unit).engine.map _ = queue
  obtain ⟨ctxs, ended⟩ := State.endLoad_frame (s.setTile x.unit
    (tagGroup { s.tile x.unit with engine := queue, seals := Tbl.set none (s.tile x.unit).seals x.slot none } x.slot x.width .claimed 0 false)) x
  rw [ended]
  refine ⟨rfl, rfl, ?_⟩
  have tagged := slotTag_tagGroup wide
    { s.tile x.unit with engine := queue, seals := Tbl.set none (s.tile x.unit).seals x.slot none } x.slot .claimed 0 false
  exact congrArg SlotTag.state ((congrArg (slotTag · x.slot) (State.tile_setTile s x.unit _)).trans tagged)

/-- A load whose reads are done leaves its group READY (R323). -/
theorem State.completeLoad_of_read {u : State} {sealed : Bool} (sound : x.fieldFault = none)
    (read : (s.zeroGroup x).readPieces x false (x.pieces.flatMap Piece.cut) = .done u sealed) (wide : 1 ≤ x.width) :
    (s.completeLoad x).opmem = u.opmem ∧ (s.completeLoad x).loads = u.loads.filter (fun y => y.id != x.id) ∧
      (slotTag ((s.completeLoad x).tile x.unit) x.slot).state = .ready ∧
      (slotTag ((s.completeLoad x).tile x.unit) x.slot).format = x.format := by
  unfold State.completeLoad
  rw [sound, read]
  dsimp only
  generalize (if sealed then _ else none : Option SealRec) = record
  obtain ⟨ctxs, ended⟩ := State.endLoad_frame (u.setTile x.unit
    (tagGroup { u.tile x.unit with seals := Tbl.set none (u.tile x.unit).seals x.slot record } x.slot x.width .ready x.format sealed)) x
  obtain ⟨cores, retired⟩ := State.ringRetire_frame ((u.setTile x.unit
    (tagGroup { u.tile x.unit with seals := Tbl.set none (u.tile x.unit).seals x.slot record } x.slot x.width .ready x.format sealed)).endLoad x)
    (agentKey x.unit 2) x.seq
  rw [retired, ended]
  have tagged := slotTag_tagGroup wide
    { u.tile x.unit with seals := Tbl.set none (u.tile x.unit).seals x.slot record } x.slot .ready x.format sealed
  have there := (congrArg (slotTag · x.slot) (State.tile_setTile u x.unit _)).trans tagged
  exact ⟨rfl, rfl, congrArg SlotTag.state there, congrArg SlotTag.format there⟩

end Sys2Proof.Machine
end

section
/-!
SUPPORT. The matrix engine, instruction by instruction (R145 to R153): what its entry leaves of the tile, and a pass lane by lane.
-/

namespace Sys2Proof.Machine

variable {s : State} {unit : Nat} {e : MatEntry} {es : List MatEntry}

/-! ## Tables filled entry by entry -/

section

variable {α : Type} [DecidableEq α] {d : α}

/-- Entries at places ix 0, ix 1 and so on, each a function of what stood there. -/
def Tbl.updateAt (d : α) (ix : Nat → Nat) (f : Nat → α → α) (is : List Nat) (t : Tbl α) : Tbl α :=
  is.foldl (fun t i => Tbl.set d t (ix i) (f i (Tbl.get d t (ix i)))) t

theorem Tbl.get_updateAt_other {ix : Nat → Nat} {f : Nat → α → α} {is : List Nat} {k : Nat} (apart : ∀ i ∈ is, k ≠ ix i) (t : Tbl α) :
    Tbl.get d (Tbl.updateAt d ix f is t) k = Tbl.get d t k := by
  induction is generalizing t with
  | nil => rfl
  | cons i r ih =>
    obtain ⟨here, there⟩ := List.forall_mem_cons.1 apart
    exact (ih there _).trans (Tbl.get_set_other here _ _)

theorem Tbl.get_updateAt {ix : Nat → Nat} (inj : ∀ i j, ix i = ix j → i = j) {f : Nat → α → α} {is : List Nat} (distinct : is.Nodup) {i : Nat}
    (h : i ∈ is) (t : Tbl α) : Tbl.get d (Tbl.updateAt d ix f is t) (ix i) = f i (Tbl.get d t (ix i)) := by
  induction is generalizing t with
  | nil => cases h
  | cons j r ih =>
    obtain ⟨fresh, others⟩ := List.nodup_cons.1 distinct
    rcases List.mem_cons.1 h with rfl | h
    · have apart : ∀ n ∈ r, ix i ≠ ix n := fun n hn same => fresh (by rw [inj i n same]; exact hn)
      exact (Tbl.get_updateAt_other apart (Tbl.set d t (ix i) (f i (Tbl.get d t (ix i))))).trans (Tbl.get_set_self ..)
    · have apart : ix i ≠ ix j := fun same => fresh (by rw [← inj i j same]; exact h)
      exact (ih others h _).trans (congrArg (f i) (Tbl.get_set_other apart t _))

theorem Tbl.get_tabulateFrom (f : Nat → α) (i n k : Nat) :
    Tbl.get d (Tbl.tabulateFrom d f i n) k = if i ≤ k ∧ k < i + n then f k else d := by
  induction n generalizing i with
  | zero => exact (if_neg (by omega)).symm
  | succ n ih =>
    have next : Tbl.get d (Tbl.tabulateFrom d f (i + 1) n) k = if i + 1 ≤ k ∧ k < i + (n + 1) then f k else d := by
      rw [ih, Nat.add_right_comm, ← Nat.add_assoc]
    rw [Tbl.tabulateFrom]
    by_cases here : i = k
    · subst here
      rw [if_pos (by omega : i ≤ i ∧ i < i + (n + 1))]
      split
      · next same => rw [next, if_neg (by omega), same]
      · rw [Tbl.get, if_pos rfl]
    · have still : (i + 1 ≤ k ∧ k < i + (n + 1)) ↔ (i ≤ k ∧ k < i + (n + 1)) := by omega
      rw [if_congr still rfl rfl] at next
      split
      · exact next
      · rw [Tbl.get, if_neg here, next]

end

theorem Tbl.get_clear {α : Type} {d : α} (t : Tbl α) (lo hi k : Nat) : Tbl.get d (Tbl.clear t lo hi) k = if lo ≤ k ∧ k < hi then d else Tbl.get d t k := by
  by_cases inside : lo ≤ k ∧ k < hi
  · rw [if_pos inside]
    refine Tbl.get_of_forall_ne fun e he same => ?_
    have out := (List.mem_filter.1 he).2
    simp only [Bool.or_eq_true, decide_eq_true_eq] at out
    omega
  · rw [if_neg inside]
    exact Tbl.get_filter_key (p := fun n => decide (n < lo) || decide (hi ≤ n))
      (by simp only [Bool.or_eq_true, decide_eq_true_eq]; omega)

theorem Vec.lane_ofFn (f : Nat → Word32) {i : Nat} (h : i < 128) : (Vec.ofFn f).lane i = f i :=
  (Tbl.get_tabulateFrom f 0 128 i).trans (if_pos (by omega))

/-! ## The head of the engine queue -/

theorem exec_matrixPerform_of_turn (queue : (s.tile unit).engine = e :: es)
    (turn : ∀ x ∈ s.loads, x.unit = unit → seqOlder x.seq e.seq = false) : exec (.matrixPerform unit) s = .next (s.performHead unit e) := by
  have clear : ¬ s.loads.any (fun l => l.unit == unit && seqOlder l.seq e.seq) = true := by
    simp only [List.any_eq_true, Bool.and_eq_true, beq_iff_eq, not_exists, not_and]
    intro x hx here
    simp [turn x hx here]
  show execMatrixPerform unit s = _
  unfold execMatrixPerform
  rw [queue]
  exact if_neg clear

theorem State.tile_engineDone (s : State) (unit : Nat) (e : MatEntry) (t : Tile) :
    (s.engineDone unit e t).tile unit = { t with engine := t.engine.drop 1 } := by
  obtain ⟨cores, retired⟩ := (s.setTile unit { t with engine := t.engine.drop 1 }).ringRetire_frame (agentKey unit 2) e.seq
  rw [State.engineDone, retired]
  exact State.tile_setTile ..

theorem State.tile_engineFault (s : State) (unit : Nat) (e : MatEntry) (sub detail : Nat) (t : Tile) :
    (s.engineFault unit e sub detail t).tile unit = { t with engine := t.engine.drop 1 } := State.tile_setTile ..

/-- An MZERO of rows of one bank empties them and no other (R151). -/
theorem State.performHead_mzero {first count : Word} (op : e.op = .mzero first count) (low : first.toNat < 512)
    (allowed : rowsAllowed first.toNat count.toNat = true) : (s.performHead unit e).tile unit = { s.tile unit with
      engine := (s.tile unit).engine.drop 1, rows := Tbl.clear (s.tile unit).rows first.toNat (first.toNat + count.toNat) } := by
  unfold State.performHead
  simp only [op, low, allowed, decide_true, Bool.and_self, if_true]
  exact State.tile_engineDone ..

theorem State.performHead_mwld {slot : Nat} {w : Weights} (op : e.op = .mwld slot) (whole : e.broken = false)
    (sound : (s.tile unit).consumesBad e.op = false) (loaded : s.slotWeights unit slot e.kept = some w) :
    (s.performHead unit e).tile unit = { s.tile unit with engine := (s.tile unit).engine.drop 1, shadow := some w } := by
  rw [op] at sound
  unfold State.performHead
  simp only [op, whole, sound, loaded, Bool.false_eq_true, if_false]
  exact State.tile_engineDone ..

section

variable {kind : RowKind} {slot : Nat} {rows shape : Word} {w : Weights}

theorem State.performHead_mma (op : e.op = .mma kind slot rows shape) (weights : (s.tile unit).mmaWeights = some w)
    (fit : (s.tile unit).mmaFault e.broken kind slot rows shape = none) (sound : (s.tile unit).consumesBad e.op = false) :
    (s.performHead unit e).tile unit = { s.tile unit with
      engine := (s.tile unit).engine.drop 1, shadow := none, active := some w, rows := s.mmaRows unit kind slot rows shape w } := by
  rw [op] at sound
  unfold State.performHead
  simp only [op, fit, weights, sound, Bool.false_eq_true, if_false]
  exact State.tile_engineDone ..

/-- A fault of an MMA takes its entry from the queue and changes nothing else of the tile (R147). -/
theorem State.performHead_mma_of_fault (op : e.op = .mma kind slot rows shape) (weights : (s.tile unit).mmaWeights = some w)
    (fault : (s.tile unit).mmaFault e.broken kind slot rows shape ≠ none ∨ (s.tile unit).consumesBad e.op = true) :
    (s.performHead unit e).tile unit = { s.tile unit with engine := (s.tile unit).engine.drop 1 } := by
  rw [op] at fault
  unfold State.performHead
  simp only [op]
  cases unfit : (s.tile unit).mmaFault e.broken kind slot rows shape with
  | some what => exact State.tile_engineFault ..
  | none =>
    have bad := fault.resolve_left (by simp [unfit])
    simp only [weights, bad, if_true]
    exact State.tile_engineFault ..

/-- The rows of a pass, as entries filled in turn. -/
theorem State.mmaRows_eq : s.mmaRows unit kind slot rows shape w = Tbl.updateAt {} (fun i => rows.toNat + i)
    (fun i old => s.rowPass unit kind slot shape w i old) (List.range (mmaM shape)) (s.tile unit).rows := rfl

theorem State.get_mmaRows {i : Nat} (h : i < mmaM shape) : Tbl.get {} (s.mmaRows unit kind slot rows shape w) (rows.toNat + i) =
    s.rowPass unit kind slot shape w i (Tbl.get {} (s.tile unit).rows (rows.toNat + i)) := by
  rw [State.mmaRows_eq]
  exact Tbl.get_updateAt (ix := fun i => rows.toNat + i) (fun i j same => by omega) List.nodup_range (List.mem_range.2 h) _

theorem State.get_mmaRows_other {n : Nat} (h : n < rows.toNat ∨ rows.toNat + mmaM shape ≤ n) :
    Tbl.get {} (s.mmaRows unit kind slot rows shape w) n = Tbl.get {} (s.tile unit).rows n := by
  rw [State.mmaRows_eq]
  refine Tbl.get_updateAt_other (fun i hi => ?_) _
  have := List.mem_range.1 hi
  omega

/-- A lane below N is the pass's, and every other lane is as before (R148 to R150). -/
theorem State.rowPass_lane (i j : Nat) (old : Row) : Tbl.get 0 (s.rowPass unit kind slot shape w i old).lanes j =
    if j < mmaN shape then
      lanePass kind (slotTag (s.tile unit) slot).format w.format
        (fun k => s.aCode unit slot (slotTag (s.tile unit) slot).width (slotTag (s.tile unit) slot).format i k)
        (fun k => elemCode w.format (fun n => Tbl.get 0 w.image n) k j) (mmaK shape) (Tbl.get 0 old.lanes j)
    else Tbl.get 0 old.lanes j := by
  have filled : (s.rowPass unit kind slot shape w i old).lanes = Tbl.updateAt 0 (fun j => j) (fun j _ =>
      lanePass kind (slotTag (s.tile unit) slot).format w.format
        (s.aCode unit slot (slotTag (s.tile unit) slot).width (slotTag (s.tile unit) slot).format i)
        (fun k => elemCode w.format (fun n => Tbl.get 0 w.image n) k j) (mmaK shape) (Tbl.get 0 old.lanes j))
      (List.range (mmaN shape)) old.lanes := rfl
  rw [filled]
  split
  · next inside => exact Tbl.get_updateAt (ix := fun j => j) (fun _ _ same => same) List.nodup_range (List.mem_range.2 inside) _
  · next outside =>
    refine Tbl.get_updateAt_other (fun n hn same => outside ?_) _
    exact same ▸ List.mem_range.1 hn

end

/-- The entry of the drain buffer that a row fills (R152). -/
def Tile.drained (t : Tile) (order launch kind handler : Nat) (user : Word) (row : Nat) : DrainEntry :=
  { order := order, row := row, lanes := Vec.ofFn (fun i => drainLane kind (Tbl.get 0 (Tbl.get {} t.rows row).lanes i)),
    scales := match t.active with | some w => w.scales | none => [], user := user, handler := handler, launch := launch, dispatched := false }

theorem Tile.lane_drained (t : Tile) (order launch kind handler : Nat) (user : Word) (row : Nat) {i : Nat} (h : i < 128) :
    (t.drained order launch kind handler user row).lanes.lane i = drainLane kind (Tbl.get 0 (Tbl.get {} t.rows row).lanes i) := by
  simp only [Tile.drained, Vec.lane_ofFn _ h]

/-- An MDRAIN of one row with an entry free fills it and leaves the queue (R152, R153). -/
theorem State.performHead_mdrain {kind n : Nat} {rows user ox1 : Word} (op : e.op = .mdrain kind rows user ox1) (fresh : e.done = 0)
    (one : drainCount rows = 1) (fit : s.drainFault unit e.launch kind rows ox1 = none) (sound : (s.tile unit).consumesBad e.op = false)
    (free : (s.tile unit).freeEntry = some n) : (s.performHead unit e).tile unit = { s.tile unit with
      engine := (s.tile unit).engine.drop 1,
      drain := Tbl.set none (s.tile unit).drain n (some
        ((s.tile unit).drained s.nextId e.launch kind (Word.field ox1 0 12) user (drainFirst rows))) } := by
  rw [op] at sound
  unfold State.performHead
  simp only [op, fresh, if_true, fit, sound, Bool.and_false, Bool.false_eq_true, if_false, one, Nat.sub_zero, Tile.fillDrain, free,
    Nat.zero_add, Nat.add_zero]
  exact State.tile_engineDone ..

end Sys2Proof.Machine
end

section
/-!
SUPPORT. The start of an activation leaves the drain buffers and the cluster tables (R29, R192).
-/

namespace Sys2Proof.Machine

/-- The drain buffers and the clusters' tables of engine jobs are those of `init`. -/
def State.SameTables (s init : State) : Prop :=
  (∀ u, (s.tile u).drain = (init.tile u).drain) ∧ ∀ n, (s.cluster n).table = (init.cluster n).table

section
variable {s init : State}

theorem State.SameTables.setTile {u x} (h : s.SameTables init) (hx : x.drain = (s.tile u).drain) : (s.setTile u x).SameTables init := by
  refine ⟨fun v => ?_, h.2⟩
  by_cases same : v = u
  · rw [same, State.tile_setTile, hx]
    exact h.1 u
  · rw [State.tile_setTile_other s x same]
    exact h.1 v

theorem State.SameTables.setCluster {n q} (h : s.SameTables init) (hq : q.table = (s.cluster n).table) :
    (s.setCluster n q).SameTables init := by
  refine ⟨h.1, fun m => ?_⟩
  by_cases same : m = n
  · rw [same, State.cluster, State.setCluster, Tbl.get_set_self, hq]
    exact h.2 n
  · rw [State.cluster, State.setCluster, Tbl.get_set_other same]
    exact h.2 m

theorem State.SameTables.setCore {a c} (h : s.SameTables init) : (s.setCore a c).SameTables init := h
theorem State.SameTables.setCtx {k c} (h : s.SameTables init) : (s.setCtx k c).SameTables init := h

theorem State.SameTables.tlbFill {u core e} (h : s.SameTables init) : (s.tlbFill u core e).SameTables init :=
  .setCluster (s := s.setCore _ _) h rfl

theorem State.SameTables.translate {u core root launch va leaf t} (h : s.SameTables init)
    (e : s.translate u core root launch va = some (leaf, t)) : t.SameTables init := by
  unfold State.translate at e
  split at e
  · cases e; exact h
  · split at e
    · cases e
    · cases e; exact h.tlbFill

theorem State.SameTables.globalPart {u k a va off len p t} (h : s.SameTables init)
    (e : s.globalPart u k a va off len = .ok (p, t)) : t.SameTables init := by
  unfold State.globalPart at e
  split at e
  · split at e
    · cases e; exact h
    · cases e
  · split at e
    · cases e
    · split at e
      · cases e
      · split at e
        · cases e
        · next found =>
          split at e
          · cases e
          · cases e; exact h.translate found

theorem State.SameTables.globalParts {u k a va l ps t} (h : s.SameTables init)
    (e : s.globalParts u k a va l = .ok (ps, t)) : t.SameTables init := by
  induction l generalizing s ps with
  | nil => cases e; exact h
  | cons b r ih =>
    simp only [State.globalParts] at e
    split at e
    · cases e
    · next first =>
      split at e
      · cases e
      · next rest => cases e; exact ih (h.globalPart first) rest

theorem State.SameTables.locate {k a addr n ps t} (h : s.SameTables init) (e : s.locate k a addr n = .ok (ps, t)) :
    t.SameTables init := by
  unfold State.locate State.locateBy at e
  dsimp only at e
  split at e
  · cases e
  · split at e
    · split at e
      · cases e
      · exact h.globalParts e
    · split at e
      · cases e
      · split at e
        · cases e; exact h
        · cases e

theorem State.SameTables.noteError {f} (h : s.SameTables init) : (s.noteError f).SameTables init := by
  unfold State.noteError
  split
  · exact h
  · exact h

theorem State.SameTables.fetchLine {core kid line} (h : s.SameTables init) : (s.fetchLine core kid line).2.SameTables init := by
  unfold State.fetchLine
  dsimp only
  split
  · exact h
  · split
    · exact h
    · refine .setCluster ?_ ?_
      · split <;> exact h
      · split <;> rfl

theorem State.SameTables.dropLine {core line} (h : s.SameTables init) : (s.dropLine core line).SameTables init :=
  .setCluster (s := s.setCore _ _) h rfl

theorem State.SameTables.fetchHalf {k va} (h : s.SameTables init) : (s.fetchHalf k va).2.SameTables init := by
  unfold State.fetchHalf
  split
  · exact h.noteError
  · next p _ _ located =>
    have fetched := State.SameTables.fetchLine (core := coreOf k) (kid := p.kid) (line := p.key / 64) (h.locate located)
    dsimp only
    split
    · exact fetched.dropLine
    · exact fetched
  · next located => exact h.locate located

theorem State.SameTables.fetchBytes {k va r t} (h : s.SameTables init) (e : s.fetchBytes k va = (r, t)) : t.SameTables init := by
  unfold State.fetchBytes at e
  split at e
  · cases e; exact h
  · have first : (s.fetchHalf k va).2.SameTables init := h.fetchHalf
    split at e
    · next half => cases e; rwa [half] at first
    · next u half =>
      rw [half] at first
      split at e
      · cases e; exact first
      · have second : (u.fetchHalf k (va + 2)).2.SameTables init := first.fetchHalf
        split at e
        · next half' => cases e; rwa [half'] at second
        · next half' => cases e; rwa [half'] at second

theorem State.SameTables.unwait {k} (h : s.SameTables init) : (s.unwait k).SameTables init := .setCore (.setTile h rfl)

/-- A context outside a region, with no suspended task, stops without a change of the tables. -/
theorem State.SameTables.stopCtx {k st} (h : s.SameTables init) (hr : (s.ctx k).region = none)
    (ha : ∀ a, (s.ctx k).act = some a → a.tcb = none) : (s.stopCtx k st).SameTables init := by
  have same : (s.unwait k).ctx k = s.ctx k := rfl
  have stopped (c : Ctx) : ((s.unwait k).setCtx k c).SameTables init := h.unwait
  unfold State.stopCtx
  simp only [same, hr, State.ctx_setCtx]
  split
  · exact stopped _
  · split
    · next found =>
      simp only [ha _ found]
      exact stopped _
    · exact stopped _

theorem State.SameTables.checkPad {k} (h : s.SameTables init) (hr : (s.ctx k).region = none)
    (ha : ∀ a, (s.ctx k).act = some a → a.tcb = none) : (s.checkPad k).SameTables init := by
  have stops {r t} (st : Stop) (e : s.fetchBytes k (s.ctx k).pc = (r, t)) : (t.stopCtx k st).SameTables init := by
    have same := (State.keepsContexts_fetchBytes e).ctx k
    exact (h.fetchBytes e).stopCtx (same ▸ hr) (same ▸ ha)
  unfold State.checkPad
  dsimp only
  split
  · next fetched =>
    split
    · exact h.fetchBytes fetched
    · exact stops _ fetched
  · next fetched => exact stops _ fetched

theorem State.SameTables.activate {k tag l a pc w4 args} (h : s.SameTables init) :
    (s.activate k tag l a pc w4 args).SameTables init := by
  unfold State.activate
  dsimp only
  split <;> exact h

end

/-! ## An activation with two words -/

/-- The scalar registers listed in a context's tables are those below `n`. -/
def Ctx.ListsBelow (c : Ctx) (n : Nat) : Prop := (∀ p ∈ c.w, p.1 < n) ∧ ∀ p ∈ c.wbad, p.1 < n

theorem Ctx.ListsBelow.setW {c : Ctx} {n m : Nat} (h : c.ListsBelow n) (hm : m < n) (x : Word) : (c.setW m x).ListsBelow n := by
  unfold Ctx.setW Ctx.putW
  split
  · exact h
  · refine ⟨fun p (hp : p ∈ Tbl.set 0 c.w m x) => ?_, fun p (hp : p ∈ Tbl.set false c.wbad m false) => ?_⟩
    · rcases Tbl.mem_of_mem_set hp with rfl | old
      · exact hm
      · exact h.1 p old
    · rcases Tbl.mem_of_mem_set hp with rfl | old
      · exact hm
      · exact h.2 p old

theorem Tbl.erase_of_below {α : Type} {t : Tbl α} {n m : Nat} (h : ∀ p ∈ t, p.1 < n) (hm : n ≤ m) : t.erase m = t := by
  induction t with
  | nil => rfl
  | cons p r ih =>
    have first := h p List.mem_cons_self
    rw [Tbl.erase, if_neg (by omega), ih fun q hq => h q (List.mem_cons_of_mem p hq)]

/-- A register that no table lists is written with 0 without a change. -/
theorem Ctx.ListsBelow.setW_zero {c : Ctx} {n m : Nat} (h : c.ListsBelow n) (hm : n ≤ m) : c.setW m 0 = c := by
  unfold Ctx.setW Ctx.putW
  split
  · rfl
  · rw [Tbl.set, if_pos rfl, Tbl.set, if_pos rfl, Tbl.erase_of_below h.1 hm, Tbl.erase_of_below h.2 hm]

/-- Two words in w8 and w9 are two words and six zeros in w8 to w15, where the registers from w10 on are not listed. -/
theorem Ctx.foldl_setW_two {c : Ctx} (h : c.ListsBelow 10) (x y : Word) :
    (List.zip (List.range 8) [x, y, 0, 0, 0, 0, 0, 0]).foldl (fun (c : Ctx) p => c.setW (8 + p.1) p.2) c =
      (List.zip (List.range 8) [x, y]).foldl (fun (c : Ctx) p => c.setW (8 + p.1) p.2) c := by
  have two : ((c.setW 8 x).setW 9 y).ListsBelow 10 := (h.setW (by decide) x).setW (by decide) y
  show (((((((c.setW 8 x).setW 9 y).setW 10 0).setW 11 0).setW 12 0).setW 13 0).setW 14 0).setW 15 0 = (c.setW 8 x).setW 9 y
  rw [two.setW_zero (by decide), two.setW_zero (by decide), two.setW_zero (by decide), two.setW_zero (by decide),
    two.setW_zero (by decide), two.setW_zero (by decide)]

theorem State.activate_two (s : State) (k tag : Nat) (l : Launch) (a : Act) (pc w4 x y : Word) :
    s.activate k tag l a pc w4 [x, y, 0, 0, 0, 0, 0, 0] = s.activate k tag l a pc w4 [x, y] := by
  unfold State.activate
  dsimp only
  rw [Ctx.foldl_setW_two]
  refine .setW (.setW (.setW (.setW ⟨?_, ?_⟩ ?_ _) ?_ _) ?_ _) ?_ _
  · exact fun p hp => absurd hp List.not_mem_nil
  · exact fun p hp => absurd hp List.not_mem_nil
  all_goals decide

/-- A handler's activation with two words starts with them in w8 and w9; no drain buffer and no table of jobs changes (R29, R192). -/
theorem State.start_two (s : State) (k tag : Nat) (l : Launch) (h : HandlerEntry) {a : Act} (ha : a.tcb = none) (w4 x y : Word) :
    ((s.start k tag l h a w4 [x, y]).ctx k).Starts tag a (s.entryPc l h) w4 [x, y, 0, 0, 0, 0, 0, 0] ∧
      (s.start k tag l h a w4 [x, y]).SameTables s := by
  have padded : s.start k tag l h a w4 [x, y] = s.start k tag l h a w4 [x, y, 0, 0, 0, 0, 0, 0] := by
    unfold State.start
    rw [State.activate_two]
  rw [padded]
  refine ⟨(s.start_starts k tag l h ha w4 rfl).1, ?_⟩
  have starts := (s.activate_starts k tag l a (s.entryPc l h) w4 (args := [x, y, 0, 0, 0, 0, 0, 0]) rfl).1
  have same : s.SameTables s := ⟨fun _ => rfl, fun _ => rfl⟩
  unfold State.start
  refine .checkPad (.setCore (.setTile same.activate rfl)) starts.region fun b hb => ?_
  cases starts.act.symm.trans hb
  exact ha

end Sys2Proof.Machine
end

section
/-!
SUPPORT. Drain activations and tile tasks start (R151, R152, R309, R110).
-/

namespace Sys2Proof.Machine

/-- A handler's entry depends on the capsules alone. -/
theorem State.entryPc_congr {s t : State} (h : t.capsules = s.capsules) (l : Launch) (e : HandlerEntry) : t.entryPc l e = s.entryPc l e := by
  simp only [State.entryPc, State.capsuleOf, State.capsule?, h]

/-- A handler is found by the launches and the capsules alone. -/
theorem State.handler?_congr {s t : State} (hl : t.launches = s.launches) (hc : t.capsules = s.capsules) (tag n : Nat) :
    t.handler? tag n = s.handler? tag n := by
  simp only [State.handler?, State.launch?, State.capsuleOf, State.capsule?, hl, hc]

/-- The state after a buffered row is marked as dispatched. -/
def State.markRow (s : State) (unit n : Nat) (e : DrainEntry) : State :=
  s.setTile unit { s.tile unit with drain := Tbl.set none (s.tile unit).drain n (some { e with dispatched := true }) }

theorem State.drain_markRow (s : State) (unit n : Nat) (e : DrainEntry) :
    Tbl.get none ((s.markRow unit n e).tile unit).drain n = some { e with dispatched := true } := by
  rw [State.markRow, State.tile_setTile]
  exact Tbl.get_set_self _ n (some { e with dispatched := true })

/-- The activation that drains a row (R152). -/
def State.rowAct (s : State) (unit tag n : Nat) (e : DrainEntry) : Act :=
  { header := headerWord (s.placeOf (agentKey unit 2)) tag 5 0 0 e.handler, drain := some n }

/-- A drain's context: vector block 0 with the row's lanes in v0 and its scales in v1 (R152). -/
def Ctx.withRow (c : Ctx) (lanes scales : Vec) : Ctx := ((c.bindBlock 1 0).putV 0 lanes false).putV 1 scales false

section
variable (c : Ctx) (lanes scales : Vec)

theorem Ctx.act_withRow : (c.withRow lanes scales).act = c.act := rfl
theorem Ctx.pc_withRow : (c.withRow lanes scales).pc = c.pc := rfl
theorem Ctx.vblk_withRow : (c.withRow lanes scales).vblk = c.vblk ||| BitVec.twoPow 4 0 := rfl
theorem Ctx.getW_withRow (n : Nat) : (c.withRow lanes scales).getW n = c.getW n := rfl

theorem Ctx.getV_withRow_zero : (c.withRow lanes scales).getV 0 = lanes := by
  rw [Ctx.withRow, Ctx.getV_putV_other _ (by decide), Ctx.getV_putV_self]

theorem Ctx.getV_withRow_one : (c.withRow lanes scales).getV 1 = scales := Ctx.getV_putV_self _ 1 scales false

end

theorem drainDispatch_of_row {s : State} {unit k n tag : Nat} {l : Launch} {e : DrainEntry} {h : HandlerEntry}
    (hd : s.dispatcher (agentKey unit 2) false = some (tag, l)) (hrow : (s.tile unit).oldestRow = some (n, e))
    (hk : s.drainContext unit l = some k) (hh : s.handler? tag e.handler = some h) (hfree : s.freeBlocks (agentKey unit 2) 1 ≠ 0)
    (htag : e.launch = tag) :
    ∃ u : State, u = (s.markRow unit n e).start k tag l h ((s.markRow unit n e).rowAct unit tag n e) 0 [BitVec.ofNat 64 e.row, e.user] ∧
      exec (.drainDispatch unit) s = .next (u.setCtx k ((u.ctx k).withRow e.lanes e.scales)) := by
  refine ⟨_, rfl, ?_⟩
  show execDrainDispatch unit s = _
  have dispatches : ¬ (decide (s.freeBlocks (agentKey unit 2) 1 = 0) || decide (e.launch ≠ tag)) = true := by simp [hfree, htag]
  simp only [execDrainDispatch, hd, hrow, hk, hh, if_neg dispatches]
  rfl

/-- A buffered row starts a drain activation with its row and user word in w8 and w9 and its lanes and scales in v0 and v1 (R151, R152). -/
theorem drainDispatch_starts {s : State} {unit k n tag : Nat} {l : Launch} {e : DrainEntry} {h : HandlerEntry}
    (hd : s.dispatcher (agentKey unit 2) false = some (tag, l)) (hrow : (s.tile unit).oldestRow = some (n, e))
    (hk : s.drainContext unit l = some k) (hh : s.handler? tag e.handler = some h) (hfree : s.freeBlocks (agentKey unit 2) 1 ≠ 0)
    (htag : e.launch = tag) :
    ∃ (t : State) (a : Act), exec (.drainDispatch unit) s = .next t ∧ (t.ctx k).act = some a ∧ a.drain = some n ∧
      Word.field a.header 21 3 = 5 ∧ (t.ctx k).pc = s.entryPc l h ∧ (t.ctx k).vblk = 1 ∧
      (t.ctx k).getW 8 = BitVec.ofNat 64 e.row ∧ (t.ctx k).getW 9 = e.user ∧ (t.ctx k).getV 0 = e.lanes ∧ (t.ctx k).getV 1 = e.scales ∧
      Tbl.get none (t.tile unit).drain n = some { e with dispatched := true } := by
  obtain ⟨u, hu, run⟩ := drainDispatch_of_row hd hrow hk hh hfree htag
  obtain ⟨starts, tables⟩ := (s.markRow unit n e).start_two k tag l h (a := (s.markRow unit n e).rowAct unit tag n e) rfl 0
    (BitVec.ofNat 64 e.row) e.user
  rw [← hu] at starts tables
  refine ⟨_, (s.markRow unit n e).rowAct unit tag n e, run, ?_⟩
  rw [State.ctx_setCtx, Ctx.act_withRow, Ctx.pc_withRow, Ctx.vblk_withRow, Ctx.getW_withRow, Ctx.getW_withRow, Ctx.getV_withRow_zero,
    Ctx.getV_withRow_one, starts.vblk]
  refine ⟨starts.act, rfl, field_headerWord_kind _ _ _ _ _ _, starts.pc.trans (State.entryPc_congr rfl l h), by decide,
    starts.args 0 (by decide), starts.args 1 (by decide), rfl, rfl, ?_⟩
  exact (congrArg (Tbl.get none · n) (tables.1 unit)).trans (s.drain_markRow unit n e)

/-! ## A tile task -/

/-- A malformed record is rejected as it is issued (R110; log entry 93). -/
theorem tileTaskIssue_of_malformed {s : State} {cluster : Nat} {j : EngineJob}
    (ready : (s.cluster cluster).table.find? (fun j => (j.kind == .tileTask && !j.started && s.noEdges j (s.cluster cluster).table) &&
      (!j.taskAllowed || (s.taskTile cluster (s.cluster cluster).table j).isSome)) = some j) (bad : j.taskAllowed = false) :
    exec (.tileTaskIssue cluster) s = .next (s.jobFault j 3 0 0) := by
  show execTileTaskIssue cluster s = _
  simp only [execTileTaskIssue, ready, bad]
  rfl

/-- The state after a tile task's engine has taken it, its loads done. -/
def State.taskTaken (s : State) (j : EngineJob) (v : Nat) : State :=
  ((s.engineFor v j.launch).engineFree v).setJobEntry { j with started := true, runner := some v }

theorem tileTaskIssue_of_free {s : State} {cluster v : Nat} {j : EngineJob} {l : Launch}
    (ready : (s.cluster cluster).table.find? (fun j => (j.kind == .tileTask && !j.started && s.noEdges j (s.cluster cluster).table) &&
      (!j.taskAllowed || (s.taskTile cluster (s.cluster cluster).table j).isSome)) = some j) (good : j.taskAllowed = true)
    (hv : s.taskTile cluster (s.cluster cluster).table j = some v) (hl : s.launch? j.launch = some l) :
    exec (.tileTaskIssue cluster) s = .next (s.issueTask j l v) := by
  show execTileTaskIssue cluster s = _
  simp only [execTileTaskIssue, ready, good, hv, hl]
  rfl

/-- The engine of a tile is no context of the tile's A-core. -/
theorem State.ctx_taskTaken (s : State) (j : EngineJob) (v : Nat) {i : Nat} (hi : i < 8) :
    (s.taskTaken j v).ctx (agentKey v 2 * 8 + i) = s.ctx (agentKey v 2 * 8 + i) := by
  have other : agentKey v 2 * 8 + i ≠ engineAgent v := by
    rw [agentKey, engineAgent, ctxKey]
    omega
  exact (State.ctx_setCtx_other (s.engineFor v j.launch) {} other).trans (State.ctx_setCtx_other s { launch := j.launch } other)

theorem State.launches_taskTaken (s : State) (j : EngineJob) (v : Nat) : (s.taskTaken j v).launches = s.launches := by
  simp only [State.taskTaken, State.setJobEntry, State.engineFree, State.engineFor, State.setCtx]

theorem State.capsules_taskTaken (s : State) (j : EngineJob) (v : Nat) : (s.taskTaken j v).capsules = s.capsules := by
  simp only [State.taskTaken, State.setJobEntry, State.engineFree, State.engineFor, State.setCtx]

theorem State.idleContext_taskTaken (s : State) (j : EngineJob) (v : Nat) (l : Launch) :
    (s.taskTaken j v).idleContext (agentKey v 2) l = s.idleContext (agentKey v 2) l := by
  unfold State.idleContext
  dsimp only
  refine congrArg _ (List.find?_congr fun i hi => ?_)
  have low := List.mem_range.1 hi
  rw [s.ctx_taskTaken j v (by split at low <;> omega)]

/-- A tile task without loads for which a context is idle starts its handler there (R110). -/
theorem State.issueTask_of_idle {s : State} {j : EngineJob} {l : Launch} {v k : Nat} {h : HandlerEntry} (unloaded : j.taskLoads = [])
    (hk : (s.taskTaken j v).idleContext (agentKey v 2) l = some k)
    (hh : (s.taskTaken j v).handler? j.launch (Word.field (j.dword 0) 0 12) = some h) :
    s.issueTask j l v =
      (s.taskTaken j v).start k j.launch l h { header := j.dword 0, ttq := some j.id } 0 [j.dword 1, j.dword 2] := by
  unfold State.taskTaken at hk hh ⊢
  simp only [State.issueTask, unloaded, State.taskLoadsFrom, hk, hh]

/-- The job stands in its table as started on the engine's tile. -/
theorem State.mem_table_taskTaken {s : State} {cluster : Nat} {j : EngineJob} (v : Nat) (listed : j ∈ (s.cluster cluster).table) :
    { j with started := true, runner := some v } ∈ ((s.taskTaken j v).cluster cluster).table := by
  have here : cluster ∈ s.clusters.map (·.1) := List.mem_map.2 ⟨_, State.mem_cluster_table listed, rfl⟩
  have mapped := Tbl.get_map_of_listed (d := ({} : Cluster)) (f := fun (e : Nat × Cluster) => { e.2 with
    table := e.2.table.map fun x => if x.id = j.id then { j with started := true, runner := some v } else x }) here
  refine (congrArg (_ ∈ Cluster.table ·) mapped).mpr ?_
  exact List.mem_map.2 ⟨j, listed, if_pos rfl⟩

/-- A tile task without loads starts its handler on an idle context of the free engine's A-core (R110). -/
theorem tileTaskIssue_starts {s : State} {cluster v k : Nat} {j : EngineJob} {l : Launch} {h : HandlerEntry}
    (ready : (s.cluster cluster).table.find? (fun j => (j.kind == .tileTask && !j.started && s.noEdges j (s.cluster cluster).table) &&
      (!j.taskAllowed || (s.taskTile cluster (s.cluster cluster).table j).isSome)) = some j) (good : j.taskAllowed = true)
    (hv : s.taskTile cluster (s.cluster cluster).table j = some v) (hl : s.launch? j.launch = some l) (unloaded : j.taskLoads = [])
    (hk : s.idleContext (agentKey v 2) l = some k) (hh : s.handler? j.launch (Word.field (j.dword 0) 0 12) = some h) :
    ∃ (t : State) (a : Act), exec (.tileTaskIssue cluster) s = .next t ∧ (t.ctx k).act = some a ∧ a.header = j.dword 0 ∧
      a.ttq = some j.id ∧ (t.ctx k).pc = s.entryPc l h ∧ (t.ctx k).getW 8 = j.dword 1 ∧ (t.ctx k).getW 9 = j.dword 2 ∧
      ∃ x ∈ (t.cluster cluster).table, x.id = j.id ∧ x.started = true ∧ x.runner = some v := by
  have issued := State.issueTask_of_idle unloaded ((s.idleContext_taskTaken j v l).trans hk)
    ((State.handler?_congr (s.launches_taskTaken j v) (s.capsules_taskTaken j v) _ _).trans hh)
  obtain ⟨starts, tables⟩ := (s.taskTaken j v).start_two k j.launch l h (a := { header := j.dword 0, ttq := some j.id }) rfl 0
    (j.dword 1) (j.dword 2)
  refine ⟨_, _, (tileTaskIssue_of_free ready good hv hl).trans (congrArg _ issued), starts.act, rfl, rfl,
    starts.pc.trans (State.entryPc_congr (s.capsules_taskTaken j v) l h),    starts.args 0 (by decide), starts.args 1 (by decide), { j with started := true, runner := some v }, ?_, rfl, rfl, rfl⟩
  rw [tables.2 cluster]
  exact State.mem_table_taskTaken v (List.mem_of_find?_eq_some ready)

end Sys2Proof.Machine
end

section
/-!
O50. Engine jobs, block reads, operand loads, the matrix engine, drains and tile tasks.
-/

namespace Sys2Proof
open Machine

/-- Settles O50: each clause by what its event leaves of the state, given in the lemmas above. -/
theorem enginesAtWork : Obligations.EnginesAtWork := by
  unfold Obligations.EnginesAtWork
  intro s unit tag l
  refine ⟨fun job table j found => ⟨fun engine fresh holds => ⟨exec_engineJobStart_of_edge found, fun free => ⟨?_, ?_⟩⟩, ?_,
    fun copy started holds => ⟨?_, ?_⟩⟩, ?_, ?_, ?_, ?_, ?_⟩
  · exact fun revision allowed => exec_engineJobStart_of_inOrder found engine fresh holds free ⟨revision, allowed⟩
  · intro malformed
    obtain ⟨sub, rejected⟩ := exec_engineJobStart_of_malformed found engine fresh holds free fun order =>
      malformed.elim (fun other => other order.1) fun refused => Bool.false_ne_true (refused.symm.trans order.2)
    exact ⟨_, rejected, State.jobEntry_id found ▸ s.unlisted_jobFault j sub 0 0⟩
  · intro ids task ending performed
    exact ⟨_, exec_engineJobComplete_of_ended found task ending performed, State.jobEntry_id found ▸ s.unlisted_retireJob j,
      State.retireJob_tl task⟩
  · intro u done
    exact ⟨_, exec_engineJobComplete_of_copied found copy started holds done, State.jobEntry_id found ▸ (u.engineFree j.unit).unlisted_retireJob j,
      (u.retired_memory j.unit j).1⟩
  · intro u p op eight aligned located off len unheld up unowned
    exact engineJobComplete_fills found copy started holds op eight aligned located off len unheld up unowned
  · intro part b p read inside launch running translated
    have h : s.PartOf part b p l := ⟨read, inside, launch, running, translated⟩
    exact ⟨exec_blkrdPartReturn_of_unread h, fun bs bad got marks outside unowned unheld =>
      blkrdPartReturn_writes h got marks outside unowned unheld⟩
  · intro op x found wide
    have id := State.loadId_of_found found
    refine ⟨exec_osldComplete_of_waiting found, fun turn => ⟨fun fault => ?_, fun u sealed_ sound read => ?_⟩⟩
    · obtain ⟨opmem, loads, claimed⟩ := State.completeLoad_of_fieldFault (s := s) fault wide
      exact ⟨_, exec_osldComplete_of_turn found turn, opmem, id ▸ loads, claimed⟩
    · obtain ⟨opmem, loads, ready, format⟩ := State.completeLoad_of_read sound read wide
      refine ⟨_, exec_osldComplete_of_turn found turn, opmem, fun y hy => ?_, ready, format⟩
      rw [loads] at hy
      simpa [id] using (List.mem_filter.1 hy).2
  · intro e es queue turn
    dsimp only
    have performed := exec_matrixPerform_of_turn queue turn
    have rest : (s.tile unit).engine.drop 1 = es := by rw [queue]; rfl
    refine ⟨fun first count op low allowed => ?_, fun slot w op whole sound loaded => ?_,
      fun kind slot rows shape w op weights => ⟨fun fit sound => ?_, fun fault => ?_⟩,
      fun kind rows user ox1 n op fresh one fit sound free => ?_⟩
    · have tile := State.performHead_mzero (s := s) (unit := unit) op low allowed
      refine ⟨_, performed, ?_, fun n => ?_⟩ <;> rw [tile]
      · exact rest
      · exact Tbl.get_clear ..
    · have tile := State.performHead_mwld op whole sound loaded
      refine ⟨_, performed, ?_⟩
      rw [tile]
      exact ⟨rest, rfl, rfl, fun _ => rfl⟩
    · have tile := State.performHead_mma op weights fit sound
      refine ⟨_, performed, ?_⟩
      rw [tile]
      refine ⟨rest, rfl, rfl, fun i hi => ?_, fun n => State.get_mmaRows_other⟩
      rw [State.get_mmaRows hi]
      exact ⟨rfl, fun j => State.rowPass_lane ..⟩
    · have tile := State.performHead_mma_of_fault op weights fault
      refine ⟨_, performed, ?_⟩
      rw [tile]
      exact ⟨rest, rfl, fun _ => rfl⟩
    · have tile := State.performHead_mdrain op fresh one fit sound free
      refine ⟨_, (s.tile unit).drained s.nextId e.launch kind (Word.field ox1 0 12) user (drainFirst rows), performed, ?_⟩
      rw [tile]
      dsimp only
      exact ⟨rest, Tbl.get_set_self .., rfl, rfl, rfl, rfl, rfl, fun i => Tile.lane_drained _ _ _ _ _ _ _, fun _ => rfl⟩
  · intro k n e h dispatches row context handler free launch
    exact drainDispatch_starts dispatches row context handler free launch
  · intro cluster v k j h table ready
    refine ⟨fun bad => ?_, fun good tile launch loads idle handler => tileTaskIssue_starts ready good tile launch loads idle handler⟩
    exact ⟨_, tileTaskIssue_of_malformed ready bad, s.unlisted_jobFault j 3 0 0⟩

end Sys2Proof
end

section
/-!
SUPPORT. The abort of a region (R125): its slot and versions go, memory stays, and its context reads its checkpoint.
-/

namespace Sys2Proof.Machine

variable {s : State} {k : Nat}

/-! ## The slots that go -/

theorem getLsbD_slotBit {n : Nat} (low : n < 256) : (slotBit n).getLsbD n = true := by simp [slotBit, low]

theorem getLsbD_cascadeStep {dir : Tbl DirSlot} {m : BitVec 256} {n : Nat} (h : m.getLsbD n = true) :
    (cascadeStep dir m).getLsbD n = true := by
  refine List.foldlRecOn dir _ (motive := fun m : BitVec 256 => m.getLsbD n = true) h fun m hm e _ => ?_
  split
  · exact hm
  · simp [hm]

/-- A cascade keeps the slots that it starts from. -/
theorem getLsbD_cascade {dir : Tbl DirSlot} {m : BitVec 256} {n : Nat} (h : m.getLsbD n = true) (fuel : Nat) :
    (cascade dir fuel m).getLsbD n = true := by
  induction fuel generalizing m with
  | zero => exact h
  | succ fuel ih =>
    rw [cascade]
    split
    exacts [h, ih (getLsbD_cascadeStep h)]

theorem get_freeSlots_freed {dir : Tbl DirSlot} {m : BitVec 256} {n : Nat} (freed : m.getLsbD n = true) :
    Tbl.get {} (freeSlots dir m) n = {} := by
  refine Tbl.get_unlisted fun listed => ?_
  obtain ⟨e, he, rfl⟩ := List.mem_map.1 listed
  obtain ⟨x, hx, rfl⟩ := List.mem_map.1 he
  have kept := (List.mem_filter.1 hx).2
  rw [freed] at kept
  exact Bool.false_ne_true kept

/-! ## What counting an event changes -/

theorem State.changeMonitors_frame (s : State) (cluster tag source : Nat) (f : Monitor → Monitor) :
    ∃ clusters, s.changeMonitors cluster tag source f = { s with clusters := clusters } := by
  unfold State.changeMonitors
  dsimp only
  split
  exacts [⟨_, rfl⟩, ⟨_, rfl⟩]

theorem State.sampleAt_frame (s : State) (k source value : Nat) : ∃ clusters, s.sampleAt k source value = { s with clusters := clusters } :=
  s.changeMonitors_frame ..

theorem State.countLaunch_frame (s : State) (tag source : Nat) : ∃ launches, s.countLaunch tag source = { s with launches := launches } := by
  unfold State.countLaunch
  split
  exacts [⟨_, rfl⟩, ⟨_, rfl⟩]

theorem State.countAt_frame (s : State) (k source : Nat) :
    ∃ clusters launches, s.countAt k source = { s with clusters := clusters, launches := launches } := by
  obtain ⟨clusters, monitored⟩ := s.changeMonitors_frame (clusterOf (unitOf k)) (s.ctx k).launch source (fun m => { m with count := m.count + 1 })
  obtain ⟨launches, counted⟩ := State.countLaunch_frame { s with clusters := clusters } (s.ctx k).launch source
  exact ⟨clusters, launches, by rw [State.countAt, monitored, counted]⟩

theorem State.countEach_frame (s : State) (source : Nat) (ks : List Nat) :
    ∃ clusters launches, s.countEach source ks = { s with clusters := clusters, launches := launches } := by
  induction ks generalizing s with
  | nil => exact ⟨_, _, rfl⟩
  | cons k ks ih =>
    obtain ⟨clusters, launches, first⟩ := s.countAt_frame k source
    obtain ⟨clusters, launches, rest⟩ := ih (s.countAt k source)
    rw [first] at rest
    exact ⟨clusters, launches, (congrArg (State.countEach · source ks) first).trans rest⟩

/-! ## What a restart changes -/

theorem State.lower_frame (s : State) (k act : Nat) (ld st : Bool) : ∃ ctxs, s.lower k act ld st = { s with ctxs := ctxs } := by
  unfold State.lower
  dsimp only
  split
  exacts [⟨_, rfl⟩, ⟨_, rfl⟩]

theorem State.finishTxn_frame (s : State) (t : Txn) :
    ∃ txns ctxs cores, s.finishTxn t = { s with txns := txns, ctxs := ctxs, cores := cores } := by
  obtain ⟨ctxs, lowered⟩ := State.lower_frame { s with txns := s.txns.filter (fun u => u.id != t.id) } t.ctx t.act t.ld t.st
  unfold State.finishTxn
  dsimp only
  rw [lowered]
  split
  · exact ⟨_, _, _, rfl⟩
  · split
    · next q _ =>
      obtain ⟨cores, retired⟩ := State.ringRetire_frame { s with txns := s.txns.filter (fun u => u.id != t.id), ctxs := ctxs } (coreOf t.ctx) q
      exact ⟨_, _, _, retired⟩
    · exact ⟨_, _, _, rfl⟩

theorem State.dropTxns_frame (s : State) (l : List Txn) :
    ∃ txns ctxs cores, s.dropTxns l = { s with txns := txns, ctxs := ctxs, cores := cores } := by
  induction l generalizing s with
  | nil => exact ⟨_, _, _, rfl⟩
  | cons t l ih =>
    obtain ⟨txns, ctxs, cores, first⟩ := s.finishTxn_frame t
    obtain ⟨txns, ctxs, cores, rest⟩ := ih (s.finishTxn t)
    exact ⟨txns, ctxs, cores, by rw [State.dropTxns, rest, first]⟩

theorem State.restart_frame (s : State) (k : Nat) :
    ∃ txns ctxs cores tiles, s.restart k = { s with txns := txns, ctxs := ctxs, cores := cores, tiles := tiles } := by
  unfold State.restart
  dsimp only
  split
  · exact ⟨_, _, _, _, rfl⟩
  · next r _ =>
    obtain ⟨txns, ctxs, cores, dropped⟩ :=
      (s.unwait k).dropTxns_frame (s.txns.filter (fun t => t.ctx == k && t.region == some (r.slot, r.beginAt)))
    rw [dropped]
    exact ⟨_, _, _, _, rfl⟩

theorem State.restartAll_frame (s : State) (ks : List Nat) :
    ∃ txns ctxs cores tiles, s.restartAll ks = { s with txns := txns, ctxs := ctxs, cores := cores, tiles := tiles } := by
  induction ks generalizing s with
  | nil => exact ⟨_, _, _, _, rfl⟩
  | cons k ks ih =>
    obtain ⟨txns, ctxs, cores, tiles, first⟩ := s.restart_frame k
    obtain ⟨txns, ctxs, cores, tiles, rest⟩ := ih (s.restart k)
    exact ⟨txns, ctxs, cores, tiles, by rw [State.restartAll, rest, first]⟩

/-- An abort frees the slots of its cascade and drops their versions; memory and the current context stay (R125). -/
theorem State.abortSlots_frame (s : State) (m : BitVec 256) :
    (s.abortSlots m).dir = freeSlots s.dir (cascade s.dir 256 m) ∧
      (s.abortSlots m).versions = s.versions.filter (fun v => !(cascade s.dir 256 m).getLsbD v.slot) ∧
      (s.abortSlots m).mem = s.mem ∧ (s.abortSlots m).cur = s.cur := by
  obtain ⟨clusters, launches, counted⟩ := s.countEach_frame 7
    ((s.dir.filter (fun e => (cascade s.dir 256 m).getLsbD e.1 && !m.getLsbD e.1)).map (fun e => e.2.ctx))
  unfold State.abortSlots
  dsimp only
  rw [counted]
  obtain ⟨_, _, _, _, restarted⟩ := State.restartAll_frame
    { s with clusters := clusters, launches := launches, dir := freeSlots s.dir (cascade s.dir 256 m),
             versions := s.versions.filter (fun v => !(cascade s.dir 256 m).getLsbD v.slot) }
    ((s.dir.filter (fun e => (cascade s.dir 256 m).getLsbD e.1)).map (fun e => e.2.ctx))
  rw [restarted]
  exact ⟨rfl, rfl, rfl, rfl⟩

/-! ## The contexts restarted -/

theorem State.ctx_lower_other {j act : Nat} {ld st : Bool} (h : k ≠ j) : (s.lower j act ld st).ctx k = s.ctx k := by
  unfold State.lower
  dsimp only
  split
  exacts [State.ctx_setCtx_other s _ h, rfl]

theorem State.ctx_finishTxn_other {t : Txn} (h : k ≠ t.ctx) : (s.finishTxn t).ctx k = s.ctx k := by
  have lowered := State.ctx_lower_other (s := { s with txns := s.txns.filter (fun u => u.id != t.id) }) (act := t.act) (ld := t.ld)
    (st := t.st) h
  unfold State.finishTxn
  dsimp only
  split
  · rfl
  · split
    · next q _ =>
      obtain ⟨_, retired⟩ := State.ringRetire_frame
        (State.lower { s with txns := s.txns.filter (fun u => u.id != t.id) } t.ctx t.act t.ld t.st) (coreOf t.ctx) q
      rw [retired]
      exact lowered
    · exact lowered

theorem State.ctx_dropTxns_other {l : List Txn} (h : ∀ t ∈ l, k ≠ t.ctx) : (s.dropTxns l).ctx k = s.ctx k := by
  induction l generalizing s with
  | nil => rfl
  | cons t l ih =>
    obtain ⟨first, rest⟩ := List.forall_mem_cons.1 h
    exact (ih rest).trans (State.ctx_finishTxn_other first)

theorem State.ctx_restart_other {j : Nat} (h : k ≠ j) : (s.restart j).ctx k = s.ctx k := by
  unfold State.restart
  dsimp only
  split
  · rfl
  · rw [State.ctx_setCtx_other _ _ h, State.ctx_dropTxns_other]
    · rfl
    · intro t ht same
      have own := (List.mem_filter.1 ht).2
      simp only [Bool.and_eq_true, beq_iff_eq] at own
      exact h (same.trans own.1)

theorem State.restart_of_none (outside : (s.ctx k).region = none) : s.restart k = s := by
  simp only [State.restart, outside]

/-- A restarted context reads its checkpoint: to reload it again would change nothing (R125). -/
theorem State.reload_restart {r : OpenRegion} (inside : (s.ctx k).region = some r) :
    ((s.restart k).ctx k).reload r = (s.restart k).ctx k := by
  simp only [State.restart, inside, State.ctx_setCtx]
  rfl

theorem State.ctx_restartAll_of_none (outside : (s.ctx k).region = none) (ks : List Nat) : (s.restartAll ks).ctx k = s.ctx k := by
  induction ks generalizing s with
  | nil => rfl
  | cons j ks ih =>
    have first : (s.restart j).ctx k = s.ctx k := by
      by_cases same : j = k
      · rw [same, State.restart_of_none outside]
      · exact State.ctx_restart_other (Ne.symm same)
    exact (ih (first ▸ outside)).trans first

/-- A context listed among those that restart reads its checkpoint after them all. -/
theorem State.reload_restartAll {r : OpenRegion} {ks : List Nat} (inside : (s.ctx k).region = some r) (listed : k ∈ ks) :
    ((s.restartAll ks).ctx k).reload r = (s.restartAll ks).ctx k := by
  induction ks generalizing s with
  | nil => cases listed
  | cons j ks ih =>
    rw [State.restartAll]
    by_cases same : j = k
    · subst same
      have restored := State.reload_restart inside
      rw [State.ctx_restartAll_of_none (congrArg Ctx.region restored).symm]
      exact restored
    · have kept : ((s.restart j).ctx k).region = some r := by rw [State.ctx_restart_other (Ne.symm same), inside]
      exact ih kept (List.mem_of_ne_of_mem (Ne.symm same) listed)

/-- A context is in a region whose slot the directory holds under its name (R119). -/
structure State.Owns (s : State) (k : Nat) (r : OpenRegion) : Prop where
  inside : (s.ctx k).region = some r
  low : r.slot < 256
  live : (s.slot r.slot).phase ≠ .free
  owner : (s.slot r.slot).ctx = k

variable {r : OpenRegion}

theorem State.Owns.listed (h : s.Owns k r) : (r.slot, s.slot r.slot) ∈ s.dir :=
  Tbl.get_mem (Tbl.listed_of_ne (g := DirSlot.phase) h.live)

/-- The abort of a context's region puts back its checkpoint (R125). -/
theorem State.Owns.reload_abort (h : s.Owns k r) :
    ((s.abortSlots (slotBit r.slot)).ctx k).reload r = (s.abortSlots (slotBit r.slot)).ctx k := by
  have kept : (cascade s.dir 256 (slotBit r.slot)).getLsbD r.slot = true := getLsbD_cascade (getLsbD_slotBit h.low) 256
  obtain ⟨clusters, launches, counted⟩ := s.countEach_frame 7
    ((s.dir.filter (fun e => (cascade s.dir 256 (slotBit r.slot)).getLsbD e.1 && !(slotBit r.slot).getLsbD e.1)).map (fun e => e.2.ctx))
  unfold State.abortSlots
  dsimp only
  rw [counted]
  refine State.reload_restartAll h.inside ?_
  exact List.mem_map.2 ⟨_, List.mem_filter.2 ⟨h.listed, kept⟩, h.owner⟩

/-- The abort of a slot frees it and leaves none of its versions (R125). -/
theorem State.abortSlots_slotBit {n : Nat} (low : n < 256) :
    (s.abortSlots (slotBit n)).slot n = {} ∧ ∀ v ∈ (s.abortSlots (slotBit n)).versions, v.slot ≠ n := by
  have gone : (cascade s.dir 256 (slotBit n)).getLsbD n = true := getLsbD_cascade (getLsbD_slotBit low) 256
  obtain ⟨dir, versions, -, -⟩ := s.abortSlots_frame (slotBit n)
  refine ⟨?_, fun v hv same => ?_⟩
  · rw [State.slot, dir, get_freeSlots_freed gone]
  · rw [versions] at hv
    have kept := (List.mem_filter.1 hv).2
    rw [same, gone] at kept
    exact Bool.false_ne_true kept

end Sys2Proof.Machine
end

section
/-!
SUPPORT. FRBEG, FRCOM, FRABT and FRSTAT, case by case (R116, R127 to R129).
-/

namespace Sys2Proof.Machine

variable {s : State} {d : BitVec 6} {r : OpenRegion} {n : Nat}

/-! ## FRBEG -/

theorem State.freeSlot_of_full (full : ∀ n < 256, (s.slot n).phase ≠ .free) : s.freeSlot = none :=
  List.find?_eq_none.2 fun n hn => by simpa using full n (List.mem_range.1 hn)

theorem State.freeSlot_of_lowest (low : n < 256) (free : (s.slot n).phase = .free) (taken : ∀ m < n, (s.slot m).phase ≠ .free) :
    s.freeSlot = some n := by
  rw [State.freeSlot, List.find?_range_eq_some]
  exact ⟨by simp [free], List.mem_range.2 low, fun m hm => by simpa using taken m hm⟩

/-- The restarts that a context's next FRBEG reports (R116). -/
def Ctx.restarts (c : Ctx) : Nat := if c.restarting then c.aborts else 0

/-- The state in which the current context has opened a region in slot n, before the edges of an ordered one. -/
def State.opened (s : State) (d : BitVec 6) (ordered : Bool) (n : Nat) : State :=
  State.done { s.setSlot n (s.newSlot s.cur ordered s.me.restarts) with beginSeq := s.beginSeq + 1 } 4
    (Ctx.setW { s.me with region := some (s.me.checkpoint n s.beginSeq), aborts := s.me.restarts, restarting := false } d.toNat
      (BitVec.ofNat 64 s.me.restarts))

theorem State.me_opened (ordered : Bool) : (s.opened d ordered n).me =
    (Ctx.setW { s.me with region := some (s.me.checkpoint n s.beginSeq), aborts := s.me.restarts, restarting := false } d.toNat
      (BitVec.ofNat 64 s.me.restarts)).next 4 := State.ctx_done ..

theorem State.slot_opened (ordered : Bool) : (s.opened d ordered n).slot n = s.newSlot s.cur ordered s.me.restarts :=
  State.slot_setSlot s n (s.newSlot s.cur ordered s.me.restarts)

theorem State.region_opened (ordered : Bool) : (s.opened d ordered n).me.region = some (s.me.checkpoint n s.beginSeq) := by
  rw [State.me_opened]
  exact Ctx.setW_region ..

theorem State.pc_opened (ordered : Bool) : (s.opened d ordered n).me.pc = s.me.pc + 4 := by
  rw [State.me_opened, Ctx.next, Ctx.setW_pc]
  rfl

theorem State.getW_opened (ordered : Bool) (named : d ≠ 0) : (s.opened d ordered n).me.getW d.toNat = BitVec.ofNat 64 s.me.restarts := by
  rw [State.me_opened]
  exact Ctx.getW_setW_self _ (BitVec.toNat_ne_iff_ne.2 named) _

section

variable {ordered : Bool} (ready : s.ready { writes := [d.toNat] } = true)
include ready

theorem State.beginRegion_of_inside (inside : s.me.region ≠ none) : s.beginRegion d ordered = s.trap 0xE 0 := by
  rw [State.beginRegion, State.issue_of_ready ready]
  exact if_pos (Option.isSome_iff_ne_none.2 inside)

variable (outside : s.me.region = none)
include outside

theorem State.beginRegion_of_outOfScope (keyed : ordered = true) (apart : Word.field (s.me.act.getD {}).header 21 3 ≠ 1) :
    s.beginRegion d ordered = s.trap 0xD 0 := by
  have refused : (ordered && Word.field (s.me.act.getD {}).header 21 3 != 1) = true := by simpa [keyed] using apart
  rw [State.beginRegion, State.issue_of_ready ready]
  exact (if_neg (by rw [← State.me, outside]; exact Bool.false_ne_true)).trans (if_pos refused)

variable (scope : ordered = true → Word.field (s.me.act.getD {}).header 21 3 = 1)
include scope

/-- An FRBEG that may open its region waits for its loads, then for a slot, and else opens it (R116). -/
theorem State.beginRegion_of_scope : s.beginRegion d ordered = if s.me.ld ≠ 0 then s.stall else
    match s.freeSlot with
    | none => s.stall
    | some n => .next (if ordered then (s.opened d ordered n).fixedEdges n ((s.opened d ordered n).orderedPeers n)
        else s.opened d ordered n) := by
  have allowed : ¬ (ordered && Word.field (s.me.act.getD {}).header 21 3 != 1) = true := by
    simpa using scope
  rw [State.beginRegion, State.issue_of_ready ready]
  exact (if_neg (by rw [← State.me, outside]; exact Bool.false_ne_true)).trans (if_neg allowed)

theorem State.beginRegion_of_loads (loads : s.me.ld ≠ 0) : s.beginRegion d ordered = s.stall :=
  (State.beginRegion_of_scope ready outside scope).trans (if_pos loads)

variable (quiet : s.me.ld = 0)
include quiet

theorem State.beginRegion_of_full (full : ∀ n < 256, (s.slot n).phase ≠ .free) : s.beginRegion d ordered = s.stall := by
  rw [State.beginRegion_of_scope ready outside scope, State.freeSlot_of_full full]
  exact if_neg (not_not.2 quiet)

theorem State.beginRegion_of_lowest (low : n < 256) (free : (s.slot n).phase = .free) (taken : ∀ m < n, (s.slot m).phase ≠ .free) :
    s.beginRegion d ordered = .next (if ordered then (s.opened d ordered n).fixedEdges n ((s.opened d ordered n).orderedPeers n)
      else s.opened d ordered n) := by
  rw [State.beginRegion_of_scope ready outside scope, State.freeSlot_of_lowest low free taken]
  exact if_neg (not_not.2 quiet)

end

/-! ## FRCOM -/

/-- The state in which the region of slot n awaits the merges of the homes that hold its versions. -/
def State.committing (s : State) (n : Nat) : State := s.setSlot n { s.slot n with phase := .committing, homes := s.homesOf n }

/-- A commit ended leaves no region, frees its slot, and wd says whether it was IRREVOCABLE (R127). -/
theorem State.endCommit_ends (s : State) (d : BitVec 6) (low : n < 256) : (s.endCommit d.toNat n).me.region = none ∧
    (s.endCommit d.toNat n).me.aborts = 0 ∧ ((s.endCommit d.toNat n).slot n).phase = .free ∧
    (s.endCommit d.toNat n).me.pc = s.me.pc + 4 ∧
    (d ≠ 0 → (s.endCommit d.toNat n).me.getW d.toNat = if (s.slot n).solid then 1 else 0) := by
  obtain ⟨clusters, sampled⟩ := s.sampleAt_frame s.cur 8 (s.slot n).inDepth
  have dir : (s.endCommit d.toNat n).dir = freeSlots s.dir (slotBit n) := by
    unfold State.endCommit
    dsimp only
    rw [sampled]
    rfl
  have me : (s.endCommit d.toNat n).me =
      (Ctx.setW { s.me with region := none, aborts := 0 } d.toNat (condWord (s.slot n).solid)).next 4 := by
    unfold State.endCommit
    dsimp only
    rw [sampled]
    exact State.ctx_done ..
  have pc : (s.endCommit d.toNat n).me.pc = s.me.pc + 4 := by
    rw [me, Ctx.next, Ctx.setW_pc]
    rfl
  refine ⟨?_, ?_, ?_, pc, fun named => ?_⟩
  · rw [me]
    exact Ctx.setW_region ..
  · rw [me]
    exact Ctx.setW_aborts ..
  · rw [State.slot, dir, get_freeSlots_freed (getLsbD_slotBit low)]
  · rw [me]
    exact Ctx.getW_setW_self _ (BitVec.toNat_ne_iff_ne.2 named) _

section

variable (ready : s.ready { writes := [d.toNat] } = true)
include ready

theorem exec_frcom_of_outside (outside : s.me.region = none) : exec (.frcom d) s = s.trap 0xE 0 := by
  show execFrcom d s = _
  rw [execFrcom, State.issue_of_ready ready]
  rw [State.me] at outside
  simp only [outside]

variable (inside : s.me.region = some r)
include inside

/-- An FRCOM waits for its accesses and predecessors, then for its merges, and ends the region (R127). -/
theorem exec_frcom_of_inside : exec (.frcom d) s =
    if (s.slot r.slot).phase = .committing then
      if (s.slot r.slot).homes.isEmpty then .next (s.endCommit d.toNat r.slot) else s.waitBackground
    else if s.me.ld ≠ 0 || s.me.st ≠ 0 || (s.slot r.slot).pred ≠ 0 then s.waitBackground
    else if (s.homesOf r.slot).isEmpty then .next ((s.committing r.slot).endCommit d.toNat r.slot)
    else (s.committing r.slot).waitBackground := by
  show execFrcom d s = _
  rw [execFrcom, State.issue_of_ready ready]
  rw [State.me] at inside
  simp only [inside]
  rfl

theorem exec_frcom_of_merged (committing : (s.slot r.slot).phase = .committing) (merged : (s.slot r.slot).homes = []) :
    exec (.frcom d) s = .next (s.endCommit d.toNat r.slot) := by
  rw [exec_frcom_of_inside ready inside, if_pos committing, if_pos (List.isEmpty_iff.2 merged)]

theorem exec_frcom_of_merging (committing : (s.slot r.slot).phase = .committing) (merging : (s.slot r.slot).homes ≠ []) :
    exec (.frcom d) s = s.waitBackground := by
  rw [exec_frcom_of_inside ready inside, if_pos committing, if_neg (mt List.isEmpty_iff.1 merging)]

variable (uncommitted : (s.slot r.slot).phase ≠ .committing)
include uncommitted

theorem exec_frcom_of_busy (busy : s.me.ld ≠ 0 ∨ s.me.st ≠ 0 ∨ (s.slot r.slot).pred ≠ 0) : exec (.frcom d) s = s.waitBackground := by
  rw [exec_frcom_of_inside ready inside, if_neg uncommitted, if_pos (by simpa [or_assoc] using busy)]

theorem exec_frcom_of_unversioned (ld : s.me.ld = 0) (st : s.me.st = 0) (first : (s.slot r.slot).pred = 0)
    (unversioned : s.homesOf r.slot = []) : exec (.frcom d) s = .next ((s.committing r.slot).endCommit d.toNat r.slot) := by
  rw [exec_frcom_of_inside ready inside, if_neg uncommitted, if_neg (by simp [ld, st, first]), if_pos (List.isEmpty_iff.2 unversioned)]

/-- An FRCOM with nothing to wait for ends its region (R127). -/
theorem exec_frcom_ends (low : r.slot < 256) (ld : s.me.ld = 0) (st : s.me.st = 0) (first : (s.slot r.slot).pred = 0)
    (unversioned : s.homesOf r.slot = []) : ∃ t, exec (.frcom d) s = .next t ∧ t.me.region = none ∧ t.me.aborts = 0 ∧
      (t.slot r.slot).phase = .free ∧ t.me.pc = s.me.pc + 4 ∧
      (d ≠ 0 → t.me.getW d.toNat = if (s.slot r.slot).solid then 1 else 0) := by
  have ended := State.endCommit_ends (s.committing r.slot) d low
  rw [show (s.committing r.slot).slot r.slot = _ from State.slot_setSlot ..] at ended
  exact ⟨_, exec_frcom_of_unversioned ready inside uncommitted ld st first unversioned, ended⟩

end

/-! ## FRABT -/

theorem exec_frabt_of_outside (ready : s.ready {} = true) (outside : s.me.region = none) : exec .frabt s = s.trap 0xE 0 := by
  show execFrabt s = _
  rw [execFrabt, State.issue_of_ready ready]
  rw [State.me] at outside
  simp only [outside]

theorem exec_frabt_of_solid (ready : s.ready {} = true) (inside : s.me.region = some r) (solid : (s.slot r.slot).solid = true) :
    exec .frabt s = s.trap 0xE 0 := by
  show execFrabt s = _
  rw [execFrabt, State.issue_of_ready ready]
  rw [State.me] at inside
  simp only [inside, solid, if_true]

theorem exec_frabt_of_open (ready : s.ready {} = true) (inside : s.me.region = some r) (open_ : (s.slot r.slot).solid = false) :
    let t := s.abortSlots (slotBit r.slot)
    exec .frabt s = .next (t.setCtx t.cur
      { t.me with pc := s.me.pc + 4, aborts := s.me.aborts, restarting := false, state := s.me.running }) := by
  show execFrabt s = _
  rw [execFrabt, State.issue_of_ready ready]
  rw [State.me] at inside
  simp only [inside, open_, Bool.false_eq_true, if_false]
  rfl

/-- FRABT puts the checkpoint back, frees the slot and goes on behind itself, memory as it was (R128). -/
theorem exec_frabt_restores (ready : s.ready {} = true) (owns : s.Owns s.cur r) (open_ : (s.slot r.slot).solid = false) :
    ∃ t, exec .frabt s = .next t ∧ t.me.pc = s.me.pc + 4 ∧ t.me.region = none ∧ t.me.w = r.w ∧ t.me.ix = r.ix ∧ t.me.ox = r.ox ∧
      t.me.m = r.m ∧ (t.slot r.slot).phase = .free ∧ (∀ v ∈ t.versions, v.slot ≠ r.slot) ∧ t.mem = s.mem := by
  obtain ⟨-, -, mem, cur⟩ := s.abortSlots_frame (slotBit r.slot)
  obtain ⟨slot, versions⟩ := State.abortSlots_slotBit (s := s) owns.low
  have restored : (s.abortSlots (slotBit r.slot)).me.reload r = (s.abortSlots (slotBit r.slot)).me := by
    rw [State.me, cur]
    exact owns.reload_abort
  refine ⟨_, exec_frabt_of_open ready owns.inside open_, ?_⟩
  rw [State.me, State.setCtx_cur, State.ctx_setCtx, ← restored]
  exact ⟨rfl, rfl, rfl, rfl, rfl, rfl, congrArg DirSlot.phase slot, versions, mem⟩

/-! ## FRSTAT -/

theorem exec_frstat_of_outside (ready : s.ready { writes := [d.toNat] } = true) (outside : s.me.region = none) :
    exec (.frstat d) s = .next (s.result 4 d.toNat 0) := by
  show execFrstat d s = _
  rw [execFrstat, State.issue_of_ready ready]
  rw [State.me] at outside
  simp only [outside]

theorem exec_frstat_of_inside (ready : s.ready { writes := [d.toNat] } = true) (inside : s.me.region = some r) :
    exec (.frstat d) s = .next (s.result 4 d.toNat (s.regionStatus r)) := by
  show execFrstat d s = _
  rw [execFrstat, State.issue_of_ready ready]
  rw [State.me] at inside
  simp only [inside]

theorem boolNat_le_one (b : Bool) : boolNat b ≤ 1 := by cases b <;> decide

/-- The fields of FRSTAT's word (R129). -/
theorem State.field_regionStatus (s : State) (r : OpenRegion) :
    Word.field (s.regionStatus r) 63 1 = 1 ∧ Word.field (s.regionStatus r) 62 1 = boolNat (s.slot r.slot).solid ∧
      Word.field (s.regionStatus r) 61 1 = boolNat (s.slot r.slot).ordered ∧ Word.field (s.regionStatus r) 48 8 = r.slot % 256 ∧
      Word.field (s.regionStatus r) 40 8 = (s.slot r.slot).aborts % 256 := by
  have solid := boolNat_le_one (s.slot r.slot).solid
  have ordered := boolNat_le_one (s.slot r.slot).ordered
  simp only [Word.field, State.regionStatus, BitVec.toNat_ofNat]
  omega

end Sys2Proof.Machine
end

section
/-!
The statement on forwarding regions.
-/

namespace Sys2Proof
open Machine

/-- Settles O28: each instruction by the case of R116 and R127 to R129 that its context is in. -/
theorem forwardingRegions : Obligations.ForwardingRegions := by
  unfold Obligations.ForwardingRegions
  intro s d
  refine ⟨fun ready => ⟨?_, ?_, ?_⟩, fun ready => ⟨exec_frabt_of_outside ready, ?_⟩⟩
  · intro p hp
    have begins : exec p.1 s = s.beginRegion d p.2 := by
      rcases List.mem_pair.1 hp with rfl | rfl <;> rfl
    rw [begins]
    refine ⟨State.beginRegion_of_inside ready, State.beginRegion_of_outOfScope ready, fun outside scope =>
      ⟨State.beginRegion_of_loads ready outside scope, State.beginRegion_of_full ready outside scope, ?_, ?_⟩⟩
    · intro quiet n low free taken unordered
      rw [State.beginRegion_of_lowest ready outside scope quiet low free taken, unordered]
      exact ⟨_, rfl, congrArg DirSlot.phase (State.slot_opened false), congrArg DirSlot.ctx (State.slot_opened false),
        State.region_opened false, rfl, State.pc_opened false, State.getW_opened false, rfl⟩
    · intro quiet n low free taken ordered
      rw [State.beginRegion_of_lowest ready outside scope quiet low free taken, ordered]
      exact ⟨_, _, rfl, rfl, congrArg DirSlot.ordered (State.slot_opened true), congrArg DirSlot.phase (State.slot_opened true),
        State.region_opened true, State.getW_opened true⟩
  · exact fun outside => ⟨exec_frcom_of_outside ready outside, exec_frstat_of_outside ready outside⟩
  · intro r inside low
    exact ⟨exec_frcom_of_merged ready inside, exec_frcom_of_merging ready inside, exec_frcom_of_busy ready inside,
      fun uncommitted => exec_frcom_ends ready inside uncommitted low, _, exec_frstat_of_inside ready inside, s.field_regionStatus r⟩
  · intro r inside low
    refine ⟨exec_frabt_of_solid ready inside, fun open_ active owner => exec_frabt_restores ready ⟨inside, low, ?_, owner⟩ open_⟩
    rw [active]
    decide

end Sys2Proof
end

section
/-!
SUPPORT. Rounding (R134, R135): the magnitudes that the codes of a format stand for, and the code that rounding gives as the nearest of them.
-/

namespace Sys2Proof.Machine

variable {f : Fmt}

/-! ## Magnitudes -/

/-- The exponent of a format's smallest subnormal. -/
def Fmt.tiny (f : Fmt) : Int := 1 - (f.bias : Int) - f.mbits

/-- The magnitude of a code without sign, in a format whose exponents have no upper end. -/
def Fmt.mag (f : Fmt) (c : Nat) : ℚ :=
  if c / 2 ^ f.mbits = 0 then (c % 2 ^ f.mbits : Nat) * 2 ^ f.tiny
  else (c % 2 ^ f.mbits + 2 ^ f.mbits : Nat) * 2 ^ (f.tiny + (c / 2 ^ f.mbits - 1 : Nat))

/-- A code as k binades of the smallest quantum and a significand t. -/
def Fmt.Splits (f : Fmt) (c k t : Nat) : Prop := c = k * 2 ^ f.mbits + t ∧ t < 2 ^ (f.mbits + 1) ∧ (k = 0 ∨ 2 ^ f.mbits ≤ t)

theorem Fmt.exists_splits (f : Fmt) (c : Nat) : ∃ k t, f.Splits c k t := by
  have pos := Nat.two_pow_pos f.mbits
  have parts := Nat.div_add_mod c (2 ^ f.mbits)
  have low := Nat.mod_lt c pos
  have twice : 2 ^ (f.mbits + 1) = 2 * 2 ^ f.mbits := Nat.pow_succ'
  rcases h : c / 2 ^ f.mbits with _ | k
  · exact ⟨0, c % 2 ^ f.mbits, by rw [h] at parts; omega, by omega, .inl rfl⟩
  · refine ⟨k, c % 2 ^ f.mbits + 2 ^ f.mbits, ?_, by omega, .inr (by omega)⟩
    rw [h, Nat.mul_succ, Nat.mul_comm] at parts
    omega

/-- A significand of a binade, its end included, weighs one quantum for each unit. -/
theorem Fmt.mag_of_mant {k t : Nat} (le : t ≤ 2 ^ (f.mbits + 1)) (normal : k = 0 ∨ 2 ^ f.mbits ≤ t) :
    f.mag (k * 2 ^ f.mbits + t) = t * 2 ^ (f.tiny + k) := by
  have pos := Nat.two_pow_pos f.mbits
  rw [Nat.pow_succ'] at le
  rw [Fmt.mag, Nat.mul_comm k, Nat.mul_add_div pos, Nat.mul_add_mod]
  rcases Nat.lt_or_ge t (2 ^ f.mbits) with small | large
  · obtain rfl : k = 0 := by omega
    rw [Nat.div_eq_of_lt small, Nat.mod_eq_of_lt small, if_pos rfl, Nat.cast_zero, add_zero]
  · rcases Nat.lt_or_ge t (2 * 2 ^ f.mbits) with inside | above
    · have one : t / 2 ^ f.mbits = 1 := Nat.div_eq_of_lt_le (by omega) (by omega)
      have rest : t % 2 ^ f.mbits = t - 2 ^ f.mbits := by
        rw [Nat.mod_eq_sub_mod large, Nat.mod_eq_of_lt (by omega)]
      rw [one, rest, if_neg (by omega), Nat.sub_add_cancel large, Nat.add_sub_cancel]
    · obtain rfl : t = 2 ^ f.mbits * 2 := by omega
      rw [Nat.mul_div_cancel_left _ pos, Nat.mul_mod_right, if_neg (by omega), Nat.zero_add, show k + 2 - 1 = k + 1 from rfl, Nat.cast_succ,
        ← add_assoc, zpow_add_one₀ two_ne_zero]
      push_cast
      ring

theorem Fmt.Splits.mag {c k t : Nat} (h : f.Splits c k t) : f.mag c = t * 2 ^ (f.tiny + k) := by
  obtain ⟨rfl, lt, normal⟩ := h
  exact Fmt.mag_of_mant lt.le normal

/-- The next code lies one quantum above. -/
theorem Fmt.Splits.mag_succ {c k t : Nat} (h : f.Splits c k t) : f.mag (c + 1) = (t + 1) * 2 ^ (f.tiny + k) := by
  obtain ⟨rfl, lt, normal⟩ := h
  rw [Nat.add_assoc, Fmt.mag_of_mant lt (normal.imp_right Nat.le_succ_of_le), Nat.cast_succ]

theorem Fmt.strictMono_mag (f : Fmt) : StrictMono f.mag :=
  strictMono_nat_of_lt_succ fun c => by
    obtain ⟨k, t, h⟩ := f.exists_splits c
    rw [h.mag, h.mag_succ]
    exact mul_lt_mul_of_pos_right (lt_add_one _) (zpow_pos two_pos _)

theorem Fmt.mag_zero (f : Fmt) : f.mag 0 = 0 := by
  rw [Fmt.mag, Nat.zero_div, if_pos rfl, Nat.zero_mod, Nat.cast_zero, zero_mul]

theorem Fmt.mag_nonneg (f : Fmt) (c : Nat) : 0 ≤ f.mag c := f.mag_zero ▸ f.strictMono_mag.monotone (Nat.zero_le c)

theorem Fmt.mag_eq_zero {c : Nat} : f.mag c = 0 ↔ c = 0 := by rw [← f.mag_zero, f.strictMono_mag.injective.eq_iff]

/-! ## The nearest code -/

/-- A code is the nearest to a magnitude, and even where another is as near: the magnitude is on its side of the middle between it and
every other code. -/
def Fmt.Nearest (f : Fmt) (c : Nat) (x : ℚ) : Prop :=
  (∀ b < c, f.mag b + f.mag c ≤ 2 * x ∧ (f.mag b + f.mag c = 2 * x → c % 2 = 0)) ∧
    ∀ a, c < a → 2 * x ≤ f.mag c + f.mag a ∧ (2 * x = f.mag c + f.mag a → c % 2 = 0)

section
variable {c : Nat} {x : ℚ}

/-- A magnitude between two neighbours, not above their middle. -/
theorem Fmt.nearest_of_lower (low : f.mag c ≤ x) (half : 2 * x ≤ f.mag c + f.mag (c + 1))
    (tie : 2 * x = f.mag c + f.mag (c + 1) → c % 2 = 0) : f.Nearest c x := by
  refine ⟨fun b below => ?_, fun a above => ?_⟩
  · have := f.strictMono_mag below
    exact ⟨by linarith, fun _ => by linarith⟩
  · have := f.strictMono_mag.monotone (Nat.succ_le_of_lt above)
    exact ⟨by linarith, fun same => tie (by linarith)⟩

/-- A magnitude between two neighbours, not below their middle. -/
theorem Fmt.nearest_of_upper (high : x ≤ f.mag (c + 1)) (half : f.mag c + f.mag (c + 1) ≤ 2 * x)
    (tie : f.mag c + f.mag (c + 1) = 2 * x → (c + 1) % 2 = 0) : f.Nearest (c + 1) x := by
  refine ⟨fun b below => ?_, fun a above => ?_⟩
  · have := f.strictMono_mag.monotone (Nat.le_of_lt_succ below)
    exact ⟨by linarith, fun same => tie (by linarith)⟩
  · have := f.strictMono_mag above
    exact ⟨by linarith, fun _ => by linarith⟩

theorem Fmt.Nearest.le_of_mag_le {b : Nat} (h : f.Nearest c x) (le : f.mag b ≤ x) : b ≤ c := by
  by_contra above
  have := (h.2 b (by omega)).1
  have := f.strictMono_mag (by omega : c < b)
  linarith

theorem Fmt.Nearest.le_of_le_mag {b : Nat} (h : f.Nearest c x) (le : x ≤ f.mag b) : c ≤ b := by
  by_contra below
  have := (h.1 b (by omega)).1
  have := f.strictMono_mag (by omega : b < c)
  linarith

theorem Fmt.Nearest.eq_of_mag_eq {b : Nat} (h : f.Nearest c x) (same : f.mag b = x) : c = b :=
  le_antisymm (h.le_of_le_mag same.ge) (h.le_of_mag_le same.le)

/-- The code above an odd one is reached at the middle between them. -/
theorem Fmt.Nearest.lt_iff_of_odd {b : Nat} (h : f.Nearest c x) (odd : b % 2 = 1) : b < c ↔ f.mag b + f.mag (b + 1) ≤ 2 * x := by
  constructor
  · intro above
    have := (h.1 b above).1
    have := f.strictMono_mag.monotone (Nat.succ_le_of_lt above)
    linarith
  · intro half
    by_contra below
    obtain ⟨le, tie⟩ := h.2 (b + 1) (by omega)
    have := f.strictMono_mag.monotone (by omega : c ≤ b)
    obtain rfl : c = b := f.strictMono_mag.injective (by linarith)
    have := tie (by linarith)
    omega

/-- Nothing reaches the least code but what is above half of it. -/
theorem Fmt.Nearest.eq_zero (h : f.Nearest c x) (half : 2 * x ≤ f.mag 1) : c = 0 := by
  by_contra pos
  obtain ⟨le, tie⟩ := h.1 0 (by omega)
  rw [f.mag_zero, zero_add] at le tie
  have := f.strictMono_mag.monotone (by omega : 1 ≤ c)
  obtain rfl : c = 1 := f.strictMono_mag.injective (by linarith)
  have := tie (by linarith)
  omega

/-- No code lies nearer. -/
theorem Fmt.Nearest.dist_le (h : f.Nearest c x) (b : Nat) : |f.mag c - x| ≤ |f.mag b - x| ∧
    (|f.mag b - x| = |f.mag c - x| → b ≠ c → c % 2 = 0) := by
  rcases lt_trichotomy b c with below | rfl | above
  · obtain ⟨le, tie⟩ := h.1 b below
    have := f.strictMono_mag below
    rw [abs_of_nonpos (by linarith : f.mag b - x ≤ 0), abs_le]
    exact ⟨⟨by linarith, by linarith⟩, fun same _ => tie (by
      rcases abs_cases (f.mag c - x) with ⟨e, _⟩ | ⟨e, _⟩ <;> linarith)⟩
  · exact ⟨le_rfl, fun _ other => absurd rfl other⟩
  · obtain ⟨le, tie⟩ := h.2 b above
    have := f.strictMono_mag above
    rw [abs_of_nonneg (by linarith : 0 ≤ f.mag b - x), abs_le]
    exact ⟨⟨by linarith, by linarith⟩, fun same _ => tie (by
      rcases abs_cases (f.mag c - x) with ⟨e, _⟩ | ⟨e, _⟩ <;> linarith)⟩

end

/-! ## What roundCode gives -/

/-- A quotient rounded to nearest even is the quotient or the next number, by the middle between them. -/
theorem rneShift_cases (m j : Nat) :
    (rneShift m j = m / 2 ^ j ∧ 2 * m ≤ (2 * (m / 2 ^ j) + 1) * 2 ^ j ∧
      (2 * m = (2 * (m / 2 ^ j) + 1) * 2 ^ j → m / 2 ^ j % 2 = 0)) ∨
    (rneShift m j = m / 2 ^ j + 1 ∧ (2 * (m / 2 ^ j) + 1) * 2 ^ j ≤ 2 * m ∧
      ((2 * (m / 2 ^ j) + 1) * 2 ^ j = 2 * m → (m / 2 ^ j + 1) % 2 = 0)) := by
  have parts := Nat.div_add_mod m (2 ^ j)
  have expand : (2 * (m / 2 ^ j) + 1) * 2 ^ j = 2 * (2 ^ j * (m / 2 ^ j)) + 2 ^ j := by ring
  rw [expand]
  unfold rneShift
  dsimp only
  generalize 2 ^ j * (m / 2 ^ j) = low at parts ⊢
  split
  · exact .inr ⟨rfl, by omega, by omega⟩
  · split
    · next tie =>
      have same : 2 * (m % 2 ^ j) = 2 ^ j := (by simpa using tie : _ ∧ j ≠ 0).1
      rcases Nat.mod_two_eq_zero_or_one (m / 2 ^ j) with even | odd
      · exact .inl ⟨by omega, by omega, by omega⟩
      · exact .inr ⟨by omega, by omega, by omega⟩
    · next above tie =>
      have apart : 2 * (m % 2 ^ j) = 2 ^ j → j = 0 := fun same => by
        by_contra nonzero
        exact tie (by simp [same, nonzero])
      refine .inl ⟨rfl, by omega, fun same => ?_⟩
      obtain rfl := apart (by omega)
      omega

/-- The code that rounding gives: k binades of the quantum, and a significand that the quantum is chosen to fit. -/
theorem Fmt.exists_quantum (f : Fmt) {m : Nat} (nonzero : m ≠ 0) (e : Int) : ∃ k : Nat,
    f.roundCode m e = k * 2 ^ f.mbits +
      (if e ≥ f.tiny + k then m * 2 ^ (e - (f.tiny + k)).toNat else rneShift m (f.tiny + k - e).toNat) ∧
    (Nat.log2 m : Int) + e ≤ f.tiny + k + f.mbits ∧ (k = 0 ∨ (Nat.log2 m : Int) + e = f.tiny + k + f.mbits) := by
  have quantum : f.tiny + ((max ((Nat.log2 m : Int) + e - f.mbits) f.tiny - f.tiny).toNat : Int) = max ((Nat.log2 m : Int) + e - f.mbits) f.tiny := by
    omega
  refine ⟨(max ((Nat.log2 m : Int) + e - f.mbits) f.tiny - f.tiny).toNat, ?_, by omega, by omega⟩
  rw [quantum, Fmt.roundCode, if_neg nonzero]
  have binades : max ((Nat.log2 m : Int) + e - f.mbits) f.tiny + f.mbits + f.bias - 1 =
      max ((Nat.log2 m : Int) + e - f.mbits) f.tiny - f.tiny := by
    rw [Fmt.tiny]
    omega
  rw [← binades]
  rfl

section
variable {m k : Nat} {e : Int}

/-- A significand scaled to a finer quantum is exact. -/
theorem Fmt.splits_of_fine (nonzero : m ≠ 0) (d : Nat) (fits : Nat.log2 m + d ≤ f.mbits) (normal : k = 0 ∨ Nat.log2 m + d = f.mbits) :
    f.Splits (k * 2 ^ f.mbits + m * 2 ^ d) k (m * 2 ^ d) := by
  refine ⟨rfl, ?_, normal.imp_right fun same => ?_⟩
  · calc m * 2 ^ d < 2 ^ (Nat.log2 m + 1) * 2 ^ d := Nat.mul_lt_mul_of_pos_right Nat.lt_log2_self (Nat.two_pow_pos d)
      _ = 2 ^ (Nat.log2 m + d + 1) := by rw [← Nat.pow_add, Nat.add_right_comm]
      _ ≤ 2 ^ (f.mbits + 1) := Nat.pow_le_pow_right two_pos (by omega)
  · calc 2 ^ f.mbits = 2 ^ Nat.log2 m * 2 ^ d := by rw [← Nat.pow_add, same]
      _ ≤ m * 2 ^ d := Nat.mul_le_mul_right _ (Nat.log2_self_le nonzero)

/-- A significand cut to a coarser quantum. -/
theorem Fmt.splits_of_coarse (nonzero : m ≠ 0) (d : Nat) (fits : Nat.log2 m ≤ f.mbits + d) (normal : k = 0 ∨ Nat.log2 m = f.mbits + d) :
    f.Splits (k * 2 ^ f.mbits + m / 2 ^ d) k (m / 2 ^ d) := by
  refine ⟨rfl, Nat.div_lt_of_lt_mul ?_, normal.imp_right fun same => (Nat.le_div_iff_mul_le (Nat.two_pow_pos d)).2 ?_⟩
  · calc m < 2 ^ (Nat.log2 m + 1) := Nat.lt_log2_self
      _ ≤ 2 ^ (d + (f.mbits + 1)) := Nat.pow_le_pow_right two_pos (by omega)
      _ = 2 ^ d * 2 ^ (f.mbits + 1) := Nat.pow_add ..
  · rw [← Nat.pow_add, ← same]
    exact Nat.log2_self_le nonzero

end

/-- A value whose significand has no more bits than the format's, and no finer quantum, is a code's, and rounding gives it. -/
theorem Fmt.mag_roundCode {m : Nat} {e : Int} (short : m < 2 ^ (f.mbits + 1)) (coarse : f.tiny ≤ e) :
    f.mag (f.roundCode m e) = m * 2 ^ e := by
  rcases eq_or_ne m 0 with rfl | nonzero
  · rw [Fmt.roundCode, if_pos rfl, f.mag_zero, Nat.cast_zero, zero_mul]
  · have bits : Nat.log2 m < f.mbits + 1 := (Nat.log2_lt nonzero).2 short
    obtain ⟨k, code, fits, normal⟩ := f.exists_quantum nonzero e
    have fine : e ≥ f.tiny + k := by omega
    obtain ⟨d, hd⟩ := Int.eq_ofNat_of_zero_le (Int.sub_nonneg.2 fine)
    obtain rfl : e = f.tiny + k + d := by omega
    rw [if_pos fine, hd, Int.toNat_natCast] at code
    rw [code, (Fmt.splits_of_fine nonzero d (by omega) (by omega)).mag, zpow_add₀ two_ne_zero (_ + _), zpow_natCast]
    push_cast
    ring

/-- Rounding gives the nearest code (R135). -/
theorem Fmt.roundCode_nearest (significand : 0 < f.mbits) (m : Nat) (e : Int) : f.Nearest (f.roundCode m e) (m * 2 ^ e) := by
  rcases eq_or_ne m 0 with rfl | nonzero
  · rw [Fmt.roundCode, if_pos rfl, Nat.cast_zero, zero_mul]
    have := f.mag_nonneg 1
    exact Fmt.nearest_of_lower f.mag_zero.le (by rw [f.mag_zero]; linarith) fun _ => rfl
  · obtain ⟨k, code, fits, normal⟩ := f.exists_quantum nonzero e
    rw [code]
    split
    · next fine =>
      obtain ⟨d, hd⟩ := Int.eq_ofNat_of_zero_le (Int.sub_nonneg.2 fine)
      obtain rfl : e = f.tiny + k + d := by omega
      rw [hd, Int.toNat_natCast]
      have splits := Fmt.splits_of_fine nonzero d (f := f) (k := k) (by omega) (by omega)
      have exact : f.mag (k * 2 ^ f.mbits + m * 2 ^ d) = m * 2 ^ (f.tiny + k + d) := by
        rw [splits.mag, zpow_add₀ two_ne_zero (_ + _), zpow_natCast]
        push_cast
        ring
      have above := f.strictMono_mag (Nat.lt_succ_self (k * 2 ^ f.mbits + m * 2 ^ d))
      exact Fmt.nearest_of_lower exact.le (by linarith) fun same => by linarith
    · next coarse =>
      obtain ⟨d, hd⟩ := Int.eq_ofNat_of_zero_le (by omega : 0 ≤ f.tiny + k - e)
      rw [hd, Int.toNat_natCast]
      have splits := Fmt.splits_of_coarse nonzero d (f := f) (k := k) (by omega) (by omega)
      have unit : (2 : ℚ) ^ (f.tiny + k) = 2 ^ d * 2 ^ e := by
        rw [← zpow_natCast, ← zpow_add₀ two_ne_zero, ← hd, sub_add_cancel]
      have pos : (0 : ℚ) < 2 ^ e := zpow_pos two_pos e
      have middle : f.mag (k * 2 ^ f.mbits + m / 2 ^ d) + f.mag (k * 2 ^ f.mbits + m / 2 ^ d + 1) =
          ((2 * (m / 2 ^ d) + 1) * 2 ^ d : Nat) * 2 ^ e := by
        rw [splits.mag, splits.mag_succ, unit]
        push_cast
        ring
      have twice : 2 * ((m : ℚ) * 2 ^ e) = (2 * m : Nat) * 2 ^ e := by
        push_cast
        ring
      have even (t : Nat) : (k * 2 ^ f.mbits + t) % 2 = t % 2 := by
        obtain ⟨b, hb⟩ := Nat.exists_eq_add_of_lt significand
        rw [hb, Nat.zero_add, Nat.pow_succ, ← Nat.mul_assoc, Nat.mul_comm _ 2, Nat.mul_add_mod]
      rcases rneShift_cases m d with ⟨mant, half, tie⟩ | ⟨mant, half, tie⟩
      · rw [mant]
        refine Fmt.nearest_of_lower ?_ ?_ ?_
        · rw [splits.mag, unit, ← mul_assoc]
          exact mul_le_mul_of_nonneg_right (by exact_mod_cast Nat.div_mul_le_self m (2 ^ d)) pos.le
        · rw [middle, twice]
          exact mul_le_mul_of_nonneg_right (by exact_mod_cast half) pos.le
        · rw [middle, twice, even]
          exact fun same => tie (by exact_mod_cast mul_right_cancel₀ pos.ne' same)
      · rw [mant, ← Nat.add_assoc]
        refine Fmt.nearest_of_upper ?_ ?_ ?_
        · rw [splits.mag_succ, unit, ← mul_assoc]
          exact mul_le_mul_of_nonneg_right (by exact_mod_cast (Nat.lt_mul_of_div_lt (Nat.lt_succ_self _) (Nat.two_pow_pos d)).le) pos.le
        · rw [middle, twice]
          exact mul_le_mul_of_nonneg_right (by exact_mod_cast half) pos.le
        · rw [middle, twice, Nat.add_assoc, even]
          exact fun same => tie (by exact_mod_cast mul_right_cancel₀ pos.ne' same)

end Sys2Proof.Machine
end

section
/-!
SUPPORT. The codes of the formats and the values they stand for (R134), F32's among them: an infinity, a NaN, or a sign and a magnitude.
-/

namespace Sys2Proof.Machine

variable {f : Fmt}

/-! ## The value of a code -/

/-- The exponent field stands below the sign. -/
theorem Fmt.exponent_mod (f : Fmt) (x : Nat) : x % 2 ^ (f.ebits + f.mbits) / 2 ^ f.mbits = x / 2 ^ f.mbits % 2 ^ f.ebits := by
  rw [Nat.add_comm, Nat.pow_add, Nat.mod_mul_right_div_self]

theorem Fmt.mantissa_mod (f : Fmt) (x : Nat) : x % 2 ^ (f.ebits + f.mbits) % 2 ^ f.mbits = x % 2 ^ f.mbits :=
  Nat.mod_mod_of_dvd _ (Nat.pow_dvd_pow 2 (Nat.le_add_left ..))

/-- A code that is no infinity and no NaN stands for its sign and its magnitude. -/
theorem Fmt.value_of_finite {x : Nat} (finite : f.infinities = true → x / 2 ^ f.mbits % 2 ^ f.ebits ≠ 2 ^ f.ebits - 1) :
    ∃ m e, f.value x = .fin (x / 2 ^ (f.ebits + f.mbits) % 2 == 1) m e ∧ (m : ℚ) * 2 ^ e = f.mag (x % 2 ^ (f.ebits + f.mbits)) ∧
      m < 2 ^ (f.mbits + 1) ∧ f.tiny ≤ e := by
  have low : x % 2 ^ f.mbits < 2 ^ f.mbits := Nat.mod_lt _ (Nat.two_pow_pos _)
  rw [Fmt.mag, f.exponent_mod, f.mantissa_mod, Nat.pow_succ]
  have special : ¬ (f.infinities && decide (x / 2 ^ f.mbits % 2 ^ f.ebits = 2 ^ f.ebits - 1)) = true := by simpa using finite
  simp only [Fmt.value]
  rw [if_neg special]
  split
  · exact ⟨_, _, rfl, by rw [Fmt.tiny], by omega, le_rfl⟩
  · next normal =>
    have same : (((x / 2 ^ f.mbits % 2 ^ f.ebits : Nat) : Int)) - f.bias - f.mbits = f.tiny + (x / 2 ^ f.mbits % 2 ^ f.ebits - 1 : Nat) := by
      rw [Fmt.tiny]
      omega
    exact ⟨_, _, rfl, by rw [same], by omega, by omega⟩

/-! ## F32 codes -/

theorem mod_signedCode (n : Bool) {c : Nat} (h : c < 2 ^ 31) : (signedCode n c).toNat % 2 ^ 31 = c := by
  rw [signedCode, BitVec.toNat_ofNat]
  cases n <;> simp only [Bool.false_eq_true, if_false, if_true] <;> omega

theorem toNat_signedCode (n : Bool) {c : Nat} (h : c < 2 ^ 31) : (signedCode n c).toNat = (if n then 2 ^ 31 else 0) + c := by
  rw [signedCode, BitVec.toNat_ofNat]
  cases n <;> simp only [Bool.false_eq_true, if_false, if_true] <;> omega

/-- Bit 31 is the sign. -/
theorem getLsbD_31 (x : Word32) : x.getLsbD 31 = (x.toNat / 2 ^ 31 % 2 == 1) := by
  rw [BitVec.getLsbD, Nat.testBit_eq_decide_div_mod_eq]
  rfl

theorem getLsbD_signedCode (n : Bool) {c : Nat} (h : c < 2 ^ 31) : (signedCode n c).getLsbD 31 = n := by
  rw [getLsbD_31, toNat_signedCode n h]
  cases n <;> simp only [Bool.false_eq_true, if_false, if_true, beq_iff_eq, beq_eq_false_iff_ne] <;> omega

/-- A code is its sign and what is below it. -/
theorem signedCode_parts (x : Word32) : signedCode (x.getLsbD 31) (x.toNat % 2 ^ 31) = x := by
  have bound := x.isLt
  refine BitVec.eq_of_toNat_eq ?_
  rw [toNat_signedCode _ (Nat.mod_lt _ (by decide)), getLsbD_31]
  by_cases sign : x.toNat / 2 ^ 31 % 2 = 1
  · rw [if_pos (beq_iff_eq.2 sign)]
    omega
  · rw [if_neg (by simpa using sign)]
    omega

theorem eq_of_parts {x y : Word32} (sign : x.getLsbD 31 = y.getLsbD 31) (code : x.toNat % 2 ^ 31 = y.toNat % 2 ^ 31) : x = y := by
  rw [← signedCode_parts x, ← signedCode_parts y, sign, code]

/-- The zero of a code's sign. -/
theorem signedCode_zero (x : Word32) : signedCode (x.getLsbD 31) 0 = x &&& 0x80000000 := by
  refine eq_of_parts ?_ ?_
  · rw [getLsbD_signedCode _ (by decide), BitVec.getLsbD_and]
    simp
  · rw [mod_signedCode _ (by decide), BitVec.toNat_and]
    rw [Nat.and_mod_two_pow]
    exact (Nat.and_zero _).symm

theorem signedCode_not_zero (x : Word32) : signedCode (!x.getLsbD 31) 0 = (x ^^^ 0x80000000) &&& 0x80000000 := by
  rw [← signedCode_zero, BitVec.getLsbD_xor]
  simp

theorem isNaN32_iff {x : Word32} : isNaN32 x = true ↔ 0x7F800000 < x.toNat % 2 ^ 31 := decide_eq_true_iff

/-- What an F32 code stands for: a NaN, or its sign with an infinity or its magnitude. -/
inductive StandsFor (x : Word32) : FVal → Prop
  | nan (h : isNaN32 x = true) : StandsFor x .nan
  | inf (h : x.toNat % 2 ^ 31 = 0x7F800000) : StandsFor x (.inf (x.getLsbD 31))
  | fin (h : x.toNat % 2 ^ 31 < 0x7F800000) (m : Nat) (e : Int) (mag : (m : ℚ) * 2 ^ e = fmtF32.mag (x.toNat % 2 ^ 31)) (short : m < 2 ^ 24) :
      StandsFor x (.fin (x.getLsbD 31) m e)

theorem standsFor_valF32 (x : Word32) : StandsFor x (valF32 x) := by
  have exponent : x.toNat / 2 ^ fmtF32.mbits % 2 ^ fmtF32.ebits = x.toNat / 8388608 % 256 := rfl
  by_cases special : x.toNat / 8388608 % 256 = 255
  · have value : valF32 x = if x.toNat % 2 ^ 23 = 0 then .inf (x.getLsbD 31) else .nan := by
      rw [getLsbD_31]
      exact if_pos (by rw [exponent, special]; rfl)
    rw [value]
    split
    · exact .inf (by omega)
    · exact .nan (isNaN32_iff.2 (by omega))
  · obtain ⟨m, e, value, mag, short, -⟩ := fmtF32.value_of_finite (x := x.toNat) (fun _ => special)
    rw [valF32, value]
    have sign : (x.toNat / 2 ^ (fmtF32.ebits + fmtF32.mbits) % 2 == 1) = x.getLsbD 31 := (getLsbD_31 x).symm
    rw [sign]
    exact .fin (by omega) m e mag short

theorem valF32_of_nan {x : Word32} (h : isNaN32 x = true) : valF32 x = .nan := by
  have code := isNaN32_iff.1 h
  have stands := standsFor_valF32 x
  generalize valF32 x = v at stands ⊢
  cases stands with
  | nan => rfl
  | inf h' => omega
  | fin h' => omega

theorem valF32_of_inf {x : Word32} (h : x.toNat % 2 ^ 31 = 0x7F800000) : valF32 x = .inf (x.getLsbD 31) := by
  have stands := standsFor_valF32 x
  generalize valF32 x = v at stands ⊢
  cases stands with
  | nan nan => have := isNaN32_iff.1 nan; omega
  | inf => rfl
  | fin h' => omega

theorem valF32_of_finite {x : Word32} (h : x.toNat % 2 ^ 31 < 0x7F800000) :
    ∃ m e, valF32 x = .fin (x.getLsbD 31) m e ∧ (m : ℚ) * 2 ^ e = fmtF32.mag (x.toNat % 2 ^ 31) ∧ m < 2 ^ 24 := by
  have stands := standsFor_valF32 x
  generalize valF32 x = v at stands ⊢
  cases stands with
  | nan nan => have := isNaN32_iff.1 nan; omega
  | inf inf => omega
  | fin _ m e mag short => exact ⟨m, e, rfl, mag, short⟩

/-- A significand is zero just where the code is a zero. -/
theorem significand_eq_zero {m c : Nat} {e : Int} (mag : (m : ℚ) * 2 ^ e = f.mag c) : m = 0 ↔ c = 0 := by
  rw [← Fmt.mag_eq_zero (f := f) (c := c), ← mag, mul_eq_zero, or_iff_left (zpow_ne_zero e two_ne_zero), Nat.cast_eq_zero]

/-! ## F32 results -/

section
variable (n : Bool) (m : Nat) (e : Int)

theorem min_roundCode_lt : min (fmtF32.roundCode m e) 0x7F800000 < 2 ^ 31 := lt_of_le_of_lt (min_le_right ..) (by decide)

theorem getLsbD_toF32_fin : (toF32 (.fin n m e)).getLsbD 31 = n := getLsbD_signedCode n (min_roundCode_lt m e)

theorem mod_toF32_fin : (toF32 (.fin n m e)).toNat % 2 ^ 31 = min (fmtF32.roundCode m e) 0x7F800000 := mod_signedCode n (min_roundCode_lt m e)

theorem toF32_fin_zero : toF32 (.fin n 0 e) = signedCode n 0 := rfl

end

/-- A value that is a code's, or the least above all of them, is given back. -/
theorem toF32_fin_of_mag {n : Bool} {m c : Nat} {e : Int} (mag : (m : ℚ) * 2 ^ e = fmtF32.mag c) (h : c ≤ 0x7F800000) :
    toF32 (.fin n m e) = signedCode n c := by
  have code : fmtF32.roundCode m e = c := (fmtF32.roundCode_nearest (by decide) m e).eq_of_mag_eq mag.symm
  rw [toF32, code, min_eq_left h]

theorem toF32_valF32 {x : Word32} (h : isNaN32 x = false) : toF32 (valF32 x) = x := by
  have code : x.toNat % 2 ^ 31 ≤ 0x7F800000 := by simpa [isNaN32] using h
  have stands := standsFor_valF32 x
  generalize valF32 x = v at stands ⊢
  cases stands with
  | nan nan => have := isNaN32_iff.1 nan; omega
  | inf inf => rw [toF32, ← inf, signedCode_parts]
  | fin _ m e mag => rw [toF32_fin_of_mag mag code, signedCode_parts]

/-- A result that is a NaN is the canonical one. -/
theorem toF32_eq_of_isNaN32 {v : FVal} (h : isNaN32 (toF32 v) = true) : toF32 v = nanF32 := by
  have code := isNaN32_iff.1 h
  cases v with
  | nan => rfl
  | inf n => rw [toF32, mod_signedCode n (by decide)] at code; omega
  | fin n m e => rw [mod_toF32_fin] at code; omega

/-- A zero result comes from a finite value of its sign. -/
theorem toF32_zero_cases {v : FVal} (h : (toF32 v).toNat % 2 ^ 31 = 0) : ∃ m e, v = .fin ((toF32 v).getLsbD 31) m e := by
  cases v with
  | nan => exact absurd h (by decide)
  | inf n => rw [toF32, mod_signedCode n (by decide)] at h; omega
  | fin n m e => exact ⟨m, e, by rw [getLsbD_toF32_fin]⟩

/-! ## Distances (R135) -/

/-- The number that a finite value is. -/
def FVal.toRat : FVal → ℚ
  | .fin n m e => (if n then -1 else 1) * (m : ℚ) * (2 : ℚ) ^ e
  | _ => 0

theorem FVal.toRat_fin {n : Bool} {m : Nat} {e : Int} {x : ℚ} (mag : (m : ℚ) * 2 ^ e = x) :
    (FVal.fin n m e).toRat = if n then -x else x := by
  cases n <;> simp [FVal.toRat, ← mag]

/-- A finite code is the number of its sign and magnitude. -/
theorem toRat_valF32 {x : Word32} (h : x.toNat % 2 ^ 31 < 0x7F800000) :
    (valF32 x).toRat = if x.getLsbD 31 then -fmtF32.mag (x.toNat % 2 ^ 31) else fmtF32.mag (x.toNat % 2 ^ 31) := by
  obtain ⟨m, e, value, mag, -⟩ := valF32_of_finite h
  rw [value, FVal.toRat_fin mag]

/-- Two numbers of the same sign are as far apart as their magnitudes. -/
theorem abs_signed_sub_same (n : Bool) (x y : ℚ) : |(if n then -x else x) - (if n then -y else y)| = |x - y| := by
  cases n
  · rfl
  · rw [if_pos rfl, if_pos rfl, neg_sub_neg, abs_sub_comm]

/-- Two numbers of different signs are as far apart as both from zero. -/
theorem abs_signed_sub_other {n k : Bool} (other : n ≠ k) {x y : ℚ} (hx : 0 ≤ x) (hy : 0 ≤ y) :
    |(if n then -x else x) - (if k then -y else y)| = x + y := by
  cases n <;> cases k
  · exact absurd rfl other
  · rw [if_neg Bool.false_ne_true, if_pos rfl, sub_neg_eq_add, abs_of_nonneg (add_nonneg hx hy)]
  · rw [if_neg Bool.false_ne_true, if_pos rfl, ← neg_add', abs_neg, abs_of_nonneg (add_nonneg hx hy)]
  · exact absurd rfl other

end Sys2Proof.Machine
end

section
/-!
SUPPORT. The float operations on NaNs, zeros and signs (R135, R136).
-/

namespace Sys2Proof.Machine

/-! ## NaN -/

@[simp] theorem FVal.nan_add (v : FVal) : FVal.nan.add v = .nan := rfl
@[simp] theorem FVal.add_nan (v : FVal) : v.add .nan = .nan := by cases v <;> rfl
@[simp] theorem FVal.nan_mul (v : FVal) : FVal.nan.mul v = .nan := rfl
@[simp] theorem FVal.mul_nan (v : FVal) : v.mul .nan = .nan := by cases v <;> rfl
@[simp] theorem FVal.nan_div (v : FVal) : FVal.nan.div v = .nan := rfl
@[simp] theorem FVal.div_nan (v : FVal) : v.div .nan = .nan := by cases v <;> rfl
@[simp] theorem FVal.neg_nan : FVal.nan.neg = .nan := rfl
@[simp] theorem FVal.sqrt_nan : FVal.nan.sqrt = .nan := rfl
@[simp] theorem toF32_nan : toF32 .nan = 0x7FC00000 := rfl

/-- The comparisons are false of a NaN. -/
theorem compare_of_nan {x y : Word32} (h : isNaN32 x = true) : f32Eq x y = false ∧ f32Eq y x = false ∧ f32Lt x y = false ∧
    f32Lt y x = false ∧ f32Le x y = false ∧ f32Le y x = false := by
  simp [f32Eq, f32Lt, f32Le, h]

theorem f32Pick_of_left_nan {first : Int → Int → Bool} {x y : Word32} (hx : isNaN32 x = true) (hy : isNaN32 y = false) :
    f32Pick first x y = y := by
  simp [f32Pick, hx, hy]

theorem f32Pick_of_right_nan {first : Int → Int → Bool} {x y : Word32} (hx : isNaN32 x = false) (hy : isNaN32 y = true) :
    f32Pick first x y = x := by
  simp [f32Pick, hx, hy]

theorem f32Pick_of_nans {first : Int → Int → Bool} {x y : Word32} (hx : isNaN32 x = true) (hy : isNaN32 y = true) :
    f32Pick first x y = 0x7FC00000 := by
  simp [f32Pick, hx, hy, nanF32]

/-- A choice between two operands is NaN only for two NaNs, and then it is the canonical one. -/
theorem f32Pick_eq_of_isNaN32 {first : Int → Int → Bool} {x y : Word32} (h : isNaN32 (f32Pick first x y) = true) :
    f32Pick first x y = 0x7FC00000 := by
  rcases hx : isNaN32 x with _ | _ <;> rcases hy : isNaN32 y with _ | _
  · rcases hk : first (f32Key x) (f32Key y) with _ | _ <;> simp [f32Pick, hx, hy, hk] at h
  · rw [f32Pick_of_right_nan hx hy, hx] at h
    contradiction
  · rw [f32Pick_of_left_nan hx hy, hy] at h
    contradiction
  · exact f32Pick_of_nans hx hy

/-! ## Signs and zeros -/

theorem mod_flip (x : Word32) : (x ^^^ 0x80000000).toNat % 2 ^ 31 = x.toNat % 2 ^ 31 := by
  rw [BitVec.toNat_xor, Nat.xor_mod_two_pow]
  exact Nat.xor_zero _

theorem getLsbD_flip (x : Word32) : (x ^^^ 0x80000000).getLsbD 31 = !x.getLsbD 31 := by
  rw [BitVec.getLsbD_xor]
  simp

/-- A code with the other sign stands for the negative. -/
theorem Fmt.value_eq_neg {f : Fmt} {x y : Nat} (sign : (y / 2 ^ (f.ebits + f.mbits) % 2 == 1) = !(x / 2 ^ (f.ebits + f.mbits) % 2 == 1))
    (exponent : y / 2 ^ f.mbits % 2 ^ f.ebits = x / 2 ^ f.mbits % 2 ^ f.ebits) (mantissa : y % 2 ^ f.mbits = x % 2 ^ f.mbits) :
    f.value y = (f.value x).neg := by
  simp only [Fmt.value, sign, exponent, mantissa, apply_ite FVal.neg]
  rfl

theorem valF32_flip (x : Word32) : valF32 (x ^^^ 0x80000000) = (valF32 x).neg := by
  have sign := getLsbD_flip x
  have code := mod_flip x
  rw [getLsbD_31, getLsbD_31] at sign
  have exponent : (x ^^^ 0x80000000).toNat / 2 ^ 23 % 2 ^ 8 = x.toNat / 2 ^ 23 % 2 ^ 8 := by omega
  have mantissa : (x ^^^ 0x80000000).toNat % 2 ^ 23 = x.toNat % 2 ^ 23 := by omega
  exact Fmt.value_eq_neg sign exponent mantissa

/-- A finite value and its negative give the positive zero. -/
theorem FVal.add_neg_self (n : Bool) (m : Nat) (e : Int) : (FVal.fin n m e).add (FVal.fin n m e).neg = .fin false 0 0 := by
  have cancel : signedInt n m + signedInt (!n) m = 0 := by cases n <;> simp [signedInt]
  simp [FVal.neg, FVal.add, cancel]

theorem f32Add_flip {x : Word32} (finite : x.toNat % 2 ^ 31 < 0x7F800000) : f32Add x (x ^^^ 0x80000000) = 0 := by
  obtain ⟨m, e, hx, -⟩ := valF32_of_finite finite
  rw [f32Add, f32op, valF32_flip, hx, FVal.add_neg_self, toF32_fin_zero]
  rfl

theorem f32Sqrt_of_negative {x : Word32} (h : 2 ^ 31 < x.toNat) : f32Sqrt x = 0x7FC00000 := by
  have bound := x.isLt
  have sign : x.getLsbD 31 = true := by
    rw [getLsbD_31, beq_iff_eq]
    omega
  have stands := standsFor_valF32 x
  unfold f32Sqrt
  generalize valF32 x = v at stands ⊢
  cases stands with
  | nan => rfl
  | inf => rw [sign]; rfl
  | fin _ m e mag =>
    have nonzero : m ≠ 0 := fun zero => by
      have := (significand_eq_zero mag).1 zero
      omega
    rw [sign, FVal.sqrt, if_neg nonzero, if_pos rfl, toF32_nan]

/-- A finite value times a zero is a zero, with the exclusive or of the signs. -/
theorem f32Mul_of_zero {x z : Word32} (finite : x.toNat % 2 ^ 31 < 0x7F800000) (zero : z.toNat % 2 ^ 31 = 0) :
    f32Mul x z = signedCode (x.getLsbD 31 != z.getLsbD 31) 0 := by
  obtain ⟨m, e, hx, -⟩ := valF32_of_finite finite
  obtain ⟨k, j, hz, mag, -⟩ := valF32_of_finite (x := z) (by omega)
  obtain rfl := (significand_eq_zero mag).2 zero
  rw [f32Mul, f32op, hx, hz, FVal.mul, Nat.mul_zero, toF32_fin_zero]

/-- A finite value divided by an infinity is a zero, with the exclusive or of the signs. -/
theorem f32Div_of_inf {x z : Word32} (finite : x.toNat % 2 ^ 31 < 0x7F800000) (inf : z.toNat % 2 ^ 31 = 0x7F800000) :
    f32Div x z = signedCode (x.getLsbD 31 != z.getLsbD 31) 0 := by
  obtain ⟨m, e, hx, -⟩ := valF32_of_finite finite
  rw [f32Div, f32op, hx, valF32_of_inf inf, FVal.div, toF32_fin_zero]

/-- A zero divided by anything but a zero or a NaN is a zero, with the exclusive or of the signs. -/
theorem f32Div_zero {x z : Word32} (zero : z.toNat % 2 ^ 31 = 0) (nonzero : x.toNat % 2 ^ 31 ≠ 0) (number : isNaN32 x = false) :
    f32Div z x = signedCode (z.getLsbD 31 != x.getLsbD 31) 0 := by
  obtain ⟨k, j, hz, mag, -⟩ := valF32_of_finite (x := z) (by omega)
  obtain rfl := (significand_eq_zero mag).2 zero
  have stands := standsFor_valF32 x
  rw [f32Div, f32op, hz]
  generalize valF32 x = v at stands ⊢
  cases stands with
  | nan nan => exact absurd nan (by simp [number])
  | inf => rfl
  | fin _ m e mag =>
    have divisor : m ≠ 0 := fun none => nonzero ((significand_eq_zero mag).1 none)
    simp only [FVal.div, if_neg divisor, Nat.zero_mul, Nat.zero_div, Nat.zero_mod, if_true]
    rfl

/-- The sign of a value that is no NaN. -/
def FVal.HasSign (n : Bool) : FVal → Prop
  | .nan => True
  | .inf k => k = n
  | .fin k _ _ => k = n

theorem hasSign_valF32 (x : Word32) : (valF32 x).HasSign (x.getLsbD 31) := by
  have stands := standsFor_valF32 x
  generalize valF32 x = v at stands ⊢
  cases stands with
  | nan => trivial
  | inf => rfl
  | fin => rfl

section
variable {a b : Bool} {v w : FVal}

theorem FVal.HasSign.mul (hv : v.HasSign a) (hw : w.HasSign b) : (v.mul w).HasSign (a != b) := by
  cases v with
  | nan => trivial
  | inf n =>
    obtain rfl : n = a := hv
    cases w with
    | nan => trivial
    | inf k => exact congrArg (n != ·) hw
    | fin k m e =>
      rw [FVal.mul]
      split
      exacts [trivial, congrArg (n != ·) hw]
  | fin n m e =>
    obtain rfl : n = a := hv
    cases w with
    | nan => trivial
    | inf k =>
      rw [FVal.mul]
      split
      exacts [trivial, congrArg (n != ·) hw]
    | fin k m e => exact congrArg (n != ·) hw

theorem FVal.HasSign.div (hv : v.HasSign a) (hw : w.HasSign b) : (v.div w).HasSign (a != b) := by
  cases v with
  | nan => trivial
  | inf n =>
    obtain rfl : n = a := hv
    cases w with
    | nan => trivial
    | inf k => trivial
    | fin k m e => exact congrArg (n != ·) hw
  | fin n m e =>
    obtain rfl : n = a := hv
    cases w with
    | nan => trivial
    | inf k => exact congrArg (n != ·) hw
    | fin k m e =>
      rw [FVal.div]
      split
      · split
        exacts [trivial, congrArg (n != ·) hw]
      · exact congrArg (n != ·) hw

/-- A zero result has its value's sign. -/
theorem FVal.HasSign.getLsbD_toF32 (hv : v.HasSign a) (zero : (toF32 v).toNat % 2 ^ 31 = 0) : (toF32 v).getLsbD 31 = a := by
  obtain ⟨m, e, he⟩ := toF32_zero_cases zero
  rw [he] at hv
  exact hv

end

end Sys2Proof.Machine
end

section
/-!
The statement on the special values of F32.
-/

namespace Sys2Proof
open Machine

theorem f32_of_nan {x y z : Word32} (h : isNaN32 x = true) :
    f32Add x y = 0x7FC00000 ∧ f32Add y x = 0x7FC00000 ∧ f32Sub x y = 0x7FC00000 ∧ f32Sub y x = 0x7FC00000 ∧
    f32Mul x y = 0x7FC00000 ∧ f32Mul y x = 0x7FC00000 ∧ f32Div x y = 0x7FC00000 ∧ f32Div y x = 0x7FC00000 ∧
    f32Fma x y z = 0x7FC00000 ∧ f32Fma y x z = 0x7FC00000 ∧ f32Fma y z x = 0x7FC00000 ∧ f32Sqrt x = 0x7FC00000 := by
  simp [f32Add, f32Sub, f32Mul, f32Div, f32Fma, f32Sqrt, f32op, valF32_of_nan h]

theorem canonical_of_isNaN32 (x y z : Word32) :
    ∀ r ∈ [f32Add x y, f32Sub x y, f32Mul x y, f32Div x y, f32Fma x y z, f32Sqrt x, f32Min x y, f32Max x y],
      isNaN32 r = true → r = 0x7FC00000 := by
  simp only [List.forall_mem_cons, List.not_mem_nil, false_imp_iff, implies_true, and_true]
  exact ⟨toF32_eq_of_isNaN32, toF32_eq_of_isNaN32, toF32_eq_of_isNaN32, toF32_eq_of_isNaN32, toF32_eq_of_isNaN32, toF32_eq_of_isNaN32,
    f32Pick_eq_of_isNaN32, f32Pick_eq_of_isNaN32⟩

/-- Settles O12, clause by clause; that a code is its own value rounded is `toF32_valF32`. -/
theorem floatSpecialValues : Obligations.FloatSpecialValues := by
  unfold Obligations.FloatSpecialValues
  have finite_of {x : Word32} (number : isNaN32 x = false) (other : x.toNat % 2 ^ 31 ≠ 0x7F800000) : x.toNat % 2 ^ 31 < 0x7F800000 := by
    have : ¬ 0x7F800000 < x.toNat % 2 ^ 31 := by simpa [isNaN32] using number
    omega
  refine ⟨fun x y z nan => ?_, canonical_of_isNaN32, fun x number => ?_, by decide, by decide, by decide, by decide, by decide, by decide, by decide,
    by decide, fun x number other => ?_, fun x number nonzero => ?_, fun x y => ?_⟩
  · obtain ⟨h1, h2, h3, h4, h5, h6, h7, h8, h9, h10, h11, h12⟩ := f32_of_nan (y := y) (z := z) nan
    exact ⟨h1, h2, h3, h4, h5, h6, h7, h8, h9, h10, h11, h12, fun number => ⟨f32Pick_of_left_nan nan number, f32Pick_of_right_nan number nan,
      f32Pick_of_left_nan nan number, f32Pick_of_right_nan number nan⟩, fun other => ⟨f32Pick_of_nans nan other, f32Pick_of_nans nan other⟩,
      compare_of_nan nan⟩
  · exact ⟨toF32_valF32 number, fun _ other => f32Add_flip (finite_of number other), f32Sqrt_of_negative⟩
  · have finite := finite_of number other
    rw [f32Mul_of_zero finite (by decide), f32Mul_of_zero finite (by decide), f32Div_of_inf finite (by decide), f32Div_of_inf finite (by decide),
      ← signedCode_zero, ← signedCode_not_zero]
    simp
  · rw [f32Div_zero (by decide) nonzero number, f32Div_zero (by decide) nonzero number, ← signedCode_zero, ← signedCode_not_zero]
    simp
  · simp only [List.forall_mem_cons, List.not_mem_nil, false_imp_iff, implies_true, and_true]
    exact ⟨((hasSign_valF32 x).mul (hasSign_valF32 y)).getLsbD_toF32, ((hasSign_valF32 x).div (hasSign_valF32 y)).getLsbD_toF32⟩

end Sys2Proof
end

section
/-!
The statement on rounding.
-/

namespace Sys2Proof
open Machine

/-- Of all finite codes none is nearer than the result, and where another is as near, the result is even. -/
theorem toF32_fin_dist_le {n : Bool} {m : Nat} {e : Int} (hr : (toF32 (.fin n m e)).toNat % 2 ^ 31 < 0x7F800000) {c : Word32}
    (hc : c.toNat % 2 ^ 31 < 0x7F800000) :
    |(valF32 (toF32 (.fin n m e))).toRat - (FVal.fin n m e).toRat| ≤ |(valF32 c).toRat - (FVal.fin n m e).toRat| ∧
    (|(valF32 c).toRat - (FVal.fin n m e).toRat| = |(valF32 (toF32 (.fin n m e))).toRat - (FVal.fin n m e).toRat| →
      (valF32 c).toRat ≠ (valF32 (toF32 (.fin n m e))).toRat → (toF32 (.fin n m e)).getLsbD 0 = false) := by
  have nearest := fmtF32.roundCode_nearest (by decide) m e
  have code : (toF32 (.fin n m e)).toNat % 2 ^ 31 = fmtF32.roundCode m e := by
    rw [mod_toF32_fin] at hr ⊢
    omega
  have even : fmtF32.roundCode m e % 2 = 0 → (toF32 (.fin n m e)).getLsbD 0 = false := by
    intro h
    rw [BitVec.getLsbD, Nat.testBit_zero, decide_eq_false_iff_not]
    omega
  have size : 0 ≤ (m : ℚ) * 2 ^ e := mul_nonneg (Nat.cast_nonneg m) (zpow_pos two_pos e).le
  rw [toRat_valF32 hr, getLsbD_toF32_fin, code, toRat_valF32 hc, FVal.toRat_fin rfl, abs_signed_sub_same]
  by_cases same : c.getLsbD 31 = n
  · obtain ⟨le, tie⟩ := nearest.dist_le (c.toNat % 2 ^ 31)
    rw [same, abs_signed_sub_same]
    exact ⟨le, fun near other => even (tie near fun codes => other (by rw [codes]))⟩
  · obtain ⟨le, tie⟩ := nearest.dist_le 0
    have nonneg := fmtF32.mag_nonneg (c.toNat % 2 ^ 31)
    rw [fmtF32.mag_zero, zero_sub, abs_neg, abs_of_nonneg size] at le tie
    rw [abs_signed_sub_other same nonneg size]
    refine ⟨by linarith, fun near other => even (tie (by linarith) fun codes => other ?_)⟩
    have zero : fmtF32.mag (c.toNat % 2 ^ 31) = 0 := by linarith
    rw [zero, ← codes, fmtF32.mag_zero, neg_zero, ite_self, ite_self]

/-- An infinity is given just from the middle between the largest finite code and the next. -/
theorem toF32_fin_overflows {n : Bool} {m : Nat} {e : Int} : ¬ (toF32 (.fin n m e)).toNat % 2 ^ 31 < 0x7F800000 ↔
    ((2 : ℚ) ^ (128 : Int) - (2 : ℚ) ^ (103 : Int)) ≤ (m : ℚ) * (2 : ℚ) ^ e := by
  have last : fmtF32.mag 0x7F7FFFFF = 16777215 * 2 ^ (104 : Int) :=
    Fmt.mag_of_mant (f := fmtF32) (k := 253) (t := 16777215) (by decide) (.inr (by decide))
  have next : fmtF32.mag (0x7F7FFFFF + 1) = 16777216 * 2 ^ (104 : Int) :=
    Fmt.mag_of_mant (f := fmtF32) (k := 253) (t := 16777216) (by decide) (.inr (by decide))
  have middle := (fmtF32.roundCode_nearest (by decide) m e).lt_iff_of_odd (b := 0x7F7FFFFF) (by decide)
  rw [last, next] at middle
  have above : ¬ (toF32 (.fin n m e)).toNat % 2 ^ 31 < 0x7F800000 ↔ 0x7F7FFFFF < fmtF32.roundCode m e := by
    rw [mod_toF32_fin]
    omega
  rw [above, middle]
  norm_num
  constructor <;> intro h <;> linarith

/-- Settles O13: the code that rounding gives is the nearest, and even where two are as near, by `Fmt.roundCode_nearest`. -/
theorem floatRoundsToNearestEven : Obligations.FloatRoundsToNearestEven := by
  unfold Obligations.FloatRoundsToNearestEven
  intro q finite n m e r
  have number : q = FVal.toRat := by
    funext v
    cases v <;> rfl
  rw [number]
  refine ⟨getLsbD_toF32_fin n m e, fun hr c hc => toF32_fin_dist_le hr hc, fun huge => ?_, toF32_fin_overflows⟩
  have := mod_toF32_fin n m e
  simp only [finite, r] at huge ⊢
  omega

end Sys2Proof
end

section
/-!
SUPPORT. The conversions of one element (R140): what each code computes, the narrower floats that saturate, and the integers that clamp or extend.
-/

namespace Sys2Proof.Machine

variable {f : Fmt} {x : Word32}

/-! ## The conversions by code -/

theorem convert_toBF16 (x : Word32) : convert 0 x.toNat = fmtBF16.saturate 0x7FC0 (valF32 x) := by simp [convert]
theorem convert_toF16 (x : Word32) : convert 1 x.toNat = fmtF16.saturate 0x7E00 (valF32 x) := by simp [convert]
theorem convert_toKF8 (x : Word32) : convert 2 x.toNat = toKF8 x := by simp [convert]
theorem convert_toKF6 (x : Word32) : convert 3 x.toNat = fmtKF6.saturate 0 (valF32 x) := by simp [convert]
theorem convert_truncToI32 (x : Word32) : convert 4 x.toNat = codeOf 32 (toI32 false (valF32 x)) := by simp [convert]
theorem convert_roundToI32 (x : Word32) : convert 5 x.toNat = codeOf 32 (toI32 true (valF32 x)) := by simp [convert]
theorem convert_toI8 (x : Word32) : convert 6 x.toNat = codeOf 8 (clampInt 8 x.toInt) := by simp [convert]
theorem convert_toI4 (x : Word32) : convert 7 x.toNat = codeOf 4 (clampInt 4 x.toInt) := by simp [convert]
theorem convert_ofBF16 (y : Nat) : convert 8 y = (toF32 (fmtBF16.value y)).toNat := rfl
theorem convert_ofF16 (y : Nat) : convert 9 y = (toF32 (fmtF16.value y)).toNat := rfl
theorem convert_ofKF8 (y : Nat) : convert 10 y = (toF32 (valKF8 y)).toNat := rfl
theorem convert_ofKF6 (y : Nat) : convert 11 y = (toF32 (fmtKF6.value (y % 64))).toNat := rfl
theorem convert_ofI32 (x : Word32) : convert 12 x.toNat = (f32OfInt x.toInt).toNat := by simp [convert]
theorem convert_ofI8 (y : Nat) : convert 13 y = codeOf 32 (sextNat 8 y) := rfl
theorem convert_ofI4 (y : Nat) : convert 14 y = codeOf 32 (sextNat 4 y) := rfl

theorem convert_of_nan (nan : isNaN32 x = true) : convert 0 x.toNat = 0x7FC0 ∧ convert 1 x.toNat = 0x7E00 ∧ convert 2 x.toNat = 0x80 ∧
    convert 3 x.toNat = 0 ∧ convert 4 x.toNat = 0 ∧ convert 5 x.toNat = 0 := by
  rw [convert_toBF16, convert_toF16, convert_toKF8, convert_toKF6, convert_truncToI32, convert_roundToI32, toKF8, valF32_of_nan nan]
  exact ⟨rfl, rfl, rfl, rfl, rfl, rfl⟩

/-! ## Narrower floats -/

/-- From the largest finite value of the narrower format on, its code with the sign is given, of an infinity too. -/
theorem Fmt.saturate_of_large {nan c : Nat} (significand : 0 < f.mbits) (number : isNaN32 x = false) (large : c ≤ x.toNat % 2 ^ 31)
    (least : f.mag f.largest ≤ fmtF32.mag c) :
    f.saturate nan (valF32 x) = (if x.getLsbD 31 then 2 ^ (f.ebits + f.mbits) else 0) + f.largest := by
  have stands := standsFor_valF32 x
  generalize valF32 x = v at stands ⊢
  cases stands with
  | nan nan => exact absurd nan (by simp [number])
  | inf => rfl
  | fin _ m e mag =>
    have le : f.largest ≤ f.roundCode m e := (f.roundCode_nearest significand m e).le_of_mag_le
      (mag ▸ least.trans (fmtF32.strictMono_mag.monotone large))
    rw [Fmt.saturate, min_eq_right le]

/-- Up to half the least value of the narrower format, a zero with the sign is given. -/
theorem Fmt.saturate_of_small {nan c : Nat} (significand : 0 < f.mbits) (small : x.toNat % 2 ^ 31 ≤ c) (finite : c < 0x7F800000)
    (half : 2 * fmtF32.mag c ≤ f.mag 1) : f.saturate nan (valF32 x) = if x.getLsbD 31 then 2 ^ (f.ebits + f.mbits) else 0 := by
  obtain ⟨m, e, value, mag, -⟩ := valF32_of_finite (lt_of_le_of_lt small finite)
  have le := fmtF32.strictMono_mag.monotone small
  have zero : f.roundCode m e = 0 := (f.roundCode_nearest significand m e).eq_zero (by rw [mag]; linarith)
  rw [value, Fmt.saturate, zero, Nat.zero_min, Nat.add_zero]

theorem toKF8_of_number (number : isNaN32 x = false) :
    toKF8 x = if fmtKF8.saturate 0x80 (valF32 x) = 0x80 then 0 else fmtKF8.saturate 0x80 (valF32 x) := by
  have stands := standsFor_valF32 x
  unfold toKF8
  generalize valF32 x = v at stands ⊢
  cases stands with
  | nan nan => exact absurd nan (by simp [number])
  | inf => rfl
  | fin => rfl

theorem convert_toBF16_of_large (number : isNaN32 x = false) (large : 0x7F7F8000 ≤ x.toNat % 2 ^ 31) :
    convert 0 x.toNat = (if x.getLsbD 31 then 0x8000 else 0) + 0x7F7F :=
  (convert_toBF16 x).trans (Fmt.saturate_of_large (by decide) number large (by norm_num [Fmt.mag, Fmt.tiny, fmtBF16, fmtF32]))

theorem convert_toF16_of_large (number : isNaN32 x = false) (large : 0x477FE000 ≤ x.toNat % 2 ^ 31) :
    convert 1 x.toNat = (if x.getLsbD 31 then 0x8000 else 0) + 0x7BFF :=
  (convert_toF16 x).trans (Fmt.saturate_of_large (by decide) number large (by norm_num [Fmt.mag, Fmt.tiny, fmtF16, fmtF32]))

theorem convert_toKF8_of_large (number : isNaN32 x = false) (large : 0x43F00000 ≤ x.toNat % 2 ^ 31) :
    convert 2 x.toNat = (if x.getLsbD 31 then 0x80 else 0) + 0x7F := by
  have code : fmtKF8.saturate 0x80 (valF32 x) = (if x.getLsbD 31 then 0x80 else 0) + 0x7F :=
    Fmt.saturate_of_large (by decide) number large (by norm_num [Fmt.mag, Fmt.tiny, fmtKF8, fmtF32])
  rw [convert_toKF8, toKF8_of_number number, code]
  cases x.getLsbD 31 <;> rfl

theorem convert_toKF8_of_small (number : isNaN32 x = false) (small : x.toNat % 2 ^ 31 ≤ 0x3A800000) : convert 2 x.toNat = 0 := by
  have code : fmtKF8.saturate 0x80 (valF32 x) = if x.getLsbD 31 then 0x80 else 0 :=
    Fmt.saturate_of_small (by decide) small (by decide) (by norm_num [Fmt.mag, Fmt.tiny, fmtKF8, fmtF32])
  rw [convert_toKF8, toKF8_of_number number, code]
  cases x.getLsbD 31 <;> rfl

theorem convert_toKF6_of_large (number : isNaN32 x = false) (large : 0x41E00000 ≤ x.toNat % 2 ^ 31) :
    convert 3 x.toNat = (if x.getLsbD 31 then 0x20 else 0) + 0x1F :=
  (convert_toKF6 x).trans (Fmt.saturate_of_large (by decide) number large (by norm_num [Fmt.mag, Fmt.tiny, fmtKF6, fmtF32]))

theorem convert_toKF6_of_small (small : x.toNat % 2 ^ 31 ≤ 0x3D000000) : convert 3 x.toNat = if x.getLsbD 31 then 0x20 else 0 :=
  (convert_toKF6 x).trans (Fmt.saturate_of_small (by decide) small (by decide) (by norm_num [Fmt.mag, Fmt.tiny, fmtKF6, fmtF32]))

theorem convert_toKF6_lt (x : Word32) : convert 3 x.toNat < 64 := by
  rw [convert_toKF6]
  cases valF32 x with
  | nan => decide
  | inf n => cases n <;> decide
  | fin n m e =>
    have le : min (fmtKF6.roundCode m e) fmtKF6.largest ≤ 31 := min_le_right ..
    have sign : (if n then 2 ^ (fmtKF6.ebits + fmtKF6.mbits) else 0) ≤ 32 := by cases n <;> decide
    rw [Fmt.saturate]
    omega

/-! ## Integers -/

/-- The clamped I32 of a value of magnitude 2^31 or more. -/
theorem toI32_of_large {nearest : Bool} (number : isNaN32 x = false) (large : 0x4F000000 ≤ x.toNat % 2 ^ 31) :
    toI32 nearest (valF32 x) = if x.getLsbD 31 then -(2 ^ 31) else 2 ^ 31 - 1 := by
  have stands := standsFor_valF32 x
  generalize valF32 x = v at stands ⊢
  cases stands with
  | nan nan => exact absurd nan (by simp [number])
  | inf => rfl
  | fin _ m e mag short =>
    have size : (2 : ℚ) ^ 31 ≤ m * 2 ^ e := by
      have least : fmtF32.mag 0x4F000000 = 2 ^ 31 := by norm_num [Fmt.mag, Fmt.tiny, fmtF32]
      rw [mag, ← least]
      exact fmtF32.strictMono_mag.monotone large
    have whole : 0 ≤ e := by
      by_contra negative
      have below : (2 : ℚ) ^ e ≤ 1 := zpow_le_one_of_nonpos₀ one_le_two (by omega)
      have short' : (m : ℚ) < 16777216 := by exact_mod_cast short
      have : (m : ℚ) * 2 ^ e ≤ m := mul_le_of_le_one_right (Nat.cast_nonneg m) below
      norm_num at size
      linarith
    obtain ⟨k, rfl⟩ := Int.eq_ofNat_of_zero_le whole
    have scaled : 2 ^ 31 ≤ m * 2 ^ (min (k : Int) 64).toNat := by
      rcases Nat.le_total k 64 with le | ge
      · rw [show (min (k : Int) 64).toNat = k by omega]
        rw [zpow_natCast] at size
        exact_mod_cast size
      · rw [show (min (k : Int) 64).toNat = 64 by omega]
        have positive : 0 < m := Nat.pos_of_ne_zero fun zero => by
          rw [zero, Nat.cast_zero, zero_mul] at size
          norm_num at size
        omega
    rw [toI32, if_pos whole]
    generalize m * 2 ^ (min (k : Int) 64).toNat = n at scaled
    cases x.getLsbD 31
    · simp only [signedInt, clampInt, Bool.false_eq_true, if_false]
      omega
    · simp only [signedInt, clampInt, if_true]
      omega

theorem convert_toI32_of_large (number : isNaN32 x = false) (large : 0x4F000000 ≤ x.toNat % 2 ^ 31) :
    ∀ c ∈ [4, 5], convert c x.toNat = if x.getLsbD 31 then 0x80000000 else 0x7FFFFFFF := by
  rw [List.forall_mem_cons, List.forall_mem_singleton, convert_truncToI32, convert_roundToI32, toI32_of_large number large, toI32_of_large number large]
  cases x.getLsbD 31 <;> exact ⟨rfl, rfl⟩

theorem convert_toI8_clamps (x : Word32) : convert 6 x.toNat = ((max (-128) (min 127 x.toInt)) % 256).toNat := convert_toI8 x

theorem convert_toI4_clamps (x : Word32) : convert 7 x.toNat = ((max (-8) (min 7 x.toInt)) % 16).toNat := convert_toI4 x

/-- The signed value of the low bits is that of the bit vector. -/
theorem sextNat_eq_toInt (n y : Nat) : sextNat (n + 1) y = (BitVec.ofNat (n + 1) y).toInt := by
  have half : y % 2 ^ (n + 1) < 2 ^ n ↔ 2 * (y % 2 ^ (n + 1)) < 2 ^ (n + 1) := by
    rw [Nat.pow_succ' (n := n)]
    omega
  rw [sextNat, BitVec.toInt_eq_toNat_cond, BitVec.toNat_ofNat, Nat.add_sub_cancel]
  simp only [half]
  push_cast
  rfl

/-- The code of a signed value is its sign extended. -/
theorem codeOf_toInt {n : Nat} (y : BitVec n) : codeOf 32 y.toInt = (y.signExtend 32).toNat := by
  rw [codeOf, BitVec.signExtend, BitVec.toNat_ofInt]
  norm_num

theorem convert_ofI8_extends (y : Nat) : convert 13 y = ((BitVec.ofNat 8 y).signExtend 32).toNat := by
  rw [convert_ofI8, sextNat_eq_toInt, codeOf_toInt]

theorem convert_ofI4_extends (y : Nat) : convert 14 y = ((BitVec.ofNat 4 y).signExtend 32).toNat := by
  rw [convert_ofI4, sextNat_eq_toInt, codeOf_toInt]

end Sys2Proof.Machine
end

section
/-!
SUPPORT. The conversions to F32 that are exact (R140), and the residues of an integer (R142).
-/

namespace Sys2Proof.Machine

variable {f : Fmt} {y : Nat}

/-! ## The number of a code -/

/-- The number that R134 gives a code of eb exponent bits, w mantissa bits and a bias. -/
def codeNumber (eb w bias y : Nat) : ℚ :=
  let e := y / 2 ^ w % 2 ^ eb
  let m : ℚ := (y % 2 ^ w : Nat)
  (if y / 2 ^ (w + eb) % 2 = 1 then -1 else 1) *
    (if e = 0 then (2 : ℚ) ^ (1 - bias : Int) * (m / 2 ^ w) else (2 : ℚ) ^ ((e : Int) - bias) * (1 + m / 2 ^ w))

/-- It is the code's magnitude with its sign. -/
theorem codeNumber_eq (f : Fmt) (y : Nat) : codeNumber f.ebits f.mbits f.bias y =
    if y / 2 ^ (f.ebits + f.mbits) % 2 == 1 then -f.mag (y % 2 ^ (f.ebits + f.mbits)) else f.mag (y % 2 ^ (f.ebits + f.mbits)) := by
  have size : (if y / 2 ^ f.mbits % 2 ^ f.ebits = 0 then (2 : ℚ) ^ (1 - f.bias : Int) * ((y % 2 ^ f.mbits : Nat) / 2 ^ f.mbits)
      else (2 : ℚ) ^ ((y / 2 ^ f.mbits % 2 ^ f.ebits : Nat) - f.bias : Int) * (1 + (y % 2 ^ f.mbits : Nat) / 2 ^ f.mbits)) =
      f.mag (y % 2 ^ (f.ebits + f.mbits)) := by
    rw [Fmt.mag, f.exponent_mod, f.mantissa_mod, Fmt.tiny]
    split
    · rw [zpow_sub₀ two_ne_zero _ (f.mbits : Int), zpow_natCast]
      ring
    · have scale : (1 : Int) - f.bias - f.mbits + (y / 2 ^ f.mbits % 2 ^ f.ebits - 1 : Nat) =
          ((y / 2 ^ f.mbits % 2 ^ f.ebits : Nat) - f.bias : Int) - f.mbits := by omega
      rw [scale, zpow_sub₀ two_ne_zero _ (f.mbits : Int), zpow_natCast]
      push_cast
      field_simp
      ring
  rw [codeNumber, size, Nat.add_comm f.mbits]
  by_cases sign : y / 2 ^ (f.ebits + f.mbits) % 2 = 1 <;> simp [sign]

theorem mag_infinity : fmtF32.mag 0x7F800000 = 2 ^ 128 := by norm_num [Fmt.mag, Fmt.tiny, fmtF32]

/-- A value that rounding meets exactly, below the infinity, keeps its number. -/
theorem codeNumber_toF32_fin {n : Bool} {m : Nat} {e : Int} (met : fmtF32.mag (fmtF32.roundCode m e) = m * 2 ^ e)
    (bound : (m : ℚ) * 2 ^ e < 2 ^ 128) : codeNumber 8 23 127 (toF32 (.fin n m e)).toNat = (if n then -((m : ℚ) * 2 ^ e) else m * 2 ^ e) ∧
      (toF32 (.fin n m e)).toNat % 2 ^ 31 < 0x7F800000 := by
  rw [← met, ← mag_infinity, fmtF32.strictMono_mag.lt_iff_lt] at bound
  have code : (toF32 (.fin n m e)).toNat % 2 ^ 31 = fmtF32.roundCode m e := by rw [mod_toF32_fin, min_eq_left bound.le]
  have number : codeNumber 8 23 127 (toF32 (.fin n m e)).toNat = if (toF32 (.fin n m e)).toNat / 2 ^ 31 % 2 == 1
      then -fmtF32.mag ((toF32 (.fin n m e)).toNat % 2 ^ 31) else fmtF32.mag ((toF32 (.fin n m e)).toNat % 2 ^ 31) := codeNumber_eq fmtF32 _
  rw [number, ← getLsbD_31, getLsbD_toF32_fin, code, met]
  exact ⟨rfl, bound⟩

/-- A finite code of a format no finer than F32 keeps its number and its sign. -/
theorem toF32_value_exact (finite : f.infinities = true → y / 2 ^ f.mbits % 2 ^ f.ebits ≠ 2 ^ f.ebits - 1) (short : f.mbits ≤ 23)
    (coarse : -149 ≤ f.tiny) (bound : f.mag (2 ^ (f.ebits + f.mbits)) ≤ 2 ^ 128) :
    (codeNumber 8 23 127 (toF32 (f.value y)).toNat = codeNumber f.ebits f.mbits f.bias y ∧
      (toF32 (f.value y)).toNat % 2 ^ 31 < 0x7F800000) ∧
    (toF32 (f.value y)).getLsbD 31 = (y / 2 ^ (f.ebits + f.mbits) % 2 == 1) := by
  obtain ⟨m, e, value, mag, fits, least⟩ := Fmt.value_of_finite finite
  have met : fmtF32.mag (fmtF32.roundCode m e) = m * 2 ^ e :=
    Fmt.mag_roundCode (lt_of_lt_of_le fits (Nat.pow_le_pow_right two_pos (by exact Nat.succ_le_succ short))) (coarse.trans least)
  have below : (m : ℚ) * 2 ^ e < 2 ^ 128 := mag ▸ (f.strictMono_mag (Nat.mod_lt _ (Nat.two_pow_pos _))).trans_le bound
  rw [value, codeNumber_eq, ← mag]
  exact ⟨codeNumber_toF32_fin met below, getLsbD_toF32_fin ..⟩

theorem div_eq_one_iff (x : Word32) : x.toNat / 2 ^ 31 = 1 ↔ x.getLsbD 31 = true := by
  have := x.isLt
  rw [getLsbD_31, beq_iff_eq]
  omega

/-! ## BF16 -/

/-- A code of BF16 is the upper half of F32's. -/
theorem mag_BF16 (c : Nat) : fmtBF16.mag c = fmtF32.mag (c * 65536) := by
  obtain ⟨k, t, h⟩ := fmtBF16.exists_splits c
  have splits : fmtF32.Splits (c * 65536) k (t * 65536) := by
    obtain ⟨rfl, lt, normal⟩ := h
    simp only [Fmt.Splits, fmtBF16, fmtF32] at lt normal ⊢
    omega
  rw [h.mag, splits.mag]
  have tiny : fmtBF16.tiny + k = fmtF32.tiny + k + (16 : Nat) := by
    simp only [Fmt.tiny, fmtBF16, fmtF32]
    omega
  rw [tiny, zpow_add₀ two_ne_zero (fmtF32.tiny + k), zpow_natCast]
  push_cast
  ring

theorem Fmt.value_of_special (infinities : f.infinities = true) (special : y / 2 ^ f.mbits % 2 ^ f.ebits = 2 ^ f.ebits - 1) :
    f.value y = if y % 2 ^ f.mbits = 0 then .inf (y / 2 ^ (f.ebits + f.mbits) % 2 == 1) else .nan := by
  simp only [Fmt.value]
  exact if_pos (by rw [infinities, special]; simp)

theorem convert_ofBF16_exact {y : Nat} (h : y < 65536) : convert 8 y = if 0x7F80 < y % 0x8000 then 0x7FC00000 else y * 65536 := by
  have bits : y / 2 ^ fmtBF16.mbits % 2 ^ fmtBF16.ebits = y / 128 % 256 ∧ y % 2 ^ fmtBF16.mbits = y % 128 ∧
      y / 2 ^ (fmtBF16.ebits + fmtBF16.mbits) % 2 = y / 32768 % 2 ∧ y % 2 ^ (fmtBF16.ebits + fmtBF16.mbits) = y % 32768 := ⟨rfl, rfl, rfl, rfl⟩
  obtain ⟨exponent, mantissa, sign, code⟩ := bits
  have whole {n : Bool} {c : Nat} (hn : n = (y / 32768 % 2 == 1)) (hc : c = y % 32768 * 65536) : (signedCode n c).toNat = y * 65536 := by
    rw [toNat_signedCode n (by omega), hn, hc]
    by_cases negative : y / 32768 % 2 = 1
    · rw [if_pos (beq_iff_eq.2 negative)]
      omega
    · rw [if_neg (by simpa using negative)]
      omega
  rw [convert_ofBF16]
  by_cases special : y / 128 % 256 = 255
  · rw [Fmt.value_of_special rfl special, mantissa, sign]
    by_cases inf : y % 128 = 0
    · rw [if_pos inf, if_neg (by omega), toF32, whole rfl (by omega)]
    · rw [if_neg inf, if_pos (by omega)]
      rfl
  · obtain ⟨m, e, value, mag, -⟩ := fmtBF16.value_of_finite (x := y) (fun _ => special)
    rw [mag_BF16, code] at mag
    rw [value, if_neg (by omega), toF32_fin_of_mag mag (by omega), whole (by rw [sign]) rfl]

/-! ## F16 -/

theorem convert_ofF16_of_nan {y : Nat} (nan : 0x7C00 < y % 0x8000) : convert 9 y = 0x7FC00000 := by
  have special : y / 2 ^ fmtF16.mbits % 2 ^ fmtF16.ebits = 2 ^ fmtF16.ebits - 1 := by
    simp only [fmtF16]
    omega
  have mantissa : y % 2 ^ fmtF16.mbits ≠ 0 := by
    simp only [fmtF16]
    omega
  rw [convert_ofF16, Fmt.value_of_special rfl special, if_neg mantissa]
  rfl

theorem convert_ofF16_of_inf {y : Nat} (inf : y % 0x8000 = 0x7C00) : convert 9 y = (signedCode (y / 32768 % 2 == 1) 0x7F800000).toNat := by
  have special : y / 2 ^ fmtF16.mbits % 2 ^ fmtF16.ebits = 2 ^ fmtF16.ebits - 1 := by
    simp only [fmtF16]
    omega
  have mantissa : y % 2 ^ fmtF16.mbits = 0 := by
    simp only [fmtF16]
    omega
  rw [convert_ofF16, Fmt.value_of_special rfl special, if_pos mantissa]
  rfl

theorem convert_ofF16_exact {y : Nat} (finite : y % 0x8000 < 0x7C00) :
    (codeNumber 8 23 127 (convert 9 y) = codeNumber 5 10 15 y ∧ convert 9 y % 2 ^ 31 < 0x7F800000) ∧
      (toF32 (fmtF16.value y)).getLsbD 31 = (y / 32768 % 2 == 1) := by
  refine toF32_value_exact (f := fmtF16) (fun _ => ?_) (by decide) (by decide) (by norm_num [Fmt.mag, Fmt.tiny, fmtF16])
  simp only [fmtF16]
  omega

/-- The sign of the result is the operand's, but for a NaN. -/
theorem convert_ofF16_sign {y : Nat} (h : y < 65536) : convert 9 y / 2 ^ 31 = 1 ↔ 0x8000 ≤ y ∧ y % 0x8000 ≤ 0x7C00 := by
  rcases lt_trichotomy (y % 0x8000) 0x7C00 with finite | inf | nan
  · rw [convert_ofF16, div_eq_one_iff, (convert_ofF16_exact finite).2, beq_iff_eq]
    omega
  · rw [convert_ofF16_of_inf inf, div_eq_one_iff, getLsbD_signedCode _ (by decide), beq_iff_eq]
    omega
  · rw [convert_ofF16_of_nan nan]
    omega

/-! ## KF8, KF6 and integers -/

theorem convert_ofKF8_exact {y : Nat} (number : y ≠ 0x80) :
    codeNumber 8 23 127 (convert 10 y) = codeNumber 4 3 7 y ∧ convert 10 y % 2 ^ 31 < 0x7F800000 := by
  rw [convert_ofKF8, valKF8, if_neg number]
  exact (toF32_value_exact (f := fmtKF8) (fun none => by cases none) (by decide) (by decide) (by norm_num [Fmt.mag, Fmt.tiny, fmtKF8])).1

theorem convert_ofKF6_exact (y : Nat) :
    (codeNumber 8 23 127 (convert 11 y) = codeNumber 3 2 3 (y % 64) ∧ convert 11 y % 2 ^ 31 < 0x7F800000) ∧
      (convert 11 y / 2 ^ 31 = 1 ↔ 0x20 ≤ y % 64) := by
  obtain ⟨number, sign⟩ := toF32_value_exact (f := fmtKF6) (y := y % 64) (fun none => by cases none) (by decide) (by decide)
    (by norm_num [Fmt.mag, Fmt.tiny, fmtKF6])
  refine ⟨number, ?_⟩
  rw [convert_ofKF6, div_eq_one_iff, sign, beq_iff_eq]
  simp only [fmtKF6]
  omega

theorem convert_ofI32_exact {x : Word32} (small : |x.toInt| ≤ 2 ^ 24) :
    codeNumber 8 23 127 (convert 12 x.toNat) = x.toInt ∧ convert 12 x.toNat % 2 ^ 31 < 0x7F800000 := by
  have range := abs_le.1 small
  have size : x.toInt.natAbs ≤ 2 ^ 24 := by omega
  have met : fmtF32.mag (fmtF32.roundCode x.toInt.natAbs 0) = x.toInt.natAbs * 2 ^ (0 : Int) := by
    rcases size.lt_or_eq with short | last
    · exact Fmt.mag_roundCode short (by decide)
    · have code : fmtF32.roundCode (2 ^ 24) 0 = 0x4B800000 := by decide
      rw [last, code]
      norm_num [Fmt.mag, Fmt.tiny, fmtF32]
  have bound : (x.toInt.natAbs : ℚ) * 2 ^ (0 : Int) < 2 ^ 128 := by
    have : (x.toInt.natAbs : ℚ) ≤ 2 ^ 24 := by exact_mod_cast size
    rw [zpow_zero, mul_one]
    exact this.trans_lt (by norm_num)
  obtain ⟨number, finite⟩ := codeNumber_toF32_fin (n := decide (x.toInt < 0)) met bound
  rw [convert_ofI32, f32OfInt, number]
  refine ⟨?_, finite⟩
  rw [zpow_zero, mul_one]
  by_cases negative : x.toInt < 0
  · rw [if_pos (decide_eq_true negative), Nat.cast_natAbs, abs_of_neg negative, Int.cast_neg, neg_neg]
  · rw [if_neg (by simpa using negative), Nat.cast_natAbs, abs_of_nonneg (not_lt.1 negative)]

/-! ## Residues -/

/-- Four bytes packed are read back. -/
theorem toNat_resPack {a b c d : Nat} (ha : a < 256) (hb : b < 256) (hc : c < 256) (hd : d < 256) :
    let n := (BitVec.ofNat 32 (resPack (a, b, c, d))).toNat
    n % 256 = a ∧ n / 256 % 256 = b ∧ n / 65536 % 256 = c ∧ n / 16777216 = d := by
  simp only [resPack, BitVec.toNat_ofNat]
  omega

theorem resFwd_bytes (x : Word32) : (resFwd x).toNat % 256 = (x.toInt % 256).toNat ∧ (resFwd x).toNat / 256 % 256 = (x.toInt % 255).toNat ∧
    (resFwd x).toNat / 65536 % 256 = (x.toInt % 253).toNat ∧ (resFwd x).toNat / 16777216 = (x.toInt % 251).toNat :=
  toNat_resPack (by omega) (by omega) (by omega) (by omega)

theorem cast_toNat_emod {a : Nat} {t : Int} {k : Nat} (pos : 0 < k) (h : a = (t % k).toNat) : (a : Int) = t % k := by
  rw [h, Int.toNat_of_nonneg (Int.emod_nonneg t (by omega))]

theorem resFwd_residues (x : Word32) : ((resFwd x).toNat % 256 : Int) = x.toInt % 256 ∧
    ((resFwd x).toNat / 256 % 256 : Int) = x.toInt % 255 ∧ ((resFwd x).toNat / 65536 % 256 : Int) = x.toInt % 253 ∧
    ((resFwd x).toNat / 16777216 : Int) = x.toInt % 251 := by
  obtain ⟨h0, h1, h2, h3⟩ := resFwd_bytes x
  exact ⟨cast_toNat_emod (by decide) h0, cast_toNat_emod (by decide) h1, cast_toNat_emod (by decide) h2, cast_toNat_emod (by decide) h3⟩

theorem resUnpack_resFwd (x : Word32) : resUnpack (resFwd x).toNat = resOf x.toInt := by
  have r1 : (x.toInt % 255).toNat < 255 := by omega
  have r2 : (x.toInt % 253).toNat < 253 := by omega
  have r3 : (x.toInt % 251).toNat < 251 := by omega
  obtain ⟨h0, h1, h2, h3⟩ := resFwd_bytes x
  rw [resUnpack, resOf, h0, h1, h2, h3, Nat.mod_eq_of_lt r1, Nat.mod_eq_of_lt r2, Nat.mod_eq_of_lt (r3.trans (by decide)), Nat.mod_eq_of_lt r3]

/-- The mixed-radix digits of an integer are found from its residues, and the range is symmetric (R142). -/
theorem resValue_resOf {x : Int} (low : -8257920 ≤ x) (high : x ≤ 8257919) : resValue (resOf x) = x := by
  have first : ((x % 255 - x % 256) % 255 : Int) = x / 256 % 255 := by omega
  have second : ((x % 253 - x % 256 - 3 * (x / 256 % 255)) * 211 % 253 : Int) = x / 65280 % 253 := by
    have inverse : ((x % 253 - x % 256 - 3 * (x / 256 % 255)) * 211 : Int) =
        x / 65280 + 253 * (211 * (x / 256 % 255) + 54443 * (x / 65280) - 211 * (x / 253)) := by omega
    rw [inverse, Int.add_mul_emod_self_left]
  have r0 : ((x % 256).toNat : Int) = x % 256 := by omega
  have r1 : ((x % 255).toNat : Int) = x % 255 := by omega
  have r2 : ((x % 253).toNat : Int) = x % 253 := by omega
  simp only [resValue, resOf, resM, r0, r1, r2, first, second]
  omega

theorem resRev_resFwd {x : Word32} (low : -8257920 ≤ x.toInt) (high : x.toInt ≤ 8257919) : resRev (resFwd x) = x := by
  rw [resRev, resUnpack_resFwd, resValue_resOf low high, w32, BitVec.ofInt_toInt]

end Sys2Proof.Machine
end

section
/-!
SUPPORT. Vector images and packed elements (R345, R140, R141), and what a vector instruction on registers leaves of the state (R160, R345).
-/

namespace Sys2Proof.Machine

/-! ## Digits -/

/-- The number of n digits to a base. -/
def digitSum (base n : Nat) (digit : Nat → Nat) : Nat := (List.range n).foldr (fun j x => digit j * base ^ j + x) 0

section
variable {base : Nat} {digit : Nat → Nat}

theorem digitSum_succ (base n : Nat) (digit : Nat → Nat) : digitSum base (n + 1) digit = digitSum base n digit + digit n * base ^ n := by
  have sum (n : Nat) : digitSum base n digit = ((List.range n).map fun j => digit j * base ^ j).sum := by
    rw [List.sum_eq_foldr, List.foldr_map]
    rfl
  rw [sum, sum, List.sum_range_succ]

theorem digitSum_lt (small : ∀ j, digit j < base) (n : Nat) : digitSum base n digit < base ^ n := by
  induction n with
  | zero => exact Nat.one_pos
  | succ n ih =>
    calc digitSum base (n + 1) digit = digitSum base n digit + digit n * base ^ n := digitSum_succ base n digit
      _ < base ^ n + digit n * base ^ n := Nat.add_lt_add_right ih _
      _ = (digit n + 1) * base ^ n := by ring
      _ ≤ base * base ^ n := Nat.mul_le_mul_right _ (small n)
      _ = base ^ (n + 1) := (Nat.pow_succ').symm

/-- A digit is read back. -/
theorem digitSum_digit (small : ∀ j, digit j < base) {n k : Nat} (h : k < n) : digitSum base n digit / base ^ k % base = digit k := by
  have pos : 0 < base := Nat.zero_lt_of_lt (small 0)
  induction n with
  | zero => omega
  | succ n ih =>
    rw [digitSum_succ]
    rcases Nat.lt_succ_iff_lt_or_eq.1 h with below | rfl
    · have split : digit n * base ^ n = base ^ k * (base * (digit n * base ^ (n - k - 1))) := by
        rw [show base ^ n = base ^ k * (base * base ^ (n - k - 1)) by
          rw [← Nat.pow_succ', ← Nat.pow_add]
          congr 1
          omega]
        ring
      rw [split, Nat.add_mul_div_left _ _ (Nat.pow_pos pos), Nat.add_mul_mod_self_left, ih below]
    · rw [Nat.add_mul_div_right _ _ (Nat.pow_pos pos), Nat.div_eq_of_lt (digitSum_lt small k), Nat.zero_add, Nat.mod_eq_of_lt (small k)]

end

/-! ## Bytes -/

/-- The bytes of four joined. -/
theorem extractLsb'_four_bytes (f : Nat → Byte) (l : Nat) {r : Nat} (h : r < 4) :
    (f (4 * l + 3) ++ f (4 * l + 2) ++ f (4 * l + 1) ++ f (4 * l)).extractLsb' (8 * r) 8 = f (4 * l + r) := by
  refine BitVec.eq_of_getLsbD_eq fun i hi => ?_
  rw [BitVec.getLsbD_extractLsb', BitVec.getLsbD_append, BitVec.getLsbD_append, BitVec.getLsbD_append, decide_eq_true hi, Bool.true_and]
  obtain rfl | rfl | rfl | rfl : r = 0 ∨ r = 1 ∨ r = 2 ∨ r = 3 := by omega
  · rw [if_pos (by omega), Nat.mul_zero, Nat.zero_add, Nat.add_zero]
  · rw [if_neg (by omega), if_pos (by omega), show 8 * 1 + i - 8 = i by omega]
  · rw [if_neg (by omega), if_neg (by omega), if_pos (by omega), show 8 * 2 + i - 8 - 8 = i by omega]
  · rw [if_neg (by omega), if_neg (by omega), if_neg (by omega), show 8 * 3 + i - 8 - 8 - 8 = i by omega]

/-- The image of a vector made of bytes. -/
theorem Vec.byte_ofBytes (f : Nat → Byte) {n : Nat} (h : n < 512) : (Vec.ofBytes f).byte n = f n := by
  rw [Vec.byte, Vec.ofBytes, Vec.lane_ofFn _ (by omega), extractLsb'_four_bytes f _ (Nat.mod_lt n (by decide)), Nat.div_add_mod]

/-! ## KF6 (R141) -/

theorem packByte_nibbles (v : Vec) {n : Nat} (h : n < 64) :
    (packByte v n).toNat = (v.byte (2 * n)).toNat % 64 / 4 + (v.byte (2 * n + 1)).toNat % 64 / 4 * 16 := by
  rw [packByte, if_pos h, BitVec.toNat_ofNat]
  dsimp only
  omega

theorem packByte_pairs (v : Vec) {n : Nat} (low : 64 ≤ n) (high : n < 96) :
    (packByte v n).toNat = digitSum 4 4 (fun j => (v.byte (4 * (n - 64) + j)).toNat % 64 % 4) := by
  have lt : digitSum 4 4 (fun j => (v.byte (4 * (n - 64) + j)).toNat % 64 % 4) < 4 ^ 4 := digitSum_lt (fun j => Nat.mod_lt _ (by decide)) 4
  rw [packByte, if_neg (by omega), if_pos high, BitVec.toNat_ofNat]
  exact Nat.mod_eq_of_lt lt

theorem packByte_rest (v : Vec) {n : Nat} (h : 96 ≤ n) : packByte v n = 0 := by
  rw [packByte, if_neg (by omega), if_neg (by omega)]

theorem field_packByte_nibble (v : Vec) {i : Nat} (h : i < 128) : field (packByte v (i / 2)).toNat (4 * (i % 2)) 4 = field (v.byte i).toNat 2 4 := by
  rw [packByte_nibbles v (by omega), field, field]
  rcases Nat.mod_two_eq_zero_or_one i with even | odd
  · rw [even, show 2 * (i / 2) = i by omega]
    omega
  · rw [odd, show 2 * (i / 2) + 1 = i by omega]
    omega

theorem field_packByte_pair (v : Vec) {i : Nat} (h : i < 128) :
    field (packByte v (64 + i / 4)).toNat (2 * (i % 4)) 2 = field (v.byte i).toNat 0 2 := by
  have place : 4 * (64 + i / 4 - 64) + i % 4 = i := by omega
  have digit := digitSum_digit (base := 4) (digit := fun j => (v.byte (4 * (64 + i / 4 - 64) + j)).toNat % 64 % 4) (fun j => Nat.mod_lt _ (by decide))
    (Nat.mod_lt i (by decide : 0 < 4))
  rw [packByte_pairs v (by omega) (by omega), field, field, Nat.pow_mul]
  refine digit.trans ?_
  rw [place]
  omega

theorem toNat_unpackByte (v : Vec) {i : Nat} (h : i < 128) : (unpackByte v i).toNat =
    4 * field (v.byte (i / 2)).toNat (4 * (i % 2)) 4 + field (v.byte (64 + i / 4)).toNat (2 * (i % 4)) 2 := by
  have nibble : 2 ^ (4 * (i % 2)) = 16 ^ (i % 2) := Nat.pow_mul 2 4 _
  have pair : 2 ^ (2 * (i % 4)) = 4 ^ (i % 4) := Nat.pow_mul 2 2 _
  rw [unpackByte, if_pos h, BitVec.toNat_ofNat, field, field, nibble, pair]
  omega

theorem unpackByte_rest (v : Vec) {i : Nat} (h : 128 ≤ i) : unpackByte v i = 0 := by
  rw [unpackByte, if_neg (by omega)]

/-- Unpacking what was packed gives a container without its top two bits. -/
theorem unpackByte_packByte (v : Vec) {i : Nat} (h : i < 128) : unpackByte (Vec.ofBytes (packByte v)) i = v.byte i &&& 0x3F := by
  have mask : (v.byte i &&& 0x3F).toNat = (v.byte i).toNat % 64 := Nat.and_two_pow_sub_one_eq_mod _ 6
  refine BitVec.eq_of_toNat_eq ?_
  rw [mask, toNat_unpackByte _ h, Vec.byte_ofBytes _ (by omega), Vec.byte_ofBytes _ (by omega), field_packByte_nibble v h, field_packByte_pair v h,
    field, field]
  omega

/-! ## Packed elements (R140) -/

section
variable {bits per : Nat} (fits : bits * per = 32) (f : Nat → Nat)
include fits

theorem Vec.lane_pack_rest {l : Nat} (low : 128 ≤ l * per) (h : l < 128) : (Vec.pack bits f).lane l = 0 := by
  have lanes : 32 / bits = per := Nat.div_eq_of_eq_mul_right (Nat.pos_of_ne_zero fun zero => by simp [zero] at fits) fits.symm
  rw [Vec.pack, Vec.lane_ofFn _ h, lanes, if_neg (by omega)]

/-- An element packed is read back. -/
theorem Vec.elem_pack {i : Nat} (h : i < 128) : (Vec.pack bits f).elem bits i = f i % 2 ^ bits := by
  have positive : 0 < bits ∧ 0 < per := by
    constructor <;> refine Nat.pos_of_ne_zero fun zero => ?_ <;> simp [zero] at fits
  obtain ⟨bitsPos, perPos⟩ := positive
  have lanes : 32 / bits = per := Nat.div_eq_of_eq_mul_right bitsPos fits.symm
  have lane : bits * i / 32 = i / per := by rw [← fits, Nat.mul_div_mul_left _ _ bitsPos]
  have offset : bits * i % 32 = bits * (i % per) := by rw [← fits, Nat.mul_mod_mul_left]
  have small (j : Nat) : f (i / per * per + j) % 2 ^ bits < 2 ^ bits := Nat.mod_lt _ (Nat.two_pow_pos _)
  have word : (Vec.pack bits f).lane (i / per) = BitVec.ofNat 32 (digitSum (2 ^ bits) per fun j => f (i / per * per + j) % 2 ^ bits) := by
    have inside : i / per * per < 128 := lt_of_le_of_lt (Nat.div_mul_le_self i per) h
    rw [Vec.pack, Vec.lane_ofFn _ (lt_of_le_of_lt (Nat.div_le_self i per) h)]
    simp only [lanes, if_pos inside, digitSum, Nat.pow_mul]
  have bound := digitSum_lt small per
  rw [← Nat.pow_mul, fits] at bound
  rw [Vec.elem, lane, offset, word, BitVec.toNat_ofNat, Nat.mod_eq_of_lt bound, Nat.pow_mul, digitSum_digit small (Nat.mod_lt i perPos),
    Nat.div_add_mod' i per]

end

theorem convResult_fits (c : Nat) : convResult c * (32 / convResult c) = 32 := by
  unfold convResult
  split_ifs <;> rfl

/-! ## Vector instructions on registers -/

/-- An instruction completes with a vector register written, and changes nothing else of its context or of memory. -/
def PutsV (s : State) (d : Nat) (o : Out) (y : Vec) : Prop :=
  ∃ v, o = .next v ∧ v.me.getV d = y ∧
    v.me = { s.me with pc := s.me.pc + 4, state := s.me.running, v := v.me.v, vbad := v.me.vbad } ∧
    (∀ n, n ≠ d → v.me.getV n = s.me.getV n) ∧ v.mem = s.mem

variable {s u : State} {need : Need} {seq : Nat}

theorem State.ringTake_frame (take : s.ringTake = some (seq, u)) : ∃ cores, u = { s with cores := cores } := by
  unfold State.ringTake at take
  dsimp only at take
  split at take
  · cases take
  · cases take
    exact ⟨_, rfl⟩

/-- A vector operation whose registers are free of poison does its work on the context and moves on (R160, R171). -/
theorem State.vectorOp_of_ready (ready : Ready s need) (clean : s.me.readsPoison need = false) (take : s.ringTake = some (seq, u)) (f : Ctx → Ctx) :
    ∃ cores, s.vectorOp need f = .next ({ s with cores := cores }.done 4 (f s.me)) := by
  obtain ⟨cores, taken⟩ := State.ringTake_frame take
  obtain ⟨cores', retired⟩ := u.ringRetire_frame (coreOf u.cur) seq
  refine ⟨cores', ?_⟩
  subst taken
  have unpoisoned : (({ s with cores := cores } : State).ctx s.cur).readsPoison need = false := clean
  rw [State.vectorOp, State.coprocess, State.issue_of_ready ready]
  simp only [take, unpoisoned, Bool.false_eq_true, if_false]
  rw [retired]
  rfl

theorem State.putsV_vectorOp (ready : Ready s need) (clean : s.me.readsPoison need = false) (take : s.ringTake = some (seq, u)) (d : Nat)
    (y : Ctx → Vec) (bad : Ctx → Bool) : PutsV s d (s.vectorOp need fun c => c.putV d (y c) (bad c)) (y s.me) := by
  obtain ⟨cores, done⟩ := State.vectorOp_of_ready ready clean take (fun c => c.putV d (y c) (bad c))
  refine ⟨_, done, ?_⟩
  have me : (({ s with cores := cores } : State).done 4 (s.me.putV d (y s.me) (bad s.me))).me = (s.me.putV d (y s.me) (bad s.me)).next 4 :=
    State.ctx_done ..
  rw [me]
  exact ⟨Ctx.getV_putV_self s.me d (y s.me) (bad s.me), rfl, fun n other => Ctx.getV_putV_other s.me other (y s.me) (bad s.me), rfl⟩

end Sys2Proof.Machine
end

section
/-!
The statement on the conversions.
-/

namespace Sys2Proof
open Machine

section
variable {s u : State} {d a : BitVec 5} {m : BitVec 3} {seq : Nat} (ready : Ready s { unit := .conversion, vreads := [a.toNat], vwrites := [d.toNat] })
  (clean : Tbl.get false s.me.vbad a.toNat = false) (take : s.ringTake = some (seq, u))
include ready clean take

/-- A conversion of one vector register writes its result (R345). -/
theorem putsV_conversion (y : Ctx → Vec) (bad : Ctx → Bool) : PutsV s d.toNat
    (s.vectorOp { unit := .conversion, vreads := [a.toNat], vwrites := [d.toNat] } fun c => c.putV d.toNat (y c) (bad c)) (y s.me) := by
  refine State.putsV_vectorOp ready ?_ take d.toNat y bad
  rw [Ctx.readsPoison, List.any_cons, clean]
  rfl

theorem putsV_vcvt {c : BitVec 6} (defined : c.toNat < 15) : PutsV s d.toNat (exec (.vcvt d a m c) s)
    (Vec.pack (convResult c.toNat) fun i =>
      if (s.me.getM m.toNat).getLsbD i then convert c.toNat ((s.me.getV a.toNat).elem (convSource c.toNat) i) else 0) := by
  have op : exec (.vcvt d a m c) s = _ := if_neg (Nat.not_le.2 defined)
  rw [op]
  exact putsV_conversion ready clean take _ _

theorem putsV_vpk6 : PutsV s d.toNat (exec (.vpk6 d a) s) (Vec.ofBytes (packByte (s.me.getV a.toNat))) :=
  putsV_conversion ready clean take (fun c => Vec.ofBytes (packByte (c.getV a.toNat))) fun _ => false

theorem putsV_vupk6 : PutsV s d.toNat (exec (.vupk6 d a) s) (Vec.ofBytes (unpackByte (s.me.getV a.toNat))) :=
  putsV_conversion ready clean take (fun c => Vec.ofBytes (unpackByte (c.getV a.toNat))) fun _ => false

/-- A lane-by-lane conversion writes the active lanes. -/
theorem putsV_lanes1 (f : Word32 → Word32) : PutsV s d.toNat (s.lanes1 .conversion d a m f) (Vec.ofFn fun i =>
    if (s.me.getM m.toNat).getLsbD i then f ((s.me.getV a.toNat).lane i) else (s.me.getV d.toNat).lane i) :=
  putsV_conversion ready clean take
    (fun c => Vec.ofFn fun i => if (c.getM m.toNat).getLsbD i then f ((c.getV a.toNat).lane i) else (c.getV d.toNat).lane i)
    fun c => Tbl.get false c.vbad d.toNat && c.getM m.toNat != BitVec.allOnes 128

theorem putsV_vrfwd : PutsV s d.toNat (exec (.vrfwd d a m) s) (Vec.ofFn fun i =>
    if (s.me.getM m.toNat).getLsbD i then resFwd ((s.me.getV a.toNat).lane i) else (s.me.getV d.toNat).lane i) :=
  putsV_lanes1 ready clean take resFwd

theorem putsV_vrrev : PutsV s d.toNat (exec (.vrrev d a m) s) (Vec.ofFn fun i =>
    if (s.me.getM m.toNat).getLsbD i then resRev ((s.me.getV a.toNat).lane i) else (s.me.getV d.toNat).lane i) :=
  putsV_lanes1 ready clean take resRev

end

/-- Settles O38: the instructions by the vector that each writes, the conversions of one element by rounding, saturation and exactness. -/
theorem vectorConversions : Obligations.VectorConversions := by
  unfold Obligations.VectorConversions
  refine ⟨?_, fun v i h => unpackByte_packByte v h, fun x => resRev_resFwd, resFwd_residues, fun x => convert_of_nan, fun x number => ?_,
    fun x => ⟨convert_toKF6_lt x, convert_toI8_clamps x, convert_toI4_clamps x⟩, ?_⟩
  · intro s d a m c need ready clean seq u take x mask done
    have writes {i : Instr} {y : Vec} {f : Vec → Prop} (puts : PutsV s d.toNat (exec i s) y) (hf : f y) : done i f := by
      obtain ⟨v, next, written, me, others, mem⟩ := puts
      exact ⟨v, next, written.symm ▸ hf, me, others, mem⟩
    clear_value done
    refine ⟨fun defined => ?_, ?_, ?_, ?_, ?_⟩
    · refine writes (putsV_vcvt ready clean take defined) ⟨fun i h => ?_, fun l h rest => ?_⟩
      · exact Vec.elem_pack (convResult_fits c.toNat) _ h
      · exact Vec.lane_pack_rest (convResult_fits c.toNat) _ rest h
    · refine writes (putsV_vpk6 ready clean take) ⟨fun i h => ?_, fun i h => ?_, fun n low h => ?_⟩
      · rw [Vec.byte_ofBytes _ (by omega)]
        exact field_packByte_nibble x h
      · rw [Vec.byte_ofBytes _ (by omega)]
        exact field_packByte_pair x h
      · rw [Vec.byte_ofBytes _ h]
        exact packByte_rest x low
    · refine writes (putsV_vupk6 ready clean take) ⟨fun i h => ?_, fun n low h => ?_⟩
      · rw [Vec.byte_ofBytes _ (by omega)]
        exact toNat_unpackByte x h
      · rw [Vec.byte_ofBytes _ h]
        exact unpackByte_rest x low
    · exact writes (putsV_vrfwd ready clean take) fun k h => Vec.lane_ofFn _ h
    · exact writes (putsV_vrrev ready clean take) fun k h => Vec.lane_ofFn _ h
  · exact ⟨convert_toBF16_of_large number, convert_toF16_of_large number, convert_toKF8_of_large number, convert_toKF8_of_small number,
      convert_toKF6_of_large number, convert_toKF6_of_small, convert_toI32_of_large number⟩
  · intro value isExact
    have numbers : value = codeNumber := rfl
    simp only [isExact, numbers]
    refine ⟨fun y => convert_ofBF16_exact, fun y h => ⟨convert_ofF16_of_nan, fun finite => (convert_ofF16_exact finite).1, convert_ofF16_sign h⟩,
      by decide, by decide, by decide, fun y _ number => convert_ofKF8_exact number, fun y _ => convert_ofKF6_exact y, fun x => convert_ofI32_exact,
      by decide, fun y _ => convert_ofI8_extends y, fun y _ => convert_ofI4_extends y⟩

end Sys2Proof
end

section
/-!
SUPPORT. CTXRES and ERET, answer by answer (R167, R295, R297).
-/

namespace Sys2Proof.Machine

variable {s u : State} {d a b : BitVec 6} {k : Nat} {st : Stop} {f : Folio}

/-! ## Tables and registers -/

theorem Tbl.insert_insert {α : Type} (t : Tbl α) (k : Nat) (x y : α) : Tbl.insert (Tbl.insert t k x) k y = Tbl.insert t k y := by
  induction t with
  | nil => simp [Tbl.insert]
  | cons e r ih =>
    by_cases before : e.1 < k
    · simp only [Tbl.insert, if_pos before, ih]
    · simp [Tbl.insert, before]

/-- The second of two writes to a context counts, where neither brings it to its state after reset. -/
theorem State.setCtx_setCtx (s : State) {k : Nat} {x y : Ctx} (hx : x ≠ {}) (hy : y ≠ {}) : (s.setCtx k x).setCtx k y = s.setCtx k y := by
  simp only [State.setCtx, Tbl.set, if_neg hx, if_neg hy, Tbl.insert_insert]

/-- What every step of a fold keeps of a context the fold keeps. -/
theorem Ctx.foldl_keeps {α β : Type} {f : Ctx → α → Ctx} (g : Ctx → β) (kept : ∀ c x, g (f c x) = g c) (l : List α) (c : Ctx) :
    g (l.foldl f c) = g c :=
  List.foldlRecOn (motive := fun t => g t = g c) l f rfl fun t ht x _ => (kept t x).trans ht

/-- What every write to a register keeps of a context a folio's registers keep. -/
theorem Ctx.loadFolio_keeps {β : Type} (g : Ctx → β) (ix : ∀ c n x, g (Ctx.putIx c n x) = g c) (ox : ∀ c n x, g (Ctx.putOx c n x) = g c)
    (m : ∀ c n x, g (Ctx.putM c n x) = g c) (w : ∀ c n x b, g (Ctx.putW c n x b) = g c) (v : ∀ c n x b, g (Ctx.putV c n x b) = g c)
    (c : Ctx) (words : Nat → Word) (bad : Nat → Bool) : g (c.loadFolio words bad) = g c := by
  unfold Ctx.loadFolio
  rw [Ctx.foldl_keeps g, Ctx.foldl_keeps g, Ctx.foldl_keeps g, Ctx.foldl_keeps g, Ctx.foldl_keeps g]
  · exact fun c _ => ix c ..
  · exact fun c _ => ox c ..
  · exact fun c _ => m c ..
  · intro c i
    split
    exacts [w c .., rfl]
  · intro c i
    split
    exacts [v c .., rfl]

theorem Ctx.takeFolio_act (c : Ctx) (k : Nat) (st : Stop) (f : Folio) : (c.takeFolio k st f).act = c.act := by
  have loaded := Ctx.loadFolio_keeps Ctx.act Ctx.putIx_act Ctx.putOx_act Ctx.putM_act Ctx.putW_act Ctx.putV_act c f.dword f.bad
  unfold Ctx.takeFolio
  dsimp only
  split
  exacts [loaded, loaded]

theorem Ctx.takeFolio_lates (c : Ctx) (k : Nat) (st : Stop) (f : Folio) : (c.takeFolio k st f).lates = c.lates := by
  have loaded := Ctx.loadFolio_keeps Ctx.lates Ctx.putIx_lates Ctx.putOx_lates Ctx.putM_lates Ctx.putW_lates Ctx.putV_lates c f.dword f.bad
  unfold Ctx.takeFolio
  dsimp only
  split
  exacts [loaded, loaded]

/-- A stop is recorded the same in the context that has taken its folio: its late faults are what they were (R162). -/
theorem Ctx.recorded_takeFolio (c : Ctx) (k : Nat) (st : Stop) (f : Folio) : (c.takeFolio k st f).recorded st = c.recorded st := by
  simp only [Ctx.recorded, Ctx.takeFolio_lates]

/-! ## Waiting, going on and resting -/

theorem State.returnWaits_iff {reader : Nat} {va : Word} : s.returnWaits k st reader va = true ↔
    st.written = false ∨ s.isFrozen (unitOf k) = true ∨ (s.tile (unitOf k)).checking = true ∨ s.folioHeld reader va = true := by
  simp [State.returnWaits, or_assoc]

theorem State.resWait_eq (s : State) : s.resWait = .next (s.setCtx s.cur { s.me with await := some 0, state := .stalled }) := by
  unfold State.resWait State.stall
  rw [State.setCtx_cur, State.ctx_setCtx, State.setCtx_setCtx]
  · rfl
  · exact fun same => Option.some_ne_none 0 (congrArg Ctx.await same)
  · exact fun same => by cases congrArg Ctx.state same

/-- The context as it goes on at a PC (R167). -/
def Ctx.resumedAt (c : Ctx) (pc : Word) : Ctx := { c with state := c.running, stop := none, lates := [], pc := pc }

/-- A context whose activation has no task control block goes on with nothing else changed (R167). -/
theorem State.resume_of_unlinked (s : State) {k : Nat} {c : Ctx} (plain : ∀ x, c.act = some x → x.tcb = none) (pc : Word) :
    s.resume k c pc = s.setCtx k (c.resumedAt pc) := by
  unfold State.resume
  dsimp only
  split
  · next x active =>
    simp only [plain x active]
    rfl
  · rfl

theorem State.rest_ctx (s : State) (k : Nat) : ∃ c : Ctx, (s.rest k).ctx k = c.dormant := ⟨_, State.ctx_setCtx _ k _⟩

theorem State.freeDrain_mem (s : State) (k : Nat) : (s.freeDrain k).mem = s.mem := by
  unfold State.freeDrain
  split
  · split <;> rfl
  · rfl

theorem State.rest_mem (s : State) (k : Nat) : (s.rest k).mem = s.mem := (s.unwait k).freeDrain_mem k

/-- The discard of a context outside a region that runs no tile task and no end handler puts it to rest (R167). -/
theorem State.discardStopped_of_plain {x : Act} (active : (s.ctx k).act = some x) (taskless : x.ttq = none) (plain : x.endHandler = false)
    (outside : (s.ctx k).region = none) : s.discardStopped k = s.rest k := by
  simp [State.discardStopped, State.endRegion, active, taskless, plain, outside]

/-! ## What CTXRES and ERET have in common -/

/-- A release at domain scope before what an instruction does of its own (R79, R167). -/
def State.afterRelease (s : State) (body : Out) : Out :=
  if s.gated true then s.waitGate else if !(s.outstanding s.cur 4).isEmpty then s.stall else body

theorem State.afterRelease_waits {o body : Out} (run : o = s.afterRelease body) : (s.gated true = true → o = s.waitGate) ∧
    (s.gated true = false → s.outstanding s.cur 4 ≠ [] → o = s.stall) := by
  rw [run, State.afterRelease]
  refine ⟨fun gated => if_pos gated, fun free busy => ?_⟩
  rw [if_neg (by simp [free]), if_pos (by simpa using busy)]

theorem State.afterRelease_of_free {o body : Out} (run : o = s.afterRelease body)
    (free : ¬ (s.gated true = true ∨ s.outstanding s.cur 4 ≠ [])) : o = body := by
  obtain ⟨ungated, idle⟩ := not_or.1 free
  rw [run, State.afterRelease, if_neg ungated, if_neg (by simpa using idle)]

/-- The answer at the context whose folio an address names: -1 where there is none, -2 where it is not stopped, a wait for as long as the return
must wait, and then what the instruction does of its own (R167, R297). -/
def State.atFolio (s : State) (d : Nat) (folio : Option Nat) (reader : Nat → Nat) (va : Nat → Word) (act : Nat → Stop → Out) : Out :=
  match folio with
  | none => s.resDone d Word.minusOne
  | some k =>
    match (s.ctx k).stop with
    | none => s.resDone d (-2)
    | some st => if s.returnWaits k st (reader k) (va k) then s.resWait else act k st

section

variable {n : Nat} {reader : Nat → Nat} {va : Nat → Word} {act : Nat → Stop → Out}

theorem State.atFolio_of_running (runs : (s.ctx k).stop = none) : s.atFolio n (some k) reader va act = s.resDone n (-2) := by
  simp only [State.atFolio, runs]

theorem State.atFolio_of_early (stopped : (s.ctx k).stop = some st) (early : s.returnWaits k st (reader k) (va k) = true) :
    s.atFolio n (some k) reader va act = s.resWait := by
  simp only [State.atFolio, stopped, if_pos early]

theorem State.atFolio_of_due (stopped : (s.ctx k).stop = some st) (due : ¬ s.returnWaits k st (reader k) (va k) = true) :
    s.atFolio n (some k) reader va act = act k st := by
  simp only [State.atFolio, stopped, if_neg due]

end

/-! ## CTXRES -/

theorem exec_ctxres_of_ready (ready : Ready s { reads := [a.toNat, b.toNat], writes := [d.toNat] }) : exec (.ctxres d a b) s =
    s.afterRelease (s.atFolio d.toNat ((s.launchOf s.cur).bind (fun l => l.folioKey (s.reg a))) (fun _ => s.cur) (fun _ => s.reg a)
      (fun k st => s.ctxresOn k st (s.reg a) (s.reg b) d.toNat)) := by
  show execCtxres d a b s = _
  rw [execCtxres, State.issue_of_ready (need := need2 d.toNat a.toNat b.toNat) ready]
  rfl

/-- What CTXRES refuses of a folio: a wrong action, kind, flag, reserved field, block or drain entry (R167). -/
def State.ctxresRefuses (s : State) (k : Nat) (st : Stop) (action : Word) (f : Folio) : Prop :=
  1 < action.toNat ∨ st.portable = true ∨ s.mayResume k st = false ∨ f.reservedZero false = false ∨ f.blocksOf (s.ctx k) = false

theorem State.ctxresRefuses_iff {action : Word} : s.ctxresRefuses k st action f ↔
    (decide (action.toNat / 2 ≠ 0) || st.portable || !s.mayResume k st || !f.reservedZero false || !f.blocksOf (s.ctx k)) = true := by
  have wrong : (action.toNat / 2 ≠ 0) = (1 < action.toNat) := propext (by omega)
  simp only [State.ctxresRefuses, wrong, Bool.or_eq_true, decide_eq_true_eq, Bool.not_eq_true', or_assoc]

section

variable {va action : Word} {n : Nat}

theorem State.ctxresOn_of_unread (unread : s.readFolio s.cur va = none) : s.ctxresOn k st va action n = s.resDone n Word.minusOne := by
  rw [State.ctxresOn, unread]

variable (read : s.readFolio s.cur va = some (f, u))
include read

theorem State.ctxresOn_of_refused (refused : u.ctxresRefuses k st action f) : s.ctxresOn k st va action n = u.resDone n (-3) := by
  rw [State.ctxresOn, read]
  exact if_pos (State.ctxresRefuses_iff.1 refused)

variable (taken : ¬ u.ctxresRefuses k st action f)
include taken

theorem State.ctxresOn_of_discard (ends : action = 1) : s.ctxresOn k st va action n = (u.discardStopped k).resDone n 0 := by
  rw [State.ctxresOn, read]
  exact (if_neg (taken ∘ State.ctxresRefuses_iff.2)).trans (if_pos ends)

theorem State.ctxresOn_of_resume (goes : action = 0) (plain : ∀ x, (u.ctx k).act = some x → x.tcb = none) :
    s.ctxresOn k st va action n = (u.setCtx k (((u.ctx k).takeFolio k st f).resumedAt (f.dword 1))).resDone n 0 := by
  have resumed := u.resume_of_unlinked (k := k) (c := (u.ctx k).takeFolio k st f) (by rwa [Ctx.takeFolio_act]) (f.dword 1)
  rw [State.ctxresOn, read, ← resumed]
  exact (if_neg (taken ∘ State.ctxresRefuses_iff.2)).trans (if_neg (by rw [goes]; decide))

end

/-! ## ERET -/

theorem exec_eret_of_ready (ready : Ready s { level := .s, reads := [a.toNat, b.toNat], writes := [d.toNat] }) : exec (.eret d a b) s =
    s.afterRelease (s.atFolio d.toNat (s.folioAt (s.reg a).toNat) id (fun k => (s.folioVa k).getD 0)
      (fun k st => (s.eretOn k st (s.reg b)).1.resDone d.toNat (s.eretOn k st (s.reg b)).2)) := by
  show execEret d a b s = _
  rw [execEret, State.issue_of_ready ready]
  rfl

theorem State.eretOn_of_unread (unread : (s.folioVa k).bind (s.readFolio k) = none) (x : Word) : s.eretOn k st x = (s, -3) := by
  simp only [State.eretOn, State.returnFolio, unread]

section

variable {va : Word} (place : s.folioVa k = some va) (read : s.readFolio k va = some (f, u))
include place read

theorem State.eretOn_of_refused (refused : s.mayResume k st = false ∨ f.reservedZero st.portable = false) (x : Word) :
    s.eretOn k st x = (s, -3) := by
  have rejected : (s.mayResume k st && f.reservedZero st.portable) = false := Bool.and_eq_false_iff.2 refused
  have unread : s.returnFolio k st = none := by
    simp only [State.returnFolio, place, Option.bind_some, read, rejected, Bool.false_eq_true, if_false]
  simp only [State.eretOn, unread]

variable (resumable : s.mayResume k st = true) (zero : f.reservedZero st.portable = true)
include resumable zero

theorem State.returnFolio_of_resumable : s.returnFolio k st = some (f, u) := by
  simp only [State.returnFolio, place, Option.bind_some, read, resumable, zero, Bool.and_self, if_true]

variable (plain : ∀ x, (u.ctx k).act = some x → x.tcb = none)
include plain

/-- A steward's answer to an SVC goes into its register, and the context goes on behind it (R297). -/
theorem State.eretOn_of_svc (native : st.portable = false) (svc : ((u.ctx k).recorded st).1 = 0x10) (x : Word) : s.eretOn k st x =
    (u.setCtx k ((((u.ctx k).takeFolio k st f).setW (st.word.toNat / 2 ^ 8 % 64) x).resumedAt (st.faultPc + 4)), 0) := by
  have unlinked : ∀ y, (((u.ctx k).takeFolio k st f).setW (st.word.toNat / 2 ^ 8 % 64) x).act = some y → y.tcb = none := by
    rwa [Ctx.setW_act, Ctx.takeFolio_act]
  simp only [State.eretOn, State.returnFolio_of_resumable place read resumable zero, native, Bool.false_eq_true, if_false,
    Ctx.recorded_takeFolio, svc, if_true]
  exact congrArg (·, 0) (u.resume_of_unlinked unlinked _)

theorem State.eretOn_of_native (native : st.portable = false) (other : ((u.ctx k).recorded st).1 ≠ 0x10) (x : Word) : s.eretOn k st x =
    (u.setCtx k (((u.ctx k).takeFolio k st f).resumedAt (f.dword 1)), 0) := by
  have unlinked : ∀ y, ((u.ctx k).takeFolio k st f).act = some y → y.tcb = none := by rwa [Ctx.takeFolio_act]
  simp only [State.eretOn, State.returnFolio_of_resumable place read resumable zero, native, Bool.false_eq_true, if_false,
    Ctx.recorded_takeFolio, other]
  exact congrArg (·, 0) (u.resume_of_unlinked unlinked _)

theorem State.eretOn_of_portable {l : Launch} {cap : Capsule} (portable : st.portable = true) (launch : u.launchOf k = some l)
    (capsule : u.capsuleOf l = some cap) (point : cap.resumePoint st.location = true) (x : Word) : s.eretOn k st x =
      (u.setCtx k (Ctx.resumedAt { (u.ctx k).takeFolio k st f with ld := 0, st := 0, cp := 0, tl := 0 }
        (BitVec.ofNat 64 (l.body + cap.native st.location))), 0) := by
  have unlinked : ∀ y, ((u.ctx k).takeFolio k st f).act = some y → y.tcb = none := by rwa [Ctx.takeFolio_act]
  simp only [State.eretOn, State.returnFolio_of_resumable place read resumable zero, portable, if_true, launch, capsule, point]
  exact congrArg (·, 0) (u.resume_of_unlinked (c := { (u.ctx k).takeFolio k st f with ld := 0, st := 0, cp := 0, tl := 0 }) unlinked _)

end

end Sys2Proof.Machine
end

section
/-!
The statement on CTXRES and ERET.
-/

namespace Sys2Proof

open Machine

/-- Settles O34: what CTXRES and ERET have in common, by the folio's context and its stop, and then what each does with a folio that it reads,
by whether it is refused. -/
theorem resumeAndDiscard : Obligations.ResumeAndDiscard := by
  unfold Obligations.ResumeAndDiscard
  intro s d a b held waits gives awaits resumed early
  refine ⟨fun ready => ?_, fun ready => ?_⟩
  · have run := exec_ctxres_of_ready ready
    refine ⟨State.afterRelease_waits run, fun free => ?_⟩
    have released := State.afterRelease_of_free run free
    refine ⟨fun absent => released.trans (by rw [absent]; rfl), fun k folio => ?_⟩
    rw [folio] at released
    refine ⟨fun runs => released.trans (State.atFolio_of_running runs), fun st stopped => ⟨fun soon => ?_, fun late => ?_⟩⟩
    · exact (released.trans (State.atFolio_of_early stopped (State.returnWaits_iff.2 soon))).trans s.resWait_eq
    have on := released.trans (State.atFolio_of_due stopped (late ∘ State.returnWaits_iff.1))
    refine ⟨fun unread => on.trans (State.ctxresOn_of_unread unread), fun f u read => ?_⟩
    refine ⟨fun refused => on.trans (State.ctxresOn_of_refused read refused), fun taken ends => ⟨?_, ?_⟩, fun taken goes plain => ?_⟩
    · exact on.trans (State.ctxresOn_of_discard read taken ends)
    · intro x active taskless noEnd outside
      obtain ⟨c, resting⟩ := u.rest_ctx k
      rw [State.discardStopped_of_plain active taskless noEnd outside, resting]
      exact ⟨rfl, rfl, u.rest_mem k⟩
    · exact on.trans (State.ctxresOn_of_resume read taken goes plain)
  · have run := exec_eret_of_ready ready
    refine ⟨State.afterRelease_waits run, fun free => ?_⟩
    have released := State.afterRelease_of_free run free
    refine ⟨fun absent => released.trans (by rw [absent]; rfl), fun k folio => ?_⟩
    rw [folio] at released
    refine ⟨fun runs => released.trans (State.atFolio_of_running runs), fun st stopped => ⟨fun soon => ?_, fun late => ?_⟩⟩
    · exact (released.trans (State.atFolio_of_early stopped (State.returnWaits_iff.2 soon))).trans s.resWait_eq
    have on := released.trans (State.atFolio_of_due stopped (late ∘ State.returnWaits_iff.1))
    have returns {t : State} {x : Word} (h : s.eretOn k st (s.reg b) = (t, x)) : gives (.eret d a b) t x := on.trans (by rw [h]; rfl)
    refine ⟨fun unread => returns (State.eretOn_of_unread unread _), fun va f u place read => ?_⟩
    refine ⟨fun refused => returns (State.eretOn_of_refused place read refused _), ?_⟩
    intro resumable zero c svc plain
    refine ⟨fun native called => ?_, fun native other => ?_, fun portable l cap launch capsule point => ?_⟩
    · exact returns (State.eretOn_of_svc place read resumable zero plain native called _)
    · exact returns (State.eretOn_of_native place read resumable zero plain native other _)
    · exact returns (State.eretOn_of_portable place read resumable zero plain portable launch capsule point _)

end Sys2Proof
end

section
/-!
SUPPORT. A tile's whole state moved to another place (R168).
-/

namespace Sys2Proof.Machine

/-! ## Tables whose entries move -/

section

variable {α : Type} {d : α}

/-- Entries put in order at their places from `to_` on: what one of them leaves reads as it did in the list. -/
theorem Tbl.get_foldl_insert {xs : Tbl α} {lo to_ : Nat} (distinct : (xs.map (·.1)).Nodup) (above : ∀ e ∈ xs, lo ≤ e.1) (t : Tbl α) (i : Nat) :
    Tbl.get d (xs.foldl (fun t e => Tbl.insert t (to_ + (e.1 - lo)) e.2) t) (to_ + i) = Tbl.get (Tbl.get d t (to_ + i)) xs (lo + i) := by
  induction xs generalizing t with
  | nil => rfl
  | cons e r ih =>
    obtain ⟨fresh, others⟩ := List.nodup_cons.1 distinct
    obtain ⟨low, rest⟩ := List.forall_mem_cons.1 above
    rw [List.foldl_cons, ih others rest]
    by_cases here : e.1 = lo + i
    · have place : to_ + (e.1 - lo) = to_ + i := by omega
      rw [place, Tbl.get_insert_self, Tbl.get_unlisted (here ▸ fresh), Tbl.get, if_pos here]
    · rw [Tbl.get_insert_other (by omega), Tbl.get, if_neg here]

theorem Tbl.nodup_keys_of_wfFrom [DecidableEq α] {n : Nat} {t : Tbl α} (h : Tbl.wfFrom d n t = true) :
    (t.map (·.1)).Nodup ∧ ∀ e ∈ t, n ≤ e.1 := by
  induction t generalizing n with
  | nil => simp
  | cons e r ih =>
    obtain ⟨low, -, rest⟩ := Tbl.wfFrom_cons.1 h
    obtain ⟨distinct, above⟩ := ih rest
    refine ⟨List.nodup_cons.2 ⟨fun listed => ?_, distinct⟩, List.forall_mem_cons.2 ⟨low, fun x hx => by have := above x hx; omega⟩⟩
    obtain ⟨x, hx, same : x.1 = e.1⟩ := List.mem_map.1 listed
    have := above x hx
    omega

/-- A table with its keys listed once reads at the new place as it read at the old. -/
theorem Tbl.get_moveRange {t : Tbl α} (distinct : (t.map (·.1)).Nodup) {lo n to_ i : Nat} (h : i < n) :
    Tbl.get d (moveRange t lo n to_) (to_ + i) = Tbl.get d t (lo + i) := by
  have inside : ∀ e ∈ t.filter (fun e => decide (lo ≤ e.1) && decide (e.1 < lo + n)), lo ≤ e.1 := fun e he => by
    have kept := (List.mem_filter.1 he).2
    simp only [Bool.and_eq_true, decide_eq_true_eq] at kept
    exact kept.1
  have cleared : Tbl.get d (Tbl.clear (Tbl.clear t lo (lo + n)) to_ (to_ + n)) (to_ + i) = d := by
    rw [Tbl.get_clear, if_pos (by omega)]
  unfold moveRange
  dsimp only
  rw [Tbl.get_foldl_insert (distinct.sublist (List.filter_sublist.map _)) inside, cleared]
  exact Tbl.get_filter_key (p := fun k => decide (lo ≤ k) && decide (k < lo + n)) (by simp only [Bool.and_eq_true, decide_eq_true_eq]; omega)

theorem assoc_map {β : Type} (f : α → β) (l : List (Nat × α)) (k : Nat) : assoc (l.map (fun e => (e.1, f e.2))) k = (assoc l k).map f := by
  unfold assoc
  rw [List.find?_map, Option.map_map, Option.map_map]
  rfl

end

/-! ## The move -/

variable {s : State} {src dst tag : Nat} {l : Launch}

/-- A launch with the queues of a tile renamed. -/
def Launch.requeued (l : Launch) (src dst : Nat) : Launch :=
  { l with queues := l.queues.map (fun q => { q with unit := if q.unit = src then dst else q.unit }) }

/-- A launch with a tile renamed in the place map and in its queues. -/
def Launch.movedTo (l : Launch) (src dst : Nat) : Launch :=
  { l.requeued src dst with units := l.units.map (fun x => if x = src then dst else x) }

theorem State.launch?_moveTile (found : s.launch? tag = some l) : (s.moveTile src dst).launch? tag = some (l.requeued src dst) :=
  (assoc_map (fun l : Launch => l.requeued src dst) s.launches tag).trans (congrArg _ found)

theorem State.tile_moveTile_src (s : State) (src dst : Nat) : (s.moveTile src dst).tile src = (s.tile src).vacated :=
  State.tile_setTile ..

theorem State.tile_moveTile_dst (apart : src ≠ dst) : (s.moveTile src dst).tile dst = TileMove.tile ⟨src, dst⟩ (s.tile src) (s.tile dst) :=
  (State.tile_setTile_other _ _ (Ne.symm apart)).trans (State.tile_setTile ..)

theorem State.tile_moveTile_other {u : Nat} (hs : u ≠ src) (hd : u ≠ dst) : (s.moveTile src dst).tile u = s.tile u :=
  (State.tile_setTile_other _ _ hs).trans (State.tile_setTile_other _ _ hd)

theorem scratchKey_eq_add (unit off : Nat) : scratchKey unit off = scratchKey unit 0 + off := by
  unfold scratchKey
  omega

theorem State.mem_moveTile (s : State) (src dst : Nat) :
    (s.moveTile src dst).mem = moveRange s.mem (scratchKey src 0) 524288 (scratchKey dst 0) := rfl

theorem State.get_mem_moveTile (canonical : Memory.wf s.mem = true) {off : Nat} (h : off < 524288) :
    Tbl.get 0 (s.moveTile src dst).mem (scratchKey dst off) = Tbl.get 0 s.mem (scratchKey src off) := by
  have moved := Tbl.get_moveRange (d := 0) (lo := scratchKey src 0) (to_ := scratchKey dst 0) (Tbl.nodup_keys_of_wfFrom canonical).1 h
  rwa [← scratchKey_eq_add, ← scratchKey_eq_add] at moved

/-- A context moves with all but the contexts that it awaits at an ALIGN. -/
theorem State.ctx_moveTile (canonical : Tbl.wf {} s.ctxs = true) {i : Nat} (h : i < 32) :
    ∃ align, (s.moveTile src dst).ctx (dst * 32 + i) = { s.ctx (src * 32 + i) with align := align } := by
  have distinct : ((s.ctxs.map fun e => (e.1, TileMove.ctxState ⟨src, dst⟩ e.2)).map (·.1)).Nodup := by
    simpa [Function.comp_def] using (Tbl.nodup_keys_of_wfFrom canonical).1
  have moved : (s.moveTile src dst).ctx (dst * 32 + i) =
      Tbl.get {} (s.ctxs.map fun e => (e.1, TileMove.ctxState ⟨src, dst⟩ e.2)) (src * 32 + i) := Tbl.get_moveRange distinct h
  have kept := Tbl.get_map_congr (d := ({} : Ctx)) (t := s.ctxs) (k := src * 32 + i)
    (f := fun e => TileMove.ctxState ⟨src, dst⟩ e.2) (fun c => { c with align := none }) fun _ => rfl
  rw [moved]
  generalize Tbl.get {} (s.ctxs.map fun e => (e.1, TileMove.ctxState ⟨src, dst⟩ e.2)) (src * 32 + i) = c at kept ⊢
  refine ⟨c.align, ?_⟩
  have whole : c = { ({ c with align := none } : Ctx) with align := c.align } := rfl
  rw [whole, kept]
  rfl

/-! ## The migration -/

/-- The accesses on their way that contexts carry over leave everything else of them (R89). -/
theorem State.foldl_carry_frame (s : State) (ks : List Nat) : ∃ ctxs, ks.foldl (fun (s : State) k => s.carry k) s = { s with ctxs := ctxs } ∧
    ∀ k, ∃ acq, Tbl.get {} ctxs k = { s.ctx k with acq := acq } := by
  induction ks generalizing s with
  | nil => exact ⟨s.ctxs, rfl, fun k => ⟨(s.ctx k).acq, rfl⟩⟩
  | cons j r ih =>
    obtain ⟨ctxs, run, carried⟩ := ih (s.carry j)
    refine ⟨ctxs, run, fun k => ?_⟩
    obtain ⟨acq, here⟩ := carried k
    by_cases same : k = j
    · subst same
      exact ⟨acq, by rw [here, State.carry, State.ctx_setCtx]⟩
    · exact ⟨acq, by rw [here, State.carry, State.ctx_setCtx_other _ _ same]⟩

theorem State.rehomeTasks_frame (s : State) (tag : Nat) : ∃ clusters, s.rehomeTasks tag = { s with clusters := clusters } := by
  unfold State.rehomeTasks
  split
  · exact ⟨_, rfl⟩
  · dsimp only
    refine List.foldlRecOn (motive := fun t : State => ∃ clusters, t = { s with clusters := clusters }) _ _ ⟨_, rfl⟩ ?_
    rintro _ ⟨clusters, rfl⟩ j -
    exact ⟨_, rfl⟩

/-- What a migration does once the tile's state has moved: the messages stand as given, the place map and the old tile's forwarding entry follow, the
contexts carry their accesses over and the tile tasks are rehomed (R168). -/
def State.arrive (s : State) (msgs : List Msg) (tag src dst : Nat) : State :=
  let t := { s with msgs := msgs }
  let t := match t.launch? tag with
    | some l => t.setLaunch tag { l with units := l.units.map (fun u => if u = src then dst else u) }
    | none => t
  let t := (tileCtxs dst).foldl (fun (s : State) k => s.carry k) t
  (t.setTile src { t.tile src with forward := some dst, markers := [] }).rehomeTasks tag

theorem State.migrate_eq (s : State) (tag src dst : Nat) :
    s.migrate tag src dst = (s.moveTile src dst).arrive (resendAll src s.msgs (s.moveTile src dst).msgs) tag src dst := rfl

theorem State.arrive_frame {msgs : List Msg} (found : s.launch? tag = some l) : ∃ ctxs clusters, s.arrive msgs tag src dst =
    { (s.setLaunch tag { l with units := l.units.map (fun u => if u = src then dst else u) }).setTile src
        { s.tile src with forward := some dst, markers := [] } with msgs := msgs, ctxs := ctxs, clusters := clusters } ∧
    ∀ k, ∃ acq, Tbl.get {} ctxs k = { s.ctx k with acq := acq } := by
  obtain ⟨ctxs, carried, same⟩ := State.foldl_carry_frame
    (State.setLaunch { s with msgs := msgs } tag { l with units := l.units.map (fun u => if u = src then dst else u) }) (tileCtxs dst)
  obtain ⟨clusters, rehomed⟩ := State.rehomeTasks_frame (State.setTile
    { s.setLaunch tag { l with units := l.units.map (fun u => if u = src then dst else u) } with msgs := msgs, ctxs := ctxs } src
    { s.tile src with forward := some dst, markers := [] }) tag
  have launch : State.launch? { s with msgs := msgs } tag = some l := found
  refine ⟨ctxs, clusters, Eq.trans ?_ rehomed, same⟩
  simp only [State.arrive, launch, carried]
  rfl

section

variable (found : s.launch? tag = some l)
include found

theorem State.launch?_migrate : (s.migrate tag src dst).launch? tag = some (l.movedTo src dst) := by
  obtain ⟨ctxs, clusters, arrived, -⟩ := State.arrive_frame (src := src) (dst := dst) (State.launch?_moveTile found)
  rw [State.migrate_eq, arrived]
  exact State.launch?_setLaunch (s.moveTile src dst) tag _

theorem State.tile_migrate (u : Nat) : (s.migrate tag src dst).tile u =
    if u = src then { (s.moveTile src dst).tile src with forward := some dst, markers := [] } else (s.moveTile src dst).tile u := by
  obtain ⟨ctxs, clusters, arrived, -⟩ := State.arrive_frame (src := src) (dst := dst) (State.launch?_moveTile found)
  rw [State.migrate_eq, arrived]
  split
  · next same =>
    rw [same]
    exact State.tile_setTile (s.moveTile src dst) src _
  · next other => exact State.tile_setTile_other (s.moveTile src dst) _ other

theorem State.mem_migrate : (s.migrate tag src dst).mem = (s.moveTile src dst).mem := by
  obtain ⟨ctxs, clusters, arrived, -⟩ := State.arrive_frame (src := src) (dst := dst) (State.launch?_moveTile found)
  rw [State.migrate_eq, arrived]
  rfl

theorem State.ctx_migrate (k : Nat) : ∃ acq, (s.migrate tag src dst).ctx k = { (s.moveTile src dst).ctx k with acq := acq } := by
  obtain ⟨ctxs, clusters, arrived, carried⟩ := State.arrive_frame (src := src) (dst := dst) (State.launch?_moveTile found)
  rw [State.migrate_eq, arrived]
  exact carried k

theorem State.tile_migrate_src : (s.migrate tag src dst).tile src = { (s.tile src).vacated with forward := some dst, markers := [] } := by
  rw [State.tile_migrate found, if_pos rfl, State.tile_moveTile_src]

theorem State.tile_migrate_dst (apart : src ≠ dst) :
    (s.migrate tag src dst).tile dst = TileMove.tile ⟨src, dst⟩ (s.tile src) (s.tile dst) := by
  rw [State.tile_migrate found, if_neg (Ne.symm apart), State.tile_moveTile_dst apart]

theorem State.tile_migrate_other {u : Nat} (hs : u ≠ src) (hd : u ≠ dst) : (s.migrate tag src dst).tile u = s.tile u := by
  rw [State.tile_migrate found, if_neg hs, State.tile_moveTile_other hs hd]

end

end Sys2Proof.Machine
end

section
/-!
SUPPORT. What stays, or only goes on in its direction, while contexts stop and launches end: function by function in the order of the model's
files. Tiles keep their place and their launch, a context that has halted stays so, an event stays, and a launch that has ended keeps its
status (R21, R48, R94, R162).
-/

namespace Sys2Proof.Machine

/-- A context that runs no more: it has no activation, or has stopped. -/
def Ctx.Halted (c : Ctx) : Prop := c.act = none ∨ c.stop ≠ none

/-- A context whose activation, if it has one, has no task control block. -/
def Ctx.Unlinked (c : Ctx) : Prop := ∀ a, c.act = some a → a.tcb = none

/-- A context is halted, and has no task control block, where it was so before. -/
structure Ctx.Follows (c old : Ctx) : Prop where
  halted : old.Halted → c.Halted
  unlinked : old.Unlinked → c.Unlinked

/-- A launch has the steward that it had, and where it had ended, its status. -/
structure Launch.Follows (l old : Launch) : Prop where
  steward : l.steward = old.steward
  ended : old.state = .ended → l.state = .ended ∧ l.status = old.status

/-- What is watched of a state: a part of the host's registers, each tile's place in service with its launch, the contexts, the events and the
launches. -/
structure Outlook (α : Type) where
  host : α
  tile : Nat → Bool × Bool × Option Nat
  ctx : Nat → Ctx
  event : Nat → Bool
  launch : Nat → Option Launch

def Tile.place (t : Tile) : Bool × Bool × Option Nat := (t.inService, t.quarantined, t.launch)

def State.outlook {α : Type} (view : HostRegs → α) (s : State) : Outlook α where
  host := view s.host
  tile u := (s.tile u).place
  ctx k := s.ctx k
  event a := (s.core a).event
  launch tag := s.launch? tag

/-- What is watched has gone on from what it was. -/
structure Outlook.Follows {α : Type} (x old : Outlook α) : Prop where
  host : x.host = old.host
  tile : x.tile = old.tile
  ctx : ∀ k, (x.ctx k).Follows (old.ctx k)
  event : ∀ a, old.event a = true → x.event a = true
  launch : ∀ tag l, old.launch tag = some l → ∃ l', x.launch tag = some l' ∧ l'.Follows l

variable {α : Type} {view : HostRegs → α} {s init : State}

/-- A state follows an earlier one, as far as `view` shows the host's registers. -/
def State.Follows (view : HostRegs → α) (s init : State) : Prop := (s.outlook view).Follows (init.outlook view)

/-- A part of the host's registers that an error logged leaves alone. -/
def Silent (view : HostRegs → α) : Prop := ∀ (s : State) (uncorrectable : Bool), view (s.logError uncorrectable).host = view s.host

theorem Ctx.Follows.refl (c : Ctx) : c.Follows c := ⟨id, id⟩

theorem Ctx.Follows.trans {a b c : Ctx} (h : a.Follows b) (g : b.Follows c) : a.Follows c :=
  ⟨h.halted ∘ g.halted, h.unlinked ∘ g.unlinked⟩

theorem Launch.Follows.refl (l : Launch) : l.Follows l := ⟨rfl, fun h => ⟨h, rfl⟩⟩

theorem Launch.Follows.trans {a b c : Launch} (h : a.Follows b) (g : b.Follows c) : a.Follows c :=
  ⟨h.steward.trans g.steward, fun gone => ⟨(h.ended (g.ended gone).1).1, (h.ended (g.ended gone).1).2.trans (g.ended gone).2⟩⟩

/-- A launch that has not ended may go on in any way with its steward. -/
theorem Launch.follows_of_live {l old : Launch} (steward : l.steward = old.steward) (live : old.state ≠ .ended) : l.Follows old :=
  ⟨steward, fun gone => absurd gone live⟩

/-- A context with the same activation that is stopped if it was. -/
theorem Ctx.follows_of_act {c old : Ctx} (act : c.act = old.act) (stop : old.stop ≠ none → c.stop ≠ none) : c.Follows old :=
  ⟨Or.imp (act.trans ·) stop, fun h a active => h a (act.symm.trans active)⟩

theorem Ctx.follows_of_idle {c old : Ctx} (idle : c.act = none) : c.Follows old :=
  ⟨fun _ => .inl idle, fun _ _ active => nomatch idle.symm.trans active⟩

theorem State.Follows.refl (s : State) : s.Follows view s :=
  ⟨rfl, rfl, fun k => .refl (s.ctx k), fun _ h => h, fun _ l h => ⟨l, h, .refl l⟩⟩

theorem State.Follows.trans {t u : State} (h : s.Follows view t) (g : t.Follows view u) : s.Follows view u := by
  refine ⟨h.host.trans g.host, h.tile.trans g.tile, fun k => (h.ctx k).trans (g.ctx k), fun a => h.event a ∘ g.event a, fun tag l found => ?_⟩
  obtain ⟨m, there, first⟩ := g.launch tag l found
  obtain ⟨n, here, second⟩ := h.launch tag m there
  exact ⟨n, here, second.trans first⟩

theorem State.Follows.ite {c : Prop} [Decidable c] {s t : State} (hs : s.Follows view init) (ht : t.Follows view init) :
    (if c then s else t).Follows view init := by
  split <;> assumption

theorem State.Follows.foldl {β : Type} {f : State → β → State} {l : List β} (h : s.Follows view init)
    (hf : ∀ t x, State.Follows view t init → State.Follows view (f t x) init) : (l.foldl f s).Follows view init :=
  List.foldlRecOn (motive := fun t => State.Follows view t init) l f h fun t ht x _ => hf t x ht

section

variable (h : s.Follows view init)
include h

theorem State.Follows.view_host : view s.host = view init.host := h.host
theorem State.Follows.place (u : Nat) : (s.tile u).place = (init.tile u).place := congrFun h.tile u
theorem State.Follows.halted {k : Nat} (halted : (init.ctx k).Halted) : (s.ctx k).Halted := (h.ctx k).halted halted
theorem State.Follows.event_core {a : Nat} (event : (init.core a).event = true) : (s.core a).event = true := h.event a event

theorem State.Follows.launch? {tag : Nat} {l : Launch} (found : init.launch? tag = some l) :
    ∃ l', s.launch? tag = some l' ∧ l'.Follows l := h.launch tag l found

end

/-! ## The state's own updates -/

theorem State.Follows.setCtx {k c} (h : s.Follows view init) (hc : c.Follows (s.ctx k)) : (s.setCtx k c).Follows view init := by
  refine ⟨h.host, h.tile, fun j => ?_, h.event, h.launch⟩
  show ((s.setCtx k c).ctx j).Follows (init.ctx j)
  by_cases same : j = k
  · rw [same, State.ctx_setCtx]
    exact hc.trans (h.ctx k)
  · rw [State.ctx_setCtx_other s c same]
    exact h.ctx j

/-- An update of a context that leaves its activation and its stop. -/
theorem State.Follows.setCtx_same {k c} (h : s.Follows view init) (act : c.act = (s.ctx k).act) (stop : c.stop = (s.ctx k).stop) :
    (s.setCtx k c).Follows view init := h.setCtx (Ctx.follows_of_act act fun halted => by rwa [stop])

theorem State.Follows.setCore {a c} (h : s.Follows view init) (hc : (s.core a).event = true → c.event = true) :
    (s.setCore a c).Follows view init := by
  refine ⟨h.host, h.tile, h.ctx, fun b old => ?_, h.launch⟩
  show ((s.setCore a c).core b).event = true
  by_cases same : b = a
  · rw [same, State.core_setCore]
    exact hc (same ▸ h.event b old)
  · rw [State.core_setCore_other s c same]
    exact h.event b old

theorem State.Follows.setTile {u x} (h : s.Follows view init) (hx : x.place = (s.tile u).place) : (s.setTile u x).Follows view init := by
  refine ⟨h.host, Eq.trans (funext fun v => ?_) h.tile, h.ctx, h.event, h.launch⟩
  show ((s.setTile u x).tile v).place = (s.tile v).place
  by_cases same : v = u
  · rw [same, State.tile_setTile, hx]
  · rw [State.tile_setTile_other s x same]

theorem State.Follows.setCluster {n c} (h : s.Follows view init) : (s.setCluster n c).Follows view init := h

theorem State.Follows.setLaunch {tag x} (h : s.Follows view init) (hx : ∀ l, init.launch? tag = some l → x.Follows l) :
    (s.setLaunch tag x).Follows view init := by
  refine ⟨h.host, h.tile, h.ctx, h.event, fun n l found => ?_⟩
  show ∃ l', (s.setLaunch tag x).launch? n = some l' ∧ l'.Follows l
  by_cases same : n = tag
  · exact ⟨x, by rw [same, State.launch?_setLaunch], hx l (same ▸ found)⟩
  · rw [State.launch?_setLaunch_other s same]
    exact h.launch n l found

theorem State.Follows.setJob {j x} (h : s.Follows view init) : (s.setJob j x).Follows view init := h
theorem State.Follows.fresh (h : s.Follows view init) : s.fresh.Follows view init := h

theorem State.Follows.logError {uncorrectable} (silent : Silent view) (h : s.Follows view init) :
    (s.logError uncorrectable).Follows view init := by
  cases uncorrectable <;> exact ⟨(silent s _).trans h.host, h.tile, h.ctx, h.event, h.launch⟩

/-! ## Memory and translation -/

theorem State.Follows.writeBytes {kid key bad l} (h : s.Follows view init) : (s.writeBytes kid key bad l).Follows view init := by
  obtain ⟨mem, marks, lineKey, written⟩ := s.writeBytes_frame kid key bad l
  rw [written]
  exact h

theorem State.Follows.writeList {kid key bad bs} (h : s.Follows view init) : (s.writeList kid key bad bs).Follows view init := h.writeBytes

theorem Core.event_setTlb (c : Core) (l : List TlbEntry) (u : Translator) : (c.setTlb l u).event = c.event := by cases u <;> rfl

theorem State.Follows.tlbFill {u core e} (h : s.Follows view init) : (s.tlbFill u core e).Follows view init :=
  State.Follows.setCore h fun old => (Core.event_setTlb ..).trans old

theorem State.Follows.translate {u core root launch va leaf t} (h : s.Follows view init)
    (e : s.translate u core root launch va = some (leaf, t)) : t.Follows view init := by
  unfold State.translate at e
  split at e
  · cases e; exact h
  · split at e
    · cases e
    · cases e; exact h.tlbFill

theorem State.Follows.globalPart {u k a va off len p t} (h : s.Follows view init)
    (e : s.globalPart u k a va off len = .ok (p, t)) : t.Follows view init := by
  unfold State.globalPart at e
  split at e
  · split at e
    · cases e; exact h
    · cases e
  · split at e
    · cases e
    · split at e
      · cases e
      · split at e
        · cases e
        · next found =>
          split at e
          · cases e
          · cases e; exact h.translate found

theorem State.Follows.globalParts {u k a va l ps t} (h : s.Follows view init)
    (e : s.globalParts u k a va l = .ok (ps, t)) : t.Follows view init := by
  induction l generalizing s ps with
  | nil => cases e; exact h
  | cons b r ih =>
    simp only [State.globalParts] at e
    split at e
    · cases e
    · next first =>
      split at e
      · cases e
      · next rest => cases e; exact ih (h.globalPart first) rest

theorem State.Follows.locate {k a addr n ps t} (h : s.Follows view init) (e : s.locate k a addr n = .ok (ps, t)) :
    t.Follows view init := by
  unfold State.locate State.locateBy at e
  dsimp only at e
  split at e
  · cases e
  · split at e
    · split at e
      · cases e
      · exact h.globalParts e
    · split at e
      · cases e
      · split at e
        · cases e; exact h
        · cases e

/-! ## Counters, waits and regions -/

theorem State.Follows.changeMonitors {cluster tag source f} (h : s.Follows view init) :
    (s.changeMonitors cluster tag source f).Follows view init := .ite h.setCluster h

theorem State.Follows.countLaunch {tag source} (h : s.Follows view init) : (s.countLaunch tag source).Follows view init := by
  unfold State.countLaunch
  split
  · next l found =>
    refine State.Follows.trans (State.Follows.setLaunch (.refl s) fun m here => ?_) h
    rw [found] at here
    cases here
    exact ⟨rfl, fun gone => ⟨gone, rfl⟩⟩
  · exact h

theorem State.Follows.countAt {k source} (h : s.Follows view init) : (s.countAt k source).Follows view init := h.changeMonitors.countLaunch

theorem State.Follows.countEach {source ks} (h : s.Follows view init) : (s.countEach source ks).Follows view init :=
  h.foldl fun _ _ ht => ht.countAt

theorem State.Follows.lower {k act ld st} (h : s.Follows view init) : (s.lower k act ld st).Follows view init :=
  .ite (h.setCtx_same rfl rfl) h

theorem State.Follows.lowerCp {k act} (h : s.Follows view init) : (s.lowerCp k act).Follows view init := .ite (h.setCtx_same rfl rfl) h
theorem State.Follows.lowerTl {k act} (h : s.Follows view init) : (s.lowerTl k act).Follows view init := .ite (h.setCtx_same rfl rfl) h
theorem State.Follows.ringRetire {core seq} (h : s.Follows view init) : (s.ringRetire core seq).Follows view init := .ite (h.setCore id) h

theorem State.Follows.finishTxn {t} (h : s.Follows view init) : (s.finishTxn t).Follows view init := by
  refine .ite h ?_
  split
  exacts [.ringRetire (.lower h), .lower h]

theorem State.Follows.dropTxns {l} (h : s.Follows view init) : (s.dropTxns l).Follows view init := by
  induction l generalizing s with
  | nil => exact h
  | cons t r ih => exact ih h.finishTxn

theorem State.Follows.unwait {k} (h : s.Follows view init) : (s.unwait k).Follows view init := .setCore (.setTile h rfl) id

theorem State.Follows.restart {k} (h : s.Follows view init) : (s.restart k).Follows view init := by
  unfold State.restart
  dsimp only
  split
  exacts [h, h.unwait.dropTxns.setCtx_same rfl rfl]

theorem State.Follows.restartAll {l} (h : s.Follows view init) : (s.restartAll l).Follows view init := by
  induction l generalizing s with
  | nil => exact h
  | cons k r ih => exact ih h.restart

theorem State.Follows.abortSlots {m} (h : s.Follows view init) : (s.abortSlots m).Follows view init := .restartAll h.countEach

theorem State.Follows.mergeVersions {l} (h : s.Follows view init) : (s.mergeVersions l).Follows view init := by
  induction l generalizing s with
  | nil => exact h
  | cons v r ih => exact ih h.writeBytes

theorem State.Follows.commitSlot {n} (h : s.Follows view init) : (s.commitSlot n).Follows view init := h.mergeVersions.changeMonitors

theorem State.Follows.endRegion {k} (h : s.Follows view init) : (s.endRegion k).Follows view init := by
  unfold State.endRegion
  split
  · exact h
  · split
    exacts [h.commitSlot.setCtx_same rfl rfl, h.commitSlot.setCtx_same rfl rfl, h.abortSlots]

/-! ## Contexts that rest -/

theorem State.Follows.freeDrain {k} (h : s.Follows view init) : (s.freeDrain k).Follows view init := by
  unfold State.freeDrain
  split
  · next a active =>
    split
    · refine .setCtx (.setTile h rfl) ⟨fun halted => .inr (halted.resolve_left (active.trans_ne (Option.some_ne_none a))), ?_⟩
      intro plain b here
      cases here
      exact plain a active
    · exact h
  · exact h

/-- A context that waits for another at an ALIGN no more (R46). -/
def Ctx.unaligned (k : Nat) (c : Ctx) : Ctx := { c with align := c.align.map fun (i, t, ks) => (i, t, ks.filter (· != k)) }

theorem State.leaveAlign_ctxs (s : State) (k : Nat) : (s.leaveAlign k).ctxs = s.ctxs.map fun e => (e.1, e.2.unaligned k) := by
  refine List.map_congr_left fun e _ => ?_
  obtain ⟨n, c⟩ := e
  cases aligned : c.align with
  | none =>
    have still : c.unaligned k = c := by
      unfold Ctx.unaligned
      rw [aligned, Option.map_none, ← aligned]
    simp only [still]
  | some g => simp only [aligned, Ctx.unaligned, Option.map_some]

theorem State.Follows.leaveAlign {k} (h : s.Follows view init) : (s.leaveAlign k).Follows view init := by
  refine ⟨h.host, h.tile, fun j => ?_, h.event, h.launch⟩
  have kept := Tbl.get_map_congr (d := ({} : Ctx)) (t := s.ctxs) (k := j) (f := fun e => e.2.unaligned k) (fun c => (c.act, c.stop)) fun _ => rfl
  rw [← State.leaveAlign_ctxs] at kept
  exact (Ctx.follows_of_act (congrArg Prod.fst kept) fun halted => (congrArg Prod.snd kept).trans_ne halted).trans (h.ctx j)

theorem State.Follows.rest {k} (h : s.Follows view init) : (s.rest k).Follows view init :=
  .setCore (.setCtx h.unwait.freeDrain.leaveAlign (Ctx.follows_of_idle rfl)) id

theorem State.Follows.restAll {l} (h : s.Follows view init) : (s.restAll l).Follows view init := by
  induction l generalizing s with
  | nil => exact h
  | cons k r ih => exact ih h.endRegion.rest

/-! ## The end of a launch -/

theorem State.Follows.abortReaders {home key n} (h : s.Follows view init) : (s.abortReaders home key n).Follows view init :=
  .ite h h.abortSlots

theorem State.Follows.clearResumable {k} (h : s.Follows view init) : (s.clearResumable k).Follows view init := by
  unfold State.clearResumable
  split
  · exact h
  · next st stopped =>
    have marked : (s.setCtx k { s.ctx k with stop := some { st with resumable := false } }).Follows view init :=
      h.setCtx (Ctx.follows_of_act rfl fun _ => Option.some_ne_none _)
    dsimp only
    split
    · exact marked
    · split
      · exact marked
      · split
        exacts [marked, .ite marked marked.abortReaders.writeList]

theorem State.Follows.clearAllResumable {l} (h : s.Follows view init) : (s.clearAllResumable l).Follows view init := by
  induction l generalizing s with
  | nil => exact h
  | cons k r ih => exact ih h.clearResumable

theorem State.Follows.discardAll {l} (h : s.Follows view init) : (s.discardAll l).Follows view init := by
  induction l generalizing s with
  | nil => exact h
  | cons a r ih => exact ih (h.setCore id)

theorem State.Follows.forgetJob {j} (h : s.Follows view init) : (s.forgetJob j).Follows view init := .ite h.lowerTl h.lowerCp

theorem State.Follows.discardSubmitted {tag} (h : s.Follows view init) : (s.discardSubmitted tag).Follows view init :=
  .foldl h fun _ _ ht => ht.forgetJob

theorem State.Follows.discardJobs {tag l} (h : s.Follows view init) : (s.discardJobs tag l).Follows view init := by
  induction l generalizing s with
  | nil => exact h
  | cons e r ih => exact ih (h.setCluster.foldl fun _ _ ht => ht.forgetJob)

theorem State.Follows.endNotice {tag job status} (h : s.Follows view init) : (s.endNotice tag job status).Follows view init := by
  unfold State.endNotice
  split
  exacts [h, h]

theorem State.Follows.cancelLaunch {tag level by_} (h : s.Follows view init) : (s.cancelLaunch tag level by_).Follows view init := by
  refine State.Follows.trans ?_ h
  unfold State.cancelLaunch
  split
  · exact .refl s
  · next l found =>
    have put {x : Launch} (steward : x.steward = l.steward) (live : l.state ≠ .ended) : (s.setLaunch tag x).Follows view s :=
      State.Follows.setLaunch (.refl s) fun m here => by
        rw [found] at here
        cases here
        exact Launch.follows_of_live steward live
    have dropped {x : Launch} (job : Nat) (steward : x.steward = l.steward) (live : l.state ≠ .ended) :
        ((s.setLaunch tag x).sweepBodies.endNotice tag job 1).Follows view s := State.Follows.endNotice (put steward live)
    have grace {x : Launch} (ks as : List Nat) (steward : x.steward = l.steward) (live : l.state ≠ .ended) :
        (((((s.setLaunch tag x).clearAllResumable ks).discardAll as).discardSubmitted tag).discardJobs tag
          (s.setLaunch tag x).clusters).Follows view s := (put steward live).clearAllResumable.discardAll.discardSubmitted.discardJobs
    split
    · next waits => exact dropped _ rfl (by simp [waits])
    · next waits => exact dropped _ rfl (by simp [waits])
    · next waits => exact dropped _ rfl (by simp [waits])
    · next runs => exact grace _ _ rfl (by simp [runs])
    · next sleeps => exact grace _ _ rfl (by simp [sleeps])
    · exact .refl s
    · exact .refl s

theorem State.Follows.cancelLaunches {level by_ l} (h : s.Follows view init) : (s.cancelLaunches level by_ l).Follows view init := by
  induction l generalizing s with
  | nil => exact h
  | cons t r ih => exact ih h.cancelLaunch

/-- The state in which a launch's contexts rest, its queued work is gone and it has its status: all but the sequel of its end (R94). -/
def State.ended (s : State) (tag : Nat) (l : Launch) (status : Nat) (reason : String) : State :=
  ((((s.clearAllResumable l.ctxKeys).restAll l.ctxKeys).discardAll l.agents).discardSubmitted tag).setLaunch tag
    { l with state := .ended, status := some status, reason := reason, parked := [] }

theorem State.endLaunch_follows_ended {tag status : Nat} {l : Launch} (reason : String) (found : s.launch? tag = some l)
    (live : l.state ≠ .ended ∧ l.state ≠ .retired) :
    (s.endLaunch tag status reason).Follows view (s.ended tag l status reason) := by
  have rest : State.Follows view (s.ended tag l status reason) (s.ended tag l status reason) := .refl _
  unfold State.endLaunch
  rw [found]
  dsimp only
  rw [if_neg (by simp [live])]
  split
  · exact .endNotice rest
  · split
    · exact .endNotice rest
    · exact .cancelLaunches (.setJob (.endNotice rest))

theorem State.ended_follows {tag status : Nat} {l : Launch} (reason : String) (found : s.launch? tag = some l)
    (live : l.state ≠ .ended ∧ l.state ≠ .retired) : (s.ended tag l status reason).Follows view s := by
  refine .setLaunch (.discardSubmitted (.discardAll (.restAll (.clearAllResumable (.refl s))))) fun m here => ?_
  rw [found] at here
  cases here
  exact Launch.follows_of_live rfl live.1

theorem State.Follows.endLaunch {tag status reason} (h : s.Follows view init) : (s.endLaunch tag status reason).Follows view init := by
  cases found : s.launch? tag with
  | none =>
    rw [State.endLaunch, found]
    exact h
  | some l =>
    by_cases done : l.state = .ended ∨ l.state = .retired
    · have still : s.endLaunch tag status reason = s := by
        rw [State.endLaunch, found]
        exact if_pos (by simpa using done)
      rw [still]
      exact h
    · have live := not_or.1 done
      exact (State.endLaunch_follows_ended reason found live).trans ((State.ended_follows reason found live).trans h)

/-- A launch that ends has its status, whatever else its end brings about (R94). -/
theorem State.endLaunch_ends {tag status : Nat} {l : Launch} (reason : String) (found : s.launch? tag = some l)
    (live : l.state ≠ .ended ∧ l.state ≠ .retired) :
    ∃ l', (s.endLaunch tag status reason).launch? tag = some l' ∧ l'.state = .ended ∧ l'.status = some status := by
  obtain ⟨l', here, follows⟩ := (State.endLaunch_follows_ended (view := id) (status := status) reason found live).launch tag _
    (State.launch?_setLaunch _ tag _)
  exact ⟨l', here, follows.ended rfl⟩

/-! ## Stops -/

theorem State.Follows.trapMessage {tag cls source unit payload} (h : s.Follows view init) :
    (s.trapMessage tag cls source unit payload).Follows view init := by
  unfold State.trapMessage
  split
  · exact h
  · refine .ite h ?_
    split
    exacts [.ite h h.endLaunch, h.fresh]

theorem State.Follows.storeParts {k va bad bs l} (h : s.Follows view init) : (s.storeParts k va bad bs l).Follows view init := by
  induction l generalizing s with
  | nil => exact h
  | cons p r ih => exact ih (.ite h.fresh h.abortReaders.writeList)

theorem State.Follows.storeVa {k va bad bs t} (h : s.Follows view init) (e : s.storeVa k va bad bs = .ok t) : t.Follows view init := by
  unfold State.storeVa at e
  split at e
  · cases e
  · next found => cases e; exact (h.locate found).storeParts

theorem State.Follows.tcbState {k tcb n} (silent : Silent view) (h : s.Follows view init) : (s.tcbState k tcb n).Follows view init := by
  unfold State.tcbState
  split
  · next found => exact h.storeVa found
  · exact .trapMessage (.ite (h.logError silent) h)

/-- A context as it stops, before a task control block is marked: the whole of a stop's first part (R131, R162). -/
def State.halt (s : State) (k : Nat) (st : Stop) : State :=
  let u := s.unwait k
  let v := u.setCtx k { u.ctx k with state := .stopped, stop := some st, window := none, align := none }
  match (u.ctx k).region with
  | none => v
  | some r =>
    match (v.slot r.slot).phase with
    | .irrevocable | .committing => v
    | _ =>
      let w := v.abortSlots (slotBit r.slot)
      w.setCtx k { w.ctx k with stop := some { st with resumePc := r.pc, restart := true } }

/-- A stop marks the task control block of the context's activation, where it has one (R107). -/
theorem State.stopCtx_cases (s : State) (k : Nat) (st : Stop) : s.stopCtx k st = s.halt k st ∨
    ∃ a tcb, ((s.halt k st).ctx k).act = some a ∧ a.tcb = some tcb ∧ s.stopCtx k st = (s.halt k st).tcbState k tcb 4 := by
  have whole : s.stopCtx k st = if st.held || st.portable then s.halt k st else
      match ((s.halt k st).ctx k).act with
      | some a => match a.tcb with
        | some t => (s.halt k st).tcbState k t 4
        | none => s.halt k st
      | none => s.halt k st := rfl
  rw [whole]
  split
  · exact .inl rfl
  · split
    · next a active =>
      split
      · next tcb linked => exact .inr ⟨a, tcb, active, linked, rfl⟩
      · exact .inl rfl
    · exact .inl rfl

theorem State.Follows.halt {k st} (h : s.Follows view init) : (s.halt k st).Follows view init ∧ ((s.halt k st).ctx k).stop ≠ none := by
  have stopped {t : State} {c : Ctx} (ht : t.Follows view init) (act : c.act = (t.ctx k).act) (stop : c.stop ≠ none) :
      (t.setCtx k c).Follows view init ∧ ((t.setCtx k c).ctx k).stop ≠ none :=
    ⟨ht.setCtx (Ctx.follows_of_act act fun _ => stop), by rwa [State.ctx_setCtx]⟩
  have first := stopped (c := { (s.unwait k).ctx k with state := .stopped, stop := some st, window := none, align := none })
    h.unwait rfl (Option.some_ne_none _)
  unfold State.halt
  dsimp only
  split
  · exact first
  · split
    exacts [first, first, stopped first.1.abortSlots rfl (Option.some_ne_none _)]

theorem State.Follows.stopCtx {k st} (quiet : Silent view ∨ (s.ctx k).Unlinked) (h : s.Follows view init) :
    (s.stopCtx k st).Follows view init := by
  rcases s.stopCtx_cases k st with plain | ⟨a, tcb, active, linked, marks⟩
  · rw [plain]
    exact h.halt.1
  · have silent : Silent view := quiet.resolve_right fun unlinked => by
      have still := (State.Follows.halt (k := k) (st := st) (State.Follows.refl (view := view) s)).1.ctx k
      exact Option.some_ne_none tcb (linked.symm.trans (still.unlinked unlinked a active))
    rw [marks]
    exact h.halt.1.tcbState silent

theorem silent_tileCount : Silent HostRegs.tileCount := fun _ uncorrectable => by cases uncorrectable <;> rfl

/-- A context that stops has halted, whatever its task control block brings about. -/
theorem State.halted_stopCtx (s : State) (k : Nat) (st : Stop) : ((s.stopCtx k st).ctx k).Halted := by
  have halted := (State.Follows.halt (k := k) (st := st) (State.Follows.refl (view := HostRegs.tileCount) s)).2
  rcases s.stopCtx_cases k st with plain | ⟨a, tcb, -, -, marks⟩
  · rw [plain]
    exact .inr halted
  · rw [marks]
    exact ((State.Follows.tcbState silent_tileCount (.refl (s.halt k st))).ctx k).halted (.inr halted)

/-- One context of a list stopped, unless it has halted (R162). -/
def State.haltCtx (s : State) (cause k : Nat) : State :=
  if (s.ctx k).act.isNone || (s.ctx k).stop.isSome then s
  else s.stopCtx k { cause := cause, subcode := 0, faultPc := 0, faultAddr := 0, word := 0, resumePc := (s.ctx k).pc }

theorem State.haltCtxs_cons (s : State) (cause k : Nat) (r : List Nat) : s.haltCtxs cause (k :: r) = (s.haltCtx cause k).haltCtxs cause r := rfl

theorem Ctx.halted_iff {c : Ctx} : c.Halted ↔ (c.act.isNone || c.stop.isSome) = true := by
  simp [Ctx.Halted, Option.isSome_iff_ne_none]

theorem State.haltCtx_of_halted {k : Nat} (halted : (s.ctx k).Halted) (cause : Nat) : s.haltCtx cause k = s :=
  if_pos (Ctx.halted_iff.1 halted)

theorem State.halted_haltCtx (s : State) (cause k : Nat) : ((s.haltCtx cause k).ctx k).Halted := by
  by_cases halted : (s.ctx k).Halted
  · rwa [State.haltCtx_of_halted halted]
  · rw [State.haltCtx, if_neg (halted ∘ Ctx.halted_iff.2)]
    exact s.halted_stopCtx k _

theorem State.Follows.haltCtx {cause k} (quiet : Silent view ∨ (s.ctx k).Unlinked) (h : s.Follows view init) :
    (s.haltCtx cause k).Follows view init := .ite h (h.stopCtx quiet)

theorem State.Follows.haltCtxs {cause l} (quiet : Silent view ∨ ∀ k ∈ l, (s.ctx k).Unlinked) (h : s.Follows view init) :
    (s.haltCtxs cause l).Follows view init := by
  induction l generalizing s with
  | nil => exact h
  | cons k r ih =>
    have here : Silent view ∨ (s.ctx k).Unlinked := quiet.imp_right fun plain => plain k List.mem_cons_self
    have first : (s.haltCtx cause k).Follows view s := .haltCtx here (.refl s)
    rw [State.haltCtxs_cons]
    exact ih (quiet.imp_right fun plain j hj => (first.ctx j).unlinked (plain j (List.mem_cons_of_mem k hj))) (first.trans h)

/-- Every context of the list has halted in the end (R162). -/
theorem State.halted_haltCtxs (s : State) (cause : Nat) (l : List Nat) : ∀ k ∈ l, ((s.haltCtxs cause l).ctx k).Halted := by
  induction l generalizing s with
  | nil => exact fun _ h => absurd h List.not_mem_nil
  | cons k r ih =>
    rw [State.haltCtxs_cons]
    have rest := State.Follows.haltCtxs (cause := cause) (l := r) (.inl silent_tileCount) (.refl (s.haltCtx cause k))
    exact List.forall_mem_cons.2 ⟨(rest.ctx k).halted (s.halted_haltCtx cause k), ih _⟩

theorem State.haltCtxs_of_halted {l : List Nat} (halted : ∀ k ∈ l, (s.ctx k).Halted) (cause : Nat) : s.haltCtxs cause l = s := by
  induction l with
  | nil => rfl
  | cons k r ih =>
    obtain ⟨here, there⟩ := List.forall_mem_cons.1 halted
    rw [State.haltCtxs_cons, State.haltCtx_of_halted here, ih there]

/-- A context whose folio has been written has halted. -/
theorem State.halted_of_allWritten {ks : List Nat} (written : s.allWritten ks = true) : ∀ k ∈ ks, (s.ctx k).Halted := by
  intro k hk
  have here := List.all_eq_true.1 written k hk
  cases stop : (s.ctx k).stop with
  | some st => exact .inr (stop.trans_ne (Option.some_ne_none st))
  | none =>
    rw [stop, Bool.or_false] at here
    exact .inl (Option.isNone_iff_eq_none.1 here)

/-! ## Machine checks (R21, R173) -/

theorem State.Follows.finishCheck {u} (h : s.Follows view init) : (s.finishCheck u).Follows view init := by
  have checked : (s.setTile u { s.tile u with checking := false }).Follows view init := h.setTile rfl
  refine .ite h ?_
  split
  exacts [checked.endLaunch, checked]

/-- A state follows a machine check's alarm: the error is counted and the contexts of a list have been told to stop (R162, R173). -/
structure State.Alarmed (s a : State) (ks : List Nat) : Prop where
  follows : a.Follows HostRegs.tileCount s
  host : (∀ k ∈ ks, (s.ctx k).Unlinked) → a.host = (s.logError true).host
  halted : ∀ k ∈ ks, (a.ctx k).Halted
  written : s.allWritten ks = true → a = s.logError true

theorem State.alarmed_haltCtxs (s : State) (ks : List Nat) : s.Alarmed ((s.logError true).haltCtxs 0x15 ks) ks where
  follows := .haltCtxs (.inl silent_tileCount) (.logError silent_tileCount (.refl s))
  host plain := State.Follows.view_host (view := id) (.haltCtxs (.inr plain) (.refl (s.logError true)))
  halted := (s.logError true).halted_haltCtxs 0x15 ks
  written done := State.haltCtxs_of_halted (s := s.logError true) (State.halted_of_allWritten done) 0x15

/-- A tile taken out of service with its check to be finished, and the steward of its launch told (R21). -/
def State.strike (s : State) (u tag : Nat) : State :=
  ((s.quarantine u).setTile u { (s.quarantine u).tile u with checking := true }).launchEvent tag

variable {u : Nat}

theorem State.machineCheck_of_serving (serves : (s.tile u).inService = true) : ∃ a, s.Alarmed a (tileCtxs u) ∧
    s.machineCheck u = (a.strike u ((s.tile u).launch.getD 0)).finishCheck u :=
  ⟨_, s.alarmed_haltCtxs (tileCtxs u), if_neg (by simp [serves])⟩

theorem State.strike_tile (s : State) (u tag : Nat) :
    (s.strike u tag).tile u = { s.tile u with inService := false, quarantined := true, checking := true } := by
  have out : (s.quarantine u).tile u = { s.tile u with inService := false, quarantined := true } := State.tile_setTile s u _
  refine (State.tile_setTile ..).trans ?_
  rw [out]

theorem State.strike_launch? (s : State) (u tag t : Nat) : (s.strike u tag).launch? t = (s.launch? t).map (Launch.unplace u) :=
  assoc_map (Launch.unplace u) s.launches t

theorem State.strike_host (s : State) (u tag : Nat) : (s.strike u tag).host =
    { s.host with tileCount := s.host.tileCount - (if (s.tile u).inService then 1 else 0), msix := s.host.msix ++ [1] } := rfl

theorem State.quarantine_ctxs (s : State) (u : Nat) : (s.quarantine u).ctxs = s.ctxs := rfl

theorem State.launchEvent_ctxs (s : State) (tag : Nat) : (s.launchEvent tag).ctxs = s.ctxs := rfl

theorem State.strike_ctx (s : State) (u tag k : Nat) : (s.strike u tag).ctx k = s.ctx k := by
  simp only [State.ctx, State.strike, State.launchEvent_ctxs, State.setTile_ctxs, State.quarantine_ctxs]

theorem Launch.unplace_keeps (u : Nat) (l : Launch) : (l.unplace u).steward = l.steward ∧ (l.unplace u).state = l.state := by
  unfold Launch.unplace
  split <;> exact ⟨rfl, rfl⟩

theorem State.strike_event {tag : Nat} {l : Launch} (found : s.launch? tag = some l) :
    ((s.strike u tag).core (agentKey (1008 + l.steward % 8) 0)).event = true := by
  have known : ((s.quarantine u).setTile u { (s.quarantine u).tile u with checking := true }).launch? tag = some (l.unplace u) :=
    (s.strike_launch? u tag tag).trans (congrArg _ found)
  rw [State.strike, State.launchEvent, known, ← (l.unplace_keeps u).1]
  exact congrArg Core.event (State.core_setCore ..)

theorem State.allWritten_congr {t : State} (same : ∀ k, s.ctx k = t.ctx k) (ks : List Nat) : s.allWritten ks = t.allWritten ks := by
  simp only [State.allWritten, same]

/-- The check of a tile whose contexts' folios are written ends its launch as FAULT (R173). -/
theorem State.finishCheck_ends {tag : Nat} {l : Launch} (checking : (s.tile u).checking = true) (written : s.allWritten (tileCtxs u) = true)
    (holds : (s.tile u).launch = some tag) (found : s.launch? tag = some l) (live : l.state ≠ .ended ∧ l.state ≠ .retired) :
    ∃ l', (s.finishCheck u).launch? tag = some l' ∧ l'.state = .ended ∧ l'.status = some 3 := by
  have ends : s.finishCheck u = (s.setTile u { s.tile u with checking := false }).endLaunch tag 3 "machine check" := by
    unfold State.finishCheck
    dsimp only
    rw [if_neg (by simp [checking, written]), holds]
  rw [ends]
  exact State.endLaunch_ends (s := s.setTile u _) "machine check" found live

/-- What a machine check leaves of its tile, of the host's registers, of the contexts and of the steward's event, from the alarm on. -/
theorem State.Alarmed.struck {a t : State} {ks : List Nat} {tag : Nat} (alarmed : s.Alarmed a ks) (serves : (s.tile u).inService = true)
    (after : t.Follows id (a.strike u tag)) :
    (t.tile u).inService = false ∧ (t.tile u).quarantined = true ∧
      t.host = { a.host with tileCount := s.host.tileCount - 1, msix := a.host.msix ++ [1] } ∧ (∀ k ∈ ks, (t.ctx k).Halted) ∧
      ∀ l, s.launch? tag = some l → (t.core (agentKey (1008 + l.steward % 8) 0)).event = true := by
  have place := after.place u
  rw [State.strike_tile] at place
  have count : a.host.tileCount = s.host.tileCount := alarmed.follows.view_host
  have still : (a.tile u).inService = true := (congrArg (·.1) (alarmed.follows.place u)).trans serves
  refine ⟨congrArg (·.1) place, congrArg (·.2.1) place, ?_, fun k hk => after.halted ((a.strike_ctx u tag k).symm ▸ alarmed.halted k hk), fun l found => ?_⟩
  · have struck := after.view_host.trans (a.strike_host u tag)
    rwa [count, still, if_pos rfl] at struck
  · obtain ⟨m, known, follows⟩ := alarmed.follows.launch? found
    exact after.event_core (follows.steward ▸ State.strike_event known)

/-- The launch on a tile whose contexts' folios are written ends as FAULT in the machine check's own step. -/
theorem State.Alarmed.ends {a : State} {tag : Nat} {l : Launch} (alarmed : s.Alarmed a (tileCtxs u))
    (written : s.allWritten (tileCtxs u) = true) (holds : (s.tile u).launch = some tag) (found : s.launch? tag = some l)
    (live : l.state ≠ .ended ∧ l.state ≠ .retired) :
    ∃ l', ((a.strike u tag).finishCheck u).launch? tag = some l' ∧ l'.state = .ended ∧ l'.status = some 3 := by
  obtain rfl := alarmed.written written
  have same (k : Nat) : ((s.logError true).strike u tag).ctx k = s.ctx k :=
    (State.strike_ctx ..).trans ((s.keepsContexts_logError true).ctx k)
  refine State.finishCheck_ends (l := l.unplace u) ?_ (by rwa [State.allWritten_congr same]) ?_ ?_ ?_
  · rw [State.strike_tile]
  · rw [State.strike_tile]
    exact holds
  · rw [State.strike_launch?]
    exact congrArg _ found
  · rwa [(l.unplace_keeps u).2]

end Sys2Proof.Machine
end

section
/-!
SUPPORT. TILE_MIGRATION, MIGRATION_MARKER and FORWARDING_RETIRE, case by case (R168).
-/

namespace Sys2Proof.Machine

variable {s : State} {src dst asked core u v tag : Nat} {l : Launch}

section

variable (holds : (s.tile src).launch = some tag) (found : s.launch? tag = some l)
include holds found

theorem exec_tileMigration_of_unfrozen (open_ : (s.tile src).frozen = none) : exec (.tileMigration src asked) s =
    .next (if s.mayMigrate src asked l && s.tileFree asked then s.setTile src { s.tile src with frozen := some asked } else s) := by
  show execTileMigration src asked s = _
  simp only [execTileMigration, holds, Option.bind_some, found, Option.map_some, open_]

theorem exec_tileMigration_of_frozen (frozen : (s.tile src).frozen = some dst) : exec (.tileMigration src asked) s =
    if !s.mayMigrate src dst l then .next (s.setTile src { s.tile src with frozen := none })
    else .next (if s.allFreeze src then s.migrate tag src dst else s) := by
  show execTileMigration src asked s = _
  simp only [execTileMigration, holds, Option.bind_some, found, Option.map_some, frozen]

end

theorem exec_tileMigration_of_vacant (vacant : (s.tile src).launch = none) (open_ : (s.tile src).frozen = none) :
    exec (.tileMigration src dst) s = .next s := by
  show execTileMigration src dst s = _
  simp only [execTileMigration, vacant, Option.bind_none, open_]

theorem State.apart_of_mayMigrate (may : s.mayMigrate src dst l = true) : src ≠ dst := by
  simp only [State.mayMigrate, Bool.and_eq_true, bne_iff_ne] at may
  tauto

theorem exec_migrationMarker_of_forwarding (forward : (s.tile u).forward = some v) : exec (.migrationMarker core u) s =
    if core ∉ (s.tile u).markers ∧ ∀ m ∈ s.msgs, m.ctx.map coreOf = some core → m.dest / 4 ≠ u then
      .next (s.setTile u { s.tile u with markers := (s.tile u).markers ++ [core] })
    else .next s := by
  show execMigrationMarker core u s = _
  unfold execMigrationMarker
  refine if_congr ?_ rfl rfl
  simp [forward]

theorem exec_forwardingRetire_of_forwarding (forward : (s.tile u).forward = some v) (holds : (s.tile v).launch = some tag)
    (found : s.launch? tag = some l) : exec (.forwardingRetire u) s =
    if (∀ a ∈ l.agents, a ∈ (s.tile u).markers) ∧ ∀ m ∈ s.msgs, m.dest / 4 ≠ u then
      .next (s.setTile u { s.tile u with forward := none, markers := [] })
    else .next s := by
  show execForwardingRetire u s = _
  simp only [execForwardingRetire, forward, holds, Option.bind_some, found]
  refine if_congr ?_ rfl rfl
  simp [List.all_eq_true]

theorem exec_migrationMarker_of_unforwarding (none_ : (s.tile u).forward = none) : exec (.migrationMarker core u) s = .next s :=
  if_neg (by simp [none_])

theorem exec_forwardingRetire_of_unforwarding (none_ : (s.tile u).forward = none) : exec (.forwardingRetire u) s = .next s := by
  show execForwardingRetire u s = _
  simp only [execForwardingRetire, none_]

end Sys2Proof.Machine
end

section
/-!
The statement on tiles moved and checked.
-/

namespace Sys2Proof

open Machine

/-- Settles O47: the migration by whether the tile is frozen, whether it may be made and whether the contexts may be frozen, the move read off
its frame; marker and entry by what is still under way; the machine check from the alarm that its contexts take. -/
theorem tilesMovedAndChecked : Obligations.TilesMovedAndChecked := by
  unfold Obligations.TilesMovedAndChecked
  intro s src dst asked core u
  refine ⟨fun tag l holds found => ⟨fun open_ => ?_, fun frozen may => ?_, fun frozen may busy => ?_, fun frozen may ready => ?_⟩,
    exec_tileMigration_of_vacant, fun v forward => ⟨fun fresh clear => ?_, fun busy => ?_, fun tag l holds found => ?_⟩,
    fun none_ => ⟨exec_migrationMarker_of_unforwarding none_, exec_forwardingRetire_of_unforwarding none_⟩, fun serves => ?_, fun off => ?_⟩
  · rw [exec_tileMigration_of_unfrozen holds found open_]
    refine ⟨fun refused => ?_, fun may free => ?_⟩
    · rw [if_neg (by simpa [imp_iff_not_or] using refused)]
    · rw [if_pos (by simp [may, free])]
  · rw [exec_tileMigration_of_frozen holds found frozen, if_pos (by simp [may])]
  · have waits : s.allFreeze src = false := by simpa [State.allFreeze] using busy
    rw [exec_tileMigration_of_frozen holds found frozen, if_neg (by simp [may]), waits]
    rfl
  · have all : s.allFreeze src = true := List.all_eq_true.2 ready
    refine ⟨s.migrate tag src dst, ?_, ?_⟩
    · rw [exec_tileMigration_of_frozen holds found frozen, if_neg (by simp [may]), all, if_pos rfl]
    · rw [State.launch?_migrate found, State.tile_migrate_src found, State.tile_migrate_dst found (State.apart_of_mayMigrate may),
        State.mem_migrate found]
      refine ⟨rfl, holds, rfl, rfl, rfl, rfl, rfl, rfl, rfl, rfl, fun canonical off low => State.get_mem_moveTile canonical low,
        fun canonical i low => ?_, fun x => State.tile_migrate_other found⟩
      obtain ⟨acq, carried⟩ := State.ctx_migrate (src := src) (dst := dst) found (dst * 32 + i)
      obtain ⟨align, moved⟩ := State.ctx_moveTile (src := src) (dst := dst) canonical low
      rw [carried, moved]
      exact ⟨rfl, rfl, rfl, rfl, rfl, rfl, rfl⟩
  · rw [exec_migrationMarker_of_forwarding forward, if_pos ⟨fresh, clear⟩]
  · obtain ⟨m, hm, own, here⟩ := busy
    rw [exec_migrationMarker_of_forwarding forward, if_neg fun clear => clear.2 m hm own here]
  · rw [exec_forwardingRetire_of_forwarding forward holds found]
    refine ⟨fun passed clear => if_pos ⟨passed, clear⟩, ?_⟩
    rintro (⟨a, ha, fresh⟩ | ⟨m, hm, here⟩)
    · exact if_neg fun clear => fresh (clear.1 a ha)
    · exact if_neg fun clear => clear.2 m hm here
  · obtain ⟨a, alarmed, run⟩ := State.machineCheck_of_serving serves
    have step : exec (.machineCheck u) s = .next (s.machineCheck u) := rfl
    have after : (s.machineCheck u).Follows id (a.strike u ((s.tile u).launch.getD 0)) := by
      rw [run]
      exact .finishCheck (.refl _)
    obtain ⟨out, quarantined, host, halted, event⟩ := alarmed.struck serves after
    refine ⟨_, step, out, quarantined, by rw [host], fun plain => ?_, halted, fun tag l holds found => ?_⟩
    · rw [host, alarmed.host plain]
      exact ⟨List.append_assoc .., rfl⟩
    · rw [holds, Option.getD_some] at run event
      refine ⟨event l found, fun written notEnded notRetired => ?_⟩
      rw [run]
      exact alarmed.ends written holds found ⟨notEnded, notRetired⟩
  · show Host.Outcome.next (s.machineCheck u) = _
    rw [State.machineCheck, if_pos (by simp [off])]

end Sys2Proof
end

section
/-!
SUPPORT. The capsules that are held, the bodies built of them, and which launches an operation finds to drain (R178, R181, R183).
-/

namespace Sys2Proof.Machine

variable {s : State} {acc : Word} {c : Capsule}

/-! ## Capsules by their accession number -/

theorem State.accession_of_capsule? (found : s.capsule? acc = some c) : c.accession = acc := by
  simpa using List.find?_some found

theorem State.capsule?_congr {t : State} (same : t.capsules = s.capsules) (acc : Word) : t.capsule? acc = s.capsule? acc := by
  rw [State.capsule?, same, State.capsule?]

theorem State.capsule?_setCapsule (s : State) (c : Capsule) (acc : Word) :
    (s.setCapsule c).capsule? acc = (s.capsule? acc).map fun x => if x.accession = c.accession then c else x := by
  have same (x : Capsule) : (if x.accession = c.accession then c else x).accession = x.accession := by
    split
    · next h => exact h.symm
    · rfl
  show (s.capsules.map _).find? _ = _
  rw [List.find?_map]
  simp only [Function.comp_def, same]
  rfl

theorem State.capsule?_setCapsule_self {d : Capsule} (found : s.capsule? acc = some c) (same : d.accession = c.accession) :
    (s.setCapsule d).capsule? acc = some d := by
  rw [State.capsule?_setCapsule, found, Option.map_some, if_pos same.symm]

theorem State.capsule?_setCapsule_other {d : Capsule} (other : d.accession ≠ acc) : (s.setCapsule d).capsule? acc = s.capsule? acc := by
  rw [State.capsule?_setCapsule]
  cases found : s.capsule? acc with
  | none => rfl
  | some x => rw [Option.map_some, if_neg fun same => other (same.symm.trans (State.accession_of_capsule? found))]

/-! ## Bodies written -/

theorem State.takePages_frame (s : State) (n : Nat) : ∃ mem marks lineKey freePages pages, (s.takePages n).2 =
    { s with mem := mem, bad := marks, lineKey := lineKey, freePages := freePages, pages := pages } := by
  induction n generalizing s with
  | zero => exact ⟨_, _, _, _, _, rfl⟩
  | succ n ih =>
    obtain ⟨mem, marks, lineKey, freePages, pages, rest⟩ := ih s.allocPage.2
    refine ⟨mem, marks, lineKey, freePages, pages, rest.trans ?_⟩
    unfold State.allocPage
    split <;> rfl

theorem State.writePages_frame (s : State) (kid : Nat) (bs : List Byte) (ps : List Nat) : ∃ mem marks lineKey, s.writePages kid bs ps =
    { s with mem := mem, bad := marks, lineKey := lineKey } := by
  induction ps generalizing s bs with
  | nil => exact ⟨_, _, _, rfl⟩
  | cons p r ih =>
    obtain ⟨mem, marks, lineKey, first⟩ := s.writeBytes_frame kid p false (enumBytes (bs.take 65536))
    obtain ⟨mem, marks, lineKey, rest⟩ := ih (s.writeList kid p false (bs.take 65536)) (bs.drop 65536)
    exact ⟨mem, marks, lineKey, by rw [State.writePages, rest, State.writeList, first]⟩

/-- A body is bytes in memory, and what caches held of its pages is gone: nothing else changes (R178, R187). -/
theorem State.fillBody_frame (s : State) (c : Capsule) (b : Body) : ∃ mem marks lineKey cores clusters, s.fillBody c b =
    { s with mem := mem, bad := marks, lineKey := lineKey, cores := cores, clusters := clusters } := by
  obtain ⟨mem, marks, lineKey, written⟩ := s.writePages_frame (bodyKey s.triple) (c.bodyBytes b.values) b.pages
  exact ⟨mem, marks, lineKey, _, _, congrArg (State.dropCode · b.pages) written⟩

theorem State.fillBodies_frame (s : State) (c : Capsule) (bs : List Body) : ∃ mem marks lineKey cores clusters,
    bs.foldl (fun (s : State) b => s.fillBody c b) s =
      { s with mem := mem, bad := marks, lineKey := lineKey, cores := cores, clusters := clusters } := by
  induction bs generalizing s with
  | nil => exact ⟨_, _, _, _, _, rfl⟩
  | cons b r ih =>
    obtain ⟨_, _, _, _, _, first⟩ := s.fillBody_frame c b
    obtain ⟨mem, marks, lineKey, cores, clusters, rest⟩ := ih (s.fillBody c b)
    exact ⟨mem, marks, lineKey, cores, clusters, by rw [List.foldl_cons, rest, first]⟩

theorem State.buildBody_frame (s : State) (c : Capsule) (number : Nat) (values : List (Nat × Word)) (live : Bool) :
    ∃ b mem marks lineKey cores clusters freePages pages, s.buildBody c number values live =
      { s with bodies := s.bodies ++ [b], mem := mem, bad := marks, lineKey := lineKey, cores := cores, clusters := clusters,
               freePages := freePages, pages := pages } ∧ b.number = number ∧ b.accession = c.accession := by
  obtain ⟨_, _, _, freePages, pages, taken⟩ := s.takePages_frame ((c.bodySize + 65535) / 65536)
  unfold State.buildBody
  dsimp only
  rw [taken]
  obtain ⟨mem, marks, lineKey, cores, clusters, filled⟩ := State.fillBody_frame _ c _
  exact ⟨_, mem, marks, lineKey, cores, clusters, freePages, pages, filled, rfl, rfl⟩

theorem State.patchBody_frame (s : State) (l : Launch) (c : Capsule) : ∃ bodies mem marks lineKey cores clusters, s.patchBody l c =
    { s with bodies := bodies, mem := mem, bad := marks, lineKey := lineKey, cores := cores, clusters := clusters } := by
  unfold State.patchBody
  split
  · exact ⟨_, _, _, _, _, _, rfl⟩
  · obtain ⟨mem, marks, lineKey, cores, clusters, filled⟩ := State.fillBody_frame _ c _
    exact ⟨_, mem, marks, lineKey, cores, clusters, filled⟩

/-! ## Launches found -/

theorem State.launch?_of_mem {tag : Nat} {l : Launch} (distinct : (s.launches.map (·.1)).Nodup) (listed : (tag, l) ∈ s.launches) :
    s.launch? tag = some l := by
  obtain ⟨⟨n, m⟩, found⟩ : ∃ e, s.launches.find? (fun e => e.1 == tag) = some e :=
    Option.isSome_iff_exists.1 (List.find?_isSome.2 ⟨_, listed, beq_self_eq_true tag⟩)
  have same : n = tag := by simpa using List.find?_some found
  have here : (n, m) = (tag, l) := List.inj_on_of_nodup_map distinct (List.mem_of_find?_eq_some found) listed same
  rw [State.launch?, assoc, found, here]
  rfl

theorem State.mem_launchesUsing {tag : Nat} {l : Launch} (distinct : (s.launches.map (·.1)).Nodup) (found : s.launch? tag = some l) :
    tag ∈ s.launchesUsing acc ↔ nth 0 l.record 0 = acc := by
  constructor
  · intro named
    obtain ⟨⟨n, m⟩, listed, same⟩ := List.mem_map.1 named
    obtain ⟨held, uses⟩ := List.mem_filter.1 listed
    obtain rfl : n = tag := same
    cases found.symm.trans (State.launch?_of_mem distinct held)
    simpa [Launch.uses] using uses
  · intro uses
    exact List.mem_map.2 ⟨(tag, l), List.mem_filter.2 ⟨State.mem_of_launch? found, by simpa [Launch.uses] using uses⟩, rfl⟩

/-! ## Nothing left to drain -/

section

variable {p : Launch → Bool} (distinct : (s.launches.map (·.1)).Nodup)
  (absent : ∀ e ∈ s.launches, p e.2 = true → e.2.state ≠ .resident ∧ (e.2.state = .absent → e.2.forRebuild = true))
include distinct absent

/-- Where none is resident, the live launches are the absent ones, and those wait for the rebuild. -/
theorem State.liveLaunches_absent {tag : Nat} (live : tag ∈ s.liveLaunches p) :
    ∃ l, s.launch? tag = some l ∧ l.state = .absent ∧ l.forRebuild = true := by
  obtain ⟨⟨n, l⟩, listed, same⟩ := List.mem_map.1 live
  obtain ⟨held, alive⟩ := List.mem_filter.1 listed
  simp only [Bool.and_eq_true, Bool.or_eq_true, beq_iff_eq] at alive
  obtain ⟨here, waits⟩ := absent _ held alive.2
  obtain away := alive.1.resolve_left here
  obtain rfl : n = tag := same
  exact ⟨l, State.launch?_of_mem distinct held, away, waits away⟩

theorem State.drainWhere_eq_self : s.drainWhere p = s := by
  refine List.foldlRecOn (motive := fun t => t = s) _ _ rfl fun t still tag live => ?_
  obtain ⟨l, found, away, waits⟩ := State.liveLaunches_absent distinct absent live
  rw [still, State.drainLaunch, found]
  simp [away, waits]

theorem State.allDrained_of_absent : s.allDrained p = true := by
  refine List.all_eq_true.2 fun tag live => ?_
  obtain ⟨l, found, away, waits⟩ := State.liveLaunches_absent distinct absent live
  simp [found, away, waits]

end

end Sys2Proof.Machine
end

section
/-!
SUPPORT. What the end of launches leaves of the capsules and of every launch: function by function in the order of the model's files. Capsules
stay as they are, a launch gets a status or stands where it stood, and one that has ended keeps its reason (R94, R181).
-/

namespace Sys2Proof.Machine

variable {s init : State} {tag status : Nat} {reason : String} {l : Launch}

/-! ## What leaves the capsules, and the launches but for their counters -/

/-- The capsules that are held, and the launches. -/
structure Roster where
  capsules : List Capsule
  launch : Nat → Option Launch

def State.roster (s : State) : Roster := ⟨s.capsules, s.launch?⟩

/-- A roster without the counters of its launches (R229). -/
def Roster.uncounted (r : Roster) : Roster := { r with launch := fun tag => (r.launch tag).map Launch.uncounted }

/-- The roster is that of an earlier state, but for counters. -/
def State.KeepsRoster (s init : State) : Prop := s.roster.uncounted = init.roster.uncounted

theorem State.Undisturbed.keepsRoster (h : s.Undisturbed init) : s.KeepsRoster init :=
  congrArg (fun x : Surroundings => Roster.mk x.capsules x.launch) h

theorem State.KeepsRoster.refl (s : State) : s.KeepsRoster s := rfl

theorem State.KeepsRoster.launch (h : s.KeepsRoster init) (found : init.launch? tag = some l) :
    ∃ m, s.launch? tag = some m ∧ m.uncounted = l.uncounted := by
  have same : (s.launch? tag).map Launch.uncounted = (init.launch? tag).map Launch.uncounted := congrFun (congrArg Roster.launch h) tag
  rw [found] at same
  exact Option.map_eq_some_iff.1 same

theorem State.KeepsRoster.ite {c : Prop} [Decidable c] {s t init : State} (hs : s.KeepsRoster init) (ht : t.KeepsRoster init) :
    (if c then s else t).KeepsRoster init := by
  split <;> assumption

theorem State.KeepsRoster.foldl {α : Type} {f : State → α → State} {l : List α} (h : s.KeepsRoster init)
    (hf : ∀ t x, State.KeepsRoster t init → State.KeepsRoster (f t x) init) : (l.foldl f s).KeepsRoster init :=
  List.foldlRecOn (motive := fun t => State.KeepsRoster t init) l f h fun t ht x _ => hf t x ht

theorem State.KeepsRoster.abortSlots {m} (h : s.KeepsRoster init) : (s.abortSlots m).KeepsRoster init :=
  (State.Undisturbed.refl s).abortSlots.keepsRoster.trans h

theorem State.KeepsRoster.mergeVersions {l} (h : s.KeepsRoster init) : (s.mergeVersions l).KeepsRoster init := by
  induction l generalizing s with
  | nil => exact h
  | cons v r ih => exact ih ((State.Undisturbed.refl s).writeBytes.keepsRoster.trans h)

theorem State.KeepsRoster.commitSlot {n} (h : s.KeepsRoster init) : (s.commitSlot n).KeepsRoster init :=
  .ite h.mergeVersions h.mergeVersions

theorem State.KeepsRoster.endRegion {k} (h : s.KeepsRoster init) : (s.endRegion k).KeepsRoster init := by
  unfold State.endRegion
  split
  · exact h
  · split
    exacts [h.commitSlot, h.commitSlot, h.abortSlots]

theorem State.KeepsRoster.freeDrain {k} (h : s.KeepsRoster init) : (s.freeDrain k).KeepsRoster init := by
  unfold State.freeDrain
  split
  · split
    exacts [h, h]
  · exact h

theorem State.KeepsRoster.rest {k} (h : s.KeepsRoster init) : (s.rest k).KeepsRoster init :=
  State.KeepsRoster.freeDrain (s := s.unwait k) h

theorem State.KeepsRoster.restAll {l} (h : s.KeepsRoster init) : (s.restAll l).KeepsRoster init := by
  induction l generalizing s with
  | nil => exact h
  | cons k r ih => exact ih h.endRegion.rest

theorem State.KeepsRoster.clearResumable {k} (h : s.KeepsRoster init) : (s.clearResumable k).KeepsRoster init := by
  unfold State.clearResumable
  split
  · exact h
  · dsimp only
    split
    · exact h
    · split
      · exact h
      · split
        exacts [h, .ite h ((State.Undisturbed.refl (s.setCtx k _)).abortReaders.writeList.keepsRoster.trans h)]

theorem State.KeepsRoster.clearAllResumable {l} (h : s.KeepsRoster init) : (s.clearAllResumable l).KeepsRoster init := by
  induction l generalizing s with
  | nil => exact h
  | cons k r ih => exact ih h.clearResumable

theorem State.KeepsRoster.discardAll {l} (h : s.KeepsRoster init) : (s.discardAll l).KeepsRoster init := by
  induction l generalizing s with
  | nil => exact h
  | cons a r ih => exact ih (s := s.setCore a _) h

theorem State.KeepsRoster.forgetJob {j} (h : s.KeepsRoster init) : (s.forgetJob j).KeepsRoster init := .ite (.ite h h) (.ite h h)

theorem State.KeepsRoster.discardSubmitted {tag} (h : s.KeepsRoster init) : (s.discardSubmitted tag).KeepsRoster init :=
  .foldl h fun _ _ ht => ht.forgetJob

theorem State.KeepsRoster.discardJobs {tag l} (h : s.KeepsRoster init) : (s.discardJobs tag l).KeepsRoster init := by
  induction l generalizing s with
  | nil => exact h
  | cons e r ih => exact ih (.foldl (s := s.setCluster _ _) h fun _ _ ht => ht.forgetJob)

/-! ## What settles launches -/

/-- A launch has a status, or waits as it did; and where it had ended, its reason stays. -/
structure Launch.Settles (l old : Launch) : Prop where
  waits : l.status ≠ none ∨ (l.status = old.status ∧ l.state = old.state ∧ l.forRebuild = old.forRebuild)
  ended : old.state = .ended → l.state = .ended ∧ l.reason = old.reason

theorem Launch.Settles.refl (l : Launch) : l.Settles l := ⟨.inr ⟨rfl, rfl, rfl⟩, fun h => ⟨h, rfl⟩⟩

theorem Launch.Settles.trans {a b c : Launch} (h : a.Settles b) (g : b.Settles c) : a.Settles c := by
  refine ⟨h.waits.elim .inl fun ⟨status, state, waits⟩ => g.waits.imp status.trans_ne fun ⟨status', state', waits'⟩ =>
    ⟨status.trans status', state.trans state', waits.trans waits'⟩, fun gone => ?_⟩
  obtain ⟨still, same⟩ := g.ended gone
  exact ⟨(h.ended still).1, (h.ended still).2.trans same⟩

theorem Launch.settles_of_status {l old : Launch} (given : l.status ≠ none) (live : old.state ≠ .ended) : l.Settles old :=
  ⟨.inl given, fun gone => absurd gone live⟩

theorem Launch.settles_of_uncounted {l old : Launch} (same : l.uncounted = old.uncounted) : l.Settles old :=
  ⟨.inr ⟨(congrArg Launch.status same :), (congrArg Launch.state same :), (congrArg Launch.forRebuild same :)⟩,
    fun gone => ⟨(congrArg Launch.state same :).trans gone, (congrArg Launch.reason same :)⟩⟩

/-- The capsules are those of an earlier roster, and its launches have settled or wait as they did. -/
structure Roster.Settles (r old : Roster) : Prop where
  capsules : r.capsules = old.capsules
  launch : ∀ tag l, old.launch tag = some l → ∃ l', r.launch tag = some l' ∧ l'.Settles l

def State.Settles (s init : State) : Prop := s.roster.Settles init.roster

theorem State.Settles.launch? (h : s.Settles init) (found : init.launch? tag = some l) : ∃ l', s.launch? tag = some l' ∧ l'.Settles l :=
  h.launch tag l found

theorem State.Settles.refl (s : State) : s.Settles s := ⟨rfl, fun _ l found => ⟨l, found, .refl l⟩⟩

theorem State.Settles.trans {t u : State} (h : s.Settles t) (g : t.Settles u) : s.Settles u := by
  refine ⟨h.capsules.trans g.capsules, fun tag l found => ?_⟩
  obtain ⟨m, there, first⟩ := g.launch tag l found
  obtain ⟨n, here, second⟩ := h.launch tag m there
  exact ⟨n, here, second.trans first⟩

theorem State.KeepsRoster.settles (h : s.KeepsRoster init) : s.Settles init := by
  refine ⟨(congrArg Roster.capsules h :), fun tag l found => ?_⟩
  obtain ⟨m, here, same⟩ := h.launch found
  exact ⟨m, here, Launch.settles_of_uncounted same⟩

theorem State.settles_setLaunch {x : Launch} (found : s.launch? tag = some l) (hx : x.Settles l) : (s.setLaunch tag x).Settles s := by
  refine ⟨rfl, fun n m there => ?_⟩
  by_cases same : n = tag
  · subst same
    cases found.symm.trans there
    exact ⟨x, State.launch?_setLaunch .., hx⟩
  · exact ⟨m, (State.launch?_setLaunch_other s same x).trans there, .refl m⟩

theorem State.Settles.endNotice {job} (h : s.Settles init) : (s.endNotice tag job status).Settles init := by
  unfold State.endNotice
  split
  exacts [h, h]

theorem State.Settles.sweepBodies (h : s.Settles init) : s.sweepBodies.Settles init := h
theorem State.Settles.setJob {j x} (h : s.Settles init) : (s.setJob j x).Settles init := h

theorem State.Settles.cancelLaunch {level by_} (h : s.Settles init) : (s.cancelLaunch tag level by_).Settles init := by
  refine State.Settles.trans ?_ h
  unfold State.cancelLaunch
  split
  · exact .refl s
  · next l found =>
    have grace {x : Launch} (ks as : List Nat) (waits : x.Settles l) :
        (((((s.setLaunch tag x).clearAllResumable ks).discardAll as).discardSubmitted tag).discardJobs tag (s.setLaunch tag x).clusters).Settles s :=
      (State.KeepsRoster.refl _).clearAllResumable.discardAll.discardSubmitted.discardJobs.settles.trans (State.settles_setLaunch found waits)
    have waits {c : Cancel} : ({ l with cancel := some c, parked := [] } : Launch).Settles l :=
      ⟨.inr ⟨rfl, rfl, rfl⟩, fun gone => ⟨gone, rfl⟩⟩
    have dropped {x : Launch} (job : Nat) (given : x.status ≠ none) (live : l.state ≠ .ended) :
        ((s.setLaunch tag x).sweepBodies.endNotice tag job 1).Settles s :=
      (State.settles_setLaunch found (Launch.settles_of_status given live)).sweepBodies.endNotice
    split
    · next here => exact dropped _ (Option.some_ne_none _) (by simp [here])
    · next here => exact dropped _ (Option.some_ne_none _) (by simp [here])
    · next here => exact dropped _ (Option.some_ne_none _) (by simp [here])
    · exact grace _ _ waits
    · exact grace _ _ waits
    · exact .refl s
    · exact .refl s

theorem State.Settles.cancelLaunches {level by_ ts} (h : s.Settles init) : (s.cancelLaunches level by_ ts).Settles init := by
  induction ts generalizing s with
  | nil => exact h
  | cons t r ih => exact ih h.cancelLaunch

/-! ## A launch that ends, or is refused -/

theorem State.endLaunch_settles_ended (reason : String) (found : s.launch? tag = some l) (live : l.state ≠ .ended ∧ l.state ≠ .retired) :
    (s.endLaunch tag status reason).Settles (s.ended tag l status reason) := by
  have rest : (s.ended tag l status reason).Settles (s.ended tag l status reason) := .refl _
  unfold State.endLaunch
  rw [found]
  dsimp only
  rw [if_neg (by simp [live])]
  split
  · exact .endNotice rest
  · split
    · exact .endNotice rest
    · exact .cancelLaunches (.setJob (.endNotice rest))

theorem State.ended_settles (reason : String) (found : s.launch? tag = some l) (live : l.state ≠ .ended) :
    (s.ended tag l status reason).Settles s := by
  have stopped : ((((s.clearAllResumable l.ctxKeys).restAll l.ctxKeys).discardAll l.agents).discardSubmitted tag).KeepsRoster s :=
    (State.KeepsRoster.refl s).clearAllResumable.restAll.discardAll.discardSubmitted
  obtain ⟨m, there, same⟩ := stopped.launch found
  have alive : m.state ≠ .ended := (congrArg Launch.state same :).trans_ne live
  exact (State.settles_setLaunch there (Launch.settles_of_status (Option.some_ne_none _) alive)).trans stopped.settles

theorem State.endLaunch_settles (reason : String) (found : s.launch? tag = some l) (live : l.state ≠ .ended ∧ l.state ≠ .retired) :
    (s.endLaunch tag status reason).Settles s :=
  (State.endLaunch_settles_ended reason found live).trans (State.ended_settles reason found live.1)

theorem State.endLaunch_reason (reason : String) (found : s.launch? tag = some l) (live : l.state ≠ .ended ∧ l.state ≠ .retired) :
    ∃ l', (s.endLaunch tag status reason).launch? tag = some l' ∧ l'.state = .ended ∧ l'.status = some status ∧ l'.reason = reason := by
  obtain ⟨l', here, gone, given⟩ := State.endLaunch_ends (status := status) reason found live
  obtain ⟨m, there, settles⟩ := (State.endLaunch_settles_ended (status := status) reason found live).launch? (State.launch?_setLaunch ..)
  cases here.symm.trans there
  exact ⟨l', here, gone, given, (settles.ended rfl).2⟩

/-- A launch that is refused: it holds nothing, and has its status (R94). -/
def Launch.refused (l : Launch) (status : Nat) (reason : String) : Launch :=
  { l with state := .retired, status := some status, reason := reason, units := [], held := [], chosen := [], pools := [],
           worldKey := none, modelKeys := [] }

theorem State.refuseLaunch_cases (status : Nat) (reason : String) (found : s.launch? tag = some l) :
    s.refuseLaunch tag status reason = (s.setLaunch tag (l.refused status reason)).sweepBodies.endNotice tag l.job status ∨
      ∃ j ts, s.refuseLaunch tag status reason =
        (((s.setLaunch tag (l.refused status reason)).sweepBodies.endNotice tag l.job status).setJob l.job j).cancelLaunches 4 0 ts := by
  unfold State.refuseLaunch
  rw [found]
  dsimp only
  split
  · exact .inl rfl
  · exact .inr ⟨_, _, rfl⟩

theorem State.refuseLaunch_settles_refused (reason : String) (found : s.launch? tag = some l) :
    (s.refuseLaunch tag status reason).Settles (s.setLaunch tag (l.refused status reason)) := by
  have notified : ((s.setLaunch tag (l.refused status reason)).sweepBodies.endNotice tag l.job status).Settles
      (s.setLaunch tag (l.refused status reason)) := (State.Settles.refl (s.setLaunch tag _)).sweepBodies.endNotice
  obtain here | ⟨j, ts, here⟩ := State.refuseLaunch_cases status reason found
  · exact here ▸ notified
  · exact here ▸ notified.setJob.cancelLaunches

theorem State.refuseLaunch_settles (reason : String) (found : s.launch? tag = some l) (live : l.state ≠ .ended) :
    (s.refuseLaunch tag status reason).Settles s :=
  (State.refuseLaunch_settles_refused reason found).trans
    (State.settles_setLaunch found (Launch.settles_of_status (Option.some_ne_none _) live))

theorem State.refuseLaunch_status (reason : String) (found : s.launch? tag = some l) :
    ∃ l', (s.refuseLaunch tag status reason).launch? tag = some l' ∧ l'.status ≠ none := by
  obtain ⟨l', here, settles⟩ := (State.refuseLaunch_settles_refused (status := status) reason found).launch? (State.launch?_setLaunch ..)
  exact ⟨l', here, settles.waits.elim id fun ⟨same, _⟩ => same.trans_ne (Option.some_ne_none _)⟩

theorem State.refuseLaunch_follows {α : Type} {view : HostRegs → α} (reason : String) (found : s.launch? tag = some l)
    (live : l.state ≠ .ended) : (s.refuseLaunch tag status reason).Follows view s := by
  have put : (s.setLaunch tag (l.refused status reason)).Follows view s := State.Follows.setLaunch (.refl s) fun m there => by
    cases found.symm.trans there
    exact Launch.follows_of_live rfl live
  have notified : ((s.setLaunch tag (l.refused status reason)).sweepBodies.endNotice tag l.job status).Follows view s :=
    State.Follows.endNotice put
  obtain here | ⟨j, ts, here⟩ := State.refuseLaunch_cases status reason found
  · exact here ▸ notified
  · exact here ▸ notified.setJob.cancelLaunches

/-! ## A rebuild that has failed -/

/-- A launch waits for a rebuild: absent for it, or not yet admitted. -/
def Launch.Awaits (l : Launch) : Prop := (l.state = .absent ∧ l.forRebuild = true) ∨ l.state = .pending

theorem Launch.Settles.awaits {l old : Launch} (h : l.Settles old) (waits : old.Awaits) : l.status ≠ none ∨ l.Awaits :=
  h.waits.imp_right fun ⟨_, state, rebuild⟩ => by rwa [Launch.Awaits, state, rebuild]

theorem Launch.Settles.given {l old : Launch} (h : l.Settles old) (given : old.status ≠ none) : l.status ≠ none :=
  h.waits.elim id fun ⟨same, _⟩ => same.trans_ne given

theorem State.rebuildFailed_cases (s : State) (tag : Nat) :
    (s.rebuildFailed tag = s ∧ ∀ l, s.launch? tag = some l → ¬ l.Awaits) ∨ ∃ l, s.launch? tag = some l ∧
      ((l.state = .absent ∧ s.rebuildFailed tag = s.endLaunch tag 3 "REBUILD_FAILED") ∨
        (l.state = .pending ∧ s.rebuildFailed tag = s.refuseLaunch tag 3 "REBUILD_FAILED")) := by
  unfold State.rebuildFailed
  split
  · next l found =>
    split
    · next absent => exact .inr ⟨l, found, .inl ⟨by simpa using (Bool.and_eq_true_iff.1 absent).1, rfl⟩⟩
    · next present =>
      split
      · next pending => exact .inr ⟨l, found, .inr ⟨pending, rfl⟩⟩
      · next other =>
        refine .inl ⟨rfl, fun m there => ?_⟩
        cases found.symm.trans there
        exact not_or.2 ⟨by simpa using present, other⟩
  · next none_ => exact .inl ⟨rfl, fun l found => nomatch none_.symm.trans found⟩

theorem State.rebuildFailed_settles (s : State) (tag : Nat) : (s.rebuildFailed tag).Settles s := by
  obtain ⟨here, -⟩ | ⟨l, found, ⟨absent, here⟩ | ⟨pending, here⟩⟩ := s.rebuildFailed_cases tag
  · rw [here]
    exact .refl s
  · exact here ▸ State.endLaunch_settles _ found (by simp [absent])
  · exact here ▸ State.refuseLaunch_settles _ found (by simp [pending])

theorem State.rebuildFailed_follows {α : Type} {view : HostRegs → α} (s : State) (tag : Nat) : (s.rebuildFailed tag).Follows view s := by
  obtain ⟨here, -⟩ | ⟨l, found, ⟨_, here⟩ | ⟨pending, here⟩⟩ := s.rebuildFailed_cases tag
  · rw [here]
    exact .refl s
  · exact here ▸ (State.Follows.refl s).endLaunch
  · exact here ▸ State.refuseLaunch_follows _ found (by simp [pending])

theorem State.rebuildFailed_status (found : s.launch? tag = some l) (waits : l.Awaits) :
    ∃ l', (s.rebuildFailed tag).launch? tag = some l' ∧ l'.status ≠ none := by
  obtain ⟨-, idle⟩ | ⟨m, there, ⟨absent, here⟩ | ⟨_, here⟩⟩ := s.rebuildFailed_cases tag
  · exact absurd waits (idle l found)
  · obtain ⟨l', ends, -, given⟩ := State.endLaunch_ends (status := 3) "REBUILD_FAILED" there (by simp [absent])
    exact here ▸ ⟨l', ends, given.trans_ne (Option.some_ne_none _)⟩
  · exact here ▸ State.refuseLaunch_status _ there

theorem State.foldl_rebuildFailed_settles (s : State) (tags : List Nat) : (tags.foldl State.rebuildFailed s).Settles s :=
  List.foldlRecOn (motive := fun t => State.Settles t s) _ _ (.refl s) fun t ht tag _ => (t.rebuildFailed_settles tag).trans ht

theorem State.foldl_rebuildFailed_host (s : State) (tags : List Nat) : (tags.foldl State.rebuildFailed s).host = s.host :=
  (State.Follows.foldl (view := id) (.refl s) fun t tag ht => (t.rebuildFailed_follows tag).trans ht).view_host

/-- Each launch that waited has a status when all have been told. -/
theorem State.foldl_rebuildFailed_status {tags : List Nat} (told : tag ∈ tags) (found : s.launch? tag = some l)
    (waits : l.status ≠ none ∨ l.Awaits) : ∃ l', (tags.foldl State.rebuildFailed s).launch? tag = some l' ∧ l'.status ≠ none := by
  induction tags generalizing s l with
  | nil => cases told
  | cons n r ih =>
    obtain ⟨m, there, settles⟩ := (s.rebuildFailed_settles n).launch? found
    have waits' : m.status ≠ none ∨ m.Awaits := waits.elim (fun given => .inl (settles.given given)) settles.awaits
    obtain rfl | later := List.mem_cons.1 told
    · have given : m.status ≠ none := by
        rcases waits with given | waits
        · exact settles.given given
        · obtain ⟨l', here, given⟩ := State.rebuildFailed_status found waits
          cases there.symm.trans here
          exact given
      obtain ⟨l', here, rest⟩ := ((s.rebuildFailed tag).foldl_rebuildFailed_settles r).launch? there
      exact ⟨l', here, rest.given given⟩
    · exact ih later there waits'

end Sys2Proof.Machine
end

section
/-!
SUPPORT. The Mint's events, case by case: CAPSULE_INSTALL, CAPSULE_RETIRE, CAPSULE_EXPORT, BODY_VOID, BODY_VOID_LIVE, REBUILD_COMPLETE and
LIVE_PATCH (R178, R181 to R186).
-/

namespace Sys2Proof.Machine

variable {s : State} {acc : Word} {c : Capsule} {bytes : List Byte} {slots : List SlotValue} {tenant tag slot : Nat} {t : Tenant} {v : Word}
  {l : Launch}

/-! ## Install -/

/-- An install that answers INSTALLED has passed every check: none of them fails with status 0 (R178). -/
theorem State.installChecks_pass (passed : s.installStatus bytes slots t = 0) {check : Bool × Nat}
    (listed : check ∈ s.installChecks bytes slots t) : check.1 = true := by
  have failing : ∀ c ∈ s.installChecks bytes slots t, c.2 ≠ 0 := by simp [State.installChecks]
  unfold State.installStatus at passed
  split at passed
  · next first found => exact absurd passed (failing first (List.mem_of_find?_eq_some found))
  · next none_ => simpa using List.find?_eq_none.1 none_ check listed

theorem headerHolds_short (short : bytes.length < 64) : headerHolds bytes = false := by
  rw [headerHolds, decide_eq_false (Nat.not_le.2 short)]
  simp only [Bool.false_and]

theorem State.installStatus_short (short : bytes.length < 64) : s.installStatus bytes slots t = 2 := by
  have first : (s.installChecks bytes slots t).find? (fun check => !check.1) = some (headerHolds bytes, 2) :=
    List.find?_cons_of_pos (congrArg not (headerHolds_short short))
  unfold State.installStatus
  split
  · next check found => cases first.symm.trans found; rfl
  · next none_ => exact nomatch first.symm.trans none_

theorem State.installStatus_unsigned (only : t.signedOnly = true) (unsigned : capSigned bytes = false) :
    s.installStatus bytes slots t ≠ 0 := by
  intro passed
  have good : signatureGood t bytes = true :=
    State.installChecks_pass passed (check := (signatureGood t bytes, 1)) (by simp [State.installChecks])
  simp [signatureGood, only, unsigned] at good

/-- A number that an installed capsule has taken is taken by the same capsule (R180). -/
theorem State.holdsSame_of_held (passed : s.installStatus bytes slots t = 0) (found : s.capsule? (accessionOf bytes) = some c)
    (held : c.state ≠ .retired) : s.holdsSame bytes = true := by
  have clear : (!s.collides bytes) = true :=
    State.installChecks_pass passed (check := (!s.collides bytes, 11)) (by simp [State.installChecks])
  simp only [State.collides, found, Bool.not_eq_true', Bool.or_eq_false_iff] at clear
  simpa [State.holdsSame, found, held] using clear.2

/-- The state with a capsule new under its number, before its body is built. -/
def State.withCapsule (s : State) (c : Capsule) : State :=
  { s with capsules := s.capsules.filter (fun x => x.accession != c.accession) ++ [c] }

theorem State.capsule?_withCapsule (s : State) (c : Capsule) : (s.withCapsule c).capsule? c.accession = some c := by
  have gone : (s.capsules.filter fun x => x.accession != c.accession).find? (fun x => x.accession == c.accession) = none := by simp
  rw [State.capsule?, State.withCapsule, List.find?_append, gone]
  simp

theorem State.capsules_withCapsule (unheld : s.capsule? c.accession = none) : (s.withCapsule c).capsules = s.capsules ++ [c] := by
  rw [State.withCapsule, List.filter_eq_self.2 fun x listed => by simpa using List.find?_eq_none.1 unheld x listed]

theorem exec_capsuleInstall_refused (refused : s.installStatus bytes slots (Tbl.get {} s.vault.tenants tenant) ≠ 0) :
    exec (.capsuleInstall bytes slots tenant) s = .next (s.report
      { status := s.installStatus bytes slots (Tbl.get {} s.vault.tenants tenant), accession := 0, existing := false,
        ignored := s.listedNotes bytes slots (Tbl.get {} s.vault.tenants tenant) }) := by
  show execCapsuleInstall bytes slots tenant s = _
  rw [execCapsuleInstall, if_pos refused]

section

variable (passed : s.installStatus bytes slots (Tbl.get {} s.vault.tenants tenant) = 0)
include passed

theorem exec_capsuleInstall_held (found : s.capsule? (accessionOf bytes) = some c) (held : c.state ≠ .retired) :
    exec (.capsuleInstall bytes slots tenant) s = .next (s.report
      { status := 0, accession := accessionOf bytes, existing := true, ignored := ignoredNotes bytes }) :=
  (if_neg (not_not_intro passed)).trans (if_pos (State.holdsSame_of_held passed found held))

/-- An install of a number that no capsule holds, or a retired one, leaves the capsule with a body of its own. -/
theorem exec_capsuleInstall_new (unheld : s.holdsSame bytes = false) : ∃ t b, exec (.capsuleInstall bytes slots tenant) s = .next t ∧
    t.capsules = (s.withCapsule (s.newCapsule bytes (slots.map SlotValue.pair) tenant)).capsules ∧ t.bodies = s.bodies ++ [b] ∧
    b.accession = accessionOf bytes ∧ b.number = 0 ∧
    t.reports = s.reports ++ [{ status := 0, accession := accessionOf bytes, existing := false, ignored := ignoredNotes bytes }] := by
  obtain ⟨b, mem, marks, lineKey, cores, clusters, freePages, pages, built, number, owner⟩ :=
    (s.withCapsule (s.newCapsule bytes (slots.map SlotValue.pair) tenant)).buildBody_frame
      (s.newCapsule bytes (slots.map SlotValue.pair) tenant) 0 [] false
  have ran : exec (.capsuleInstall bytes slots tenant) s =
      .next (((s.withCapsule (s.newCapsule bytes (slots.map SlotValue.pair) tenant)).buildBody
        (s.newCapsule bytes (slots.map SlotValue.pair) tenant) 0 [] false).report
          { status := 0, accession := accessionOf bytes, existing := false, ignored := ignoredNotes bytes }) :=
    (if_neg (not_not_intro passed)).trans (if_neg (by simp [unheld]))
  rw [built] at ran
  exact ⟨_, b, ran, rfl, rfl, owner, number, rfl⟩

end

/-! ## Capsules retired, and their bytes reported -/

/-- A launch that is not retired names the capsule, by its record or by the one in memory while it waits (R181). -/
theorem State.capsuleNamed_iff : s.capsuleNamed acc = true ↔ ∃ e ∈ s.launches, e.2.state ≠ .retired ∧
    (nth 0 e.2.record 0 = acc ∨ ((e.2.state = .waiting ∨ e.2.state = .pending) ∧ s.readDword e.2.addr = acc)) := by
  simp [State.capsuleNamed, List.any_eq_true]

theorem exec_capsuleRetire_unknown (none_ : s.capsule? acc = none) :
    exec (.capsuleRetire acc) s = .next (s.report { status := -1, accession := acc, existing := false }) := by
  show execCapsuleRetire acc s = _
  rw [execCapsuleRetire, none_]

theorem exec_capsuleRetire_refused (found : s.capsule? acc = some c)
    (refused : s.capsuleNamed acc = true ∨ (c.state ≠ .ready ∧ c.state ≠ .void)) :
    exec (.capsuleRetire acc) s = .next (s.report { status := -1, accession := acc, existing := true }) := by
  show execCapsuleRetire acc s = _
  rw [execCapsuleRetire, found]
  exact if_pos (by simpa using refused)

theorem exec_capsuleRetire_made (found : s.capsule? acc = some c) (unnamed : s.capsuleNamed acc = false)
    (built : c.state = .ready ∨ c.state = .void) : ∃ t, exec (.capsuleRetire acc) s = .next t ∧
      t.capsules = (s.setCapsule { c with state := .retired }).capsules ∧ t.bodies = s.bodies.filter (fun b => b.accession != acc) := by
  show ∃ t, execCapsuleRetire acc s = .next t ∧ _
  rw [execCapsuleRetire, found]
  exact ⟨_, if_neg (by simpa [unnamed, imp_iff_not_or] using built), rfl, rfl⟩

theorem exec_capsuleExport_unknown (none_ : s.capsule? acc = none) :
    exec (.capsuleExport acc) s = .next (s.report { status := -1, accession := acc, existing := false }) := by
  show execCapsuleExport acc s = _
  rw [execCapsuleExport, none_]

theorem exec_capsuleExport_retired (found : s.capsule? acc = some c) (gone : c.state = .retired) :
    exec (.capsuleExport acc) s = .next (s.report { status := -1, accession := acc, existing := false }) := by
  show execCapsuleExport acc s = _
  rw [execCapsuleExport, found]
  exact if_pos gone

theorem exec_capsuleExport_held (found : s.capsule? acc = some c) (held : c.state ≠ .retired) :
    exec (.capsuleExport acc) s = .next (s.report { status := 0, accession := acc, existing := true, exported := c.bytes }) := by
  show execCapsuleExport acc s = _
  rw [execCapsuleExport, found]
  exact if_neg held

/-! ## Bodies voided -/

theorem exec_bodyVoid_same : exec (.bodyVoid s.triple.translator s.triple.epoch) s = .next s := if_pos (by simp)

theorem exec_bodyVoid_drained {translator epoch : Nat} (changed : translator ≠ s.triple.translator ∨ epoch ≠ s.triple.epoch)
    (distinct : (s.launches.map (·.1)).Nodup)
    (absent : ∀ e ∈ s.launches, e.2.state ≠ .resident ∧ (e.2.state = .absent → e.2.forRebuild = true)) :
    exec (.bodyVoid translator epoch) s = .next { s with
      triple := { s.triple with translator := translator, epoch := epoch },
      capsules := s.capsules.map (fun (c : Capsule) => if c.state = .ready then { c with state := .void } else c) } := by
  show execBodyVoid translator epoch s = _
  rw [execBodyVoid, if_neg (by simpa [imp_iff_not_or] using changed),
    State.drainWhere_eq_self distinct fun e listed _ => absent e listed]
  exact if_pos (State.allDrained_of_absent distinct fun e listed _ => absent e listed)

section

variable {k t0 : Nat} (asked : (s.ctx k).drainReq = some t0)
include asked

theorem exec_bodyVoidLive_early (early : s.cycle < t0 + 1048576) : exec (.bodyVoidLive k) s = .next s := by
  show execBodyVoidLive k s = _
  simp only [execBodyVoidLive, asked]
  exact if_neg (by simp [early])

theorem exec_bodyVoidLive_late (late : t0 + 1048576 ≤ s.cycle) (active : (s.ctx k).act ≠ none)
    (undrained : ∀ st, (s.ctx k).stop = some st → st.portable = false) :
    exec (.bodyVoidLive k) s = .next (s.endLaunch (s.ctx k).launch 3 "BODY_VOID_LIVE") := by
  show execBodyVoidLive k s = _
  simp only [execBodyVoidLive, asked]
  cases stopped : (s.ctx k).stop with
  | none => exact if_pos (by simp [late, Option.isSome_iff_ne_none, active])
  | some st => exact if_pos (by simp [late, Option.isSome_iff_ne_none, active, undrained st stopped])

end

/-! ## Rebuilds -/

/-- A launch that was absent for a rebuild is brought back (R183). -/
def Launch.rebuilt (l : Launch) : Launch := if l.state = .absent ∧ l.forRebuild = true then { l with forRebuild := false, returning := true } else l

theorem Launch.rebuilt_rebuilt (l : Launch) : l.rebuilt.rebuilt = l.rebuilt := by
  unfold Launch.rebuilt
  split
  · exact if_neg (by simp)
  · rfl

theorem State.rebuilt_frame (s : State) (tag : Nat) : ∃ launches, s.rebuilt tag = { s with launches := launches } := by
  unfold State.rebuilt
  split
  · split
    exacts [⟨_, rfl⟩, ⟨_, rfl⟩]
  · exact ⟨_, rfl⟩

theorem State.launch?_rebuilt (s : State) (tag n : Nat) :
    (s.rebuilt tag).launch? n = if n = tag then (s.launch? n).map Launch.rebuilt else s.launch? n := by
  cases found : s.launch? tag with
  | none =>
    simp only [State.rebuilt, found]
    split
    · next same => rw [same, found, Option.map_none]
    · rfl
  | some l =>
    have put : (s.rebuilt tag).launch? n = if n = tag then some l.rebuilt else s.launch? n := by
      simp only [State.rebuilt, found, Launch.rebuilt, Bool.and_eq_true, decide_eq_true_eq]
      split <;> split
      · next same => rw [same, State.launch?_setLaunch]
      · next other => exact State.launch?_setLaunch_other s other _
      · next same => rw [same, found]
      · rfl
    rw [put]
    split
    · next same => rw [same, found, Option.map_some]
    · rfl

theorem State.foldl_rebuilt_keeps (s : State) (tags : List Nat) :
    (tags.foldl State.rebuilt s).capsules = s.capsules ∧ (tags.foldl State.rebuilt s).bodies = s.bodies := by
  refine List.foldlRecOn (motive := fun t => State.capsules t = s.capsules ∧ State.bodies t = s.bodies) _ _ ⟨rfl, rfl⟩ fun t kept n _ => ?_
  obtain ⟨launches, returned⟩ := t.rebuilt_frame n
  rwa [returned]

theorem State.launch?_foldl_rebuilt (s : State) (tags : List Nat) (n : Nat) :
    (tags.foldl State.rebuilt s).launch? n = if n ∈ tags then (s.launch? n).map Launch.rebuilt else s.launch? n := by
  induction tags generalizing s with
  | nil => rfl
  | cons m r ih =>
    rw [List.foldl_cons, ih, State.launch?_rebuilt]
    by_cases first : n = m <;> by_cases later : n ∈ r <;> simp [first, later, Function.comp_def, Launch.rebuilt_rebuilt]

/-- A capsule with bodies of a triple (R181). -/
def Capsule.readyUnder (c : Capsule) (triple : Triple) : Capsule := { c with state := .ready, triple := triple }

section

variable (found : s.capsule? acc = some c)
include found

theorem exec_rebuildComplete_idle {ok : Bool} (other : c.state ≠ .rebuilding) : exec (.rebuildComplete acc ok) s = .next s := by
  show execRebuildComplete acc ok s = _
  rw [execRebuildComplete, found]
  exact if_pos other

variable (building : c.state = .rebuilding) (distinct : (s.launches.map (·.1)).Nodup)
  (absent : ∀ e ∈ s.launches, nth 0 e.2.record 0 = acc → e.2.state ≠ .resident ∧ (e.2.state = .absent → e.2.forRebuild = true))
include building distinct absent

/-- A rebuild whose launches have drained ends as its build did (R181, R292). -/
theorem exec_rebuildComplete_drained (ok : Bool) : exec (.rebuildComplete acc ok) s = .next (if ok then
    let t := (s.bodiesOf acc).foldl (fun (t : State) b => t.fillBody (c.readyUnder s.triple) b) (s.setCapsule (c.readyUnder s.triple))
    (t.launchesUsing acc).foldl State.rebuilt t
  else
    let t := (s.setCapsule { c with state := .void }).logReason "REBUILD_FAILED"
    (t.launchesUsing acc).foldl State.rebuildFailed t) := by
  have absent' : ∀ e ∈ s.launches, Launch.uses acc e.2 = true → e.2.state ≠ .resident ∧ (e.2.state = .absent → e.2.forRebuild = true) :=
    fun e listed uses => absent e listed (by simpa [Launch.uses] using uses)
  show execRebuildComplete acc ok s = _
  rw [execRebuildComplete, found]
  dsimp only
  rw [if_neg (not_not_intro building), State.drainWhere_eq_self distinct absent', State.allDrained_of_absent distinct absent']
  cases ok <;> rfl

theorem exec_rebuildComplete_ready : ∃ t, exec (.rebuildComplete acc true) s = .next t ∧
    t.capsule? acc = some { c with state := .ready, triple := s.triple } ∧ t.bodies = s.bodies ∧
    ∀ tag l, s.launch? tag = some l → t.launch? tag =
      some (if nth 0 l.record 0 = acc ∧ l.state = .absent then { l with forRebuild := false, returning := true } else l) := by
  have ran := exec_rebuildComplete_drained found building distinct absent true
  rw [if_pos rfl] at ran
  dsimp only at ran
  obtain ⟨mem, marks, lineKey, cores, clusters, filled⟩ :=
    (s.setCapsule (c.readyUnder s.triple)).fillBodies_frame (c.readyUnder s.triple) (s.bodiesOf acc)
  rw [filled] at ran
  refine ⟨_, ran, ?_, (State.foldl_rebuilt_keeps _ _).2, fun tag l here => ?_⟩
  · exact (State.capsule?_congr (State.foldl_rebuilt_keeps _ _).1 acc).trans (State.capsule?_setCapsule_self found rfl)
  · rw [State.launch?_foldl_rebuilt]
    show (if tag ∈ s.launchesUsing acc then (s.launch? tag).map Launch.rebuilt else s.launch? tag) = _
    rw [here]
    by_cases uses : nth 0 l.record 0 = acc
    · have waits : l.state = .absent → l.forRebuild = true := (absent _ (State.mem_of_launch? here) uses).2
      rw [if_pos ((State.mem_launchesUsing distinct here).2 uses), Option.map_some, Launch.rebuilt]
      refine congrArg some (if_congr ?_ rfl rfl)
      exact ⟨fun away => ⟨uses, away.1⟩, fun away => ⟨away.2, waits away.2⟩⟩
    · rw [if_neg (mt (State.mem_launchesUsing distinct here).1 uses), if_neg fun away => uses away.1]

theorem exec_rebuildComplete_failed : ∃ t, exec (.rebuildComplete acc false) s = .next t ∧ t.capsule? acc = some { c with state := .void } ∧
    t.host.errUncorrectable = min (s.host.errUncorrectable + 1) 0xFFFFFFFF ∧ t.host.errorLog = s.host.errorLog ++ ["REBUILD_FAILED"] ∧
    ∀ tag l, s.launch? tag = some l → nth 0 l.record 0 = acc → (l.state = .absent ∨ l.state = .pending) →
      ∃ l', t.launch? tag = some l' ∧ l'.status ≠ none := by
  have ran := exec_rebuildComplete_drained found building distinct absent false
  rw [if_neg Bool.false_ne_true] at ran
  have settles := ((s.setCapsule { c with state := .void }).logReason "REBUILD_FAILED").foldl_rebuildFailed_settles (s.launchesUsing acc)
  refine ⟨_, ran, ?_, ?_, ?_, fun tag l here uses waits => ?_⟩
  · exact (State.capsule?_congr settles.capsules acc).trans (State.capsule?_setCapsule_self found rfl)
  · rw [State.foldl_rebuildFailed_host]
    rfl
  · rw [State.foldl_rebuildFailed_host]
    rfl
  · refine State.foldl_rebuildFailed_status ((State.mem_launchesUsing distinct here).2 uses) (l := l) here (.inr (waits.imp_left fun away => ?_))
    exact ⟨away, (absent _ (State.mem_of_launch? here) uses).2 away⟩

end

/-! ## Live patches -/

theorem exec_livePatch_unknown (none_ : s.launch? tag = none) :
    exec (.livePatch tag slot v) s = .next (s.report { status := -1, accession := 0, existing := false }) := by
  show execLivePatch tag slot v s = _
  rw [execLivePatch, none_]

section

variable (found : s.launch? tag = some l) (capsule : s.capsuleOf l = some c)
include found capsule

theorem exec_livePatch_idle (idle : l.state ≠ .resident ∧ l.state ≠ .absent) :
    exec (.livePatch tag slot v) s = .next (s.report { status := -1, accession := 0, existing := false }) := by
  show execLivePatch tag slot v s = _
  simp only [execLivePatch, found, capsule]
  exact if_pos (by simp [idle])

variable (runs : l.state = .resident ∨ l.state = .absent)
include runs

theorem exec_livePatch_fixed (fixed : ∀ e, c.slots[slot]? = some e → e.when_ ≠ 2) :
    exec (.livePatch tag slot v) s = .next (s.report { status := 2, accession := 0, existing := false }) := by
  show execLivePatch tag slot v s = _
  simp only [execLivePatch, found, capsule]
  rw [if_neg (by simpa [imp_iff_not_or] using runs)]
  split
  · rfl
  · next e listed => exact if_pos (fixed e listed)

variable {e : SlotEntry} (listed : c.slots[slot]? = some e) (live : e.when_ = 2)
include listed live

theorem exec_livePatch_range (refused : slotAllows c.portable.length e v (some (l.groups, l.groupTiles)) = false) :
    exec (.livePatch tag slot v) s = .next (s.report { status := 13, accession := 0, existing := false }) := by
  show execLivePatch tag slot v s = _
  simp only [execLivePatch, found, capsule, listed]
  rw [if_neg (by simpa [imp_iff_not_or] using runs), if_neg (not_not_intro live), if_pos (by simp [refused])]

theorem exec_livePatch_made (allowed : slotAllows c.portable.length e v (some (l.groups, l.groupTiles)) = true) : ∃ t : State,
    exec (.livePatch tag slot v) s = .next t ∧ t.ctxs = s.ctxs ∧ t.reports = s.reports ++ [{ status := 0, accession := 0, existing := false }] ∧
      t.launch? tag = some { l with slotValues := setValue l.slotValues slot v } := by
  obtain ⟨bodies, mem, marks, lineKey, cores, clusters, patched⟩ :=
    (s.setLaunch tag { l with slotValues := setValue l.slotValues slot v }).patchBody_frame { l with slotValues := setValue l.slotValues slot v } c
  have ran : exec (.livePatch tag slot v) s = .next (((s.setLaunch tag { l with slotValues := setValue l.slotValues slot v }).patchBody
      { l with slotValues := setValue l.slotValues slot v } c).report { status := 0, accession := 0, existing := false }) := by
    show execLivePatch tag slot v s = _
    simp only [execLivePatch, found, capsule, listed]
    rw [if_neg (by simpa [imp_iff_not_or] using runs), if_neg (not_not_intro live), if_neg (by simp [allowed])]
  rw [patched] at ran
  exact ⟨_, ran, rfl, rfl, State.launch?_setLaunch ..⟩

end

end Sys2Proof.Machine
end

section
/-!
The statement on capsules and bodies.
-/

namespace Sys2Proof

open Machine

/-- Settles O46, clause by clause: each of the Mint's events by its cases; a rebuild by the drain that finds nothing left, and a failed one by
what the end of launches leaves of the others. -/
theorem capsulesAndBodies : Obligations.CapsulesAndBodies := by
  unfold Obligations.CapsulesAndBodies
  intro s
  refine ⟨fun bytes slots tenant => ⟨State.installStatus_short, State.installStatus_unsigned, exec_capsuleInstall_refused,
      fun passed none_ => ?_, fun c passed found gone => ?_, fun c passed found held => ?_⟩,
    fun acc => ⟨fun none_ => ⟨exec_capsuleRetire_unknown none_, exec_capsuleExport_unknown none_⟩, fun c found =>
      ⟨exec_capsuleExport_retired found, exec_capsuleExport_held found, fun refused => ?_, fun unnamed built => ?_⟩⟩,
    fun translator epoch => ⟨fun same same' => same ▸ same' ▸ exec_bodyVoid_same, exec_bodyVoid_drained⟩,
    fun k t0 l asked found => ⟨exec_bodyVoidLive_early asked, fun late active undrained notEnded notRetired => ?_⟩,
    fun acc c found => ⟨fun ok => exec_rebuildComplete_idle found, fun building distinct absent =>
      ⟨exec_rebuildComplete_ready found building distinct absent, exec_rebuildComplete_failed found building distinct absent⟩⟩,
    fun tag slot v => ⟨exec_livePatch_unknown, fun l c found capsule => ⟨fun notResident notAbsent =>
      exec_livePatch_idle found capsule ⟨notResident, notAbsent⟩, fun runs => ⟨exec_livePatch_fixed found capsule runs, fun e listed live =>
        ⟨exec_livePatch_range found capsule runs listed live, exec_livePatch_made found capsule runs listed live⟩⟩⟩⟩⟩
  · obtain ⟨t, b, ran, capsules, bodies, owner, number, reports⟩ := exec_capsuleInstall_new passed (by simp [State.holdsSame, none_])
    exact ⟨t, _, b, ran, capsules.trans (State.capsules_withCapsule none_), rfl, rfl, rfl, rfl, rfl, rfl, rfl, bodies, owner, number, reports⟩
  · obtain ⟨t, b, ran, capsules, -⟩ := exec_capsuleInstall_new passed (by simp [State.holdsSame, found, gone])
    exact ⟨t, _, ran, (State.capsule?_congr capsules _).trans (State.capsule?_withCapsule s _), rfl, rfl⟩
  · exact ⟨_, exec_capsuleInstall_held passed found held, rfl, _, rfl, rfl, rfl, rfl⟩
  · exact exec_capsuleRetire_refused found (refused.imp_left State.capsuleNamed_iff.2)
  · have free : s.capsuleNamed acc = false := by
      refine Bool.eq_false_iff.2 fun named => ?_
      obtain ⟨e, listed, held, names⟩ := State.capsuleNamed_iff.1 named
      exact held (unnamed e listed names)
    obtain ⟨t, ran, capsules, bodies⟩ := exec_capsuleRetire_made found free built
    have known (n : Word) : t.capsule? n = (s.setCapsule { c with state := .retired }).capsule? n :=
      State.capsule?_congr capsules n
    refine ⟨t, ran, (known acc).trans (State.capsule?_setCapsule_self found rfl), fun b listed => ?_, fun other apart => ?_⟩
    · rw [bodies] at listed
      simpa using (List.mem_filter.1 listed).2
    · refine (known other).trans (State.capsule?_setCapsule_other ?_)
      exact (State.accession_of_capsule? found).trans_ne (Ne.symm apart)
  · obtain ⟨l', ends⟩ := State.endLaunch_reason (status := 3) "BODY_VOID_LIVE" found ⟨notEnded, notRetired⟩
    exact ⟨_, l', exec_bodyVoidLive_late asked late active undrained, ends⟩

end Sys2Proof
end
